-- ==== Sys2Proof/Word.lean ====
section
/-! DEFINITION. The word types of the S9 and keyed tables of plain data (sparse stores are lists of key and value pairs). -/

namespace Sys2Proof

/-- The value of a scalar token, a register or an address while it is computed (R18). -/
abbrev Word := BitVec 64
/-- One instruction word (R46). -/
abbrev Word32 := BitVec 32
/-- One byte of memory. -/
abbrev Byte := BitVec 8

/-- A sparse table: keys strictly rising, an absent key holds what the reader says it holds. -/
abbrev Tab (α : Type) := List (Nat × α)

/-- The entry of key `k`. -/
def Tab.get? {α : Type} (k : Nat) : Tab α → Option α
  | [] => none
  | (j, v) :: t => if j = k then some v else Tab.get? k t

/-- The entry of key `k`, or `d`. -/
def Tab.getD {α : Type} (k : Nat) (d : α) (t : Tab α) : α := (Tab.get? k t).getD d

/-- The table with key `k` holding `v`. -/
def Tab.put {α : Type} (k : Nat) (v : α) : Tab α → Tab α
  | [] => [(k, v)]
  | (j, w) :: t =>
    if j = k then (k, v) :: t
    else if k < j then (k, v) :: (j, w) :: t
    else (j, w) :: Tab.put k v t

/-- The table without key `k`. -/
def Tab.del {α : Type} (k : Nat) : Tab α → Tab α
  | [] => []
  | (j, w) :: t => if j = k then t else (j, w) :: Tab.del k t

/-- The keys strictly rise. -/
def Tab.sorted {α : Type} : Tab α → Bool
  | [] => true
  | [_] => true
  | (j, _) :: (k, w) :: t => decide (j < k) && Tab.sorted ((k, w) :: t)

end Sys2Proof
end

