-- ==== Sys2Proof/Config.lean ====
section
/-! DEFINITION. What the part fixes (R14), and the values the spec leaves open: opaque constants, applied to a counter the
state holds or to the operands, so that nothing can be proved of the value they have. -/

namespace Sys2Proof.Config

/-- Processing elements of a package (R14). -/
def peCount : Nat := 2048
/-- Frames of a PE (R14). -/
def framesPerPe : Nat := 256
/-- Frame-store granules that hold frames (R73). -/
def frameGranules : Nat := 1984
/-- Task slots of a PE (R14). -/
def taskSlots : Nat := 16
/-- Tile-store granules of a PE (R156). -/
def tileGranules : Nat := 8192
/-- Tile slots of a PE (R157). -/
def tileSlots : Nat := 4096
/-- Requests in flight of a PE (R233). -/
def maxRequests : Nat := 512
/-- Copies in flight of a PE (R323). -/
def maxCopies : Nat := 512
/-- Lines of an atomic engine (R268). -/
def engineLines : Nat := 64
/-- Endpoint entries of a PE (R297). -/
def endpointsPerPe : Nat := 64
/-- Open channels of a die (R295). -/
def channelsPerDie : Nat := 2048
/-- Dependence entries of a die task unit (R14). -/
def depEntries : Nat := 8192
/-- Loaded objects of a package (R431). -/
def maxObjects : Nat := 4095
/-- On-chip entries of a quad queue, head and tail (R358). -/
def queueOnChip : Nat := 128
/-- Lookaside entries of a PE (R222). -/
def peTlb : Nat := 256
/-- Translation entries of a die (R222). -/
def dieTlb : Nat := 65536
/-- Segment entries of a stack controller (R278). -/
def stackSegments : Nat := 2048
/-- Segment entries of a tile store (R278). -/
def tileSegments : Nat := 16
/-- Background translation requests of a die (R426). -/
def backgroundRequests : Nat := 64
/-- Verification keys of a partition (R430). -/
def keysPerPartition : Nat := 16
/-- Configurations a PE's window holds; R424 gives only that it is at least two. -/
def windowConfigs : Nat := 2
/-- Entries of a die's entry store; R424 gives only that it is at least 256. -/
def storeEntries : Nat := 256
/-- The bytes an entry takes of the entry store, the worst case of R424. -/
def entryBytes : Nat := 32768
/-- Die revisions: 0 A0, 1 B0; a package may mix them (R1). -/
opaque dieRevision : Nat → Bool

/-- The latency on a B0 die of a divider instruction of a latency on A0 (R2, R113). -/
opaque dividerCycles : Nat → Nat

/-- A fresh free value: the k-th value the spec leaves open. -/
opaque freeWord : Nat → Word
/-- A fresh free choice: the k-th choice the spec leaves to the part. -/
opaque freeChoice : Nat → Nat
/-- Whether the Kiln finds the native code of an image well formed for a die (R4, R432): the digest, the image and the die. -/
opaque nativeWellFormed : Word → Nat → Nat → Bool
/-- The bytes of a host's native configuration after its first (R442), whose form is the part's (R4): its address and the request. -/
opaque nativeBytes : Word → Nat → Nat
/-- Whether the die power controller reports more than three-quarters of its budget in use (R363): the k-th estimate. -/
opaque overBudget : Nat → Bool
/-- How many records a queue's backing area of a size in bytes holds (R358). -/
opaque queueEntries : Nat → Nat
/-- The JX port by which the part reaches a remote package (R475), which the spec leaves to the switches. -/
opaque linkOf : Nat → Nat
/-- The device serial number (R477). -/
opaque serialNumber : List Byte
/-- The value r of the signature of the device attestation key over a digest (R477). -/
opaque attestR : List Byte → Nat
/-- The value s of the signature of the device attestation key over a digest (R477). -/
opaque attestS : List Byte → Nat
/-- The certificate chain of a slot (R473). -/
opaque certificate : Nat → List Byte
/-- The body of an SPDM response (R473) whose content the spec does not give: the request's number and its argument. -/
opaque spdmBody : Nat → Nat → List Byte
/-- A memory key the security processor draws from its random source (R474): the k-th. -/
opaque memoryKey : Nat → Nat
/-- A byte of a 64-byte granule that one memory key encrypted and another decrypts (R474): the keys, the tweak, the granule's bytes, the byte's place. -/
opaque recrypt : Nat → Nat → Nat → List Byte → Nat → Byte
/-- Whether the Kiln finds an image ill formed for a block as it installs it (R433): the digest, the image, the die and the block's address. -/
opaque imageIll : Word → Nat → Nat → Nat → Bool
/-- Whether a die whose issue rates are lowered takes no instruction in a cycle (R480), which the spec leaves to the die: the die and the cycle. -/
opaque throttled : Nat → Nat → Bool

end Sys2Proof.Config
end

