-- ==== Sys2Proof/Syntax.lean ====
section
/-! DEFINITION. The instructions of Wizar block form (R46 to R56) and the events of the machine: one constructor of
`Instr` for each row of the table of operations and events. An instruction carries its predication and targets (`Hdr`),
the fields of X and the fields of its second word; an event carries what identifies the thing it happens to. -/

namespace Sys2Proof

/-- Predication, the PR field (R47). -/
inductive Pred where
  | always | ifTrue | ifFalse
  deriving DecidableEq, Repr

/-- The operand side of a slot (R18, R48). -/
inductive Side where
  | a | b | c
  deriving DecidableEq, Repr

/-- A 9-bit target (R48): none, a write entry, or an operand slot of an instruction of the block. -/
inductive Target where
  | none
  | write (k : BitVec 5)
  | slot (side : Side) (idx : BitVec 7)
  deriving DecidableEq, Repr

/-- The fields every base word has (R46): predication and the two targets. -/
structure Hdr where
  pr : Pred
  t1 : Target
  t0 : Target
  deriving DecidableEq, Repr

/-- Conditions of CMP (R56). -/
inductive Cond where
  | eq | ne | lt | ge | ltu | geu
  deriving DecidableEq, Repr

/-- Conditions of TCMP (R56). -/
inductive TCond where
  | eq | ne | lt | ge | le | gt | un
  deriving DecidableEq, Repr

/-- Scope codes 0 to 4 (R56). -/
inductive Scope where
  | pe | quad | die | pkg | dom
  deriving DecidableEq, Repr

/-- The width of a scalar access (R56). -/
inductive Width where
  | byte | half | word | double
  deriving DecidableEq, Repr

/-- X of LD, LDR and LDPAIR: the width, and whether the value is sign-extended; a sign-extended doubleword (X = 7) is reserved. -/
structure LoadX where
  sx : Bool
  width : Width
  deriving DecidableEq, Repr

/-- The timelines (R258). -/
inductive Timeline where
  | tlc | tlm | tla | tls
  deriving DecidableEq, Repr

/-- The operations of ATOM and ATOMN (R55). -/
inductive AtomOp where
  | add | and | or | xor | min | max | minu | maxu | swap | cas
  deriving DecidableEq, Repr

/-- Kinds of CVT (R56). -/
inductive CvtKind where
  | sToF32 | sToF64 | uToF32 | uToF64 | f32ToS | f64ToS | f32ToU | f64ToU | f32ToF64 | f64ToF32 | f32ToElem | elemToF32
  deriving DecidableEq, Repr

/-- Rounding modes of the conversion word (R56, R142). -/
inductive RMode where
  | rne | rz | ru | rd | rs
  deriving DecidableEq, Repr

/-- X of MMA, MMAR and TMAC: init and the accumulator (R208). -/
structure AccX where
  init : Bool
  z : BitVec 3
  deriving DecidableEq, Repr

/-- X of SPAWN and SPAWND: placement and priority (R378). -/
structure SpawnX where
  place : BitVec 2
  prio : BitVec 2
  deriving DecidableEq, Repr

/-- The LOOP word (R106). -/
structure LoopW where
  k : BitVec 6
  cin : BitVec 7
  step : BitVec 19
  deriving DecidableEq, Repr

/-- The bit-field word of BFX and BFI (R123, R124). -/
structure BfW where
  sx : Bool
  pos : BitVec 6
  width : BitVec 6
  deriving DecidableEq, Repr

/-- The conversion word (R56). -/
structure ConvW where
  mode : RMode
  fc : BitVec 5
  deriving DecidableEq, Repr

/-- The FCSET word (R152). -/
structure FcsetW where
  fromA : Bool
  chan : BitVec 5
  scale : BitVec 8
  fmt : BitVec 4
  deriving DecidableEq, Repr

/-- The FCGET word (R153). -/
structure FcgetW where
  chan : BitVec 5
  deriving DecidableEq, Repr

/-- The TNEW word (R183). -/
structure TnewW where
  fc : BitVec 5
  rows : BitVec 4
  cols : BitVec 4
  deriving DecidableEq, Repr

/-- The accumulator word (R210). -/
structure AccW where
  clr : Bool
  mode : Bool
  z : BitVec 3
  deriving DecidableEq, Repr

/-- The ZDRAIN word (R212). -/
structure DrainW where
  fromA : Bool
  ep : Bool
  slot : BitVec 2
  fc : BitVec 5
  rows : BitVec 4
  cols : BitVec 4
  deriving DecidableEq, Repr

/-- The ring word (R215). -/
structure RingW where
  unbind : Bool
  fc : BitVec 5
  depth : BitVec 4
  ring : BitVec 3
  deriving DecidableEq, Repr

/-- The EPLOAD word (R217). -/
structure EploadW where
  slot : BitVec 2
  group : BitVec 3
  deriving DecidableEq, Repr

/-- The EPARG word (R217). -/
structure EpargW where
  arg : BitVec 3
  deriving DecidableEq, Repr

/-- The scalar memory word (R52). -/
structure MemW where
  lsid : BitVec 5
  stream : BitVec 3
  disp : BitVec 24
  deriving DecidableEq, Repr

/-- The tile memory word (R53). -/
structure TmemW where
  lsid : BitVec 5
  stream : BitVec 3
  fc : BitVec 5
  rows : BitVec 4
  cols : BitVec 4
  deriving DecidableEq, Repr

/-- The fence word (R56): the streams, and the order 1 acquire, 2 release, 3 both. -/
structure FenceW where
  streams : BitVec 8
  order : BitVec 2
  deriving DecidableEq, Repr

/-- The SBAR word (R262). -/
structure SbarW where
  src : BitVec 8
  dst : BitVec 8
  deriving DecidableEq, Repr

/-- The atomic word (R271). -/
structure AtomW where
  disp : BitVec 16
  order : BitVec 2
  dbl : Bool
  scope : Scope
  stream : BitVec 3
  deriving DecidableEq, Repr

/-- The barrier word (R290). -/
structure BarW where
  nw : Bool
  level : Scope
  deriving DecidableEq, Repr

/-- The CHOPEN word (R317). -/
structure ChopenW where
  tile : Bool
  width : BitVec 2
  fixed : Bool
  reach : Scope
  fc : BitVec 5
  units : BitVec 20
  deriving DecidableEq, Repr

/-- The CPY1 word (R343). -/
structure Cpy1W where
  wait : Bool
  len : BitVec 31
  deriving DecidableEq, Repr

/-- The CPYR word (R344). -/
structure CpyrW where
  count : BitVec 8
  rows : BitVec 4
  cols : BitVec 4
  width : BitVec 2
  wait : Bool
  ring : BitVec 3
  deriving DecidableEq, Repr

/-- A host access through a BAR (R467, R469): the function (0 the PF, p the VF of partition p), BAR0 or BAR2, the byte
offset, the number of bytes read, and the bytes written (none for a read). -/
structure HostAccess where
  fn : Nat
  bar0 : Bool
  offset : Nat
  len : Nat
  data : List Byte
  deriving DecidableEq, Repr

/-- One direction of a JX link (R475): the port, and whether it is the one that comes in. -/
structure LinkSide where
  port : Nat
  rx : Bool
  deriving DecidableEq, Repr

/-- What GET_MEASUREMENTS asks for (R473, R477): the partition of the TDI, and the measurement's index. -/
structure MeasureAsk where
  part : Nat
  index : Nat
  deriving DecidableEq, Repr

/-- The other end of an SPDM session (R473): the host, with the partition of the TDI it is bound to, or the security processor across a JX link. -/
inductive SessionEnd where
  | host (part : Nat)
  | peer (link : Nat)
  deriving DecidableEq, Repr

/-- The states the host moves the device between (R479). -/
inductive PowerState where
  | d0 | d3hot | d3cold
  deriving DecidableEq, Repr

/-- A verification key (R430): its 8-byte identifier and the two coordinates of its public point. -/
structure VerifyKey where
  ident : Word
  x : Nat
  y : Nat
  deriving DecidableEq, Repr

/-- One boot image (R478): the SHA-384 digest of its bytes, and whether its signature verifies against the key of the boot ROM. -/
structure BootImage where
  digest : List Byte
  verifies : Bool
  deriving DecidableEq, Repr

/-- The images of the four boot stages (R478); stage 4 has one image for each die. -/
structure BootImages where
  stage1 : BootImage
  stage2 : BootImage
  stage3 : BootImage
  stage4 : List BootImage
  deriving DecidableEq, Repr

/-- The instructions (R55), then the events of the machine: one constructor for each row of the table. -/
inductive Instr where
  | mov (h : Hdr)
  | const_ (h : Hdr) (w : BitVec 32)
  | constZx (h : Hdr) (w : BitVec 32)
  | consth (h : Hdr) (w : BitVec 32)
  | null_ (h : Hdr)
  | sel (h : Hdr)
  | gate (h : Hdr)
  | br (h : Hdr) (w : BitVec 32)
  | bri (h : Hdr)
  | call (h : Hdr) (w : BitVec 32)
  | calli (h : Hdr)
  | ret (h : Hdr)
  | loop (h : Hdr) (w : LoopW)
  | iter (h : Hdr)
  | carry (h : Hdr)
  | lbreak (h : Hdr)
  | add (h : Hdr)
  | addImm (h : Hdr) (w : BitVec 32)
  | sub (h : Hdr)
  | subImm (h : Hdr) (w : BitVec 32)
  | and_ (h : Hdr)
  | andImm (h : Hdr) (w : BitVec 32)
  | or_ (h : Hdr)
  | orImm (h : Hdr) (w : BitVec 32)
  | xor_ (h : Hdr)
  | xorImm (h : Hdr) (w : BitVec 32)
  | shl (h : Hdr)
  | shlImm (h : Hdr) (w : BitVec 32)
  | shr (h : Hdr)
  | shrImm (h : Hdr) (w : BitVec 32)
  | sar (h : Hdr)
  | sarImm (h : Hdr) (w : BitVec 32)
  | min_ (h : Hdr)
  | minImm (h : Hdr) (w : BitVec 32)
  | max_ (h : Hdr)
  | maxImm (h : Hdr) (w : BitVec 32)
  | minu (h : Hdr)
  | minuImm (h : Hdr) (w : BitVec 32)
  | maxu (h : Hdr)
  | maxuImm (h : Hdr) (w : BitVec 32)
  | rotl (h : Hdr)
  | rotlImm (h : Hdr) (w : BitVec 32)
  | andn (h : Hdr)
  | andnImm (h : Hdr) (w : BitVec 32)
  | orn (h : Hdr)
  | ornImm (h : Hdr) (w : BitVec 32)
  | xnor (h : Hdr)
  | xnorImm (h : Hdr) (w : BitVec 32)
  | mul (h : Hdr)
  | mulImm (h : Hdr) (w : BitVec 32)
  | mulh (h : Hdr)
  | mulhImm (h : Hdr) (w : BitVec 32)
  | mulhu (h : Hdr)
  | mulhuImm (h : Hdr) (w : BitVec 32)
  | div (h : Hdr)
  | divImm (h : Hdr) (w : BitVec 32)
  | divu (h : Hdr)
  | divuImm (h : Hdr) (w : BitVec 32)
  | rem_ (h : Hdr)
  | remImm (h : Hdr) (w : BitVec 32)
  | remu (h : Hdr)
  | remuImm (h : Hdr) (w : BitVec 32)
  | clz (h : Hdr)
  | ctz (h : Hdr)
  | popc (h : Hdr)
  | sext (h : Hdr)
  | zext (h : Hdr)
  | neg (h : Hdr)
  | not_ (h : Hdr)
  | abs_ (h : Hdr)
  | cmp (h : Hdr) (cc : Cond)
  | cmpImm (h : Hdr) (cc : Cond) (w : BitVec 32)
  | lea (h : Hdr)
  | leaImm (h : Hdr) (w : BitVec 32)
  | bfx (h : Hdr) (w : BfW)
  | bfi (h : Hdr) (w : BfW)
  | faddS (h : Hdr)
  | fsubS (h : Hdr)
  | fmulS (h : Hdr)
  | fdivS (h : Hdr)
  | fminS (h : Hdr)
  | fmaxS (h : Hdr)
  | fsqrtS (h : Hdr)
  | fabsS (h : Hdr)
  | fnegS (h : Hdr)
  | fcmpeqS (h : Hdr)
  | fcmpltS (h : Hdr)
  | fcmpleS (h : Hdr)
  | fcmpunS (h : Hdr)
  | ffmaS (h : Hdr)
  | faddD (h : Hdr)
  | fsubD (h : Hdr)
  | fmulD (h : Hdr)
  | fdivD (h : Hdr)
  | fminD (h : Hdr)
  | fmaxD (h : Hdr)
  | fsqrtD (h : Hdr)
  | fabsD (h : Hdr)
  | fnegD (h : Hdr)
  | fcmpeqD (h : Hdr)
  | fcmpltD (h : Hdr)
  | fcmpleD (h : Hdr)
  | fcmpunD (h : Hdr)
  | ffmaD (h : Hdr)
  | cvt (h : Hdr) (k : CvtKind) (w : ConvW)
  | tcvt (h : Hdr) (w : ConvW)
  | fcset (h : Hdr) (w : FcsetW)
  | fcget (h : Hdr) (w : FcgetW)
  | tamax (h : Hdr)
  | trescale (h : Hdr)
  | tadd (h : Hdr)
  | tsub (h : Hdr)
  | tmul (h : Hdr)
  | tmax (h : Hdr)
  | tmin (h : Hdr)
  | tdiv (h : Hdr)
  | tand (h : Hdr)
  | tor (h : Hdr)
  | txor (h : Hdr)
  | tneg (h : Hdr)
  | tabs (h : Hdr)
  | texp (h : Hdr)
  | tlog (h : Hdr)
  | trsqrt (h : Hdr)
  | trecip (h : Hdr)
  | ttanh (h : Hdr)
  | tsigm (h : Hdr)
  | tgelu (h : Hdr)
  | tfma (h : Hdr)
  | tsplat (h : Hdr)
  | trowb (h : Hdr)
  | tcolb (h : Hdr)
  | trsum (h : Hdr)
  | tcsum (h : Hdr)
  | trmax (h : Hdr)
  | tcmax (h : Hdr)
  | tsum (h : Hdr)
  | ttrans (h : Hdr)
  | tmask (h : Hdr)
  | tcmp (h : Hdr) (cc : TCond)
  | tsel (h : Hdr)
  | telget (h : Hdr)
  | telset (h : Hdr)
  | tnew (h : Hdr) (w : TnewW)
  | trel (h : Hdr)
  | tcopy (h : Hdr)
  | mma (h : Hdr) (x : AccX)
  | mmar (h : Hdr) (x : AccX)
  | zinit (h : Hdr) (w : AccW)
  | zclrf (h : Hdr) (w : AccW)
  | zflags (h : Hdr) (w : AccW)
  | zscale (h : Hdr) (w : AccW)
  | zload (h : Hdr) (w : AccW)
  | zdrain (h : Hdr) (z : BitVec 3) (w : DrainW)
  | tmac (h : Hdr) (x : AccX) (w : DrainW)
  | rcfg (h : Hdr) (w : RingW)
  | rpush (h : Hdr) (w : RingW)
  | rpop (h : Hdr) (w : RingW)
  | rstat (h : Hdr) (w : RingW)
  | epload (h : Hdr) (w : EploadW)
  | eparg (h : Hdr) (w : EpargW)
  | ld (h : Hdr) (x : LoadX) (w : MemW)
  | ldr (h : Hdr) (x : LoadX) (w : MemW)
  | st (h : Hdr) (x : Width) (w : MemW)
  | ldpair (h : Hdr) (x : LoadX) (w : MemW)
  | tld (h : Hdr) (w : TmemW)
  | tldr (h : Hdr) (w : TmemW)
  | tst (h : Hdr) (w : TmemW)
  | tgath (h : Hdr) (w : TmemW)
  | tscat (h : Hdr) (w : TmemW)
  | fence (h : Hdr) (sc : Scope)
  | fenceWord (h : Hdr) (sc : Scope) (w : FenceW)
  | sbar (h : Hdr) (w : SbarW)
  | tlwait (h : Hdr) (tl : Timeline)
  | tlread (h : Hdr) (tl : Timeline)
  | atom (h : Hdr) (op : AtomOp) (w : AtomW)
  | atomn (h : Hdr) (op : AtomOp) (w : AtomW)
  | acbind (h : Hdr)
  | acexpect (h : Hdr)
  | acread (h : Hdr)
  | acfree (h : Hdr)
  | barinit (h : Hdr) (w : BarW)
  | bararr (h : Hdr) (w : BarW)
  | bartry (h : Hdr) (w : BarW)
  | syncall (h : Hdr)
  | chopen (h : Hdr) (w : ChopenW)
  | chclose (h : Hdr)
  | chstat (h : Hdr)
  | chsend (h : Hdr)
  | chtrys (h : Hdr)
  | chrecv (h : Hdr)
  | chtryr (h : Hdr)
  | cpy (h : Hdr)
  | cpy1 (h : Hdr) (w : Cpy1W)
  | cpyr (h : Hdr) (w : CpyrW)
  | cpqpost (h : Hdr)
  | cpstat (h : Hdr)
  | spawn (h : Hdr) (x : SpawnX)
  | spawnd (h : Hdr) (x : SpawnX)
  | jnew (h : Hdr)
  | jdec (h : Hdr)
  | tend (h : Hdr)
  | fnew (h : Hdr)
  | fres (h : Hdr)
  | freg (h : Hdr)
  | fget (h : Hdr)
  | dqpush (h : Hdr)
  | dqpop (h : Hdr)
  | dqsteal (h : Hdr)
  | wqput (h : Hdr)
  | wqget (h : Hdr)
  | yield_ (h : Hdr)
  | srr (h : Hdr) (w : BitVec 32)
  | srw (h : Hdr) (w : BitVec 32)
  | trap (h : Hdr) (w : BitVec 32)
  | hcall (h : Hdr) (w : BitVec 32)
  | ckpt (h : Hdr)
  | remest (h : Hdr)
  | remestImm (h : Hdr) (w : BitVec 32)
  | ctxnew (h : Hdr)
  | ctxhalt (h : Hdr)
  | ctxres (h : Hdr)
  | hbeat (h : Hdr)
  | atinv (h : Hdr)
  | pwrhint (h : Hdr) (w : BitVec 32)
  | tcinv (h : Hdr)
  | tcpin (h : Hdr)
  | tcpre (h : Hdr)
  | objload (h : Hdr)
  | trace (h : Hdr)
  | mark (h : Hdr) (w : BitVec 32)
  | brk (h : Hdr)
  | cntrd (h : Hdr) (w : BitVec 32)
  | tokenDelivery (n : Nat)
  | tokenResend (n : Nat)
  | tokenParity (n : Nat)
  | splitPhaseReply (n : Nat)
  | tileRelease (n : Nat)
  | frameGrant (pe : Nat)
  | blockCommit (pe : Nat) (f : Nat)
  | frameFree (pe : Nat) (f : Nat)
  | loopIterationStart (pe : Nat) (t : Nat)
  | memoryAccessAtHome (n : Nat) (p : Nat)
  | translationWalk (n : Nat)
  | faultQueueDoorbell (n : Nat)
  | atomicEngineRequest (q : Nat) (b : Nat)
  | atomicLineFill (q : Nat) (line : Nat)
  | countMessage (n : Nat)
  | counterFire (c : Nat)
  | barrierArrival (n : Nat)
  | barrierPhaseComplete (rec : Nat)
  | barrierRelease (n : Nat)
  | channelBindRequest (n : Nat)
  | channelElement (n : Nat)
  | channelReceiveRequest (n : Nat)
  | spillReadback (ch : Nat)
  | endpointRelease (n : Nat)
  | channelCloseMessage (n : Nat)
  | xoff (n : Nat)
  | xon (n : Nat)
  | monitorExtend (d : Nat)
  | probationExpiry (d : Nat)
  | linkRetrain (link : Nat)
  | linkDown (link : Nat)
  | jxTagFailure (link : LinkSide)
  | copyStart (n : Nat)
  | copyComplete (n : Nat)
  | copyQueueDoorbell (n : Nat)
  | copyQueueRegistration (n : Nat)
  | ringHeadUpdate (n : Nat)
  | matrixOperandPacket (n : Nat)
  | accumulatorSpill (pe : Nat) (z : Nat)
  | taskPop (pe : Nat)
  | taskEnd (pe : Nat) (t : Nat)
  | joinDecrement (n : Nat)
  | futureOperation (n : Nat)
  | futurePoison (n : Nat)
  | dequeOperation (n : Nat)
  | workQueueOperation (n : Nat)
  | dependenceSubmit (n : Nat)
  | dependenceRelease (d : Nat) (e : Nat)
  | copyBack (d : Nat) (e : Nat)
  | costReport (d : Nat)
  | quadGate (q : Nat)
  | quadWake (q : Nat)
  | preempt (q : Nat)
  | haltLine (c : Nat)
  | haltComplete (c : Nat)
  | watchdog (c : Nat)
  | create (n : Nat)
  | hostReply (k : Nat) (status : Nat) (reply : Word)
  | kilnTranslate (d : Nat)
  | configLoad (pe : Nat) (addr : Nat)
  | invalidationEffect (n : Nat)
  | traceSample (c : Nat) (pe : Nat)
  | apertureSizeWrite (n : Nat)
  | pkgnoWrite (n : Nat)
  | deviceRegisterWrite (n : Nat)
  | hostBarAccess (acc : HostAccess)
  | bridgeLinkLoss
  | ownershipChange (page : Nat) (owner : Nat)
  | lockInterfaceRequest (p : Nat)
  | startInterfaceRequest (p : Nat)
  | stopInterface (p : Nat)
  | getVersion
  | getCapabilities
  | negotiateAlgorithms
  | getDigests
  | getCertificate (slot : Nat)
  | challenge (nonce : Nat)
  | getMeasurements (p : MeasureAsk) (nonce : Nat)
  | keyExchange (sess : Nat) (p : SessionEnd)
  | finish (sess : Nat)
  | keyUpdate (sess : Nat)
  | endSession (sess : Nat)
  | reset (boot : BootImages)
  | powerStateRequest (st : PowerState)
  | thermalThrottle (d : Nat)
  | thermalShutdown
  | ideIntegrityFailure (p : Nat)
  | bridgeLinkReturn
  | partitionCreation (p : Nat) (noDebug : Bool)
  | verificationKeyInstall (p : Nat) (key : VerifyKey)
  deriving DecidableEq, Repr

end Sys2Proof
end

