-- ==== Sys2Proof/WellFormed.lean ====
section
/-! DEFINITION. Well-formed instructions: the checks of R47, R57, R58 and R63 on one instruction, and the reserved values
and must-be-zero fields that its own entry names. -/

namespace Sys2Proof

/-- Both targets absent, as an instruction whose T0 and T1 are reserved must have them (R63). -/
def Hdr.noTargets (h : Hdr) : Bool := h.t1 == .none && h.t0 == .none

/-- Not predicated, as a three-input instruction must be (R58). -/
def Hdr.plain (h : Hdr) : Bool := h.pr == .always

/-- R56: a sign-extended doubleword load is the reserved X value 7. -/
def LoadX.wf (x : LoadX) : Bool := !(x.sx && x.width == .double)

/-- R123: a bit-field word with P + W above 63 is reserved in BFX. -/
def BfW.wfExtract (w : BfW) : Bool := decide (w.pos.toNat + w.width.toNat ≤ 63)

/-- R124: S is reserved in BFI. -/
def BfW.wfInsert (w : BfW) : Bool := !w.sx

/-- Only the conversions to and from elements name a channel (R149). -/
def ConvW.wfFor (w : ConvW) (k : CvtKind) : Bool := k == .f32ToElem || k == .elemToF32 || w.fc == 0

/-- R152: Format 8 to 15 is reserved; with A = 1 the Scale and Format fields are zero. -/
def FcsetW.wf (w : FcsetW) : Bool :=
  if w.fromA then w.scale == 0 && w.fmt == 0 else decide (w.fmt.toNat < 8)

/-- R212: Slot is zero when E = 0, and FC, Rows and Cols are zero when A = 1. -/
def DrainW.wf (w : DrainW) : Bool :=
  (w.ep || w.slot == 0) && (!w.fromA || (w.fc == 0 && w.rows == 0 && w.cols == 0))

/-- R215: FC and Depth are reserved in RCFG with U = 1. -/
def RingW.wfCfg (w : RingW) : Bool := !w.unbind || (w.fc == 0 && w.depth == 0)

/-- R215: U, FC and Depth are reserved in RPUSH, RPOP and RSTAT. -/
def RingW.wfUse (w : RingW) : Bool := !w.unbind && w.fc == 0 && w.depth == 0

/-- R56: at least one stream, and Order not 0. -/
def FenceW.wf (w : FenceW) : Bool := w.streams != 0 && w.order != 0

/-- R262: a From or To of zero is reserved. -/
def SbarW.wf (w : SbarW) : Bool := w.src != 0 && w.dst != 0

/-- R290: Level is a scope code 1 to 4. -/
def BarW.wf (w : BarW) : Bool := w.level != .pe

/-- R317: Width 3, reaches below `.die`, Units 0, and a nonzero Width or FC with Kind 0 are reserved. -/
def ChopenW.wf (w : ChopenW) : Bool :=
  w.width != 3 && w.reach != .pe && w.reach != .quad && w.units != 0 &&
    (w.tile || (w.width == 0 && w.fc == 0))

/-- R413: the numbers of the system registers of R391 are 0x00 to 0x15. -/
def sysRegNumber (w : BitVec 32) : Bool := decide (w.toNat ≤ 0x15)

/-- R391: the registers of access RW. -/
def sysRegWritable (w : BitVec 32) : Bool :=
  [0x03, 0x05, 0x06, 0x07, 0x08, 0x09, 0x0A, 0x0B, 0x0E, 0x13, 0x15].contains w.toNat

/-- R421: the reserved bits [15:8] of a power hint are zero and its phase kind is 0 to 3. -/
def pwrHintWf (w : BitVec 32) : Bool := w.toNat / 256 % 256 == 0 && decide (w.toNat / 16 % 16 < 4)

/-- R466: the counter number is 0 to 5. -/
def cntrdWf (w : BitVec 32) : Bool := decide (w.toNat < 6)

/-- The checks of R63 on one instruction; an event has no encoding and nothing to check. -/
def Instr.wf : Instr → Bool
  | .mov _ => true
  | .const_ _ _ => true
  | .constZx _ _ => true
  | .consth _ _ => true
  | .null_ _ => true
  | .sel _ => true
  | .gate _ => true
  | .br h _ => h.noTargets
  | .bri h => h.noTargets
  | .call h _ => h.noTargets
  | .calli h => h.noTargets
  | .ret h => h.noTargets
  | .loop _ _ => true
  | .iter h => h.noTargets
  | .carry _ => true
  | .lbreak h => h.noTargets
  | .add _ => true
  | .addImm _ _ => true
  | .sub _ => true
  | .subImm _ _ => true
  | .and_ _ => true
  | .andImm _ _ => true
  | .or_ _ => true
  | .orImm _ _ => true
  | .xor_ _ => true
  | .xorImm _ _ => true
  | .shl _ => true
  | .shlImm _ _ => true
  | .shr _ => true
  | .shrImm _ _ => true
  | .sar _ => true
  | .sarImm _ _ => true
  | .min_ _ => true
  | .minImm _ _ => true
  | .max_ _ => true
  | .maxImm _ _ => true
  | .minu _ => true
  | .minuImm _ _ => true
  | .maxu _ => true
  | .maxuImm _ _ => true
  | .rotl _ => true
  | .rotlImm _ _ => true
  | .andn _ => true
  | .andnImm _ _ => true
  | .orn _ => true
  | .ornImm _ _ => true
  | .xnor _ => true
  | .xnorImm _ _ => true
  | .mul _ => true
  | .mulImm _ _ => true
  | .mulh _ => true
  | .mulhImm _ _ => true
  | .mulhu _ => true
  | .mulhuImm _ _ => true
  | .div _ => true
  | .divImm _ _ => true
  | .divu _ => true
  | .divuImm _ _ => true
  | .rem_ _ => true
  | .remImm _ _ => true
  | .remu _ => true
  | .remuImm _ _ => true
  | .clz _ => true
  | .ctz _ => true
  | .popc _ => true
  | .sext _ => true
  | .zext _ => true
  | .neg _ => true
  | .not_ _ => true
  | .abs_ _ => true
  | .cmp _ _ => true
  | .cmpImm _ _ _ => true
  | .lea _ => true
  | .leaImm _ _ => true
  | .bfx _ w => w.wfExtract
  | .bfi h w => h.plain && w.wfInsert
  | .faddS _ => true
  | .fsubS _ => true
  | .fmulS _ => true
  | .fdivS _ => true
  | .fminS _ => true
  | .fmaxS _ => true
  | .fsqrtS _ => true
  | .fabsS _ => true
  | .fnegS _ => true
  | .fcmpeqS _ => true
  | .fcmpltS _ => true
  | .fcmpleS _ => true
  | .fcmpunS _ => true
  | .ffmaS h => h.plain
  | .faddD _ => true
  | .fsubD _ => true
  | .fmulD _ => true
  | .fdivD _ => true
  | .fminD _ => true
  | .fmaxD _ => true
  | .fsqrtD _ => true
  | .fabsD _ => true
  | .fnegD _ => true
  | .fcmpeqD _ => true
  | .fcmpltD _ => true
  | .fcmpleD _ => true
  | .fcmpunD _ => true
  | .ffmaD h => h.plain
  | .cvt _ k w => w.wfFor k
  | .tcvt _ _ => true
  | .fcset _ w => w.wf
  | .fcget _ _ => true
  | .tamax _ => true
  | .trescale _ => true
  | .tadd _ => true
  | .tsub _ => true
  | .tmul _ => true
  | .tmax _ => true
  | .tmin _ => true
  | .tdiv _ => true
  | .tand _ => true
  | .tor _ => true
  | .txor _ => true
  | .tneg _ => true
  | .tabs _ => true
  | .texp _ => true
  | .tlog _ => true
  | .trsqrt _ => true
  | .trecip _ => true
  | .ttanh _ => true
  | .tsigm _ => true
  | .tgelu _ => true
  | .tfma h => h.plain
  | .tsplat _ => true
  | .trowb _ => true
  | .tcolb _ => true
  | .trsum _ => true
  | .tcsum _ => true
  | .trmax _ => true
  | .tcmax _ => true
  | .tsum _ => true
  | .ttrans _ => true
  | .tmask _ => true
  | .tcmp _ _ => true
  | .tsel _ => true
  | .telget _ => true
  | .telset _ => true
  | .tnew _ _ => true
  | .trel _ => true
  | .tcopy _ => true
  | .mma _ _ => true
  | .mmar _ _ => true
  | .zinit _ _ => true
  | .zclrf _ w => (!w.clr && !w.mode)
  | .zflags _ w => (!w.clr && !w.mode)
  | .zscale _ w => (!w.clr && !w.mode)
  | .zload _ w => !w.clr
  | .zdrain _ _ w => w.wf
  | .tmac _ _ w => (w.wf && !w.fromA)
  | .rcfg _ w => w.wfCfg
  | .rpush _ w => w.wfUse
  | .rpop _ w => w.wfUse
  | .rstat _ w => w.wfUse
  | .epload _ _ => true
  | .eparg _ _ => true
  | .ld _ x _ => x.wf
  | .ldr _ x _ => x.wf
  | .st h _ _ => h.noTargets
  | .ldpair _ x _ => x.wf
  | .tld _ _ => true
  | .tldr _ _ => true
  | .tst h _ => h.noTargets
  | .tgath _ _ => true
  | .tscat h _ => h.noTargets
  | .fence h _ => h.noTargets
  | .fenceWord h _ w => h.noTargets && w.wf
  | .sbar h w => h.noTargets && w.wf
  | .tlwait _ _ => true
  | .tlread _ _ => true
  | .atom h op _ => (op != .cas || h.plain)
  | .atomn h op _ => (op != .cas || h.plain)
  | .acbind _ => true
  | .acexpect _ => true
  | .acread _ => true
  | .acfree h => h.noTargets
  | .barinit _ w => (w.wf && !w.nw)
  | .bararr _ w => w.wf
  | .bartry _ w => (w.wf && !w.nw)
  | .syncall _ => true
  | .chopen _ w => w.wf
  | .chclose h => h.noTargets
  | .chstat _ => true
  | .chsend _ => true
  | .chtrys _ => true
  | .chrecv _ => true
  | .chtryr _ => true
  | .cpy _ => true
  | .cpy1 _ _ => true
  | .cpyr _ w => (w.width != 3)
  | .cpqpost _ => true
  | .cpstat _ => true
  | .spawn _ _ => true
  | .spawnd _ _ => true
  | .jnew _ => true
  | .jdec _ => true
  | .tend h => h.noTargets
  | .fnew _ => true
  | .fres _ => true
  | .freg _ => true
  | .fget _ => true
  | .dqpush _ => true
  | .dqpop _ => true
  | .dqsteal _ => true
  | .wqput _ => true
  | .wqget _ => true
  | .yield_ _ => true
  | .srr _ w => sysRegNumber w
  | .srw _ w => sysRegWritable w
  | .trap h _ => h.noTargets
  | .hcall _ _ => true
  | .ckpt h => h.noTargets
  | .remest _ => true
  | .remestImm _ _ => true
  | .ctxnew _ => true
  | .ctxhalt _ => true
  | .ctxres _ => true
  | .hbeat _ => true
  | .atinv _ => true
  | .pwrhint h w => h.noTargets && pwrHintWf w
  | .tcinv _ => true
  | .tcpin _ => true
  | .tcpre _ => true
  | .objload _ => true
  | .trace _ => true
  | .mark h _ => h.noTargets
  | .brk _ => true
  | .cntrd _ w => cntrdWf w
  | .tokenDelivery _ => true
  | .tokenResend _ => true
  | .tokenParity _ => true
  | .splitPhaseReply _ => true
  | .tileRelease _ => true
  | .frameGrant _ => true
  | .blockCommit _ _ => true
  | .frameFree _ _ => true
  | .loopIterationStart _ _ => true
  | .memoryAccessAtHome _ _ => true
  | .translationWalk _ => true
  | .faultQueueDoorbell _ => true
  | .atomicEngineRequest _ _ => true
  | .atomicLineFill _ _ => true
  | .countMessage _ => true
  | .counterFire _ => true
  | .barrierArrival _ => true
  | .barrierPhaseComplete _ => true
  | .barrierRelease _ => true
  | .channelBindRequest _ => true
  | .channelElement _ => true
  | .channelReceiveRequest _ => true
  | .spillReadback _ => true
  | .endpointRelease _ => true
  | .channelCloseMessage _ => true
  | .xoff _ => true
  | .xon _ => true
  | .monitorExtend _ => true
  | .probationExpiry _ => true
  | .linkRetrain _ => true
  | .linkDown _ => true
  | .jxTagFailure _ => true
  | .copyStart _ => true
  | .copyComplete _ => true
  | .copyQueueDoorbell _ => true
  | .copyQueueRegistration _ => true
  | .ringHeadUpdate _ => true
  | .matrixOperandPacket _ => true
  | .accumulatorSpill _ _ => true
  | .taskPop _ => true
  | .taskEnd _ _ => true
  | .joinDecrement _ => true
  | .futureOperation _ => true
  | .futurePoison _ => true
  | .dequeOperation _ => true
  | .workQueueOperation _ => true
  | .dependenceSubmit _ => true
  | .dependenceRelease _ _ => true
  | .copyBack _ _ => true
  | .costReport _ => true
  | .quadGate _ => true
  | .quadWake _ => true
  | .preempt _ => true
  | .haltLine _ => true
  | .haltComplete _ => true
  | .watchdog _ => true
  | .create _ => true
  | .hostReply _ _ _ => true
  | .kilnTranslate _ => true
  | .configLoad _ _ => true
  | .invalidationEffect _ => true
  | .traceSample _ _ => true
  | .apertureSizeWrite _ => true
  | .pkgnoWrite _ => true
  | .deviceRegisterWrite _ => true
  | .hostBarAccess _ => true
  | .bridgeLinkLoss => true
  | .ownershipChange _ _ => true
  | .lockInterfaceRequest _ => true
  | .startInterfaceRequest _ => true
  | .stopInterface _ => true
  | .getVersion => true
  | .getCapabilities => true
  | .negotiateAlgorithms => true
  | .getDigests => true
  | .getCertificate _ => true
  | .challenge _ => true
  | .getMeasurements _ _ => true
  | .keyExchange _ _ => true
  | .finish _ => true
  | .keyUpdate _ => true
  | .endSession _ => true
  | .reset _ => true
  | .powerStateRequest _ => true
  | .thermalThrottle _ => true
  | .thermalShutdown => true
  | .ideIntegrityFailure _ => true
  | .bridgeLinkReturn => true
  | .partitionCreation _ _ => true
  | .verificationKeyInstall _ _ => true

end Sys2Proof
end

