-- ==== Sys2Proof/Decode.lean ====
section
/-! DEFINITION. The decoder: from the words or bytes of an instruction to an `Instr`, or to a named reason why the
encoding is not an instruction (R46 to R58, R63 to R65), and the encoder, written from the same tables. -/

namespace Sys2Proof

/-- Why an encoding is not an instruction (R63). -/
inductive Reject where
  | truncated           -- the words end before the instruction does
  | reservedOpcode      -- a reserved major opcode
  | reservedMinor       -- a reserved X value, or a reserved value of a field in X
  | reservedPred        -- PR = 11
  | reservedTarget      -- a target of kind 00 with index 33 to 127
  | secondWord          -- an I bit that R57 forbids, or a missing one
  | reservedField       -- a nonzero reserved field or a reserved value in a second word
  | illFormed           -- a rule of the instruction's own entry is broken
  | extension (n : Nat) -- extension opcode 0x78 + n (R65)
  deriving DecidableEq, Repr

/-- The words of one instruction: the base word, and the second word (zero where I = 0). -/
structure Raw where
  base : Word32
  second : Word32
  deriving DecidableEq, Repr

/-- Field [lo + len - 1 : lo] of a word. -/
def fieldOf (w lo len : Nat) : Nat := w / 2 ^ lo % 2 ^ len

/-- One bit of a word. -/
def flagOf (w lo : Nat) : Bool := w / 2 ^ lo % 2 == 1

/-- A Bool as a bit. -/
def bit (b : Bool) : Nat := if b then 1 else 0

/-- PR (R47). -/
def Pred.ofCode : Nat → Option Pred
  | 0 => some .always
  | 1 => some .ifTrue
  | 2 => some .ifFalse
  | _ => none

/-- The code of a PR value. -/
def Pred.code : Pred → Nat
  | .always => 0
  | .ifTrue => 1
  | .ifFalse => 2

/-- A 9-bit target (R48). -/
def Target.ofCode (t : Nat) : Option Target :=
  let idx := t % 128
  if t / 128 = 0 then
    if idx = 0 then some .none else if idx ≤ 32 then some (.write (BitVec.ofNat 5 (idx - 1))) else Option.none
  else if t / 128 = 1 then some (.slot .a (BitVec.ofNat 7 idx))
  else if t / 128 = 2 then some (.slot .b (BitVec.ofNat 7 idx))
  else some (.slot .c (BitVec.ofNat 7 idx))

/-- The code of a target. -/
def Target.code : Target → Nat
  | .none => 0
  | .write k => k.toNat + 1
  | .slot .a i => 128 + i.toNat
  | .slot .b i => 256 + i.toNat
  | .slot .c i => 384 + i.toNat

/-- CMP conditions (R56). -/
def Cond.ofCode : Nat → Option Cond
  | 0 => some .eq
  | 1 => some .ne
  | 2 => some .lt
  | 3 => some .ge
  | 4 => some .ltu
  | 5 => some .geu
  | _ => none

/-- The code. -/
def Cond.code : Cond → Nat
  | .eq => 0
  | .ne => 1
  | .lt => 2
  | .ge => 3
  | .ltu => 4
  | .geu => 5

/-- TCMP conditions (R56). -/
def TCond.ofCode : Nat → Option TCond
  | 0 => some .eq
  | 1 => some .ne
  | 2 => some .lt
  | 3 => some .ge
  | 4 => some .le
  | 5 => some .gt
  | 6 => some .un
  | _ => none

/-- The code. -/
def TCond.code : TCond → Nat
  | .eq => 0
  | .ne => 1
  | .lt => 2
  | .ge => 3
  | .le => 4
  | .gt => 5
  | .un => 6

/-- Scope codes (R56). -/
def Scope.ofCode : Nat → Option Scope
  | 0 => some .pe
  | 1 => some .quad
  | 2 => some .die
  | 3 => some .pkg
  | 4 => some .dom
  | _ => none

/-- The code. -/
def Scope.code : Scope → Nat
  | .pe => 0
  | .quad => 1
  | .die => 2
  | .pkg => 3
  | .dom => 4

/-- Widths (R56). -/
def Width.ofCode : Nat → Option Width
  | 0 => some .byte
  | 1 => some .half
  | 2 => some .word
  | 3 => some .double
  | _ => none

/-- The code. -/
def Width.code : Width → Nat
  | .byte => 0
  | .half => 1
  | .word => 2
  | .double => 3

/-- Timelines (R56). -/
def Timeline.ofCode : Nat → Option Timeline
  | 0 => some .tlc
  | 1 => some .tlm
  | 2 => some .tla
  | 3 => some .tls
  | _ => none

/-- The code. -/
def Timeline.code : Timeline → Nat
  | .tlc => 0
  | .tlm => 1
  | .tla => 2
  | .tls => 3

/-- Atomic operations (R55). -/
def AtomOp.ofCode : Nat → Option AtomOp
  | 0 => some .add
  | 1 => some .and
  | 2 => some .or
  | 3 => some .xor
  | 4 => some .min
  | 5 => some .max
  | 6 => some .minu
  | 7 => some .maxu
  | 8 => some .swap
  | 9 => some .cas
  | _ => none

/-- The code. -/
def AtomOp.code : AtomOp → Nat
  | .add => 0
  | .and => 1
  | .or => 2
  | .xor => 3
  | .min => 4
  | .max => 5
  | .minu => 6
  | .maxu => 7
  | .swap => 8
  | .cas => 9

/-- CVT kinds (R56). -/
def CvtKind.ofCode : Nat → Option CvtKind
  | 0 => some .sToF32
  | 1 => some .sToF64
  | 2 => some .uToF32
  | 3 => some .uToF64
  | 4 => some .f32ToS
  | 5 => some .f64ToS
  | 6 => some .f32ToU
  | 7 => some .f64ToU
  | 8 => some .f32ToF64
  | 9 => some .f64ToF32
  | 10 => some .f32ToElem
  | 11 => some .elemToF32
  | _ => none

/-- The code. -/
def CvtKind.code : CvtKind → Nat
  | .sToF32 => 0
  | .sToF64 => 1
  | .uToF32 => 2
  | .uToF64 => 3
  | .f32ToS => 4
  | .f64ToS => 5
  | .f32ToU => 6
  | .f64ToU => 7
  | .f32ToF64 => 8
  | .f64ToF32 => 9
  | .f32ToElem => 10
  | .elemToF32 => 11

/-- Rounding modes (R56). -/
def RMode.ofCode : Nat → Option RMode
  | 0 => some .rne
  | 1 => some .rz
  | 2 => some .ru
  | 3 => some .rd
  | 4 => some .rs
  | _ => none

/-- The code. -/
def RMode.code : RMode → Nat
  | .rne => 0
  | .rz => 1
  | .ru => 2
  | .rd => 3
  | .rs => 4

/-- X of a load (R56): X[3] is reserved. -/
def LoadX.ofCode (x : Nat) : Option LoadX :=
  if x < 7 then (Width.ofCode (x % 4)).map fun w => { sx := flagOf x 2, width := w } else none

/-- The code of a load's X. -/
def LoadX.code (x : LoadX) : Nat := bit x.sx * 4 + x.width.code

/-- X of MMA (R208). -/
def AccX.ofCode (x : Nat) : AccX := { init := flagOf x 3, z := BitVec.ofNat 3 x }

/-- The code of an accumulator X. -/
def AccX.code (x : AccX) : Nat := bit x.init * 8 + x.z.toNat

/-- X of SPAWN (R378). -/
def SpawnX.ofCode (x : Nat) : SpawnX := { place := BitVec.ofNat 2 (x / 4), prio := BitVec.ofNat 2 x }

/-- The code of a SPAWN X. -/
def SpawnX.code (x : SpawnX) : Nat := x.place.toNat * 4 + x.prio.toNat

/-- The word of R106; nonzero reserved bits and reserved values are refused. -/
def LoopW.ofNat (s : Nat) : Option LoopW :=
  some { k := BitVec.ofNat 6 (s / 2 ^ 26), cin := BitVec.ofNat 7 (s / 2 ^ 19), step := BitVec.ofNat 19 s }

/-- The word of R106. -/
def LoopW.toNat (w : LoopW) : Nat := w.k.toNat * 2 ^ 26 + w.cin.toNat * 2 ^ 19 + w.step.toNat

/-- The word of R123, R124; nonzero reserved bits and reserved values are refused. -/
def BfW.ofNat (s : Nat) : Option BfW :=
  if fieldOf s 13 19 == 0 then some { sx := flagOf s 12, pos := BitVec.ofNat 6 (s / 2 ^ 6), width := BitVec.ofNat 6 s } else none

/-- The word of R123, R124. -/
def BfW.toNat (w : BfW) : Nat := bit w.sx * 2 ^ 12 + w.pos.toNat * 2 ^ 6 + w.width.toNat

/-- The word of R56; nonzero reserved bits and reserved values are refused. -/
def ConvW.ofNat (s : Nat) : Option ConvW :=
  if fieldOf s 0 24 == 0 then (RMode.ofCode (fieldOf s 29 3)).map fun mode' => { mode := mode', fc := BitVec.ofNat 5 (s / 2 ^ 24) } else none

/-- The word of R56. -/
def ConvW.toNat (w : ConvW) : Nat := w.mode.code * 2 ^ 29 + w.fc.toNat * 2 ^ 24

/-- The word of R152; nonzero reserved bits and reserved values are refused. -/
def FcsetW.ofNat (s : Nat) : Option FcsetW :=
  if fieldOf s 4 4 == 0 && fieldOf s 22 10 == 0 then some { fromA := flagOf s 21, chan := BitVec.ofNat 5 (s / 2 ^ 16), scale := BitVec.ofNat 8 (s / 2 ^ 8), fmt := BitVec.ofNat 4 s } else none

/-- The word of R152. -/
def FcsetW.toNat (w : FcsetW) : Nat := bit w.fromA * 2 ^ 21 + w.chan.toNat * 2 ^ 16 + w.scale.toNat * 2 ^ 8 + w.fmt.toNat

/-- The word of R153; nonzero reserved bits and reserved values are refused. -/
def FcgetW.ofNat (s : Nat) : Option FcgetW :=
  if fieldOf s 5 27 == 0 then some { chan := BitVec.ofNat 5 s } else none

/-- The word of R153. -/
def FcgetW.toNat (w : FcgetW) : Nat := w.chan.toNat

/-- The word of R183; nonzero reserved bits and reserved values are refused. -/
def TnewW.ofNat (s : Nat) : Option TnewW :=
  if fieldOf s 13 19 == 0 then some { fc := BitVec.ofNat 5 (s / 2 ^ 8), rows := BitVec.ofNat 4 (s / 2 ^ 4), cols := BitVec.ofNat 4 s } else none

/-- The word of R183. -/
def TnewW.toNat (w : TnewW) : Nat := w.fc.toNat * 2 ^ 8 + w.rows.toNat * 2 ^ 4 + w.cols.toNat

/-- The word of R210; nonzero reserved bits and reserved values are refused. -/
def AccW.ofNat (s : Nat) : Option AccW :=
  if fieldOf s 3 3 == 0 && fieldOf s 8 24 == 0 then some { clr := flagOf s 7, mode := flagOf s 6, z := BitVec.ofNat 3 s } else none

/-- The word of R210. -/
def AccW.toNat (w : AccW) : Nat := bit w.clr * 2 ^ 7 + bit w.mode * 2 ^ 6 + w.z.toNat

/-- The word of R212; nonzero reserved bits and reserved values are refused. -/
def DrainW.ofNat (s : Nat) : Option DrainW :=
  if fieldOf s 13 1 == 0 && fieldOf s 18 14 == 0 then some { fromA := flagOf s 17, ep := flagOf s 16, slot := BitVec.ofNat 2 (s / 2 ^ 14), fc := BitVec.ofNat 5 (s / 2 ^ 8), rows := BitVec.ofNat 4 (s / 2 ^ 4), cols := BitVec.ofNat 4 s } else none

/-- The word of R212. -/
def DrainW.toNat (w : DrainW) : Nat := bit w.fromA * 2 ^ 17 + bit w.ep * 2 ^ 16 + w.slot.toNat * 2 ^ 14 + w.fc.toNat * 2 ^ 8 + w.rows.toNat * 2 ^ 4 + w.cols.toNat

/-- The word of R215; nonzero reserved bits and reserved values are refused. -/
def RingW.ofNat (s : Nat) : Option RingW :=
  if fieldOf s 3 1 == 0 && fieldOf s 14 18 == 0 then some { unbind := flagOf s 13, fc := BitVec.ofNat 5 (s / 2 ^ 8), depth := BitVec.ofNat 4 (s / 2 ^ 4), ring := BitVec.ofNat 3 s } else none

/-- The word of R215. -/
def RingW.toNat (w : RingW) : Nat := bit w.unbind * 2 ^ 13 + w.fc.toNat * 2 ^ 8 + w.depth.toNat * 2 ^ 4 + w.ring.toNat

/-- The word of R217; nonzero reserved bits and reserved values are refused. -/
def EploadW.ofNat (s : Nat) : Option EploadW :=
  if fieldOf s 5 27 == 0 then some { slot := BitVec.ofNat 2 (s / 2 ^ 3), group := BitVec.ofNat 3 s } else none

/-- The word of R217. -/
def EploadW.toNat (w : EploadW) : Nat := w.slot.toNat * 2 ^ 3 + w.group.toNat

/-- The word of R217; nonzero reserved bits and reserved values are refused. -/
def EpargW.ofNat (s : Nat) : Option EpargW :=
  if fieldOf s 3 29 == 0 then some { arg := BitVec.ofNat 3 s } else none

/-- The word of R217. -/
def EpargW.toNat (w : EpargW) : Nat := w.arg.toNat

/-- The word of R52; nonzero reserved bits and reserved values are refused. -/
def MemW.ofNat (s : Nat) : Option MemW :=
  some { lsid := BitVec.ofNat 5 (s / 2 ^ 27), stream := BitVec.ofNat 3 (s / 2 ^ 24), disp := BitVec.ofNat 24 s }

/-- The word of R52. -/
def MemW.toNat (w : MemW) : Nat := w.lsid.toNat * 2 ^ 27 + w.stream.toNat * 2 ^ 24 + w.disp.toNat

/-- The word of R53; nonzero reserved bits and reserved values are refused. -/
def TmemW.ofNat (s : Nat) : Option TmemW :=
  if fieldOf s 0 11 == 0 then some { lsid := BitVec.ofNat 5 (s / 2 ^ 27), stream := BitVec.ofNat 3 (s / 2 ^ 24), fc := BitVec.ofNat 5 (s / 2 ^ 19), rows := BitVec.ofNat 4 (s / 2 ^ 15), cols := BitVec.ofNat 4 (s / 2 ^ 11) } else none

/-- The word of R53. -/
def TmemW.toNat (w : TmemW) : Nat := w.lsid.toNat * 2 ^ 27 + w.stream.toNat * 2 ^ 24 + w.fc.toNat * 2 ^ 19 + w.rows.toNat * 2 ^ 15 + w.cols.toNat * 2 ^ 11

/-- The word of R56; nonzero reserved bits and reserved values are refused. -/
def FenceW.ofNat (s : Nat) : Option FenceW :=
  if fieldOf s 10 22 == 0 then some { streams := BitVec.ofNat 8 (s / 2 ^ 2), order := BitVec.ofNat 2 s } else none

/-- The word of R56. -/
def FenceW.toNat (w : FenceW) : Nat := w.streams.toNat * 2 ^ 2 + w.order.toNat

/-- The word of R262; nonzero reserved bits and reserved values are refused. -/
def SbarW.ofNat (s : Nat) : Option SbarW :=
  if fieldOf s 16 16 == 0 then some { src := BitVec.ofNat 8 (s / 2 ^ 8), dst := BitVec.ofNat 8 s } else none

/-- The word of R262. -/
def SbarW.toNat (w : SbarW) : Nat := w.src.toNat * 2 ^ 8 + w.dst.toNat

/-- The word of R271; nonzero reserved bits and reserved values are refused. -/
def AtomW.ofNat (s : Nat) : Option AtomW :=
  if fieldOf s 0 3 == 0 && fieldOf s 12 4 == 0 then (Scope.ofCode (fieldOf s 6 3)).map fun scope' => { disp := BitVec.ofNat 16 (s / 2 ^ 16), order := BitVec.ofNat 2 (s / 2 ^ 10), dbl := flagOf s 9, scope := scope', stream := BitVec.ofNat 3 (s / 2 ^ 3) } else none

/-- The word of R271. -/
def AtomW.toNat (w : AtomW) : Nat := w.disp.toNat * 2 ^ 16 + w.order.toNat * 2 ^ 10 + bit w.dbl * 2 ^ 9 + w.scope.code * 2 ^ 6 + w.stream.toNat * 2 ^ 3

/-- The word of R290; nonzero reserved bits and reserved values are refused. -/
def BarW.ofNat (s : Nat) : Option BarW :=
  if fieldOf s 4 28 == 0 then (Scope.ofCode (fieldOf s 0 3)).map fun level' => { nw := flagOf s 3, level := level' } else none

/-- The word of R290. -/
def BarW.toNat (w : BarW) : Nat := bit w.nw * 2 ^ 3 + w.level.code

/-- The word of R317; nonzero reserved bits and reserved values are refused. -/
def ChopenW.ofNat (s : Nat) : Option ChopenW :=
  (Scope.ofCode (fieldOf s 25 3)).map fun reach' => { tile := flagOf s 31, width := BitVec.ofNat 2 (s / 2 ^ 29), fixed := flagOf s 28, reach := reach', fc := BitVec.ofNat 5 (s / 2 ^ 20), units := BitVec.ofNat 20 s }

/-- The word of R317. -/
def ChopenW.toNat (w : ChopenW) : Nat := bit w.tile * 2 ^ 31 + w.width.toNat * 2 ^ 29 + bit w.fixed * 2 ^ 28 + w.reach.code * 2 ^ 25 + w.fc.toNat * 2 ^ 20 + w.units.toNat

/-- The word of R343; nonzero reserved bits and reserved values are refused. -/
def Cpy1W.ofNat (s : Nat) : Option Cpy1W :=
  some { wait := flagOf s 31, len := BitVec.ofNat 31 s }

/-- The word of R343. -/
def Cpy1W.toNat (w : Cpy1W) : Nat := bit w.wait * 2 ^ 31 + w.len.toNat

/-- The word of R344; nonzero reserved bits and reserved values are refused. -/
def CpyrW.ofNat (s : Nat) : Option CpyrW :=
  if fieldOf s 3 10 == 0 then some { count := BitVec.ofNat 8 (s / 2 ^ 24), rows := BitVec.ofNat 4 (s / 2 ^ 20), cols := BitVec.ofNat 4 (s / 2 ^ 16), width := BitVec.ofNat 2 (s / 2 ^ 14), wait := flagOf s 13, ring := BitVec.ofNat 3 s } else none

/-- The word of R344. -/
def CpyrW.toNat (w : CpyrW) : Nat := w.count.toNat * 2 ^ 24 + w.rows.toNat * 2 ^ 20 + w.cols.toNat * 2 ^ 16 + w.width.toNat * 2 ^ 14 + bit w.wait * 2 ^ 13 + w.ring.toNat

/-- An instruction without a second word (R57). -/
def bare (i : Nat) (k : Instr) : Except Reject Instr := if i = 0 then .ok k else .error .secondWord

/-- An instruction with a required immediate word (R51, R57). -/
def withImm (i s : Nat) (k : BitVec 32 → Instr) : Except Reject Instr :=
  if i = 1 then .ok (k (BitVec.ofNat 32 s)) else .error .secondWord

/-- An instruction whose optional immediate replaces operand b (R50). -/
def optImm (i s : Nat) (k : Instr) (m : BitVec 32 → Instr) : Except Reject Instr :=
  if i = 0 then .ok k else .ok (m (BitVec.ofNat 32 s))

/-- An instruction with an own second word (R50, R57). -/
def withWord {α : Type} (i : Nat) (w : Option α) (k : α → Instr) : Except Reject Instr :=
  if i = 1 then
    match w with
    | some v => .ok (k v)
    | none => .error .reservedField
  else .error .secondWord

/-- An instruction whose X holds a field; a reserved value of it is refused. -/
def minorField {α : Type} (x : Option α) (k : α → Except Reject Instr) : Except Reject Instr :=
  match x with
  | some v => k v
  | none => .error .reservedMinor

/-- Opcodes 0x00 to 0x0F of the opcode grid (R55). -/
def decodeScalar (op i x s : Nat) (h : Hdr) : Except Reject Instr :=
  if op = 0x00 then
    if x = 0 then bare i (.mov h)
    else .error .reservedMinor
  else if op = 0x01 then
    if x = 0 then withImm i s (.const_ h)
    else if x = 1 then withImm i s (.constZx h)
    else if x = 2 then withImm i s (.consth h)
    else .error .reservedMinor
  else if op = 0x02 then
    if x = 0 then bare i (.null_ h)
    else .error .reservedMinor
  else if op = 0x03 then
    if x = 0 then bare i (.sel h)
    else .error .reservedMinor
  else if op = 0x04 then
    if x = 0 then bare i (.gate h)
    else .error .reservedMinor
  else if op = 0x05 then
    if x = 0 then withImm i s (.br h)
    else if x = 1 then bare i (.bri h)
    else if x = 2 then withImm i s (.call h)
    else if x = 3 then bare i (.calli h)
    else if x = 4 then bare i (.ret h)
    else .error .reservedMinor
  else if op = 0x06 then
    if x = 0 then withWord i (LoopW.ofNat s) (.loop h)
    else if x = 1 then bare i (.iter h)
    else if x = 2 then bare i (.carry h)
    else if x = 3 then bare i (.lbreak h)
    else .error .reservedMinor
  else if op = 0x08 then
    if x = 0 then optImm i s (.add h) (.addImm h)
    else if x = 1 then optImm i s (.sub h) (.subImm h)
    else if x = 2 then optImm i s (.and_ h) (.andImm h)
    else if x = 3 then optImm i s (.or_ h) (.orImm h)
    else if x = 4 then optImm i s (.xor_ h) (.xorImm h)
    else if x = 5 then optImm i s (.shl h) (.shlImm h)
    else if x = 6 then optImm i s (.shr h) (.shrImm h)
    else if x = 7 then optImm i s (.sar h) (.sarImm h)
    else if x = 8 then optImm i s (.min_ h) (.minImm h)
    else if x = 9 then optImm i s (.max_ h) (.maxImm h)
    else if x = 10 then optImm i s (.minu h) (.minuImm h)
    else if x = 11 then optImm i s (.maxu h) (.maxuImm h)
    else if x = 12 then optImm i s (.rotl h) (.rotlImm h)
    else if x = 13 then optImm i s (.andn h) (.andnImm h)
    else if x = 14 then optImm i s (.orn h) (.ornImm h)
    else if x = 15 then optImm i s (.xnor h) (.xnorImm h)
    else .error .reservedMinor
  else if op = 0x09 then
    if x = 0 then optImm i s (.mul h) (.mulImm h)
    else if x = 1 then optImm i s (.mulh h) (.mulhImm h)
    else if x = 2 then optImm i s (.mulhu h) (.mulhuImm h)
    else if x = 3 then optImm i s (.div h) (.divImm h)
    else if x = 4 then optImm i s (.divu h) (.divuImm h)
    else if x = 5 then optImm i s (.rem_ h) (.remImm h)
    else if x = 6 then optImm i s (.remu h) (.remuImm h)
    else .error .reservedMinor
  else if op = 0x0A then
    if x = 0 then bare i (.clz h)
    else if x = 1 then bare i (.ctz h)
    else if x = 2 then bare i (.popc h)
    else if x = 3 then bare i (.sext h)
    else if x = 4 then bare i (.zext h)
    else if x = 5 then bare i (.neg h)
    else if x = 6 then bare i (.not_ h)
    else if x = 7 then bare i (.abs_ h)
    else .error .reservedMinor
  else if op = 0x0B then
    minorField (Cond.ofCode x) fun v => optImm i s (.cmp h v) (.cmpImm h v)
  else if op = 0x0C then
    if x = 0 then optImm i s (.lea h) (.leaImm h)
    else if x = 1 then withWord i (BfW.ofNat s) (.bfx h)
    else if x = 2 then withWord i (BfW.ofNat s) (.bfi h)
    else .error .reservedMinor
  else if op = 0x0D then
    if x = 0 then bare i (.faddS h)
    else if x = 1 then bare i (.fsubS h)
    else if x = 2 then bare i (.fmulS h)
    else if x = 3 then bare i (.fdivS h)
    else if x = 4 then bare i (.fminS h)
    else if x = 5 then bare i (.fmaxS h)
    else if x = 6 then bare i (.fsqrtS h)
    else if x = 7 then bare i (.fabsS h)
    else if x = 8 then bare i (.fnegS h)
    else if x = 9 then bare i (.fcmpeqS h)
    else if x = 10 then bare i (.fcmpltS h)
    else if x = 11 then bare i (.fcmpleS h)
    else if x = 12 then bare i (.fcmpunS h)
    else if x = 13 then bare i (.ffmaS h)
    else .error .reservedMinor
  else if op = 0x0E then
    if x = 0 then bare i (.faddD h)
    else if x = 1 then bare i (.fsubD h)
    else if x = 2 then bare i (.fmulD h)
    else if x = 3 then bare i (.fdivD h)
    else if x = 4 then bare i (.fminD h)
    else if x = 5 then bare i (.fmaxD h)
    else if x = 6 then bare i (.fsqrtD h)
    else if x = 7 then bare i (.fabsD h)
    else if x = 8 then bare i (.fnegD h)
    else if x = 9 then bare i (.fcmpeqD h)
    else if x = 10 then bare i (.fcmpltD h)
    else if x = 11 then bare i (.fcmpleD h)
    else if x = 12 then bare i (.fcmpunD h)
    else if x = 13 then bare i (.ffmaD h)
    else .error .reservedMinor
  else .error .reservedOpcode

/-- Opcodes 0x10 to 0x1F of the opcode grid (R55). -/
def decodeTile (op i x s : Nat) (h : Hdr) : Except Reject Instr :=
  if op = 0x10 then
    minorField (CvtKind.ofCode x) fun v => withWord i (ConvW.ofNat s) (.cvt h v)
  else if op = 0x11 then
    if x = 0 then withWord i (ConvW.ofNat s) (.tcvt h)
    else .error .reservedMinor
  else if op = 0x12 then
    if x = 0 then withWord i (FcsetW.ofNat s) (.fcset h)
    else if x = 1 then withWord i (FcgetW.ofNat s) (.fcget h)
    else .error .reservedMinor
  else if op = 0x13 then
    if x = 0 then bare i (.tamax h)
    else if x = 1 then bare i (.trescale h)
    else .error .reservedMinor
  else if op = 0x14 then
    if x = 0 then bare i (.tadd h)
    else if x = 1 then bare i (.tsub h)
    else if x = 2 then bare i (.tmul h)
    else if x = 3 then bare i (.tmax h)
    else if x = 4 then bare i (.tmin h)
    else if x = 5 then bare i (.tdiv h)
    else if x = 6 then bare i (.tand h)
    else if x = 7 then bare i (.tor h)
    else if x = 8 then bare i (.txor h)
    else .error .reservedMinor
  else if op = 0x15 then
    if x = 0 then bare i (.tneg h)
    else if x = 1 then bare i (.tabs h)
    else if x = 2 then bare i (.texp h)
    else if x = 3 then bare i (.tlog h)
    else if x = 4 then bare i (.trsqrt h)
    else if x = 5 then bare i (.trecip h)
    else if x = 6 then bare i (.ttanh h)
    else if x = 7 then bare i (.tsigm h)
    else if x = 8 then bare i (.tgelu h)
    else .error .reservedMinor
  else if op = 0x16 then
    if x = 0 then bare i (.tfma h)
    else .error .reservedMinor
  else if op = 0x17 then
    if x = 0 then bare i (.tsplat h)
    else if x = 1 then bare i (.trowb h)
    else if x = 2 then bare i (.tcolb h)
    else .error .reservedMinor
  else if op = 0x18 then
    if x = 0 then bare i (.trsum h)
    else if x = 1 then bare i (.tcsum h)
    else if x = 2 then bare i (.trmax h)
    else if x = 3 then bare i (.tcmax h)
    else if x = 4 then bare i (.tsum h)
    else .error .reservedMinor
  else if op = 0x19 then
    if x = 0 then bare i (.ttrans h)
    else if x = 1 then bare i (.tmask h)
    else .error .reservedMinor
  else if op = 0x1A then
    minorField (TCond.ofCode x) fun v => bare i (.tcmp h v)
  else if op = 0x1B then
    if x = 0 then bare i (.tsel h)
    else .error .reservedMinor
  else if op = 0x1C then
    if x = 0 then bare i (.telget h)
    else if x = 1 then bare i (.telset h)
    else .error .reservedMinor
  else if op = 0x1D then
    if x = 0 then withWord i (TnewW.ofNat s) (.tnew h)
    else if x = 1 then bare i (.trel h)
    else if x = 2 then bare i (.tcopy h)
    else .error .reservedMinor
  else .error .reservedOpcode

/-- Opcodes 0x20 to 0x27 of the opcode grid (R55). -/
def decodeMatrix (op i x s : Nat) (h : Hdr) : Except Reject Instr :=
  if op = 0x20 then
    bare i (.mma h (AccX.ofCode x))
  else if op = 0x21 then
    bare i (.mmar h (AccX.ofCode x))
  else if op = 0x22 then
    if x = 0 then withWord i (AccW.ofNat s) (.zinit h)
    else if x = 1 then withWord i (AccW.ofNat s) (.zclrf h)
    else if x = 2 then withWord i (AccW.ofNat s) (.zflags h)
    else if x = 3 then withWord i (AccW.ofNat s) (.zscale h)
    else if x = 4 then withWord i (AccW.ofNat s) (.zload h)
    else .error .reservedMinor
  else if op = 0x23 then
    if x < 8 then withWord i (DrainW.ofNat s) (.zdrain h (BitVec.ofNat 3 x)) else .error .reservedMinor
  else if op = 0x24 then
    if x = 0 then withWord i (RingW.ofNat s) (.rcfg h)
    else if x = 1 then withWord i (RingW.ofNat s) (.rpush h)
    else if x = 2 then withWord i (RingW.ofNat s) (.rpop h)
    else if x = 3 then withWord i (RingW.ofNat s) (.rstat h)
    else .error .reservedMinor
  else if op = 0x25 then
    if x = 0 then withWord i (EploadW.ofNat s) (.epload h)
    else if x = 1 then withWord i (EpargW.ofNat s) (.eparg h)
    else .error .reservedMinor
  else .error .reservedOpcode

/-- Opcodes 0x28 to 0x2F of the opcode grid (R55). -/
def decodeMemory (op i x s : Nat) (h : Hdr) : Except Reject Instr :=
  if op = 0x28 then
    minorField (LoadX.ofCode x) fun v => withWord i (MemW.ofNat s) (.ld h v)
  else if op = 0x29 then
    minorField (LoadX.ofCode x) fun v => withWord i (MemW.ofNat s) (.ldr h v)
  else if op = 0x2A then
    minorField (Width.ofCode x) fun v => withWord i (MemW.ofNat s) (.st h v)
  else if op = 0x2B then
    if x = 0 then withWord i (TmemW.ofNat s) (.tld h)
    else .error .reservedMinor
  else if op = 0x2C then
    if x = 0 then withWord i (TmemW.ofNat s) (.tldr h)
    else .error .reservedMinor
  else if op = 0x2D then
    if x = 0 then withWord i (TmemW.ofNat s) (.tst h)
    else .error .reservedMinor
  else if op = 0x2E then
    if x = 0 then withWord i (TmemW.ofNat s) (.tgath h)
    else .error .reservedMinor
  else if op = 0x2F then
    if x = 0 then withWord i (TmemW.ofNat s) (.tscat h)
    else .error .reservedMinor
  else .error .reservedOpcode

/-- Opcodes 0x30 to 0x37 of the opcode grid (R55). -/
def decodeSync (op i x s : Nat) (h : Hdr) : Except Reject Instr :=
  if op = 0x30 then
    if x < 8 then minorField (Scope.ofCode x) fun v => bare i (.fence h v)
    else minorField (Scope.ofCode (x - 8)) fun v => withWord i (FenceW.ofNat s) (.fenceWord h v)
  else if op = 0x31 then
    if x = 0 then withWord i (SbarW.ofNat s) (.sbar h)
    else .error .reservedMinor
  else if op = 0x32 then
    if x % 4 = 0 then minorField (Timeline.ofCode (x / 4)) fun v => bare i (.tlwait h v)
    else if x % 4 = 1 then minorField (Timeline.ofCode (x / 4)) fun v => bare i (.tlread h v)
    else .error .reservedMinor
  else if op = 0x34 then
    minorField (AtomOp.ofCode x) fun v => withWord i (AtomW.ofNat s) (.atom h v)
  else if op = 0x35 then
    minorField (AtomOp.ofCode x) fun v => withWord i (AtomW.ofNat s) (.atomn h v)
  else if op = 0x36 then
    if x = 0 then bare i (.acbind h)
    else if x = 1 then bare i (.acexpect h)
    else if x = 2 then bare i (.acread h)
    else if x = 3 then bare i (.acfree h)
    else .error .reservedMinor
  else if op = 0x37 then
    if x = 0 then withWord i (BarW.ofNat s) (.barinit h)
    else if x = 1 then withWord i (BarW.ofNat s) (.bararr h)
    else if x = 2 then withWord i (BarW.ofNat s) (.bartry h)
    else .error .reservedMinor
  else .error .reservedOpcode

/-- Opcodes 0x38 to 0x3F of the opcode grid (R55). -/
def decodeChan (op i x s : Nat) (h : Hdr) : Except Reject Instr :=
  if op = 0x38 then
    if x = 0 then withWord i (ChopenW.ofNat s) (.chopen h)
    else if x = 1 then bare i (.chclose h)
    else if x = 2 then bare i (.chstat h)
    else .error .reservedMinor
  else if op = 0x39 then
    if x = 0 then bare i (.chsend h)
    else if x = 1 then bare i (.chtrys h)
    else .error .reservedMinor
  else if op = 0x3A then
    if x = 0 then bare i (.chrecv h)
    else if x = 1 then bare i (.chtryr h)
    else .error .reservedMinor
  else if op = 0x3C then
    if x = 0 then bare i (.cpy h)
    else .error .reservedMinor
  else if op = 0x3D then
    if x = 0 then withWord i (Cpy1W.ofNat s) (.cpy1 h)
    else .error .reservedMinor
  else if op = 0x3E then
    if x = 0 then withWord i (CpyrW.ofNat s) (.cpyr h)
    else .error .reservedMinor
  else if op = 0x3F then
    if x = 0 then bare i (.cpqpost h)
    else if x = 1 then bare i (.cpstat h)
    else .error .reservedMinor
  else .error .reservedOpcode

/-- Opcodes 0x40 to 0x47 of the opcode grid (R55). -/
def decodeTask (op i x _s : Nat) (h : Hdr) : Except Reject Instr :=
  if op = 0x40 then
    bare i (.spawn h (SpawnX.ofCode x))
  else if op = 0x41 then
    bare i (.spawnd h (SpawnX.ofCode x))
  else if op = 0x42 then
    if x = 0 then bare i (.jnew h)
    else if x = 1 then bare i (.jdec h)
    else .error .reservedMinor
  else if op = 0x43 then
    if x = 0 then bare i (.tend h)
    else .error .reservedMinor
  else if op = 0x44 then
    if x = 0 then bare i (.fnew h)
    else if x = 1 then bare i (.fres h)
    else if x = 2 then bare i (.freg h)
    else if x = 3 then bare i (.fget h)
    else .error .reservedMinor
  else if op = 0x45 then
    if x = 0 then bare i (.dqpush h)
    else if x = 1 then bare i (.dqpop h)
    else if x = 2 then bare i (.dqsteal h)
    else .error .reservedMinor
  else if op = 0x46 then
    if x = 0 then bare i (.wqput h)
    else if x = 1 then bare i (.wqget h)
    else .error .reservedMinor
  else if op = 0x47 then
    if x = 0 then bare i (.yield_ h)
    else .error .reservedMinor
  else .error .reservedOpcode

/-- Opcodes 0x48 to 0x53 of the opcode grid (R55). -/
def decodeSystem (op i x s : Nat) (h : Hdr) : Except Reject Instr :=
  if op = 0x48 then
    if x = 0 then withImm i s (.srr h)
    else if x = 1 then withImm i s (.srw h)
    else .error .reservedMinor
  else if op = 0x49 then
    if x = 0 then withImm i s (.trap h)
    else if x = 1 then withImm i s (.hcall h)
    else .error .reservedMinor
  else if op = 0x4A then
    if x = 0 then bare i (.ckpt h)
    else .error .reservedMinor
  else if op = 0x4B then
    if x = 0 then optImm i s (.remest h) (.remestImm h)
    else .error .reservedMinor
  else if op = 0x4C then
    if x = 0 then bare i (.ctxnew h)
    else if x = 1 then bare i (.ctxhalt h)
    else if x = 2 then bare i (.ctxres h)
    else .error .reservedMinor
  else if op = 0x4D then
    if x = 0 then bare i (.hbeat h)
    else .error .reservedMinor
  else if op = 0x4E then
    if x = 0 then bare i (.atinv h)
    else .error .reservedMinor
  else if op = 0x4F then
    if x = 0 then withImm i s (.pwrhint h)
    else .error .reservedMinor
  else if op = 0x50 then
    if x = 0 then bare i (.tcinv h)
    else if x = 1 then bare i (.tcpin h)
    else if x = 2 then bare i (.tcpre h)
    else .error .reservedMinor
  else if op = 0x51 then
    if x = 0 then bare i (.objload h)
    else .error .reservedMinor
  else if op = 0x52 then
    if x = 0 then bare i (.trace h)
    else if x = 1 then withImm i s (.mark h)
    else .error .reservedMinor
  else if op = 0x53 then
    if x = 0 then bare i (.brk h)
    else if x = 1 then withImm i s (.cntrd h)
    else .error .reservedMinor
  else .error .reservedOpcode

/-- Opcodes 0x70 to 0x72 of the opcode grid (R55). -/
def decodeOld (op i x s : Nat) (h : Hdr) : Except Reject Instr :=
  if op = 0x70 then
    withWord i (DrainW.ofNat s) (.tmac h (AccX.ofCode x))
  else if op = 0x71 then
    minorField (LoadX.ofCode x) fun v => withWord i (MemW.ofNat s) (.ldpair h v)
  else if op = 0x72 then
    if x = 0 then bare i (.syncall h)
    else .error .reservedMinor
  else .error .reservedOpcode

/-- The instruction of an opcode, its I bit, X, targets and second word, before the checks of its entry. -/
def decodeOp (op i x s : Nat) (h : Hdr) : Except Reject Instr :=
  if op < 0x10 then decodeScalar op i x s h
  else if op < 0x20 then decodeTile op i x s h
  else if op < 0x28 then decodeMatrix op i x s h
  else if op < 0x30 then decodeMemory op i x s h
  else if op < 0x38 then decodeSync op i x s h
  else if op < 0x40 then decodeChan op i x s h
  else if op < 0x48 then decodeTask op i x s h
  else if op < 0x54 then decodeSystem op i x s h
  else if op < 0x70 then .error .reservedOpcode
  else if op < 0x73 then decodeOld op i x s h
  else if 0x78 ≤ op ∧ op < 0x7F then .error (.extension (op - 0x78))
  else .error .reservedOpcode

/-- PR and the two targets of a base word (R46 to R48). -/
def decodeHdr (b : Nat) : Except Reject Hdr :=
  match Pred.ofCode (fieldOf b 22 2) with
  | none => .error .reservedPred
  | some p =>
    match Target.ofCode (fieldOf b 9 9), Target.ofCode (fieldOf b 0 9) with
    | some u, some t => .ok { pr := p, t1 := u, t0 := t }
    | _, _ => .error .reservedTarget

/-- The I bit of a base word: a second word follows. -/
def Raw.hasSecond (base : Word32) : Bool := flagOf base.toNat 24

/-- The decoder (R46, R55 to R58, R63). -/
def decodeRaw (r : Raw) : Except Reject Instr :=
  let b := r.base.toNat
  match decodeHdr b with
  | .error e =>
    -- an opcode that is no instruction is refused as such whatever its other fields hold (R49, R65)
    match decodeOp (fieldOf b 25 7) (fieldOf b 24 1) (fieldOf b 18 4) r.second.toNat { pr := .always, t1 := .none, t0 := .none } with
    | .error (.extension n) => .error (.extension n)
    | .error .reservedOpcode => .error .reservedOpcode
    | _ => .error e
  | .ok h =>
    match decodeOp (fieldOf b 25 7) (fieldOf b 24 1) (fieldOf b 18 4) r.second.toNat h with
    | .error e => .error e
    | .ok i => if i.wf then .ok i else .error .illFormed

/-- The first instruction of a list of words, and the words after it (R44). -/
def decodeWords : List Word32 → Except Reject (Instr × List Word32)
  | [] => .error .truncated
  | b :: rest =>
    if Raw.hasSecond b then
      match rest with
      | [] => .error .truncated
      | s :: rest' => (decodeRaw { base := b, second := s }).map fun i => (i, rest')
    else (decodeRaw { base := b, second := 0 }).map fun i => (i, rest)

/-- Little-endian bytes as words (R7); bytes that fill no word are dropped. -/
def wordsOfBytes : List Byte → List Word32
  | b0 :: b1 :: b2 :: b3 :: rest =>
    BitVec.ofNat 32 (b0.toNat + 256 * b1.toNat + 65536 * b2.toNat + 16777216 * b3.toNat) :: wordsOfBytes rest
  | _ => []

/-- The `n` little-endian bytes of a number (R7). -/
def bytesOfNat : Nat → Nat → List Byte
  | 0, _ => []
  | n + 1, v => BitVec.ofNat 8 v :: bytesOfNat n (v / 256)

/-- The first instruction of a list of bytes. -/
def decodeBytes (l : List Byte) : Except Reject Instr := (decodeWords (wordsOfBytes l)).map Prod.fst

/-- The instruction whose bits are `w`, numbered from bit 0 of its first word; bits from `nbits` up are zero. -/
def decodeTableWord (nbits w : Nat) : Option Instr :=
  match decodeBytes (bytesOfNat 8 (w % 2 ^ nbits)) with
  | .ok i => some i
  | .error _ => none

/-- A base word and its second word from their fields (R46). -/
def Raw.make (op i x : Nat) (h : Hdr) (second : Nat) : Raw :=
  { base := BitVec.ofNat 32 (op * 2 ^ 25 + i * 2 ^ 24 + h.pr.code * 2 ^ 22 + x * 2 ^ 18 + h.t1.code * 2 ^ 9 + h.t0.code)
    second := BitVec.ofNat 32 second }

/-- The words of an instruction (R55, R56 and the entries); an event has none. -/
def encode : Instr → Option Raw
  | .mov h => some (Raw.make 0x00 0 0 h 0)
  | .const_ h w => some (Raw.make 0x01 1 0 h w.toNat)
  | .constZx h w => some (Raw.make 0x01 1 1 h w.toNat)
  | .consth h w => some (Raw.make 0x01 1 2 h w.toNat)
  | .null_ h => some (Raw.make 0x02 0 0 h 0)
  | .sel h => some (Raw.make 0x03 0 0 h 0)
  | .gate h => some (Raw.make 0x04 0 0 h 0)
  | .br h w => some (Raw.make 0x05 1 0 h w.toNat)
  | .bri h => some (Raw.make 0x05 0 1 h 0)
  | .call h w => some (Raw.make 0x05 1 2 h w.toNat)
  | .calli h => some (Raw.make 0x05 0 3 h 0)
  | .ret h => some (Raw.make 0x05 0 4 h 0)
  | .loop h w => some (Raw.make 0x06 1 0 h w.toNat)
  | .iter h => some (Raw.make 0x06 0 1 h 0)
  | .carry h => some (Raw.make 0x06 0 2 h 0)
  | .lbreak h => some (Raw.make 0x06 0 3 h 0)
  | .add h => some (Raw.make 0x08 0 0 h 0)
  | .addImm h w => some (Raw.make 0x08 1 0 h w.toNat)
  | .sub h => some (Raw.make 0x08 0 1 h 0)
  | .subImm h w => some (Raw.make 0x08 1 1 h w.toNat)
  | .and_ h => some (Raw.make 0x08 0 2 h 0)
  | .andImm h w => some (Raw.make 0x08 1 2 h w.toNat)
  | .or_ h => some (Raw.make 0x08 0 3 h 0)
  | .orImm h w => some (Raw.make 0x08 1 3 h w.toNat)
  | .xor_ h => some (Raw.make 0x08 0 4 h 0)
  | .xorImm h w => some (Raw.make 0x08 1 4 h w.toNat)
  | .shl h => some (Raw.make 0x08 0 5 h 0)
  | .shlImm h w => some (Raw.make 0x08 1 5 h w.toNat)
  | .shr h => some (Raw.make 0x08 0 6 h 0)
  | .shrImm h w => some (Raw.make 0x08 1 6 h w.toNat)
  | .sar h => some (Raw.make 0x08 0 7 h 0)
  | .sarImm h w => some (Raw.make 0x08 1 7 h w.toNat)
  | .min_ h => some (Raw.make 0x08 0 8 h 0)
  | .minImm h w => some (Raw.make 0x08 1 8 h w.toNat)
  | .max_ h => some (Raw.make 0x08 0 9 h 0)
  | .maxImm h w => some (Raw.make 0x08 1 9 h w.toNat)
  | .minu h => some (Raw.make 0x08 0 10 h 0)
  | .minuImm h w => some (Raw.make 0x08 1 10 h w.toNat)
  | .maxu h => some (Raw.make 0x08 0 11 h 0)
  | .maxuImm h w => some (Raw.make 0x08 1 11 h w.toNat)
  | .rotl h => some (Raw.make 0x08 0 12 h 0)
  | .rotlImm h w => some (Raw.make 0x08 1 12 h w.toNat)
  | .andn h => some (Raw.make 0x08 0 13 h 0)
  | .andnImm h w => some (Raw.make 0x08 1 13 h w.toNat)
  | .orn h => some (Raw.make 0x08 0 14 h 0)
  | .ornImm h w => some (Raw.make 0x08 1 14 h w.toNat)
  | .xnor h => some (Raw.make 0x08 0 15 h 0)
  | .xnorImm h w => some (Raw.make 0x08 1 15 h w.toNat)
  | .mul h => some (Raw.make 0x09 0 0 h 0)
  | .mulImm h w => some (Raw.make 0x09 1 0 h w.toNat)
  | .mulh h => some (Raw.make 0x09 0 1 h 0)
  | .mulhImm h w => some (Raw.make 0x09 1 1 h w.toNat)
  | .mulhu h => some (Raw.make 0x09 0 2 h 0)
  | .mulhuImm h w => some (Raw.make 0x09 1 2 h w.toNat)
  | .div h => some (Raw.make 0x09 0 3 h 0)
  | .divImm h w => some (Raw.make 0x09 1 3 h w.toNat)
  | .divu h => some (Raw.make 0x09 0 4 h 0)
  | .divuImm h w => some (Raw.make 0x09 1 4 h w.toNat)
  | .rem_ h => some (Raw.make 0x09 0 5 h 0)
  | .remImm h w => some (Raw.make 0x09 1 5 h w.toNat)
  | .remu h => some (Raw.make 0x09 0 6 h 0)
  | .remuImm h w => some (Raw.make 0x09 1 6 h w.toNat)
  | .clz h => some (Raw.make 0x0A 0 0 h 0)
  | .ctz h => some (Raw.make 0x0A 0 1 h 0)
  | .popc h => some (Raw.make 0x0A 0 2 h 0)
  | .sext h => some (Raw.make 0x0A 0 3 h 0)
  | .zext h => some (Raw.make 0x0A 0 4 h 0)
  | .neg h => some (Raw.make 0x0A 0 5 h 0)
  | .not_ h => some (Raw.make 0x0A 0 6 h 0)
  | .abs_ h => some (Raw.make 0x0A 0 7 h 0)
  | .cmp h cc => some (Raw.make 0x0B 0 cc.code h 0)
  | .cmpImm h cc w => some (Raw.make 0x0B 1 cc.code h w.toNat)
  | .lea h => some (Raw.make 0x0C 0 0 h 0)
  | .leaImm h w => some (Raw.make 0x0C 1 0 h w.toNat)
  | .bfx h w => some (Raw.make 0x0C 1 1 h w.toNat)
  | .bfi h w => some (Raw.make 0x0C 1 2 h w.toNat)
  | .faddS h => some (Raw.make 0x0D 0 0 h 0)
  | .fsubS h => some (Raw.make 0x0D 0 1 h 0)
  | .fmulS h => some (Raw.make 0x0D 0 2 h 0)
  | .fdivS h => some (Raw.make 0x0D 0 3 h 0)
  | .fminS h => some (Raw.make 0x0D 0 4 h 0)
  | .fmaxS h => some (Raw.make 0x0D 0 5 h 0)
  | .fsqrtS h => some (Raw.make 0x0D 0 6 h 0)
  | .fabsS h => some (Raw.make 0x0D 0 7 h 0)
  | .fnegS h => some (Raw.make 0x0D 0 8 h 0)
  | .fcmpeqS h => some (Raw.make 0x0D 0 9 h 0)
  | .fcmpltS h => some (Raw.make 0x0D 0 10 h 0)
  | .fcmpleS h => some (Raw.make 0x0D 0 11 h 0)
  | .fcmpunS h => some (Raw.make 0x0D 0 12 h 0)
  | .ffmaS h => some (Raw.make 0x0D 0 13 h 0)
  | .faddD h => some (Raw.make 0x0E 0 0 h 0)
  | .fsubD h => some (Raw.make 0x0E 0 1 h 0)
  | .fmulD h => some (Raw.make 0x0E 0 2 h 0)
  | .fdivD h => some (Raw.make 0x0E 0 3 h 0)
  | .fminD h => some (Raw.make 0x0E 0 4 h 0)
  | .fmaxD h => some (Raw.make 0x0E 0 5 h 0)
  | .fsqrtD h => some (Raw.make 0x0E 0 6 h 0)
  | .fabsD h => some (Raw.make 0x0E 0 7 h 0)
  | .fnegD h => some (Raw.make 0x0E 0 8 h 0)
  | .fcmpeqD h => some (Raw.make 0x0E 0 9 h 0)
  | .fcmpltD h => some (Raw.make 0x0E 0 10 h 0)
  | .fcmpleD h => some (Raw.make 0x0E 0 11 h 0)
  | .fcmpunD h => some (Raw.make 0x0E 0 12 h 0)
  | .ffmaD h => some (Raw.make 0x0E 0 13 h 0)
  | .cvt h k w => some (Raw.make 0x10 1 k.code h w.toNat)
  | .tcvt h w => some (Raw.make 0x11 1 0 h w.toNat)
  | .fcset h w => some (Raw.make 0x12 1 0 h w.toNat)
  | .fcget h w => some (Raw.make 0x12 1 1 h w.toNat)
  | .tamax h => some (Raw.make 0x13 0 0 h 0)
  | .trescale h => some (Raw.make 0x13 0 1 h 0)
  | .tadd h => some (Raw.make 0x14 0 0 h 0)
  | .tsub h => some (Raw.make 0x14 0 1 h 0)
  | .tmul h => some (Raw.make 0x14 0 2 h 0)
  | .tmax h => some (Raw.make 0x14 0 3 h 0)
  | .tmin h => some (Raw.make 0x14 0 4 h 0)
  | .tdiv h => some (Raw.make 0x14 0 5 h 0)
  | .tand h => some (Raw.make 0x14 0 6 h 0)
  | .tor h => some (Raw.make 0x14 0 7 h 0)
  | .txor h => some (Raw.make 0x14 0 8 h 0)
  | .tneg h => some (Raw.make 0x15 0 0 h 0)
  | .tabs h => some (Raw.make 0x15 0 1 h 0)
  | .texp h => some (Raw.make 0x15 0 2 h 0)
  | .tlog h => some (Raw.make 0x15 0 3 h 0)
  | .trsqrt h => some (Raw.make 0x15 0 4 h 0)
  | .trecip h => some (Raw.make 0x15 0 5 h 0)
  | .ttanh h => some (Raw.make 0x15 0 6 h 0)
  | .tsigm h => some (Raw.make 0x15 0 7 h 0)
  | .tgelu h => some (Raw.make 0x15 0 8 h 0)
  | .tfma h => some (Raw.make 0x16 0 0 h 0)
  | .tsplat h => some (Raw.make 0x17 0 0 h 0)
  | .trowb h => some (Raw.make 0x17 0 1 h 0)
  | .tcolb h => some (Raw.make 0x17 0 2 h 0)
  | .trsum h => some (Raw.make 0x18 0 0 h 0)
  | .tcsum h => some (Raw.make 0x18 0 1 h 0)
  | .trmax h => some (Raw.make 0x18 0 2 h 0)
  | .tcmax h => some (Raw.make 0x18 0 3 h 0)
  | .tsum h => some (Raw.make 0x18 0 4 h 0)
  | .ttrans h => some (Raw.make 0x19 0 0 h 0)
  | .tmask h => some (Raw.make 0x19 0 1 h 0)
  | .tcmp h cc => some (Raw.make 0x1A 0 cc.code h 0)
  | .tsel h => some (Raw.make 0x1B 0 0 h 0)
  | .telget h => some (Raw.make 0x1C 0 0 h 0)
  | .telset h => some (Raw.make 0x1C 0 1 h 0)
  | .tnew h w => some (Raw.make 0x1D 1 0 h w.toNat)
  | .trel h => some (Raw.make 0x1D 0 1 h 0)
  | .tcopy h => some (Raw.make 0x1D 0 2 h 0)
  | .mma h x => some (Raw.make 0x20 0 x.code h 0)
  | .mmar h x => some (Raw.make 0x21 0 x.code h 0)
  | .zinit h w => some (Raw.make 0x22 1 0 h w.toNat)
  | .zclrf h w => some (Raw.make 0x22 1 1 h w.toNat)
  | .zflags h w => some (Raw.make 0x22 1 2 h w.toNat)
  | .zscale h w => some (Raw.make 0x22 1 3 h w.toNat)
  | .zload h w => some (Raw.make 0x22 1 4 h w.toNat)
  | .zdrain h z w => some (Raw.make 0x23 1 z.toNat h w.toNat)
  | .tmac h x w => some (Raw.make 0x70 1 x.code h w.toNat)
  | .rcfg h w => some (Raw.make 0x24 1 0 h w.toNat)
  | .rpush h w => some (Raw.make 0x24 1 1 h w.toNat)
  | .rpop h w => some (Raw.make 0x24 1 2 h w.toNat)
  | .rstat h w => some (Raw.make 0x24 1 3 h w.toNat)
  | .epload h w => some (Raw.make 0x25 1 0 h w.toNat)
  | .eparg h w => some (Raw.make 0x25 1 1 h w.toNat)
  | .ld h x w => some (Raw.make 0x28 1 x.code h w.toNat)
  | .ldr h x w => some (Raw.make 0x29 1 x.code h w.toNat)
  | .st h x w => some (Raw.make 0x2A 1 x.code h w.toNat)
  | .ldpair h x w => some (Raw.make 0x71 1 x.code h w.toNat)
  | .tld h w => some (Raw.make 0x2B 1 0 h w.toNat)
  | .tldr h w => some (Raw.make 0x2C 1 0 h w.toNat)
  | .tst h w => some (Raw.make 0x2D 1 0 h w.toNat)
  | .tgath h w => some (Raw.make 0x2E 1 0 h w.toNat)
  | .tscat h w => some (Raw.make 0x2F 1 0 h w.toNat)
  | .fence h sc => some (Raw.make 0x30 0 sc.code h 0)
  | .fenceWord h sc w => some (Raw.make 0x30 1 (sc.code + 8) h w.toNat)
  | .sbar h w => some (Raw.make 0x31 1 0 h w.toNat)
  | .tlwait h tl => some (Raw.make 0x32 0 (tl.code * 4) h 0)
  | .tlread h tl => some (Raw.make 0x32 0 (tl.code * 4 + 1) h 0)
  | .atom h op w => some (Raw.make 0x34 1 op.code h w.toNat)
  | .atomn h op w => some (Raw.make 0x35 1 op.code h w.toNat)
  | .acbind h => some (Raw.make 0x36 0 0 h 0)
  | .acexpect h => some (Raw.make 0x36 0 1 h 0)
  | .acread h => some (Raw.make 0x36 0 2 h 0)
  | .acfree h => some (Raw.make 0x36 0 3 h 0)
  | .barinit h w => some (Raw.make 0x37 1 0 h w.toNat)
  | .bararr h w => some (Raw.make 0x37 1 1 h w.toNat)
  | .bartry h w => some (Raw.make 0x37 1 2 h w.toNat)
  | .syncall h => some (Raw.make 0x72 0 0 h 0)
  | .chopen h w => some (Raw.make 0x38 1 0 h w.toNat)
  | .chclose h => some (Raw.make 0x38 0 1 h 0)
  | .chstat h => some (Raw.make 0x38 0 2 h 0)
  | .chsend h => some (Raw.make 0x39 0 0 h 0)
  | .chtrys h => some (Raw.make 0x39 0 1 h 0)
  | .chrecv h => some (Raw.make 0x3A 0 0 h 0)
  | .chtryr h => some (Raw.make 0x3A 0 1 h 0)
  | .cpy h => some (Raw.make 0x3C 0 0 h 0)
  | .cpy1 h w => some (Raw.make 0x3D 1 0 h w.toNat)
  | .cpyr h w => some (Raw.make 0x3E 1 0 h w.toNat)
  | .cpqpost h => some (Raw.make 0x3F 0 0 h 0)
  | .cpstat h => some (Raw.make 0x3F 0 1 h 0)
  | .spawn h x => some (Raw.make 0x40 0 x.code h 0)
  | .spawnd h x => some (Raw.make 0x41 0 x.code h 0)
  | .jnew h => some (Raw.make 0x42 0 0 h 0)
  | .jdec h => some (Raw.make 0x42 0 1 h 0)
  | .tend h => some (Raw.make 0x43 0 0 h 0)
  | .fnew h => some (Raw.make 0x44 0 0 h 0)
  | .fres h => some (Raw.make 0x44 0 1 h 0)
  | .freg h => some (Raw.make 0x44 0 2 h 0)
  | .fget h => some (Raw.make 0x44 0 3 h 0)
  | .dqpush h => some (Raw.make 0x45 0 0 h 0)
  | .dqpop h => some (Raw.make 0x45 0 1 h 0)
  | .dqsteal h => some (Raw.make 0x45 0 2 h 0)
  | .wqput h => some (Raw.make 0x46 0 0 h 0)
  | .wqget h => some (Raw.make 0x46 0 1 h 0)
  | .yield_ h => some (Raw.make 0x47 0 0 h 0)
  | .srr h w => some (Raw.make 0x48 1 0 h w.toNat)
  | .srw h w => some (Raw.make 0x48 1 1 h w.toNat)
  | .trap h w => some (Raw.make 0x49 1 0 h w.toNat)
  | .hcall h w => some (Raw.make 0x49 1 1 h w.toNat)
  | .ckpt h => some (Raw.make 0x4A 0 0 h 0)
  | .remest h => some (Raw.make 0x4B 0 0 h 0)
  | .remestImm h w => some (Raw.make 0x4B 1 0 h w.toNat)
  | .ctxnew h => some (Raw.make 0x4C 0 0 h 0)
  | .ctxhalt h => some (Raw.make 0x4C 0 1 h 0)
  | .ctxres h => some (Raw.make 0x4C 0 2 h 0)
  | .hbeat h => some (Raw.make 0x4D 0 0 h 0)
  | .atinv h => some (Raw.make 0x4E 0 0 h 0)
  | .pwrhint h w => some (Raw.make 0x4F 1 0 h w.toNat)
  | .tcinv h => some (Raw.make 0x50 0 0 h 0)
  | .tcpin h => some (Raw.make 0x50 0 1 h 0)
  | .tcpre h => some (Raw.make 0x50 0 2 h 0)
  | .objload h => some (Raw.make 0x51 0 0 h 0)
  | .trace h => some (Raw.make 0x52 0 0 h 0)
  | .mark h w => some (Raw.make 0x52 1 1 h w.toNat)
  | .brk h => some (Raw.make 0x53 0 0 h 0)
  | .cntrd h w => some (Raw.make 0x53 1 1 h w.toNat)
  | .tokenDelivery _ => none
  | .tokenResend _ => none
  | .tokenParity _ => none
  | .splitPhaseReply _ => none
  | .tileRelease _ => none
  | .frameGrant _ => none
  | .blockCommit _ _ => none
  | .frameFree _ _ => none
  | .loopIterationStart _ _ => none
  | .memoryAccessAtHome _ _ => none
  | .translationWalk _ => none
  | .faultQueueDoorbell _ => none
  | .atomicEngineRequest _ _ => none
  | .atomicLineFill _ _ => none
  | .countMessage _ => none
  | .counterFire _ => none
  | .barrierArrival _ => none
  | .barrierPhaseComplete _ => none
  | .barrierRelease _ => none
  | .channelBindRequest _ => none
  | .channelElement _ => none
  | .channelReceiveRequest _ => none
  | .spillReadback _ => none
  | .endpointRelease _ => none
  | .channelCloseMessage _ => none
  | .xoff _ => none
  | .xon _ => none
  | .monitorExtend _ => none
  | .probationExpiry _ => none
  | .linkRetrain _ => none
  | .linkDown _ => none
  | .jxTagFailure _ => none
  | .copyStart _ => none
  | .copyComplete _ => none
  | .copyQueueDoorbell _ => none
  | .copyQueueRegistration _ => none
  | .ringHeadUpdate _ => none
  | .matrixOperandPacket _ => none
  | .accumulatorSpill _ _ => none
  | .taskPop _ => none
  | .taskEnd _ _ => none
  | .joinDecrement _ => none
  | .futureOperation _ => none
  | .futurePoison _ => none
  | .dequeOperation _ => none
  | .workQueueOperation _ => none
  | .dependenceSubmit _ => none
  | .dependenceRelease _ _ => none
  | .copyBack _ _ => none
  | .costReport _ => none
  | .quadGate _ => none
  | .quadWake _ => none
  | .preempt _ => none
  | .haltLine _ => none
  | .haltComplete _ => none
  | .watchdog _ => none
  | .create _ => none
  | .hostReply _ _ _ => none
  | .kilnTranslate _ => none
  | .configLoad _ _ => none
  | .invalidationEffect _ => none
  | .traceSample _ _ => none
  | .apertureSizeWrite _ => none
  | .pkgnoWrite _ => none
  | .deviceRegisterWrite _ => none
  | .hostBarAccess _ => none
  | .bridgeLinkLoss => none
  | .ownershipChange _ _ => none
  | .lockInterfaceRequest _ => none
  | .startInterfaceRequest _ => none
  | .stopInterface _ => none
  | .getVersion => none
  | .getCapabilities => none
  | .negotiateAlgorithms => none
  | .getDigests => none
  | .getCertificate _ => none
  | .challenge _ => none
  | .getMeasurements _ _ => none
  | .keyExchange _ _ => none
  | .finish _ => none
  | .keyUpdate _ => none
  | .endSession _ => none
  | .reset _ => none
  | .powerStateRequest _ => none
  | .thermalThrottle _ => none
  | .thermalShutdown => none
  | .ideIntegrityFailure _ => none
  | .bridgeLinkReturn => none
  | .partitionCreation _ _ => none
  | .verificationKeyInstall _ _ => none

/-- The words of an instruction as they stand in a block (R44). -/
def encodeWords (i : Instr) : List Word32 :=
  match encode i with
  | none => []
  | some r => if Raw.hasSecond r.base then [r.base, r.second] else [r.base]

end Sys2Proof
end

