-- ==== Sys2Proof/Machine/State.lean ====
section
/-! DEFINITION. The state of the machine: every piece of state the spec gives the S9, as plain data, and the state right
after reset. A field names the rule that gives it. Fields marked MODEL are the model's own. -/

namespace Sys2Proof.Machine

/-- Stops of `step` and `exec` that are no behaviour of the device. All are safe: the model does less than the device. -/
inductive Fault where
  /-- Raised by a meaning run in a state where its instruction cannot fire or its event cannot happen; `step` runs none such. Safe. -/
  | notEnabled (what : String)
  deriving DecidableEq, Repr

/-- Refusals of an instruction as such. Both are safe. -/
inductive Refusal where
  /-- Raised by an arm of `exec` whose instruction has no meaning yet. Safe. -/
  | notModelled (mnemonic : String)
  /-- Raised by `step` when the words of a begun activation decode to no instruction, which the Kiln's checks rule out (R63). Safe. -/
  | illFormed (why : Reject)
  deriving DecidableEq, Repr

/-- Kinds of token (R18). -/
inductive Kind where
  | scalar | tile | null
  deriving DecidableEq, Repr

/-- The kind and value of a token, of a register (R82) or of an argument register (R186). -/
structure Tok where
  kind : Kind
  val : Word
  deriving DecidableEq, Repr

/-- The fault codes of R399. -/
inductive Code where
  | encoding | noncodeBlock | feature | operand | tokenKind | handle | refcount | align | page | protection
  | frameQuota | branchCount | channelState | channelDeadlock | spillQuota | doubleResolve | futureState
  | joinUnderflow | watchdog | linkDown | uncorrectable | tokenParity | trap | breakpoint | privilege
  | debugDisabled | translationResource | object | rateInconsistent
  deriving DecidableEq, Repr

/-- Block types (R40). -/
inductive BlockTy where
  | code | data | actor | loop
  deriving DecidableEq, Repr

/-- A read entry (R42). -/
structure ReadEntry where
  g : Nat
  t1 : Target
  t0 : Target
  deriving DecidableEq, Repr

/-- The configuration of a block as an activation runs it (R424, R439): what the virtual block said when it was translated; `num`
is the MODEL's number of the translation. -/
structure Cfg where
  num : Nat
  addr : Nat
  obj : Nat
  ty : BlockTy
  code : List Raw
  reads : List ReadEntry
  writes : List Nat
  storeMask : Word32
  nodes : List Nat
  deriving DecidableEq, Repr

/-- Who issued something, as stop records name it (R397). The MODEL's: `uid` is the number of the activation, `seq` its place in the
order of the activations of its task, `parent` the number of the activation whose LOOP started it (0: not an iteration), `wide` whether that
loop runs more than one iteration at a time (R249). -/
structure Src where
  ctx : Nat
  pe : Nat
  task : Nat
  frame : Nat
  uid : Nat
  seq : Nat
  parent : Nat
  wide : Bool
  block : Nat
  idx : Nat
  node : Nat
  iter : Option Int
  deriving DecidableEq, Repr

/-- Where a reply goes (R77): a slot or write entry of an activation's frame. -/
structure Dest where
  pe : Nat
  frame : Nat
  uid : Nat
  tgt : Target
  step : Option Nat := none -- R64: the step whose result it is
  deriving DecidableEq, Repr

/-- A fault as raised (R394 to R400). -/
structure FaultRec where
  code : Code
  stamp : Nat
  detail : Word
  aux : Word
  src : Src
  header : Bool
  noInstr : Bool
  step : Option Nat
  access : Option (Nat × Nat)
  frameValid : Bool
  afterCommit : Bool
  kept : Bool
  deriving DecidableEq, Repr

/-- What an issued instruction waits for while its frame holds it (R401, R226). -/
inductive Wait where
  | xoff (ch : Nat)         -- a CHSEND parked on XOFF (R302)
  | timeline (tl : Timeline) (m : Nat) -- a TLWAIT (R264)
  | host (req : Nat)        -- an HCALL (R415)
  | entry (e : Nat)         -- a fault-queue entry (R226)
  | bind (ch : Nat) (writer : Bool) -- the answer to a binding request (R296)
  | home (n : Nat)          -- a request not yet performed at its home
  deriving DecidableEq, Repr

/-- What a ready instruction lacks (R24, R170, R401): it stays ready and is tried again. -/
inductive Short where
  | tiles                   -- R170
  | accumulator             -- R187, R205
  | ring                    -- R196
  | requests                -- R233
  | space                   -- R323, R336
  | before                  -- what a release waits for (R256)
  | order                   -- R90, R188
  | faults                  -- room in the fault queue (R409)
  deriving DecidableEq, Repr

/-- How far an instruction of an activation is; one with no entry is unresolved (R79). -/
inductive IStat where
  | fired                   -- resolved by firing
  | mismatched              -- resolved by predicate mismatch, or skipped by CTXRES mode 2
  | waiting (r : Short)     -- ready, and tried again once what it lacks is there
  | parked (w : Wait)       -- issued and not performed
  | faulted                 -- it raised a fault; issued again if its activation is kept (R87)
  deriving DecidableEq, Repr

/-- The effect of the branch that fired (R105, R357, R107). -/
inductive Branch where
  | goto (tgt : Nat)
  | call (tgt ret : Nat)
  | ret (tgt : Nat)
  | tend (idx : Nat)
  | iter
  | lbreak
  deriving DecidableEq, Repr

/-- A held store of an activation (R84, R242, R244, R246): its cells are virtual addresses with an index into the data; `refused` as in
an access. -/
structure StoreRec where
  idx : Nat
  lsid : Nat
  stream : Nat
  cells : List (Nat × Nat)
  data : Option (List Byte)
  phys : List (Nat × Nat)
  translated : Bool
  dropped : Bool
  refused : List Nat
  holder : Option Word
  deriving DecidableEq, Repr

/-- One entry of an operand ring (R195). -/
structure RingEntry where
  rows : Nat
  cols : Nat
  nonfinite : Bool
  codes : List Nat
  deriving DecidableEq, Repr

/-- An entry whose beats are still arriving (R198). -/
structure RingArrival where
  seq : Nat
  rows : Nat
  cols : Nat
  beats : List (Nat × List Byte)
  deriving DecidableEq, Repr

/-- An operand ring (R196, R197): `complete` runs from head to tail, `ready` are entries beyond tail that are whole, with their sequence
numbers, `pushed` pending pushes with their activation and number, `marks` the activation and the entry's number of each mark, `width` the width code of its entries.
While an RCFG that unbound it may still be discarded, `undo` holds that activation and the granules its binding keeps (R189). -/
structure Ring where
  bound : Option (Nat × Nat)
  fc : Nat
  width : Nat
  depth : Nat
  error : Bool
  head : Nat
  complete : List RingEntry
  ready : List (Nat × RingEntry)
  pushed : List (Nat × Nat × RingEntry)
  marks : List (Nat × Nat)
  arriving : List RingArrival
  undo : Option (Nat × Nat)
  deriving DecidableEq, Repr

/-- What CTXNEW, CTXHALT and CTXRES ask for (R418 to R420). -/
inductive CtxOp where
  | new (va : Nat)
  | halt (c mode : Nat)
  | resume (c mode : Nat)
  deriving DecidableEq, Repr

/-- A graph start (R436, R437): the priority of the actor tasks, and of each edge its Element byte, its capacity and the physical
runs of its region. -/
structure GraphStart where
  prio : Nat
  edges : List (Nat × Nat × List (Nat × Nat))
  deriving DecidableEq, Repr

/-- Effects an activation holds until its commit. -/
inductive Effect where
  | fcset (ch : Nat) (img : Word)                    -- R140
  | trescale (ch : Nat) (delta : Int)                -- R155
  | srw (reg : Nat) (v : Word)                       -- R392
  | remest (w : Word)                                -- R417
  | fence (scope : Scope) (streams : Nat) (acq rel : Bool) -- R261
  | sbar (src dst : Nat)                             -- R262
  | barinit (va pa : Nat) (level : Nat) (n : Nat)    -- R291
  | bararr (va pa : Nat) (level : Nat) (nw : Bool) (src : Src) (step : Option Nat) -- R291
  | jnew (va : Nat) (runs : List (Nat × Nat)) (count : Nat) (src : Src) -- R381; `runs` the physical runs of the object
  | jdec (va : Nat) (runs : List (Nat × Nat)) (src : Src) -- R381
  | fnew (va : Nat) (runs : List (Nat × Nat)) (src : Src) -- R383
  | chopen (ch : Nat)                                -- R318: the reserved entry
  | chclose (ch va : Nat) (mode : Nat) (src : Src)   -- R319
  | acbind (id : Nat)                                -- R283: the reserved counter
  | acfree (id : Nat)                                -- R285
  | ctx (op : CtxOp) (pa : Nat) (src : Src)          -- R418: `pa` the physical address of a CTXNEW's descriptor
  | pwrhint (w : Nat)                                -- R421
  | ckpt                                             -- R406
  | objload (obj : Nat) (graph : Option GraphStart) (src : Src) -- R431
  | ringCfg (q : Nat) (old : Ring)                   -- R216: the ring before an RCFG that already performed
  deriving DecidableEq, Repr

/-- A frame of the frame store (R73, R76); the numbers of its activation as in `Src`. -/
structure Frame where
  uid : Nat
  seq : Nat
  parent : Nat
  wide : Bool
  isOpen : Bool
  ctx : Nat
  task : Nat
  cfg : Cfg
  iter : Option Int
  slots : Tab Tok
  lost : List Nat           -- slots whose handle's reference went before their instruction was done (R110, R159, R214)
  stepped : List Nat        -- instructions whose step 0 has performed (R64, R214)
  stat : Tab IStat
  ready : Tab Nat
  since : Tab Nat           -- the cycle in which the last required operand of an instruction arrived (R24, R170)
  grace : Tab Nat           -- by how many cycles the bound of R25 has grown for an instruction
  fetched : Tab (List Byte) -- what an instruction that still waits has read, once, of its packet group, record or descriptor (R342, R345, R380)
  outs : Tab Tok
  stores : List StoreRec
  satisfied : List Nat
  branch : Option Branch
  nullBranch : Bool
  outstanding : Nat
  held : List Effect
  flags : BitVec 7
  performed : Bool
  looped : Bool             -- its LOOP has fired with operands that are not null (R87)
  failed : Bool             -- a fault was raised in it while it was not kept (R87): it is discarded
  granule : Nat
  ngran : Nat
  deriving DecidableEq, Repr

/-- An activation in a PE's activation queue (R74): `cfg` is its configuration once the PE's window holds it (R424), `requested`
that the Kiln was asked for it, `faulted` that it raised a fault and waits for its context to resume. -/
structure Activation where
  pe : Nat
  ctx : Nat
  task : Nat
  addr : Nat
  iter : Option Int
  since : Nat
  cfg : Option Cfg
  requested : Bool
  faulted : Bool
  pendingFault : Option FaultRec
  deriving DecidableEq, Repr

/-- The loop sequencer of a task slot (R92 to R97): `carry` is g[cin] as LOOP read it, `carries` the tokens that CARRY sent, by
the iteration that sent them, and `sent` the iterations whose carry reference went on to another holder. `brk` is the LBREAK flag, by the
earliest iteration whose LBREAK fired, and `limit` the next index as the first one fired (R94). `paused` are the iterations that wait on entries of the
fault queue (R227). A loop that completed (`fin`) stays until its parent commits. -/
structure Loop where
  frame : Nat
  uid : Nat
  idx : Nat
  body : Nat
  first : Int
  sent : List Int
  next : Int
  stop : Int
  step : Int
  k : Nat
  started : List Int
  committed : Nat
  carry : Tok
  carries : List (Int × Tok)
  brk : Option Int
  limit : Int
  paused : List Int
  fin : Bool
  deriving DecidableEq, Repr

/-- Pre-emption of a task (R405). -/
inductive Preempt where
  | running | draining | awaitCkpt | killing
  deriving DecidableEq, Repr

/-- A continuation record (R347, R348) with what its queue entry adds (R358, R356): `g5` is the word given with the enqueue. -/
structure Rec where
  code : Nat
  join : Nat
  regs : Nat
  fa : Bool
  place : Nat
  prio : Nat
  dep : Option Nat
  args : List Word
  g5 : Option Word
  deriving DecidableEq, Repr

/-- A task slot (R356); `num` is the MODEL's number of the task, `ending` the TEND that committed (or the source an abnormal end
names) and `endEntry` the fault-queue entry that the task's end waits on (R483). -/
structure Task where
  num : Nat
  ctx : Nat
  quad : Nat
  record : Rec
  arg5 : Word
  regs : List Tok
  nregs : Nat
  stack : List Nat
  loop : Option Loop
  estWord : Word
  estCycle : Nat
  steps : Nat
  ckptReq : Bool
  preempt : Preempt
  barWait : List Nat        -- R291: the activations of the task whose arrivals at a barrier wait for its release
  popCycle : Nat
  ending : Option Src
  endEntry : Option Nat
  abnormal : Option Nat
  yielded : Bool
  image : Option (List Tok × Nat)
  deriving DecidableEq, Repr

/-- A tile slot of a tile store (R157); `codes` are the 256 element codes, row-major. -/
structure TileSlot where
  gen : Nat
  count : Nat
  owner : Nat
  width : Nat
  nonfinite : Bool
  granules : Nat
  codes : List Nat
  deriving DecidableEq, Repr

/-- Value, mode and flags of an accumulator (R186). -/
structure AccVal where
  elems : List Nat
  int : Bool
  flags : BitVec 5
  deriving DecidableEq, Repr

/-- A held spill (R203, R204), whose value and record are in the frame store: the CTXID and task slot of its claim, whether the task still holds
it, and the context of the last claim (R187). -/
structure Spill where
  ctx : Nat
  task : Nat
  claimed : Bool
  last : Option Nat
  deriving DecidableEq, Repr

/-- An accumulator (R186): the CTXID and task slot of its claim, the context of its last claim (R187), its shadow with the
activation it is for (R189) and its spill. -/
structure Acc where
  val : AccVal
  claim : Option (Nat × Nat)
  last : Option Nat
  shadow : Option (Nat × AccVal)
  spill : Option Spill
  deriving DecidableEq, Repr

/-- A timeline of a context on a PE (R258): the last number taken, the counter, and numbers completed above it. -/
structure Tline where
  taken : Nat
  done : Nat
  early : List Nat
  deriving DecidableEq, Repr

/-- The oldest instruction that a context issued on a PE in the last cycle in which it issued one there (R452): the cycle, since when it was ready, and
its configuration. -/
structure LastIssue where
  cycle : Nat
  ready : Nat
  num : Nat
  src : Src
  deriving DecidableEq, Repr

/-- What a context holds on one PE: timelines (R258), epilogue programs and arguments (R186), cycle-class counts (R454;
IDLE is what the running cycles leave), its last issue (R452), and the credit on each issue slot (R23). -/
structure PeCtx where
  tlc : Tline
  tlm : Tline
  tla : Tline
  tls : Tline
  progs : List Nat
  eargs : List Tok
  fired : Nat
  cfgLoad : Nat
  blocked : Nat
  waitOp : Nat
  commits : Nat
  issuedLast : Option LastIssue
  credits : List Int
  deriving DecidableEq, Repr

/-- A configuration in a PE's window and its interval counts (R454). -/
structure WinCfg where
  num : Nat
  addr : Nat
  ctx : Nat
  tag1 : Word
  beginCycle : Nat
  used : Nat
  fired : Nat
  waitOp : Nat
  blocked : Nat
  cfgLoad : Nat
  deriving DecidableEq, Repr

/-- An endpoint entry of a PE (R297). -/
structure Endpoint where
  pe : Nat
  task : Nat
  ch : Nat
  writer : Bool
  bound : Bool
  xoff : Bool
  closed : Bool
  deriving DecidableEq, Repr

/-- What an issue slot of a PE took last (R22): in which cycle, how many instructions, and whether an urgent one was among them (R25). -/
structure SlotUse where
  cycle : Nat
  count : Nat
  urgent : Bool
  deriving DecidableEq, Repr

/-- The last instruction the divider of a PE took (R114): the cycle it issued in, and its latency on A0 (R113), 0 where it gave no result. -/
structure DivUse where
  cycle : Nat
  latency : Nat
  deriving DecidableEq, Repr

/-- Where the PEs' state is: frames, activation queues, task slots, tile stores, matrix engines, windows, endpoint tables. -/
structure PeStore where
  frames : Tab Frame        -- key PE × 256 + frame id (R73)
  spills : List Host.Cell   -- bytes of the accumulator spill areas (R203), key PE × 2^19 + frame-store byte; canonical, an unlisted byte is 0
  queue : List Activation   -- oldest first (R74)
  tasks : Tab Task          -- key PE × 16 + task slot (R356)
  tiles : Tab TileSlot      -- key PE × 4096 + slot; absent: never allocated, generation 0 (R157)
  accs : Tab Acc            -- key PE × 8 + z; absent: reset (R186)
  rings : Tab Ring          -- key PE × 8 + q; absent: unbound (R186)
  pctx : Tab PeCtx          -- key CTXID × 2048 + PE
  windows : Tab (List WinCfg) -- key PE (R424)
  cfgLoads : List (Nat × Nat × Nat) -- the CONFIG_LOAD cycles of a configuration that a PE's window waits for (R452): PE, configuration, cycles
  endpoints : List Endpoint -- R297
  regs0 : Tab Nat           -- aperture size of a PE in 64 KiB units, key PE (R230)
  issued : Tab SlotUse      -- key PE × 4 + issue slot (R22)
  divider : Tab DivUse      -- key PE: the divider's last instruction (R109, R114)
  deriving DecidableEq, Repr

/-- Context states (R390). -/
inductive CtxState where
  | running | halting | checkpointing | halted
  deriving DecidableEq, Repr

/-- The system registers of R391 that hold state. -/
structure SysRegs where
  prio : Nat
  mmrev : Nat
  fmode : Nat
  zskip : Nat
  rseed : Word
  wdog : Word
  silwin : Word
  spillq : Nat
  fquota : Nat
  status : BitVec 7
  fltq : Word
  timg : Word
  deriving DecidableEq, Repr

/-- A breakpoint (R460). -/
structure Brk where
  addr : Nat
  count : Nat
  deriving DecidableEq, Repr

/-- A sample that a PE took of a cycle (R458) and has not written yet: the cycle, its class and port or side, and the instruction named. -/
structure Sample where
  pe : Nat
  cycle : Nat
  cls : Nat
  detail : Nat
  src : Option Src
  deriving DecidableEq, Repr

/-- A context's trace setting (R463): header address, slots, physical runs of the buffer, I, C, M and K, and the samples
that its PEs have taken and not written yet, oldest first (R458). -/
structure TraceCfg where
  header : Nat
  headerPa : Nat
  slots : Nat
  pages : List (Nat × Nat)
  omitIdle : Bool
  configs : Bool
  marks : Bool
  k : Nat
  samples : List Sample
  deriving DecidableEq, Repr

/-- A setting of TRACE or BRK, in force once its instruction has replied (R460, R463, R465). -/
inductive Setting where
  | trace (t : Option TraceCfg)
  | brk (addr count : Nat) (remove : Bool)
  deriving DecidableEq, Repr

/-- A trace record on its way to its buffer (R456): the context's partition, the buffer's header and records, and the record's 64 bytes. -/
structure TraceWrite where
  part : Nat
  header : Nat
  slots : Nat
  pages : List (Nat × Nat)
  bytes : List Byte
  deriving DecidableEq, Repr

/-- The instruction that CTXRES mode 2 skips in its restarted activation (R420); index 0xFF is a breakpoint's. -/
structure SkipAt where
  pe : Nat
  task : Nat
  block : Nat
  iter : Option Int
  idx : Nat
  deriving DecidableEq, Repr

/-- A context (R386, R387, R391): `stopped` is the cycle in which its engines stopped, `counted` the first cycle that is not counted yet where it is later
than this one (R452), `settings` those asked for by a TRACE or BRK that has not replied yet, `images` the quad and address of each task
image that a checkpoint left (R419). -/
structure Ctx where
  state : CtxState
  slot : Nat
  dieMask : Nat
  urgent : Bool
  mgr : Bool
  dbgen : Bool
  part : Nat
  asid : Nat
  hostMade : Bool
  creator : Nat
  root : Nat
  stopBase : Nat
  notify : Nat
  faultArea : Nat
  regs : SysRegs
  fc : List (BitVec 16)
  mmrevFixed : Bool
  faults : List FaultRec
  heldFaults : List FaultRec
  haltReq : Option (Nat × Nat)
  reason : Nat
  code : Nat
  stops : List FaultRec
  wdCount : Nat
  stopped : Nat
  silence : Nat
  lastActive : Nat
  runCycles : Nat
  counted : Nat
  breaks : List Brk
  trace : Option TraceCfg
  settings : List (Src × Setting)
  segments : Nat
  images : List (Nat × Nat)
  skip : Option SkipAt
  requeue : List Activation
  hint : Nat
  deriving DecidableEq, Repr

/-- A cached translation (R222): the unit (a PE, or 2048 + die), the ASID, the page's virtual base and size, and its leaf entry. -/
structure TlbEntry where
  unit : Nat
  asid : Nat
  va : Nat
  size : Nat
  pte : Nat
  deriving DecidableEq, Repr

/-- One piece of an access (R238, R334): physical addresses with an index into the access's buffer. -/
structure Piece where
  cells : List (Nat × Nat)
  done : Bool
  deriving DecidableEq, Repr

/-- What an access is for, and what happens once every piece is performed. -/
inductive AccFor where
  | scalar (size : Nat) (sx : Bool)             -- LD, LDR, LDPAIR
  | tile (slot : Nat) (handle : Word) (img : BitVec 16) -- TLD, TLDR, TGATH: the tile being filled, its channel as the fetch fired (R138)
  | gather (t : TmemW) (slot : Nat) (handle : Word) (img : BitVec 16) -- the list of a TGATH
  | scatter (t : TmemW) (value : Word) (img : BitVec 16) -- the list of a TSCAT
  | check (scalar : Bool)                       -- the address of a held store, translated before its block commits (R88); `scalar` an ST's
  | store (holder : Option Word)                -- a released store; a tile store has a holder
  | copyRead (c : Nat)                          -- the reads of a copy
  | copyWrite (c : Nat)                         -- the writes of a copy
  | barinit                                     -- the record that a BARINIT writes (R291)
  | trace (t : TraceWrite)                      -- bytes 63–1 of a trace record (R456)
  | ctxop (op : CtxOp)                          -- a context instruction's message, after its block's stores (R418)
  deriving DecidableEq, Repr

/-- How far an access is. -/
inductive AccState where
  | lsid                    -- waits for lower stores (R237)
  | walk                    -- waits for translation
  | parked (e : Nat)        -- waits on a fault-queue entry (R226)
  | active                  -- its pieces are at their homes
  deriving DecidableEq, Repr

/-- A memory access in flight (R233, R248): its cells are virtual addresses with an index into the buffer; `dests` get its
reply, `extra` the scalar 0 of a routed fetch; `refused` the pages that a remote package refuses (R476); `issued` the MODEL's number of its issue
(R231), `prior` the items of lower iterations that had committed when a load issued (R249), and `fwd` the stores below a load whose activation committed
before it issued (R237). -/
structure Access where
  src : Src
  stream : Nat
  lsid : Nat
  write : Bool
  released : Bool
  cells : List (Nat × Nat)
  buf : List Byte
  pieces : List Piece
  dests : List Dest
  extra : List Dest
  purpose : AccFor
  state : AccState
  refused : List Nat
  step : Option Nat
  issued : Nat
  prior : List Nat
  fwd : List StoreRec
  deriving DecidableEq, Repr

/-- A pending fence or stream barrier of a task (R261, R262): it holds later accesses until those of `waits` are performed, and at each home it
has those of `chain`, which precede them, performed first (R249, R250). -/
structure Hold where
  ctx : Nat
  pe : Nat
  task : Nat
  seq : Nat
  waits : List Nat
  chain : List Nat
  streams : Nat
  loads : Bool
  writes : Bool
  deriving DecidableEq, Repr

/-- An entry the device wrote into a fault queue (R228), and who is parked behind it. -/
structure FaultEntry where
  ctx : Nat
  pe : Nat
  kind : Nat
  page : Nat
  va : Nat
  pa : Nat
  die : Nat
  index : Nat
  restart : List (Src × Activation)
  deriving DecidableEq, Repr

/-- Memory and the units that reach it. -/
structure MemState where
  bytes : List Host.Cell          -- canonical; an unlisted byte reads 0
  poison : List Nat               -- poisoned 64-byte granules (R229)
  owner : Tab Nat                 -- owning partition of a 64 KiB HBM page (R471); absent: partition 0
  remoteOwner : Tab Nat           -- the same of remote packages' pages (R476)
  tlb : List TlbEntry             -- R222
  accesses : Tab Access           -- in flight, key its number
  holds : List Hold               -- pending fences and stream barriers
  entries : Tab FaultEntry        -- fault-queue entries still pending, key its number
  shadows : List (Nat × Nat × Nat × Nat) -- shadow ranges (R367): context, base, length, physical base
  deriving DecidableEq, Repr

/-- What an atomic request is for. -/
inductive AtomFor where
  | instr (value : Bool)    -- ATOM (with a value reply) or ATOMN
  | signal (c : Nat)        -- the Signal add of a copy (R333)
  | claim (t : TraceWrite)  -- the claim of a trace record's index (R456)
  | typed (t : TraceWrite)  -- the release of a trace record's byte 0 (R456)
  | lost (t : TraceWrite)   -- a dropped trace record is counted in Lost (R456)
  deriving DecidableEq, Repr

/-- A request of a trace unit (R456). -/
def AtomFor.traces : AtomFor → Bool
  | .claim _ | .typed _ | .lost _ => true
  | .instr _ | .signal _ => false

/-- The request that releases a trace record's byte 0 (R456). -/
def AtomFor.types : AtomFor → Bool
  | .typed _ => true
  | _ => false

/-- A request at an atomic engine (R269, R272). -/
structure AtomReq where
  src : Src
  bank : Nat
  arrival : Nat
  near : Bool
  va : Nat
  pa : Nat
  size : Nat
  op : AtomOp
  b : Word
  c : Word
  release : Bool
  stream : Nat
  dests : List Dest
  tla : Nat
  accepted : Option Nat
  purpose : AtomFor
  refused : Bool
  deriving DecidableEq, Repr

/-- A line an engine holds (R268). -/
structure Line where
  pa : Nat
  bytes : List Byte
  dirty : Bool
  poisoned : Bool
  used : Nat
  deriving DecidableEq, Repr

/-- A quad's atomic engine (R268, R269): lines, lines asked for, and each bank's last local winner. -/
structure Engine where
  lines : List Line
  fills : List Nat
  last : Tab Nat
  deriving DecidableEq, Repr

/-- An arrival counter (R276, R278). -/
structure Counter where
  ctx : Nat
  bound : Bool
  desc : Nat
  descPa : Nat
  segs : List (Nat × Nat)
  armed : Bool
  isDone : Bool
  error : Bool
  cyclic : Bool
  cycle : Nat
  count : Int
  firing : Nat
  deriving DecidableEq, Repr

/-- One arrival at a barrier (R287, R291): who arrives, the address it names, the level its word names, whether its task waits; `counter` is the
arrival counter whose action it is (R281). -/
structure BarArr where
  src : Src
  va : Nat
  level : Nat
  nw : Bool
  counter : Option Nat
  step : Option Nat
  deriving DecidableEq, Repr

/-- A barrier node (R287): arrivals not yet forwarded, and whether a message of it is in flight. -/
structure BarNode where
  pend : List BarArr
  inflight : Bool
  deriving DecidableEq, Repr

/-- A barrier record's state at its nodes (R287, R288): the arrivals its root has counted in the phase, the nodes by number, and
releases held for halted contexts (R291). -/
structure Barrier where
  counted : List BarArr
  nodes : Tab BarNode
  held : List BarArr
  deriving DecidableEq, Repr

/-- Atomic engines, arrival counters and barrier nodes. -/
structure SyncState where
  engines : Tab Engine      -- key package quad (R267)
  reqs : Tab AtomReq        -- requests at engines, key its number
  counters : Tab Counter    -- key kind × 2^23 + home × 2^12 + index (R275)
  barriers : Tab Barrier    -- key physical address of the record (R286)
  deriving DecidableEq, Repr

/-- One element of a channel (R294). -/
structure Elem where
  val : Word
  rows : Nat
  cols : Nat
  nonfinite : Bool
  codes : List Nat
  deriving DecidableEq, Repr

/-- A receive request at a controller (R300). -/
structure RecvReq where
  src : Src
  dests : List Dest
  sdests : List Dest
  isTry : Bool
  deriving DecidableEq, Repr

/-- Channel states (R295). -/
inductive ChanState where
  | reserved | opened | closed | broken
  deriving DecidableEq, Repr

/-- A channel-table entry (R295, R299 to R305). -/
structure Chan where
  base : Nat
  pa : Nat
  pages : List (Nat × Nat)
  die : Nat
  remote : Option Nat
  opener : Nat
  part : Nat
  tile : Bool
  width : Nat
  fc : Nat
  fixed : Bool
  reach : Nat
  nring : Nat
  off : Nat
  on : Nat
  state : ChanState
  writer : Option (Nat × Nat × Nat)
  reader : Option (Nat × Nat × Nat)
  ring : List Elem
  segs : List (List Elem)
  lent : List Bool          -- of each segment, whether the host supplied it (R306)
  sendSeq : Nat
  recvSeq : Nat
  reqs : List RecvReq
  xoff : Bool
  quota : Option Nat
  segAsked : Bool
  ext : Nat
  probation : Option (Nat × Nat)
  reported : Bool
  deriving DecidableEq, Repr

/-- A copy packet group (R325, R326). -/
structure Packet where
  source : Nat
  dest : Nat
  len0 : Nat
  dims : List (Nat × Int × Int)
  signal : Nat
  wait : Bool
  ext : Nat
  deriving DecidableEq, Repr

/-- Where a CPYR copy goes (R344). -/
structure RingRoute where
  pe : Nat
  ring : Nat
  first : Nat
  count : Nat
  rows : Nat
  cols : Nat
  width : Nat
  deriving DecidableEq, Repr

/-- How far a copy is (R346). -/
inductive CopyPhase where
  | accepted | running | signalling | parked (e : Nat) | finished
  deriving DecidableEq, Repr

/-- A copy in flight (R323); `poster` is the MODEL's number of the posting task (R324). -/
structure Copy where
  src : Src
  poster : Nat
  queue : Option Nat
  qslot : Nat
  packet : Packet
  route : Option RingRoute
  tlc : Option Nat
  phase : CopyPhase
  buf : List Byte
  beat : Nat
  head : Option (Nat × Nat)
  aborted : Bool
  deriving DecidableEq, Repr

/-- A registered copy queue (R336): what the unit keeps of it. -/
structure CopyQueue where
  ctx : Nat
  pe : Nat
  header : Nat
  headerPa : Nat
  pages : List (Nat × Nat)
  slots : Nat
  door : Nat
  valid : Bool
  deriving DecidableEq, Repr

/-- An entry of a quad queue (R358). -/
structure QEntry where
  num : Nat
  ctx : Nat
  record : Rec
  tag : Option Nat
  quad : Nat
  image : Option (List Tok × Nat)
  since : Nat
  backed : Bool             -- a completed checkpoint wrote it to the queue's backing area (R419)
  deriving DecidableEq, Repr

/-- A renamed write range (R367). -/
structure Rename where
  j : Nat
  base : Nat
  len : Nat
  shadow : Nat
  back : Bool
  deriving DecidableEq, Repr

/-- A dependence entry (R366). -/
structure Dep where
  ctx : Nat
  order : Nat
  reads : List (Nat × Nat)
  writes : List (Nat × Nat)
  record : Rec
  place : Nat
  pe : Nat
  waits : List Nat
  renames : List Rename
  released : Bool
  ended : Bool
  deriving DecidableEq, Repr

/-- A quad's power state (R364). -/
structure QuadPower where
  idleSince : Nat
  gated : Bool
  waking : Option Nat
  deriving DecidableEq, Repr

/-- An enqueue by hardware that waits for room (R358): the record, its context and quad, the PE it is tagged for,
and the image of a task that goes on from one (R406). -/
structure HwEnqueue where
  ctx : Nat
  record : Rec
  quad : Nat
  tag : Option Nat
  image : Option (List Tok × Nat)
  deriving DecidableEq, Repr

/-- The last request a deque's controller took (R370): in which cycle and of which kind and rank in it, the PE of the home quad that won last,
and the one that had won last as the requests of that kind began to be taken in that cycle. -/
structure DqTurn where
  cycle : Nat
  rank : Nat
  kind : Nat
  winner : Option Nat
  base : Option Nat
  deriving DecidableEq, Repr

/-- Quad queues, the die task units, gating and pre-emption. -/
structure TaskState where
  queues : List QEntry          -- all quads and priorities, in enqueue order (R358)
  waiting : List HwEnqueue
  deps : Tab Dep                -- key die × 8192 + entry (R366)
  costs : Tab (Nat × Nat)       -- the cycle of a die's last report, and the minimum cost it gave (R361)
  power : Tab QuadPower         -- key package quad (R364)
  popLast : Tab Nat             -- the PE of a quad that popped last (R359)
  dqLast : Tab DqTurn           -- key a deque's physical address: the last request taken (R370)
  blockedSince : Tab Nat        -- queued record: since when no PE it is eligible on has had a task slot for it (R403)
  victim : Tab (Nat × Nat)      -- quad: the task being pre-empted and the record that gets its slot (R403)
  deriving DecidableEq, Repr

/-- A native image of an object (R35, R432). -/
structure Image where
  rev : Nat
  digest : Word
  features : Nat
  disabled : Bool
  deriving DecidableEq, Repr

/-- An edge of a loaded object's graph (R434, R435): its two actors' record indexes, whether both rates are fixed, T(e), and
the virtual base and capacity of its channel record. -/
structure Edge where
  producer : Nat
  consumer : Nat
  fixed : Bool
  period : Nat
  base : Nat
  capacity : Nat
  deriving DecidableEq, Repr

/-- An actor of a loaded object's graph (R437, R438): its record index, the address of its first block, and rep. -/
structure Actor where
  index : Nat
  block : Nat
  rep : Nat
  deriving DecidableEq, Repr

/-- A loaded object (R431). -/
structure Obj where
  ctx : Nat
  base : Nat
  codeVa : Nat
  codeSize : Nat
  dataVa : Nat
  blocks : List Nat
  types : List Nat
  features : Nat
  rev : Nat
  entry : Nat
  digest : Word
  images : List Image
  nodes : List (Nat × Nat × Nat)
  actors : List Actor
  edges : List Edge
  committed : Bool
  deriving DecidableEq, Repr

/-- An entry of a die's translation cache (R424, R425). -/
structure TcEntry where
  die : Nat
  cfg : Cfg
  ctx : Nat
  asid : Nat
  native : Bool
  pinned : Bool
  rev : Nat
  stale : Bool
  used : Nat
  deriving DecidableEq, Repr

/-- Who asked the Kiln for a translation (R426). -/
inductive KFor where
  | demand (pe task : Nat)
  | reload (pe frame uid : Nat)   -- an Open frame whose configuration has left the entry store (R428)
  | background (job : Nat)
  deriving DecidableEq, Repr

/-- A request at a die's Kiln (R426); `entry` is the fault-queue entry a read waits on, with `read` the bytes of the block read before (R427), `host` a
posted request (R442), `stale` that an invalidation discards what the host gives (R439). -/
structure KReq where
  die : Nat
  ctx : Nat
  obj : Nat
  addr : Nat
  whom : KFor
  pin : Bool
  entry : Option Nat
  read : List Byte
  host : Option Nat
  native : Option Nat
  stale : Bool
  deriving DecidableEq, Repr

/-- A TCPIN, TCPRE or TCINV that waits to reply (R448, R449). -/
structure KJob where
  src : Src
  dests : List Dest
  sdests : List Dest
  left : Nat
  count : Nat
  unpinned : Bool
  failed : Bool
  deriving DecidableEq, Repr

/-- The Kilns, the translation caches and the loaded objects. -/
structure KilnState where
  objects : Tab Obj             -- key object number (R431)
  entries : List TcEntry        -- R424
  reqs : List KReq              -- in the order received (R426)
  jobs : Tab KJob
  choice : Tab (Option Nat)     -- key die × 4096 + object: the image chosen (R432)
  deriving DecidableEq, Repr

/-- A host request (R410) with who waits for its reply; `place` is where its record lies in the host request queue. -/
structure HostReq where
  die : Nat
  kind : Nat
  ctx : Nat
  addr : Word
  arg : Word
  status : Nat
  reply : Word
  dests : List Dest
  sdests : List Dest
  src : Src
  place : Option Nat
  deriving DecidableEq, Repr

/-- States of a TDISP interface (R472). -/
inductive Tdi where
  | none | unlocked | locked | run | error
  deriving DecidableEq, Repr

/-- A partition (R472, R474, R430, R388): `key` is the number of the draw that gave its memory key, `ide` the SPDM session that gave the keys of its IDE
stream and their generation (R473). -/
structure Part where
  tdi : Tdi
  key : Option Nat
  ide : Option (Nat × Nat)
  noDebug : Bool
  keys : List VerifyKey
  deriving DecidableEq, Repr

/-- One direction of a JX link (R475): the number of its key's derivation, the group counter, and the tag failures in a row. -/
structure LinkDir where
  key : Option Nat
  counter : Nat
  fails : Nat
  deriving DecidableEq, Repr

/-- A JX link (R312, R313, R475): what it sends and what it receives. -/
structure Link where
  up : Bool
  tx : LinkDir
  rx : LinkDir
  deriving DecidableEq, Repr

/-- An SPDM session (R473): with the host and bound to a TDI, or with the security processor at the other end of a JX link. -/
structure Session where
  part : Nat
  peer : Option Nat
  open_ : Bool
  keyGen : Nat
  deriving DecidableEq, Repr

/-- What the device sends to the outside world: a BAR read's data, an MSI-X vector, an SPDM response. -/
inductive HostOut where
  | read (data : List Byte)
  | msix (ctx : Nat) (stop : Bool)
  | spdm (code : Nat) (data : List Byte)
  | refused (code : Nat)
  deriving DecidableEq, Repr

/-- Device registers, the host and links (chapter 17). -/
structure DevState where
  regs : List Host.Cell         -- device-register bytes by offset (R470), canonical; an unlisted byte reads 0
  requests : Tab HostReq        -- R410, key its number
  hostUp : Bool                 -- the bridge link (R469)
  parts : Tab Part              -- key partition; absent: not created
  links : Tab Link              -- key port
  sessions : Tab Session
  version : Bool                -- SPDM version agreed
  algs : Bool                   -- SPDM algorithms agreed
  stages : List (List Byte)     -- R478
  bootFailed : Bool
  power : PowerState            -- R479
  down : Bool                   -- powered down by the thermal limit (R480)
  throttled : List Nat          -- dies whose issue rates are lowered (R480)
  queues : Tab CopyQueue        -- key 16 × PE + queue (R336)
  out : List HostOut            -- MODEL: what was sent to the host, newest first
  keysDrawn : Nat               -- memory keys drawn (R474)
  linkKeys : Nat                -- link keys derived (R475)
  deriving DecidableEq, Repr

/-- Agents of the mortar: the source and destination of a message. -/
inductive Agent where
  | pe (n : Nat) | quad (n : Nat) | stack (n : Nat) | die (n : Nat) | io | host | remote (pkg : Nat) | remoteStack (pkg n : Nat)
  deriving DecidableEq, Repr

/-- Operations on a future (R355). -/
inductive FutOp where
  | fnew | fres (v : Nat) | freg (nodeVa nodePa : Nat) | fget
  deriving DecidableEq, Repr

/-- Operations on a deque or work queue (R370, R371). -/
inductive QueOp where
  | push (v : Word) | pop | steal
  deriving DecidableEq, Repr

/-- Messages in flight. -/
inductive Msg where
  | token (raw : BitVec 128) (uid : Nat) (src : Src)                             -- R18
  | reply (d : Dest) (t : Tok) (src : Src)                                       -- R77
  | withheld (d : Dest)                                                          -- R225: a reply that will not come
  | inject (raw : BitVec 128) (cid : Nat)                                        -- R281
  | release (handle : Word)                                                      -- R162
  | count (cid n : Nat)                                                          -- R279
  | acread (cid : Nat) (dests : List Dest) (src : Src)                           -- R285
  | barArrive (rec node : Nat) (arrs : List BarArr) (kid : Option Nat)           -- R287
  | barRelease (rec node : Nat) (arrs : List BarArr)                             -- R287
  | bind (ch : Nat) (writer : Bool) (src : Src)                                  -- R296
  | element (ch : Nat) (e : Elem) (src : Src) (tls : Nat) (holder : Option Word) -- R299
  | elemReply (dests : List Dest) (e : Elem) (fc width : Nat) (src : Src)        -- R301
  | recvReq (ch : Nat) (r : RecvReq)                                             -- R300
  | epRelease (ch : Nat) (writer : Bool) (pe task : Nat)                         -- R298
  | chClose (ch va mode : Nat) (src : Src)                                          -- R319
  | xoff (ch pe : Nat)                                                           -- R302
  | xon (ch pe : Nat)                                                            -- R302
  | packet (raw : BitVec 128) (data : List Byte) (copy : Nat)                    -- R198
  | headUpdate (copy head depth : Nat)                                           -- R339
  | join (va : Nat) (runs : List (Nat × Nat)) (new : Option Nat) (code : Nat) (src : Src) -- R351: JNEW's count, or a decrement
  | future (va : Nat) (runs : List (Nat × Nat)) (op : FutOp) (dests sdests : List Dest) (src : Src) -- R355
  | poison (va : Nat) (runs : List (Nat × Nat)) (code : Nat) (src : Src)         -- R357
  | deque (va pa : Nat) (op : QueOp) (dests sdests : List Dest) (src : Src)      -- R370
  | wqueue (va pa : Nat) (op : QueOp) (dests sdests : List Dest) (src : Src)     -- R371
  | depSubmit (die : Nat) (dep : Dep) (src : Src) (dests : List Dest)            -- R366
  | devWrite (off : Nat) (data : List Byte) (part : Option Nat) (acc : Option (Nat × Nat)) -- R470; `acc` the access and piece it performs
  | inval (die : Nat) (addrs : List Nat) (ctx : Nat) (job : Nat)                 -- R448
  deriving DecidableEq, Repr

/-- A message with its route (R16, R231): messages of one source, destination and class arrive in the order sent. `body` is what its sender
holds until the receiver accepts it, and `ctx` the context whose work it carries (R19). -/
structure Env where
  src : Agent
  dst : Agent
  cls : Nat
  ctx : Nat
  sent : Nat
  body : Msg
  wire : BitVec 128         -- R18: the 128 bits as they reach the receiver
  refusals : Nat            -- R19
  refused : Bool            -- R19: refused, and not sent again yet
  deriving DecidableEq, Repr

/-- One choice of the schedule (MODEL): which enabled action runs next, and how many cycles pass. -/
structure Pick where
  k : Nat
  dt : Nat
  deriving DecidableEq, Repr

/-- Time, and the MODEL's own fields: the order in which things happen is data, so every order is some state's. -/
structure Sched where
  cycle : Nat               -- CYCLE (R391)
  plan : List Pick          -- MODEL: the choices to come
  turn : Nat                -- MODEL: rotates when the plan is empty
  serial : Nat              -- MODEL: the next number of an activation, access, message or request
  free : Nat                -- MODEL: how many free values were drawn
  inbox : List Instr        -- MODEL: inputs from outside the package, first to arrive first
  pe : Nat                  -- MODEL: the PE, frame and instruction that `exec` runs
  frame : Nat
  idx : Nat
  deriving DecidableEq, Repr

/-- The whole machine. -/
structure State where
  pe : PeStore
  ctxs : Tab Ctx
  mem : MemState
  sync : SyncState
  chans : Tab Chan
  copies : Tab Copy
  task : TaskState
  kiln : KilnState
  dev : DevState
  net : Tab Env
  sched : Sched
  deriving DecidableEq, Repr

/-- No source: what a message of the device itself carries. -/
def Src.none : Src :=
  { ctx := 0, pe := 0, task := 0, frame := 0, uid := 0, seq := 0, parent := 0, wide := false, block := 0, idx := 0xFE, node := 0xFFFFFFFF, iter := Option.none }

/-- An accumulator at reset (R186). -/
def AccVal.reset : AccVal := { elems := List.replicate 256 0, int := false, flags := 0 }

/-- An accumulator at reset (R186): zero, FP32, flags clear, unclaimed, no shadow, no spill. -/
def Acc.reset : Acc := { val := AccVal.reset, claim := none, last := none, shadow := none, spill := none }

/-- A ring at reset (R186): unbound. -/
def Ring.reset : Ring :=
  { bound := none, fc := 0, width := 0, depth := 0, error := false, head := 0, complete := [], ready := [], pushed := [], marks := []
    arriving := [], undo := none }

/-- A tile slot at reset (R157): free, generation 0. -/
def TileSlot.reset : TileSlot :=
  { gen := 0, count := 0, owner := 0, width := 0, nonfinite := false, granules := 0, codes := [] }

/-- A timeline at 0 (R258). -/
def Tline.reset : Tline := { taken := 0, done := 0, early := [] }

/-- What CTXNEW gives a context on each PE (R186, R258, R454). -/
def PeCtx.reset : PeCtx :=
  { tlc := Tline.reset, tlm := Tline.reset, tla := Tline.reset, tls := Tline.reset
    progs := List.replicate 128 0, eargs := List.replicate 8 { kind := .scalar, val := 0 }
    fired := 0, cfgLoad := 0, blocked := 0, waitOp := 0, commits := 0, issuedLast := none, credits := [0, 0, 0, 0] }

/-- An engine with no line (R268). -/
def Engine.reset : Engine := { lines := [], fills := [], last := [] }

/-- A quad's power state at reset: awake. -/
def QuadPower.reset : QuadPower := { idleSince := 0, gated := false, waking := none }

/-- A partition that does not exist. -/
def Part.reset : Part := { tdi := .none, key := none, ide := none, noDebug := false, keys := [] }

/-- A direction of a JX link with a new key (R475). -/
def LinkDir.fresh (key : Nat) : LinkDir := { key := some key, counter := 0, fails := 0 }

/-- A JX link after boot: up, and keyed by the session of its ends (R475; DESIGN CHOICE, assumption log 29). -/
def Link.reset : Link := { up := true, tx := LinkDir.fresh 0, rx := LinkDir.fresh 1 }

/-- A JX link without power (R479, R480): down, its keys lost. -/
def Link.dead : Link := { up := false, tx := { key := none, counter := 0, fails := 0 }, rx := { key := none, counter := 0, fails := 0 } }

/-- The machine right after reset: no context, no frame, no task, memory with nothing listed, CYCLE 0 (R391), PKGNO 0
(R482), stage registers 0 (R478), partition 0 alone. -/
def State.reset : State :=
  { pe := { frames := [], spills := [], queue := [], tasks := [], tiles := [], accs := [], rings := [], pctx := [], windows := [], cfgLoads := []
            endpoints := [], regs0 := [], issued := [], divider := [] }
    ctxs := []
    mem := { bytes := [], poison := [], owner := [], remoteOwner := [], tlb := [], accesses := [], holds := []
             entries := [], shadows := [] }
    sync := { engines := [], reqs := [], counters := [], barriers := [] }
    chans := []
    copies := []
    task := { queues := [], waiting := [], deps := [], costs := [], power := [], popLast := [], dqLast := []
              blockedSince := [], victim := [] }
    kiln := { objects := [], entries := [], reqs := [], jobs := [], choice := [] }
    dev := { regs := [], requests := [], hostUp := true
             parts := [(0, { tdi := .run, key := some 0, ide := none, noDebug := false, keys := [] })]
             links := [], sessions := [], version := false, algs := false
             stages := List.replicate 4 (List.replicate 48 0), bootFailed := false, power := .d0, down := false
             throttled := [], queues := [], out := [], keysDrawn := 1, linkKeys := 2 }
    net := []
    sched := { cycle := 0, plan := [], turn := 0, serial := 1, free := 0, inbox := [], pe := 0, frame := 0, idx := 0 } }

end Sys2Proof.Machine
end

