-- ==== Sys2Proof/Machine/Bytes.lean ====
section
/-! DEFINITION. Byte order, bit fields and sign extension (R7, R8), used by every other file. -/

namespace Sys2Proof.Machine

/-- The number that little-endian bytes hold (R7). -/
def leNat : List Byte → Nat
  | [] => 0
  | b :: t => b.toNat + 256 * leNat t

/-- The number that big-endian bytes hold (R36). -/
def beNat (l : List Byte) : Nat := leNat l.reverse

/-- The `n` little-endian bytes of a number (R7). -/
def leBytes (n v : Nat) : List Byte := bytesOfNat n v

/-- `n` big-endian bytes of a number. -/
def beBytes (n v : Nat) : List Byte := (leBytes n v).reverse

/-- Bytes `off` to `off + n - 1` of a list of bytes, as a little-endian number. -/
def fieldAt (l : List Byte) (off n : Nat) : Nat := leNat ((l.drop off).take n)

/-- Bits [lo + n - 1 : lo] of a number. -/
def bitsAt (v lo n : Nat) : Nat := v / 2 ^ lo % 2 ^ n

/-- Bit `n` of a number. -/
def bitAt (v n : Nat) : Bool := v / 2 ^ n % 2 == 1

/-- The low `n` bits of a number read as a signed number. -/
def signedOf (n v : Nat) : Int :=
  let m := v % 2 ^ n
  if m < 2 ^ (n - 1) then (m : Int) else (m : Int) - (2 ^ n : Nat)

/-- A signed number modulo 2^n. -/
def wrapNat (n : Nat) (i : Int) : Nat := (i % ((2 ^ n : Nat) : Int)).toNat

/-- A number truncated to a word. -/
def wordOf (v : Nat) : Word := BitVec.ofNat 64 v

/-- A signed number truncated to a word. -/
def wordOfInt (i : Int) : Word := BitVec.ofInt 64 i

/-- The bit length of a number. -/
def bitLength (n : Nat) : Nat := if n = 0 then 0 else n.log2 + 1

/-- The scalar token of a number. -/
def scalarTok (v : Word) : Tok := { kind := .scalar, val := v }

/-- The null token (R18). -/
def nullTok : Tok := { kind := .null, val := 0 }

/-- The scalar zero of g0 (R82). -/
def zeroTok : Tok := scalarTok 0

/-- Replace element `n` of a list. -/
def setAt {α : Type} (n : Nat) (v : α) : List α → List α
  | [] => []
  | a :: t => match n with
    | 0 => v :: t
    | m + 1 => a :: setAt m v t

/-- Element `n` of a list, or `d`. -/
def nthD {α : Type} (l : List α) (n : Nat) (d : α) : α := (l[n]?).getD d

/-- The numbers of set bits below `n` of a mask. -/
def maskBits (n m : Nat) : List Nat := (List.range n).filter fun i => bitAt m i

/-- Replace every element of a list that meets `p` by `f` of it. -/
def mapIf {α : Type} (p : α → Bool) (f : α → α) (l : List α) : List α := l.map fun a => if p a then f a else a

/-- The last `n` elements of a list. -/
def takeLast {α : Type} (n : Nat) (l : List α) : List α := l.drop (l.length - n)

/-- The element of least key, the first of them on a tie. -/
def leastBy {α : Type} (key : α → Nat) : List α → Option α
  | [] => none
  | a :: t => match leastBy key t with
    | none => some a
    | some b => if key b < key a then some b else some a

/-- Insert by key, after the elements of equal key. -/
def insertBy {α : Type} (key : α → Nat) (a : α) : List α → List α
  | [] => [a]
  | b :: t => if key a < key b then a :: b :: t else b :: insertBy key a t

/-- Sort by key, keeping the order of equal keys. -/
def sortBy {α : Type} (key : α → Nat) (l : List α) : List α := l.foldl (fun acc a => insertBy key a acc) []

/-- Round up to a multiple of `m`. -/
def roundUp (v m : Nat) : Nat := (v + m - 1) / m * m

/-- The lowest number below `n` that is not in the list. -/
def lowestFree (n : Nat) (used : List Nat) : Option Nat := (List.range n).find? fun i => !used.contains i

end Sys2Proof.Machine
end

