-- ==== Sys2Proof/Machine/Mem.lean ====
section
/-! DEFINITION. Memory: the physical map (R219), its bytes, poison (R229), the lines of the atomic engines (R268), page
tables and translation (R220 to R224), and what each kind of access may reach (R223, R329, R470 to R476). -/

namespace Sys2Proof.Machine

/-! ### Bytes -/

/-- What a byte that nothing has written reads as (a choice of this model: DESIGN CHOICE, assumption log 3). -/
def Memory.default : Byte := 0

/-- Read one byte of a list of cells. -/
def Memory.read (m : List Host.Cell) (a : Nat) : Byte := (Tab.get? a m).getD Memory.default

/-- Write one byte, keeping the canonical form: the cell of a byte equal to the default is not listed. -/
def Memory.write (m : List Host.Cell) (a : Nat) (v : Byte) : List Host.Cell :=
  if v = Memory.default then Tab.del a m else Tab.put a v m

/-- The canonical form: addresses strictly rise and no listed byte is the default. -/
def Memory.wf (m : List Host.Cell) : Bool := Tab.sorted m && m.all fun c => c.2 != Memory.default

/-- The key of a byte of a remote package's HBM (R219): beyond every physical address of this package. -/
def remoteKey (pkg off : Nat) : Nat := 2 ^ 52 + pkg * 2 ^ 40 + off

/-- The key of a byte of a shadow range (R367), which no translation but its own reaches. -/
def shadowKey (seg off : Nat) : Nat := 2 ^ 60 + seg * 65536 + off

/-- The key of a byte that a remote package refuses to the context's partition there, as a request carries it to its home (R476). -/
def refusedKey (key : Nat) : Nat := 2 ^ 61 + key

/-- A key carries a refusal. -/
def isRefused (key : Nat) : Bool := decide (2 ^ 61 ≤ key)

/-- The byte that a key names. -/
def plainKey (key : Nat) : Nat := if 2 ^ 61 ≤ key then key - 2 ^ 61 else key

/-- The regions of the physical map (R219). -/
inductive Region where
  | hbm (stack : Nat)
  | tile (pe off : Nat)
  | dev (off : Nat)
  | fabric (window off : Nat)
  | hole
  deriving DecidableEq, Repr

/-- The region of a physical address (R219). -/
def regionOf (pa : Nat) : Region :=
  if pa < 2 ^ 40 then .hbm (pa / 2 ^ 36)
  else if pa < 2 ^ 40 + 2 ^ 32 then .tile ((pa - 2 ^ 40) / 2 ^ 21) (pa % 2 ^ 21)
  else if 2 * 2 ^ 40 ≤ pa ∧ pa < 2 * 2 ^ 40 + 2 ^ 32 then .dev (pa - 2 * 2 ^ 40)
  else if 2 ^ 51 ≤ pa ∧ pa < 2 ^ 52 then .fabric ((pa - 2 ^ 51) / 2 ^ 40) (pa % 2 ^ 40)
  else .hole

/-- The package quad of a PE (R15). -/
def quadOfPe (pe : Nat) : Nat := pe / 256 * 64 + pe / 16 % 16 / 2 * 8 + pe % 16 / 2

/-- The die of a PE (R15). -/
def dieOfPe (pe : Nat) : Nat := pe / 256

/-- The PEs of a package quad (R15), in PE number order. -/
def pesOfQuad (q : Nat) : List Nat :=
  let base := q / 64 * 256 + q % 64 / 8 * 32 + q % 8 * 2
  [base, base + 1, base + 16, base + 17]

/-- The home engine of a byte, as a package quad (R267); none for device registers. A remote byte's engine is the remote
package's: it keeps the quad number there. -/
def homeQuad (key : Nat) : Option Nat :=
  if 2 ^ 52 ≤ key then some (key % 2 ^ 40 / 2 ^ 37 * 64 + key / 256 % 64)
  else match regionOf key with
    | .hbm _ => some (key / 2 ^ 37 * 64 + key / 256 % 64)
    | .tile pe _ => some (quadOfPe pe)
    | _ => none

/-- The home of a byte (R247) as an agent: that of its memory, which an engine takes while it holds the line (`State.homeOf`). Which I/O die owns a device
register is not stated: one agent is the home of them all (DESIGN CHOICE, assumption log 117). -/
def homeAgent (key : Nat) : Agent :=
  let key := plainKey key
  if 2 ^ 60 ≤ key then .stack 0
  else if 2 ^ 52 ≤ key then .remoteStack ((key - 2 ^ 52) / 2 ^ 40) (bitsAt key 36 4)
  else match regionOf key with
    | .hbm s => .stack s
    | .tile pe _ => .pe pe
    | _ => .io

/-- The die that owns a byte's home. -/
def homeDie (key : Nat) : Nat :=
  if 2 ^ 52 ≤ key then key % 2 ^ 40 / 2 ^ 37
  else match regionOf key with
    | .hbm s => s / 2
    | .tile pe _ => pe / 256
    | _ => 0

/-- An engine's key: remote engines are kept apart from this package's. -/
def engineKey (key : Nat) : Option Nat :=
  (homeQuad key).map fun q => if 2 ^ 52 ≤ key then 512 * (1 + (key - 2 ^ 52) / 2 ^ 40) + q else q

/-- The engine of a key. -/
def State.engine (s : State) (q : Nat) : Engine := s.sync.engines.getD q Engine.reset

/-- Replace an engine. -/
def State.setEngine (s : State) (q : Nat) (e : Engine) : State :=
  { s with sync := { s.sync with engines := s.sync.engines.put q e } }

/-- The line an engine holds for a byte (R268). -/
def State.lineOf (s : State) (key : Nat) : Option (Nat × Line) :=
  match engineKey key with
  | none => none
  | some q => ((s.engine q).lines.find? fun l => l.pa == key / 64 * 64).map fun l => (q, l)

/-- The home of a byte now (R247): the engine that holds its line, else that of its memory. -/
def State.homeOf (s : State) (key : Nat) : Agent := match s.lineOf key with | some (q, _) => .quad q | none => homeAgent key

/-- Where an access is ordered (R247, R250): the home and the granule of its bytes. -/
abbrev Place := Agent × Nat

/-- The place of a byte. -/
def State.placeOf (s : State) (key : Nat) : Place := (s.homeOf key, key / 64)

/-- The place of an atomic: it is performed at its engine, which holds the line then. -/
def AtomReq.place (r : AtomReq) : Place := (.quad ((engineKey r.pa).getD 0), r.pa / 64)

/-- Two places have one home: that of one granule is one, whoever holds it when the later access is performed. -/
def samePlace (a b : Place) : Bool := a.1 == b.1 || a.2 == b.2

/-- The byte at a physical key, wherever its home is (R247): in the engine that holds its line, else in memory. -/
def State.readByte (s : State) (key : Nat) : Byte :=
  match s.lineOf key with
  | some (_, l) => nthD l.bytes (key % 64) 0
  | none => Memory.read s.mem.bytes key

/-- `n` bytes from a key. -/
def State.readBytes (s : State) (key n : Nat) : List Byte := (List.range n).map fun i => s.readByte (key + i)

/-- Write one byte of memory. -/
def State.pokeByte (s : State) (key : Nat) (v : Byte) : State :=
  { s with mem := { s.mem with bytes := Memory.write s.mem.bytes key v } }

/-- Write a byte at its home (R247). -/
def State.writeByte (s : State) (key : Nat) (v : Byte) : State :=
  match s.lineOf key with
  | some (q, l) =>
    let e := s.engine q
    s.setEngine q { e with lines := mapIf (fun m => m.pa == l.pa) (fun m => { m with bytes := setAt (key % 64) v m.bytes, dirty := true }) e.lines }
  | none => s.pokeByte key v

/-- Write bytes from a key up. -/
def State.writeBytes (s : State) (key : Nat) : List Byte → State
  | [] => s
  | b :: t => (s.writeByte key b).writeBytes (key + 1) t

/-- The little-endian doubleword at a key. -/
def State.read64 (s : State) (key : Nat) : Nat := leNat (s.readBytes key 8)

/-- Write a doubleword. -/
def State.write64 (s : State) (key v : Nat) : State := s.writeBytes key (leBytes 8 v)

/-- A granule is poisoned (R229, R270). No action of the model makes an uncorrectable error come about: a state may hold one (DESIGN CHOICE,
assumption log 100). -/
def State.poisoned (s : State) (key : Nat) : Bool :=
  match s.lineOf key with
  | some (_, l) => l.poisoned
  | none => s.mem.poison.contains (key / 64 * 64)

/-- A range of bytes touches a poisoned granule. -/
def State.rangePoisoned (s : State) (key n : Nat) : Bool :=
  (List.range (n / 64 + 2)).any fun i => key + 64 * i < key + n + 64 && decide ((key / 64 + i) * 64 < key + n) && s.poisoned ((key / 64 + i) * 64)

/-- Set or clear the poison of a granule. -/
def State.setPoison (s : State) (key : Nat) (p : Bool) : State :=
  let g := key / 64 * 64
  let rest := s.mem.poison.filter (· != g)
  { s with mem := { s.mem with poison := if p then g :: rest else rest } }

/-- Write an engine's line back and drop it (R268): bytes return to memory, and a poisoned line leaves its granule poisoned (R270). -/
def State.dropLine (s : State) (q : Nat) (l : Line) : State :=
  let e := s.engine q
  let s := s.setEngine q { e with lines := e.lines.filter fun m => m.pa != l.pa }
  let s := if l.dirty then (List.range 64).foldl (fun s i => s.pokeByte (l.pa + i) (nthD l.bytes i 0)) s else s
  if l.poisoned then s.setPoison l.pa true else s

/-- The controller recalls a line before a plain access (R268). -/
def State.recall (s : State) (key : Nat) : State :=
  match s.lineOf key with
  | some (q, l) => s.dropLine q l
  | none => s

/-! ### Contexts and translation -/

/-- A live context. -/
def State.ctx? (s : State) (c : Nat) : Option Ctx := s.ctxs.get? c

/-- Replace a context. -/
def State.setCtx (s : State) (c : Nat) (x : Ctx) : State := { s with ctxs := s.ctxs.put c x }

/-- Change a context that is live. -/
def State.modCtx (s : State) (c : Nat) (f : Ctx → Ctx) : State :=
  match s.ctx? c with
  | some x => s.setCtx c (f x)
  | none => s

/-- Fields of a leaf entry (R221). -/
structure Leaf where
  pa : Nat
  attr : Nat
  wb : Bool
  k : Bool
  w : Bool
  r : Bool
  deriving DecidableEq, Repr

/-- The outcome of a translation. -/
inductive Xl where
  | ok (l : Leaf)
  | page (level : Nat)
  | prot
  deriving DecidableEq, Repr

/-- The page size a leaf of a level maps (R220). -/
def levelSize (level : Nat) : Nat := if level = 2 then 2 ^ 30 else if level = 1 then 2 ^ 21 else 2 ^ 16

/-- The index of a level's table for an address (R220). -/
def levelIndex (va level : Nat) : Nat :=
  if level = 4 then bitsAt va 48 9 else if level = 3 then bitsAt va 39 9 else if level = 2 then bitsAt va 30 9
  else if level = 1 then bitsAt va 21 9 else bitsAt va 16 5

/-- A leaf entry's fields for an address (R221). -/
def leafOf (pte va level : Nat) : Xl :=
  let size := levelSize level
  let base := bitsAt pte 8 44 * 256
  if base % size ≠ 0 ∨ 4 ≤ bitsAt pte 58 3 then .prot
  else .ok { pa := base + va % size, attr := bitsAt pte 58 3, wb := bitAt pte 57, k := bitAt pte 56, w := bitAt pte 55, r := bitAt pte 54 }

/-- The partition that owns a 64 KiB page of local HBM (R471). -/
def State.ownerOf (s : State) (pa : Nat) : Nat := s.mem.owner.getD (pa / 65536) 0

/-- A byte of local HBM whose page a partition does not own (R471). -/
def State.foreign (s : State) (part key : Nat) : Bool := decide (key < 2 ^ 40) && s.ownerOf key != part

/-- The five-level walk for a partition (R220, R221): the entry it ends on, with its level. A table in a page of another partition raises PROTECTION
(R471). It reads a table's bytes wherever else its address leads and whether or not their granule is poisoned (DESIGN CHOICE, assumption log 98). -/
def State.walk (s : State) (part va : Nat) : Nat → Nat → Except Xl (Nat × Nat)
  | 0, table =>
    let pte := s.read64 (table + 8 * levelIndex va 0)
    if s.foreign part (table + 8 * levelIndex va 0) then .error .prot
    else if !bitAt pte 0 then .error (.page 0) else if !bitAt pte 1 then .error .prot else .ok (pte, 0)
  | level + 1, table =>
    let pte := s.read64 (table + 8 * levelIndex va (level + 1))
    if s.foreign part (table + 8 * levelIndex va (level + 1)) then .error .prot
    else if !bitAt pte 0 then .error (.page (level + 1))
    else if bitAt pte 1 then (if 2 < level + 1 then .error .prot else .ok (pte, level + 1))
    else s.walk part va level (bitsAt pte 8 44 * 256)

/-- A cached translation of a unit (R222). -/
def State.tlbFind (s : State) (units : List Nat) (asid va : Nat) : Option TlbEntry :=
  s.mem.tlb.find? fun e => units.contains e.unit && e.asid == asid && decide (e.va ≤ va ∧ va < e.va + e.size)

/-- The level of a page size. -/
def sizeLevel (size : Nat) : Nat := if size = 2 ^ 30 then 2 else if size = 2 ^ 21 then 1 else 0

/-- Translate an address for a context at the units given: a cached entry first, else a walk (R222). -/
def State.translate (s : State) (x : Ctx) (units : List Nat) (va : Nat) : Xl :=
  match s.tlbFind units x.asid va with
  | some e => leafOf e.pte va (sizeLevel e.size)
  | none =>
    match s.walk x.part va 4 x.root with
    | .error r => r
    | .ok (pte, level) => leafOf pte va level

/-- Keep a translation in a unit's table, the oldest entry making room (R222). -/
def State.tlbInsert (s : State) (cap unit asid va size pte : Nat) : State :=
  let e : TlbEntry := { unit := unit, asid := asid, va := va / size * size, size := size, pte := pte }
  let mine := s.mem.tlb.filter fun t => t.unit == unit
  let drop := if cap ≤ mine.length then mine.head? else none
  let rest := s.mem.tlb.filter fun t => some t != drop
  { s with mem := { s.mem with tlb := rest ++ [e] } }

/-- Fill the tables of a PE and of its die after a walk (R222). -/
def State.tlbFill (s : State) (x : Ctx) (pe va : Nat) : State :=
  match s.walk x.part va 4 x.root with
  | .error _ => s
  | .ok (pte, level) =>
    let size := levelSize level
    let s := if (s.tlbFind [2048 + dieOfPe pe] x.asid va).isSome then s
             else s.tlbInsert Config.dieTlb (2048 + dieOfPe pe) x.asid va size pte
    if (s.tlbFind [pe] x.asid va).isSome then s else s.tlbInsert Config.peTlb pe x.asid va size pte

/-- What an access needs of its page. -/
inductive Need where
  | load (scalar : Bool)    -- R223; `scalar` a word or doubleword load, which a device page admits
  | store (scalar : Bool)   -- R223
  | atomic                  -- R273
  | chan                    -- R316
  | copyRead | copyWrite    -- R329
  | object                  -- R372: a normal page with Rd and W
  | reader                  -- R372: Rd on a normal or counted page
  | normalRead              -- R372, R436: Rd on a normal page
  | code                    -- R427: normal, Rd and K
  | counted                 -- R283
  deriving DecidableEq, Repr

/-- The need writes memory (R224, R227). -/
def Need.writes : Need → Bool
  | .store _ | .atomic | .copyWrite | .object => true
  | _ => false

/-- The need is a release of the PAGE rule for stores: it discards its activation (R227, R273, R372). -/
def Need.storeLike : Need → Bool
  | .store _ | .atomic | .object => true
  | _ => false

/-- The page's attribute and permissions allow the access (R223, R273, R316, R329, R372). -/
def Need.permits (n : Need) (l : Leaf) : Bool :=
  match n with
  | .load scalar => l.r && (l.attr == 0 || l.attr == 2 || (l.attr == 3 && scalar))
  | .store scalar => l.w && (l.attr == 0 || l.attr == 2 || (l.attr == 3 && scalar))
  | .atomic => l.r && l.w && (l.attr == 0 || l.attr == 2)
  | .chan => l.r && l.w && l.attr == 1
  | .copyRead => l.r && (l.attr == 0 || l.attr == 2)
  | .copyWrite => l.w && (l.attr == 0 || l.attr == 2)
  | .object => l.r && l.w && l.attr == 0
  | .reader => l.r && (l.attr == 0 || l.attr == 2)
  | .normalRead => l.r && l.attr == 0
  | .code => l.r && l.k && l.attr == 0
  | .counted => l.attr == 2

/-- The aperture of a PE in bytes (R230). -/
def State.aperture (s : State) (pe : Nat) : Nat := s.pe.regs0.getD pe 0 * 65536

/-- A byte of the device registers (R470). -/
def State.devByte (s : State) (off : Nat) : Byte := Memory.read s.dev.regs off

/-- Bytes of the device registers as a number. -/
def State.devNat (s : State) (off n : Nat) : Nat := leNat ((List.range n).map fun i => s.devByte (off + i))

/-- Fabric window `w` (R476): valid, Part, RPart, Package. -/
def State.window (s : State) (w : Nat) : Bool × Nat × Nat × Nat :=
  let b := 0x10000 + 16 * w
  (bitAt (s.devByte (b + 4)).toNat 0, (s.devByte (b + 2)).toNat, (s.devByte (b + 3)).toNat, s.devNat b 2)

/-- The registration of copy queue 16 n + i is Valid (R470). -/
def State.regValid (s : State) (qi : Nat) : Bool := bitAt (s.devByte (0x02000000 + 32 * qi + 10)).toNat 0

/-- The partition of the context a registration names. -/
def State.regPart (s : State) (qi : Nat) : Option Nat :=
  (s.ctx? (s.devNat (0x02000000 + 32 * qi + 8) 2)).map fun x => x.part

/-- A partition may reach a device register (R470). -/
def State.devOwned (s : State) (off part : Nat) : Bool :=
  if off < 0x10000 then part == 0
  else if off < 0x18000 then
    let w := (off - 0x10000) / 16
    (s.window w).2.1 == part
  else if off < 0x18000 + 256 * 0x10000 then (off - 0x18000) / 0x10000 == part
  else if 0x01100000 ≤ off ∧ off < 0x01100000 + 8 * 0x10000 then part == 0
  else if 0x02000000 ≤ off ∧ off < 0x02100000 then
    let qi := (off - 0x02000000) / 32
    !s.regValid qi || s.regPart qi == some part
  else if 0x03000000 ≤ off ∧ off < 0x03200000 then
    let qi := (off - 0x03000000) / 64
    s.regValid qi && s.regPart qi == some part
  else false

/-- A partition may reach every register of a range (R470): a register's 8 bytes have one owner. -/
def State.ownsRegs (s : State) (off n part : Nat) : Bool :=
  (List.range ((off % 8 + n + 7) / 8)).all fun i => s.devOwned (off / 8 * 8 + 8 * i) part

/-- The last bytes of a fault-queue doorbell may be written by any partition's resolver: the doorbell of a die block, at
this model's offset (DESIGN CHOICE, assumption log 9). -/
def doorbellOff (die : Nat) : Nat := 0x01100000 + die * 0x10000 + 0x8000

/-- Where a translated access goes: its key, or refused (R219, R230, R470, R471, R476). The flag says that the remote
package refuses it, which is found at reply. -/
def State.reach (s : State) (x : Ctx) (l : Leaf) : Option (Nat × Bool) :=
  match regionOf l.pa with
  | .hbm _ => if s.ownerOf l.pa = x.part then some (l.pa, false) else none
  | .tile pe off => if 2 ^ 21 - s.aperture pe ≤ off then some (l.pa, false) else none
  | .dev off =>
    if l.attr = 3 ∧ (s.devOwned off x.part ∨ (List.range 8).any fun d => doorbellOff d ≤ off ∧ off < doorbellOff d + 8)
    then some (l.pa, false) else none
  | .fabric w off =>
    let (v, part, rpart, pkg) := s.window w
    if v && part == x.part then some (remoteKey pkg off, s.mem.remoteOwner.getD (pkg * 2 ^ 24 + off / 65536) 0 != rpart) else none
  | .hole => none

/-- The result of checking one address. -/
inductive Access1 where
  | ok (key attr : Nat) (refused : Bool)
  | page (level : Nat)
  | blocked
  | prot
  deriving DecidableEq, Repr

/-- A shadow range of the context that holds an address (R367). -/
def State.shadowOf (s : State) (c va : Nat) : Option Nat :=
  (s.mem.shadows.find? fun r => r.1 == c && decide (r.2.1 ≤ va ∧ va < r.2.1 + r.2.2.1)).map fun r => r.2.2.2 + (va - r.2.1)

/-- R218: bits [63:56] are all equal. -/
def canonical (va : Nat) : Bool := decide (va < 2 ^ 56) || decide (2 ^ 64 - 2 ^ 56 ≤ va ∧ va < 2 ^ 64)

/-- R218 for every byte of an extent; one that runs past address 2^64 - 1 is not canonical (DESIGN CHOICE, assumption log 99). -/
def canonicalSpan (va n : Nat) : Bool := canonical va && (n == 0 || (canonical (va + n - 1) && decide (va / 2 ^ 56 = (va + n - 1) / 2 ^ 56)))

/-- Check one address of a context at the units given. The walk sees WB before the permissions (R224). -/
def State.check1 (s : State) (c : Nat) (units : List Nat) (n : Need) (va : Nat) : Access1 :=
  match s.ctx? c with
  | none => .prot
  | some x =>
    match s.shadowOf c va with
    | some k => .ok k 0 false
    | none =>
      match s.translate x units (va % 2 ^ 57) with
      | .page level => .page level
      | .prot => .prot
      | .ok l =>
        if n.writes && l.wb then .blocked
        else if !n.permits l then .prot
        else match s.reach x l with
          | none => .prot
          | some (k, refused) => .ok k l.attr refused

/-- The first fault of a range, with its address. -/
inductive RangeRes where
  | ok (keys : List (Nat × Nat))  -- (key, length) runs in order
  | page (va level : Nat)
  | blocked (va : Nat)
  | prot (va : Nat)
  | refused (va : Nat)
  deriving DecidableEq, Repr

/-- The runs of a range, one in each 64 KiB page. -/
def pageRuns (va n : Nat) : List (Nat × Nat) :=
  if n = 0 then [] else
    (List.range ((va + n - 1) / 65536 - va / 65536 + 1)).map fun i =>
      let lo := if i = 0 then va else (va / 65536 + i) * 65536
      let hi := min (va + n) ((va / 65536 + i + 1) * 65536)
      (lo, hi - lo)

/-- Check the runs of a range in order; the first failure is the result. -/
def State.checkRuns (s : State) (c : Nat) (units : List Nat) (n : Need) : List (Nat × Nat) → RangeRes
  | [] => .ok []
  | (va, len) :: t =>
    match s.check1 c units n va with
    | .page level => .page va level
    | .blocked => .blocked va
    | .prot => .prot va
    | .ok k _ refused =>
      if refused then .refused va else
      match s.checkRuns c units n t with
      | .ok ks => .ok ((k, len) :: ks)
      | r => r

/-- The same for a request that its home performs later: a refusal by a remote package is found there, at reply (R476). -/
def State.homeRuns (s : State) (c : Nat) (units : List Nat) (n : Need) : List (Nat × Nat) → RangeRes
  | [] => .ok []
  | (va, len) :: t =>
    match s.check1 c units n va with
    | .page level => .page va level
    | .blocked => .blocked va
    | .prot => .prot va
    | .ok k _ refused =>
      match s.homeRuns c units n t with
      | .ok ks => .ok ((if refused then refusedKey k else k, len) :: ks)
      | r => r

/-- Check a range of a context from a PE (R222, R223). -/
def State.checkRange (s : State) (c pe : Nat) (n : Need) (va len : Nat) : RangeRes :=
  s.checkRuns c [pe, 2048 + dieOfPe pe] n (pageRuns va len)

/-- The same for a request that its home performs later (R476). -/
def State.checkHome (s : State) (c pe : Nat) (n : Need) (va len : Nat) : RangeRes :=
  s.homeRuns c [pe, 2048 + dieOfPe pe] n (pageRuns va len)

/-- The physical address of an offset within checked runs. -/
def runAt : List (Nat × Nat) → Nat → Nat
  | [], _ => 0
  | (k, n) :: t, o => if o < n then k + o else runAt t (o - n)

/-- The bytes of checked runs. -/
def State.readRuns (s : State) (ks : List (Nat × Nat)) : List Byte := ks.flatMap fun r => s.readBytes r.1 r.2

/-- Write bytes over checked runs. -/
def State.writeRuns (s : State) : List (Nat × Nat) → List Byte → State
  | [], _ => s
  | (k, n) :: t, l => (s.writeBytes k (l.take n)).writeRuns t (l.drop n)

/-- A granule of checked runs is poisoned. -/
def State.runsPoisoned (s : State) (ks : List (Nat × Nat)) : Option Nat :=
  (ks.find? fun r => s.rangePoisoned r.1 r.2).map fun r => r.1 / 64 * 64

end Sys2Proof.Machine
end

