-- ==== Sys2Proof/Machine/Ops.lean ====
section
/-! DEFINITION. Shared operations: numbers drawn, messages (R16 to R20), tile references (R156 to R163), raising a fault and
the halt that follows (R87, R394 to R400), and the sends of a firing instruction (R77, R84, R86). -/

namespace Sys2Proof.Machine

/-! ### Serial numbers and free values -/

/-- The next serial number. -/
def State.bump (s : State) : State := { s with sched := { s.sched with serial := s.sched.serial + 1 } }

/-- Draw the next free value: the state that has drawn it. -/
def State.drawn (s : State) : State := { s with sched := { s.sched with free := s.sched.free + 1 } }

/-- The free word drawn next. -/
def State.freeWord (s : State) : Word := Config.freeWord s.sched.free

/-- The free choice drawn next, among `n`. -/
def State.freeChoice (s : State) (n : Nat) : Nat := Config.freeChoice s.sched.free % n

/-- The cycle. -/
def State.now (s : State) : Nat := s.sched.cycle

/-! ### Frames -/

/-- The key of a frame (R73). -/
def frameKey (pe f : Nat) : Nat := pe * 256 + f

/-- A frame. -/
def State.frame? (s : State) (k : Nat) : Option Frame := s.pe.frames.get? k

/-- Replace a frame. -/
def State.setFrame (s : State) (k : Nat) (f : Frame) : State := { s with pe := { s.pe with frames := s.pe.frames.put k f } }

/-- Change a frame that is live. -/
def State.modFrame (s : State) (k : Nat) (g : Frame → Frame) : State :=
  match s.frame? k with
  | some f => s.setFrame k (g f)
  | none => s

/-- Free a frame (R76). -/
def State.delFrame (s : State) (k : Nat) : State := { s with pe := { s.pe with frames := s.pe.frames.del k } }

/-- A task slot. -/
def State.task? (s : State) (pe t : Nat) : Option Task := s.pe.tasks.get? (pe * 16 + t)

/-- Replace a task slot. -/
def State.setTask (s : State) (pe t : Nat) (v : Task) : State := { s with pe := { s.pe with tasks := s.pe.tasks.put (pe * 16 + t) v } }

/-- Change a task that holds a slot. -/
def State.modTask (s : State) (pe t : Nat) (g : Task → Task) : State :=
  match s.task? pe t with
  | some v => s.setTask pe t (g v)
  | none => s

/-- What a context holds on a PE. -/
def State.pctx (s : State) (c pe : Nat) : PeCtx := s.pe.pctx.getD (c * 2048 + pe) PeCtx.reset

/-- Replace it. -/
def State.setPctx (s : State) (c pe : Nat) (v : PeCtx) : State := { s with pe := { s.pe with pctx := s.pe.pctx.put (c * 2048 + pe) v } }

/-- The frame of an activation while it lives (R73). -/
def State.frameOf (s : State) (pe frame uid : Nat) : Option Frame :=
  match s.frame? (frameKey pe frame) with
  | some f => if f.uid = uid then some f else none
  | none => none

/-! ### Tokens and messages -/

/-- The code of a kind (R18). -/
def Kind.code : Kind → Nat
  | .scalar => 0
  | .tile => 1
  | .null => 2

/-- The side of a slot number (R17). -/
def sideNum : Side → Nat
  | .a => 0
  | .b => 1
  | .c => 2

/-- The number of ones of a number below 2^n is odd. -/
def oddOnes : Nat → Nat → Bool
  | 0, _ => false
  | n + 1, v => xor (v % 2 == 1) (oddOnes n (v / 2))

/-- 128 bits with their parities over the value and the other fields (R18). -/
def withParity (v hi : Nat) : BitVec 128 :=
  BitVec.ofNat 128 (v + hi * 2 ^ 64 + (if oddOnes 64 v then 2 ^ 126 else 0) + (if oddOnes 62 hi then 2 ^ 127 else 0))

/-- A token's 128 bits (R18). -/
def tokenRaw (cls : Nat) (t : Tok) (slot pe frame side idx : Nat) : BitVec 128 :=
  withParity (if t.kind = .null then 0 else t.val.toNat)
    (idx + side * 2 ^ 7 + frame * 2 ^ 9 + pe * 2 ^ 17 + slot * 2 ^ 28 + t.kind.code * 2 ^ 32 + cls * 2 ^ 34)

/-- A field of a token. -/
def rawField (r : BitVec 128) (lo n : Nat) : Nat := bitsAt r.toNat lo n

/-- R19: both parities hold, and class and slot hold no reserved value. -/
def tokenGood (r : BitVec 128) : Bool :=
  !(oddOnes 64 (rawField r 0 64) != bitAt r.toNat 126) && !(oddOnes 62 (rawField r 64 62) != bitAt r.toNat 127) &&
    decide (rawField r 98 4 < 8) && decide (rawField r 92 4 < 9)

/-- The kind and value a token carries. -/
def rawTok (r : BitVec 128) : Tok :=
  if rawField r 96 2 = 1 then { kind := .tile, val := wordOf (rawField r 0 64) }
  else if rawField r 96 2 = 2 then nullTok
  else { kind := .scalar, val := wordOf (rawField r 0 64) }

/-- R20: a token of kind 3 or of side 3. -/
def tokenOdd (r : BitVec 128) : Bool := decide (rawField r 96 2 = 3) || decide (rawField r 71 2 = 3)

/-- The context slot of a context (R389). -/
def State.slotOf (s : State) (c : Nat) : Nat := match s.ctx? c with | some x => x.slot | none => 0

/-- The instruction whose work a message carries. -/
def Msg.owner : Msg → Option Src
  | .token _ _ src | .reply _ _ src | .bind _ _ src | .element _ _ src _ _ | .elemReply _ _ _ _ src | .chClose _ _ _ src
  | .join _ _ _ _ src | .future _ _ _ _ _ src | .poison _ _ _ src | .deque _ _ _ _ _ src | .wqueue _ _ _ _ _ src
  | .depSubmit _ _ src _ | .acread _ _ src => some src
  | .recvReq _ r => some r.src
  | _ => none

/-- The context whose work a message carries (R19): that of its instruction, or the one on whose behalf hardware sends it. -/
def State.workOf (s : State) (m : Msg) : Nat :=
  match m.owner with
  | some src => src.ctx
  | none => match m with
    | .inject _ cid | .count cid _ => (s.sync.counters.get? cid).elim 0 fun c => c.ctx
    | .barArrive _ _ l _ | .barRelease _ _ l => (l.head?).elim 0 fun a => a.src.ctx
    | .packet _ _ c | .headUpdate c _ _ => (s.copies.get? c).elim 0 fun k => k.src.ctx
    | .inval _ _ c _ => c
    | .withheld d => (s.frameOf d.pe d.frame d.uid).elim 0 fun f => f.ctx
    | .release h =>
      let t := s.pe.tiles.getD (bitsAt h.toNat 53 11 * 4096 + bitsAt h.toNat 41 12) TileSlot.reset
      (s.ctxs.find? fun p => p.2.slot == t.owner && bitAt p.2.dieMask (bitsAt h.toNat 53 11 / 256)).elim 0 Prod.fst
    | .epRelease _ _ pe task => (s.task? pe task).elim 0 fun t => t.ctx
    | .xoff ch _ | .xon ch _ => ((s.chans.get? ch).bind fun c => c.writer).elim 0 fun w => w.2.2
    | .devWrite _ _ _ acc => (acc.bind fun a => s.mem.accesses.get? a.1).elim 0 fun a => a.src.ctx
    | _ => 0

/-- The side and index that a target puts into a token: a write entry's number, of side a, is the model's layout (DESIGN CHOICE, assumption log 91). -/
def targetPlace : Target → Nat × Nat
  | .slot sd i => (sideNum sd, i.toNat)
  | .write e => (0, e.toNat)
  | .none => (0, 0)

/-- A message's 128 bits as its sender makes them (R18): a token's own, a reply's to its destination, an element's with its kind, a release's with the
handle, and a null of the message's class and slot where no rule gives a value or the layout is the part's (R4; the value of a tile element's, whose
handle the receiving PE makes, and what a message of class 5 or 7 shows are DESIGN CHOICE, assumption log 91). -/
def State.wireOf (s : State) (dst : Agent) (cls ctx : Nat) (m : Msg) : BitVec 128 :=
  let slot := s.slotOf ctx
  let pe := match dst with | .pe n => n | _ => 0
  match m with
  | .token raw _ _ | .inject raw _ | .packet raw _ _ => raw
  | .reply d t _ => tokenRaw cls t slot d.pe d.frame (targetPlace d.tgt).1 (targetPlace d.tgt).2
  | .withheld d => tokenRaw cls nullTok slot d.pe d.frame (targetPlace d.tgt).1 (targetPlace d.tgt).2
  | .elemReply ds _ _ _ _ =>
    match ds with
    | d :: _ => tokenRaw cls { kind := .tile, val := 0 } slot d.pe d.frame (targetPlace d.tgt).1 (targetPlace d.tgt).2
    | [] => tokenRaw cls { kind := .tile, val := 0 } slot pe 0 0 0
  | .release h => tokenRaw cls { kind := .tile, val := h } slot pe 0 0 0
  | .element _ e _ _ holder => tokenRaw cls (match holder with | some h => { kind := .tile, val := h } | none => { kind := .scalar, val := e.val }) slot pe 0 0 0
  | _ => tokenRaw cls nullTok slot pe 0 0 0

/-- Send a message for a context (R19). -/
def State.postFor (s : State) (ctx : Nat) (src dst : Agent) (cls : Nat) (m : Msg) : State :=
  { s with net := s.net.put s.sched.serial { src := src, dst := dst, cls := cls, ctx := ctx, sent := s.sched.cycle, body := m
                                             wire := s.wireOf dst cls ctx m, refusals := 0, refused := false } }.bump

/-- Send a message (R19). -/
def State.post (s : State) (src dst : Agent) (cls : Nat) (m : Msg) : State := s.postFor (s.workOf m) src dst cls m

/-- A message in flight. -/
def State.msg? (s : State) (n : Nat) : Option Env := s.net.get? n

/-- R16, R231: no message of the same source, destination and class was sent before. -/
def State.ahead (s : State) (n : Nat) (e : Env) : Bool :=
  !s.net.any fun p => decide (p.1 < n) && p.2.src == e.src && p.2.dst == e.dst && p.2.cls == e.cls

/-- The receiver accepts a message: it passes the checks of R19, and was not refused since it was sent last. -/
def Env.sound (e : Env) : Bool := !e.refused && tokenGood e.wire

/-- The remote package of an agent: those of its engines follow this package's (R219). -/
def Agent.package : Agent → Option Nat
  | .remote p | .remoteStack p _ => some p
  | .quad q => if 512 ≤ q then some (q / 512 - 1) else none
  | _ => none

/-- A JX link. -/
def State.link (s : State) (l : Nat) : Link := s.dev.links.getD l Link.reset

/-- Replace a JX link. -/
def State.setLink (s : State) (l : Nat) (v : Link) : State := { s with dev := { s.dev with links := s.dev.links.put l v } }

/-- A direction of a link may carry a further group: it is keyed, and the key is good for the group's counter (R475). -/
def LinkDir.good (d : LinkDir) : Bool := d.key.isSome && decide (d.counter + 1 < 2 ^ 32)

/-- A link carries traffic (R313, R475): no flit crosses an unkeyed one. -/
def Link.carries (k : Link) : Bool := k.up && k.tx.good && k.rx.good

/-- What goes to or comes from an agent may pass: no JX link is crossed, or the one that is carries traffic (R475). -/
def State.reaches (s : State) (a : Agent) : Bool := match a.package with | some p => (s.link (Config.linkOf p)).carries | none => true

/-- The receiver accepts a message: it is the next of its source, destination and class, passes the checks of R19, and has crossed the JX link in its
way (R475). -/
def State.first (s : State) (n : Nat) (e : Env) : Bool := s.ahead n e && e.sound && s.reaches e.src && s.reaches e.dst

/-- Take a message out of the mortar. -/
def State.taken (s : State) (n : Nat) : State := { s with net := s.net.del n }

/-- Replace a message in flight. -/
def State.setEnv (s : State) (n : Nat) (e : Env) : State := { s with net := s.net.put n e }

/-! ### Counted writes (R275, R279) -/

/-- The home of a counter as an agent (R275). -/
def counterHome (cid : Nat) : Agent := if bitAt cid 23 then .pe (bitsAt cid 12 11) else .stack (bitsAt cid 12 11)

/-- A segment holds a byte. -/
def inSegs (segs : List (Nat × Nat)) (key : Nat) : Bool := segs.any fun g => decide (g.1 ≤ key ∧ key < g.1 + g.2)

/-- A home counts a write to bytes (R279): one message to each counter that binds some of them; a tile store's counters count only writes to its
own aperture (R230). -/
def State.countWrite (s : State) (home : Agent) (keys : List Nat) : State :=
  s.sync.counters.foldl (fun s p =>
    let n := (keys.filter fun k => inSegs p.2.segs k).length
    if p.2.bound && n != 0 && (!bitAt p.1 23 || home == counterHome p.1) then s.post home (counterHome p.1) 7 (.count p.1 n) else s) s

/-- The device writes bytes over checked runs, and their homes count them (R279). -/
def State.storeRuns (s : State) (ks : List (Nat × Nat)) (l : List Byte) : State :=
  ks.foldl (fun s r => s.countWrite (homeAgent r.1) ((List.range r.2).map fun i => r.1 + i)) (s.writeRuns ks l)

/-! ### Tiles -/

/-- Fields of a handle (R158). -/
def hPe (h : Word) : Nat := bitsAt h.toNat 53 11
/-- The slot. -/
def hSlot (h : Word) : Nat := bitsAt h.toNat 41 12
/-- The format channel. -/
def hFc (h : Word) : Nat := bitsAt h.toNat 36 5
/-- Rows − 1. -/
def hRows (h : Word) : Nat := bitsAt h.toNat 32 4
/-- Columns − 1. -/
def hCols (h : Word) : Nat := bitsAt h.toNat 28 4
/-- The generation. -/
def hGen (h : Word) : Nat := bitsAt h.toNat 0 28

/-- A handle from its fields (R158). -/
def handleOf (pe slot fc rows cols gen : Nat) : Word :=
  wordOf (gen % 2 ^ 28 + cols * 2 ^ 28 + rows * 2 ^ 32 + fc * 2 ^ 36 + slot * 2 ^ 41 + pe * 2 ^ 53)

/-- A tile slot of a PE. -/
def State.tileSlot (s : State) (pe slot : Nat) : TileSlot := s.pe.tiles.getD (pe * 4096 + slot) TileSlot.reset

/-- Replace a tile slot. -/
def State.setTile (s : State) (pe slot : Nat) (t : TileSlot) : State := { s with pe := { s.pe with tiles := s.pe.tiles.put (pe * 4096 + slot) t } }

/-- The live tile of a handle: its slot is allocated and has the handle's generation. -/
def State.tileOf (s : State) (h : Word) : Option TileSlot :=
  let t := s.tileSlot (hPe h) (hSlot h)
  if t.count ≠ 0 ∧ t.gen = hGen h then some t else none

/-- A slot freed (R162). -/
def TileSlot.freed (t : TileSlot) : TileSlot := { TileSlot.reset with gen := (t.gen + 1) % 2 ^ 28 }

/-- Apply a release at the tile's PE (R162): a stale one is dropped. -/
def State.dropRef (s : State) (h : Word) : State :=
  match s.tileOf h with
  | none => s
  | some t => s.setTile (hPe h) (hSlot h) (if t.count = 1 then t.freed else { t with count := t.count - 1 })

/-- Release a reference from a PE: at once on the tile's own PE, by a class-7 token elsewhere (R162). -/
def State.release (s : State) (pe : Nat) (h : Word) : State :=
  if hPe h = pe then s.dropRef h else s.post (.pe pe) (.pe (hPe h)) 7 (.release h)

/-- Release the reference a token holds, if it is a handle (R161). -/
def State.dropTok (s : State) (pe : Nat) (t : Tok) : State := if t.kind = .tile then s.release pe t.val else s

/-- Release the references of several tokens. -/
def State.dropToks (s : State) (pe : Nat) (l : List Tok) : State := l.foldl (fun s t => s.dropTok pe t) s

/-- Add a reference; none where the count would pass 4,095 (R163). A handle that names no live tile has none to count. -/
def State.addRef (s : State) (h : Word) : Option State :=
  match s.tileOf h with
  | none => some s
  | some t => if t.count = 4095 then none else some (s.setTile (hPe h) (hSlot h) { t with count := t.count + 1 })

/-- Add a reference for each handle among tokens. -/
def State.addRefs (s : State) : List Tok → Option State
  | [] => some s
  | t :: l => if t.kind = .tile then (match s.addRef t.val with | some s' => s'.addRefs l | none => none) else s.addRefs l

/-- The change of R161 for an instruction that consumes some tokens and sends others, in one step: what is passed on keeps
its reference. -/
def State.settle (s : State) (pe : Nat) (consumed : List Tok) : List Tok → Option State
  | [] => some (s.dropToks pe consumed)
  | t :: l =>
    if consumed.contains t then s.settle pe (consumed.erase t) l
    else match s.addRefs [t] with
      | some s' => s'.settle pe consumed l
      | none => none

/-- Granules a tile of a width code takes (R156). -/
def widthGranules (w : Nat) : Nat := if w = 0 then 1 else if w = 1 then 2 else 4

/-- Granules of a PE in use by handle tiles. -/
def State.granulesUsed (s : State) (pe : Nat) : Nat :=
  s.pe.tiles.foldl (fun n p => if p.1 / 4096 = pe ∧ p.2.count ≠ 0 then n + p.2.granules else n) 0

/-- Granules of a ring's entries (R195). -/
def Ring.granules (r : Ring) : Nat := if r.bound.isSome then r.depth * widthGranules r.width else 0

/-- Granules that the operand rings of a PE hold (R195). -/
def State.ringGranules (s : State) (pe : Nat) : Nat :=
  s.pe.rings.foldl (fun n p => if p.1 / 8 = pe then n + p.2.granules + p.2.undo.elim 0 Prod.snd else n) 0

/-- Free granules of a PE: neither handle tiles nor rings nor the aperture hold them (R156, R195, R230). -/
def State.granulesFree (s : State) (pe : Nat) : Nat :=
  Config.tileGranules - s.aperture pe / 256 - s.granulesUsed pe - s.ringGranules pe

/-- Free tile slots of a PE. -/
def State.slotsFree (s : State) (pe : Nat) : List Nat :=
  (List.range Config.tileSlots).filter fun i => (s.tileSlot pe i).count == 0

/-- The number of tile slots of a PE in use. -/
def State.slotsUsed (s : State) (pe : Nat) : Nat := (s.pe.tiles.filter fun p => p.1 / 4096 == pe && p.2.count != 0).length

/-- There is room for a tile of a width code on a PE (R170). -/
def State.tileRoom (s : State) (pe w : Nat) : Bool :=
  decide (s.slotsUsed pe < Config.tileSlots) && decide (widthGranules w ≤ s.granulesFree pe)

/-- The slot the tile store takes for a new tile: which free one is free choice (R158). -/
def State.pickSlot (s : State) (pe : Nat) : Nat :=
  let l := s.slotsFree pe
  nthD l (s.freeChoice l.length) 0

/-- Put a new tile into a slot, with `m` references: sent to no target it is freed at once (R162, R170). -/
def State.fillSlot (s : State) (pe slot owner m w : Nat) (nf : Bool) (codes : List Nat) : State :=
  let t := s.tileSlot pe slot
  s.setTile pe slot (if m = 0 then t.freed else
    { gen := t.gen, count := m, owner := owner, width := w, nonfinite := nf, granules := widthGranules w, codes := codes })

/-! ### Faults -/

/-- The fault codes (R399). -/
def Code.num : Code → Nat
  | .encoding => 0x01
  | .noncodeBlock => 0x02
  | .feature => 0x03
  | .operand => 0x04
  | .tokenKind => 0x05
  | .handle => 0x06
  | .refcount => 0x07
  | .align => 0x08
  | .page => 0x09
  | .protection => 0x0A
  | .frameQuota => 0x0B
  | .branchCount => 0x0C
  | .channelState => 0x10
  | .channelDeadlock => 0x11
  | .spillQuota => 0x12
  | .doubleResolve => 0x18
  | .futureState => 0x19
  | .joinUnderflow => 0x1A
  | .watchdog => 0x20
  | .linkDown => 0x21
  | .uncorrectable => 0x22
  | .tokenParity => 0x23
  | .trap => 0x28
  | .breakpoint => 0x29
  | .privilege => 0x2A
  | .debugDisabled => 0x2B
  | .translationResource => 0x30
  | .object => 0x31
  | .rateInconsistent => 0x32

/-- The priorities (R399): 1 is highest. -/
def Code.priority : Code → Nat
  | .uncorrectable | .tokenParity | .linkDown => 1
  | .watchdog | .channelDeadlock => 2
  | .encoding | .noncodeBlock | .feature | .translationResource | .object | .rateInconsistent => 3
  | .privilege | .debugDisabled => 4
  | .tokenKind => 5
  | .protection => 6
  | .align => 7
  | .page => 8
  | .operand | .handle | .refcount | .frameQuota | .branchCount | .spillQuota => 9
  | .channelState | .doubleResolve | .futureState | .joinUnderflow => 10
  | .trap | .breakpoint => 11

/-- A fault as an instruction raises it: its code and what a stop record adds (R397, R398). -/
structure Fail where
  code : Code
  detail : Word := 0
  aux : Word := 0
  step : Option Nat := none
  access : Option (Nat × Nat) := none
  frees : Bool := false     -- a check of R159 failed: the instruction releases the references its operands hold
  deriving DecidableEq, Repr

/-- The references that an instruction's operands hold go with its fault: of R159, and a handle where a scalar is wanted (R110, R264, R316, R379). -/
def Fail.releases (e : Fail) : Bool := e.frees || e.code == .tokenKind

/-- Record a fault in its context (R394, R395): the first asks for the halt line, one found while the context halts is
recorded, and one found after it halted is held. -/
def State.raise (s : State) (r : FaultRec) : State :=
  s.modCtx r.src.ctx fun x =>
    match x.state with
    | .running | .checkpointing =>
      { x with faults := x.faults ++ [r]
               haltReq := match x.haltReq with | some q => some q | none => some (s.sched.cycle, 1) }
    | .halting => { x with faults := x.faults ++ [r] }
    | .halted => { x with heldFaults := x.heldFaults ++ [r] }

/-- The activation is kept (R87): its irrevocable instruction has performed, or its LOOP has fired with operands that are not null. -/
def Frame.isKept (f : Frame) : Bool := f.performed || f.looped

/-- The record of a fault of an instruction (R397). -/
def State.record (s : State) (src : Src) (e : Fail) : FaultRec :=
  let live := s.frameOf src.pe src.frame src.uid
  { code := e.code, stamp := s.sched.cycle, detail := e.detail, aux := e.aux, src := src, header := false, noInstr := false
    step := e.step, access := e.access
    frameValid := live.isSome
    afterCommit := match live with | some f => !f.isOpen | none => true
    kept := match live with | some f => f.isKept | none => false }

/-- An Open activation that is not kept is discarded by its fault (R87): from now on nothing of it fires, no token reaches it and it does not commit. -/
def State.failFrame (s : State) (src : Src) : State :=
  match s.frameOf src.pe src.frame src.uid with
  | some f => if f.isOpen && !f.isKept then s.setFrame (frameKey src.pe src.frame) { f with failed := true } else s
  | none => s

/-- Raise a fault at an instruction. -/
def State.raiseAt (s : State) (src : Src) (e : Fail) : State := (s.raise (s.record src e)).failFrame src

/-- An activation takes part: it is Open and no fault discards it (R85, R87). -/
def Frame.live (f : Frame) : Bool := f.isOpen && !f.failed

/-- Raise a fault at a block header or a dropped record: the header indication, Frame not valid (R75, R397). -/
def State.raiseHeader (s : State) (src : Src) (e : Fail) : State :=
  s.raise { s.record src e with header := true, frameValid := false, afterCommit := false, kept := false }

/-- Raise a fault that names no instruction (R402). -/
def State.raiseNone (s : State) (src : Src) (e : Fail) : State :=
  s.raise { s.record src e with noInstr := true, frameValid := false, afterCommit := false, kept := false }

/-- The tokens parked in a frame that hold a reference if they are handles (R161). -/
def Frame.parkedToks (f : Frame) : List Tok := (f.slots.filter fun p => !f.lost.contains p.1).map Prod.snd

/-- Those among them in the slots of an instruction. -/
def Frame.heldAt (f : Frame) (idx : Nat) : List Tok := (f.slots.filter fun p => p.1 / 4 == idx && !f.lost.contains p.1).map Prod.snd

/-! ### Sends of an instruction -/

/-- The source that names an instruction of a frame. -/
def srcOf (k : Nat) (f : Frame) (idx : Nat) : Src :=
  { ctx := f.ctx, pe := k / 256, task := f.task, frame := k % 256, uid := f.uid, seq := f.seq, parent := f.parent, wide := f.wide, block := f.cfg.addr, idx := idx
    node := nthD f.cfg.nodes idx 0xFFFFFFFF, iter := f.iter }

/-- Send a token of an activation to one of its targets: a slot by a token of the mortar (R18), a write entry at once; none
where the entry already has its token (R86). -/
def State.sendTo (s : State) (src : Src) (tgt : Target) (t : Tok) : Option State :=
  match tgt with
  | .none => some s
  | .slot side i =>
    some (s.post (.pe src.pe) (.pe src.pe) 0
      (.token (tokenRaw 0 t (s.slotOf src.ctx) src.pe src.frame (sideNum side) i.toNat) src.uid src))
  | .write e =>
    let k := frameKey src.pe src.frame
    match s.frame? k with
    | none => some s
    | some f => if (f.outs.get? e.toNat).isSome then none else some (s.setFrame k { f with outs := f.outs.put e.toNat t })

/-- Raise an instruction's outstanding-reply count (R77). -/
def State.expect (s : State) (k n : Nat) : State := s.modFrame k fun f => { f with outstanding := f.outstanding + n }

/-- The targets of an instruction that are named. -/
def namedTargets (h : Hdr) : List Target := [h.t0, h.t1].filter (· != .none)

/-- Where the replies of an instruction go (R77): one for each named target. -/
def destsOf (src : Src) (ts : List Target) : List Dest :=
  (ts.filter (· != .none)).map fun t => { pe := src.pe, frame := src.frame, uid := src.uid, tgt := t }

/-- Send a reply to each destination (R77), from where it was performed. -/
def State.reply (s : State) (from_ : Agent) (cls : Nat) (ds : List Dest) (t : Tok) (src : Src) : State :=
  ds.foldl (fun s d => s.post from_ (.pe d.pe) cls (.reply d t src)) s

/-- Withhold the replies of a request whose access met a fault (R225): each frame's count falls as if they had come. -/
def State.withhold (s : State) (from_ : Agent) (ds : List Dest) : State :=
  ds.foldl (fun s d => s.post from_ (.pe d.pe) 1 (.withheld d)) s

/-- Sticky flags of an activation (R112). -/
def State.orFlags (s : State) (k : Nat) (fl : BitVec 7) : State := s.modFrame k fun f => { f with flags := f.flags ||| fl }

end Sys2Proof.Machine
end

