-- ==== Sys2Proof/Machine/Queue.lean ====
section
/-! DEFINITION. Continuation records (R347 to R349), the placement of a record in a quad queue (R358, R361 to R363), host
requests (R410) and entries of a fault queue (R226 to R228, R409). -/

namespace Sys2Proof.Machine

/-! ### Continuation records -/

/-- The record in 64 bytes, or none where it is malformed (R347 to R349). -/
def recOfBytes (l : List Byte) : Option Rec :=
  let fl := fieldAt l 16 8
  let join := fieldAt l 8 8
  let regs := bitsAt fl 16 8
  let fa := bitAt fl 8
  let a5 := fieldAt l 56 8
  if bitsAt fl 32 32 ≠ 0 ∨ bitsAt fl 24 8 ≠ 0 ∨ bitsAt fl 9 7 ≠ 0 ∨ bitsAt fl 4 4 ≠ 0 ∨ regs < 6 ∨ 128 < regs ∨ join % 64 ≠ 0 ∨
      (fa = true ∧ a5 % 64 ≠ 0) then none
  else some { code := fieldAt l 0 8, join := join, regs := regs, fa := fa, place := bitsAt fl 2 2, prio := bitsAt fl 0 2, dep := none
              args := (List.range 5).map fun i => wordOf (fieldAt l (24 + 8 * i) 8), g5 := none }

/-- The Flags doubleword of a task's record as its slot holds it (R348, R407). -/
def Rec.flags (r : Rec) : Nat :=
  r.prio + r.place * 2 ^ 2 + bit r.fa * 2 ^ 8 + r.regs * 2 ^ 16 + (match r.dep with | some e => e % 8192 * 2 ^ 32 + 2 ^ 45 | none => 0)

/-! ### Placement -/

/-- A context issues instructions (R390). -/
def CtxState.issues : CtxState → Bool
  | .running | .checkpointing => true
  | _ => false

/-- The partition of a context. -/
def State.partOf (s : State) (c : Nat) : Nat := match s.ctx? c with | some x => x.part | none => 0

/-- A context issues instructions (R390). -/
def State.issuing (s : State) (c : Nat) : Bool := match s.ctx? c with | some x => x.state.issues | none => false



/-- The die of a package quad (R15). -/
def dieOfQuad (q : Nat) : Nat := q / 64

/-- A context is resident on a die (R389). -/
def Ctx.onDie (x : Ctx) (d : Nat) : Bool := bitAt x.dieMask d

/-- The dies of a context, lowest first. -/
def Ctx.dies (x : Ctx) : List Nat := (List.range 8).filter fun d => x.onDie d

/-- A quad's power state. -/
def State.quadPower (s : State) (q : Nat) : QuadPower := s.task.power.getD q QuadPower.reset

/-- Tasks running on a quad's PEs. -/
def State.quadTasks (s : State) (q : Nat) : Nat := (s.pe.tasks.filter fun p => quadOfPe (p.1 / 16) == q).length

/-- Records queued at a quad. -/
def State.quadQueued (s : State) (q : Nat) : Nat := (s.task.queues.filter fun e => e.quad == q).length

/-- The cost of a quad (R363). -/
def State.quadCost (s : State) (q : Nat) : Nat :=
  64 * (s.quadQueued q + s.quadTasks q) + (if (s.quadPower q).gated then 4750 else 0)

/-- The quad of least cost on a die (R361, R363): gated quads are no candidates while more than three-quarters of the power
budget is in use, unless no quad is awake; how the controller estimates that is a free choice. -/
def State.leastQuad (s : State) (d : Nat) : Nat :=
  let all := (List.range 64).map fun i => d * 64 + i
  let awake := all.filter fun q => !(s.quadPower q).gated
  let cands := if Config.overBudget s.sched.free && !awake.isEmpty then awake else all
  (leastBy s.quadCost cands).getD (d * 64)

/-- The die whose last reported minimum cost is least among a context's dies, `home` on a tie (R361, R362). -/
def State.leastDie (s : State) (x : Ctx) (home : Nat) : Nat :=
  let cost := fun d => (s.task.costs.getD d (0, 0)).2
  let ds := if x.onDie home then home :: x.dies else x.dies
  (leastBy cost ds).getD home

/-- The quad a placement code gives, relative to a quad and its die (R361, R362), with host-assisted distribution (R408). -/
def State.placeQuad (s : State) (x : Ctx) (place quad : Nat) : Nat :=
  let place := if bitAt x.regs.fmode 1 ∧ 2 ≤ place then 1 else place
  let d := dieOfQuad quad
  let place := if place ≤ 1 ∧ !x.onDie d then 2 else place
  if place ≤ 1 then quad
  else if place = 2 ∧ x.onDie d then s.leastQuad d
  else s.leastQuad (s.leastDie x d)

/-- The offset of the backing-area size of a quad's queue in its die block (R470; DESIGN CHOICE, assumption log 9). -/
def queueAreaOff (quad prio : Nat) : Nat := 0x01100000 + dieOfQuad quad * 0x10000 + 0x2000 + (quad % 64 * 4 + prio) * 16

/-- Entries a queue holds: its head and tail and its backing area (R358). -/
def State.queueCap (s : State) (quad prio : Nat) : Nat :=
  let size := s.devNat (queueAreaOff quad prio + 8) 8
  Config.queueOnChip + (if size = 0 then 0 else Config.queueEntries size)

/-- A queue has room. -/
def State.queueRoom (s : State) (quad prio : Nat) : Bool :=
  decide ((s.task.queues.filter fun e => e.quad == quad && e.record.prio == prio).length < s.queueCap quad prio)

/-- Put a record into a quad's queue; a gated quad begins to wake (R358, R364). -/
def State.putRecord (s : State) (c : Nat) (r : Rec) (quad : Nat) (tag : Option Nat) (image : Option (List Tok × Nat)) : State :=
  let p := s.quadPower quad
  let p := if p.gated && p.waking.isNone then { p with waking := some s.sched.cycle } else p
  let e : QEntry := { num := s.sched.serial, ctx := c, record := r, tag := tag, quad := quad, image := image, since := s.sched.cycle, backed := false }
  { s with task := { s.task with queues := s.task.queues ++ [e], power := s.task.power.put quad p } }.bump

/-- A record waits for room in its queue (R358). -/
def State.waitRoom (s : State) (c : Nat) (r : Rec) (quad : Nat) (tag : Option Nat) (image : Option (List Tok × Nat)) : State :=
  { s with task := { s.task with waiting := s.task.waiting ++ [{ ctx := c, record := r, quad := quad, tag := tag, image := image }] } }

/-- A task goes back to the queue of a quad, from its record or its image (R405, R406). -/
def State.requeue (s : State) (c : Nat) (r : Rec) (quad : Nat) (image : Option (List Tok × Nat)) : State :=
  if s.queueRoom quad r.prio then s.putRecord c r quad none image else s.waitRoom c r quad none image

/-- Enqueue a record by hardware (R362): where its queue is full it is held until room appears (R358). -/
def State.hwEnqueue (s : State) (c : Nat) (r : Rec) (quad : Nat) (named : Bool) : State :=
  match s.ctx? c with
  | none => s
  | some x =>
    let q := s.placeQuad x (if named then 0 else r.place) quad
    let s := s.drawn
    if s.queueRoom q r.prio then s.putRecord c r q none none
    else s.waitRoom c r q none none

/-- Records held for room enter their queues, in the order they came, as far as there is room (R358). -/
def State.enqueueHeld (s : State) : State :=
  s.task.waiting.foldl (fun s w =>
    if s.queueRoom w.quad w.record.prio then
      { s with task := { s.task with waiting := s.task.waiting.erase w } }.putRecord w.ctx w.record w.quad w.tag w.image
    else s) s

/-- The source that names a record's address at the header indication, in a context (R349, R397). -/
def Src.atBlock (c block : Nat) : Src := { Src.none with ctx := c, block := block, idx := 0xFF }

/-- Enqueue by hardware the record held in bytes (R349, R362): a malformed one is dropped and OPERAND raised in its context at
the record's address. -/
def State.hwEnqueueBytes (s : State) (c : Nat) (l : List Byte) (va quad : Nat) (named : Bool) (g5 : Option Word) : State :=
  match recOfBytes l with
  | none => s.raiseHeader (Src.atBlock c va) { code := .operand }
  | some r => s.hwEnqueue c { r with g5 := g5 } quad named

/-- Bytes at a virtual address of a context as hardware reads them, where the whole range can be read. -/
def State.hwRead (s : State) (c : Nat) (n : Need) (va len : Nat) : Option (List Byte) :=
  match s.checkRuns c [] n (pageRuns va len) with
  | .ok ks => if (s.runsPoisoned ks).isSome then none else some (s.readRuns ks)
  | _ => none

/-- Enqueue by hardware the record at a virtual address (R409, R396, R418): one that cannot be read is dropped as a malformed
one is. -/
def State.hwEnqueueAt (s : State) (c va quad : Nat) (g1 : Option Word) : State :=
  match s.hwRead c .reader va 64 with
  | none => s.raiseHeader (Src.atBlock c va) { code := .operand }
  | some l => match recOfBytes l with
    | none => s.raiseHeader (Src.atBlock c va) { code := .operand }
    | some r => s.hwEnqueue c { r with args := match g1 with | some v => setAt 0 v r.args | none => r.args } quad false

/-! ### Host requests (R410) -/

/-- The bits of a device-register byte that are no reserved ones (R6): of a window entry (R476), of a copy-queue registration (R470) and of a partition
page's context-creation registers (R388). -/
def devMask (off : Nat) : Byte :=
  if 0x10000 ≤ off ∧ off < 0x18000 then (if off % 16 < 4 then 0xFF else if off % 16 = 4 then 1 else 0)
  else if 0x02000000 ≤ off ∧ off < 0x02100000 then (if off % 32 < 10 then 0xFF else if off % 32 = 10 then 1 else 0)
  else if 0x18000 ≤ off ∧ off < 0x1018000 ∧ 0x18 ≤ (off - 0x18000) % 0x10000 ∧ (off - 0x18000) % 0x10000 < 0x40 then 0
  else 0xFF

/-- Write device-register bytes: reserved bits are ignored, and read as zero (R6). -/
def State.devPut (s : State) (off : Nat) (data : List Byte) : State :=
  { s with dev := { s.dev with regs := (data.zipIdx).foldl (fun m b => Memory.write m (off + b.2) (b.1 &&& devMask (off + b.2))) s.dev.regs } }

/-- The offset of a context's HOSTQ register in the package block (R470; DESIGN CHOICE, assumption log 9). -/
def hostqOff (c : Nat) : Nat := 0x8000 + 8 * c

/-- The offset of the indices of a context's host request queue in the package block: the write index in the low half word, the host's read
index in the high one (R470; DESIGN CHOICE, assumption log 37). -/
def hostIndexOff (c : Nat) : Nat := 0x4000 + 4 * c

/-- Records that a host request queue holds (DESIGN CHOICE, assumption log 37). -/
def hostSlots : Nat := 256

/-- The 32 bytes of a host request's record (R410). -/
def HostReq.bytes (r : HostReq) : List Byte :=
  leBytes 1 r.die ++ leBytes 1 r.kind ++ leBytes 1 r.status ++ leBytes 1 0 ++ leBytes 2 r.ctx ++ leBytes 2 0 ++ leBytes 8 r.addr.toNat ++
    leBytes 8 r.arg.toNat ++ leBytes 8 r.reply.toNat

/-- Where the next record of a context's host request queue goes: none where the host has set no queue up in pages of its partition, or the
queue is full (R410, R470, R471). -/
def State.hostPlace (s : State) (c : Nat) : Option Nat :=
  let base := s.devNat (hostqOff c) 8
  let write := s.devNat (hostIndexOff c) 2
  let read := s.devNat (hostIndexOff c + 2) 2
  let at_ := base + 32 * (write % hostSlots)
  if base = 0 ∨ base % 64 ≠ 0 ∨ 2 ^ 40 ≤ base + 32 * hostSlots ∨ s.ownerOf at_ ≠ s.partOf c ∨ hostSlots ≤ (write + 2 ^ 16 - read) % 2 ^ 16 ∨
      s.rangePoisoned at_ 32 then none
  else some at_

/-- The device sends the host something, while the bridge's link is up (R469). -/
def State.toHost (s : State) (o : HostOut) : State := if s.dev.hostUp then { s with dev := { s.dev with out := o :: s.dev.out } } else s

/-- The record of a host request goes to its queue where there is room, and the doorbell sends one MSI-X vector (R410, R468); else it waits
(DESIGN CHOICE, assumption log 37). -/
def State.placeRequest (s : State) (k : Nat) (r : HostReq) : State :=
  match s.hostPlace r.ctx with
  | none => s
  | some a =>
    let s1 := (s.writeBytes a r.bytes).countWrite (homeAgent a) ((List.range 32).map fun i => a + i)
    let s2 := s1.devPut (hostIndexOff r.ctx) (leBytes 2 (s.devNat (hostIndexOff r.ctx) 2 + 1))
    State.toHost { s2 with dev := { s2.dev with requests := s2.dev.requests.put k { r with place := some a } } } (.msix r.ctx (r.kind == 1))

/-- Requests that wait for room in their queues go there as far as there is room, in the order posted. -/
def State.placeHeld (s : State) : State :=
  s.dev.requests.foldl (fun s p => if p.2.place.isNone && p.2.status == 0 then s.placeRequest p.1 p.2 else s) s

/-- Post a host request (R410): it is pending until the host writes its status. -/
def State.hostPost (s : State) (die kind c : Nat) (addr arg : Word) (src : Src) (dests sdests : List Dest) : State :=
  let r : HostReq := { die := die, kind := kind, ctx := c, addr := addr, arg := arg, status := 0, reply := 0, dests := dests, sdests := sdests, src := src
                       place := none }
  (State.bump { s with dev := { s.dev with requests := s.dev.requests.put s.sched.serial r } }).placeHeld

/-! ### Fault queues (R226 to R228, R409) -/

/-- The context in whose address space a context's fault queue lies, and that its resolver record runs in: its creator, or
itself when the host created it (R388, R409). -/
def Ctx.faultSpace (x : Ctx) (c : Nat) : Nat := if x.hostMade then c else x.creator

/-- What writing a fault-queue entry comes to. -/
inductive EntryRes where
  | none              -- no queue, or the entry cannot be written: PAGE stops the context (R409)
  | full              -- the fault waits (R409)
  | entry (s : State) (n : Nat)

/-- The bytes of an entry (R228). -/
def entryBytes (va asid pe kind level slot block idx frame : Nat) : List Byte :=
  leBytes 8 va ++ leBytes 2 asid ++ leBytes 2 pe ++ [BitVec.ofNat 8 kind, BitVec.ofNat 8 level, BitVec.ofNat 8 slot, 0] ++
    leBytes 8 block ++ [BitVec.ofNat 8 idx, BitVec.ofNat 8 frame] ++ List.replicate 6 0

/-- A pending entry of a context for a page and access kind (R226). The page is the 64 KiB page of the address whatever level the walk stopped at, and
the faults of a context on every die share one entry (DESIGN CHOICE, assumption log 96). -/
def State.pendingEntry (s : State) (c kind page : Nat) : Option (Nat × FaultEntry) :=
  s.mem.entries.find? fun p => p.2.ctx == c && p.2.kind == kind && p.2.page == page

/-- The fault of an access joins the pending entry of its page and kind, or the device writes a new entry and tells the
resolver: its record is enqueued, or a kind 5 request posted (R226, R408, R409). -/
def State.pageEntry (s : State) (src : Src) (kind va level : Nat) : EntryRes :=
  match s.ctx? src.ctx with
  | none => .none
  | some x =>
    match s.pendingEntry src.ctx kind (va / 65536) with
    | some (n, _) => .entry s n
    | none =>
      if x.faultArea = 0 then .none else
      let sp := x.faultSpace src.ctx
      match s.hwRead sp .object x.faultArea 128 with
      | none => .none
      | some head =>
        let write := fieldAt head 64 8
        let read := fieldAt head 72 8
        let slots := fieldAt head 80 4
        if slots < 16 ∨ 65536 < slots ∨ 2 ^ slots.log2 ≠ slots then .none
        else if (write + 2 ^ 64 - read) % 2 ^ 64 = slots then .full
        else
          let at_ := x.faultArea + 128 + 32 * (write % slots)
          match s.checkRuns sp [] .object (pageRuns at_ 32), s.checkRuns sp [] .object (pageRuns (x.faultArea + 64) 8) with
          | .ok ks, .ok hs =>
            if (s.runsPoisoned ks).isSome then .none else
            let bytes := entryBytes va x.asid src.pe kind level x.slot src.block src.idx src.frame
            let s1 := (s.storeRuns ks bytes).storeRuns hs (leBytes 8 (write + 1))
            let pa := match ks with | k :: _ => k.1 | [] => 0
            let e : FaultEntry := { ctx := src.ctx, pe := src.pe, kind := kind, page := va / 65536, va := va, pa := pa, die := dieOfPe src.pe
                                    index := write, restart := [] }
            let n := s1.sched.serial
            let s2 := { s1 with mem := { s1.mem with entries := s1.mem.entries.put n e } }.bump
            let s3 := if bitAt x.regs.fmode 2 then s2.hostPost (dieOfPe src.pe) 5 src.ctx (wordOf at_) 0 Src.none [] []
                      else s2.hwEnqueueAt sp x.faultArea (quadOfPe src.pe) (some (wordOf at_))
            .entry s3 n
          | _, _ => .none

end Sys2Proof.Machine
end

