-- ==== Sys2Proof/Machine/Discard.lean ====
section
/-! DEFINITION. Discarding an activation (R87, R97) and what waits on an entry of the fault queue (R226, R227). -/

namespace Sys2Proof.Machine

/-- Order of a loop's iterations: the order in which they start (R93; for a negative step, DEDUCED, assumption log 20). -/
def seqBefore (step a b : Int) : Bool := if 0 < step then decide (a < b) else decide (b < a)

/-- Lower the outstanding-reply count of a destination's frame (R225). -/
def State.unexpect (s : State) (d : Dest) : State :=
  match s.frameOf d.pe d.frame d.uid with
  | some f => s.setFrame (frameKey d.pe d.frame) { f with outstanding := f.outstanding - 1 }
  | none => s

/-- Withhold every reply of an access: the counts fall, and the tile it was filling loses the references its replies would
have carried (R225, R235). -/
def State.dropReplies (s : State) (a : Access) : State :=
  let s := a.dests.foldl (fun s d => s.unexpect d) s
  match a.purpose with
  | .tile _ h _ => a.dests.foldl (fun s _ => s.dropRef h) s
  | .gather _ _ h _ => a.dests.foldl (fun s _ => s.dropRef h) s
  | _ => s

/-- Remove an access. -/
def State.delAccess (s : State) (n : Nat) : State := { s with mem := { s.mem with accesses := s.mem.accesses.del n } }

/-- The access was issued to its homes. -/
def AccState.isActive : AccState → Bool
  | .active => true
  | _ => false

/-- The access writes a trace record (R456). -/
def AccFor.traces : AccFor → Bool
  | .trace _ => true
  | _ => false

/-- An access of a copy: a copy is never discarded with the activation that posted it (R331). -/
def AccFor.ofCopy : AccFor → Bool
  | .copyRead _ => true
  | .copyWrite _ => true
  | _ => false

/-- The access is the translation of a held store's address (R88). -/
def AccFor.isCheck : AccFor → Bool
  | .check _ => true
  | _ => false

/-- Accesses of an activation that are not at their homes yet go with it: a request that never left gets no reply, and the tile it would have filled is
free at once (R235 speaks of a fetch whose reply arrives; DESIGN CHOICE, assumption log 115). -/
def State.dropAccesses (s : State) (uid : Nat) : State :=
  s.mem.accesses.foldl (fun s p =>
    if p.2.src.uid = uid ∧ !p.2.purpose.ofCopy ∧ !p.2.released ∧ !p.2.state.isActive then (s.delAccess p.1).dropReplies p.2 else s) s

/-- The replies that a request of an activation would have, which no controller and no die task unit has accepted (R311, R373). -/
def Msg.asked (uid : Nat) : Msg → Option (List Dest)
  | .recvReq _ r => if r.src.uid = uid then some (r.dests ++ r.sdests) else none
  | .depSubmit _ _ src ds => if src.uid = uid then some ds else none
  | _ => none

/-- Such requests go with their activation, and their replies are no longer expected. -/
def State.dropRequests (s : State) (uid : Nat) : State :=
  let gone := s.net.filterMap fun p => Msg.asked uid p.2.body
  gone.flatten.foldl (fun s d => s.unexpect d) { s with net := s.net.filter fun p => (Msg.asked uid p.2.body).isNone }

/-- An operand ring of a PE. -/
def State.ring (s : State) (pe q : Nat) : Ring := s.pe.rings.getD (pe * 8 + q) Ring.reset

/-- Replace it. -/
def State.setRing (s : State) (pe q : Nat) (r : Ring) : State := { s with pe := { s.pe with rings := s.pe.rings.put (pe * 8 + q) r } }

/-- A ring's handler tells a copy its head and depth (R339). A ring that is unbound, whose beats are discarded and still count, holds
none of them up (DEDUCED, assumption log 25). -/
def State.tellHead (s : State) (pe q n : Nat) (k : Copy) : State :=
  let r := s.ring pe q
  s.post (.pe pe) (.pe k.src.pe) 7 (.headUpdate n r.head (if r.bound.isSome then r.depth else 2 ^ 32))

/-- A ring's head changed: every copy that fills it is told (R339). -/
def State.tellHeads (s : State) (pe q : Nat) : State :=
  s.copies.foldl (fun s p => match p.2.route with
    | some r => if r.pe = pe ∧ r.ring = q ∧ p.2.phase = .running then s.tellHead pe q p.1 p.2 else s
    | none => s) s

/-- A ring without what an activation pushed or marked (R197). -/
def Ring.without (r : Ring) (uid : Nat) : Ring := { r with pushed := r.pushed.filter (fun e => e.1 != uid), marks := r.marks.filter fun m => m.1 != uid }

/-- The rings of a PE without what an activation pushed or marked. -/
def State.dropRings (s : State) (pe uid : Nat) : State :=
  { s with pe := { s.pe with rings := s.pe.rings.map fun p => if p.1 / 8 = pe then (p.1, p.2.without uid) else p } }

/-- The shadows of an activation are dropped: what it did to accumulators stays, and a ring that it unbound is free (R189, R216). -/
def State.keepAccs (s : State) (pe uid : Nat) : State :=
  { s with pe := { s.pe with accs := s.pe.accs.map (fun p =>
      match p.2.shadow with
      | some (u, _) => if p.1 / 8 = pe ∧ u = uid then (p.1, { p.2 with shadow := none }) else p
      | none => p)
                             rings := mapIf (fun p => p.1 / 8 == pe && p.2.undo.any fun u => u.1 == uid) (fun p => (p.1, { p.2 with undo := none })) s.pe.rings } }

/-- Every accumulator that an activation is pending on returns to its shadow (R189). -/
def State.revertAccs (s : State) (pe uid : Nat) : State :=
  { s with pe := { s.pe with accs := s.pe.accs.map fun p =>
      match p.2.shadow with
      | some (u, v) => if p.1 / 8 = pe ∧ u = uid then (p.1, { p.2 with val := v, shadow := none }) else p
      | none => p } }

/-- A reservation made by an instruction goes with its activation (R283, R318, R431), and so does what its RCFG did to a ring, if the ring was not
taken from its task since (R189, R216; DEDUCED, assumption log 22). -/
def State.unreserve (s : State) (pe uid : Nat) (e : Effect) : State :=
  match e with
  | .ringCfg q old =>
    let r := s.ring pe q
    if r.bound.isSome || r.undo.isSome then (s.setRing pe q (old.without uid)).tellHeads pe q else s
  | .chopen ch => { s with chans := s.chans.del ch }
  | .acbind id => { s with sync := { s.sync with counters := s.sync.counters.del id } }
  | .objload n _ _ => { s with kiln := { s.kiln with objects := s.kiln.objects.del n } }
  | _ => s

/-- Drop what an activation holds and let its frame drain (R76, R87). -/
def State.discardFrame (s : State) (k : Nat) : State :=
  match s.frame? k with
  | none => s
  | some f =>
    let pe := k / 256
    let toks := f.parkedToks ++ f.outs.map Prod.snd
    let holders := f.stores.filterMap fun r => r.holder
    let s1 := s.setFrame k { f with isOpen := false, slots := [], lost := [], outs := [], stores := [], held := [], branch := none, nullBranch := false, flags := 0 }
    let s2 := (s1.dropToks pe toks).dropToks pe (holders.map fun h => { kind := .tile, val := h })
    let s3 := (((s2.dropAccesses f.uid).dropRequests f.uid).dropRings pe f.uid).revertAccs pe f.uid
    f.held.reverse.foldl (fun s e => s.unreserve pe f.uid e) s3

/-- The activation that restarts from a discarded frame's block header (R87). -/
def restartOf (s : State) (k : Nat) (f : Frame) : Activation :=
  { pe := k / 256, ctx := f.ctx, task := f.task, addr := f.cfg.addr, iter := f.iter, since := s.sched.cycle, cfg := none
    requested := false, faulted := false, pendingFault := none }

/-- Change the loop a task runs. -/
def State.modLoop (s : State) (pe task : Nat) (g : Loop → Loop) : State := s.modTask pe task fun t => { t with loop := t.loop.map g }

/-- The sequence of R93 goes on from an index. -/
def loopGoes (i stop step : Int) : Bool := (decide (0 < step) && decide (i < stop)) || (decide (step < 0) && decide (stop < i))

/-- The index the sequencer starts next (R93): those it passes over stayed started when it went back (R87, R97). -/
def Loop.upcoming (l : Loop) : Int := (List.range l.started.length).foldl (fun n _ => if l.started.contains n then n + l.step else n) l.next

/-- The sequencer has an iteration to start (R93, R94): after a break, only one it had started before. -/
def Loop.goes (l : Loop) : Bool := loopGoes l.upcoming l.stop l.step && (l.brk.isNone || seqBefore l.step l.upcoming l.limit)

/-- The carry that iteration j receives (R96): g[cin] in the first, else what iteration j − step sent. -/
def Loop.carryIn (l : Loop) (j : Int) : Option Tok :=
  if j = l.first then some l.carry
  else (l.carries.find? fun p => p.1 == j - l.step).map fun p => p.2

/-- The sequencer goes back to iteration j (R97): its carry register holds the token j received, later carries are released,
and a break that a discarded iteration set is cleared (R107). Iterations in `kept` stay started. A handle that j received and consumed before its
fault is put back as it was, whatever has become of its tile (DESIGN CHOICE, assumption log 94). -/
def State.loopBack (s : State) (pe task : Nat) (j : Int) (kept : List Int) : State :=
  match s.task? pe task with
  | none => s
  | some t => match t.loop with
    | none => s
    | some l =>
      let gone := fun i => !seqBefore l.step i j && !kept.contains i
      let later := l.carries.filter fun p => gone p.1
      let s1 := later.foldl (fun s p => if l.sent.contains (p.1 + l.step) then s else s.dropTok pe p.2) s
      let s2 := if l.sent.contains j then
          (match l.carryIn j with
            | some tok => (s1.addRefs [tok]).getD s1
            | none => s1)
        else s1
      s2.modLoop pe task fun l =>
        { l with next := if seqBefore l.step j l.next then j else l.next
                 started := l.started.filter fun i => !gone i
                 carries := l.carries.filter fun p => !gone p.1
                 sent := l.sent.filter fun i => !gone i
                 brk := match l.brk with | some b => if gone b then none else some b | none => none }

/-- Iteration j and every uncommitted later iteration are discarded (R97), but those kept under R87; queued ones leave the
activation queue. -/
def State.discardIterations (s : State) (pe task : Nat) (j : Int) : State :=
  match s.task? pe task with
  | none => s
  | some t => match t.loop with
    | none => s
    | some l =>
      let mine := s.pe.frames.filter fun p => p.1 / 256 == pe && p.2.task == task && p.2.isOpen && p.2.iter.isSome
      let from_ := mine.filter fun p => match p.2.iter with | some i => !seqBefore l.step i j | none => false
      let kept := (from_.filter fun p => p.2.performed).filterMap fun p => p.2.iter
      let s1 := s.loopBack pe task j kept
      let s2 := from_.foldl (fun s p => if p.2.performed then s else s.discardFrame p.1) s1
      { s2 with pe := { s2.pe with queue := s2.pe.queue.filter fun a =>
          !(a.pe == pe && a.task == task && (match a.iter with | some i => !seqBefore l.step i j | none => false)) } }

/-- Discard an activation so that it can restart (R87): an iteration with every later one (R97), any other alone; what has to
be queued again, if anything. -/
def State.discardAct (s : State) (k : Nat) : State × Option Activation :=
  match s.frame? k with
  | none => (s, none)
  | some f =>
    match f.iter with
    | some j => (s.discardIterations (k / 256) f.task j, none)
    | none => (s.discardFrame k, some (restartOf s k f))

/-- A store's activation waits on an entry (R227): it is discarded and restarts once the entry is marked Retry. -/
def State.discardToEntry (s : State) (src : Src) (k n : Nat) : State :=
  match s.frame? k, s.mem.entries.get? n with
  | some f, some e =>
    let r := s.discardAct k
    let s1 := if f.iter.isSome then r.1.modLoop (k / 256) f.task fun l => { l with paused := f.iter.toList ++ l.paused } else r.1
    let acts := match r.2 with | some a => [a] | none => [restartOf s k f]
    { s1 with mem := { s1.mem with entries := s1.mem.entries.put n { e with restart := e.restart ++ acts.map fun a => (src, a) } } }
  | _, _ => s

end Sys2Proof.Machine
end

