-- ==== Sys2Proof/Machine/Operands.lean ====
section
/-! DEFINITION. What an instruction requires, and how it fires: its operands and predicate (R78, R79), nulls (R80), the
condition of R88, the references its tokens hold (R161), its sends, and the faults of its firing (R86, R87). -/

namespace Sys2Proof

/-- The fields of R46 of an instruction; an event has none. -/
def Instr.hdr : Instr → Hdr
  | .mov h | .const_ h _ | .constZx h _ | .consth h _ | .null_ h | .sel h | .gate h | .br h _ | .bri h | .call h _
  | .calli h | .ret h | .loop h _ | .iter h | .carry h | .lbreak h | .add h | .addImm h _ | .sub h | .subImm h _
  | .and_ h | .andImm h _ | .or_ h | .orImm h _ | .xor_ h | .xorImm h _ | .shl h | .shlImm h _ | .shr h | .shrImm h _
  | .sar h | .sarImm h _ | .min_ h | .minImm h _ | .max_ h | .maxImm h _ | .minu h | .minuImm h _ | .maxu h
  | .maxuImm h _ | .rotl h | .rotlImm h _ | .andn h | .andnImm h _ | .orn h | .ornImm h _ | .xnor h | .xnorImm h _
  | .mul h | .mulImm h _ | .mulh h | .mulhImm h _ | .mulhu h | .mulhuImm h _ | .div h | .divImm h _ | .divu h
  | .divuImm h _ | .rem_ h | .remImm h _ | .remu h | .remuImm h _ | .clz h | .ctz h | .popc h | .sext h | .zext h
  | .neg h | .not_ h | .abs_ h | .cmp h _ | .cmpImm h _ _ | .lea h | .leaImm h _ | .bfx h _ | .bfi h _ | .faddS h
  | .fsubS h | .fmulS h | .fdivS h | .fminS h | .fmaxS h | .fsqrtS h | .fabsS h | .fnegS h | .fcmpeqS h | .fcmpltS h
  | .fcmpleS h | .fcmpunS h | .ffmaS h | .faddD h | .fsubD h | .fmulD h | .fdivD h | .fminD h | .fmaxD h | .fsqrtD h
  | .fabsD h | .fnegD h | .fcmpeqD h | .fcmpltD h | .fcmpleD h | .fcmpunD h | .ffmaD h | .cvt h _ _ | .tcvt h _
  | .fcset h _ | .fcget h _ | .tamax h | .trescale h | .tadd h | .tsub h | .tmul h | .tmax h | .tmin h | .tdiv h
  | .tand h | .tor h | .txor h | .tneg h | .tabs h | .texp h | .tlog h | .trsqrt h | .trecip h | .ttanh h | .tsigm h
  | .tgelu h | .tfma h | .tsplat h | .trowb h | .tcolb h | .trsum h | .tcsum h | .trmax h | .tcmax h | .tsum h
  | .ttrans h | .tmask h | .tcmp h _ | .tsel h | .telget h | .telset h | .tnew h _ | .trel h | .tcopy h | .mma h _
  | .mmar h _ | .zinit h _ | .zclrf h _ | .zflags h _ | .zscale h _ | .zload h _ | .zdrain h _ _ | .tmac h _ _
  | .rcfg h _ | .rpush h _ | .rpop h _ | .rstat h _ | .epload h _ | .eparg h _ | .ld h _ _ | .ldr h _ _ | .st h _ _
  | .ldpair h _ _ | .tld h _ | .tldr h _ | .tst h _ | .tgath h _ | .tscat h _ | .fence h _ | .fenceWord h _ _
  | .sbar h _ | .tlwait h _ | .tlread h _ | .atom h _ _ | .atomn h _ _ | .acbind h | .acexpect h | .acread h
  | .acfree h | .barinit h _ | .bararr h _ | .bartry h _ | .syncall h | .chopen h _ | .chclose h | .chstat h
  | .chsend h | .chtrys h | .chrecv h | .chtryr h | .cpy h | .cpy1 h _ | .cpyr h _ | .cpqpost h | .cpstat h
  | .spawn h _ | .spawnd h _ | .jnew h | .jdec h | .tend h | .fnew h | .fres h | .freg h | .fget h | .dqpush h
  | .dqpop h | .dqsteal h | .wqput h | .wqget h | .yield_ h | .srr h _ | .srw h _ | .trap h _ | .hcall h _ | .ckpt h
  | .remest h | .remestImm h _ | .ctxnew h | .ctxhalt h | .ctxres h | .hbeat h | .atinv h | .pwrhint h _ | .tcinv h
  | .tcpin h | .tcpre h | .objload h | .trace h | .mark h _ | .brk h | .cntrd h _ => h
  | _ => { pr := .always, t1 := .none, t0 := .none }

/-- The data operands an instruction requires (R78), as its entry lists them; the second word replaces b (R49). -/
def Instr.data : Instr → List Side
  | .mov _ | .consth _ _ | .bri _ | .calli _ | .carry _ | .addImm _ _ | .subImm _ _ | .andImm _ _ | .orImm _ _
  | .xorImm _ _ | .shlImm _ _ | .shrImm _ _ | .sarImm _ _ | .minImm _ _ | .maxImm _ _ | .minuImm _ _ | .maxuImm _ _
  | .rotlImm _ _ | .andnImm _ _ | .ornImm _ _ | .xnorImm _ _ | .mulImm _ _ | .mulhImm _ _ | .mulhuImm _ _
  | .divImm _ _ | .divuImm _ _ | .remImm _ _ | .remuImm _ _ | .clz _ | .ctz _ | .popc _ | .neg _ | .not_ _ | .abs_ _
  | .cmpImm _ _ _ | .leaImm _ _ | .bfx _ _ | .fsqrtS _ | .fabsS _ | .fnegS _ | .fsqrtD _ | .fabsD _ | .fnegD _
  | .cvt _ _ _ | .tcvt _ _ | .tamax _ | .tneg _ | .tabs _ | .texp _ | .tlog _ | .trsqrt _ | .trecip _ | .ttanh _
  | .tsigm _ | .tgelu _ | .trsum _ | .tcsum _ | .trmax _ | .tcmax _ | .tsum _ | .ttrans _ | .trel _ | .tcopy _
  | .mmar _ _ | .zscale _ _ | .zload _ _ | .rpush _ _ | .epload _ _ | .eparg _ _ | .ld _ _ _ | .ldpair _ _ _
  | .tld _ _ | .tgath _ _ | .tlwait _ _ | .acread _ | .acfree _ | .bararr _ _ | .syncall _ | .chopen _ _ | .chstat _
  | .chrecv _ | .chtryr _ | .cpy _ | .cpstat _ | .jdec _ | .fnew _ | .fget _ | .dqpop _ | .dqsteal _ | .wqget _
  | .srw _ _ | .trap _ _ | .hcall _ _ | .ctxnew _ | .mark _ _ | .cntrd _ _ => [.a]
  | .sel _ | .gate _ | .loop _ _ | .add _ | .sub _ | .and_ _ | .or_ _ | .xor_ _ | .shl _ | .shr _ | .sar _ | .min_ _
  | .max_ _ | .minu _ | .maxu _ | .rotl _ | .andn _ | .orn _ | .xnor _ | .mul _ | .mulh _ | .mulhu _ | .div _
  | .divu _ | .rem_ _ | .remu _ | .sext _ | .zext _ | .cmp _ _ | .lea _ | .faddS _ | .fsubS _ | .fmulS _ | .fdivS _
  | .fminS _ | .fmaxS _ | .fcmpeqS _ | .fcmpltS _ | .fcmpleS _ | .fcmpunS _ | .faddD _ | .fsubD _ | .fmulD _
  | .fdivD _ | .fminD _ | .fmaxD _ | .fcmpeqD _ | .fcmpltD _ | .fcmpleD _ | .fcmpunD _ | .trescale _ | .tadd _
  | .tsub _ | .tmul _ | .tmax _ | .tmin _ | .tdiv _ | .tand _ | .tor _ | .txor _ | .tsplat _ | .trowb _ | .tcolb _
  | .tmask _ | .tcmp _ _ | .tsel _ | .telget _ | .telset _ | .mma _ _ | .tmac _ _ _ | .ldr _ _ _ | .st _ _ _
  | .tldr _ _ | .tst _ _ | .tscat _ _ | .acbind _ | .acexpect _ | .barinit _ _ | .bartry _ _ | .chclose _ | .chsend _
  | .chtrys _ | .cpy1 _ _ | .cpyr _ _ | .cpqpost _ | .spawn _ _ | .spawnd _ _ | .jnew _ | .fres _ | .freg _
  | .dqpush _ | .wqput _ | .ctxhalt _ | .ctxres _ | .atinv _ | .tcinv _ | .tcpin _ | .tcpre _ | .objload _ | .trace _
  | .brk _ => [.a, .b]
  | .bfi _ _ | .ffmaS _ | .ffmaD _ | .tfma _ => [.a, .b, .c]
  | .remest _ => [.b]
  | .fcset _ w => if w.fromA then [.a] else []
  | .zdrain _ _ w => if w.fromA then [.a] else []
  | .atom _ op _ | .atomn _ op _ => if op = .cas then [.a, .b, .c] else [.a, .b]
  | _ => []

/-- The issue slots (R22). -/
inductive IssueSlot where
  | scalar | tile | matrix | memory
  deriving DecidableEq, Repr

/-- The issue slot an instruction occupies (R22). -/
def Instr.slot : Instr → IssueSlot
  | .tcvt _ _ | .tamax _ | .trescale _ | .tadd _ | .tsub _ | .tmul _ | .tmax _ | .tmin _ | .tdiv _ | .tand _ | .tor _
  | .txor _ | .tneg _ | .tabs _ | .texp _ | .tlog _ | .trsqrt _ | .trecip _ | .ttanh _ | .tsigm _ | .tgelu _ | .tfma _
  | .tsplat _ | .trowb _ | .tcolb _ | .trsum _ | .tcsum _ | .trmax _ | .tcmax _ | .tsum _ | .ttrans _ | .tmask _
  | .tcmp _ _ | .tsel _ | .telget _ | .telset _ | .tnew _ _ | .trel _ | .tcopy _ => .tile
  | .mma _ _ | .mmar _ _ | .zinit _ _ | .zclrf _ _ | .zflags _ _ | .zscale _ _ | .zload _ _ | .zdrain _ _ _
  | .tmac _ _ _ | .rcfg _ _ | .rpush _ _ | .rpop _ _ | .rstat _ _ | .epload _ _ | .eparg _ _ => .matrix
  | .ld _ _ _ | .ldr _ _ _ | .st _ _ _ | .ldpair _ _ _ | .tld _ _ | .tldr _ _ | .tst _ _ | .tgath _ _ | .tscat _ _
  | .fence _ _ | .fenceWord _ _ _ | .sbar _ _ | .tlwait _ _ | .tlread _ _ | .atom _ _ _ | .atomn _ _ _ | .acbind _
  | .acexpect _ | .acread _ | .acfree _ | .barinit _ _ | .bararr _ _ | .bartry _ _ | .syncall _ | .chopen _ _
  | .chclose _ | .chstat _ | .chsend _ | .chtrys _ | .chrecv _ | .chtryr _ | .cpy _ | .cpy1 _ _ | .cpyr _ _
  | .cpqpost _ | .cpstat _ | .spawn _ _ | .spawnd _ _ | .jnew _ | .jdec _ | .tend _ | .fnew _ | .fres _ | .freg _
  | .fget _ | .dqpush _ | .dqpop _ | .dqsteal _ | .wqput _ | .wqget _ | .yield_ _ | .srr _ _ | .srw _ _ | .trap _ _
  | .hcall _ _ | .ckpt _ | .remest _ | .remestImm _ _ | .ctxnew _ | .ctxhalt _ | .ctxres _ | .hbeat _ | .atinv _
  | .pwrhint _ _ | .tcinv _ | .tcpin _ | .tcpre _ | .objload _ | .trace _ | .mark _ _ | .brk _ | .cntrd _ _ => .memory
  | _ => .scalar

/-- Branch class (R60). -/
def Instr.branchClass : Instr → Bool
  | .br _ _ | .bri _ | .call _ _ | .calli _ | .ret _ | .iter _ | .lbreak _ | .tend _ => true
  | _ => false

/-- Irrevocable (R59). -/
def Instr.irrevocable : Instr → Bool
  | .atom _ _ _ | .atomn _ _ _ | .acexpect _ | .chsend _ | .chtrys _ | .chrecv _ | .chtryr _ | .cpy _ | .cpy1 _ _
  | .cpyr _ _ | .cpqpost _ | .spawn _ _ | .spawnd _ _ | .fres _ | .freg _ | .dqpush _ | .dqpop _ | .dqsteal _
  | .wqput _ | .wqget _ => true
  | _ => false

/-- A store (R61). -/
def Instr.isStore : Instr → Bool
  | .st _ _ _ | .tst _ _ | .tscat _ _ => true
  | _ => false

/-- A store whose address operand is the address of what it writes: TSCAT's is that of its list. -/
def Instr.addressed : Instr → Bool
  | .st _ _ _ | .tst _ _ => true
  | _ => false

/-- ST. -/
def Instr.isSt : Instr → Bool
  | .st _ _ _ => true
  | _ => false

/-- A load (R61). -/
def Instr.isLoad : Instr → Bool
  | .ld _ _ _ | .ldr _ _ _ | .ldpair _ _ _ | .tld _ _ | .tldr _ _ | .tgath _ _ => true
  | _ => false

/-- The operand slots an instruction requires (R78): its data operands, and c when it is predicated. -/
def Instr.required (i : Instr) : List Side := i.data ++ (if i.hdr.pr = .always then [] else [.c])

/-- The load-store identifier of a memory instruction (R52, R53). -/
def Instr.lsid : Instr → Option Nat
  | .ld _ _ w | .ldr _ _ w | .st _ _ w | .ldpair _ _ w => some w.lsid.toNat
  | .tld _ w | .tldr _ w | .tst _ w | .tgath _ w | .tscat _ w => some w.lsid.toNat
  | _ => none

/-- The stream of a memory instruction (R52, R53). -/
def Instr.stream : Instr → Nat
  | .ld _ _ w | .ldr _ _ w | .st _ _ w | .ldpair _ _ w => w.stream.toNat
  | .tld _ w | .tldr _ w | .tst _ w | .tgath _ w | .tscat _ w => w.stream.toNat
  | _ => 0

/-- The divider serves it (R109). -/
def Instr.divides : Instr → Bool
  | .div _ | .divImm _ _ | .divu _ | .divuImm _ _ | .rem_ _ | .remImm _ _ | .remu _ | .remuImm _ _ | .fdivS _ | .fdivD _ | .fsqrtS _ | .fsqrtD _ => true
  | _ => false

/-- LOOP. -/
def Instr.isLoop : Instr → Bool
  | .loop _ _ => true
  | _ => false

/-- CARRY. -/
def Instr.isCarry : Instr → Bool
  | .carry _ => true
  | _ => false

/-- HCALL, which obeys R88 as an irrevocable instruction does (R415). -/
def Instr.isHcall : Instr → Bool
  | .hcall _ _ => true
  | _ => false

/-- The condition of R88 applies. -/
def Instr.guarded (i : Instr) : Bool := i.irrevocable || i.isHcall

/-- The sides whose null token makes the instruction send nulls (R80): GATE ignores the kind of b (R103), and CARRY's own
null goes to the next iteration (R108). -/
def Instr.nullSides : Instr → List Side
  | .gate _ => [.a]
  | .carry _ => []
  | i => i.data

/-- Bytes of a scalar access. -/
def Width.bytes : Width → Nat
  | .byte => 1
  | .half => 2
  | .word => 4
  | .double => 8

namespace Machine

/-- The decoded instruction of a block (R44). -/
def Cfg.instr (c : Cfg) (idx : Nat) : Option Instr :=
  match c.code[idx]? with
  | none => none
  | some r => match decodeRaw r with
    | .ok i => some i
    | .error _ => none

/-- The instructions of a block with their indices. -/
def Cfg.instrs (c : Cfg) : List (Nat × Instr) :=
  (List.range c.code.length).filterMap fun n => (c.instr n).map fun i => (n, i)

/-- The instructions that a target names. -/
def targetIdx : Target → List Nat
  | .slot _ i => [i.toNat]
  | _ => []

/-- The instructions that an instruction's tokens reach, `n` links deep (R89): what CARRY sends goes to another activation and is no dependence
(DEDUCED, assumption log 17). -/
def reachFrom (c : Cfg) : Nat → List Nat → List Nat
  | 0, l => l
  | n + 1, l =>
    let next := l.flatMap fun k => match c.instr k with
      | some i => if i.isCarry then [] else targetIdx i.hdr.t0 ++ targetIdx i.hdr.t1
      | none => []
    reachFrom c n ((l ++ next).eraseDups)

/-- The dependents of an instruction among the instructions of its block (R89). -/
def Cfg.dependents (c : Cfg) (idx : Nat) : List Nat :=
  match c.instr idx with
  | none => []
  | some i => reachFrom c c.code.length ((targetIdx i.hdr.t0 ++ targetIdx i.hdr.t1).eraseDups)

/-- An instruction is a dependent of its block's irrevocable instruction (R89) or HCALL (R415; DEDUCED, assumption log 106). -/
def Frame.dependentAt (f : Frame) (idx : Nat) : Bool := f.cfg.instrs.any fun p => p.2.guarded && (f.cfg.dependents p.1).contains idx

/-- An instruction of an activation has resolved (R79), or was issued and is parked. -/
def Frame.resolved (f : Frame) (idx : Nat) : Bool :=
  match f.stat.get? idx with
  | some .fired | some .mismatched | some (.parked _) => true
  | _ => false

/-- An instruction of an activation may still fire. -/
def Frame.unresolved (f : Frame) (idx : Nat) : Bool := !f.resolved idx

/-- A held store writes nothing, or its whole address has passed translation. -/
def StoreRec.passed (r : StoreRec) : Bool := r.dropped || r.translated

/-- A store LSID holds nothing up (R88, R227): it is satisfied and the stores of it that fired have passed translation, or one of its stores has. -/
def Frame.storeSettled (f : Frame) (l : Nat) : Bool :=
  (f.satisfied.contains l && f.stores.all fun r => r.lsid != l || r.passed || f.stat.get? r.idx != some .fired) ||
    f.stores.any fun r => r.lsid == l && r.translated

/-- R88: every instruction of the block but the instruction itself and its dependents has resolved, and no store LSID holds it up. -/
def Frame.settled (f : Frame) (idx : Nat) : Bool :=
  let deps := f.cfg.dependents idx
  (List.range f.cfg.code.length).all (fun n => n == idx || deps.contains n || f.resolved n) &&
    (maskBits 32 f.cfg.storeMask.toNat).all f.storeSettled

/-- The token in an operand slot (R17). -/
def Frame.operand (f : Frame) (idx : Nat) (sd : Side) : Option Tok := f.slots.get? (idx * 4 + sideNum sd)

/-- The operand slots an instruction requires are all present (R78). -/
def Frame.present (f : Frame) (idx : Nat) (i : Instr) : Bool := i.required.all fun sd => (f.operand idx sd).isSome

/-- An instruction as it fires: its activation, its context and its operands (an operand it does not take reads as zero). -/
structure Firing where
  key : Nat
  idx : Nat
  fr : Frame
  x : Ctx
  h : Hdr
  a : Tok
  b : Tok
  c : Tok
  deriving DecidableEq, Repr

/-- The PE. -/
def Firing.pe (f : Firing) : Nat := f.key / 256

/-- The source that stop records name. -/
def Firing.src (f : Firing) : Src := srcOf f.key f.fr f.idx

/-- The destinations of replies to T0 and T1 (R77). -/
def Firing.dests (f : Firing) : List Dest := destsOf f.src [f.h.t0, f.h.t1]

/-- The number of named targets. -/
def Firing.fan (f : Firing) : Nat := (namedTargets f.h).length

/-- Why an instruction does not perform. -/
inductive Stop where
  | fault (e : Fail)
  | wait (r : Short)
  | hold (r : Short) (l : List Byte)   -- it waits with what it has read, which is not read again (R342, R345, R380)
  | page (kind va level : Nat)  -- an access made within the step meets PAGE or a write block (R226 to R228)
  deriving DecidableEq, Repr

/-- What an instruction's own entry makes of it: the state with its effect, the tokens T0 and T1 receive now (none: nothing
now), whether those tokens' handles are counted already, the operands whose references the effect took over, its status, and
whether it fires again later with the operands it has (one that is `fired` is ready at once for its next step, R64). -/
structure Done where
  st : State
  t0 : Option Tok := none
  t1 : Option Tok := none
  fresh : Bool := false
  keep : List Tok := []
  stat : IStat := .fired
  again : Bool := false

/-- The meaning of an instruction once it fires with a matching predicate and operands that are not null. -/
abbrev Body := Firing → State → Except Stop Done

/-- Raise a fault code. -/
def failWith {α : Type} (c : Code) (detail : Word := 0) : Except Stop α := .error (.fault { code := c, detail := detail })

/-- The step of a fixed expansion that an instruction is in (R64): SYNCALL has one, TMAC's second follows its first. -/
def Frame.stepAt (f : Frame) (idx : Nat) : Option Nat :=
  match f.cfg.instr idx with
  | some (.syncall _) => some 0
  | some (.tmac _ _ _) => some (if f.stepped.contains idx then 1 else 0)
  | _ => none

/-- A step of a fixed expansion (R64): its faults name its number. -/
def stepOf {α : Type} (k : Nat) (r : Except Stop α) : Except Stop α :=
  match r with
  | .error (.fault e) => .error (.fault { e with step := some k })
  | r => r

/-- The instruction in focus as it would fire: its frame is Open and no fault discards it, its context issues, its required
operands are present, it has not resolved, and R88 holds where it applies. -/
def State.firing (s : State) (i : Instr) : Option Firing :=
  let key := frameKey s.sched.pe s.sched.frame
  match s.frame? key with
  | none => none
  | some fr =>
    match s.ctx? fr.ctx with
    | none => none
    | some x =>
      let idx := s.sched.idx
      if fr.live && x.state.issues && !fr.resolved idx && fr.present idx i && (!i.guarded || fr.settled idx) then
        some { key := key, idx := idx, fr := fr, x := x, h := i.hdr, a := (fr.operand idx .a).getD zeroTok
               b := (fr.operand idx .b).getD zeroTok, c := (fr.operand idx .c).getD zeroTok }
      else none

/-- The predicate in c does not match (R79): it is not null and its bit 0 differs. -/
def predMismatch (h : Hdr) (c : Tok) : Bool :=
  match h.pr with
  | .always => false
  | .ifTrue => c.kind != .null && !c.val.getLsbD 0
  | .ifFalse => c.kind != .null && c.val.getLsbD 0

/-- The predicate in c is null (R80). -/
def predNull (h : Hdr) (c : Tok) : Bool := h.pr != .always && c.kind == .null

/-- An operand of a firing instruction. -/
def Firing.get (f : Firing) : Side → Tok
  | .a => f.a
  | .b => f.b
  | .c => f.c

/-- The instruction sends nulls (R80). -/
def Firing.nulled (f : Firing) (i : Instr) : Bool := predNull f.h f.c || i.nullSides.any fun sd => (f.get sd).kind == .null

/-- The operands the instruction consumes, but those whose references went before. -/
def Firing.consumed (f : Firing) (i : Instr) : List Tok := (i.required.filter fun sd => !f.fr.lost.contains (f.idx * 4 + sideNum sd)).map f.get

/-- The slots of an instruction are emptied. -/
def Frame.emptied (f : Frame) (idx : Nat) : Frame :=
  { f with slots := ((f.slots.del (idx * 4)).del (idx * 4 + 1)).del (idx * 4 + 2) }

/-- An instruction's status is set and its operands leave their slots. -/
def State.markAt (s : State) (key idx : Nat) (st : IStat) : State :=
  s.modFrame key fun f => { f.emptied idx with stat := f.stat.put idx st }

/-- R86, once a branch-class instruction resolves: every one has resolved, none with non-null operands, one with nulls. -/
def Frame.onlyNullBranches (f : Frame) : Bool :=
  f.branch.isNone && f.nullBranch && f.cfg.instrs.all fun p => !p.2.branchClass || f.resolved p.1

/-- After a branch-class instruction resolved without taking effect: raise BRANCH_COUNT where R86 says so. -/
def State.branchResolved (s : State) (key idx : Nat) : State :=
  match s.frame? key with
  | some f => if f.onlyNullBranches then s.raiseAt (srcOf key f idx) { code := .branchCount } else s
  | none => s

/-- A store that writes nothing: its held record forwards nothing (R237), and its address is translated no further (R88). -/
def State.voidStore (s : State) (key idx : Nat) : State :=
  match s.frame? key with
  | none => s
  | some f =>
    let s1 : State := { s with mem := { s.mem with accesses := s.mem.accesses.filter fun p => !(p.2.purpose.isCheck && p.2.src.uid == f.uid && p.2.src.idx == idx) } }
    s1.setFrame key { f with stores := mapIf (fun r => r.idx == idx) (fun r => { r with dropped := true }) f.stores }

/-- The instruction resolves by predicate mismatch (R79): its operands are discarded. -/
def State.mismatch (s : State) (key idx : Nat) (i : Instr) (toks : List Tok) : State :=
  let s := ((if i.isStore then s.voidStore key idx else s).markAt key idx .mismatched).dropToks (key / 256) toks
  if i.branchClass then s.branchResolved key idx else s

/-- The LSID and stream of the firing instruction, as stop records give them (R397). -/
def Firing.access (f : Firing) : Option (Nat × Nat) := (f.fr.cfg.instr f.idx).bind fun i => i.lsid.map fun l => (l, i.stream)

/-- The slots of the instruction in focus that hold handles with their references. -/
def Firing.handleSlots (f : Firing) : List Nat := (f.fr.slots.filter fun p => p.1 / 4 == f.idx && p.2.kind == .tile && !f.fr.lost.contains p.1).map Prod.fst

/-- A fault of the instruction in focus: its activation is discarded or kept at the halt (R87), and it does not fire again before. Where its rule
says so, its operands' references are released now. -/
def State.failAt (s : State) (f : Firing) (e : Fail) : State :=
  let s1 := (s.modFrame f.key fun fr => { fr with stat := fr.stat.put f.idx .faulted, fetched := fr.fetched.del f.idx, lost := if e.releases then f.handleSlots ++ fr.lost else fr.lost }).raiseAt f.src
    { e with access := f.access, step := match e.step with | some k => some k | none => f.fr.stepAt f.idx }
  if e.releases then s1.dropToks f.pe (f.fr.heldAt f.idx) else s1

/-- The sends to T0 and T1; none where a write entry already has its token (R86). -/
def State.sends (s : State) (f : Firing) (t0 t1 : Option Tok) : Option State :=
  match (match t0 with | some t => s.sendTo f.src f.h.t0 t | none => some s) with
  | none => none
  | some s => match t1 with
    | some t => s.sendTo f.src f.h.t1 t
    | none => some s

/-- The tokens really sent: those whose target is named. -/
def Firing.sent (f : Firing) (t0 t1 : Option Tok) : List Tok :=
  (if f.h.t0 = .none then [] else t0.toList) ++ (if f.h.t1 = .none then [] else t1.toList)

/-- The end of a firing: status, references (R161, R163), sends. -/
def State.finish (s : State) (f : Firing) (i : Instr) (d : Done) : State :=
  if d.again then d.st.modFrame f.key fun fr => { fr with stat := if d.stat = .fired then fr.stat.del f.idx else fr.stat.put f.idx d.stat } else
  let sent := if d.fresh then [] else (f.sent d.t0 d.t1).filter fun t => t.kind == .tile
  let used := d.keep.foldl (fun l t => l.erase t) ((f.consumed i).filter fun t => t.kind == .tile)
  match (d.st.markAt f.key f.idx d.stat).settle f.pe used sent with
  | none => s.failAt f { code := .refcount }
  | some s1 => match s1.sends f d.t0 d.t1 with
    | none => s.failAt f { code := .operand }
    | some s2 => s2

/-- A store LSID is satisfied (R84). -/
def State.satisfy (s : State) (key lsid : Nat) : State := s.modFrame key fun fr => { fr with satisfied := lsid :: fr.satisfied }

/-- The activation is kept from now on (R87): its irrevocable instruction has performed (R88), or its LOOP has fired; its shadows go (R189). -/
def State.keep (s : State) (key : Nat) (g : Frame → Frame) : State :=
  match s.frame? key with
  | some f => (s.setFrame key (g f)).keepAccs (key / 256) f.uid
  | none => s

/-- The activation's irrevocable instruction has performed (R88): its block will commit. -/
def State.markPerformed (s : State) (key : Nat) : State := s.keep key fun fr => { fr with performed := true }

/-- CARRY's effect on the loop it belongs to (R96): the value of iteration j for iteration j + 1. -/
def State.carryValue (s : State) (f : Firing) (t : Tok) : State :=
  match s.task? f.pe f.fr.task, f.fr.iter with
  | some tk, some j => s.setTask f.pe f.fr.task
      { tk with loop := tk.loop.map fun l => { l with carries := l.carries ++ [(j, t)] } }
  | _, _ => s

/-- The targets of the CARRY of a loop body (R92, R108): none where it holds no CARRY. -/
def Cfg.carryTargets (c : Cfg) : Option (List Target) :=
  (c.instrs.find? fun p => p.2.isCarry).map fun p => namedTargets p.2.hdr

/-- The frame of an iteration of a task's loop, while its activation lives. -/
def State.iterFrame (s : State) (pe task : Nat) (j : Int) : Option (Nat × Frame) :=
  s.pe.frames.find? fun p => p.1 / 256 == pe && p.2.task == task && p.2.isOpen && p.2.iter == some j

/-- The carry of iteration j goes to the slots that CARRY's targets name in its frame (R96); a body with no CARRY receives
none. Its reference moves to those slots, none where a count would pass its limit. -/
def State.deliverCarry (s : State) (pe task : Nat) (j : Int) : Option State :=
  match s.task? pe task, s.iterFrame pe task j with
  | some t, some (k, fr) =>
    match t.loop, fr.cfg.carryTargets with
    | some l, some tgts =>
      match l.carryIn j with
      | none => some s
      | some tok =>
        if l.sent.contains j || tgts.isEmpty then some s
        else
          let src := srcOf k fr 0
          match s.addRefs (List.replicate (tgts.length - 1) tok) with
          | none => none
          | some s1 =>
            let s2 := tgts.foldl (fun s g => (s.sendTo src g tok).getD s) s1
            some (s2.setTask pe task { t with loop := some { l with sent := j :: l.sent } })
    | _, _ => some s
  | _, _ => some s

/-- CARRY sends the carry of its iteration (R96): the next iteration's frame receives it now if it is open. A carry that no target of its own
iteration received is replaced and released (R81). -/
def State.sendCarry (s : State) (f : Firing) (tok : Tok) : Option State :=
  match (s.task? f.pe f.fr.task).bind fun t => t.loop, f.fr.iter with
  | some l, some j =>
    let s1 := s.carryValue f tok
    let old := if l.sent.contains j then none else l.carryIn j
    let s2 := match old with
      | some t => (s1.modLoop f.pe f.fr.task fun l => { l with sent := j :: l.sent }).dropTok f.pe t
      | none => s1
    s2.deliverCarry f.pe f.fr.task (j + l.step)
  | _, _ => some s

/-- The instruction sends nulls (R80): a store satisfies its LSID with a null, a branch counts as a null branch, nothing else
performs. -/
def State.fireNull (s : State) (f : Firing) (i : Instr) : State :=
  let again := i.isStore && (match i.lsid with | some l => f.fr.satisfied.contains l | none => false)
  if again then s.failAt f { code := .operand } else
  let s1 := if i.isStore then (s.satisfy f.key (i.lsid.getD 0)).voidStore f.key f.idx else s
  let s1 := if i.isCarry then (s1.sendCarry f nullTok).getD s1 else s1
  let s1 := if i.branchClass then s1.modFrame f.key fun fr => { fr with nullBranch := true } else s1
  let t := if i.isCarry then none else some nullTok
  let s2 := s1.finish f i { st := s1, t0 := t, t1 := t }
  if i.branchClass then s2.branchResolved f.key f.idx else s2

/-- The instruction waits for what it lacks; it stays ready (R24, R170). -/
def State.waitAt (s : State) (f : Firing) (r : Short) : State :=
  s.modFrame f.key fun fr => { fr with stat := fr.stat.put f.idx (.waiting r) }

/-- The instruction waits with the bytes it has read. -/
def State.holdAt (s : State) (f : Firing) (r : Short) (l : List Byte) : State :=
  s.modFrame f.key fun fr => { fr with stat := fr.stat.put f.idx (.waiting r), fetched := fr.fetched.put f.idx l }

/-- What the instruction has read before it waited, or reads now. -/
def Firing.once (f : Firing) (read : Except Stop (List Byte)) : Except Stop (List Byte) :=
  match f.fr.fetched.get? f.idx with
  | some l => .ok l
  | none => read

/-- An access made within the instruction's own step meets PAGE, or a store among them a write block: a fetch parks on its
entry (R226), a store's activation is discarded and waits, unless it is kept (R87, R227). -/
def State.pageAt (s : State) (f : Firing) (kind va level : Nat) : State :=
  match s.pageEntry f.src kind va level with
  | .none => s.failAt f { code := .page, detail := wordOf va }
  | .full => s.waitAt f .faults
  | .entry s1 n =>
    if kind = 0 ∨ f.fr.isKept then s1.modFrame f.key fun fr => { fr with stat := fr.stat.put f.idx (.parked (.entry n)) }
    else s1.discardToEntry f.src f.key n

/-- What the end of its own entry makes of the state. -/
def State.conclude (s : State) (f : Firing) (i : Instr) : Except Stop Done → State
  | .ok d => s.finish f i d
  | .error (.fault e) => s.failAt f e
  | .error (.wait r) => s.waitAt f r
  | .error (.hold r l) => s.holdAt f r l
  | .error (.page kind va level) => s.pageAt f kind va level

/-- An instruction in focus issues. -/
def State.issue (s : State) (f : Firing) (i : Instr) (body : Body) : State :=
  if predMismatch f.h f.c then s.mismatch f.key f.idx i (f.consumed i)
  else if f.nulled i then s.fireNull f i
  else s.conclude f i (body f s)

/-- Fire the instruction in focus. -/
def fire (i : Instr) (body : Body) (s : State) : Host.Outcome State Fault Refusal :=
  match s.firing i with
  | none => .fault (.notEnabled "instruction")
  | some f => .next (s.issue f i body)

/-- An event: its state after, or not enabled. -/
def event (name : String) (o : Option State) : Host.Outcome State Fault Refusal :=
  match o with
  | some s => .next s
  | none => .fault (.notEnabled name)

/-- The entry sends one token to T0 and T1. -/
def Done.send (s : State) (t : Tok) : Done := { st := s, t0 := some t, t1 := some t }

/-- The entry sends a scalar to T0 and T1. -/
def Done.scalar (s : State) (v : Word) : Done := Done.send s (scalarTok v)

/-- A scalar operand where a tile handle raises TOKEN_KIND. -/
def wantScalar (t : Tok) : Except Stop Word := if t.kind = .tile then failWith .tokenKind else .ok t.val

/-- Two checks that no entry orders (R399): where both fault, the fault of the higher priority is raised. -/
def both {α β : Type} (x : Except Stop α) (y : Except Stop β) : Except Stop (α × β) :=
  match x, y with
  | .ok a, .ok b => .ok (a, b)
  | .error (.fault d), .error (.fault e) => .error (.fault (if e.code.priority < d.code.priority then e else d))
  | .error d, _ => .error d
  | _, .error e => .error e

end Machine

end Sys2Proof
end

