-- ==== Sys2Proof/Machine/Cycles.lean ====
section
/-! DEFINITION. Cycle classes, the cycle counters and the interval counts of a PE's configurations (R424, R452 to R454). -/

namespace Sys2Proof.Machine

/-! ### Windows and interval counts (R424, R454) -/

/-- The configurations in a PE's window (R424). -/
def State.winOf (s : State) (pe : Nat) : List WinCfg := s.pe.windows.getD pe []

/-- A configuration is in a PE's window. -/
def State.inWindow (s : State) (pe num : Nat) : Bool := (s.winOf pe).any fun w => w.num == num

/-- Change a configuration of a PE's window. -/
def State.modWin (s : State) (pe num : Nat) (g : WinCfg → WinCfg) : State :=
  { s with pe := { s.pe with windows := s.pe.windows.put pe (mapIf (fun (w : WinCfg) => w.num == num) g (s.winOf pe)) } }

/-! ### Cycle classes (R452, R453) -/

/-- The number of an issue slot. -/
def slotCode : IssueSlot → Nat
  | .scalar => 0
  | .tile => 1
  | .matrix => 2
  | .memory => 3

/-- Instructions of a frame that have their operands and have not issued (R78, R452). -/
def Frame.complete (f : Frame) : List (Nat × Instr) :=
  if !f.live then [] else
    f.cfg.instrs.filter fun p => f.unresolved p.1 && f.present p.1 p.2 &&
      (match f.stat.get? p.1 with | none | some (.waiting _) => true | _ => false)

/-- Instructions of a frame that are ready (R24, R78): unresolved, with their operands, and with R88 met where it applies. One that
waits for an accumulator, a ring, an earlier access or a turn is not ready yet (R24). -/
def Frame.readies (f : Frame) : List (Nat × Instr) :=
  f.complete.filter fun p => (!p.2.guarded || f.settled p.1) &&
    (match f.stat.get? p.1 with
      | none | some (.waiting .tiles) | some (.waiting .requests) | some (.waiting .space) => true
      | _ => false)

/-- The divider of a PE is busy until the result of its last instruction is ready (R109, R114): on an A0 die after the latency of R113, on
a B0 die after one the spec leaves open (R2), which is one cycle at least. -/
def State.dividerBusy (s : State) (pe : Nat) : Bool :=
  match s.pe.divider.get? pe with
  | some u => decide (u.latency ≠ 0) &&
      decide (s.sched.cycle < u.cycle + (if Config.dieRevision (dieOfPe pe) then max 1 (Config.dividerCycles u.latency) else u.latency))
  | none => false

/-- An issue slot of a PE has taken an instruction in this cycle. -/
def State.slotTaken (s : State) (pe slot : Nat) : Bool := (s.pe.issued.get? (pe * 4 + slot)).any fun u => u.cycle == s.sched.cycle && u.count != 0

/-- The port that BLOCKED_PORT names (R453) for a ready instruction of a PE whose context issued none there in the cycle. One that no row but 0, 1 or 5
can hold back found its slot taken by another context, else, by the slot it issues in, the message port held off or its unit occupied (DEDUCED, assumption log 72). -/
def State.portOf (s : State) (pe : Nat) (f : Frame) (idx : Nat) : Nat :=
  match f.stat.get? idx with
  | some (.waiting .tiles) => 3
  | some (.waiting _) => 2
  | _ => match f.cfg.instr idx with
    | none => 0
    | some i =>
      if s.dividerBusy pe && i.divides then 4
      else if s.slotTaken pe (slotCode i.slot) then 0
      else match i.slot with
        | .memory => 1
        | .tile | .matrix => 5
        | .scalar => 0

/-- Frames of a context on a PE. -/
def State.framesOf (s : State) (c pe : Nat) : List (Nat × Frame) := s.pe.frames.filter fun p => p.1 / 256 == pe && p.2.ctx == c && p.2.isOpen

/-- An instruction that a class names: its frame's key and frame, and its index. -/
abbrev Named := Nat × Frame × Nat

/-- The instruction longest ready among some. -/
def oldestNamed (l : List Named) : Option Named := leastBy (fun (n : Named) => n.2.1.ready.getD n.2.2 0) l

/-- Instructions with one required slot present and another absent, with the lowest absent side (R452). -/
def Frame.halfway (f : Frame) : List (Nat × Side) :=
  f.cfg.instrs.filterMap fun p =>
    if f.unresolved p.1 && p.2.required.any fun sd => (f.operand p.1 sd).isSome then
      ([Side.a, Side.b, Side.c].find? fun sd => p.2.required.contains sd && (f.operand p.1 sd).isNone).map fun sd => (p.1, sd)
    else none

/-- A cycle as R452 classifies it: the class, the port or side, and the instruction named with its configuration. -/
structure Classed where
  cls : Nat
  detail : Nat
  src : Option (Src × Nat)
  deriving DecidableEq, Repr

/-- The oldest instruction that a context has issued on a PE in this cycle. -/
def State.issuedNow (s : State) (c pe : Nat) : Option LastIssue :=
  (s.pctx c pe).issuedLast.filter fun q => q.cycle == s.sched.cycle

/-- The class of a cycle in which a context issues nothing on a PE (R452). -/
def State.classIdle (s : State) (c pe : Nat) : Classed :=
  let fs := s.framesOf c pe
  let name := fun (n : Named) => (srcOf n.1 n.2.1 n.2.2, n.2.1.cfg.num)
  let among := fun (l : Frame → List (Nat × Instr)) => fs.flatMap fun p => (l p.2).map fun q => (p.1, p.2, q.1)
  match oldestNamed ((among Frame.complete).filter fun n => !s.inWindow pe n.2.1.cfg.num) with
  | some n => { cls := 1, detail := 0, src := some (name n) }
  | none =>
    match oldestNamed (among Frame.readies) with
    | some n => { cls := 2, detail := s.portOf pe n.2.1 n.2.2, src := some (name n) }
    | none =>
      let half := fs.flatMap fun p => p.2.halfway.map fun q => ((p.1, p.2, q.1), q.2)
      match leastBy (fun (n : Named × Side) => n.1.2.1.ready.getD (128 + n.1.2.2) 0) half with
      | some n => { cls := 3, detail := sideNum n.2, src := some (name n.1) }
      | none => { cls := 4, detail := 0, src := none }

/-- The class of the cycle of a context on a PE (R452). -/
def State.classify (s : State) (c pe : Nat) : Classed :=
  match s.issuedNow c pe with
  | some q => { cls := 0, detail := 0, src := some (q.src, q.num) }
  | none => s.classIdle c pe

/-- The cycle is counted already for a context, as its engines stopped in it. -/
def State.countedNow (s : State) (c : Nat) : Bool := (s.ctx? c).any fun x => decide (s.sched.cycle < x.counted)

/-- An instruction issues: its configuration is the PE's most recent (R428); FIRED is counted once a cycle, and the oldest instruction is kept
(R452, R454). -/
def State.noteIssue (s : State) (c pe ready num : Nat) (src : Src) : State :=
  let s := s.modWin pe num fun w => { w with used := s.sched.cycle }
  let p := s.pctx c pe
  let q : LastIssue := { cycle := s.sched.cycle, ready := ready, num := num, src := src }
  match s.issuedNow c pe with
  | some o => if ready < o.ready then s.setPctx c pe { p with issuedLast := some q } else s
  | none => s.setPctx c pe { p with fired := p.fired + bit (!s.countedNow c), issuedLast := some q }

/-- A 32-bit count that saturates (R454). -/
def saturate (n : Nat) : Nat := min n (2 ^ 32 - 1)

/-- The cycles counted so far for a configuration that a PE's window waits for. -/
def State.loadCount (s : State) (pe num : Nat) : Nat := ((s.pe.cfgLoads.find? fun q => q.1 == pe && q.2.1 == num).map fun q => q.2.2).getD 0

/-- The cycles counted for a configuration that a PE's window waits for. -/
def State.setLoadCount (s : State) (pe num n : Nat) : State :=
  let rest := s.pe.cfgLoads.filter fun q => !(q.1 == pe && q.2.1 == num)
  { s with pe := { s.pe with cfgLoads := if n = 0 then rest else (pe, num, n) :: rest } }

/-- `n` cycles of a class are counted for a context on a PE and in the interval of the configuration that is named (R454): those of CONFIG_LOAD in the
interval that the load begins (DEDUCED, assumption log 123). -/
def State.addClass (s : State) (c pe n : Nat) (k : Classed) : State :=
  let p := s.pctx c pe
  match k.cls, k.src with
  | 0, some (_, num) => s.modWin pe num fun w => { w with fired := saturate (w.fired + n) }
  | 1, some (_, num) => (s.setPctx c pe { p with cfgLoad := p.cfgLoad + n }).setLoadCount pe num (s.loadCount pe num + n)
  | 2, some (_, num) => (s.setPctx c pe { p with blocked := p.blocked + n }).modWin pe num fun w => { w with blocked := saturate (w.blocked + n) }
  | 3, some (_, num) => (s.setPctx c pe { p with waitOp := p.waitOp + n }).modWin pe num fun w => { w with waitOp := saturate (w.waitOp + n) }
  | _, _ => s

/-- `n` cycles of a context on a PE are counted (R452): this one, and after it those in which nothing has issued. -/
def State.countClass (s : State) (c pe n : Nat) : State :=
  if n = 0 then s
  else if (s.issuedNow c pe).isNone then s.addClass c pe n (s.classIdle c pe)
  else (s.addClass c pe 1 (s.classify c pe)).addClass c pe (n - 1) (s.classIdle c pe)

/-- PEs where a context has an Open frame, or issued in this cycle. -/
def State.pesWith (s : State) (c : Nat) : List Nat :=
  let open_ := (s.pe.frames.filter fun p => p.2.ctx == c && p.2.isOpen).map fun p => p.1 / 256
  let issued := (s.pe.pctx.filter fun p => p.1 / 2048 == c && (s.issuedNow c (p.1 % 2048)).isSome).map fun p => p.1 % 2048
  (open_ ++ issued).eraseDups

/-- The samples of a context's PEs of this cycle (R458): each PE on which it is resident takes one where the cycle is a multiple of the period; with I set
none of an IDLE cycle. -/
def State.takeSamples (s : State) (c : Nat) : State :=
  s.modCtx c fun x => match x.trace with
    | none => x
    | some t =>
      if t.k = 0 ∨ s.sched.cycle % 2 ^ t.k ≠ 0 then x
      else
        let l := (x.dies.flatMap fun d => (List.range 256).map fun i => 256 * d + i).filterMap fun pe =>
          let k := s.classify c pe
          if k.cls = 4 ∧ t.omitIdle then none
          else some ({ pe := pe, cycle := s.sched.cycle, cls := k.cls, detail := k.detail, src := k.src.map Prod.fst } : Sample)
        { x with trace := some { t with samples := t.samples ++ l } }

/-- `n` cycles of a context are sampled and counted on each of its PEs (R452, R458). -/
def State.countCtx (s : State) (c n : Nat) : State :=
  (s.pesWith c).foldl (fun s pe => s.countClass c pe n) ((s.takeSamples c).modCtx c fun x => { x with runCycles := x.runCycles + n })

/-- `n` cycles end: those of Running and Checkpointing contexts are counted (R452), but for one counted as the context's engines stopped. -/
def State.countCycles (s : State) (n : Nat) : State :=
  s.ctxs.foldl (fun s p => if !p.2.state.issues then s else if s.countedNow p.1 then (if n ≤ 1 then s else s.countCtx p.1 (n - 1)) else s.countCtx p.1 n) s

/-- The cycle in which a context's engines stop is counted where one of them issued in it (R452, R454). -/
def State.countStop (s : State) (c : Nat) : State :=
  if !s.countedNow c && s.pe.pctx.any (fun p => p.1 / 2048 == c && (s.issuedNow c (p.1 % 2048)).isSome) then
    (s.countCtx c 1).modCtx c fun x => { x with counted := s.sched.cycle + 1 }
  else s

/-- A counter of a context on a PE (R454), in which a cycle that the PE has issued in counts already. -/
def State.counterOf (s : State) (c pe n : Nat) : Nat :=
  let p := s.pctx c pe
  let run := match s.ctx? c with | some x => x.runCycles | none => 0
  match n with
  | 0 => p.fired
  | 1 => p.cfgLoad
  | 2 => p.blocked
  | 3 => p.waitOp
  | 4 => run + bit ((s.issuedNow c pe).isSome && !s.countedNow c) - (p.fired + p.cfgLoad + p.blocked + p.waitOp)
  | _ => p.commits

end Sys2Proof.Machine
end

