-- ==== Sys2Proof/Machine/Flags.lean ====
section
/-! DEFINITION. The sticky flags (R393) and every flag computation: exact numbers, rounding (R126, R142 to R144, R166) and the
flags each rounding sets. -/

namespace Sys2Proof.Machine

/-! ### Sticky flags (R393) -/

/-- A set of sticky flags. -/
abbrev Flags := BitVec 7

/-- No flag. -/
def Flags.none : Flags := 0
/-- Invalid. -/
def flagNV : Flags := 1
/-- Overflow. -/
def flagOF : Flags := 2
/-- Underflow. -/
def flagUF : Flags := 4
/-- Inexact. -/
def flagNX : Flags := 8
/-- Saturation. -/
def flagSV : Flags := 16
/-- Divide by zero. -/
def flagDZ : Flags := 32
/-- Integer divide by zero. -/
def flagID : Flags := 64

/-- A flag when a condition holds. -/
def flagIf (c : Bool) (f : Flags) : Flags := if c then f else 0

/-! ### Exact numbers -/

/-- A decoded value (R138): an exact rational with the sign kept for zero (d is never 0), an infinity or a NaN. -/
inductive Num where
  | fin (neg : Bool) (n d : Nat)
  | inf (neg : Bool)
  | nan (sig : Bool)
  deriving DecidableEq, Repr

/-- A positive zero. -/
def Num.zero : Num := .fin false 0 1

/-- A whole number. -/
def Num.ofInt (i : Int) : Num := .fin (decide (i < 0)) i.natAbs 1

/-- The number is a NaN. -/
def Num.isNan : Num → Bool
  | .nan _ => true
  | _ => false

/-- A signaling NaN. -/
def Num.isSig : Num → Bool
  | .nan s => s
  | _ => false

/-- An infinity. -/
def Num.isInf : Num → Bool
  | .inf _ => true
  | _ => false

/-- A zero of either sign. -/
def Num.isZero : Num → Bool
  | .fin _ n _ => n == 0
  | _ => false

/-- The sign. -/
def Num.sign : Num → Bool
  | .fin s _ _ => s
  | .inf s => s
  | .nan _ => false

/-- The sign inverted. -/
def Num.negate : Num → Num
  | .fin s n d => .fin (!s) n d
  | .inf s => .inf (!s)
  | .nan s => .nan s

/-- The magnitude. -/
def Num.magnitude : Num → Num
  | .fin _ n d => .fin false n d
  | .inf _ => .inf false
  | .nan s => .nan s

/-- A finite number as a signed numerator over d. -/
def signedNum (s : Bool) (n : Nat) : Int := if s then -(n : Int) else n

/-- The exact sum of finite numbers; an exact zero sum of operands of opposite sign is +0 (R126). -/
def addFin (s1 : Bool) (n1 d1 : Nat) (s2 : Bool) (n2 d2 : Nat) : Num :=
  let t := signedNum s1 (n1 * d2) + signedNum s2 (n2 * d1)
  if t = 0 then .fin (s1 && s2) 0 1 else .fin (decide (t < 0)) t.natAbs (d1 * d2)

/-- Signed comparison of finite numbers: the first is less. -/
def finLt (s1 : Bool) (n1 d1 : Nat) (s2 : Bool) (n2 d2 : Nat) : Bool := decide (signedNum s1 (n1 * d2) < signedNum s2 (n2 * d1))

/-- a < b for numbers that are not NaN; zeros are equal. -/
def Num.lt : Num → Num → Bool
  | .fin s1 n1 d1, .fin s2 n2 d2 => finLt s1 n1 d1 s2 n2 d2
  | .inf s1, .inf s2 => s1 && !s2
  | .inf s1, .fin _ _ _ => s1
  | .fin _ _ _, .inf s2 => !s2
  | _, _ => false

/-- a = b for numbers that are not NaN; zeros are equal (R128). -/
def Num.eq : Num → Num → Bool
  | .fin s1 n1 d1, .fin s2 n2 d2 => decide (signedNum s1 (n1 * d2) = signedNum s2 (n2 * d1))
  | .inf s1, .inf s2 => s1 == s2
  | _, _ => false

/-- The result of an exact operation and the flags it sets before rounding. -/
abbrev NumF := Num × Flags

/-- NV for a signaling NaN operand (R126). -/
def sigNV (l : List Num) : Flags := flagIf (l.any Num.isSig) flagNV

/-- Exact addition (R126, R167). -/
def Num.add (a b : Num) : NumF :=
  match a, b with
  | .fin s1 n1 d1, .fin s2 n2 d2 => (addFin s1 n1 d1 s2 n2 d2, 0)
  | .inf s1, .inf s2 => if s1 = s2 then (.inf s1, 0) else (.nan false, flagNV)
  | .inf s, .fin _ _ _ => (.inf s, 0)
  | .fin _ _ _, .inf s => (.inf s, 0)
  | x, y => (.nan false, sigNV [x, y])

/-- Exact subtraction. -/
def Num.sub (a b : Num) : NumF := a.add b.negate

/-- Exact multiplication (R126, R167). -/
def Num.mul (a b : Num) : NumF :=
  match a, b with
  | .fin s1 n1 d1, .fin s2 n2 d2 => (.fin (xor s1 s2) (n1 * n2) (d1 * d2), 0)
  | .inf s1, .inf s2 => (.inf (xor s1 s2), 0)
  | .inf s1, .fin s2 n2 _ => if n2 = 0 then (.nan false, flagNV) else (.inf (xor s1 s2), 0)
  | .fin s1 n1 _, .inf s2 => if n1 = 0 then (.nan false, flagNV) else (.inf (xor s1 s2), 0)
  | x, y => (.nan false, sigNV [x, y])

/-- Exact division (R126, R167). -/
def Num.div (a b : Num) : NumF :=
  match a, b with
  | .fin s1 n1 d1, .fin s2 n2 d2 =>
    if n2 = 0 then (if n1 = 0 then (.nan false, flagNV) else (.inf (xor s1 s2), flagDZ))
    else (.fin (xor s1 s2) (n1 * d2) (d1 * n2), 0)
  | .inf _, .inf _ => (.nan false, flagNV)
  | .inf s1, .fin s2 _ _ => (.inf (xor s1 s2), 0)
  | .fin s1 _ _, .inf s2 => (.fin (xor s1 s2) 0 1, 0)
  | x, y => (.nan false, sigNV [x, y])

/-- Exact a × b + c (R126, R130): 0 × ∞ sets NV even when c is a quiet NaN. -/
def Num.fma (a b c : Num) : NumF :=
  let p := a.mul b
  let r := p.1.add c
  (r.1, p.2 ||| r.2 ||| sigNV [a, b, c])

/-- minimumNumber and maximumNumber (R129): which operand is returned, none for the canonical NaN. -/
def Num.pick (wantMax : Bool) (a b : Num) : Option Bool :=
  if a.isNan && b.isNan then none
  else if a.isNan then some false
  else if b.isNan then some true
  else if a.isZero && b.isZero then some (a.sign != wantMax || a.sign == b.sign)
  else some (if wantMax then !a.lt b else !b.lt a)

/-! ### Square roots of integers -/

/-- The integer square root, bit by bit from bit `k - 1` down. -/
def isqrtFrom (v : Nat) : Nat → Nat → Nat
  | 0, r => r
  | k + 1, r => isqrtFrom v k (if (r + 2 ^ k) * (r + 2 ^ k) ≤ v then r + 2 ^ k else r)

/-- The integer square root. -/
def isqrt (v : Nat) : Nat := isqrtFrom v (v.log2 / 2 + 1) 0

/-! ### Formats -/

/-- A binary floating-point format (R132). -/
structure FpFmt where
  frac : Nat
  bias : Nat
  maxCode : Nat
  hasInf : Bool
  canonNan : Nat
  signBit : Nat
  deriving DecidableEq, Repr

/-- FP64 (R132). -/
def fp64 : FpFmt := { frac := 52, bias := 1023, maxCode := 0x7FEFFFFFFFFFFFFF, hasInf := true, canonNan := 0x7FF8000000000000, signBit := 63 }
/-- FP32 (R132). -/
def fp32 : FpFmt := { frac := 23, bias := 127, maxCode := 0x7F7FFFFF, hasInf := true, canonNan := 0x7FC00000, signBit := 31 }
/-- BF16 (R132). -/
def bf16 : FpFmt := { frac := 7, bias := 127, maxCode := 0x7F7F, hasInf := true, canonNan := 0x7FC0, signBit := 15 }
/-- FP16 (R132). -/
def fp16 : FpFmt := { frac := 10, bias := 15, maxCode := 0x7BFF, hasInf := true, canonNan := 0x7E00, signBit := 15 }
/-- E4M3 (R132). -/
def e4m3 : FpFmt := { frac := 3, bias := 7, maxCode := 0x7E, hasInf := false, canonNan := 0x7F, signBit := 7 }
/-- E5M2 (R132). -/
def e5m2 : FpFmt := { frac := 2, bias := 15, maxCode := 0x7B, hasInf := true, canonNan := 0x7E, signBit := 7 }

/-- 2^x times n over d, for a signed x. -/
def scaled2 (n d : Nat) (x : Int) : Nat × Nat := if 0 ≤ x then (n * 2 ^ x.toNat, d) else (n, d * 2 ^ (-x).toNat)

/-- The value of a code (R132, R133). -/
def FpFmt.decode (f : FpFmt) (c : Nat) : Num :=
  let s := bitAt c f.signBit
  let body := c % 2 ^ f.signBit
  let e := body / 2 ^ f.frac
  let m := body % 2 ^ f.frac
  if f.maxCode < body then
    if f.hasInf && m == 0 then .inf s else .nan (f.hasInf && !bitAt m (f.frac - 1))
  else if e = 0 then
    let p := scaled2 m 1 (1 - (f.bias : Int) - f.frac)
    .fin s p.1 p.2
  else
    let p := scaled2 (m + 2 ^ f.frac) 1 ((e : Int) - f.bias - f.frac)
    .fin s p.1 p.2

/-- The floor of the base-2 logarithm of n over d, both not zero. -/
def log2Floor (n d : Nat) : Int :=
  let l : Int := (n.log2 : Int) - d.log2
  let p := scaled2 1 1 l
  if p.1 * d ≤ n * p.2 then l else l - 1

/-- How a conversion rounds (R142), with the word of RS. -/
structure Rounding where
  mode : RMode
  rs : Nat
  deriving DecidableEq, Repr

/-- Round to nearest, ties to even. -/
def Rounding.rne : Rounding := { mode := .rne, rs := 0 }

/-- Round a magnitude of N over D units to whole units (R142); hi and lo are of the signed value. -/
def roundUnits (r : Rounding) (neg : Bool) (N D : Nat) : Nat :=
  let u := N / D
  let m := N % D
  if m = 0 then u else
    match r.mode with
    | .rne => if 2 * m < D then u else if D < 2 * m then u + 1 else u + u % 2
    | .rz => u
    | .ru => if neg then u else u + 1
    | .rd => if neg then u + 1 else u
    | .rs =>
      if neg then (if r.rs * D < 2 ^ 24 * (D - m) then u else u + 1)
      else (if r.rs * D < 2 ^ 24 * m then u + 1 else u)

/-- A magnitude rounded to a binary format with the exponent unbounded above: its code (beyond `maxCode` where it lies beyond
the finite range), whether it is inexact, and whether the rounded value is below the smallest normal. -/
structure RoundedTo where
  code : Nat
  inexact : Bool
  tiny : Bool
  deriving DecidableEq, Repr

/-- Round a magnitude n over d (R142). -/
def FpFmt.roundTo (f : FpFmt) (r : Rounding) (neg : Bool) (n d : Nat) : RoundedTo :=
  if n = 0 then { code := 0, inexact := false, tiny := true } else
    let e := max (log2Floor n d) (1 - (f.bias : Int))
    let x := e - f.frac
    let p := scaled2 n d (-x)
    let u := roundUnits r neg p.1 p.2
    { code := (x + f.frac + f.bias - 1).toNat * 2 ^ f.frac + u
      inexact := p.1 % p.2 != 0
      tiny := decide ((x + f.frac + f.bias - 1).toNat * 2 ^ f.frac + u < 2 ^ f.frac) }

/-- IEEE 754 tininess after rounding (R126): rounded with both exponent ends unbounded, the value is below the smallest normal. -/
def FpFmt.tinyAfter (f : FpFmt) (n d : Nat) : Bool :=
  if n = 0 then false else
    let x := log2Floor n d - f.frac
    let p := scaled2 n d (-x)
    let u := roundUnits Rounding.rne false p.1 p.2
    let q := scaled2 u 1 (x + f.frac + f.bias - 1)
    decide (q.1 < 2 ^ f.frac * q.2)

/-- A code with its sign. -/
def FpFmt.withSign (f : FpFmt) (neg : Bool) (c : Nat) : Nat := if neg then c + 2 ^ f.signBit else c

/-- An infinity's code. -/
def FpFmt.infCode (f : FpFmt) (neg : Bool) : Nat := f.withSign neg (f.maxCode + 1)

/-- The result of scalar arithmetic (R126): RNE, overflow to infinity with OF and NX, tininess after rounding. -/
def FpFmt.result (f : FpFmt) (v : NumF) : Nat × Flags :=
  match v.1 with
  | .nan _ => (f.canonNan, v.2)
  | .inf s => (f.infCode s, v.2)
  | .fin s n d =>
    let r := f.roundTo Rounding.rne s n d
    if f.maxCode < r.code then (f.infCode s, v.2 ||| flagOF ||| flagNX)
    else (f.withSign s r.code, v.2 ||| flagIf r.inexact flagNX ||| flagIf (r.inexact && f.tinyAfter n d) flagUF)

/-- The square root (R126): exact when it is rational, else a rational that rounds as the root does (one half unit of a
place far below any rounding boundary of the formats). -/
def sqrtNear (n d : Nat) : Nat × Nat :=
  let g := Nat.gcd n d
  let n' := n / g
  let d' := d / g
  if isqrt n' * isqrt n' = n' ∧ isqrt d' * isqrt d' = d' then (isqrt n', isqrt d')
  else
    let k := 160 + d'.log2
    let r := isqrt (n' * 4 ^ k / d')
    (2 * r + 1, 2 ^ (k + 1))

/-- FSQRT of a number. -/
def Num.sqrt : Num → NumF
  | .fin s n d => if n = 0 then (.fin s 0 1, 0) else if s then (.nan false, flagNV) else
    (.fin false (sqrtNear n d).1 (sqrtNear n d).2, 0)
  | .inf s => if s then (.nan false, flagNV) else (.inf false, 0)
  | .nan g => (.nan false, flagIf g flagNV)

/-! ### DM8 (R135 to R137) -/

/-- The run length of a DM8 body (R135): bits equal to bit 6, downward from bit 6. -/
def dm8Run (b : Nat) : Nat :=
  let x := bitAt b 6
  ((List.range 7).takeWhile fun i => bitAt b (6 - i) == x).length

/-- Magnitude of a nonzero DM8 body as M × 10^k / 32 (R137). -/
def dm8Parts (b : Nat) : Nat × Int :=
  let r := dm8Run b
  let k : Int := if bitAt b 6 then (r : Int) - 1 else -(r : Int)
  let n := if 6 ≤ r then 0 else 6 - r
  (32 + 9 * (b % 2 ^ n) * 2 ^ (5 - n), k)

/-- n over d times 10^k. -/
def scaled10 (n d : Nat) (k : Int) : Nat × Nat := if 0 ≤ k then (n * 10 ^ k.toNat, d) else (n, d * 10 ^ (-k).toNat)

/-- Magnitude of a DM8 body (R135). -/
def dm8Mag (b : Nat) : Nat × Nat :=
  if b = 0 then (0, 1) else
    let p := dm8Parts b
    scaled10 p.1 32 p.2

/-- The value of a DM8 code (R135). -/
def dm8Decode (c : Nat) : Num :=
  let b := c % 128
  if b = 0 then (if bitAt c 7 then .nan false else .zero)
  else .fin (bitAt c 7) (dm8Mag b).1 (dm8Mag b).2

/-- The largest DM8 body whose magnitude is at most n over d, which is at most 10^6: bit by bit, since magnitudes rise with
the body (R135). -/
def dm8Below (n d : Nat) : Nat → Nat → Nat
  | 0, b => b
  | k + 1, b =>
    let t := b + 2 ^ k
    dm8Below n d k (if (dm8Mag t).1 * d ≤ n * (dm8Mag t).2 then t else b)

/-- Rounding to DM8 (R144): the code, the flags, and whether the element counts as saturated. -/
def dm8Round (r : Rounding) (neg : Bool) (n d : Nat) : Nat × Flags × Bool :=
  if n = 0 then (0, 0, false)
  else if 10 ^ 6 * d < n then (bit neg * 128 + 0x7F, 0, true)
  else
    let lo := dm8Below n d 7 0
    let l := dm8Mag lo
    if l.1 * d = n * l.2 then (bit neg * 128 + lo, 0, false)
    else
      let h := dm8Mag (lo + 1)
      -- (m − lo) over (hi − lo), as two whole numbers
      let up := (n * l.2 - l.1 * d) * h.2
      let span := (h.1 * l.2 - l.1 * h.2) * d
      let pickHi := match r.mode with
        | .rne => decide (span < 2 * up) || (2 * up == span && lo % 2 == 1)
        | .rz => false
        | .ru => !neg
        | .rd => neg
        | .rs => decide (r.rs * span < 2 ^ 24 * up)
      let p := if pickHi then lo + 1 else lo
      (if p = 0 then 0 else bit neg * 128 + p, flagNX ||| flagIf (decide (n * 10 ^ 6 < d)) flagUF, false)

/-! ### Element formats and channels (R131 to R139) -/

/-- The element formats (R131). -/
inductive Fmt where
  | fp (f : FpFmt)
  | dm8
  | int (bits : Nat)
  deriving DecidableEq, Repr

/-- A format code (R131); 8 to 15 are reserved, and no channel holds one. -/
def fmtOf (c : Nat) : Option Fmt :=
  if c = 0 then some (.fp fp32) else if c = 1 then some (.fp bf16) else if c = 2 then some (.fp fp16)
  else if c = 3 then some (.fp e4m3) else if c = 4 then some (.fp e5m2) else if c = 5 then some .dm8
  else if c = 6 then some (.int 8) else if c = 7 then some (.int 32) else none

/-- The bits of an element (R131). -/
def Fmt.bits : Fmt → Nat
  | .fp f => f.signBit + 1
  | .dm8 => 8
  | .int n => n

/-- The width code of R156: 0, 1, 2 for 8, 16, 32 bits. -/
def Fmt.width (f : Fmt) : Nat := if f.bits = 8 then 0 else if f.bits = 16 then 1 else 2

/-- A format channel as read: its format and scale (R139). -/
structure ChanFmt where
  fmt : Fmt
  scale : Int
  deriving DecidableEq, Repr

/-- A channel from its stored image: bits [15:8] the scale, [3:0] the format (R139). -/
def chanOf (img : BitVec 16) : Option ChanFmt :=
  (fmtOf (bitsAt img.toNat 0 4)).map fun f => { fmt := f, scale := signedOf 8 (bitsAt img.toNat 8 8) }

/-- Multiply a value by the channel's base to a power (R138). -/
def Num.scaleBy (f : Fmt) (x : Int) : Num → Num
  | .fin s n d => let p := if f = .dm8 then scaled10 n d x else scaled2 n d x
    .fin s p.1 p.2
  | v => v

/-- The value of a code of a format, unscaled. -/
def Fmt.decode (f : Fmt) (c : Nat) : Num :=
  match f with
  | .fp g => g.decode c
  | .dm8 => dm8Decode c
  | .int n => Num.ofInt (signedOf n c)

/-- The value of an element (R138). -/
def ChanFmt.decode (ch : ChanFmt) (c : Nat) : Num := (ch.fmt.decode c).scaleBy ch.fmt ch.scale

/-- The canonical NaN of a format (R133); integers have none. -/
def Fmt.canonNan : Fmt → Nat
  | .fp f => f.canonNan
  | .dm8 => 0x80
  | .int _ => 0

/-- The format holds infinities. -/
def Fmt.hasInf : Fmt → Bool
  | .fp f => f.hasInf
  | _ => false

/-- The largest finite code of a sign. -/
def Fmt.largest (f : Fmt) (neg : Bool) : Nat :=
  match f with
  | .fp g => g.withSign neg g.maxCode
  | .dm8 => bit neg * 128 + 0x7F
  | .int n => if neg then 2 ^ (n - 1) else 2 ^ (n - 1) - 1

/-- An integer magnitude of a sign is in the range of n bits. -/
def intFits (n : Nat) (neg : Bool) (u : Nat) : Bool := if neg then decide (u ≤ 2 ^ (n - 1)) else decide (u < 2 ^ (n - 1))

/-- One converted or written element: its code, the flags, and whether it counts as saturated. -/
structure Put where
  code : Nat
  flags : Flags
  sat : Bool
  deriving DecidableEq, Repr

/-- Conversion of a value to a channel's format (R141): saturates, and counts saturations. -/
def convert (v : Num) (ch : ChanFmt) (r : Rounding) : Put :=
  match v with
  | .nan sig =>
    match ch.fmt with
    | .int _ => { code := 0, flags := flagNV, sat := false }
    | f => { code := f.canonNan, flags := flagIf sig flagNV, sat := false }
  | .inf s =>
    match ch.fmt with
    | .fp f => if f.hasInf then { code := f.infCode s, flags := 0, sat := false }
               else { code := ch.fmt.largest s, flags := flagSV, sat := true }
    | _ => { code := ch.fmt.largest s, flags := flagSV, sat := true }
  | .fin s n d =>
    match ch.fmt with
    | .dm8 =>
      let p := scaled10 n d (-ch.scale)
      let q := dm8Round r s p.1 p.2
      { code := q.1, flags := q.2.1 ||| flagIf q.2.2 flagSV, sat := q.2.2 }
    | .fp f =>
      let p := scaled2 n d (-ch.scale)
      let q := f.roundTo r s p.1 p.2
      if f.maxCode < q.code then { code := ch.fmt.largest s, flags := flagSV, sat := true }
      else { code := f.withSign s q.code, flags := flagIf q.inexact flagNX ||| flagIf (q.inexact && q.tiny) flagUF, sat := false }
    | .int w =>
      let p := scaled2 n d (-ch.scale)
      let u := roundUnits r s p.1 p.2
      if !intFits w s u then { code := ch.fmt.largest s, flags := flagSV, sat := true }
      else { code := wrapNat w (signedNum s u), flags := flagIf (p.1 % p.2 != 0) flagNX, sat := false }

/-- `put` of R166: RNE, overflow to infinity where the format has one. -/
def put (v : Num) (ch : ChanFmt) : Put :=
  match v with
  | .nan _ =>
    match ch.fmt with
    | .int _ => { code := 0, flags := flagNV, sat := false }
    | f => { code := f.canonNan, flags := 0, sat := false }
  | .fin s n d =>
    match ch.fmt with
    | .fp f =>
      let p := scaled2 n d (-ch.scale)
      let q := f.roundTo Rounding.rne s p.1 p.2
      if f.maxCode < q.code ∧ f.hasInf then { code := f.infCode s, flags := flagOF ||| flagNX, sat := false }
      else convert v ch Rounding.rne
    | _ => convert v ch Rounding.rne
  | .inf _ => convert v ch Rounding.rne

/-- `put` of an operation that sets flags of its own. -/
def putF (v : NumF) (ch : ChanFmt) : Put :=
  let p := put v.1 ch
  { p with flags := p.flags ||| v.2 }

end Sys2Proof.Machine
end

