-- ==== Sys2Proof/Machine/Scalar.lean ====
section
/-! DEFINITION. Scalar integer and address instructions (R109 to R124): one meaning for each, over the results below. -/

namespace Sys2Proof.Machine

/-- The instruction is a dependent of its block's irrevocable instruction (R89) or HCALL (R415; DEDUCED, assumption log 106). -/
def Firing.dependent (f : Firing) : Bool := f.fr.dependentAt f.idx

/-- A scalar operand (R110): a tile handle raises TOKEN_KIND, but in a dependent of an irrevocable instruction its 64-bit
value is read (R89). -/
def Firing.scalar (f : Firing) (t : Tok) : Except Stop Word :=
  if t.kind = .tile && !f.dependent then failWith .tokenKind else .ok t.val

/-- An immediate, sign-extended (R51). -/
def immWord (w : BitVec 32) : Word := w.signExtend 64

/-- Scalar tokens to T0 and T1 and flags held with the activation (R111, R112). -/
def Firing.scalarResult (f : Firing) (s : State) (r : Word × Flags) : Done := Done.scalar (s.orFlags f.key r.2) r.1

/-- One operand. -/
def unary (g : Word → Word) : Body := fun f s => do
  let a ← f.scalar f.a
  .ok (Done.scalar s (g a))

/-- Two operands. -/
def binary (g : Word → Word → Word) : Body := fun f s => do
  let a ← f.scalar f.a
  let b ← f.scalar f.b
  .ok (Done.scalar s (g a b))

/-- Operand a and an immediate in place of b. -/
def binaryImm (g : Word → Word → Word) (w : BitVec 32) : Body := unary fun a => g a (immWord w)

/-- Two operands, with flags. -/
def binaryF (g : Word → Word → Word × Flags) : Body := fun f s => do
  let a ← f.scalar f.a
  let b ← f.scalar f.b
  .ok (f.scalarResult s (g a b))

/-- Operand a and an immediate, with flags. -/
def binaryImmF (g : Word → Word → Word × Flags) (w : BitVec 32) : Body := fun f s => do
  let a ← f.scalar f.a
  .ok (f.scalarResult s (g a (immWord w)))

/-- Three operands. -/
def ternary (g : Word → Word → Word → Word) : Body := fun f s => do
  let a ← f.scalar f.a
  let b ← f.scalar f.b
  let c ← f.scalar f.c
  .ok (Done.scalar s (g a b c))

/-! ### Results (R115 to R124) -/

/-- The count of a shift or rotate: b[5:0] (R116). -/
def shiftCount (b : Word) : Nat := b.toNat % 64

/-- SHL (R115). -/
def aluShl (a b : Word) : Word := a <<< shiftCount b
/-- SHR (R115). -/
def aluShr (a b : Word) : Word := a >>> shiftCount b
/-- SAR (R115). -/
def aluSar (a b : Word) : Word := a.sshiftRight (shiftCount b)
/-- MIN (R115). -/
def aluMin (a b : Word) : Word := if a.slt b then a else b
/-- MAX (R115). -/
def aluMax (a b : Word) : Word := if b.slt a then a else b
/-- MINU (R115). -/
def aluMinu (a b : Word) : Word := if a.ult b then a else b
/-- MAXU (R115). -/
def aluMaxu (a b : Word) : Word := if b.ult a then a else b
/-- ROTL (R115). -/
def aluRotl (a b : Word) : Word := a.rotateLeft (shiftCount b)
/-- MUL (R118). -/
def aluMul (a b : Word) : Word := a * b
/-- MULH (R118): bits [127:64] of the exact signed product. -/
def aluMulh (a b : Word) : Word := BitVec.ofInt 64 (a.toInt * b.toInt / 2 ^ 64)
/-- MULHU (R118). -/
def aluMulhu (a b : Word) : Word := BitVec.ofNat 64 (a.toNat * b.toNat / 2 ^ 64)
/-- DIV (R118). -/
def aluDiv (a b : Word) : Word × Flags := if b = 0 then (BitVec.allOnes 64, flagID) else (BitVec.ofInt 64 (a.toInt.tdiv b.toInt), 0)
/-- DIVU (R118). -/
def aluDivu (a b : Word) : Word × Flags := if b = 0 then (BitVec.allOnes 64, flagID) else (BitVec.ofNat 64 (a.toNat / b.toNat), 0)
/-- REM (R118). -/
def aluRem (a b : Word) : Word × Flags := if b = 0 then (a, flagID) else (BitVec.ofInt 64 (a.toInt.tmod b.toInt), 0)
/-- REMU (R118). -/
def aluRemu (a b : Word) : Word × Flags := if b = 0 then (a, flagID) else (BitVec.ofNat 64 (a.toNat % b.toNat), 0)
/-- CLZ (R120). -/
def aluClz (a : Word) : Word := if a = 0 then 64 else BitVec.ofNat 64 (63 - a.toNat.log2)
/-- CTZ (R120). -/
def aluCtz (a : Word) : Word := BitVec.ofNat 64 ((List.range 64).takeWhile fun i => !a.getLsbD i).length
/-- POPC (R120). -/
def aluPopc (a : Word) : Word := BitVec.ofNat 64 ((List.range 64).filter fun i => a.getLsbD i).length
/-- ZEXT (R120): bits [n:0] of a, n = b[5:0]. -/
def aluZext (a b : Word) : Word := BitVec.ofNat 64 (a.toNat % 2 ^ (shiftCount b + 1))
/-- SEXT (R120): bits [n:0] of a with a[n] copied above. -/
def aluSext (a b : Word) : Word := BitVec.ofInt 64 (signedOf (shiftCount b + 1) a.toNat)
/-- ABS (R120): of −2^63 it is −2^63. -/
def aluAbs (a : Word) : Word := if a.slt 0 then -a else a
/-- CMP (R121). -/
def aluCmp (c : Cond) (a b : Word) : Word :=
  let r := match c with
    | .eq => a == b
    | .ne => a != b
    | .lt => a.slt b
    | .ge => !a.slt b
    | .ltu => a.ult b
    | .geu => !a.ult b
  if r then 1 else 0
/-- LEA (R122). -/
def aluLea (a b : Word) : Word := a + 64 * b
/-- BFX (R123). -/
def aluBfx (w : BfW) (a : Word) : Word :=
  let f := a.toNat / 2 ^ w.pos.toNat
  if w.sx then BitVec.ofInt 64 (signedOf (w.width.toNat + 1) f) else BitVec.ofNat 64 (f % 2 ^ (w.width.toNat + 1))
/-- BFI (R124): field bits beyond bit 63 are dropped. -/
def aluBfi (w : BfW) (a b c : Word) : Word :=
  let pos := w.pos.toNat + shiftCount c
  let m : Word := BitVec.ofNat 64 ((2 ^ (w.width.toNat + 1) - 1) * 2 ^ pos)
  (a &&& ~~~m) ||| (BitVec.ofNat 64 (b.toNat * 2 ^ pos) &&& m)

/-- ADD (R115). -/
def execAdd (h : Hdr) (s : State) : Host.Outcome State Fault Refusal := fire (.add h) (binary (· + ·)) s
/-- ADD_IMM (R115, R116). -/
def execAddImm (h : Hdr) (w : BitVec 32) (s : State) : Host.Outcome State Fault Refusal := fire (.addImm h w) (binaryImm (· + ·) w) s
/-- SUB (R115). -/
def execSub (h : Hdr) (s : State) : Host.Outcome State Fault Refusal := fire (.sub h) (binary (· - ·)) s
/-- SUB_IMM (R115, R116). -/
def execSubImm (h : Hdr) (w : BitVec 32) (s : State) : Host.Outcome State Fault Refusal := fire (.subImm h w) (binaryImm (· - ·) w) s
/-- AND (R115). -/
def execAnd (h : Hdr) (s : State) : Host.Outcome State Fault Refusal := fire (.and_ h) (binary (· &&& ·)) s
/-- AND_IMM (R115, R116). -/
def execAndImm (h : Hdr) (w : BitVec 32) (s : State) : Host.Outcome State Fault Refusal := fire (.andImm h w) (binaryImm (· &&& ·) w) s
/-- OR (R115). -/
def execOr (h : Hdr) (s : State) : Host.Outcome State Fault Refusal := fire (.or_ h) (binary (· ||| ·)) s
/-- OR_IMM (R115, R116). -/
def execOrImm (h : Hdr) (w : BitVec 32) (s : State) : Host.Outcome State Fault Refusal := fire (.orImm h w) (binaryImm (· ||| ·) w) s
/-- XOR (R115). -/
def execXor (h : Hdr) (s : State) : Host.Outcome State Fault Refusal := fire (.xor_ h) (binary (· ^^^ ·)) s
/-- XOR_IMM (R115, R116). -/
def execXorImm (h : Hdr) (w : BitVec 32) (s : State) : Host.Outcome State Fault Refusal := fire (.xorImm h w) (binaryImm (· ^^^ ·) w) s
/-- SHL (R115). -/
def execShl (h : Hdr) (s : State) : Host.Outcome State Fault Refusal := fire (.shl h) (binary aluShl) s
/-- SHL_IMM (R115, R116). -/
def execShlImm (h : Hdr) (w : BitVec 32) (s : State) : Host.Outcome State Fault Refusal := fire (.shlImm h w) (binaryImm aluShl w) s
/-- SHR (R115). -/
def execShr (h : Hdr) (s : State) : Host.Outcome State Fault Refusal := fire (.shr h) (binary aluShr) s
/-- SHR_IMM (R115, R116). -/
def execShrImm (h : Hdr) (w : BitVec 32) (s : State) : Host.Outcome State Fault Refusal := fire (.shrImm h w) (binaryImm aluShr w) s
/-- SAR (R115). -/
def execSar (h : Hdr) (s : State) : Host.Outcome State Fault Refusal := fire (.sar h) (binary aluSar) s
/-- SAR_IMM (R115, R116). -/
def execSarImm (h : Hdr) (w : BitVec 32) (s : State) : Host.Outcome State Fault Refusal := fire (.sarImm h w) (binaryImm aluSar w) s
/-- MIN (R115). -/
def execMin (h : Hdr) (s : State) : Host.Outcome State Fault Refusal := fire (.min_ h) (binary aluMin) s
/-- MIN_IMM (R115, R116). -/
def execMinImm (h : Hdr) (w : BitVec 32) (s : State) : Host.Outcome State Fault Refusal := fire (.minImm h w) (binaryImm aluMin w) s
/-- MAX (R115). -/
def execMax (h : Hdr) (s : State) : Host.Outcome State Fault Refusal := fire (.max_ h) (binary aluMax) s
/-- MAX_IMM (R115, R116). -/
def execMaxImm (h : Hdr) (w : BitVec 32) (s : State) : Host.Outcome State Fault Refusal := fire (.maxImm h w) (binaryImm aluMax w) s
/-- MINU (R115). -/
def execMinu (h : Hdr) (s : State) : Host.Outcome State Fault Refusal := fire (.minu h) (binary aluMinu) s
/-- MINU_IMM (R115, R116). -/
def execMinuImm (h : Hdr) (w : BitVec 32) (s : State) : Host.Outcome State Fault Refusal := fire (.minuImm h w) (binaryImm aluMinu w) s
/-- MAXU (R115). -/
def execMaxu (h : Hdr) (s : State) : Host.Outcome State Fault Refusal := fire (.maxu h) (binary aluMaxu) s
/-- MAXU_IMM (R115, R116). -/
def execMaxuImm (h : Hdr) (w : BitVec 32) (s : State) : Host.Outcome State Fault Refusal := fire (.maxuImm h w) (binaryImm aluMaxu w) s
/-- ROTL (R115). -/
def execRotl (h : Hdr) (s : State) : Host.Outcome State Fault Refusal := fire (.rotl h) (binary aluRotl) s
/-- ROTL_IMM (R115, R116). -/
def execRotlImm (h : Hdr) (w : BitVec 32) (s : State) : Host.Outcome State Fault Refusal := fire (.rotlImm h w) (binaryImm aluRotl w) s
/-- ANDN (R115). -/
def execAndn (h : Hdr) (s : State) : Host.Outcome State Fault Refusal := fire (.andn h) (binary (fun a b => a &&& ~~~b)) s
/-- ANDN_IMM (R115, R116). -/
def execAndnImm (h : Hdr) (w : BitVec 32) (s : State) : Host.Outcome State Fault Refusal := fire (.andnImm h w) (binaryImm (fun a b => a &&& ~~~b) w) s
/-- ORN (R115). -/
def execOrn (h : Hdr) (s : State) : Host.Outcome State Fault Refusal := fire (.orn h) (binary (fun a b => a ||| ~~~b)) s
/-- ORN_IMM (R115, R116). -/
def execOrnImm (h : Hdr) (w : BitVec 32) (s : State) : Host.Outcome State Fault Refusal := fire (.ornImm h w) (binaryImm (fun a b => a ||| ~~~b) w) s
/-- XNOR (R115). -/
def execXnor (h : Hdr) (s : State) : Host.Outcome State Fault Refusal := fire (.xnor h) (binary (fun a b => ~~~(a ^^^ b))) s
/-- XNOR_IMM (R115, R116). -/
def execXnorImm (h : Hdr) (w : BitVec 32) (s : State) : Host.Outcome State Fault Refusal := fire (.xnorImm h w) (binaryImm (fun a b => ~~~(a ^^^ b)) w) s
/-- MUL (R118). -/
def execMul (h : Hdr) (s : State) : Host.Outcome State Fault Refusal := fire (.mul h) (binary aluMul) s
/-- MUL_IMM (R117, R118). -/
def execMulImm (h : Hdr) (w : BitVec 32) (s : State) : Host.Outcome State Fault Refusal := fire (.mulImm h w) (binaryImm aluMul w) s
/-- MULH (R118). -/
def execMulh (h : Hdr) (s : State) : Host.Outcome State Fault Refusal := fire (.mulh h) (binary aluMulh) s
/-- MULH_IMM (R117, R118). -/
def execMulhImm (h : Hdr) (w : BitVec 32) (s : State) : Host.Outcome State Fault Refusal := fire (.mulhImm h w) (binaryImm aluMulh w) s
/-- MULHU (R118). -/
def execMulhu (h : Hdr) (s : State) : Host.Outcome State Fault Refusal := fire (.mulhu h) (binary aluMulhu) s
/-- MULHU_IMM (R117, R118). -/
def execMulhuImm (h : Hdr) (w : BitVec 32) (s : State) : Host.Outcome State Fault Refusal := fire (.mulhuImm h w) (binaryImm aluMulhu w) s
/-- DIV (R118). -/
def execDiv (h : Hdr) (s : State) : Host.Outcome State Fault Refusal := fire (.div h) (binaryF aluDiv) s
/-- DIV_IMM (R117, R118). -/
def execDivImm (h : Hdr) (w : BitVec 32) (s : State) : Host.Outcome State Fault Refusal := fire (.divImm h w) (binaryImmF aluDiv w) s
/-- DIVU (R118). -/
def execDivu (h : Hdr) (s : State) : Host.Outcome State Fault Refusal := fire (.divu h) (binaryF aluDivu) s
/-- DIVU_IMM (R117, R118). -/
def execDivuImm (h : Hdr) (w : BitVec 32) (s : State) : Host.Outcome State Fault Refusal := fire (.divuImm h w) (binaryImmF aluDivu w) s
/-- REM (R118). -/
def execRem (h : Hdr) (s : State) : Host.Outcome State Fault Refusal := fire (.rem_ h) (binaryF aluRem) s
/-- REM_IMM (R117, R118). -/
def execRemImm (h : Hdr) (w : BitVec 32) (s : State) : Host.Outcome State Fault Refusal := fire (.remImm h w) (binaryImmF aluRem w) s
/-- REMU (R118). -/
def execRemu (h : Hdr) (s : State) : Host.Outcome State Fault Refusal := fire (.remu h) (binaryF aluRemu) s
/-- REMU_IMM (R117, R118). -/
def execRemuImm (h : Hdr) (w : BitVec 32) (s : State) : Host.Outcome State Fault Refusal := fire (.remuImm h w) (binaryImmF aluRemu w) s
/-- CLZ (R120). -/
def execClz (h : Hdr) (s : State) : Host.Outcome State Fault Refusal := fire (.clz h) (unary aluClz) s
/-- CTZ (R120). -/
def execCtz (h : Hdr) (s : State) : Host.Outcome State Fault Refusal := fire (.ctz h) (unary aluCtz) s
/-- POPC (R120). -/
def execPopc (h : Hdr) (s : State) : Host.Outcome State Fault Refusal := fire (.popc h) (unary aluPopc) s
/-- NEG (R120). -/
def execNeg (h : Hdr) (s : State) : Host.Outcome State Fault Refusal := fire (.neg h) (unary (fun a => -a)) s
/-- NOT (R120). -/
def execNot (h : Hdr) (s : State) : Host.Outcome State Fault Refusal := fire (.not_ h) (unary (fun a => ~~~a)) s
/-- ABS (R120). -/
def execAbs (h : Hdr) (s : State) : Host.Outcome State Fault Refusal := fire (.abs_ h) (unary aluAbs) s
/-- SEXT (R120). -/
def execSext (h : Hdr) (s : State) : Host.Outcome State Fault Refusal := fire (.sext h) (binary aluSext) s
/-- ZEXT (R120). -/
def execZext (h : Hdr) (s : State) : Host.Outcome State Fault Refusal := fire (.zext h) (binary aluZext) s
/-- CMP (R121). -/
def execCmp (h : Hdr) (cc : Cond) (s : State) : Host.Outcome State Fault Refusal := fire (.cmp h cc) (binary (aluCmp cc)) s
/-- CMP_IMM (R121). -/
def execCmpImm (h : Hdr) (cc : Cond) (w : BitVec 32) (s : State) : Host.Outcome State Fault Refusal := fire (.cmpImm h cc w) (binaryImm (aluCmp cc) w) s
/-- LEA (R122). -/
def execLea (h : Hdr) (s : State) : Host.Outcome State Fault Refusal := fire (.lea h) (binary aluLea) s
/-- LEA_IMM (R122). -/
def execLeaImm (h : Hdr) (w : BitVec 32) (s : State) : Host.Outcome State Fault Refusal := fire (.leaImm h w) (binaryImm aluLea w) s
/-- BFX (R123). -/
def execBfx (h : Hdr) (w : BfW) (s : State) : Host.Outcome State Fault Refusal := fire (.bfx h w) (unary (aluBfx w)) s
/-- BFI (R124). -/
def execBfi (h : Hdr) (w : BfW) (s : State) : Host.Outcome State Fault Refusal := fire (.bfi h w) (ternary (aluBfi w)) s

end Sys2Proof.Machine
end

