-- ==== Sys2Proof/Machine/Fp.lean ====
section
/-! DEFINITION. Scalar floating point (R125 to R130) and the conversions of the scalar slot (R149 to R153). -/

namespace Sys2Proof.Machine

/-- An FP operand (R125): FP32 is bits [31:0]. -/
def fpIn (f : FpFmt) (w : Word) : Num := f.decode (w.toNat % 2 ^ (f.signBit + 1))

/-- An arithmetic result as a word (R125, R126). -/
def fpOut (f : FpFmt) (v : NumF) : Word × Flags := let r := f.result v; (wordOf r.1, r.2)

/-- FADD, FSUB, FMUL, FDIV (R126). -/
def fpBin (f : FpFmt) (g : Num → Num → NumF) (a b : Word) : Word × Flags := fpOut f (g (fpIn f a) (fpIn f b))

/-- FMIN and FMAX (R129): a result that is not NaN is returned bit for bit. -/
def fpPick (f : FpFmt) (wantMax : Bool) (a b : Word) : Word × Flags :=
  let x := fpIn f a
  let y := fpIn f b
  let w : Word := match Num.pick wantMax x y with
    | none => wordOf f.canonNan
    | some true => wordOf (a.toNat % 2 ^ (f.signBit + 1))
    | some false => wordOf (b.toNat % 2 ^ (f.signBit + 1))
  (w, sigNV [x, y])

/-- FCMPEQ and FCMPUN are quiet (R128). -/
def fpCmpQuiet (f : FpFmt) (un : Bool) (a b : Word) : Word × Flags :=
  let x := fpIn f a
  let y := fpIn f b
  let r := if un then x.isNan || y.isNan else x.eq y
  (if r then 1 else 0, sigNV [x, y])

/-- FCMPLT and FCMPLE are signaling (R128). -/
def fpCmpSig (f : FpFmt) (le : Bool) (a b : Word) : Word × Flags :=
  let x := fpIn f a
  let y := fpIn f b
  let r := x.lt y || (le && x.eq y)
  (if r then 1 else 0, flagIf (x.isNan || y.isNan) flagNV)

/-- FSQRT (R126). -/
def fpSqrt (f : FpFmt) (a : Word) : Word × Flags := fpOut f (fpIn f a).sqrt

/-- FABS (R127): the sign bit cleared. -/
def fpAbs (f : FpFmt) (a : Word) : Word := wordOf (a.toNat % 2 ^ f.signBit)

/-- FNEG (R127): the sign bit inverted. -/
def fpNeg (f : FpFmt) (a : Word) : Word := wordOf ((a.toNat + 2 ^ f.signBit) % 2 ^ (f.signBit + 1))

/-- FFMA (R130). -/
def fpFma (f : FpFmt) (a b c : Word) : Word × Flags := fpOut f ((fpIn f a).fma (fpIn f b) (fpIn f c))

/-- One operand, with flags. -/
def unaryF (g : Word → Word × Flags) : Body := fun f s => do
  let a ← f.scalar f.a
  .ok (f.scalarResult s (g a))

/-- Three operands, with flags. -/
def ternaryF (g : Word → Word → Word → Word × Flags) : Body := fun f s => do
  let a ← f.scalar f.a
  let b ← f.scalar f.b
  let c ← f.scalar f.c
  .ok (f.scalarResult s (g a b c))

/-- FADD_S (R126). -/
def execFaddS (h : Hdr) (s : State) : Host.Outcome State Fault Refusal := fire (.faddS h) (binaryF (fpBin fp32 Num.add)) s
/-- FSUB_S (R126). -/
def execFsubS (h : Hdr) (s : State) : Host.Outcome State Fault Refusal := fire (.fsubS h) (binaryF (fpBin fp32 Num.sub)) s
/-- FMUL_S (R126). -/
def execFmulS (h : Hdr) (s : State) : Host.Outcome State Fault Refusal := fire (.fmulS h) (binaryF (fpBin fp32 Num.mul)) s
/-- FDIV_S (R126). -/
def execFdivS (h : Hdr) (s : State) : Host.Outcome State Fault Refusal := fire (.fdivS h) (binaryF (fpBin fp32 Num.div)) s
/-- FMIN_S (R129). -/
def execFminS (h : Hdr) (s : State) : Host.Outcome State Fault Refusal := fire (.fminS h) (binaryF (fpPick fp32 false)) s
/-- FMAX_S (R129). -/
def execFmaxS (h : Hdr) (s : State) : Host.Outcome State Fault Refusal := fire (.fmaxS h) (binaryF (fpPick fp32 true)) s
/-- FSQRT_S (R126, R127). -/
def execFsqrtS (h : Hdr) (s : State) : Host.Outcome State Fault Refusal := fire (.fsqrtS h) (unaryF (fpSqrt fp32)) s
/-- FABS_S (R127). -/
def execFabsS (h : Hdr) (s : State) : Host.Outcome State Fault Refusal := fire (.fabsS h) (unary (fpAbs fp32)) s
/-- FNEG_S (R127). -/
def execFnegS (h : Hdr) (s : State) : Host.Outcome State Fault Refusal := fire (.fnegS h) (unary (fpNeg fp32)) s
/-- FCMPEQ_S (R128). -/
def execFcmpeqS (h : Hdr) (s : State) : Host.Outcome State Fault Refusal := fire (.fcmpeqS h) (binaryF (fpCmpQuiet fp32 false)) s
/-- FCMPLT_S (R128). -/
def execFcmpltS (h : Hdr) (s : State) : Host.Outcome State Fault Refusal := fire (.fcmpltS h) (binaryF (fpCmpSig fp32 false)) s
/-- FCMPLE_S (R128). -/
def execFcmpleS (h : Hdr) (s : State) : Host.Outcome State Fault Refusal := fire (.fcmpleS h) (binaryF (fpCmpSig fp32 true)) s
/-- FCMPUN_S (R128). -/
def execFcmpunS (h : Hdr) (s : State) : Host.Outcome State Fault Refusal := fire (.fcmpunS h) (binaryF (fpCmpQuiet fp32 true)) s
/-- FFMA_S (R130). -/
def execFfmaS (h : Hdr) (s : State) : Host.Outcome State Fault Refusal := fire (.ffmaS h) (ternaryF (fpFma fp32)) s
/-- FADD_D (R126). -/
def execFaddD (h : Hdr) (s : State) : Host.Outcome State Fault Refusal := fire (.faddD h) (binaryF (fpBin fp64 Num.add)) s
/-- FSUB_D (R126). -/
def execFsubD (h : Hdr) (s : State) : Host.Outcome State Fault Refusal := fire (.fsubD h) (binaryF (fpBin fp64 Num.sub)) s
/-- FMUL_D (R126). -/
def execFmulD (h : Hdr) (s : State) : Host.Outcome State Fault Refusal := fire (.fmulD h) (binaryF (fpBin fp64 Num.mul)) s
/-- FDIV_D (R126). -/
def execFdivD (h : Hdr) (s : State) : Host.Outcome State Fault Refusal := fire (.fdivD h) (binaryF (fpBin fp64 Num.div)) s
/-- FMIN_D (R129). -/
def execFminD (h : Hdr) (s : State) : Host.Outcome State Fault Refusal := fire (.fminD h) (binaryF (fpPick fp64 false)) s
/-- FMAX_D (R129). -/
def execFmaxD (h : Hdr) (s : State) : Host.Outcome State Fault Refusal := fire (.fmaxD h) (binaryF (fpPick fp64 true)) s
/-- FSQRT_D (R126, R127). -/
def execFsqrtD (h : Hdr) (s : State) : Host.Outcome State Fault Refusal := fire (.fsqrtD h) (unaryF (fpSqrt fp64)) s
/-- FABS_D (R127). -/
def execFabsD (h : Hdr) (s : State) : Host.Outcome State Fault Refusal := fire (.fabsD h) (unary (fpAbs fp64)) s
/-- FNEG_D (R127). -/
def execFnegD (h : Hdr) (s : State) : Host.Outcome State Fault Refusal := fire (.fnegD h) (unary (fpNeg fp64)) s
/-- FCMPEQ_D (R128). -/
def execFcmpeqD (h : Hdr) (s : State) : Host.Outcome State Fault Refusal := fire (.fcmpeqD h) (binaryF (fpCmpQuiet fp64 false)) s
/-- FCMPLT_D (R128). -/
def execFcmpltD (h : Hdr) (s : State) : Host.Outcome State Fault Refusal := fire (.fcmpltD h) (binaryF (fpCmpSig fp64 false)) s
/-- FCMPLE_D (R128). -/
def execFcmpleD (h : Hdr) (s : State) : Host.Outcome State Fault Refusal := fire (.fcmpleD h) (binaryF (fpCmpSig fp64 true)) s
/-- FCMPUN_D (R128). -/
def execFcmpunD (h : Hdr) (s : State) : Host.Outcome State Fault Refusal := fire (.fcmpunD h) (binaryF (fpCmpQuiet fp64 true)) s
/-- FFMA_D (R130). -/
def execFfmaD (h : Hdr) (s : State) : Host.Outcome State Fault Refusal := fire (.ffmaD h) (ternaryF (fpFma fp64)) s

/-! ### Conversions (R141 to R150) -/

/-- The stochastic word of R143. -/
def rsWord (seed : Word) (pe e : Nat) (iter : Int) (addr : Nat) : Nat :=
  let w := wordOf (pe % 2048 * 2 ^ 53 + e % 256 * 2 ^ 45 + wrapNat 24 iter * 2 ^ 21 + bitsAt addr 2 21)
  let z := (seed ^^^ w) + 0x9E3779B97F4A7C15
  let z := (z ^^^ (z >>> 30)) * 0xBF58476D1CE4E5B9
  let z := (z ^^^ (z >>> 27)) * 0x94D049BB133111EB
  let z := z ^^^ (z >>> 31)
  z.toNat / 2 ^ 40

/-- The offset of an instruction's base word in its block (R44). -/
def Cfg.offsetOf (c : Cfg) (idx : Nat) : Nat :=
  roundUp (8 + 4 * c.reads.length + 4 * ((c.writes.length + 3) / 4)) 8 +
    ((c.code.take idx).map fun r => if Raw.hasSecond r.base then 8 else 4).sum

/-- The virtual address of an instruction (R34). -/
def Firing.addr (f : Firing) : Nat := f.fr.cfg.addr + f.fr.cfg.offsetOf f.idx

/-- The rounding of a conversion at element `e` (R142, R143). -/
def Firing.rounding (f : Firing) (m : RMode) (e : Nat) : Rounding :=
  { mode := m, rs := rsWord f.x.regs.rseed f.pe e (f.fr.iter.getD 0) f.addr }

/-- A format channel as an instruction finds it (R138, R140): the context's committed image. -/
def Ctx.chan (x : Ctx) (n : Nat) : BitVec 16 := nthD x.fc n 0

/-- A channel's format; a reserved code raises OPERAND (R131). -/
def Ctx.chanFmt (x : Ctx) (n : Nat) : Except Stop ChanFmt :=
  match chanOf (x.chan n) with
  | some c => .ok c
  | none => failWith .operand

/-- Conversion to a 64-bit integer (R141, R150). -/
def convertInt (signed : Bool) (v : Num) (r : Rounding) : Put :=
  let least : Nat := if signed then 2 ^ 63 else 0
  let most : Nat := if signed then 2 ^ 63 - 1 else 2 ^ 64 - 1
  match v with
  | .nan _ => { code := 0, flags := flagNV, sat := false }
  | .inf s => { code := if s then least else most, flags := flagSV, sat := true }
  | .fin s n d =>
    let u := roundUnits r s n d
    if (if s then least else most) < u then { code := if s then least else most, flags := flagSV, sat := true }
    else { code := wrapNat 64 (signedNum s u), flags := flagIf (n % d != 0) flagNX, sat := false }

/-- A floating-point destination with scale 0. -/
def plainFp (f : FpFmt) : ChanFmt := { fmt := .fp f, scale := 0 }

/-- CVT (R150): the source and destination of each kind. -/
def convertKind (k : CvtKind) (ch : ChanFmt) (a : Word) (r : Rounding) : Put :=
  match k with
  | .sToF32 => convert (Num.ofInt a.toInt) (plainFp fp32) r
  | .sToF64 => convert (Num.ofInt a.toInt) (plainFp fp64) r
  | .uToF32 => convert (Num.ofInt a.toNat) (plainFp fp32) r
  | .uToF64 => convert (Num.ofInt a.toNat) (plainFp fp64) r
  | .f32ToS => convertInt true (fpIn fp32 a) r
  | .f64ToS => convertInt true (fpIn fp64 a) r
  | .f32ToU => convertInt false (fpIn fp32 a) r
  | .f64ToU => convertInt false (fpIn fp64 a) r
  | .f32ToF64 => convert (fpIn fp32 a) (plainFp fp64) r
  | .f64ToF32 => convert (fpIn fp64 a) (plainFp fp32) r
  | .f32ToElem => convert (fpIn fp32 a) ch r
  | .elemToF32 => convert (ch.decode (a.toNat % 2 ^ ch.fmt.bits)) (plainFp fp32) r

/-- The overflow token (R147): the number of saturated elements, or a null. -/
def overflowTok (n : Nat) : Tok := if n = 0 then nullTok else scalarTok (wordOf n)

/-- CVT (R147, R150): T0 the value, T1 the overflow token. -/
def cvtBody (k : CvtKind) (w : ConvW) : Body := fun f s => do
  let a ← f.scalar f.a
  let ch ← f.x.chanFmt w.fc.toNat
  let p := convertKind k ch a (f.rounding w.mode 0)
  .ok { st := s.orFlags f.key p.flags, t0 := some (scalarTok (wordOf p.code)), t1 := some (overflowTok (bit p.sat)) }

/-- The image of a channel as a word (R139). -/
def chanImage (c : BitVec 16) : Word := c.zeroExtend 64

/-- The activation already holds a write to a channel (R140). -/
def Frame.writesChan (fr : Frame) (n : Nat) : Bool :=
  fr.held.any fun e => match e with
    | .fcset c _ => c == n
    | .trescale c _ => c == n
    | _ => false

/-- Hold an effect with the activation until its commit. -/
def State.hold (s : State) (key : Nat) (e : Effect) : State := s.modFrame key fun fr => { fr with held := fr.held ++ [e] }

/-- A valid image of R139. -/
def imageValid (w : Word) : Bool := decide (w.toNat / 2 ^ 16 = 0) && decide (bitsAt w.toNat 4 4 = 0) && decide (w.toNat % 16 < 8)

/-- FCSET (R152): the image, checked; held until commit (R140). -/
def fcsetBody (w : FcsetW) : Body := fun f s => do
  if w.fromA && f.a.kind == .tile then failWith .tokenKind
  else
    let img : Word := if w.fromA then f.a.val else wordOf (w.scale.toNat * 2 ^ 8 + w.fmt.toNat)
    if !imageValid img || f.fr.writesChan w.chan.toNat then failWith .operand
    else .ok (Done.scalar (s.hold f.key (.fcset w.chan.toNat img)) img)

/-- FCGET (R153). -/
def fcgetBody (w : FcgetW) : Body := fun f s => .ok (Done.scalar s (chanImage (f.x.chan w.chan.toNat)))

/-- CVT (R150). -/
def execCvt (h : Hdr) (k : CvtKind) (w : ConvW) (s : State) : Host.Outcome State Fault Refusal := fire (.cvt h k w) (cvtBody k w) s
/-- FCSET (R152). -/
def execFcset (h : Hdr) (w : FcsetW) (s : State) : Host.Outcome State Fault Refusal := fire (.fcset h w) (fcsetBody w) s
/-- FCGET (R153). -/
def execFcget (h : Hdr) (w : FcgetW) (s : State) : Host.Outcome State Fault Refusal := fire (.fcget h w) (fcgetBody w) s

end Sys2Proof.Machine
end

