-- ==== Sys2Proof/Machine/Blocks.lean ====
section
/-! DEFINITION. Blocks as branches and tasks name them (R34, R39, R66, R105): the block table of a loaded object, the type of a
block, and the checks of a branch target. -/

namespace Sys2Proof.Machine

/-- The type of a header word (R40): none where its magic is not 0x5B. -/
def h0Type (w : Nat) : Option BlockTy :=
  if w / 2 ^ 24 ≠ 0x5B then none
  else if bitsAt w 22 2 = 0 then some .code else if bitsAt w 22 2 = 1 then some .data
  else if bitsAt w 22 2 = 2 then some .actor else some .loop

/-- The loaded object of a context whose block table holds an address (R34, R431), with its number. -/
def State.objectOf (s : State) (c addr : Nat) : Option (Nat × Obj) :=
  s.kiln.objects.find? fun p => p.2.ctx == c && p.2.committed && decide (p.2.codeVa ≤ addr) && p.2.blocks.contains (addr - p.2.codeVa)

/-- The index of a block in its block table. -/
def Obj.indexOf (o : Obj) (addr : Nat) : Nat := o.blocks.idxOf (addr - o.codeVa)

/-- The block at the next entry of the block table (R91, R92). -/
def Obj.nextBlock (o : Obj) (addr : Nat) : Option Nat := (o.blocks[o.indexOf addr + 1]?).map fun b => o.codeVa + b

/-- The type recorded when the object was loaded. -/
def Obj.typeOf (o : Obj) (addr : Nat) : Option BlockTy :=
  match nthD o.types (o.indexOf addr) 4 with
  | 0 => some .code
  | 1 => some .data
  | 2 => some .actor
  | 3 => some .loop
  | _ => none

/-- A current translation of a block for a context on a die (R425). -/
def State.entryOf (s : State) (die c addr : Nat) : Option TcEntry :=
  s.kiln.entries.find? fun e => e.die == die && e.ctx == c && e.cfg.addr == addr && !e.stale

/-- Bytes of a context's memory as the Kiln reads them, where every page of them is mapped. -/
def State.codeBytes (s : State) (c addr n : Nat) : Option (List Byte) :=
  match s.checkRuns c [] .code (pageRuns addr n) with
  | .ok ks => some (s.readRuns ks)
  | _ => none

/-- The type of a block a branch names: of its translation on the die, else of its header word as it stands, else, where its
page is not mapped now, the type its object was loaded with (R66; which of the three is DESIGN CHOICE, assumption log 12). -/
def State.typeAt (s : State) (die c addr : Nat) : Option BlockTy :=
  match s.objectOf c addr with
  | none => none
  | some (_, o) =>
    match s.entryOf die c addr with
    | some e => some e.cfg.ty
    | none => match s.codeBytes c addr 4 with
      | some b => h0Type (leNat b)
      | none => o.typeOf addr

/-- The actor record an actor block belongs to (R37): that of the greatest first block not above it. -/
def Obj.actorOf (o : Obj) (addr : Nat) : Option Nat :=
  ((o.actors.filter fun a => decide (a.block ≤ addr)).foldl
    (fun m a => match m with
      | some (b : Actor) => if b.block < a.block then some a else some b
      | none => some a) none).map fun a => a.index

/-- `check_block` of R105 for a branch in the block at `from_`, whose type is `ty`: the target is a block of the type allowed,
and an actor block stays in its actor. -/
def State.checkBlock (s : State) (die c from_ tgt : Nat) (ty : BlockTy) : Bool :=
  s.typeAt die c tgt == some ty &&
    (ty != .actor || match s.objectOf c from_, s.objectOf c tgt with
      | some (n, o), some (m, o') => n == m && o.actorOf from_ == o'.actorOf tgt
      | _, _ => false)

/-- The branch target of a branch word (R54): the holding block's address plus 64 times the signed count. -/
def branchTarget (block : Nat) (w : BitVec 32) : Nat := (wordOfInt ((block : Int) + 64 * w.toInt)).toNat

/-- The block after a block in its table. -/
def State.nextBlock (s : State) (c addr : Nat) : Option Nat :=
  match s.objectOf c addr with
  | some (_, o) => o.nextBlock addr
  | none => none

/-- The block holds an irrevocable instruction (R59), or HCALL, whose block is guaranteed to commit once it issues too (R88, R415; DEDUCED, assumption
log 106). -/
def Cfg.hasIrrevocable (c : Cfg) : Bool := c.instrs.any fun p => p.2.guarded

end Sys2Proof.Machine
end

