-- ==== Sys2Proof/Machine/Steering.lean ====
section
/-! DEFINITION. Steering instructions (R81, R99 to R108): one meaning for each. -/

namespace Sys2Proof.Machine

/-- MOV passes its operand on (R99). -/
def movBody : Body := fun f s => .ok (Done.send s f.a)

/-- CONST and CONST.zx (R100). -/
def constBody (v : Word) : Body := fun _ s => .ok (Done.scalar s v)

/-- CONSTH (R100): the immediate above a[31:0], whatever the kind of a. -/
def consthBody (w : BitVec 32) : Body := fun f s => .ok (Done.scalar s (wordOf (w.toNat * 2 ^ 32 + f.a.val.toNat % 2 ^ 32)))

/-- NULL (R101). -/
def nullBody : Body := fun _ s => .ok (Done.send s nullTok)

/-- SEL (R102): a to the target that bit 0 of b picks, a null to the other. -/
def selBody : Body := fun f s =>
  if f.b.val.getLsbD 0 then .ok { st := s, t0 := some nullTok, t1 := some f.a }
  else .ok { st := s, t0 := some f.a, t1 := some nullTok }

/-- GATE (R103): a passes once b, of any kind, is there. -/
def gateBody : Body := fun f s => .ok (Done.send s f.a)

/-- A branch-class instruction takes effect (R105, R107): a second one raises BRANCH_COUNT (R86). -/
def branchBody (target : Firing → State → Except Stop Branch) : Body := fun f s => do
  let b ← target f s
  if f.fr.branch.isSome then failWith .branchCount
  else .ok { st := s.modFrame f.key fun fr => { fr with branch := some b } }

/-- The die of the PE an instruction fires on. -/
def Firing.die (f : Firing) : Nat := dieOfPe f.pe

/-- `check_block` at a firing branch (R105); where the block holds an irrevocable instruction, BR and CALL were checked when
the frame opened (R88). -/
def Firing.check (f : Firing) (s : State) (atOpen : Bool) (tgt : Nat) (ty : BlockTy) : Except Stop Unit :=
  if (atOpen && f.fr.cfg.hasIrrevocable) || s.checkBlock f.die f.fr.ctx f.fr.cfg.addr tgt ty then .ok ()
  else failWith .noncodeBlock

/-- The return stack of the instruction's task (R91), its top first. -/
def Firing.stack (f : Firing) (s : State) : List Nat :=
  match s.task? f.pe f.fr.task with
  | some t => t.stack
  | none => []

/-- BR (R105). -/
def brTarget (w : BitVec 32) (f : Firing) (s : State) : Except Stop Branch := do
  let tgt := branchTarget f.fr.cfg.addr w
  f.check s true tgt f.fr.cfg.ty
  .ok (.goto tgt)

/-- BRI (R105): the address is the operand's value, whatever its kind (R81). -/
def briTarget (f : Firing) (s : State) : Except Stop Branch := do
  f.check s false f.a.val.toNat f.fr.cfg.ty
  .ok (.goto f.a.val.toNat)

/-- The call half of R105: room on the stack, and a code block to return to. -/
def callTo (atOpen : Bool) (tgt : Nat) (f : Firing) (s : State) : Except Stop Branch := do
  f.check s atOpen tgt .code
  let checked := atOpen && f.fr.cfg.hasIrrevocable
  if !checked && (f.stack s).length == 32 then failWith .operand
  else match s.nextBlock f.fr.ctx f.fr.cfg.addr with
    | none => if checked then .ok (.call tgt 0) else failWith .noncodeBlock
    | some r => do
      f.check s atOpen r .code
      .ok (.call tgt r)

/-- RET (R105): an empty stack raises OPERAND. -/
def retTarget (f : Firing) (s : State) : Except Stop Branch :=
  match f.stack s with
  | [] => failWith .operand
  | r :: _ => do
    f.check s false r .code
    .ok (.ret r)

/-- The value of a task's register (R82): g0 is scalar zero. -/
def Task.reg (t : Task) (g : Nat) : Tok := if g = 0 then zeroTok else nthD t.regs g zeroTok

/-- LOOP (R92, R93, R106): step 0 and a Cin at or above the register count raise OPERAND, a wrong body NONCODE_BLOCK; a zero
trip count completes at once with 0 and g[cin]; else the sequencer starts, and the tokens come when the loop completes (R95). -/
def loopBody (w : LoopW) : Body := fun f s =>
  match s.task? f.pe f.fr.task, s.nextBlock f.fr.ctx f.fr.cfg.addr with
  | none, _ => failWith .operand
  | some _, none => failWith .noncodeBlock
  | some t, some body =>
    if !(s.typeAt f.die f.fr.ctx body == some .loop) then failWith .noncodeBlock
    else if w.step == 0 || decide (t.nregs ≤ w.cin.toNat && w.cin != 0) then failWith .operand
    else
      let start := f.a.val.toInt
      let stop := f.b.val.toInt
      let cin := t.reg w.cin.toNat
      let s0 := s.keep f.key fun fr => { fr with looped := true }
      if !loopGoes start stop w.step.toInt then .ok { st := s0, t0 := some zeroTok, t1 := some cin }
      else match s0.addRefs [cin] with
        | none => failWith .refcount
        | some s1 =>
          let l : Loop :=
            { frame := f.key % 256, uid := f.fr.uid, idx := f.idx, body := body, first := start, sent := []
              next := start, stop := stop, step := w.step.toInt, k := w.k.toNat + 1, started := [], committed := 0
              carry := cin, carries := [], brk := none, limit := start, paused := [], fin := false }
          .ok { st := s1.setTask f.pe f.fr.task { t with loop := some l } }

/-- CARRY (R96, R108): its token, of any kind, is the carry of the iteration. -/
def carryBody : Body := fun f s =>
  match s.sendCarry f f.a with
  | none => failWith .refcount
  | some s1 => .ok { st := s1, keep := [f.a] }

/-- ITER (R107). -/
def iterTarget (_f : Firing) (_s : State) : Except Stop Branch := .ok .iter

/-- The break flag of a loop once LBREAK fires in an iteration (R94): the sequencer starts none that it had not started. -/
def Loop.broken (l : Loop) (j : Option Int) : Loop :=
  match l.brk, j with
  | none, some i => { l with brk := some i, limit := l.next }
  | some b, some i => { l with brk := some (if seqBefore l.step i b then i else b) }
  | _, none => l

/-- LBREAK (R94, R107): the sequencer's break flag is set in the cycle it fires. -/
def lbreakBody : Body := fun f s => do
  let d ← branchBody (fun _ _ => .ok .lbreak) f s
  .ok { d with st := d.st.modLoop f.pe f.fr.task fun l => l.broken f.fr.iter }

/-- MOV (R99). -/
def execMov (h : Hdr) (s : State) : Host.Outcome State Fault Refusal := fire (.mov h) movBody s
/-- CONST (R100). -/
def execConst (h : Hdr) (w : BitVec 32) (s : State) : Host.Outcome State Fault Refusal := fire (.const_ h w) (constBody (w.signExtend 64)) s
/-- CONST_ZX (R100). -/
def execConstZx (h : Hdr) (w : BitVec 32) (s : State) : Host.Outcome State Fault Refusal := fire (.constZx h w) (constBody (w.zeroExtend 64)) s
/-- CONSTH (R100). -/
def execConsth (h : Hdr) (w : BitVec 32) (s : State) : Host.Outcome State Fault Refusal := fire (.consth h w) (consthBody w) s
/-- NULL (R101). -/
def execNull (h : Hdr) (s : State) : Host.Outcome State Fault Refusal := fire (.null_ h) nullBody s
/-- SEL (R102). -/
def execSel (h : Hdr) (s : State) : Host.Outcome State Fault Refusal := fire (.sel h) selBody s
/-- GATE (R103). -/
def execGate (h : Hdr) (s : State) : Host.Outcome State Fault Refusal := fire (.gate h) gateBody s
/-- BR (R105). -/
def execBr (h : Hdr) (w : BitVec 32) (s : State) : Host.Outcome State Fault Refusal := fire (.br h w) (branchBody (brTarget w)) s
/-- BRI (R105). -/
def execBri (h : Hdr) (s : State) : Host.Outcome State Fault Refusal := fire (.bri h) (branchBody briTarget) s
/-- CALL (R105). -/
def execCall (h : Hdr) (w : BitVec 32) (s : State) : Host.Outcome State Fault Refusal := fire (.call h w) (branchBody fun f s => callTo true (branchTarget f.fr.cfg.addr w) f s) s
/-- CALLI (R105). -/
def execCalli (h : Hdr) (s : State) : Host.Outcome State Fault Refusal := fire (.calli h) (branchBody fun f s => callTo false f.a.val.toNat f s) s
/-- RET (R105). -/
def execRet (h : Hdr) (s : State) : Host.Outcome State Fault Refusal := fire (.ret h) (branchBody retTarget) s
/-- LOOP (R93, R106). -/
def execLoop (h : Hdr) (w : LoopW) (s : State) : Host.Outcome State Fault Refusal := fire (.loop h w) (loopBody w) s
/-- ITER (R107). -/
def execIter (h : Hdr) (s : State) : Host.Outcome State Fault Refusal := fire (.iter h) (branchBody iterTarget) s
/-- CARRY (R108). -/
def execCarry (h : Hdr) (s : State) : Host.Outcome State Fault Refusal := fire (.carry h) carryBody s
/-- LBREAK (R107). -/
def execLbreak (h : Hdr) (s : State) : Host.Outcome State Fault Refusal := fire (.lbreak h) lbreakBody s

end Sys2Proof.Machine
end

