-- ==== Sys2Proof/Machine/Funcs.lean ====
section
/-! DEFINITION. The unary functions of R168, correctly rounded: each is enclosed between two rationals at a growing precision
until both ends round alike. -/

namespace Sys2Proof.Machine

/-- An interval: both ends over the same power of two, the value strictly between them or at both. -/
structure Enc where
  lo : Nat
  hi : Nat
  deriving DecidableEq, Repr

/-- Terms of the series t, t·x/(1), … : t(i+1) = t(i)·n/(d·(i+step)), in units, rounded down; the sum of `fuel` terms. -/
def expSeries (n d : Nat) : Nat → Nat → Nat → Nat → Nat
  | 0, _, _, acc => acc
  | fuel + 1, i, t, acc => if t = 0 then acc else expSeries n d fuel (i + 1) (t * n / (d * i)) (acc + t)

/-- e^(n/d) for n/d at most 2^11, in units of 2^−k: the rounded-down series, and that plus its error bound. -/
def encExp (k n d : Nat) : Enc :=
  let fuel := 4 * (n / d) + 2 * k + 64
  let s := expSeries n d fuel 1 (2 ^ k) 0
  { lo := s, hi := s + (fuel + 2) * (s / 2 ^ k + 1) }

/-- e^(n/d) − 1 for n/d at most 1, in units of 2^−k. -/
def encExpm1 (k n d : Nat) : Enc :=
  let fuel := 2 * k + 64
  let s := expSeries n d fuel 2 (2 ^ k * n / d) 0
  { lo := s, hi := s + 4 * fuel }

/-- The reciprocal of an interval in units of 2^−k. -/
def encInv (k : Nat) (e : Enc) : Enc := { lo := 4 ^ k / e.hi, hi := 4 ^ k / e.lo + 1 }

/-- The product of intervals in units of 2^−k. -/
def encMul (k : Nat) (a b : Enc) : Enc := { lo := a.lo * b.lo / 2 ^ k, hi := a.hi * b.hi / 2 ^ k + 1 }

/-- The quotient of intervals in units of 2^−k. -/
def encDiv (k : Nat) (a b : Enc) : Enc := { lo := a.lo * 2 ^ k / b.hi, hi := a.hi * 2 ^ k / b.lo + 1 }

/-- Terms z, z³/3, z⁵/5, … of atanh z = z^1/1 + z^3/3 + …, in units; `t` holds z^(2i+1). -/
def atanhSeries (n d : Nat) : Nat → Nat → Nat → Nat → Nat
  | 0, _, _, acc => acc
  | fuel + 1, i, t, acc => if t = 0 then acc else atanhSeries n d fuel (i + 2) (t * n * n / (d * d)) (acc + t / i)

/-- 2·atanh(n/d) for n/d at most 1/3, in units of 2^−k. -/
def encAtanh2 (k n d : Nat) : Enc :=
  let fuel := k + 16
  let s := 2 * atanhSeries n d fuel 1 (2 ^ k * n / d) 0
  { lo := s, hi := s + 6 * fuel }

/-- ln 2 = 2·atanh(1/3). -/
def encLn2 (k : Nat) : Enc := encAtanh2 k 1 3

/-- The sum x + x³/3 + x⁵/15 + … (x^(2i+1) over 1·3·…·(2i+1)) for x = n/d, in units of 2^−k. -/
def oddSeries (n d : Nat) : Nat → Nat → Nat → Nat → Nat
  | 0, _, _, acc => acc
  | fuel + 1, i, t, acc => if t = 0 then acc else oddSeries n d fuel (i + 2) (t * n * n / (d * d * (i + 2))) (acc + t)

/-- π by Machin's formula 16·atan(1/5) − 4·atan(1/239): the alternating series of atan(1/q), in units; `t` holds the power. -/
def atanSeries (q : Nat) : Nat → Nat → Nat → Bool → Int → Int
  | 0, _, _, _, acc => acc
  | fuel + 1, i, t, neg, acc =>
    if t = 0 then acc else atanSeries q fuel (i + 2) (t / (q * q)) (!neg) (if neg then acc - (t / i : Nat) else acc + (t / i : Nat))

/-- π in units of 2^−k. -/
def encPi (k : Nat) : Enc :=
  let v := (16 * atanSeries 5 (k + 16) 1 (2 ^ k / 5) false 0 - 4 * atanSeries 239 (k + 16) 1 (2 ^ k / 239) false 0).toNat
  { lo := v - 64 * (k + 16), hi := v + 64 * (k + 16) }

/-- √(2/π) in units of 2^−k. -/
def encSqrt2OverPi (k : Nat) : Enc :=
  let p := encPi k
  { lo := isqrt (2 * 2 ^ k * 4 ^ k / p.hi), hi := isqrt (2 * 2 ^ k * 4 ^ k / p.lo) + 1 }

/-- erf(x/√2) for x = n/d at least 0, in units of 2^−k: √(2/π)·e^(−x²/2)·(x + x³/3 + x⁵/15 + …). -/
def encErf (k n d : Nat) : Enc :=
  let fuel := 4 * (n * n / (d * d)) + 2 * k + 64
  let s := oddSeries n d fuel 1 (2 ^ k * n / d) 0
  let odd : Enc := { lo := s, hi := s + (fuel + 2) * (s / 2 ^ k + 2) * (n / d + 2) }
  let g := encInv k (encExp k (n * n) (2 * d * d))
  encMul k (encMul k (encSqrt2OverPi k) g) odd

/-- A number and one strictly beside it stand for a value between them: `up` says the value lies above in magnitude. -/
def beside (neg : Bool) (n d : Nat) (up : Bool) : Num × Num :=
  let v := Num.fin neg (if up then n * 2 ^ 600 + 1 else n * 2 ^ 600 - 1) (d * 2 ^ 600)
  (v, v)

/-- Both ends of a positive interval in units of 2^−k as numbers of a sign. -/
def Enc.nums (neg : Bool) (k : Nat) (e : Enc) : Num × Num := (.fin neg e.lo (2 ^ k), .fin neg e.hi (2 ^ k))

/-- e^x between two numbers (R168), x = ±n/d not zero; far from zero, numbers beyond every format's range stand for it. -/
def realExp (neg : Bool) (n d k : Nat) : Num × Num :=
  if n * 2 ^ 100 < d then beside false 1 1 (!neg)
  else if 512 * d < n then (let v := Num.fin false (if neg then 1 else 2 ^ 700) (if neg then 2 ^ 700 else 1); (v, v))
  else
    let e := encExp (k + 800) n d
    (if neg then encInv (k + 800) e else e).nums false (k + 800)

/-- ln x between two numbers (R168), x = n/d above 0 and not 1. -/
def realLog (n d k : Nat) : Num × Num :=
  let l := log2Floor n d
  -- n/d = m · 2^l with m in [1, 2); with m above 4/3 the next power is nearer
  let p := scaled2 n d (-l)
  let up := decide (4 * p.2 < 3 * p.1)
  let q := if up then (p.1, 2 * p.2) else p
  let l' : Int := if up then l + 1 else l
  let below := decide (q.1 < q.2)
  let z : Nat := if below then q.2 - q.1 else q.1 - q.2
  let a := encAtanh2 (k + 64) z (q.1 + q.2)
  let c := encLn2 (k + 64)
  let m := l'.natAbs
  let clo : Int := if 0 ≤ l' then (m * c.lo : Nat) else -((m * c.hi : Nat) : Int)
  let chi : Int := if 0 ≤ l' then (m * c.hi : Nat) else -((m * c.lo : Nat) : Int)
  let alo : Int := if below then -(a.hi : Int) else a.lo
  let ahi : Int := if below then -(a.lo : Int) else a.hi
  let f : Int → Num := fun i => .fin (decide (i < 0)) i.natAbs (2 ^ (k + 64))
  (f (clo + alo), f (chi + ahi))

/-- tanh x between two numbers (R168), x = ±n/d not zero. -/
def realTanh (neg : Bool) (n d k : Nat) : Num × Num :=
  if n * 2 ^ 100 < d then beside neg n d false
  else if 300 * d < n then beside neg 1 1 false
  else if n ≤ d / 2 then
    let e := encExpm1 (k + 256) (2 * n) d
    (encDiv (k + 256) e { lo := e.lo + 2 * 2 ^ (k + 256), hi := e.hi + 2 * 2 ^ (k + 256) }).nums neg (k + 256)
  else
    let e := encExp (k + 900) (2 * n) d
    let u := 2 ^ (k + 900)
    (encDiv (k + 900) { lo := e.lo - u, hi := e.hi - u } { lo := e.lo + u, hi := e.hi + u }).nums neg (k + 900)

/-- 1/(1 + e^−x) between two numbers (R168), x = ±n/d not zero. -/
def realSigm (neg : Bool) (n d k : Nat) : Num × Num :=
  if n * 2 ^ 100 < d then beside false 1 2 (!neg)
  else if 512 * d < n then (if neg then (let v := Num.fin false 1 (2 ^ 700); (v, v)) else beside false 1 1 false)
  else
    let e := encExp (k + 900) n d
    let u := 2 ^ (k + 900)
    let s : Enc := { lo := e.lo + u, hi := e.hi + u }
    (if neg then encInv (k + 900) s else encDiv (k + 900) e s).nums false (k + 900)

/-- x·(1 + erf(x/√2))/2 between two numbers (R168), x = ±n/d not zero. -/
def realGelu (neg : Bool) (n d k : Nat) : Num × Num :=
  if n * 2 ^ 100 < d then beside neg n (2 * d) (!neg)
  else if 40 * d < n then (if neg then (let v := Num.fin true 1 (2 ^ 700); (v, v)) else beside false n d false)
  else
    let kk := k + 1400
    let e := encErf kk n d
    let u := 2 ^ kk
    let h : Enc := if neg then { lo := u - e.hi, hi := u - e.lo } else { lo := u + e.lo, hi := u + e.hi }
    (.fin neg (h.lo * n) (2 * u * d), .fin neg (h.hi * n) (2 * u * d))

/-- A real given by enclosures, rounded by `g`: the first precision at which both ends give one result. -/
def roundReal (g : NumF → Put) (f : Nat → Num × Num) : Nat → Nat → Put
  | 0, k => g ((f k).1, 0)
  | fuel + 1, k =>
    let e := f k
    let a := g (e.1, 0)
    if a = g (e.2, 0) then a else roundReal g f fuel (2 * k)

/-- The unary functions of R168. -/
inductive UnFn where
  | neg | abs | exp | log | rsqrt | recip | tanh | sigm | gelu
  deriving DecidableEq, Repr

/-- A unary function of a value (R167, R168), rounded by `g`. -/
def unaryBy (g : NumF → Put) (fn : UnFn) (v : Num) : Put :=
  match v with
  | .nan sig => g (.nan false, flagIf sig flagNV)
  | .inf s =>
    match fn with
    | .neg => g (.inf (!s), 0)
    | .abs => g (.inf false, 0)
    | .exp => g (if s then .zero else .inf false, 0)
    | .log => if s then g (.nan false, flagNV) else g (.inf false, 0)
    | .rsqrt => if s then g (.nan false, flagNV) else g (.zero, 0)
    | .recip => g (.fin s 0 1, 0)
    | .tanh => g (.fin s 1 1, 0)
    | .sigm => g (if s then .zero else .fin false 1 1, 0)
    | .gelu => g (if s then .fin true 0 1 else .inf false, 0)
  | .fin s n d =>
    match fn with
    | .neg => g (.fin (!s) n d, 0)
    | .abs => g (.fin false n d, 0)
    | .exp => if n = 0 then g (.fin false 1 1, 0) else roundReal g (realExp s n d) 6 64
    | .log =>
      if n = 0 then g (.inf true, flagDZ)
      else if s then g (.nan false, flagNV)
      else if n = d then g (.zero, 0)
      else roundReal g (realLog n d) 6 64
    | .rsqrt =>
      if n = 0 then g (.inf s, flagDZ)
      else if s then g (.nan false, flagNV)
      else g (.fin false (sqrtNear d n).1 (sqrtNear d n).2, 0)
    | .recip => if n = 0 then g (.inf s, flagDZ) else g (.fin s d n, 0)
    | .tanh => if n = 0 then g (.fin s 0 1, 0) else roundReal g (realTanh s n d) 6 64
    | .sigm => if n = 0 then g (.fin false 1 2, 0) else roundReal g (realSigm s n d) 6 64
    | .gelu => if n = 0 then g (.fin s 0 1, 0) else roundReal g (realGelu s n d) 6 64

/-- A unary function of an element, put into its channel (R166, R168). -/
def unaryPut (fn : UnFn) (v : Num) (ch : ChanFmt) : Put := unaryBy (fun r => putF r ch) fn v

end Sys2Proof.Machine
end

