-- ==== Sys2Proof/Machine/Tile.lean ====
section
/-! DEFINITION. Tile element instructions (R156 to R185), TCVT and TAMAX (R151, R154) and TRESCALE (R155). -/

namespace Sys2Proof.Machine

/-! ### Operands and results -/

/-- A checked tile operand (R159): its handle, its slot and its channel. -/
structure TileIn where
  h : Word
  slot : TileSlot
  ch : ChanFmt
  deriving DecidableEq, Repr

/-- Valid rows − 1. -/
def TileIn.rows (t : TileIn) : Nat := hRows t.h
/-- Valid columns − 1. -/
def TileIn.cols (t : TileIn) : Nat := hCols t.h
/-- The code of element i (R158). -/
def TileIn.code (t : TileIn) (i : Nat) : Nat := nthD t.slot.codes i 0
/-- The value of element i (R138). -/
def TileIn.val (t : TileIn) (i : Nat) : Num := t.ch.decode (t.code i)

/-- Element i lies in a valid region given by rows − 1 and columns − 1 (R158). -/
def inRegion (rows cols i : Nat) : Bool := decide (i / 16 ≤ rows) && decide (i % 16 ≤ cols)

/-- A check of R159 fails: the instruction releases the references its operands hold. -/
def failTile {α : Type} (c : Code) : Except Stop α := .error (.fault { code := c, frees := true })

/-- The checks of a handle operand (R159), in their order. -/
def Firing.tile (f : Firing) (s : State) (t : Tok) : Except Stop TileIn :=
  if t.kind ≠ .tile then failTile .tokenKind
  else
    let slot := s.tileSlot (hPe t.val) (hSlot t.val)
    if hPe t.val ≠ f.pe ∨ slot.count = 0 ∨ slot.owner ≠ f.x.slot ∨ slot.gen ≠ hGen t.val then failTile .handle
    else match chanOf (f.x.chan (hFc t.val)) with
      | none => failTile .operand
      | some ch => if ch.fmt.width ≠ slot.width then failTile .operand else .ok { h := t.val, slot := slot, ch := ch }

/-- A scalar operand of a tile instruction: a handle raises TOKEN_KIND (R159). -/
def tileScalar (t : Tok) : Except Stop Nat := if t.kind = .tile then failWith .tokenKind else .ok t.val.toNat

/-- Another instruction of the PE that can go on has waited longer for the same thing (R170). -/
def State.olderWaits (s : State) (f : Firing) (r : Short) : Bool :=
  s.pe.frames.any fun p => p.1 / 256 == f.pe && p.2.live && s.issuing p.2.ctx && p.2.stat.any fun q =>
    q.2 == .waiting r && decide (p.2.since.getD q.1 0 < f.fr.since.getD f.idx 0)

/-- There is room for a result of a width code, or the instruction consumes the last reference to a source of that width (R170). -/
def Firing.room (f : Firing) (s : State) (w : Nat) (used : List Tok) : Bool :=
  (s.tileRoom f.pe w && !s.olderWaits f .tiles) ||
    used.any fun t => t.kind == .tile && (match s.tileOf t.val with
      | some sl => sl.width == w && sl.count == (used.filter fun u => u.kind == .tile && u.val == t.val).length
      | none => false)

/-- A code decodes to an infinity, a NaN or NaR (R164). -/
def nonfiniteCode (f : Fmt) (c : Nat) : Bool := (f.decode c).isNan || (f.decode c).isInf

/-- A valid element of a tile is not finite (R164). -/
def regionNonfinite (f : Fmt) (rows cols : Nat) (codes : List Nat) : Bool :=
  (List.range 256).any fun i => inRegion rows cols i && nonfiniteCode f (nthD codes i 0)

/-- Elements of a valid region with the flags they set; the zero code elsewhere (R164). -/
def build (rows cols : Nat) (g : Nat → Nat × Flags) : List Nat × Flags :=
  let l := (List.range 256).map fun i => if inRegion rows cols i then g i else (0, 0)
  (l.map Prod.fst, l.foldl (fun fl p => fl ||| p.2) 0)

/-- What a new tile holds: its channel, shape, width code, nonfinite bit, codes and flags. -/
structure NewTile where
  fc : Nat
  rows : Nat
  cols : Nat
  width : Nat
  nf : Bool
  codes : List Nat
  flags : Flags
  deriving DecidableEq, Repr

/-- A new tile of computed elements, its nonfinite bit found under its channel's format (R164). -/
def NewTile.of (fc : Nat) (ch : ChanFmt) (rows cols : Nat) (g : Nat → Nat × Flags) : NewTile :=
  let b := build rows cols g
  { fc := fc, rows := rows, cols := cols, width := ch.fmt.width, nf := regionNonfinite ch.fmt rows cols b.1, codes := b.1, flags := b.2 }

/-- Allocate and send a new tile (R161, R170): the consumed references go first, and a result that finds no room waits. -/
def Firing.sendTile (f : Firing) (s : State) (used : List Tok) (n : NewTile) : Except Stop Done :=
  if !f.room s n.width used then .error (.wait .tiles)
  else
    let s1 := s.dropToks f.pe used
    let slot := s1.pickSlot f.pe
    let h := handleOf f.pe slot n.fc n.rows n.cols (s1.tileSlot f.pe slot).gen
    let s2 := s1.drawn.fillSlot f.pe slot f.x.slot f.fan n.width n.nf n.codes
    .ok { Done.send (s2.orFlags f.key n.flags) { kind := .tile, val := h } with fresh := true, keep := used }

/-! ### Elementwise -/

/-- Equal shapes (R165). -/
def sameShape (a b : TileIn) : Bool := a.rows == b.rows && a.cols == b.cols

/-- Two tiles, elementwise through `put` into a's channel (R165, R166). -/
def tileBin (g : Num → Num → NumF) : Body := fun f s => do
  let a ← f.tile s f.a
  let b ← f.tile s f.b
  if !sameShape a b then failWith .operand
  else f.sendTile s [f.a, f.b] (NewTile.of (hFc a.h) a.ch a.rows a.cols fun i =>
    let p := putF (g (a.val i) (b.val i)) a.ch
    (p.code, p.flags))

/-- maximumNumber and minimumNumber of values (R129, R167). -/
def pickNum (wantMax : Bool) (x y : Num) : NumF :=
  (match Num.pick wantMax x y with
    | none => .nan false
    | some true => x
    | some false => y, sigNV [x, y])

/-- TAND, TOR, TXOR (R172): bit for bit on codes of equal width. -/
def tileBits (g : Nat → Nat → Nat) : Body := fun f s => do
  let a ← f.tile s f.a
  let b ← f.tile s f.b
  if !sameShape a b || a.ch.fmt.width != b.ch.fmt.width then failWith .operand
  else f.sendTile s [f.a, f.b] (NewTile.of (hFc a.h) a.ch a.rows a.cols fun i => (g (a.code i) (b.code i), 0))

/-- One tile, elementwise (R173). -/
def tileUn (fn : UnFn) : Body := fun f s => do
  let a ← f.tile s f.a
  f.sendTile s [f.a] (NewTile.of (hFc a.h) a.ch a.rows a.cols fun i =>
    let p := unaryPut fn (a.val i) a.ch
    (p.code, p.flags))

/-- TFMA (R174). -/
def tfmaBody : Body := fun f s => do
  let a ← f.tile s f.a
  let b ← f.tile s f.b
  let c ← f.tile s f.c
  if !sameShape a b || !sameShape a c then failWith .operand
  else f.sendTile s [f.a, f.b, f.c] (NewTile.of (hFc a.h) a.ch a.rows a.cols fun i =>
    let p := putF ((a.val i).fma (b.val i) (c.val i)) a.ch
    (p.code, p.flags))

/-! ### Broadcasts -/

/-- TSPLAT (R175): an FP64 scalar through the channel its descriptor names. -/
def tsplatBody : Body := fun f s => do
  let a ← tileScalar f.a
  let b ← tileScalar f.b
  if b / 2 ^ 13 ≠ 0 then failWith .operand
  else
    let fc := bitsAt b 8 5
    let ch ← f.x.chanFmt fc
    let v := fp64.decode a
    let p := putF (v, flagIf v.isSig flagNV) ch
    f.sendTile s [] (NewTile.of fc ch (bitsAt b 4 4) (bitsAt b 0 4) fun _ => (p.code, p.flags))

/-- TROWB and TCOLB (R175): the codes of row 0 or column 0 repeated. -/
def tileRepeat (byRow : Bool) : Body := fun f s => do
  let b ← tileScalar f.b
  let a ← f.tile s f.a
  if (if byRow then a.rows else a.cols) ≠ 0 ∨ b = 0 ∨ 16 < b then failWith .operand
  else f.sendTile s [f.a] (NewTile.of (hFc a.h) a.ch (if byRow then b - 1 else a.rows) (if byRow then a.cols else b - 1) fun i =>
    (a.code (if byRow then i % 16 else i / 16 * 16), 0))

/-! ### Reductions (R169, R176) -/

/-- One level of tree16: positions w apart are combined, and an absent one gives way. -/
def treeLevel (comb : Num → Num → NumF) (w : Nat) (l : List (Option Num) × Flags) : List (Option Num) × Flags :=
  (List.range 16).foldl (fun (acc : List (Option Num) × Flags) j =>
    if j % (2 * w) ≠ 0 then acc
    else match nthD acc.1 j none, nthD acc.1 (j + w) none with
      | some x, some y => let r := comb x y
        (setAt j (some r.1) acc.1, acc.2 ||| r.2)
      | none, some y => (setAt j (some y) acc.1, acc.2)
      | _, none => acc) l

/-- tree16 of 16 leaves, absent ones none, with the flags of its nodes (R169). -/
def tree16 (comb : Num → Num → NumF) (l : List (Option Num)) : Num × Flags :=
  let r := treeLevel comb 8 (treeLevel comb 4 (treeLevel comb 2 (treeLevel comb 1 (l, 0))))
  ((nthD r.1 0 none).getD .zero, r.2)

/-- round32 (R169): an exact value rounded to FP32 with the flags of R126. -/
def round32 (v : NumF) : NumF :=
  let r := fp32.result v
  (fp32.decode r.1, r.2)

/-- The sum's leaf and combiner of a format (R169). -/
def sumLeaf (f : Fmt) (v : Num) : NumF :=
  match f with
  | .int _ => (v, 0)
  | _ => round32 (v, flagIf v.isSig flagNV)

/-- The sum of two nodes. -/
def sumComb (f : Fmt) (x y : Num) : NumF :=
  match f with
  | .int _ => x.add y
  | _ => round32 (x.add y)

/-- The leaves of a row or column of a tile, and their flags. -/
def TileIn.leaves (a : TileIn) (leaf : Num → NumF) (pos : Nat → Nat) : List (Option Num) × Flags :=
  let l := (List.range 16).map fun j => if inRegion a.rows a.cols (pos j) then some (leaf (a.val (pos j))) else none
  (l.map fun o => o.map Prod.fst, l.foldl (fun fl o => match o with | some p => fl ||| p.2 | none => fl) 0)

/-- One tree over a row or column. -/
def TileIn.reduce (a : TileIn) (leaf : Num → NumF) (comb : Num → Num → NumF) (pos : Nat → Nat) : NumF :=
  let l := a.leaves leaf pos
  let r := tree16 comb l.1
  (r.1, l.2 ||| r.2)

/-- TRSUM, TCSUM, TRMAX, TCMAX (R176). -/
def tileReduce (isMax byRow : Bool) : Body := fun f s => do
  let a ← f.tile s f.a
  let leaf : Num → NumF := if isMax then fun v => (v, 0) else sumLeaf a.ch.fmt
  let comb : Num → Num → NumF := if isMax then pickNum true else sumComb a.ch.fmt
  f.sendTile s [f.a] (NewTile.of (hFc a.h) a.ch (if byRow then a.rows else 0) (if byRow then 0 else a.cols) fun i =>
    let p := putF (a.reduce leaf comb (fun j => if byRow then i / 16 * 16 + j else j * 16 + i % 16)) a.ch
    (p.code, p.flags))

/-- TSUM (R176): the row results enter the outer tree as node values. -/
def tsumBody : Body := fun f s => do
  let a ← f.tile s f.a
  let rows := (List.range 16).map fun r =>
    if r ≤ a.rows then some (a.reduce (sumLeaf a.ch.fmt) (sumComb a.ch.fmt) (fun j => r * 16 + j)) else none
  let inner := rows.foldl (fun fl o => match o with | some p => fl ||| p.2 | none => fl) (0 : Flags)
  let outer := tree16 (sumComb a.ch.fmt) (rows.map fun o => o.map Prod.fst)
  let p := putF (outer.1, inner ||| outer.2) a.ch
  f.sendTile s [f.a] (NewTile.of (hFc a.h) a.ch 0 0 fun _ => (p.code, p.flags))

/-! ### Moves, compares and single elements -/

/-- TTRANS (R177). -/
def ttransBody : Body := fun f s => do
  let a ← f.tile s f.a
  f.sendTile s [f.a] (NewTile.of (hFc a.h) a.ch a.cols a.rows fun i => (a.code (i % 16 * 16 + i / 16), 0))

/-- TMASK (R178): the new region keeps the codes stored at its positions. -/
def tmaskBody : Body := fun f s => do
  let b ← tileScalar f.b
  let a ← f.tile s f.a
  if b / 2 ^ 8 ≠ 0 then failWith .operand
  else f.sendTile s [f.a] (NewTile.of (hFc a.h) a.ch (bitsAt b 4 4) (bitsAt b 0 4) fun i => (a.code i, 0))

/-- The relation of TCMP on exact values (R179), with NV. -/
def tileRel (c : TCond) (x y : Num) : Bool × Flags :=
  let nan := x.isNan || y.isNan
  let r := match c with
    | .eq => !nan && x.eq y
    | .ne => nan || !x.eq y
    | .lt => !nan && x.lt y
    | .ge => !nan && !x.lt y
    | .le => !nan && !y.lt x
    | .gt => !nan && y.lt x
    | .un => nan
  let nv := match c with
    | .eq | .ne | .un => x.isSig || y.isSig
    | _ => nan
  (r, flagIf nv flagNV)

/-- TCMP (R179): codes 1 and 0 in a's channel, the nonfinite bit clear. -/
def tcmpBody (c : TCond) : Body := fun f s => do
  let a ← f.tile s f.a
  let b ← f.tile s f.b
  if !sameShape a b then failWith .operand
  else
    let n := NewTile.of (hFc a.h) a.ch a.rows a.cols fun i => let r := tileRel c (a.val i) (b.val i)
      (bit r.1, r.2)
    f.sendTile s [f.a, f.b] { n with nf := false }

/-- TSEL (R180). -/
def tselBody : Body := fun f s => do
  let a ← f.tile s f.a
  let b ← f.tile s f.b
  if !sameShape a b then failWith .operand
  else f.sendTile s [f.a, f.b] (NewTile.of (hFc a.h) a.ch a.rows a.cols fun i => (if b.code i % 2 = 1 then a.code i else 0, 0))

/-- TELGET (R181). -/
def telgetBody : Body := fun f s => do
  let b ← tileScalar f.b
  let a ← f.tile s f.a
  if b / 2 ^ 8 ≠ 0 ∨ !inRegion a.rows a.cols b then failWith .operand
  else .ok (Done.scalar s (wordOf (a.code b)))

/-- TELSET (R182). -/
def telsetBody : Body := fun f s => do
  let b ← tileScalar f.b
  let a ← f.tile s f.a
  let i := bitsAt b 32 8
  let v := bitsAt b 0 32
  if b / 2 ^ 40 ≠ 0 ∨ v / 2 ^ a.ch.fmt.bits ≠ 0 ∨ !inRegion a.rows a.cols i then failWith .operand
  else f.sendTile s [f.a] (NewTile.of (hFc a.h) a.ch a.rows a.cols fun j => (if j = i then v else a.code j, 0))

/-- TNEW (R183): zero codes in all positions, the nonfinite bit clear. -/
def tnewBody (w : TnewW) : Body := fun f s => do
  let ch ← f.x.chanFmt w.fc.toNat
  f.sendTile s [] { NewTile.of w.fc.toNat ch w.rows.toNat w.cols.toNat (fun _ => (0, 0)) with nf := false }

/-- TREL (R184): the operand's reference is released, and nulls follow. -/
def trelBody : Body := fun f s => do
  let _ ← f.tile s f.a
  .ok (Done.send s nullTok)

/-- TCOPY (R185): the same codes in all positions and the same nonfinite bit. -/
def tcopyBody : Body := fun f s => do
  let a ← f.tile s f.a
  f.sendTile s [f.a]
    { fc := hFc a.h, rows := a.rows, cols := a.cols, width := a.slot.width, nf := a.slot.nonfinite, codes := a.slot.codes, flags := 0 }

/-! ### Conversions of tiles (R151, R154, R155) -/

/-- TCVT (R147, R151): each valid element converted into channel FC, T1 the overflow token. -/
def tcvtBody (w : ConvW) : Body := fun f s => do
  let a ← f.tile s f.a
  let d ← f.x.chanFmt w.fc.toNat
  let p := fun i => convert (a.val i) d (f.rounding w.mode i)
  let n := ((List.range 256).filter fun i => inRegion a.rows a.cols i && (p i).sat).length
  let r ← f.sendTile s [f.a] (NewTile.of w.fc.toNat d a.rows a.cols fun i => ((p i).code, (p i).flags))
  -- the one tile token goes to T0, the overflow token to T1
  if f.h.t1 = .none then .ok { r with t1 := none }
  else
    let s1 := match r.t0 with
      | some t => r.st.dropTok f.pe t
      | none => r.st
    .ok { r with st := s1, t1 := some (overflowTok n) }

/-- TAMAX (R154): the greatest magnitude as FP32; it sets no flag. -/
def tamaxBody : Body := fun f s => do
  let a ← f.tile s f.a
  let vs := ((List.range 256).filter fun i => inRegion a.rows a.cols i).map fun i => (a.val i).magnitude
  let c : Nat :=
    if vs.any Num.isNan then 0x7FC00000
    else if vs.any Num.isInf then 0x7F800000
    else (fp32.result (vs.foldl (fun m v => if m.lt v then v else m) .zero, 0)).1
  .ok (Done.scalar s (wordOf c))

/-- A scale with a delta added and clamped (R155), and whether it was clamped. -/
def addScale (old delta : Int) : Int × Bool :=
  let n := old + delta
  if 127 < n then (127, true) else if n < -128 then (-128, true) else (n, false)

/-- A channel image with another scale. -/
def rescaled (img : BitVec 16) (delta : Int) : BitVec 16 × Bool :=
  let r := addScale (signedOf 8 (bitsAt img.toNat 8 8)) delta
  (BitVec.ofNat 16 (wrapNat 8 r.1 * 256 + bitsAt img.toNat 0 4), r.2)

/-- TRESCALE (R155): the new image is sent now, the delta applied at commit (R140). -/
def trescaleBody : Body := fun f s => do
  let a ← tileScalar f.a
  let b ← tileScalar f.b
  if a / 2 ^ 5 ≠ 0 ∨ f.fr.writesChan a then failWith .operand
  else
    let r := rescaled (f.x.chan a) (signedOf 64 b)
    .ok (Done.scalar ((s.hold f.key (.trescale a (signedOf 64 b))).orFlags f.key (flagIf r.2 flagSV)) (chanImage r.1))

/-- TADD (R172). -/
def execTadd (h : Hdr) (s : State) : Host.Outcome State Fault Refusal := fire (.tadd h) (tileBin Num.add) s
/-- TSUB (R172). -/
def execTsub (h : Hdr) (s : State) : Host.Outcome State Fault Refusal := fire (.tsub h) (tileBin Num.sub) s
/-- TMUL (R172). -/
def execTmul (h : Hdr) (s : State) : Host.Outcome State Fault Refusal := fire (.tmul h) (tileBin Num.mul) s
/-- TMAX (R172). -/
def execTmax (h : Hdr) (s : State) : Host.Outcome State Fault Refusal := fire (.tmax h) (tileBin (pickNum true)) s
/-- TMIN (R172). -/
def execTmin (h : Hdr) (s : State) : Host.Outcome State Fault Refusal := fire (.tmin h) (tileBin (pickNum false)) s
/-- TDIV (R172). -/
def execTdiv (h : Hdr) (s : State) : Host.Outcome State Fault Refusal := fire (.tdiv h) (tileBin Num.div) s
/-- TAND (R172). -/
def execTand (h : Hdr) (s : State) : Host.Outcome State Fault Refusal := fire (.tand h) (tileBits (· &&& ·)) s
/-- TOR (R172). -/
def execTor (h : Hdr) (s : State) : Host.Outcome State Fault Refusal := fire (.tor h) (tileBits (· ||| ·)) s
/-- TXOR (R172). -/
def execTxor (h : Hdr) (s : State) : Host.Outcome State Fault Refusal := fire (.txor h) (tileBits (· ^^^ ·)) s
/-- TNEG (R168, R173). -/
def execTneg (h : Hdr) (s : State) : Host.Outcome State Fault Refusal := fire (.tneg h) (tileUn .neg) s
/-- TABS (R168, R173). -/
def execTabs (h : Hdr) (s : State) : Host.Outcome State Fault Refusal := fire (.tabs h) (tileUn .abs) s
/-- TEXP (R168, R173). -/
def execTexp (h : Hdr) (s : State) : Host.Outcome State Fault Refusal := fire (.texp h) (tileUn .exp) s
/-- TLOG (R168, R173). -/
def execTlog (h : Hdr) (s : State) : Host.Outcome State Fault Refusal := fire (.tlog h) (tileUn .log) s
/-- TRSQRT (R168, R173). -/
def execTrsqrt (h : Hdr) (s : State) : Host.Outcome State Fault Refusal := fire (.trsqrt h) (tileUn .rsqrt) s
/-- TRECIP (R168, R173). -/
def execTrecip (h : Hdr) (s : State) : Host.Outcome State Fault Refusal := fire (.trecip h) (tileUn .recip) s
/-- TTANH (R168, R173). -/
def execTtanh (h : Hdr) (s : State) : Host.Outcome State Fault Refusal := fire (.ttanh h) (tileUn .tanh) s
/-- TSIGM (R168, R173). -/
def execTsigm (h : Hdr) (s : State) : Host.Outcome State Fault Refusal := fire (.tsigm h) (tileUn .sigm) s
/-- TGELU (R168, R173). -/
def execTgelu (h : Hdr) (s : State) : Host.Outcome State Fault Refusal := fire (.tgelu h) (tileUn .gelu) s
/-- TFMA (R174). -/
def execTfma (h : Hdr) (s : State) : Host.Outcome State Fault Refusal := fire (.tfma h) tfmaBody s
/-- TSPLAT (R175). -/
def execTsplat (h : Hdr) (s : State) : Host.Outcome State Fault Refusal := fire (.tsplat h) tsplatBody s
/-- TROWB (R175). -/
def execTrowb (h : Hdr) (s : State) : Host.Outcome State Fault Refusal := fire (.trowb h) (tileRepeat true) s
/-- TCOLB (R175). -/
def execTcolb (h : Hdr) (s : State) : Host.Outcome State Fault Refusal := fire (.tcolb h) (tileRepeat false) s
/-- TRSUM (R176). -/
def execTrsum (h : Hdr) (s : State) : Host.Outcome State Fault Refusal := fire (.trsum h) (tileReduce false true) s
/-- TCSUM (R176). -/
def execTcsum (h : Hdr) (s : State) : Host.Outcome State Fault Refusal := fire (.tcsum h) (tileReduce false false) s
/-- TRMAX (R176). -/
def execTrmax (h : Hdr) (s : State) : Host.Outcome State Fault Refusal := fire (.trmax h) (tileReduce true true) s
/-- TCMAX (R176). -/
def execTcmax (h : Hdr) (s : State) : Host.Outcome State Fault Refusal := fire (.tcmax h) (tileReduce true false) s
/-- TSUM (R176). -/
def execTsum (h : Hdr) (s : State) : Host.Outcome State Fault Refusal := fire (.tsum h) tsumBody s
/-- TTRANS (R177). -/
def execTtrans (h : Hdr) (s : State) : Host.Outcome State Fault Refusal := fire (.ttrans h) ttransBody s
/-- TMASK (R178). -/
def execTmask (h : Hdr) (s : State) : Host.Outcome State Fault Refusal := fire (.tmask h) tmaskBody s
/-- TCMP (R179). -/
def execTcmp (h : Hdr) (cc : TCond) (s : State) : Host.Outcome State Fault Refusal := fire (.tcmp h cc) (tcmpBody cc) s
/-- TSEL (R180). -/
def execTsel (h : Hdr) (s : State) : Host.Outcome State Fault Refusal := fire (.tsel h) tselBody s
/-- TELGET (R181). -/
def execTelget (h : Hdr) (s : State) : Host.Outcome State Fault Refusal := fire (.telget h) telgetBody s
/-- TELSET (R182). -/
def execTelset (h : Hdr) (s : State) : Host.Outcome State Fault Refusal := fire (.telset h) telsetBody s
/-- TNEW (R183). -/
def execTnew (h : Hdr) (w : TnewW) (s : State) : Host.Outcome State Fault Refusal := fire (.tnew h w) (tnewBody w) s
/-- TREL (R184). -/
def execTrel (h : Hdr) (s : State) : Host.Outcome State Fault Refusal := fire (.trel h) trelBody s
/-- TCOPY (R185). -/
def execTcopy (h : Hdr) (s : State) : Host.Outcome State Fault Refusal := fire (.tcopy h) tcopyBody s
/-- TCVT (R151). -/
def execTcvt (h : Hdr) (w : ConvW) (s : State) : Host.Outcome State Fault Refusal := fire (.tcvt h w) (tcvtBody w) s
/-- TAMAX (R154). -/
def execTamax (h : Hdr) (s : State) : Host.Outcome State Fault Refusal := fire (.tamax h) tamaxBody s
/-- TRESCALE (R155). -/
def execTrescale (h : Hdr) (s : State) : Host.Outcome State Fault Refusal := fire (.trescale h) trescaleBody s

end Sys2Proof.Machine
end

