-- ==== Sys2Proof/Machine/Memory.lean ====
section
/-! DEFINITION. Memory access and ordering instructions (R225 to R265): loads, held stores, translation, the order in which
accesses may be performed, fences, stream barriers and timelines. -/

namespace Sys2Proof.Machine

/-! ### Accesses -/

/-- Put an access in flight. -/
def State.addAccess (s : State) (a : Access) : State :=
  { s with mem := { s.mem with accesses := s.mem.accesses.put s.sched.serial a } }.bump

/-- Replace an access. -/
def State.setAccess (s : State) (n : Nat) (a : Access) : State := { s with mem := { s.mem with accesses := s.mem.accesses.put n a } }

/-- Requests of a PE in flight (R233): its loads and atomics. -/
def State.inflight (s : State) (pe : Nat) : Nat :=
  (s.mem.accesses.filter fun p => p.2.src.pe == pe && !p.2.write && decide (p.2.stream < 8)).length +
    (s.sync.reqs.filter fun p => p.2.src.pe == pe && (match p.2.purpose with | .instr _ => true | _ => false)).length

/-- The extent of `n` bytes from an address, as cells. -/
def extent (va n : Nat) : List (Nat × Nat) := (List.range n).map fun i => ((va + i) % 2 ^ 64, i)

/-- One task's (R249). -/
def sameTask (a b : Src) : Bool := a.ctx == b.ctx && a.pe == b.pe && a.task == b.task

/-- Two streams are one: equal, or any two under revision 0 (R251). Stream 8 is no stream: copies and the device use it. -/
def State.sameStream (s : State) (c a b : Nat) : Bool :=
  decide (a < 8) && decide (b < 8) &&
    (a == b || (match s.ctx? c with | some x => x.regs.mmrev == 0 | none => false))

/-- An activation of a task is earlier than another (R249): the parent of a loop is not earlier than its iterations. -/
def Src.earlier (a b : Src) : Bool := decide (a.seq < b.seq) && a.uid != b.parent

/-- Two activations are iterations of one loop that runs several at a time (R249). -/
def Src.siblings (a b : Src) : Bool := b.wide && a.parent != 0 && a.parent == b.parent

/-- An activation is another one, is earlier than it (R249), or is an iteration of its loop, which commits before it. -/
def Src.upTo (a b : Src) : Bool := a.uid == b.uid || a.earlier b || (a.parent != 0 && a.parent == b.uid)

/-- An access of one number in flight precedes an access of a task (R249): of one activation by LSID; of another, an item of an earlier one, or a store
that was released before the other issued or was released. A load of an iteration of a loop with k > 1 is preceded only by the stores of lower
iterations that had committed when it issued. -/
def State.accBefore (s : State) (n : Nat) (a : Access) (m : Nat) (b : Access) : Bool :=
  !a.purpose.isCheck && sameTask a.src b.src && s.sameStream a.src.ctx a.stream b.stream &&
    (if a.src.uid = b.src.uid then decide (a.lsid < b.lsid ∨ (a.lsid = b.lsid ∧ n < m))
     else if a.src.siblings b.src && !b.write then b.prior.contains n
     else decide (n < m) && (a.released || a.src.earlier b.src || (b.write && a.src.parent == b.src.uid)))

/-- The first byte of a piece. -/
def Piece.key (p : Piece) : Nat := ((p.cells.head?).map Prod.fst).getD 0

/-- The home of a piece's memory. -/
def Piece.home (p : Piece) : Agent := if p.cells.isEmpty then .io else homeAgent p.key

/-- Physical cells grouped by 64-byte granule (R238). -/
def piecesOf (cells : List (Nat × Nat)) : List Piece :=
  ((cells.map fun c => c.1 / 64).eraseDups).map fun g => { cells := cells.filter fun c => c.1 / 64 == g, done := false }

/-- An access holds up a later one at a place: it is not at its homes yet, or has a piece there still to perform (R226, R250). -/
def State.holdsUp (s : State) (a : Access) (pl : Place) : Bool :=
  !a.state.isActive || a.pieces.any fun p => !p.done && samePlace (s.placeOf p.key) pl

/-- A JNEW or FNEW on its way: a store on stream 0 of its task (R375), and the byte it writes first. -/
def Msg.objectStore : Msg → Option (Src × Nat)
  | .join _ runs (some _) _ src => some (src, runAt runs 64)
  | .future _ runs .fnew _ _ src => some (src, runAt runs 0)
  | _ => none

/-- An access, atomic or object store of a number is not performed yet. -/
def State.unperformed (s : State) (w : Nat) : Bool :=
  (s.mem.accesses.get? w).isSome || (s.sync.reqs.get? w).isSome || (s.net.get? w).isSome

/-- An access, atomic or object store of a number holds up a later one at a place (R250). -/
def State.unperformedAt (s : State) (w : Nat) (pl : Place) : Bool :=
  (s.mem.accesses.get? w).any (fun a => s.holdsUp a pl) || (s.sync.reqs.get? w).any (fun r => samePlace r.place pl) ||
    (s.net.get? w).any fun e => match Msg.objectStore e.body with | some (_, key) => samePlace (s.placeOf key) pl | none => false

/-- A pending fence or stream barrier holds an access of its task back: until what it waits for is performed (R261, R262), and at its home until
everything that precedes it through them is (R249, R250). -/
def State.heldBack (s : State) (n : Nat) (src : Src) (stream : Nat) (write : Bool) (pl : Place) : Bool :=
  s.mem.holds.any fun h =>
    h.ctx == src.ctx && h.pe == src.pe && h.task == src.task && decide (h.seq < n) && decide (stream < 8) && bitAt h.streams stream &&
      (((if write then h.writes else h.loads) && h.waits.any fun w => s.unperformed w) || h.chain.any fun w => s.unperformedAt w pl)

/-- A load of lower LSID on the same stream of the activation has not issued, and does not wait for this load's token (R249,
R250; DEDUCED, assumption log 21). -/
def State.lowerLoad (s : State) (a : Access) : Bool :=
  match s.frameOf a.src.pe a.src.frame a.src.uid with
  | none => false
  | some f => f.isOpen && f.cfg.instrs.any fun p =>
      p.2.isLoad && p.1 != a.src.idx && f.unresolved p.1 && (match p.2.lsid with | some l => decide (l < a.lsid) | none => false) &&
        s.sameStream a.src.ctx p.2.stream a.stream && !(f.cfg.dependents a.src.idx).contains p.1

/-- A load or store of a task of a PE waits at a tile store for the loads, or the stores, that the PE issued there before (R231; that requests to read
travel in one class and requests to write in one is DEDUCED, assumption log 103). -/
def State.portOrder (s : State) (a : Access) (home : Agent) : Bool :=
  match home with
  | .pe _ => decide (a.stream < 8) && s.mem.accesses.any fun p => decide (p.2.issued < a.issued) && p.2.write == a.write && p.2.src.pe == a.src.pe &&
      decide (p.2.stream < 8) && p.2.state.isActive && p.2.pieces.any fun q => !q.done && q.home == home
  | _ => false

/-- A device access of the PE is on its way to the registers. -/
def State.devPending (s : State) (pe : Nat) : Bool :=
  s.net.any fun p => p.2.src == .pe pe && (match p.2.body with | .devWrite _ _ _ _ => true | _ => false)

/-- A piece may be performed at its home now (R249, R250), where its way there is open (R475). -/
def State.pieceReady (s : State) (n : Nat) (a : Access) (p : Piece) : Bool :=
  let pl := s.placeOf p.key
  a.state.isActive && !p.done && s.reaches p.home && !s.heldBack n a.src a.stream a.write pl &&
    !(s.mem.accesses.any fun q => q.1 != n && s.accBefore q.1 q.2 n a && s.holdsUp q.2 pl) &&
    !(s.sync.reqs.any fun q => sameTask q.2.src a.src && q.2.src.uid != a.src.uid &&
        (if q.2.src.siblings a.src && !a.write then a.prior.contains q.1 else decide (q.1 < n) && (a.write || q.2.src.earlier a.src)) &&
        s.sameStream a.src.ctx q.2.stream a.stream && samePlace q.2.place pl) &&
    !(s.net.any fun q => match Msg.objectStore q.2.body with
        | some (src, key) => (if src.siblings a.src && !a.write then a.prior.contains q.1 else decide (q.1 < n)) && sameTask src a.src &&
            s.sameStream a.src.ctx 0 a.stream && samePlace (s.placeOf key) pl
        | none => false) &&
    !(!a.write && a.state.isActive && decide (a.stream < 8) && s.lowerLoad a) && !s.portOrder a p.home &&
    !(p.home == .io && s.devPending a.src.pe)

/-- The unit records a queue copy's abort in its header: Error, the fault code and, if Error was clear, FaultSlot (R336, R338). -/
def State.queueError (s : State) (qi slot code : Nat) : State :=
  match s.dev.queues.get? qi with
  | none => s
  | some q =>
    let old := leNat (s.readBytes (q.headerPa + 28) 4)
    let s1 := s.writeBytes (q.headerPa + 28) (leBytes 4 (2 ^ 31 + code * 2 ^ 16))
    if bitAt old 31 then s1 else s1.write64 (q.headerPa + 32) slot

/-- A copy is aborted (R330, R338): what it has not issued is dropped; an instruction copy's fault stops its context at the posting
instruction, a queue copy's is recorded in the header. -/
def State.abortCopy (s : State) (c : Nat) (e : Fail) : State :=
  match s.copies.get? c with
  | none => s
  | some k =>
    if k.aborted then s
    else
      let s1 := match k.queue with
        | none => s.raiseAt k.src e
        | some qi => s.queueError qi k.qslot e.code.num
      let ph := match k.phase with | .signalling | .parked _ => CopyPhase.finished | p => p
      let keep := fun (p : Nat × Access) => match p.2.purpose with
        | .copyRead n | .copyWrite n => n != c || p.2.state.isActive
        | _ => true
      { s1 with copies := s1.copies.put c { k with aborted := true, phase := ph }
                mem := { s1.mem with accesses := s1.mem.accesses.filter keep } }

/-- A read of a copy still to perform delivers one of the stream bytes given (R334). -/
def State.copyReading (s : State) (c : Nat) (idx : Nat → Bool) : Bool :=
  s.mem.accesses.any fun p => p.2.purpose == .copyRead c && p.2.cells.any fun x => idx x.2

/-- The bytes that a write of an access carries: a copy's from its stream (R334), any other's its own. -/
def State.dataOf (s : State) (a : Access) : List Byte :=
  match a.purpose with
  | .copyWrite c => (match s.copies.get? c with | some k => k.buf | none => [])
  | _ => a.buf

/-- A copy's access may not be issued yet: its context is halted, and it is a read (R331), or its bytes are not there (R334). -/
def State.copyHeld (s : State) (a : Access) : Bool :=
  match a.purpose with
  | .copyRead _ => !(match s.ctx? a.src.ctx with | some x => x.state.issues | none => false)
  | .copyWrite c => s.copyReading c fun i => a.cells.any fun x => x.2 == i
  | _ => false

/-- An instruction of an Open activation raised a fault as its access was translated or read (R225, R87). -/
def State.markFaulted (s : State) (src : Src) : State :=
  match s.frameOf src.pe src.frame src.uid with
  | some f => if f.isOpen then s.setFrame (frameKey src.pe src.frame) { f with stat := f.stat.put src.idx .faulted } else s
  | none => s

/-- A fault of an access (R225): a kept activation's access is made again when its context resumes (R87, R229), any other is
withdrawn with its replies, and an Open activation among them neither commits nor performs its irrevocable instruction before it is discarded. -/
def State.accessFault (s : State) (n : Nat) (a : Access) (e : Fail) : State :=
  match a.purpose with
  | .copyRead c | .copyWrite c => (s.abortCopy c e).delAccess n
  | _ =>
  let kept := match s.frameOf a.src.pe a.src.frame a.src.uid with
    | some f => f.isOpen && f.isKept
    | none => false
  let s1 := s.raiseAt a.src { e with access := if a.stream < 8 then some (a.lsid, a.stream) else none, step := a.step }
  if kept then s1.setAccess n { a with state := .parked 0, pieces := [] }
  else ((s1.markFaulted a.src).delAccess n).dropReplies a

/-! ### Held stores and forwarding (R237) -/

/-- Every store below an LSID has resolved or has received its address, whatever it is (R237); a TSCAT has its rows' addresses once its list
has been read (DESIGN CHOICE, assumption log 97). -/
def State.storesKnown (s : State) (f : Frame) (lsid : Nat) : Bool :=
  f.cfg.instrs.all (fun p => !p.2.isStore || (match p.2.lsid with | some l => decide (lsid ≤ l) | none => true) ||
      f.resolved p.1 || (p.2.addressed && (f.operand p.1 .a).isSome)) &&
    !(s.mem.accesses.any fun p => p.2.src.uid == f.uid && decide (p.2.lsid < lsid) &&
      (match p.2.purpose with | .scatter _ _ _ => true | _ => false))

/-- The stores of the highest LSID below a load's that write a byte (R237). -/
def writersOf (stores : List StoreRec) (lsid va : Nat) : List StoreRec :=
  let l := stores.filter fun r => decide (r.lsid < lsid) && !r.dropped && r.cells.any fun c => c.1 == va
  let top := l.foldl (fun m r => max m r.lsid) 0
  l.filter fun r => r.lsid == top

/-- The byte a store writes at an address: of two rows at one address the higher (R246). -/
def StoreRec.byteAt (r : StoreRec) (va : Nat) : Option Byte :=
  match r.data with
  | none => none
  | some d => (r.cells.foldl (fun m c => if c.1 = va then some c.2 else m) none).map fun i => nthD d i 0

/-- A byte as a load finds it: from a store, from memory, or still to wait for (R237). -/
inductive Fwd where
  | byte (b : Byte)
  | memory
  | wait
  deriving DecidableEq, Repr

/-- Where a load takes one byte from. -/
def forward (stores : List StoreRec) (lsid va : Nat) : Fwd :=
  let l := writersOf stores lsid va
  if l.isEmpty then .memory
  else if l.any fun r => r.data.isNone then .wait
  else match l.findSome? fun r => r.byteAt va with
    | some b => .byte b
    | none => .wait

/-- What a load takes from its block's stores: the buffer filled so far, and the cells left to memory; none while it must wait (R237). -/
def forwardAll (stores : List StoreRec) (lsid : Nat) (buf : List Byte) : List (Nat × Nat) → Option (List Byte × List (Nat × Nat))
  | [] => some (buf, [])
  | c :: t =>
    match forward stores lsid c.1 with
    | .wait => none
    | .byte b => forwardAll stores lsid (setAt c.2 b buf) t
    | .memory => match forwardAll stores lsid buf t with
      | some (b, l) => some (b, c :: l)
      | none => none

/-! ### Translation -/

/-- The need of an access (R223). -/
def Access.need (a : Access) : Need :=
  match a.purpose with
  | .scalar size _ => .load (decide (4 ≤ size))
  | .check scalar => .store (scalar && (a.cells.length == 4 || a.cells.length == 8))
  | .store holder => .store (holder.isNone && (a.cells.length == 4 || a.cells.length == 8))
  | .copyRead _ => .copyRead
  | .copyWrite _ => .copyWrite
  | .barinit => .store false
  | _ => .load false

/-- The result of translating cells. -/
inductive CellRes where
  | ok (cells : List (Nat × Nat)) (refused : List Nat)
  | page (va level : Nat)
  | blocked (va : Nat)
  | prot (va : Nat)
  deriving DecidableEq, Repr

/-- The pages that cells touch are translated and checked, in order (R243). -/
def State.pageKeys (s : State) (c : Nat) (units : List Nat) (n : Need) : List Nat → Except CellRes (List (Nat × Nat × Bool))
  | [] => .ok []
  | va :: t =>
    match s.check1 c units n va with
    | .page level => .error (.page va level)
    | .blocked => .error (.blocked va)
    | .prot => .error (.prot va)
    | .ok k _ r => match s.pageKeys c units n t with
      | .ok l => .ok ((va, k, r) :: l)
      | .error e => .error e

/-- Physical cells of virtual ones. -/
def State.xlCells (s : State) (c pe : Nat) (n : Need) (cells : List (Nat × Nat)) : CellRes :=
  -- the first cell of each page stands for it
  let firsts := cells.foldl (fun (l : List Nat) x => if l.any fun v => v / 65536 == x.1 / 65536 then l else l ++ [x.1]) []
  match s.pageKeys c [pe, 2048 + dieOfPe pe] n firsts with
  | .error e => e
  | .ok l =>
    .ok (cells.map fun x => match l.find? fun p => p.1 / 65536 == x.1 / 65536 with
        | some (v, k, _) => (k - v % 65536 + x.1 % 65536, x.2)
        | none => (0, x.2)) ((l.filter fun p => p.2.2).map fun p => p.2.1 / 65536)

/-- The fill of the translation tables for the pages of cells (R222). -/
def State.fillTables (s : State) (c pe : Nat) (cells : List (Nat × Nat)) : State :=
  match s.ctx? c with
  | none => s
  | some x => ((cells.map fun p => p.1 / 65536).eraseDups).foldl (fun s p => s.tlbFill x pe (p * 65536 % 2 ^ 57)) s

/-- A load's own targets receive their scalar 0 once the request passes translation (R240, R241). -/
def State.sendExtra (s : State) (a : Access) : State :=
  a.extra.foldl (fun s d => match s.frameOf d.pe d.frame d.uid with
    | some f => if f.live then (match s.sendTo a.src d.tgt zeroTok with | some s' => s' | none => s.raiseAt a.src { code := .operand }) else s
    | none => s) s

/-- PAGE on a fetch, PAGE or a write block on a store: an entry, and the access parks or its activation waits (R226, R227). -/
def State.accessPage (s : State) (n : Nat) (a : Access) (kind va level : Nat) : State :=
  match s.pageEntry a.src kind va level with
  | .none => s.accessFault n a { code := .page, detail := wordOf va }
  | .full => s
  | .entry s1 e =>
    let k := frameKey a.src.pe a.src.frame
    let kept := match s.frameOf a.src.pe a.src.frame a.src.uid with | some f => f.isKept | none => false
    if a.purpose.isCheck ∧ !kept then (s1.delAccess n).discardToEntry a.src k e
    else s1.setAccess n { a with state := .parked e }

/-- A held store's address has passed translation (R88). -/
def State.storeTranslated (s : State) (a : Access) (cells : List (Nat × Nat)) (refused : List Nat) : State :=
  match s.frameOf a.src.pe a.src.frame a.src.uid with
  | none => s
  | some f => s.setFrame (frameKey a.src.pe a.src.frame)
      { f with stores := mapIf (fun r => r.idx == a.src.idx) (fun r => { r with phys := cells, translated := true, refused := refused }) f.stores }

/-- What a load of an iteration of a loop with k > 1 finds as it issues (R249): the numbers of the stores, atomics and object stores of lower iterations
that have committed. -/
def State.priorTo (s : State) (a : Access) : List Nat :=
  let mine := fun (q : Src) => sameTask q a.src && q.siblings a.src && q.earlier a.src && !(s.frameOf q.pe q.frame q.uid).any Frame.isOpen
  ((s.mem.accesses.filter fun p => p.2.write && p.2.released && mine p.2.src).map Prod.fst) ++ ((s.sync.reqs.filter fun p => mine p.2.src).map Prod.fst) ++
    (s.net.filter fun p => match Msg.objectStore p.2.body with | some (q, _) => mine q | none => false).map Prod.fst

/-- Translate an access that is ready to issue: the cells left to memory become pieces (R225, R238). -/
def State.walkAccess (s : State) (n : Nat) (a : Access) (buf : List Byte) (cells : List (Nat × Nat)) : State :=
  match s.xlCells a.src.ctx a.src.pe a.need a.cells with
  | .page va level => s.accessPage n a (if a.write then 1 else 0) va level
  | .blocked va => s.accessPage n a 2 va 0
  | .prot va => s.accessFault n a { code := .protection, detail := wordOf va }
  | .ok all refused =>
    let s1 := s.fillTables a.src.ctx a.src.pe a.cells
    if a.purpose.isCheck then (s1.delAccess n).storeTranslated a all refused
    else
      let left := all.filter fun c => cells.any fun d => d.2 == c.2
      ((s1.sendExtra a).setAccess n
        { a with state := .active, buf := buf, pieces := piecesOf left, refused := refused, extra := [], issued := s1.sched.serial
                 prior := if a.write then [] else s1.priorTo a }).bump

/-- A context instruction's message. -/
def AccFor.isCtx : AccFor → Bool
  | .ctxop _ => true
  | _ => false

/-- The stores of a task on stream 0 that were released before are performed (R418). -/
def State.storesDone (s : State) (n : Nat) (a : Access) : Bool :=
  a.state == .walk && !s.mem.accesses.any fun q => decide (q.1 < n) && q.2.write && q.2.released && sameTask q.2.src a.src && s.sameStream a.src.ctx q.2.stream 0

/-- A walk for an access (R222): a load issues once the stores below it are known and what it takes from them is there (R237). -/
def State.walkEvent (s : State) (n : Nat) : Option State :=
  match s.mem.accesses.get? n with
  | none => none
  | some a =>
    if s.copyHeld a then none else
    if a.purpose.isCtx then (if s.storesDone n a then some (s.setAccess n { a with state := .active, pieces := piecesOf a.cells }) else none) else
    match a.state with
    | .walk => some (s.walkAccess n a a.buf a.cells)
    | .lsid =>
      let f := match s.frameOf a.src.pe a.src.frame a.src.uid with | some f => if f.isOpen then some f else none | none => none
      if (match f with | some f => s.storesKnown f a.lsid | none => true) then
        match forwardAll (match f with | some f => f.stores | none => a.fwd) a.lsid a.buf a.cells with
        | none => none
        | some (buf, left) => some (s.walkAccess n a buf left)
      else none
    | _ => none

/-! ### Loads -/

/-- The effective address of a scalar access (R218). -/
def effective (a : Word) (disp : Int) : Nat := (a + wordOfInt disp).toNat

/-- An address operand: a handle raises TOKEN_KIND (R225). -/
def addrOperand (t : Tok) : Except Stop Word := wantScalar t

/-- A routing word (R234): the destination it names. A frame of another context raises PROTECTION whatever else is wrong with the word, by the
priorities of R399. -/
def Firing.route (f : Firing) (s : State) (w : Word) : Except Stop Dest :=
  let v := w.toNat
  let fid := bitsAt v 9 8
  let sd := bitsAt v 7 2
  match s.frame? (frameKey f.pe fid) with
  | some fr =>
    if fr.ctx ≠ f.fr.ctx then failWith .protection
    else if v / 2 ^ 17 ≠ 0 ∨ sd = 3 ∨ !fr.live then failWith .operand
    else .ok { pe := f.pe, frame := fid, uid := fr.uid
               tgt := .slot (if sd = 0 then .a else if sd = 1 then .b else .c) (BitVec.ofNat 7 (bitsAt v 0 7)) }
  | none => failWith .operand

/-- Expect the replies of destinations (R77, R233). -/
def State.expectAll (s : State) (ds : List Dest) : State := ds.foldl (fun s d => s.expect (frameKey d.pe d.frame) 1) s

/-- Issue a load of a firing instruction (R233): where the PE has its limit of requests it stays ready. -/
def Firing.issueLoad (f : Firing) (s : State) (lsid stream : Nat) (cells : List (Nat × Nat)) (size : Nat) (dests extra : List Dest)
    (purpose : AccFor) (step : Option Nat) : Except Stop State :=
  if Config.maxRequests ≤ s.inflight f.pe then .error (.wait .requests)
  else .ok ((s.expectAll dests).addAccess
    { src := f.src, stream := stream, lsid := lsid, write := false, released := false, cells := cells, buf := List.replicate size 0
      pieces := [], dests := dests, extra := extra, purpose := purpose, state := .lsid, refused := [], step := step, issued := 0, prior := [], fwd := [] })

/-- The checks of a scalar access (R218, R225): its effective address. -/
def scalarAddr (a : Word) (disp : Int) (size : Nat) : Except Stop Nat :=
  let ea := effective a disp
  if !canonicalSpan ea size then failWith .protection (wordOf ea)
  else if ea % size ≠ 0 then failWith .align (wordOf ea)
  else .ok ea

/-- LD and LDR (R241). -/
def loadBody (routed : Bool) (x : LoadX) (w : MemW) : Body := fun f s => do
  let a ← addrOperand f.a
  let _ ← if routed then addrOperand f.b else .ok a
  let ea ← scalarAddr a w.disp.toInt x.width.bytes
  let dests ← if routed then (f.route s f.b.val).map fun d => [d] else .ok f.dests
  let s1 ← f.issueLoad s w.lsid.toNat w.stream.toNat (extent ea x.width.bytes) x.width.bytes dests (if routed then f.dests else [])
    (.scalar x.width.bytes x.sx) none
  .ok { st := s1 }

/-- The destinations of a step's result (R64). -/
def Firing.destsStep (f : Firing) (k : Nat) (t : Target) : List Dest := (destsOf f.src [t]).map fun d => { d with step := some k }

/-- LDPAIR (R64): two loads, steps 0 and 1, of one LSID and stream. -/
def ldpairBody (x : LoadX) (w : MemW) : Body := fun f s => do
  let a ← stepOf 0 (addrOperand f.a)
  let n := x.width.bytes
  let e0 ← stepOf 0 (scalarAddr a w.disp.toInt n)
  let e1 ← stepOf 1 (scalarAddr a (w.disp.toInt + n) n)
  let s1 ← f.issueLoad s w.lsid.toNat w.stream.toNat (extent e0 n) n (f.destsStep 0 f.h.t0) [] (.scalar n x.sx) (some 0)
  let s2 ← f.issueLoad s1 w.lsid.toNat w.stream.toNat (extent e1 n) n (f.destsStep 1 f.h.t1) [] (.scalar n x.sx) (some 1)
  .ok { st := s2 }

/-- Bytes of an element of a channel. -/
def ChanFmt.bytes (c : ChanFmt) : Nat := c.fmt.bits / 8

/-- A tile for a fetch (R235): the slot and handle it will fill, with as many references as replies. -/
def Firing.fetchTile (f : Firing) (s : State) (ch : ChanFmt) (fc rows cols m : Nat) : Except Stop (State × Nat × Word) :=
  if !(s.tileRoom f.pe ch.fmt.width) || s.olderWaits f .tiles then .error (.wait .tiles)
  else
    let slot := s.pickSlot f.pe
    let h := handleOf f.pe slot fc rows cols (s.tileSlot f.pe slot).gen
    .ok (s.drawn.fillSlot f.pe slot f.x.slot m ch.fmt.width false (List.replicate 256 0), slot, h)

/-- TLD and TLDR (R243). -/
def tldBody (routed : Bool) (w : TmemW) : Body := fun f s => do
  let a ← addrOperand f.a
  let _ ← if routed then addrOperand f.b else .ok a
  let ch ← f.x.chanFmt w.fc.toNat
  let n := (w.rows.toNat + 1) * (w.cols.toNat + 1) * ch.bytes
  if a.toNat % ch.bytes ≠ 0 then failWith .align a
  else if !canonicalSpan a.toNat n then failWith .protection a
  else do
    let dests ← if routed then (f.route s f.b.val).map fun d => [d] else .ok f.dests
    let (s1, slot, h) ← f.fetchTile s ch w.fc.toNat w.rows.toNat w.cols.toNat dests.length
    let s2 ← f.issueLoad s1 w.lsid.toNat w.stream.toNat (extent a.toNat n) n dests (if routed then f.dests else [])
      (.tile slot h (f.x.chan w.fc.toNat)) none
    .ok { st := s2 }

/-- The length of a gather list (R245). -/
def listBytes (w : TmemW) : Nat := 8 + 4 * (w.rows.toNat + 1)

/-- The checks of a list address (R245). -/
def listAddr (a : Word) (w : TmemW) : Except Stop Unit :=
  if !canonicalSpan a.toNat (listBytes w) then failWith .protection a
  else if a.toNat % 8 ≠ 0 then failWith .align a
  else .ok ()

/-- TGATH (R245, R246): the list is read first, on the instruction's stream. -/
def tgathBody (w : TmemW) : Body := fun f s => do
  let a ← addrOperand f.a
  let ch ← f.x.chanFmt w.fc.toNat
  listAddr a w
  let (s1, slot, h) ← f.fetchTile s ch w.fc.toNat w.rows.toNat w.cols.toNat f.dests.length
  let s2 ← f.issueLoad s1 w.lsid.toNat w.stream.toNat (extent a.toNat (listBytes w)) (listBytes w) f.dests [] (.gather w slot h (f.x.chan w.fc.toNat)) none
  .ok { st := s2 }

/-- The rows a list names (R245): their addresses as cells of a dense buffer, none where the base is misaligned. A row address below 0 or above 2^64 − 1
is taken modulo 2^64 (DESIGN CHOICE, assumption log 118). -/
def listRows (list : List Byte) (rows cols bytes : Nat) : Option (List (Nat × Nat)) :=
  let base := fieldAt list 0 8
  if base % 64 ≠ 0 then none
  else some ((List.range rows).flatMap fun r =>
    let va := (wordOfInt ((base : Int) + 64 * signedOf 32 (fieldAt list (8 + 4 * r) 4))).toNat
    (List.range (cols * bytes)).map fun i => ((va + i) % 2 ^ 64, r * cols * bytes + i))

/-! ### Stores -/

/-- A store's record before its address is known. -/
def StoreRec.new (idx lsid stream : Nat) (holder : Option Word) : StoreRec :=
  { idx := idx, lsid := lsid, stream := stream, cells := [], data := none, phys := [], translated := false, dropped := false, refused := [], holder := holder }

/-- A frame with a store's record in place of any it had. -/
def Frame.putStore (f : Frame) (r : StoreRec) : Frame := { f with stores := (f.stores.filter fun q => q.idx != r.idx) ++ [r] }

/-- A store's address passes to translation (R88, R242); an earlier one of the same store, which is no longer its address, does not go on. -/
def State.checkStore (s : State) (src : Src) (lsid stream : Nat) (cells : List (Nat × Nat)) (scalar : Bool) : State :=
  let stale := fun (p : Nat × Access) => p.2.purpose.isCheck && p.2.src.uid == src.uid && p.2.src.idx == src.idx
  State.addAccess { s with mem := { s.mem with accesses := s.mem.accesses.filter fun p => !stale p } }
    { src := src, stream := stream, lsid := lsid, write := true, released := false, cells := cells, buf := [], pieces := [], dests := []
      extra := [], purpose := .check scalar, state := .walk, refused := [], step := none, issued := 0, prior := [], fwd := [] }

/-- The held record of a store instruction: made when its address arrives, with its address translated before the block's irrevocable
instruction performs (R88, R242). Its extent is the one its channel gives as it fires (R138). -/
def State.noteStore (s : State) (src : Src) (lsid stream : Nat) (cells : List (Nat × Nat)) (scalar : Bool) (data : Option (List Byte))
    (holder : Option Word) : State :=
  let k := frameKey src.pe src.frame
  match s.frameOf src.pe src.frame src.uid with
  | none => s
  | some f =>
    match f.stores.find? fun r => r.idx == src.idx && r.cells == cells with
    | some r => s.setFrame k (f.putStore { r with data := data, holder := holder })
    | none => (s.setFrame k (f.putStore { StoreRec.new src.idx lsid stream holder with cells := cells, data := data })).checkStore src lsid stream cells scalar


/-- The cells of a store whose address operand is known, where its address is well formed (R242 to R244). -/
def storeCells (x : Ctx) (i : Instr) (a : Word) : Option (List (Nat × Nat)) :=
  match i with
  | .st _ wd w =>
    match scalarAddr a w.disp.toInt wd.bytes with
    | .ok ea => some (extent ea wd.bytes)
    | .error _ => none
  | .tst _ w =>
    match chanOf (x.chan w.fc.toNat) with
    | none => none
    | some ch =>
      let n := (w.rows.toNat + 1) * (w.cols.toNat + 1) * ch.bytes
      if canonicalSpan a.toNat n && a.toNat % ch.bytes == 0 then some (extent a.toNat n) else none
  | _ => none

/-- The address operand of a store arrives (R242): it is translated at once. -/
def State.storeAddress (s : State) (src : Src) (i : Instr) (t : Tok) : State :=
  match s.ctx? src.ctx, i.lsid with
  | some x, some l =>
    if t.kind ≠ .scalar then s
    else match storeCells x i t.val with
      | some cells => s.noteStore src l i.stream cells i.isSt none none
      | none => s
  | _, _ => s

/-- The store's LSID is free to be satisfied: a second store of one LSID raises OPERAND (R86). -/
def Firing.claimLsid (f : Firing) (s : State) (lsid : Nat) : Except Stop State :=
  if f.fr.satisfied.contains lsid then failWith .operand else .ok (s.satisfy f.key lsid)

/-- ST (R242): the value waits for commit. -/
def stBody (wd : Width) (w : MemW) : Body := fun f s => do
  let a ← addrOperand f.a
  let b ← if f.b.kind = .tile && !f.dependent then failWith .tokenKind else .ok f.b.val
  let ea ← scalarAddr a w.disp.toInt wd.bytes
  let s1 ← f.claimLsid s w.lsid.toNat
  .ok { st := s1.noteStore f.src w.lsid.toNat w.stream.toNat (extent ea wd.bytes) true (some (leBytes wd.bytes b.toNat)) none }

/-- The codes of a tile's rows and columns as dense bytes (R243, R244). -/
def tileBytes (codes : List Nat) (rows cols bytes : Nat) : List Byte :=
  (List.range rows).flatMap fun r => (List.range cols).flatMap fun c => leBytes bytes (nthD codes (r * 16 + c) 0)

/-- The value tile of TST and TSCAT (R244): the FC of the word has the width of the tile's slot. -/
def Firing.valueTile (f : Firing) (s : State) (fc : Nat) : Except Stop (TileIn × ChanFmt) := do
  let b ← f.tile s f.b
  let ch ← f.x.chanFmt fc
  if ch.fmt.width ≠ b.slot.width then failWith .operand else .ok (b, ch)

/-- TST (R244): the tile's reference is held until the store is performed (R236). -/
def tstBody (w : TmemW) : Body := fun f s => do
  let a ← addrOperand f.a
  if f.b.kind ≠ .tile then failWith .tokenKind
  else do
    let ch0 ← f.x.chanFmt w.fc.toNat
    let n := (w.rows.toNat + 1) * (w.cols.toNat + 1) * ch0.bytes
    if !canonicalSpan a.toNat n then failWith .protection a
    else if a.toNat % ch0.bytes ≠ 0 then failWith .align a
    else do
      let (b, ch) ← f.valueTile s w.fc.toNat
      let s1 ← f.claimLsid s w.lsid.toNat
      .ok { st := s1.noteStore f.src w.lsid.toNat w.stream.toNat (extent a.toNat n) false
              (some (tileBytes b.slot.codes (w.rows.toNat + 1) (w.cols.toNat + 1) ch.bytes)) (some b.h)
            keep := [f.b] }

/-- TSCAT (R246): the list is read before any row is held, and the value tile is held from now on (R236). -/
def tscatBody (w : TmemW) : Body := fun f s => do
  let a ← addrOperand f.a
  if f.b.kind ≠ .tile then failWith .tokenKind
  else do
    listAddr a w
    let (b, _) ← f.valueTile s w.fc.toNat
    let s1 ← f.claimLsid s w.lsid.toNat
    let s2 ← f.issueLoad s1 w.lsid.toNat w.stream.toNat (extent a.toNat (listBytes w)) (listBytes w) [] [] (.scatter w b.h (f.x.chan w.fc.toNat)) none
    .ok { st := s2.modFrame f.key fun fr => fr.putStore (StoreRec.new f.idx w.lsid.toNat w.stream.toNat (some b.h)), keep := [f.b] }

/-! ### What a release waits for (R253) -/

/-- before(O) on some streams holds an access not yet performed (R249, R253): an access or atomic of an earlier activation of the
task. The loop parent is no earlier activation of its iterations, which are earlier for what follows in the parent (DEDUCED,
assumption log 23); revision 0 covers all streams (R251). -/
def State.before (s : State) (src : Src) (streams : Nat) : Bool :=
  let all := match s.ctx? src.ctx with | some x => x.regs.mmrev == 0 | none => false
  let covers := fun (a : Src) (stream : Nat) =>
    sameTask a src && a.uid != src.uid && a.upTo src && decide (stream < 8) && (all || bitAt streams stream)
  s.mem.accesses.any (fun p => !p.2.purpose.isCheck && covers p.2.src p.2.stream) || s.sync.reqs.any (fun p => covers p.2.src p.2.stream) ||
    s.net.any fun p => match Msg.objectStore p.2.body with | some (a, _) => covers a 0 | none => false

/-- A release waits until every access in its before() has been performed, whatever its scope (R255; DEDUCED, assumption log 113). -/
def Firing.awaitBefore (f : Firing) (s : State) : Except Stop Unit := if s.before f.src 0xFF then .error (.wait .before) else .ok ()

/-- The same of one that has read memory first: it does not read it again (R345, R380). -/
def Firing.holdBefore (f : Firing) (s : State) (l : List Byte) : Except Stop Unit := if s.before f.src 0xFF then .error (.hold .before l) else .ok ()

/-! ### Fences and stream barriers -/

/-- The numbers of the accesses and atomics of an activation and of earlier ones of its task that a fence or barrier covers (R249, R262): on the
streams given, loads alone or all. An atomic counts as a load and as a store (DESIGN CHOICE, assumption log 116). -/
def State.covered (s : State) (src : Src) (streams : Nat) (loadsOnly : Bool) : List Nat :=
  let mine := fun (a : Src) (stream : Nat) => sameTask a src && a.upTo src && decide (stream < 8) && bitAt streams stream
  ((s.mem.accesses.filter fun p => !p.2.purpose.isCheck && mine p.2.src p.2.stream && !(loadsOnly && p.2.write)).map Prod.fst) ++
    ((s.sync.reqs.filter fun p => mine p.2.src p.2.stream).map Prod.fst) ++
    (s.net.filter fun p => match Msg.objectStore p.2.body with | some (a, _) => mine a 0 && !loadsOnly | none => false).map Prod.fst

/-- What precedes a task's fence or barrier on some streams (R249): what it covers there, and what precedes those of earlier activations that are
pending and share a stream with it; `pend` are the holds as its commit began. -/
def State.preceding (s : State) (pend : List Hold) (src : Src) (streams : Nat) : List Nat :=
  let mine := pend.filter fun h => h.ctx == src.ctx && h.pe == src.pe && h.task == src.task && (List.range 8).any fun i => bitAt h.streams i && bitAt streams i
  (s.covered src streams false ++ mine.flatMap fun h => h.chain).eraseDups

/-- A fence or stream barrier becomes pending (R261, R262), where something precedes it. -/
def State.addHold (s : State) (src : Src) (waits chain : List Nat) (streams : Nat) (loads writes : Bool) : State :=
  let h : Hold := { ctx := src.ctx, pe := src.pe, task := src.task, seq := s.sched.serial, waits := waits, chain := chain, streams := streams
                    loads := loads, writes := writes }
  if chain.isEmpty then s else State.bump { s with mem := { s.mem with holds := s.mem.holds ++ [h] } }

/-- A hold has nothing left to wait for. -/
def State.holdOver (s : State) (h : Hold) : Bool := h.chain.all fun w => !s.unperformed w

/-- Holds whose accesses are all performed complete. -/
def State.sweepHolds (s : State) : State := { s with mem := { s.mem with holds := s.mem.holds.filter fun h => !s.holdOver h } }

/-- A fence at commit (R261): an acquire waits for loads, one that only releases holds no load. The scope narrows neither. -/
def State.commitFence (s : State) (pend : List Hold) (src : Src) (streams : Nat) (acq rel : Bool) : State :=
  s.addHold src (s.covered src streams (!rel)) (s.preceding pend src streams) streams acq true

/-- A stream barrier at commit (R262). -/
def State.commitSbar (s : State) (pend : List Hold) (src : Src) (from_ to_ : Nat) : State :=
  s.addHold src (s.covered src from_ false) (s.preceding pend src from_) to_ true true

/-- FENCE and SBAR are recorded with the activation and act at commit (R261, R262). -/
def holdBody (e : Effect) : Body := fun f s => .ok { st := s.hold f.key e }

/-! ### Timelines (R258) -/

/-- A context's timeline on a PE. -/
def PeCtx.timeline (p : PeCtx) : Timeline → Tline
  | .tlc => p.tlc
  | .tlm => p.tlm
  | .tla => p.tla
  | .tls => p.tls

/-- Replace it. -/
def PeCtx.setTimeline (p : PeCtx) (t : Timeline) (v : Tline) : PeCtx :=
  match t with
  | .tlc => { p with tlc := v }
  | .tlm => { p with tlm := v }
  | .tla => { p with tla := v }
  | .tls => { p with tls := v }

/-- Take the next number of a timeline. -/
def State.takeNumber (s : State) (c pe : Nat) (t : Timeline) : State × Nat :=
  let p := s.pctx c pe
  let l := p.timeline t
  (s.setPctx c pe (p.setTimeline t { l with taken := l.taken + 1 }), l.taken + 1)

/-- Advance over numbers that completed early. -/
def advance (early : List Nat) : Nat → Nat → Nat
  | 0, d => d
  | fuel + 1, d => if early.contains (d + 1) then advance early fuel (d + 1) else d

/-- Operation n completes: the counter holds the largest n such that every number up to it has completed. -/
def Tline.complete (l : Tline) (n : Nat) : Tline :=
  let e := n :: l.early
  let d := advance e e.length l.done
  { l with done := d, early := e.filter fun m => decide (d < m) }

/-- The status of an instruction of a frame. -/
def State.setStat (s : State) (k idx : Nat) (st : IStat) : State := s.modFrame k fun f => { f with stat := f.stat.put idx st }

/-- TLWAITs that the counter has reached wake (R264). -/
def State.wakeWaits (s : State) (c pe : Nat) (t : Timeline) : State :=
  let d := ((s.pctx c pe).timeline t).done
  s.pe.frames.foldl (fun s p =>
    if p.1 / 256 = pe ∧ p.2.ctx = c then
      p.2.stat.foldl (fun s q => match q.2 with
        | .parked (.timeline tl m) =>
          if tl = t ∧ m ≤ d then
            let src := srcOf p.1 p.2 q.1
            let h := match p.2.cfg.instr q.1 with | some i => i.hdr | none => { pr := .always, t1 := .none, t0 := .none }
            (s.setStat p.1 q.1 .fired).reply (.pe pe) 1 (destsOf src [h.t0, h.t1]) (scalarTok (wordOf d)) src
          else s
        | _ => s) s
    else s) s

/-- Complete a number of a timeline and wake what waited for it. -/
def State.completeNumber (s : State) (c pe : Nat) (t : Timeline) (n : Nat) : State :=
  let p := s.pctx c pe
  (s.setPctx c pe (p.setTimeline t ((p.timeline t).complete n))).wakeWaits c pe t

/-- TLWAIT (R264): it parks until the counter reaches m. -/
def tlwaitBody (t : Timeline) : Body := fun f s => do
  let m ← wantScalar f.a
  let d := ((s.pctx f.fr.ctx f.pe).timeline t).done
  let s1 := s.expect f.key f.fan
  if m.toNat ≤ d then .ok { st := s1.reply (.pe f.pe) 1 f.dests (scalarTok (wordOf d)) f.src }
  else .ok { st := s1, stat := .parked (.timeline t m.toNat) }

/-- TLREAD (R265). -/
def tlreadBody (t : Timeline) : Body := fun f s => .ok (Done.scalar s (wordOf ((s.pctx f.fr.ctx f.pe).timeline t).done))

/-- LD (R241). -/
def execLd (h : Hdr) (x : LoadX) (w : MemW) (s : State) : Host.Outcome State Fault Refusal := fire (.ld h x w) (loadBody false x w) s
/-- LDR (R234, R241). -/
def execLdr (h : Hdr) (x : LoadX) (w : MemW) (s : State) : Host.Outcome State Fault Refusal := fire (.ldr h x w) (loadBody true x w) s
/-- ST (R242). -/
def execSt (h : Hdr) (x : Width) (w : MemW) (s : State) : Host.Outcome State Fault Refusal := fire (.st h x w) (stBody x w) s
/-- LDPAIR (R64, R241). -/
def execLdpair (h : Hdr) (x : LoadX) (w : MemW) (s : State) : Host.Outcome State Fault Refusal := fire (.ldpair h x w) (ldpairBody x w) s
/-- TLD (R243). -/
def execTld (h : Hdr) (w : TmemW) (s : State) : Host.Outcome State Fault Refusal := fire (.tld h w) (tldBody false w) s
/-- TLDR (R234, R243). -/
def execTldr (h : Hdr) (w : TmemW) (s : State) : Host.Outcome State Fault Refusal := fire (.tldr h w) (tldBody true w) s
/-- TST (R244). -/
def execTst (h : Hdr) (w : TmemW) (s : State) : Host.Outcome State Fault Refusal := fire (.tst h w) (tstBody w) s
/-- TGATH (R246). -/
def execTgath (h : Hdr) (w : TmemW) (s : State) : Host.Outcome State Fault Refusal := fire (.tgath h w) (tgathBody w) s
/-- TSCAT (R246). -/
def execTscat (h : Hdr) (w : TmemW) (s : State) : Host.Outcome State Fault Refusal := fire (.tscat h w) (tscatBody w) s
/-- FENCE (R260, R261). -/
def execFence (h : Hdr) (sc : Scope) (s : State) : Host.Outcome State Fault Refusal := fire (.fence h sc) (holdBody (.fence sc 0xFF true true)) s
/-- FENCE_WORD (R260, R261). -/
def execFenceWord (h : Hdr) (sc : Scope) (w : FenceW) (s : State) : Host.Outcome State Fault Refusal := fire (.fenceWord h sc w) (holdBody (.fence sc w.streams.toNat (w.order.getLsbD 0) (w.order.getLsbD 1))) s
/-- SBAR (R262). -/
def execSbar (h : Hdr) (w : SbarW) (s : State) : Host.Outcome State Fault Refusal := fire (.sbar h w) (holdBody (.sbar w.src.toNat w.dst.toNat)) s
/-- TLWAIT (R264). -/
def execTlwait (h : Hdr) (tl : Timeline) (s : State) : Host.Outcome State Fault Refusal := fire (.tlwait h tl) (tlwaitBody tl) s
/-- TLREAD (R265). -/
def execTlread (h : Hdr) (tl : Timeline) (s : State) : Host.Outcome State Fault Refusal := fire (.tlread h tl) (tlreadBody tl) s

end Sys2Proof.Machine
end

