-- ==== Sys2Proof/Machine/Translate.lean ====
section
/-! DEFINITION. What the Kiln makes of the words of a block (R39 to R45, R48, R49, R57 to R66, R89): a configuration, or the
fault of lowest report offset. -/

namespace Sys2Proof

/-- What a second word says of the operands and the LSID of its instruction, whatever its other bits hold: the A bit of FCSET (R152) and
ZDRAIN (R212), and the LSID of a tile memory word (R53). -/
def Raw.telling (r : Raw) : Nat :=
  let op := fieldOf r.base.toNat 25 7
  let mask := if op = 0x12 then 2 ^ 21 else if op = 0x23 then 2 ^ 17 else if 0x2B ≤ op ∧ op < 0x30 then 31 * 2 ^ 27 else 0
  (r.second &&& BitVec.ofNat 32 mask).toNat

/-- The instruction that a pair of words names by its opcode and X, whatever its other fields hold (R49); an extension opcode
and a reserved one name none. -/
def Raw.named (r : Raw) : Option Instr :=
  let b := r.base.toNat
  let tgt := fun (t : Nat) => (Target.ofCode t).getD .none
  let h : Hdr := { pr := (Pred.ofCode (fieldOf b 22 2)).getD .always, t1 := tgt (fieldOf b 9 9), t0 := tgt (fieldOf b 0 9) }
  let try_ := fun (i s : Nat) => match decodeOp (fieldOf b 25 7) i (fieldOf b 18 4) s h with
    | .ok k => some k
    | .error _ => none
  ([try_ (fieldOf b 24 1) r.second.toNat, try_ (fieldOf b 24 1) r.telling, try_ (fieldOf b 24 1) 0, try_ (1 - fieldOf b 24 1) 0]).findSome? id

/-- The extension opcode of a base word (R65). -/
def Raw.extension (r : Raw) : Option Nat :=
  let op := fieldOf r.base.toNat 25 7
  if 0x78 ≤ op ∧ op < 0x7F then some (op - 0x78) else none

/-- An instruction takes an operand side (R49). -/
def Instr.takes (i : Instr) (sd : Side) : Bool := i.required.contains sd

namespace Machine

/-- Where the Kiln reports a fault of a block: the header, or an instruction (R66). -/
structure BlockFault where
  code : Code
  idx : Option Nat
  deriving DecidableEq, Repr

/-- What reading a block comes to: its configuration, a fault, or a word that cannot be had at an offset. -/
inductive Parsed where
  | ok (c : Cfg)
  | fault (f : BlockFault)
  | missing (off : Nat)
  deriving DecidableEq, Repr

/-- The instructions of a block (R44): from the words left, the first of which is at `off`. -/
def rawsFrom : Nat → Nat → List Word32 → Except Nat (List Raw)
  | 0, _, _ => .ok []
  | _ + 1, off, [] => .error off
  | n + 1, off, b :: t =>
    if Raw.hasSecond b then
      match t with
      | [] => .error (off + 4)
      | s :: t' => (rawsFrom n (off + 8) t').map fun l => { base := b, second := s } :: l
    else (rawsFrom n (off + 4) t).map fun l => { base := b, second := 0 } :: l

/-- A target code is valid in a block (R48, R49). -/
def targetGood (raws : List Raw) (writes : Nat) (code : Nat) : Bool :=
  match Target.ofCode code with
  | none => false
  | some .none => true
  | some (.write k) => decide (k.toNat < writes)
  | some (.slot sd i) =>
    match raws[i.toNat]? with
    | none => false
    | some r => r.extension.isSome || (match r.named with | some k => k.takes sd | none => false)

/-- Branch-class instructions stand in the block types R60 gives. -/
def branchAllowed (ty : BlockTy) : Instr → Bool
  | .br _ _ | .bri _ | .tend _ => ty == .code || ty == .actor
  | .call _ _ | .calli _ | .ret _ => ty == .code
  | .iter _ | .lbreak _ => ty == .loop
  | _ => true

/-- CKPT. -/
def isCkpt : Instr → Bool
  | .ckpt _ => true
  | _ => false

/-- What R89 allows a dependent to be; `sd` is the slot its token goes to. -/
def dependentGood (r : Raw) (sd : Side) : Bool :=
  let op := fieldOf r.base.toNat 25 7
  (match r.named with
    | some (.mov _) | some (.const_ _ _) | some (.constZx _ _) | some (.consth _ _) | some (.null_ _) | some (.sel _)
    | some (.gate _) | some (.carry _) | some (.br _ _) | some (.iter _) | some (.lbreak _) => true
    | some (.st _ _ _) => sd == .b
    | _ => false) || [0x08, 0x0A, 0x0B, 0x0C, 0x0D, 0x0E].contains op

/-- The operand slots that an instruction's targets name. -/
def Raw.slots (r : Raw) : List (Nat × Side) :=
  ([fieldOf r.base.toNat 0 9, fieldOf r.base.toNat 9 9]).filterMap fun c => match Target.ofCode c with
    | some (.slot sd i) => some (i.toNat, sd)
    | _ => none

/-- Slots reached from some, `n` links deep: not through CARRY, whose token goes to another activation (DEDUCED, assumption log 17). -/
def reachSlots (raws : List Raw) : Nat → List (Nat × Side) → List (Nat × Side)
  | 0, l => l
  | n + 1, l =>
    let on := fun (r : Raw) => match r.named with | some i => !i.isCarry | none => true
    reachSlots raws n ((l ++ l.flatMap fun p => match raws[p.1]? with | some r => if on r then Raw.slots r else [] | none => []).eraseDups)

/-- The first dependent that R89 does not allow. -/
def badDependent (raws : List Raw) (idx : Nat) : Option Nat :=
  match raws[idx]? with
  | none => none
  | some r =>
    let bad := (reachSlots raws raws.length (Raw.slots r).eraseDups).filter fun p =>
      match raws[p.1]? with | some d => !dependentGood d p.2 | none => false
    (leastBy id (bad.map Prod.fst))

/-- Indices of the instructions that meet a condition. -/
def indicesOf (raws : List Raw) (p : Instr → Bool) : List Nat :=
  (List.range raws.length).filter fun n => match (raws[n]?).bind Raw.named with | some i => p i | none => false

/-- The instruction at an index breaks a rule of R63 that is reported at it (R66): the dependents of an irrevocable one
keep R89. -/
def instrFault (raws : List Raw) (ty : BlockTy) (writes features idx : Nat) (r : Raw) : Option Code :=
  let later := fun (p : Instr → Bool) => (indicesOf raws p).any fun n => decide (n < idx)
  let b := r.base.toNat
  let targets := !(targetGood raws writes (fieldOf b 0 9) && targetGood raws writes (fieldOf b 9 9))
  match r.extension with
  | some n => if targets || !bitAt features n then some .encoding else some .feature
  | none =>
    match decodeRaw r, r.named with
    | .ok _, some i =>
      if targets || !branchAllowed ty i || (i.isLoop && (ty == .loop || later Instr.isLoop)) ||
          (i.isCarry && (ty != .loop || later Instr.isCarry)) || (i.isHcall && (later Instr.isHcall || later Instr.irrevocable)) ||
          (i.irrevocable && (later Instr.irrevocable || later Instr.isHcall)) ||
          (indicesOf raws Instr.irrevocable).any (fun n => badDependent raws n == some idx)
      then some .encoding else none
    | _, _ => some .encoding

/-- The loads and stores of a block with their LSIDs: one without its second word has none. -/
def accessesOf (raws : List Raw) : List Instr :=
  ((raws.filter fun r => Raw.hasSecond r.base).filterMap Raw.named).filter fun i => i.isStore || i.isLoad

/-- The store LSIDs of a block as a mask (R61). -/
def storeMaskOf (raws : List Raw) : Nat :=
  ((accessesOf raws).filter Instr.isStore).foldl (fun m i => m ||| 2 ^ (i.lsid.getD 0)) 0

/-- One LSID is both a load's and a store's (R61). -/
def mixedLsids (raws : List Raw) : Bool :=
  let l := accessesOf raws
  l.any fun i => i.isLoad && l.any fun j => j.isStore && i.lsid == j.lsid

/-- The rules of R60 to R62 that concern the block as a whole. -/
def wholeGood (raws : List Raw) (ty : BlockTy) (mask : Nat) : Bool :=
  let l := raws.filterMap Raw.named
  l.any (fun i => i.branchClass && branchAllowed ty i) && storeMaskOf raws == mask && !mixedLsids raws &&
    (!l.any isCkpt || (ty == .code && raws.length == 2 && l.length == 2 && (l.filter isCkpt).length == 1 &&
      (l.filter Instr.branchClass).length == 1 && mask == 0))

/-- A read entry of a word (R42). -/
def readEntry (w : Word32) : ReadEntry :=
  let tgt := fun (t : Nat) => (Target.ofCode t).getD .none
  { g := fieldOf w.toNat 25 7, t1 := tgt (fieldOf w.toNat 9 9), t0 := tgt (fieldOf w.toNat 0 9) }

/-- The bytes of write-entry words (R43). -/
def writeBytesOf (ws : List Word32) : List Nat := ws.flatMap fun w => (List.range 4).map fun k => bitsAt w.toNat (8 * k) 8

/-- The write-entry bytes obey R43. -/
def writesGood (n : Nat) (l : List Nat) : Bool :=
  let used := l.take n
  used.all (fun b => decide (128 < b)) && (l.drop n).all (· == 0) && used.eraseDups.length == used.length

/-- The block at an address from its words (R63 to R66); `limit` is the room to the next block or the end of the section. -/
def parseBlock (addr obj limit features : Nat) (nodes : Nat → Nat) (ws : List Word32) : Parsed :=
  let head : Parsed := .fault { code := .encoding, idx := none }
  let lack := fun (off : Nat) => if limit < off + 4 then head else .missing off
  match ws with
  | h0 :: h1 :: rest =>
    match h0Type h0.toNat with
    | none => .fault { code := .noncodeBlock, idx := none }
    | some ty =>
      let n := bitsAt h0.toNat 15 7 + 1
      let reads := bitsAt h0.toNat 9 6
      let writes := bitsAt h0.toNat 3 6
      let ww := (writes + 3) / 4
      let pad := (reads + ww) % 2
      if ty == .data then .fault { code := .noncodeBlock, idx := none }
      else if bitsAt h0.toNat 0 3 ≠ 0 ∨ 32 < reads ∨ 32 < writes ∨ (ty = .loop ∧ writes ≠ 0) then head
      else if rest.length < reads + ww + pad then lack (8 + 4 * rest.length)
      else
        let rs := rest.take reads
        let wb := writeBytesOf ((rest.drop reads).take ww)
        let padding := (rest.drop (reads + ww)).take pad
        match rawsFrom n (8 + 4 * (reads + ww + pad)) (rest.drop (reads + ww + pad)) with
        | .error off => lack off
        | .ok raws =>
          let size := 8 + 4 * (reads + ww + pad) + (raws.map fun r => if Raw.hasSecond r.base then 8 else 4).sum
          let good := fun c => targetGood raws writes c
          if limit < size || rs.any (fun w => fieldOf w.toNat 18 7 != 0 || !good (fieldOf w.toNat 0 9) || !good (fieldOf w.toNat 9 9)) ||
              !writesGood writes wb || padding.any (· != 0) || !wholeGood raws ty h1.toNat then head
          else
            match (List.range n).findSome? fun k => (raws[k]?).bind fun r => (instrFault raws ty writes features k r).map fun c => (k, c) with
            | some (k, c) => .fault { code := c, idx := some k }
            | none => .ok { num := 0, addr := addr, obj := obj, ty := ty, code := raws, reads := rs.map readEntry
                            writes := (wb.take writes).map fun b => b % 128, storeMask := h1, nodes := (List.range n).map nodes }
  | _ => lack (4 * ws.length)

/-- The room of a block: to the next block of its table, or to the end of the section (R34). -/
def Obj.room (o : Obj) (addr : Nat) : Nat :=
  let i := o.indexOf addr
  let here := nthD o.blocks i 0
  (match o.blocks[i + 1]? with | some n => n | none => o.codeSize) - here

/-- The node of an instruction of a block (R451): of the last entry of its block at or below it; 0xFFFFFFFF where none is. -/
def Obj.nodeOf (o : Obj) (addr k : Nat) : Nat :=
  match (o.nodes.filter fun p => p.1 == o.indexOf addr && decide (p.2.1 ≤ k)).getLast? with
  | some p => p.2.2
  | none => 0xFFFFFFFF

/-- The bytes at a key up to the first poisoned granule. -/
def State.cleanBytes (s : State) (key n : Nat) : List Byte :=
  match (List.range (n / 64 + 1)).find? fun i => decide (key / 64 * 64 + 64 * i < key + n) && s.poisoned (key / 64 * 64 + 64 * i) with
  | some i => s.readBytes key (key / 64 * 64 + 64 * i - key)
  | none => s.readBytes key n

/-- The bytes of a block that can be fetched, from its address up to the first page that cannot or the first poisoned granule. -/
def State.fetchable (s : State) (c : Nat) : List (Nat × Nat) → List Byte
  | [] => []
  | r :: t => match s.checkRuns c [] .code [r] with
    | .ok ks =>
      let l := ks.flatMap fun k => s.cleanBytes k.1 k.2
      if l.length < r.2 then l else l ++ s.fetchable c t
    | _ => []

/-- The bytes of a block from a place in it on, up to a place, as far as they can be fetched. -/
def State.fetchRest (s : State) (c addr upTo at_ : Nat) : List Byte := s.fetchable c (pageRuns (addr + at_) (upTo - at_))

/-- The block at an address for an object (R427): the bytes read before, and the rest as its memory stands. -/
def State.parseAt (s : State) (c n : Nat) (o : Obj) (addr : Nat) (before : List Byte) : Parsed :=
  let room := o.room addr
  parseBlock addr n room o.features (o.nodeOf addr) (wordsOfBytes (before ++ s.fetchRest c addr (min 1192 room) before.length))

/-- The configuration of a block for a context: of a current translation on the die, else as its memory stands. -/
def State.cfgAt (s : State) (die c addr : Nat) : Option Cfg :=
  match s.entryOf die c addr with
  | some e => some e.cfg
  | none => match s.objectOf c addr with
    | none => none
    | some (n, o) => match s.parseAt c n o addr [] with
      | .ok g => some g
      | _ => none

end Machine

end Sys2Proof
end

