-- ==== Sys2Proof/Machine/Matrix.lean ====
section
/-! DEFINITION. Matrix, accumulator, ring and epilogue instructions (R186 to R217), the packets that fill rings (R198, R199)
and the spill of an accumulator (R203 to R205). -/

namespace Sys2Proof.Machine

/-! ### Order and claims (R187, R188) -/

/-- The resources an instruction names (R188): accumulator z is z, ring q is 8 + q, the epilogue state is 16. An MMAR whose
operand a is not known names every ring. -/
def Instr.resources (i : Instr) (a : Option Tok) : List Nat :=
  match i with
  | .mma _ x => [x.z.toNat]
  | .mmar _ x => x.z.toNat :: (match a with
      | some t => [8 + bitsAt t.val.toNat 0 3, 8 + bitsAt t.val.toNat 4 3]
      | none => (List.range 8).map fun q => 8 + q)
  | .zinit _ w | .zclrf _ w | .zflags _ w | .zscale _ w | .zload _ w => [w.z.toNat]
  | .zdrain _ z w => z.toNat :: (if w.ep then [16] else [])
  | .tmac _ x w => x.z.toNat :: (if w.ep then [16] else [])
  | .rcfg _ w | .rpush _ w | .rpop _ w | .rstat _ w => [8 + w.ring.toNat]
  | .epload _ _ | .eparg _ _ => [16]
  | _ => []

/-- Instructions of a frame from `lo` up to `hi` that name one of some resources and have not resolved. -/
def Frame.namesBetween (f : Frame) (lo hi : Nat) (rs : List Nat) : Bool :=
  f.cfg.instrs.any fun p => decide (lo ≤ p.1 ∧ p.1 < hi) && f.unresolved p.1 &&
    (Instr.resources p.2 (f.operand p.1 .a)).any fun r => rs.contains r

/-- The LOOP of a block, with its index. -/
def Cfg.loopIdx (c : Cfg) : Option Nat := (c.instrs.find? fun p => p.2.isLoop).map Prod.fst

/-- A loop parent's body names one of some resources; one whose words cannot be read now may name any. -/
def State.bodyNames (s : State) (pe : Nat) (f : Frame) (rs : List Nat) : Bool :=
  match s.nextBlock f.ctx f.cfg.addr with
  | none => false
  | some b => match s.cfgAt (dieOfPe pe) f.ctx b with
    | none => true
    | some c => c.instrs.any fun p => (Instr.resources p.2 none).any fun r => rs.contains r

/-- The LOOP of an activation has completed: it resolved, and the sequencer is done. -/
def State.loopOver (s : State) (pe : Nat) (f : Frame) (idx : Nat) : Bool :=
  f.resolved idx && match s.task? pe f.task with
    | some t => (match t.loop with | some l => l.uid != f.uid || l.fin | none => true)
    | none => true

/-- R188 lets the instruction fire: every lower-index instruction of its activation that names one of its resources has
resolved, the iterations stand at the index of LOOP, and iterations follow each other. -/
def Firing.inOrder (f : Firing) (s : State) (i : Instr) : Bool :=
  let rs := Instr.resources i (some f.a)
  let own := !f.fr.namesBetween 0 f.idx rs
  let past := match f.fr.cfg.loopIdx with
    | some n => decide (f.idx < n) || s.loopOver f.pe f.fr n || !s.bodyNames f.pe f.fr rs
    | none => true
  let outer := match f.fr.iter, s.task? f.pe f.fr.task with
    | some j, some t => (match t.loop with
        | some l => j == l.first + l.committed * l.step &&
            (match s.frameOf f.pe l.frame l.uid with
              | some p => !p.namesBetween 0 l.idx rs
              | none => true)
        | none => true)
    | _, _ => true
  own && past && outer

/-- An accumulator of a PE. -/
def State.acc (s : State) (pe z : Nat) : Acc := s.pe.accs.getD (pe * 8 + z) Acc.reset

/-- Replace it. -/
def State.setAcc (s : State) (pe z : Nat) (a : Acc) : State := { s with pe := { s.pe with accs := s.pe.accs.put (pe * 8 + z) a } }

/-- No other task has claimed the accumulator that the instruction names (R187). -/
def Firing.claimFree (f : Firing) (s : State) (z : Option (BitVec 3)) : Bool :=
  match z with
  | none => true
  | some z => match (s.acc f.pe z.toNat).claim with
    | none => true
    | some o => o == (f.fr.ctx, f.fr.task)

/-- Claim an accumulator (R187): one that comes from another context is cleared first. -/
def Firing.claim (f : Firing) (s : State) (z : BitVec 3) : State :=
  let a := s.acc f.pe z.toNat
  s.setAcc f.pe z.toNat
    { a with val := if a.last = some f.fr.ctx then a.val else AccVal.reset, claim := some (f.fr.ctx, f.fr.task), last := some f.fr.ctx }

/-- The claim of an instruction that fires, whatever it comes to (R187; DEDUCED, assumption log 109). -/
def Firing.claimed (f : Firing) (s : State) (z : Option (BitVec 3)) : State :=
  match z with
  | none => s
  | some z => f.claim s z

/-- An instruction of the chapter in focus issues: it is held for its order (R188), for what its own entry waits for, and, otherwise ready to
fire, while another task has its accumulator (R187, R205). One that sends nulls is held alike. -/
def State.issueInOrder (s : State) (f : Firing) (i : Instr) (z : Option (BitVec 3)) (body : Body) : State :=
  if predMismatch f.h f.c then s.mismatch f.key f.idx i (f.consumed i)
  else if !f.inOrder s i then s.waitAt f .order
  else if f.nulled i then (if f.claimFree s z then (f.claimed s z).fireNull f i else s.waitAt f .accumulator)
  else match body f s with
    | .error (.wait r) => s.waitAt f r
    | .error (.hold r l) => s.holdAt f r l
    | r => if f.claimFree s z then (f.claimed s z).conclude f i r else s.waitAt f .accumulator

/-- Fire the instruction in focus in the order of R188; `z` is the accumulator it names. -/
def fireInOrder (i : Instr) (z : Option (BitVec 3)) (body : Body) (s : State) : Host.Outcome State Fault Refusal :=
  match s.firing i with
  | none => .fault (.notEnabled "instruction")
  | some f => .next (s.issueInOrder f i z body)

/-- The first change of an activation leaves the accumulator's shadow (R189). -/
def Firing.shadowed (f : Firing) (a : Acc) : Acc :=
  match a.shadow with
  | some (u, _) => if u = f.fr.uid then a else { a with shadow := some (f.fr.uid, a.val) }
  | none => { a with shadow := some (f.fr.uid, a.val) }

/-- A new value of an accumulator; flags are sticky (R194). -/
def Firing.writeAcc (f : Firing) (s : State) (z : BitVec 3) (v : AccVal) : State :=
  s.setAcc f.pe z.toNat { f.shadowed (s.acc f.pe z.toNat) with val := v }

/-- The five flags of an accumulator among those of an operation (R186). -/
def accFlags (fl : Flags) : BitVec 5 := fl.truncate 5

/-- Take a tlm number, complete it, and send it (R206). -/
def Firing.sendNumber (f : Firing) (s : State) : Done :=
  let r := s.takeNumber f.fr.ctx f.pe .tlm
  Done.scalar (r.1.completeNumber f.fr.ctx f.pe .tlm r.2) (wordOf r.2)

/-! ### Products (R190 to R193) -/

/-- A 16 × 16 operand: its valid region, channel and codes. -/
structure MatIn where
  rows : Nat
  cols : Nat
  ch : ChanFmt
  codes : List Nat
  deriving DecidableEq, Repr

/-- A tile operand. -/
def TileIn.mat (t : TileIn) : MatIn := { rows := t.rows, cols := t.cols, ch := t.ch, codes := t.slot.codes }

/-- A 16-bit floating-point format. -/
def isHalf (f : Fmt) : Bool := f == .fp bf16 || f == .fp fp16

/-- An 8-bit binary floating-point format. -/
def isByteFp (f : Fmt) : Bool := f == .fp e4m3 || f == .fp e5m2

/-- INT8 with scale 0. -/
def isPlainInt8 (c : ChanFmt) : Bool := c.fmt == .int 8 && c.scale == 0

/-- The mode of a pair (R190): true for INT32; none where the pair is no pair. -/
def pairMode (a b : ChanFmt) : Option Bool :=
  if (isHalf a.fmt && isHalf b.fmt) || (isByteFp a.fmt && isByteFp b.fmt) || (a.fmt == .dm8 && b.fmt == .dm8) then some false
  else if isPlainInt8 a && isPlainInt8 b then some true
  else none

/-- A number over its smallest denominator. -/
def Num.lowest : Num → Num
  | .fin s n d => .fin s (n / Nat.gcd n d) (d / Nat.gcd n d)
  | v => v

/-- The exact sum of terms, with the special cases of R191: whatever the order, a NaN or infinities of both signs give NaN. -/
def sumTerms (l : List NumF) : NumF :=
  let fl := l.foldl (fun m t => m ||| t.2) (0 : Flags)
  let pos := l.any fun t => t.1 == .inf false
  let neg := l.any fun t => t.1 == .inf true
  let fl := fl ||| flagIf (pos && neg) flagNV
  if l.any (fun t => t.1.isNan) || (pos && neg) then (.nan false, fl)
  else if pos then (.inf false, fl)
  else if neg then (.inf true, fl)
  else (l.foldl (fun m t => (m.add t.1).1.lowest) .zero, fl)

/-- round_fp32 (R191): every zero is written +0. -/
def roundAcc (v : NumF) : Nat × Flags :=
  let r := fp32.result v
  (if r.1 = 0x80000000 then 0 else r.1, r.2)

/-- An accumulator element as a number (R186). -/
def AccVal.num (v : AccVal) (i : Nat) : Num :=
  if v.int then Num.ofInt (signedOf 32 (nthD v.elems i 0)) else fp32.decode (nthD v.elems i 0)

/-- A term that is an old value: NV where it signals. -/
def oldTerm (v : Num) : NumF := (v, sigNV [v])

/-- A new element of MMA (R191, R192): the old value and the products over the common range. -/
def mmaElem (old : Num) (int : Bool) (a b : MatIn) (i : Nat) : Nat × Flags :=
  let ks := List.range (min a.cols b.rows + 1)
  let p := fun k => (a.ch.decode (nthD a.codes (i / 16 * 16 + k) 0)).mul (b.ch.decode (nthD b.codes (k * 16 + i % 16) 0))
  let sum := sumTerms (oldTerm old :: ks.map p)
  if int then
    match sum.1 with
    | .fin s n d =>
      let v := signedNum s (n / d)
      (wrapNat 32 v, flagIf (decide (v < -2 ^ 31 ∨ 2 ^ 31 ≤ v)) flagOF)
    | _ => (0, 0)
  else roundAcc sum

/-- The accumulator after MMA (R190, R191). -/
def AccVal.mma (v : AccVal) (init int : Bool) (a b : MatIn) : AccVal :=
  let zeroed := v.int != int
  let l := (List.range 256).map fun i =>
    if inRegion a.rows b.cols i then mmaElem (if init then .zero else v.num i) int a b i
    else (if zeroed then 0 else nthD v.elems i 0, 0)
  { elems := l.map Prod.fst, int := int, flags := v.flags ||| accFlags (l.foldl (fun m p => m ||| p.2) 0) }

/-- The steps of MMA and MMAR from their pair on: the state with the accumulator written. -/
def Firing.multiply (f : Firing) (s : State) (x : AccX) (a b : MatIn) : Except Stop State :=
  match pairMode a.ch b.ch with
  | none => failWith .operand
  | some int =>
    let s1 := f.claim s x.z
    let v := (s1.acc f.pe x.z.toNat).val
    if !x.init && v.int != int then failWith .operand
    else .ok (f.writeAcc s1 x.z (v.mma x.init int a b))

/-- MMA (R208). -/
def mmaBody (x : AccX) : Body := fun f s => do
  let a ← f.tile s f.a
  let b ← f.tile s f.b
  let s1 ← f.multiply s x a.mat b.mat
  .ok (f.sendNumber s1)

/-! ### Rings (R195 to R197, R209, R215, R216) -/

/-- A ring bound to the executing task with no error (R196, R197). -/
def Firing.ownRing (f : Firing) (s : State) (q : Nat) : Except Stop Ring :=
  let r := s.ring f.pe q
  if r.bound ≠ some (f.fr.ctx, f.fr.task) ∨ r.error = true then failWith .operand else .ok r

/-- The place of the oldest complete entry that no earlier instruction of an activation has marked (R197). -/
def Ring.nextPop (r : Ring) (uid : Nat) : Nat :=
  ((List.range r.complete.length).find? fun i => !r.marks.contains (uid, (r.head + i) % 2 ^ 32)).getD r.complete.length

/-- That entry. -/
def Firing.unmarked (f : Firing) (r : Ring) : Except Stop RingEntry :=
  match r.complete[r.nextPop f.fr.uid]? with
  | some e => .ok e
  | none => .error (.wait .ring)

/-- Mark that entry for popping at commit. -/
def Firing.markPop (f : Firing) (s : State) (q : Nat) : State :=
  let r := s.ring f.pe q
  s.setRing f.pe q { r with marks := (f.fr.uid, (r.head + r.nextPop f.fr.uid) % 2 ^ 32) :: r.marks }

/-- The sequence number after the last complete entry (R196). -/
def Ring.tail (r : Ring) : Nat := (r.head + r.complete.length) % 2 ^ 32

/-- Entries that are complete, pending or arriving (R197). -/
def Ring.used (r : Ring) : Nat := r.complete.length + r.ready.length + r.pushed.length + r.arriving.length

/-- An entry beyond tail is pending, whole or arriving. -/
def Ring.taken (r : Ring) (seq : Nat) : Bool :=
  r.pushed.any (fun p => p.2.1 == seq) || r.ready.any (fun p => p.1 == seq) || r.arriving.any fun a => a.seq == seq

/-- The number of the next free entry (R197): those that a copy's packets are filling are not free. -/
def Ring.nextFree (r : Ring) : Nat := (((List.range 16).map fun n => (r.tail + n) % 2 ^ 32).find? fun n => !r.taken n).getD r.tail

/-- Tail advances over whole entries in sequence order (R198). -/
def Ring.advance : Nat → Ring → Ring
  | 0, r => r
  | n + 1, r =>
    match r.ready.find? fun p => p.1 == r.tail with
    | none => r
    | some p => Ring.advance n { r with complete := r.complete ++ [p.2], ready := r.ready.filter fun q => q.1 != r.tail }

/-- The channel of a ring, whose width is the ring's (check 3 of R159). -/
def Firing.ringChan (f : Firing) (r : Ring) : Except Stop ChanFmt := do
  let ch ← f.x.chanFmt r.fc
  if ch.fmt.width ≠ r.width then failWith .operand else .ok ch

/-- MMAR (R209). -/
def mmarBody (x : AccX) : Body := fun f s => do
  let a ← tileScalar f.a
  let ra := bitsAt a 0 3
  let rb := bitsAt a 4 3
  if a / 2 ^ 8 ≠ 0 ∨ ra = rb then failWith .operand
  else do
    let qa ← f.ownRing s ra
    let qb ← f.ownRing s rb
    let ca ← f.ringChan qa
    let cb ← f.ringChan qb
    let _ ← match pairMode ca cb with | some _ => Except.ok () | none => failWith .operand
    let ea ← f.unmarked qa
    let eb ← f.unmarked qb
    let s1 ← f.multiply s x { rows := ea.rows, cols := ea.cols, ch := ca, codes := ea.codes }
      { rows := eb.rows, cols := eb.cols, ch := cb, codes := eb.codes }
    let s2 := if bitAt a 3 then s1 else f.markPop s1 ra
    let s3 := if bitAt a 7 then s2 else f.markPop s2 rb
    .ok (f.sendNumber s3)

/-- The status word (R215). -/
def Ring.status (r : Ring) (ctx task : Nat) : Word :=
  wordOf (r.head % 2 ^ 32 * 2 ^ 32 + bit (r.bound == some (ctx, task)) * 2 ^ 15 + bit r.error * 2 ^ 14 + r.fc * 2 ^ 9 +
    (r.depth - 1) * 2 ^ 5 + r.complete.length)

/-- An effect of an RCFG on a ring. -/
def Effect.configures (q : Nat) : Effect → Bool
  | .ringCfg p _ => p == q
  | _ => false

/-- RCFG (R216): the binding takes effect as it performs; until its activation commits, an unbound ring's granules are kept for a discard, and
another task that would bind it waits (DEDUCED, assumption log 22). Unbinding a ring that nobody holds raises OPERAND as one bound elsewhere does,
and the status word is that of the ring as RCFG leaves it (DESIGN CHOICE, assumption log 95). -/
def rcfgBody (w : RingW) : Body := fun f s => do
  let q := w.ring.toNat
  let r := s.ring f.pe q
  let me := (f.fr.ctx, f.fr.task)
  let new ←
    if w.unbind then (if r.bound = some me then .ok { Ring.reset with undo := if f.fr.isKept then none else if f.fr.held.any (Effect.configures q) then r.undo else some (f.fr.uid, r.granules) }
      else failWith .operand)
    else if r.bound.isSome then failWith .operand
    else if r.undo.any fun u => u.1 != f.fr.uid then .error (.wait .ring)
    else do
      let ch ← f.x.chanFmt w.fc.toNat
      let n := (w.depth.toNat + 1) * widthGranules ch.fmt.width
      if s.granulesFree f.pe < n || s.olderWaits f .tiles then .error (.wait .tiles)
      else .ok { Ring.reset with bound := some me, fc := w.fc.toNat, width := ch.fmt.width, depth := w.depth.toNat + 1, undo := r.undo }
  .ok (Done.scalar (((s.setRing f.pe q new).tellHeads f.pe q).hold f.key (.ringCfg q r)) (new.status f.fr.ctx f.fr.task))

/-- RPUSH (R216): the entry is complete at commit (R197). -/
def rpushBody (w : RingW) : Body := fun f s => do
  let q := w.ring.toNat
  let r ← f.ownRing s q
  if r.depth ≤ r.used then .error (.wait .ring)
  else do
    let t ← f.tile s f.a
    if hFc t.h ≠ r.fc then failWith .operand
    else
      let e : RingEntry := { rows := t.rows, cols := t.cols, nonfinite := t.slot.nonfinite, codes := t.slot.codes }
      .ok (Done.scalar (s.setRing f.pe q { r with pushed := r.pushed ++ [(f.fr.uid, r.nextFree, e)] }) (wordOf r.nextFree))

/-- RPOP (R216). -/
def rpopBody (w : RingW) : Body := fun f s => do
  let r ← f.ownRing s w.ring.toNat
  let e ← f.unmarked r
  f.sendTile (f.markPop s w.ring.toNat) []
    { fc := r.fc, rows := e.rows, cols := e.cols, width := r.width, nf := e.nonfinite, codes := e.codes, flags := 0 }

/-- RSTAT (R216). -/
def rstatBody (w : RingW) : Body := fun f s => do
  let r ← f.ownRing s w.ring.toNat
  .ok (Done.scalar s (r.status f.fr.ctx f.fr.task))

/-! ### Accumulator word instructions (R210, R211) -/

/-- An accumulator of zeros in a mode (R211). -/
def AccVal.zeros (int : Bool) (flags : BitVec 5) : AccVal := { elems := List.replicate 256 0, int := int, flags := flags }

/-- ZINIT (R211). -/
def zinitBody (w : AccW) : Body := fun f s => do
  let s1 := f.claim s w.z
  .ok (f.sendNumber (f.writeAcc s1 w.z (AccVal.zeros w.mode (if w.clr then 0 else (s1.acc f.pe w.z.toNat).val.flags))))

/-- ZCLRF (R211). -/
def zclrfBody (w : AccW) : Body := fun f s => do
  let s1 := f.claim s w.z
  .ok (f.sendNumber (f.writeAcc s1 w.z { (s1.acc f.pe w.z.toNat).val with flags := 0 }))

/-- ZFLAGS (R211). -/
def zflagsBody (w : AccW) : Body := fun f s => do
  let s1 := f.claim s w.z
  let v := (s1.acc f.pe w.z.toNat).val
  .ok (Done.scalar s1 (wordOf (v.flags.toNat + bit v.int * 2 ^ 8)))

/-- Every element of an accumulator from a rounding of its value. -/
def AccVal.mapRound (v : AccVal) (g : Num → NumF) : AccVal :=
  let l := (List.range 256).map fun i => roundAcc (g (v.num i))
  { v with elems := l.map Prod.fst, flags := v.flags ||| accFlags (l.foldl (fun m p => m ||| p.2) 0) }

/-- ZSCALE (R211). -/
def zscaleBody (w : AccW) : Body := fun f s => do
  let a ← tileScalar f.a
  let s1 := f.claim s w.z
  let v := (s1.acc f.pe w.z.toNat).val
  if v.int then failWith .operand
  else .ok (f.sendNumber (f.writeAcc s1 w.z (v.mapRound fun x => x.mul (fp32.decode (a % 2 ^ 32)))))

/-- The accumulator after ZLOAD (R211). -/
def AccVal.load (v : AccVal) (int : Bool) (t : TileIn) : AccVal :=
  let zeroed := v.int != int
  let elem := fun i =>
    if int then (wrapNat 32 (match t.val i with | .fin sg n d => signedNum sg (n / d) | _ => 0), (0 : Flags))
    else roundAcc (oldTerm (t.val i))
  let l := (List.range 256).map fun i =>
    if inRegion t.rows t.cols i then elem i else (if zeroed then 0 else nthD v.elems i 0, 0)
  { elems := l.map Prod.fst, int := int, flags := v.flags ||| accFlags (l.foldl (fun m p => m ||| p.2) 0) }

/-- ZLOAD (R211). -/
def zloadBody (w : AccW) : Body := fun f s => do
  let a ← f.tile s f.a
  let whole := (a.ch.fmt == .int 8 || a.ch.fmt == .int 32) && a.ch.scale == 0
  if w.mode && !whole then failWith .operand
  else
    let s1 := f.claim s w.z
    .ok (f.sendNumber (f.writeAcc s1 w.z ((s1.acc f.pe w.z.toNat).val.load w.mode a)))

/-! ### The epilogue processor (R200 to R202) -/

/-- A checked epilogue operation (R201). -/
inductive EpOp where
  | nop
  | addRow (t : TileIn)
  | addCol (t : TileIn)
  | mul (v : Num)
  | scale10 (n : Int)
  | maxZero
  | clamp (lo hi : Num)
  | unary (fn : UnFn)
  | accum
  | convert (mode : RMode) (fc : Nat) (ch : ChanFmt)
  | mask (rows cols : Nat)
  | store
  deriving DecidableEq, Repr

/-- The operations of a slot up to EEND; none where no EEND stands within the 32 (R202). -/
def untilEnd : List Nat → Option (List Nat)
  | [] => none
  | w :: t => if w / 2 ^ 12 % 16 = 0xF then (if w % 2 ^ 12 = 0 then some [] else none) else (untilEnd t).map fun l => w :: l

/-- A rounding mode of ECVT (R201). -/
def epMode (m : Nat) : Option RMode := RMode.ofCode m

/-- Check one operation (R202). -/
def Firing.epOp (f : Firing) (s : State) (w : Nat) : Except Stop EpOp :=
  let arg := nthD (s.pctx f.fr.ctx f.pe).eargs (w % 8) zeroTok
  let field := w % 2 ^ 12
  let noField := fun (o : EpOp) => if field = 0 then Except.ok o else failWith .operand
  let vector := fun (row : Bool) => do
    if field / 8 ≠ 0 ∨ arg.kind ≠ .tile then failWith .operand
    else
      let t ← (match f.tile s arg with
        | .ok t => Except.ok t
        | .error _ => failWith .operand)
      if (if row then t.rows else t.cols) ≠ 0 then failWith .operand else .ok (if row then EpOp.addRow t else EpOp.addCol t)
  let scalarArg := fun (o : EpOp) => if field / 8 ≠ 0 ∨ arg.kind = .tile then failWith .operand else Except.ok o
  let v := arg.val.toNat
  match w / 2 ^ 12 % 16 with
  | 0 => noField .nop
  | 1 => vector true
  | 2 => vector false
  | 3 => scalarArg (.mul (fp32.decode (v % 2 ^ 32)))
  | 4 => if field / 2 ^ 6 ≠ 0 then failWith .operand else .ok (.scale10 (signedOf 6 field))
  | 5 => noField .maxZero
  | 6 => scalarArg (.clamp (fp32.decode (v % 2 ^ 32)) (fp32.decode (v / 2 ^ 32)))
  | 7 => noField (.unary .exp)
  | 8 => noField (.unary .tanh)
  | 9 => noField (.unary .sigm)
  | 10 => noField (.unary .gelu)
  | 11 => noField .accum
  | 12 =>
    match (if field / 2 ^ 8 = 0 then epMode (bitsAt field 5 3) else none), chanOf (f.x.chan (field % 32)) with
    | some m, some ch => .ok (.convert m (field % 32) ch)
    | _, _ => failWith .operand
  | 13 => if field / 2 ^ 8 ≠ 0 then failWith .operand else .ok (.mask (bitsAt field 4 4) (bitsAt field 0 4))
  | _ => noField .store

/-- Only EMASK and ENOP may follow ESTORE (R202). -/
def afterStore : List EpOp → Bool
  | [] => true
  | .nop :: t => afterStore t
  | .mask _ _ :: t => afterStore t
  | _ :: _ => false

/-- Exactly one ESTORE, with nothing but EMASK and ENOP after it (R202). -/
def storesOnce : List EpOp → Bool
  | [] => false
  | .store :: t => afterStore t
  | _ :: t => storesOnce t

/-- The program of a slot, checked (R202). -/
def Firing.program (f : Firing) (s : State) (slot : Nat) : Except Stop (List EpOp) :=
  match untilEnd (((s.pctx f.fr.ctx f.pe).progs.drop (slot * 32)).take 32) with
  | none => failWith .operand
  | some ws => do
    let ops ← ws.mapM (f.epOp s)
    if storesOnce ops then .ok ops else failWith .operand

/-- The channel the last ECVT of a program names (R213). -/
def lastChannel (ops : List EpOp) (fc : Nat) (ch : ChanFmt) : Nat × ChanFmt :=
  ops.foldl (fun m o => match o with
    | .convert _ n c => (n, c)
    | _ => m) (fc, ch)

/-- An element is inside every EMASK of a program. -/
def maskHolds (ops : List EpOp) (i : Nat) : Bool :=
  ops.all fun o => match o with
    | .mask r c => inRegion r c i
    | _ => true

/-- A real function rounded as round32 rounds (R200). -/
def unary32 (fn : UnFn) (x : Num) : NumF :=
  let p := unaryBy (fun r => let q := fp32.result r
    { code := q.1, flags := q.2, sat := false }) fn x
  (fp32.decode p.code, p.flags)

/-- One operation on the working value of element i, with the flags so far (R201). -/
def Firing.epStep (f : Firing) (d : Num) (i : Nat) (x : NumF) (o : EpOp) : NumF :=
  let then_ := fun (v : NumF) => (v.1, x.2 ||| v.2)
  match o with
  | .nop | .mask _ _ | .store => x
  | .addRow t => then_ (round32 (x.1.add (if i % 16 ≤ t.cols then t.val (i % 16) else .zero)))
  | .addCol t => then_ (round32 (x.1.add (if i / 16 ≤ t.rows then t.val (i / 16 * 16) else .zero)))
  | .mul v => then_ (round32 (x.1.mul v))
  | .scale10 n => (match x.1 with
      | .fin sg a b => (.fin sg (scaled10 a b n).1 (scaled10 a b n).2, x.2)
      | v => (v, x.2))
  | .maxZero => then_ (pickNum true x.1 .zero)
  | .clamp lo hi =>
    let u := pickNum true x.1 lo
    let v := pickNum false u.1 hi
    (v.1, x.2 ||| u.2 ||| v.2)
  | .unary fn => then_ (unary32 fn x.1)
  | .accum => then_ (round32 (x.1.add d))
  | .convert m _ ch =>
    let p := convert x.1 ch (f.rounding m i)
    (ch.decode p.code, x.2 ||| p.flags)

/-- What a drain's destination is: its channel, valid region and codes (R213). -/
structure DrainTo where
  fc : Nat
  ch : ChanFmt
  rows : Nat
  cols : Nat
  codes : List Nat
  deriving DecidableEq, Repr

/-- The codes a drain gives, with their flags, and the channel they are in (R213). -/
def Firing.drain (f : Firing) (v : AccVal) (ops : List EpOp) (d : DrainTo) (out : ChanFmt) : List Nat × Flags :=
  let l := (List.range 256).map fun i =>
    let old := nthD d.codes i 0
    if !inRegion d.rows d.cols i then (old, (0 : Flags))
    else
      let x := ops.foldl (f.epStep (d.ch.decode old) i) (v.num i, 0)
      if maskHolds ops i then
        let p := put x.1 out
        (p.code, x.2 ||| p.flags)
      else (old, x.2)
  (l.map Prod.fst, l.foldl (fun m p => m ||| p.2) 0)

/-- The steps of ZDRAIN from its claim on, with the references it consumes (R213). -/
def Firing.drainTo (f : Firing) (s : State) (z : BitVec 3) (w : DrainW) (d : DrainTo) (used : List Tok) : Except Stop Done := do
  let ops ← if w.ep then f.program s w.slot.toNat else .ok []
  let out := lastChannel ops d.fc d.ch
  if out.2.fmt.width ≠ d.ch.fmt.width then failWith .operand
  else
    let s1 := f.claim s z
    let v := (s1.acc f.pe z.toNat).val
    let r := f.drain v ops d out.2
    let s2 := f.writeAcc s1 z { v with flags := v.flags ||| accFlags r.2 }
    let t := s2.takeNumber f.fr.ctx f.pe .tlm
    f.sendTile (t.1.completeNumber f.fr.ctx f.pe .tlm t.2) used
      { fc := out.1, rows := d.rows, cols := d.cols, width := out.2.fmt.width
        nf := regionNonfinite out.2.fmt d.rows d.cols r.1, codes := r.1, flags := 0 }

/-- A drain's fresh destination (R213). -/
def Firing.freshDest (f : Firing) (w : DrainW) : Except Stop DrainTo := do
  let ch ← f.x.chanFmt w.fc.toNat
  .ok { fc := w.fc.toNat, ch := ch, rows := w.rows.toNat, cols := w.cols.toNat, codes := List.replicate 256 0 }

/-- ZDRAIN (R212, R213). -/
def zdrainBody (z : BitVec 3) (w : DrainW) : Body := fun f s => do
  if w.fromA then do
    let a ← f.tile s f.a
    f.drainTo s z w { fc := hFc a.h, ch := a.ch, rows := a.rows, cols := a.cols, codes := a.slot.codes } [f.a]
  else do
    let d ← f.freshDest w
    f.drainTo s z w d []

/-- Step 0 of an expansion has performed: the instruction is ready for step 1, and the references of its operands are gone. -/
def Firing.step (f : Firing) (s : State) : State :=
  (s.modFrame f.key fun fr => { fr with stepped := f.idx :: fr.stepped, lost := f.handleSlots ++ fr.lost }).dropToks f.pe (f.fr.heldAt f.idx)

/-- TMAC (R64, R214): step 0 is MMA, and step 1, once that has performed, ZDRAIN of its accumulator. -/
def tmacBody (x : AccX) (w : DrainW) : Body := fun f s =>
  if f.fr.stepped.contains f.idx then stepOf 1 do
    let d ← f.freshDest w
    f.drainTo s x.z w d []
  else stepOf 0 do
    let a ← f.tile s f.a
    let b ← f.tile s f.b
    let s1 ← f.multiply s x a.mat b.mat
    let t := s1.takeNumber f.fr.ctx f.pe .tlm
    .ok { st := f.step (t.1.completeNumber f.fr.ctx f.pe .tlm t.2), again := true }

/-! ### EPLOAD and EPARG (R217) -/

/-- EPLOAD (R217): four operations of a slot. -/
def eploadBody (w : EploadW) : Body := fun f s => do
  let a ← tileScalar f.a
  let p := s.pctx f.fr.ctx f.pe
  let at_ := w.slot.toNat * 32 + 4 * w.group.toNat
  let progs := (List.range 4).foldl (fun l k => setAt (at_ + k) (bitsAt a (16 * k) 16) l) p.progs
  .ok (Done.scalar (s.setPctx f.fr.ctx f.pe { p with progs := progs }) 0)

/-- EPARG (R217): the register holds the operand's reference, and the reference it held is released. -/
def epargBody (w : EpargW) : Body := fun f s => do
  let p := s.pctx f.fr.ctx f.pe
  let old := nthD p.eargs w.arg.toNat zeroTok
  let s1 := s.setPctx f.fr.ctx f.pe { p with eargs := setAt w.arg.toNat f.a p.eargs }
  .ok { Done.scalar (s1.dropTok f.pe old) 0 with keep := [f.a] }

/-! ### Matrix operand packets (R198, R199) -/

/-- Elements of a beat: little-endian codes of a width code. -/
def codesOf (w : Nat) : Nat → List Byte → List Nat
  | 0, _ => []
  | n + 1, l => let k := 2 ^ w
    leNat (l.take k) :: codesOf w n (l.drop k)

/-- An arrival with its last beat is an entry (R198); its nonfinite bit is found through the ring's channel as it is now. -/
def Ring.complete1 (r : Ring) (x : Option Ctx) (a : RingArrival) : Ring :=
  if a.beats.length ≠ 4 * 2 ^ r.width then { r with arriving := r.arriving.filter (fun b => b.seq != a.seq) ++ [a] }
  else
    let codes := codesOf r.width 256 ((List.range (4 * 2 ^ r.width)).flatMap fun b =>
      match a.beats.find? fun p => p.1 == b with | some p => p.2 | none => [])
    let nf := match x.bind fun x => chanOf (x.chan r.fc) with
      | some ch => regionNonfinite ch.fmt a.rows a.cols codes
      | none => false
    Ring.advance 16 { r with ready := r.ready ++ [(a.seq, { rows := a.rows, cols := a.cols, nonfinite := nf, codes := codes })]
                             arriving := r.arriving.filter fun b => b.seq != a.seq }

/-- A packet's fixed fields hold what R198 requires. -/
def packetGood (raw : BitVec 128) : Bool :=
  rawField raw 102 24 == 0 && rawField raw 96 2 == 0 && rawField raw 71 10 == 0 && rawField raw 67 4 == 0 && rawField raw 10 14 == 0 &&
    rawField raw 0 6 == 0

/-- A ring takes a packet, or discards it and marks its error (R198, R199). One for an entry that a pending RPUSH holds is discarded so too, a case that
R199 does not list (DESIGN CHOICE, assumption log 122). -/
def State.takePacket (s : State) (raw : BitVec 128) (data : List Byte) : State :=
  let pe := rawField raw 81 11
  let q := rawField raw 64 3
  let r := s.ring pe q
  let seq := rawField raw 32 32
  let rows := rawField raw 28 4
  let cols := rawField raw 24 4
  let beat := rawField raw 6 4
  match r.bound with
  | none => s
  | some (c, _) =>
    let ahead := (seq + 2 ^ 32 - r.tail) % 2 ^ 32
    let cur := r.arriving.find? fun a => a.seq == seq
    let bad := s.slotOf c != rawField raw 92 4 || !packetGood raw || decide (r.depth ≤ r.complete.length + ahead) ||
      decide (4 * 2 ^ r.width ≤ beat) ||
      (match cur with
        | some a => a.rows != rows || a.cols != cols || a.beats.any fun p => p.1 == beat
        | none => r.taken seq)
    if bad then s.setRing pe q { r with error := true }
    else
      let a : RingArrival := match cur with
        | some a => { a with beats := a.beats ++ [(beat, data)] }
        | none => { seq := seq, rows := rows, cols := cols, beats := [(beat, data)] }
      s.setRing pe q (r.complete1 (s.ctx? c) a)

/-- MATRIX_OPERAND_PACKET: one packet reaches its ring's handler. -/
def packetEvent (n : Nat) (s : State) : Option State :=
  match s.msg? n with
  | some e => if !s.first n e then none else match e.body with
    | .packet _ data _ => some ((s.taken n).takePacket e.wire data)
    | _ => none
  | none => none

/-! ### The spill area (R203, R204) -/

/-- Frame-store key of the spilled elements of an accumulator (R203). -/
def spillKey (pe z : Nat) : Nat := pe * 2 ^ 19 + (1984 + 4 * z) * 256

/-- Frame-store key of its state record (R203). -/
def spillRecordKey (pe z : Nat) : Nat := pe * 2 ^ 19 + 2016 * 256 + 64 * z

/-- Bytes of the spill areas from a key. -/
def State.spillBytes (s : State) (key n : Nat) : List Byte := (List.range n).map fun i => Memory.read s.pe.spills (key + i)

/-- Write bytes of the spill areas. -/
def State.setSpillBytes (s : State) (key : Nat) (l : List Byte) : State :=
  { s with pe := { s.pe with spills := l.zipIdx.foldl (fun m p => Memory.write m (key + p.2) p.1) s.pe.spills } }

/-- The state record of a spill (R204) in its 64 bytes. -/
def spillRecord (v : AccVal) (held : Bool) (slot task : Nat) : List Byte :=
  leBytes 8 (v.flags.toNat + bit v.int * 2 ^ 6 + slot % 8 * 2 ^ 7 + task % 16 * 2 ^ 11 + bit held * 2 ^ 15) ++ List.replicate 56 0

/-- The value, mode and flags in the spill area of an accumulator. -/
def State.spilled (s : State) (pe z : Nat) : AccVal :=
  let w := leNat (s.spillBytes (spillRecordKey pe z) 8)
  { elems := (List.range 256).map fun i => leNat (s.spillBytes (spillKey pe z + 4 * i) 4), int := bitAt w 6, flags := BitVec.ofNat 5 w }

/-- Write the spill area of an accumulator. -/
def State.setSpill (s : State) (pe z : Nat) (v : AccVal) (held : Bool) (slot task : Nat) : State :=
  (s.setSpillBytes (spillKey pe z) (v.elems.flatMap (leBytes 4))).setSpillBytes (spillRecordKey pe z) (spillRecord v held slot task)

/-! ### Urgent pre-emption (R205) -/

/-- The urgent instruction of a PE that waits longest for an accumulator: its frame and index. -/
def State.urgentFor (s : State) (pe z : Nat) : Option (Nat × Nat) :=
  let l := s.pe.frames.flatMap fun p =>
    if p.1 / 256 == pe && p.2.live && (match s.ctx? p.2.ctx with | some x => x.urgent && x.state.issues | none => false) then
      p.2.stat.filterMap fun q => match q.2, p.2.cfg.instr q.1 with
        | .waiting .accumulator, some i =>
          if (Instr.resources i (p.2.operand q.1 .a)).contains z then some (p.1, q.1, p.2.since.getD q.1 0) else none
        | _, _ => none
    else []
  (leastBy (fun t => t.2.2) l).map fun t => (t.1, t.2.1)

/-- Activations of a task pending on an accumulator that are not kept are discarded and queued again at once (R205 step 2). -/
def State.discardPending (s : State) (pe z ctx task : Nat) : State :=
  match (s.acc pe z).shadow with
  | none => s
  | some (u, _) =>
    match s.pe.frames.find? fun p => p.1 / 256 == pe && p.2.uid == u && p.2.ctx == ctx && p.2.task == task && p.2.isOpen with
    | none => s
    | some (k, f) =>
      if f.isKept then s
      else match s.discardAct k with
        | (s1, some a) => { s1 with pe := { s1.pe with queue := s1.pe.queue ++ [a] } }
        | (s1, none) => s1

/-- ACCUMULATOR_SPILL: an accumulator that a task of a normal context claims passes to the urgent instruction's task (R205). -/
def spillEvent (pe z : Nat) (s : State) : Option State :=
  match s.urgentFor pe z, (s.acc pe z).claim with
  | some (k, _), some (c, t) =>
    if (s.acc pe z).spill.isSome || (match s.ctx? c with | some x => x.urgent | none => false) then none
    else
      let s1 := s.discardPending pe z c t
      let a := s1.acc pe z
      match s.frame? k with
      | none => none
      | some f => some ((s1.setSpill pe z a.val true (s1.slotOf c) t).setAcc pe z
          { val := AccVal.reset, claim := some (f.ctx, f.task), last := some f.ctx, shadow := none
            spill := some { ctx := c, task := t, claimed := true, last := a.last } })
  | _, _ => none

/-- The restore at the urgent task's end (R205 step 6): the urgent context's flags were handled before. -/
def State.restoreAcc (s : State) (pe z : Nat) : State :=
  let a := s.acc pe z
  match a.spill with
  | none => s
  | some p =>
    let v := s.spilled pe z
    (s.setSpill pe z v false (s.slotOf p.ctx) p.task).setAcc pe z
      { val := v, claim := if p.claimed then some (p.ctx, p.task) else none, last := p.last, shadow := none, spill := none }

/-- MMA (R208). -/
def execMma (h : Hdr) (x : AccX) (s : State) : Host.Outcome State Fault Refusal := fireInOrder (.mma h x) (some x.z) (mmaBody x) s
/-- MMAR (R209). -/
def execMmar (h : Hdr) (x : AccX) (s : State) : Host.Outcome State Fault Refusal := fireInOrder (.mmar h x) (some x.z) (mmarBody x) s
/-- ZINIT (R211). -/
def execZinit (h : Hdr) (w : AccW) (s : State) : Host.Outcome State Fault Refusal := fireInOrder (.zinit h w) (some w.z) (zinitBody w) s
/-- ZCLRF (R211). -/
def execZclrf (h : Hdr) (w : AccW) (s : State) : Host.Outcome State Fault Refusal := fireInOrder (.zclrf h w) (some w.z) (zclrfBody w) s
/-- ZFLAGS (R211). -/
def execZflags (h : Hdr) (w : AccW) (s : State) : Host.Outcome State Fault Refusal := fireInOrder (.zflags h w) (some w.z) (zflagsBody w) s
/-- ZSCALE (R211). -/
def execZscale (h : Hdr) (w : AccW) (s : State) : Host.Outcome State Fault Refusal := fireInOrder (.zscale h w) (some w.z) (zscaleBody w) s
/-- ZLOAD (R211). -/
def execZload (h : Hdr) (w : AccW) (s : State) : Host.Outcome State Fault Refusal := fireInOrder (.zload h w) (some w.z) (zloadBody w) s
/-- ZDRAIN (R212, R213). -/
def execZdrain (h : Hdr) (z : BitVec 3) (w : DrainW) (s : State) : Host.Outcome State Fault Refusal := fireInOrder (.zdrain h z w) (some z) (zdrainBody z w) s
/-- TMAC (R64, R214). -/
def execTmac (h : Hdr) (x : AccX) (w : DrainW) (s : State) : Host.Outcome State Fault Refusal := fireInOrder (.tmac h x w) (some x.z) (tmacBody x w) s
/-- RCFG (R216). -/
def execRcfg (h : Hdr) (w : RingW) (s : State) : Host.Outcome State Fault Refusal := fireInOrder (.rcfg h w) none (rcfgBody w) s
/-- RPUSH (R216). -/
def execRpush (h : Hdr) (w : RingW) (s : State) : Host.Outcome State Fault Refusal := fireInOrder (.rpush h w) none (rpushBody w) s
/-- RPOP (R216). -/
def execRpop (h : Hdr) (w : RingW) (s : State) : Host.Outcome State Fault Refusal := fireInOrder (.rpop h w) none (rpopBody w) s
/-- RSTAT (R216). -/
def execRstat (h : Hdr) (w : RingW) (s : State) : Host.Outcome State Fault Refusal := fireInOrder (.rstat h w) none (rstatBody w) s
/-- EPLOAD (R217). -/
def execEpload (h : Hdr) (w : EploadW) (s : State) : Host.Outcome State Fault Refusal := fireInOrder (.epload h w) none (eploadBody w) s
/-- EPARG (R217). -/
def execEparg (h : Hdr) (w : EpargW) (s : State) : Host.Outcome State Fault Refusal := fireInOrder (.eparg h w) none (epargBody w) s
/-- MATRIX_OPERAND_PACKET (R198, R199). -/
def execMatrixOperandPacket (n : Nat) (s : State) : Host.Outcome State Fault Refusal := event "MATRIX_OPERAND_PACKET" (packetEvent n s)
/-- ACCUMULATOR_SPILL (R205). -/
def execAccumulatorSpill (pe : Nat) (z : Nat) (s : State) : Host.Outcome State Fault Refusal := event "ACCUMULATOR_SPILL" (spillEvent pe z s)

end Sys2Proof.Machine
end

