-- ==== Sys2Proof/Machine/Atomic.lean ====
section
/-! DEFINITION. Atomics and their engines (R267 to R274), arrival counters (R275 to R285) and barriers (R286 to R291). -/

namespace Sys2Proof.Machine

/-! ### Where things are (R252, R481) -/

/-- The package quad of the attach point of an HBM stack controller (R16, R481). -/
def stackQuad (stack : Nat) : Nat :=
  let d := stack / 2
  d * 64 + (if d < 4 then 0 else 7) * 8 + (if stack % 2 = 0 then 1 else 6)

/-- The package quad of a counter's location (R252, R481). -/
def counterQuad (cid : Nat) : Nat := if bitAt cid 23 then quadOfPe (bitsAt cid 12 11) else stackQuad (bitsAt cid 12 11)

/-- PKGNO (R482). -/
def State.pkgNo (s : State) : Nat := s.devNat 0x100 8

/-! ### Counts (R276, R279) -/

/-- saturate49 (R279), with whether it saturated. -/
def saturate49 (v : Int) : Int × Bool :=
  if v < -2 ^ 48 then (-2 ^ 48, true) else if 2 ^ 48 - 1 < v then (2 ^ 48 - 1, true) else (v, false)

/-- Add to a counter's count; an armed one that reaches zero fires (R279, R281). -/
def Counter.add (c : Counter) (d : Int) : Counter :=
  if c.isDone then c else
    let r := saturate49 (c.count + d)
    let c1 := { c with count := r.1, error := c.error || r.2 }
    if c1.armed && decide (0 ≤ c1.count) then
      { c1 with armed := false, cycle := (c1.cycle + 1) % 1024, isDone := !c1.cyclic, firing := c1.firing + 1 }
    else c1

/-- The status word (R276). -/
def Counter.status (c : Counter) (refused : Bool) : Word :=
  wordOf (bit c.armed * 2 ^ 63 + bit c.isDone * 2 ^ 62 + bit c.error * 2 ^ 61 + bit c.cyclic * 2 ^ 60 + bit refused * 2 ^ 59 +
    c.cycle % 1024 * 2 ^ 49 + wrapNat 49 c.count)

/-- A counter. -/
def State.counter? (s : State) (cid : Nat) : Option Counter := s.sync.counters.get? cid

/-- Replace a counter. -/
def State.setCounter (s : State) (cid : Nat) (c : Counter) : State := { s with sync := { s.sync with counters := s.sync.counters.put cid c } }

/-- Free a counter (R285): its segments go, and counts on their way are dropped. -/
def State.freeCounter (s : State) (cid : Nat) : State :=
  { s with sync := { s.sync with counters := s.sync.counters.del cid }
           net := s.net.filter fun p => match p.2.body with
             | .count c _ => c != cid
             | _ => true }

/-- Raise a counter's Error bit. -/
def State.counterError (s : State) (cid : Nat) : State :=
  match s.counter? cid with
  | some c => s.setCounter cid { c with error := true }
  | none => s

/-! ### The atomic engine (R267 to R274) -/

/-- The result of an operation on `n` bytes (R272): none where nothing is written. -/
def atomicNew (op : AtomOp) (n : Nat) (old b c : Nat) : Option Nat :=
  let m := 2 ^ (8 * n)
  let b := b % m
  let lt := fun (x y : Nat) => decide (signedOf (8 * n) x < signedOf (8 * n) y)
  match op with
  | .add => some ((old + b) % m)
  | .and => some (Nat.land old b)
  | .or => some (Nat.lor old b)
  | .xor => some (Nat.xor old b)
  | .min => some (if lt b old then b else old)
  | .max => some (if lt old b then b else old)
  | .minu => some (min old b)
  | .maxu => some (max old b)
  | .swap => some b
  | .cas => if old = b then some (c % m) else none

/-- The address of a request's line (R268). -/
def AtomReq.line (r : AtomReq) : Nat := r.pa / 64 * 64

/-- The engine of a request. -/
def AtomReq.engine (r : AtomReq) : Nat := (engineKey r.pa).getD 0

/-- Remove a request that was performed. -/
def State.delReq (s : State) (n : Nat) : State := { s with sync := { s.sync with reqs := s.sync.reqs.del n } }

/-- Replace the lines of an engine. -/
def State.setLine (s : State) (q : Nat) (l : Line) : State :=
  let e := s.engine q
  s.setEngine q { e with lines := mapIf (fun m => m.pa == l.pa) (fun _ => l) e.lines }

/-- A line with `n` bytes of a value put at an offset. -/
def Line.put (l : Line) (off n v : Nat) : Line :=
  { l with bytes := (List.range n).foldl (fun m i => setAt (off + i) (nthD (leBytes n v) i 0) m) l.bytes, dirty := true }

/-! ### Trace records at their engines (R456) -/

/-- What a PE's trace unit sends for a context: it belongs to no task. -/
def traceSrc (c pe : Nat) : Src := { Src.none with ctx := c, pe := pe, task := Config.taskSlots, frame := 0xFF }

/-- A trace write may reach its byte with the context's partition (R456, R471). -/
def State.traceReach (s : State) (part pa : Nat) : Bool :=
  if 2 ^ 52 ≤ pa then !isRefused pa
  else match regionOf pa with
    | .hbm _ => s.ownerOf pa == part
    | .tile pe off => decide (2 ^ 21 - s.aperture pe ≤ off)
    | _ => false

/-- A PE's trace unit sends a request to an engine (R456): none to a page that is not the context's partition's (R471; DESIGN CHOICE, assumption log 71). -/
def State.traceReq (s : State) (src : Src) (part pa : Nat) (p : AtomFor) : State :=
  if !s.traceReach part pa then s
  else
    let req : AtomReq := { src := src, bank := pa / 64 % 4, arrival := s.sched.cycle, near := homeQuad pa == some (quadOfPe src.pe) && decide (pa < 2 ^ 52)
                           va := pa, pa := pa, size := 8, op := .add, b := 1, c := 0, release := p.types, stream := 8, dests := [], tla := 0
                           accepted := none, purpose := p, refused := false }
    State.bump { s with sync := { s.sync with reqs := s.sync.reqs.put s.sched.serial req } }

/-- A record is generated: its index is to be claimed at its header's engine (R456). -/
def State.sendTrace (s : State) (src : Src) (t : TraceWrite) : State := s.traceReq src t.part t.header (.claim t)

/-- A record is dropped: Lost is to be counted (R456). -/
def State.loseTrace (s : State) (src : Src) (t : TraceWrite) : State := s.traceReq src t.part t.header (.lost t)

/-- Bytes 63–1 of a record whose index was claimed are on their way (R456). -/
def State.traceBytes (s : State) (src : Src) (t : TraceWrite) (w : Nat) : State :=
  let at_ := runAt t.pages (64 * (w % t.slots))
  if !s.traceReach t.part at_ then s.loseTrace src t
  else
    let cells := (List.range 63).map fun i => (at_ + 1 + i, 1 + i)
    s.addAccess { src := src, stream := 8, lsid := 0, write := true, released := true, cells := cells, buf := t.bytes, pieces := piecesOf cells, dests := []
                  extra := [], purpose := .trace t, state := .active, refused := [], step := none, issued := 0, prior := [], fwd := [] }

/-- An engine performs a request of a trace unit on a line it holds (R456): a claim where the buffer is full adds 1 to Lost instead. -/
def State.performTrace (s : State) (q n : Nat) (r : AtomReq) (l : Line) : State :=
  let count := l.put 16 8 ((fieldAt l.bytes 16 8 + 1) % 2 ^ 64)
  let w := fieldAt l.bytes 0 8
  match r.purpose with
  | .claim t =>
    if l.poisoned || (w + 2 ^ 64 - fieldAt l.bytes 8 8) % 2 ^ 64 == t.slots then (s.setLine q count).delReq n
    else ((s.setLine q (l.put 0 8 ((w + 1) % 2 ^ 64))).delReq n).traceBytes r.src t w
  | .typed t =>
    if l.poisoned then (s.delReq n).loseTrace r.src t
    else (s.setLine q (l.put 0 1 (fieldAt t.bytes 0 1))).delReq n
  | _ => (s.setLine q count).delReq n

/-- An atomic reaches a poisoned line (R270): it performs nothing, raises UNCORRECTABLE, and its targets receive nulls. -/
def State.atomPoisoned (s : State) (q n : Nat) (r : AtomReq) : State :=
  let e : Fail := { code := .uncorrectable, detail := wordOf (r.pa / 64 * 64) }
  match r.purpose with
  | .instr _ =>
    let s1 := ((s.delReq n).raiseAt r.src e).completeNumber r.src.ctx r.src.pe .tla r.tla
    (s1.reply (.quad q) 3 r.dests nullTok r.src).sweepHolds
  | .signal c => (s.delReq n).abortCopy c e
  | .claim _ | .typed _ | .lost _ => s

/-- An engine performs a request on a line it holds (R272). -/
def State.performAtom (s : State) (q n : Nat) (r : AtomReq) : State :=
  match (s.engine q).lines.find? fun l => l.pa == r.line with
  | none => s
  | some l =>
    if r.purpose.traces then s.performTrace q n r l
    else if l.poisoned then s.atomPoisoned q n r
    else
      let off := r.pa % 64
      let old := fieldAt l.bytes off r.size
      let new := atomicNew r.op r.size old r.b.toNat r.c.toNat
      let l1 := match new with
        | some v => l.put off r.size v
        | none => l
      let s1 := (s.setLine q { l1 with used := s.sched.serial }).bump.delReq n
      let s2 := if new.isSome then s1.countWrite (homeAgent r.pa) ((List.range r.size).map fun i => r.pa + i) else s1
      match r.purpose with
      | .instr value =>
        let s3 := s2.completeNumber r.src.ctx r.src.pe .tla r.tla
        (if value then s3.reply (.quad q) 3 r.dests (scalarTok (wordOf old)) r.src else s3).sweepHolds
      | .signal c =>
        let fin := fun (p : Nat × Copy) => if p.1 = c then (p.1, { p.2 with phase := CopyPhase.finished }) else p
        State.sweepHolds { s2 with copies := s2.copies.map fin }
      | .claim _ | .typed _ | .lost _ => s

/-- A request that a remote package refuses (R476): PROTECTION in the requesting context at reply; the targets receive nulls. -/
def State.atomRefused (s : State) (q n : Nat) (r : AtomReq) : State :=
  let e : Fail := { code := .protection, detail := wordOf r.va }
  match r.purpose with
  | .instr _ =>
    let s1 := ((s.delReq n).raiseAt r.src e).completeNumber r.src.ctx r.src.pe .tla r.tla
    (s1.reply (.quad q) 3 r.dests nullTok r.src).sweepHolds
  | .signal c => (s.delReq n).abortCopy c e
  | .claim _ | .typed _ | .lost _ => s.delReq n

/-- A request has left for its engine (R261, R272): its release has nothing to wait for, and no fence holds it, as a load or as a store (DESIGN CHOICE,
assumption log 116). -/
def State.reqSent (s : State) (n : Nat) (r : AtomReq) : Bool :=
  !(r.release && s.before r.src (2 ^ r.stream)) && !s.heldBack n r.src r.stream true r.place && !s.heldBack n r.src r.stream false r.place

/-- A request may be taken: it has been sent, its way to the engine is open (R475), and nothing that precedes it at its home is still to perform (R250,
R253, R274, R375). -/
def State.reqReady (s : State) (n : Nat) (r : AtomReq) : Bool :=
  r.accepted.isNone && s.reqSent n r && s.reaches (.quad r.engine) &&
    !(s.mem.accesses.any fun q => decide (q.1 < n) && sameTask q.2.src r.src && q.2.src.uid != r.src.uid && !q.2.purpose.isCheck &&
        (q.2.released || q.2.src.earlier r.src) &&
        s.sameStream r.src.ctx q.2.stream r.stream && s.holdsUp q.2 r.place) &&
    !(s.net.any fun q => match Msg.objectStore q.2.body with
        | some (src, key) => decide (q.1 < n) && sameTask src r.src && src.uid != r.src.uid && s.sameStream r.src.ctx 0 r.stream && samePlace (s.placeOf key) r.place
        | none => false) &&
    !(s.sync.reqs.any fun q => decide (q.1 < n) && sameTask q.2.src r.src && q.2.accepted.isNone &&
        s.sameStream r.src.ctx q.2.stream r.stream && q.2.engine == r.engine)

/-- The place of a local PE in a bank's rotation after the PE that won last (R269 rule 2); where none has won yet, the rotation starts at the first PE of
the quad (DESIGN CHOICE, assumption log 104). -/
def rotation (last pe : Nat) (l : List Nat) : Nat := (l.idxOf pe + l.length - if l.contains last then l.idxOf last + 1 else 0) % l.length

/-- The request a bank accepts (R269): of remote ones that arrived in one cycle the one sent first (DESIGN CHOICE, assumption log 104). -/
def State.bankPick (s : State) (q b : Nat) : Option (Nat × AtomReq) :=
  let l := s.sync.reqs.filter fun p => p.2.engine == q && p.2.bank == b && s.reqReady p.1 p.2
  let old := l.filter fun p => decide (p.2.arrival + 8 ≤ s.sched.cycle)
  let near := l.filter fun p => p.2.near
  let last := (s.engine q).last.getD b 2048
  let pick := fun (m : List (Nat × AtomReq)) (key : Nat × AtomReq → Nat) => leastBy key m
  if !old.isEmpty then pick old fun p => 2 * p.2.arrival + (if p.2.near then 0 else 1)
  else if !near.isEmpty then pick near fun p => rotation last p.2.src.pe (pesOfQuad (q % 512))
  else pick l fun p => p.2.arrival

/-- ATOMIC_ENGINE_REQUEST: a bank accepts a request; on a held line it is performed, else it waits for the line, which is
asked for (R268, R269). -/
def engineEvent (q b : Nat) (s : State) : Option State :=
  match s.bankPick q b with
  | none => none
  | some (n, r) =>
    let e := s.engine q
    let s1 := s.setEngine q { e with last := if r.near then e.last.put b r.src.pe else e.last }
    let acc : AtomReq := { r with accepted := some s.sched.serial }
    let s2 := State.bump { s1 with sync := { s1.sync with reqs := s1.sync.reqs.put n acc } }
    if r.refused then some (s2.atomRefused q n acc)
    else if e.lines.any fun l => l.pa == r.line then some (s2.performAtom q n acc)
    else if e.fills.contains r.line then some s2
    else
      let e2 := s2.engine q
      some (s2.setEngine q { e2 with fills := e2.fills ++ [r.line] })

/-- The engine makes room for a line: the least recently used one that no request waits for goes (R268). -/
def State.evictFor (s : State) (q : Nat) : State :=
  let e := s.engine q
  if e.lines.length < Config.engineLines then s
  else
    let idle := e.lines.filter fun l => !(s.sync.reqs.any fun p => p.2.accepted.isSome && p.2.engine == q && p.2.line == l.pa)
    match leastBy (fun l => l.used) idle with
    | some l => s.dropLine q l
    | none => s

/-- Requests that wait for a line, in acceptance order. -/
def State.waitersOf (s : State) (q line : Nat) : List (Nat × AtomReq) :=
  sortBy (fun p => p.2.accepted.getD 0) (s.sync.reqs.filter fun p => p.2.accepted.isSome && p.2.engine == q && p.2.line == line)

/-- ATOMIC_LINE_FILL: a line arrives, and what waited for it is performed in acceptance order (R268). -/
def fillEvent (q line : Nat) (s : State) : Option State :=
  let e := s.engine q
  if !e.fills.contains line then none
  else
    let s1 := (s.setEngine q { e with fills := e.fills.erase line }).evictFor q
    let l : Line := { pa := line, bytes := (List.range 64).map fun i => Memory.read s1.mem.bytes (line + i), dirty := false
                      poisoned := s1.mem.poison.contains line, used := s1.sched.serial }
    let e1 := s1.engine q
    let s2 := (s1.setEngine q { e1 with lines := e1.lines ++ [l] }).bump
    some ((s2.waitersOf q line).foldl (fun s p => s.performAtom q p.1 p.2) s2)

/-- The faults of an access made within an instruction's step (R225, R227). -/
def rangeOrStop (r : RangeRes) (kind : Nat) : Except Stop (List (Nat × Nat)) :=
  match r with
  | .ok l => .ok l
  | .page va level => .error (.page kind va level)
  | .blocked va => .error (.page 2 va 0)
  | .prot va => failWith .protection (wordOf va)
  | .refused va => failWith .protection (wordOf va)

/-- ATOM and ATOMN (R272, R273): its tla number is taken as it fires. PAGE and a write block alike make an entry of kind 1. -/
def atomBody (value : Bool) (op : AtomOp) (w : AtomW) : Body := fun f s => do
  let a ← wantScalar f.a
  let b ← wantScalar f.b
  let c ← if op = .cas then wantScalar f.c else .ok 0
  let n := if w.dbl then 8 else 4
  let ea := effective a w.disp.toInt
  if !canonicalSpan ea n then failWith .protection (wordOf ea)
  else if ea % n ≠ 0 then failWith .align (wordOf ea)
  else do
    let (pa, refused) ← match s.check1 f.fr.ctx [f.pe, 2048 + f.die] .atomic ea with
      | .ok k _ r => Except.ok (k, r)
      | .page level => .error (.page 1 ea level)
      | .blocked => .error (.page 1 ea 0)
      | .prot => failWith .protection (wordOf ea)
    match homeQuad pa with
    | none => failWith .protection (wordOf ea)
    | some q =>
      if Config.maxRequests ≤ s.inflight f.pe then .error (.wait .requests)
      else
        let t := (s.fillTables f.fr.ctx f.pe [(ea, 0)]).takeNumber f.fr.ctx f.pe .tla
        let req : AtomReq := { src := f.src, bank := pa / 64 % 4, arrival := s.sched.cycle, near := q == quadOfPe f.pe && pa < 2 ^ 52, va := ea
                               pa := pa, size := n, op := op, b := b, c := c, release := w.order.getLsbD 1, stream := w.stream.toNat
                               dests := if value then f.dests else [], tla := t.2, accepted := none, purpose := .instr value
                               refused := refused }
        let s1 := t.1.markPerformed f.key
        let s2 := State.bump { s1 with sync := { s1.sync with reqs := s1.sync.reqs.put s1.sched.serial req } }
        if value then .ok { st := s2.expect f.key f.fan } else .ok (Done.scalar s2 (wordOf t.2))

/-! ### Arrival-counter instructions (R282 to R285) -/

/-- A counter id is malformed (R275). -/
def idBad (v : Nat) : Bool :=
  decide (v / 2 ^ 24 ≠ 0) || bitsAt v 10 2 != 0 ||
    (if bitAt v 23 then decide (64 ≤ bitsAt v 0 10) else decide (16 ≤ bitsAt v 12 11))

/-- A counter descriptor (R277). -/
structure Desc where
  base : Nat
  len : Nat
  action : Nat
  cyclic : Bool
  quad : Nat
  target : Nat
  token : Nat
  value : Nat
  deriving DecidableEq, Repr

/-- The fields of 64 descriptor bytes. -/
def descOf (l : List Byte) : Desc :=
  { base := fieldAt l 0 8, len := fieldAt l 8 8, action := fieldAt l 16 1, cyclic := fieldAt l 17 1 == 1, quad := fieldAt l 22 2
    target := fieldAt l 24 8, token := fieldAt l 32 8, value := fieldAt l 40 8 }

/-- The fields other than the range that R277 fixes hold what it allows. Side 3 and kind 3 are found as the token is made (R281). -/
def actionGood (l : List Byte) : Bool :=
  let d := descOf l
  fieldAt l 48 16 == 0 && fieldAt l 18 4 == 0 && decide (fieldAt l 17 1 < 2) && decide (d.action < 3) &&
    (if d.action = 0 then d.target % 64 == 0 && d.quad == 0 && d.token == 0 && d.value == 0
     else if d.action = 1 then d.target % 64 == 0 && decide (d.quad < 512) && d.token == 0 && d.value == 0
     else d.target == 0 && d.quad == 0 && bitsAt d.token 34 30 == 0 && (bitsAt d.token 32 2 == 0 || bitsAt d.token 32 2 == 3) &&
       decide (bitsAt d.token 28 4 < 9))

/-- The range of a descriptor obeys R277. -/
def Desc.rangeGood (d : Desc) : Bool := d.len % 64 == 0 && decide (64 ≤ d.len ∧ d.len ≤ 2 ^ 40) && d.base % 64 == 0

/-- A descriptor obeys R277. -/
def descGood (l : List Byte) : Bool := actionGood l && (descOf l).rangeGood && bitsAt (descOf l).token 32 2 == 0

/-- The physical segments of checked runs: runs that meet at one controller are one (R278). -/
def segmentsOf (ks : List (Nat × Nat)) : List (Nat × Nat) :=
  ks.foldl (fun l r => match l.getLast? with
    | some p => if p.1 + p.2 = r.1 ∧ homeAgent p.1 = homeAgent r.1 then l.dropLast ++ [(p.1, p.2 + r.2)] else l ++ [r]
    | none => [r]) []

/-- Segment entries in use at a controller. -/
def State.segsAt (s : State) (h : Agent) : Nat :=
  (s.sync.counters.map fun p => (p.2.segs.filter fun g => homeAgent g.1 == h).length).sum

/-- A controller's segment table has no room for new segments (R278). -/
def State.segsFull (s : State) (new : List (Nat × Nat)) : Bool :=
  new.any fun g =>
    let h := homeAgent g.1
    let cap := match h with | .pe _ => Config.tileSegments | _ => Config.stackSegments
    decide (cap < s.segsAt h + (new.filter fun k => homeAgent k.1 == h).length)

/-- Two segments overlap. -/
def overlaps (a b : Nat × Nat) : Bool := decide (a.1 < b.1 + b.2 ∧ b.1 < a.1 + a.2)

/-- Send two different replies, one to each target. -/
def Firing.replyTwo (f : Firing) (s : State) (from_ : Agent) (t0 t1 : Tok) : State :=
  ((s.expect f.key f.fan).reply from_ 1 (destsOf f.src [f.h.t0]) t0 f.src).reply from_ 1 (destsOf f.src [f.h.t1]) t1 f.src

/-- Send one reply to both targets. -/
def Firing.replyBoth (f : Firing) (s : State) (from_ : Agent) (t : Tok) : State :=
  (s.expect f.key f.fan).reply from_ 1 f.dests t f.src

/-- The lowest free counter of a home (R283). -/
def State.freeCounterAt (s : State) (home : Nat) : Option Nat :=
  ((List.range (if bitAt home 23 then 64 else 1024)).map fun i => home + i).find? fun c => (s.counter? c).isNone

/-- ACBIND (R283): the counter is reserved now and bound at commit. What the range raises ranks above OPERAND (R399). -/
def acbindBody : Body := fun f s => do
  let a ← wantScalar f.a
  let b ← wantScalar f.b
  if !canonicalSpan a.toNat 64 then failWith .protection a
  else if a.toNat % 64 ≠ 0 then failWith .align a
  else do
    let dk ← rangeOrStop (s.checkRange f.fr.ctx f.pe .normalRead a.toNat 64) 0
    let _ ← if (s.runsPoisoned dk).isSome then failWith .uncorrectable (wordOf ((s.runsPoisoned dk).getD 0)) else Except.ok ()
    let bytes := s.readRuns dk
    let d := descOf bytes
    if !d.rangeGood then failWith .operand
    else if !canonicalSpan d.base d.len then failWith .protection (wordOf d.base)
    else do
      let ks ← rangeOrStop (s.checkRange f.fr.ctx f.pe .counted d.base d.len) 0
      if ks.any fun r => decide (2 ^ 52 ≤ r.1) then failWith .protection (wordOf d.base)
      else if idBad b.toNat ∨ bitsAt b.toNat 0 10 ≠ 0 ∨ !descGood bytes then failWith .operand
      else
        let segs := segmentsOf ks
        let from_ := counterHome b.toNat
        let bad := fun (k : Word) => Except.ok { st := f.replyTwo s from_ (scalarTok (BitVec.allOnes 64)) (scalarTok k) : Done }
        match s.freeCounterAt b.toNat with
        | none => bad 0
        | some cid =>
          if s.sync.counters.any fun p => p.2.segs.any fun g => segs.any fun h => overlaps g h then bad 2
          else if s.segsFull segs then bad 3
          else
            let c : Counter := { ctx := f.fr.ctx, bound := false, desc := a.toNat, descPa := (dk.head?.map Prod.fst).getD 0, segs := segs
                                 armed := false, isDone := false, error := false, cyclic := d.cyclic, cycle := 0, count := 0, firing := 0 }
            let s1 := (s.setCounter cid c).hold f.key (.acbind cid)
            .ok { st := f.replyTwo s1 from_ (scalarTok (wordOf cid)) (scalarTok 1) }

/-- A counter bound to a context. -/
def State.boundCounter (s : State) (c cid : Nat) : Option Counter :=
  match s.counter? cid with
  | some k => if k.bound && k.ctx == c then some k else none
  | none => none

/-- ACEXPECT (R284): a release at `.dom`; the counter adds own − total and arms in one step, or refuses. -/
def acexpectBody : Body := fun f s => do
  let a ← wantScalar f.a
  let total ← wantScalar f.b
  let cid := a.toNat % 2 ^ 24
  let own : Nat := a.toNat / 2 ^ 32
  if idBad cid ∨ bitsAt a.toNat 24 8 ≠ 0 ∨ total.toNat = 0 ∨ 2 ^ 47 < total.toNat then failWith .operand
  else do
    f.awaitBefore s
    let s1 := s.markPerformed f.key
    match s.counter? cid with
    | some c =>
      if !c.bound || c.ctx != f.fr.ctx || c.armed || c.isDone then
        .ok { st := f.replyBoth s1 (counterHome cid) (scalarTok (c.status true)) }
      else
        let c1 := Counter.add { c with armed := true } (Int.ofNat own - Int.ofNat total.toNat)
        .ok { st := f.replyBoth (s1.setCounter cid c1) (counterHome cid) (scalarTok (c1.status false)) }
    | none =>
      -- what the other fields of a counter that nothing binds read as is not stated: a free value (DESIGN CHOICE, assumption log 24)
      .ok { st := f.replyBoth s1.drawn (counterHome cid) (scalarTok (s1.freeWord ||| wordOf (2 ^ 59))) }

/-- A request leaves for a home: its replies are expected, and the instruction is parked until the home has performed it (R285, R373, R374);
one that may have to be made again keeps its operands until then. -/
def Firing.toHome (f : Firing) (s : State) (dst : Agent) (m : Msg) (again : Bool) : Done :=
  { st := (s.expect f.key f.fan).post (.pe f.pe) dst 7 m, stat := .parked (.home s.sched.serial), again := again }

/-- ACREAD (R285): a request to the counter, which finds what is wrong with it at the reply. -/
def acreadBody : Body := fun f s => do
  let a ← wantScalar f.a
  .ok (f.toHome s (counterHome a.toNat) (.acread a.toNat f.dests f.src) true)

/-- A fault found at a home is reported at its instruction, or with the header indication (R374). -/
def State.raiseHome (s : State) (src : Src) (e : Fail) : State := if src.idx = 0xFF then s.raiseHeader src e else s.raiseAt src e

/-- A fault at the home of a read (R87): its replies do not come, and it is made again if its activation is kept. -/
def State.readFault (s : State) (from_ : Agent) (ds : List Dest) (src : Src) (e : Fail) : State := ((s.raiseHome src e).markFaulted src).withhold from_ ds

/-- The home has performed a request: the instruction parked on it has resolved. -/
def State.answered (s : State) (src : Src) : State :=
  match s.frameOf src.pe src.frame src.uid with
  | some f => (s.dropToks src.pe (f.heldAt src.idx)).markAt (frameKey src.pe src.frame) src.idx .fired
  | none => s

/-- A counter answers ACREAD (R285): a malformed id, or a counter not bound to its context, raises OPERAND. -/
def State.counterRead (s : State) (cid : Nat) (ds : List Dest) (src : Src) : State :=
  match (if idBad cid then none else s.boundCounter src.ctx cid) with
  | some c => (s.answered src).reply (counterHome cid) 1 ds (scalarTok (c.status false)) src
  | none => s.readFault (counterHome cid) ds src { code := .operand }

/-- COUNT_MESSAGE: what reaches a counter, a count (R279) or an ACREAD (R285). -/
def countEvent (n : Nat) (s : State) : Option State :=
  match s.msg? n with
  | some e => if !s.first n e then none else match e.body with
    | .count cid k =>
      let s1 := s.taken n
      some (match s1.counter? cid with
        | some c => if c.bound then s1.setCounter cid (c.add k) else s1
        | none => s1)
    | .acread cid ds src => some ((s.taken n).counterRead cid ds src)
    | _ => none
  | none => none

/-- ACFREE (R285) is sent when its block commits. -/
def acfreeBody : Body := fun f s => do
  let a ← wantScalar f.a
  .ok { st := s.hold f.key (.acfree a.toNat) }

/-- ACFREE at commit: a counter not bound to the context is left alone. -/
def State.commitAcfree (s : State) (c cid : Nat) : State := if (s.boundCounter c cid).isSome then s.freeCounter cid else s

/-- ACBIND at commit: the counter counts from here on (R280, R283). -/
def State.commitAcbind (s : State) (cid : Nat) : State :=
  match s.counter? cid with
  | some c => s.setCounter cid { c with bound := true }
  | none => s

/-! ### Barriers (R286 to R291) -/

/-- The package node and the domain node; a quad node has its package quad's number, a die node 512 more than its die's. -/
def packageNode : Nat := 520
/-- The domain node. -/
def domainNode : Nat := 521

/-- The level whose nodes a node is one of: scope codes 1 to 4. -/
def nodeLevel (n : Nat) : Nat := if n < 512 then 1 else if n < 520 then 2 else if n = packageNode then 3 else 4

/-- The node above a node (R287). -/
def nodeUp (n : Nat) : Nat := if n < 512 then 512 + n / 64 else if n < 520 then packageNode else domainNode

/-- The root for a level and an instance (R287). -/
def barRoot (level inst : Nat) : Nat :=
  if level = 1 then inst else if level = 2 then 512 + inst else if level = 3 then packageNode else domainNode

/-- A node as an agent. -/
def nodeAgent (n : Nat) : Agent := if n < 512 then .quad n else if n < 520 then .die (n - 512) else .io

/-- A barrier's state at its nodes. -/
def State.barrier (s : State) (rec_ : Nat) : Barrier := s.sync.barriers.getD rec_ { counted := [], nodes := [], held := [] }

/-- Replace it. -/
def State.setBarrier (s : State) (rec_ : Nat) (b : Barrier) : State := { s with sync := { s.sync with barriers := s.sync.barriers.put rec_ b } }

/-- A barrier's node. -/
def Barrier.node (b : Barrier) (n : Nat) : BarNode := b.nodes.getD n { pend := [], inflight := false }

/-- A record's level and instance as its bytes stand (R286). -/
def State.barLevel (s : State) (rec_ : Nat) : Nat := bitsAt (s.read64 rec_) 61 3
/-- The instance. -/
def State.barInst (s : State) (rec_ : Nat) : Nat := leNat (s.readBytes (rec_ + 8) 4)
/-- N. -/
def State.barN (s : State) (rec_ : Nat) : Nat := bitsAt (s.read64 rec_) 0 32
/-- The last completed phase. -/
def State.barPhase (s : State) (rec_ : Nat) : Nat := bitsAt (s.read64 rec_) 32 24

/-- A record is initialised: its level is a scope code 1 to 4. -/
def State.barLive (s : State) (rec_ : Nat) : Bool := decide (1 ≤ s.barLevel rec_ ∧ s.barLevel rec_ ≤ 4)

/-- The root of a record as it stands. -/
def State.barRootOf (s : State) (rec_ : Nat) : Nat := barRoot (s.barLevel rec_) (s.barInst rec_)

/-- The instance of a level that holds a quad (R286, R291). -/
def State.instanceOf (s : State) (level quad : Nat) : Nat :=
  if level = 1 then quad else if level = 2 then dieOfQuad quad else if level = 3 then s.pkgNo else 0

/-- The quad where an arrival enters (R287). -/
def BarArr.quad (a : BarArr) : Nat :=
  match a.counter with
  | some c => counterQuad c
  | none => quadOfPe a.src.pe

/-- The root counts an arrival (R281, R291): the record is initialised, the level is the word's, and the arriver is in Instance. -/
def State.arrivalGood (s : State) (rec_ : Nat) (a : BarArr) : Bool :=
  s.barLive rec_ && (a.counter.isSome || s.barLevel rec_ == a.level) && s.instanceOf (s.barLevel rec_) a.quad == s.barInst rec_

/-- An arrival that the root does not count: OPERAND stops its context, or its counter's Error is set (R281, R291). -/
def State.arrivalBad (s : State) (a : BarArr) : State :=
  match a.counter with
  | some c => s.counterError c
  | none => s.raiseAt a.src { code := .operand, step := a.step }

/-- A node sends what it holds upward as one message (R287). -/
def State.barForward (s : State) (rec_ n : Nat) : State :=
  let b := s.barrier rec_
  let k := b.node n
  if k.inflight ∨ k.pend.isEmpty then s
  else
    let up := if s.barLive rec_ && nodeLevel n < s.barLevel rec_ then nodeUp n else s.barRootOf rec_
    (s.setBarrier rec_ { b with nodes := b.nodes.put n { pend := [], inflight := true } }).post (nodeAgent n) (nodeAgent up) 7
      (.barArrive rec_ up k.pend (some n))

/-- Arrivals at a node: the root counts them, another node holds them for its next message. -/
def State.barArrive (s : State) (rec_ n : Nat) (arrs : List BarArr) : State :=
  let b := s.barrier rec_
  if !s.barLive rec_ ∨ n = s.barRootOf rec_ then
    let good := arrs.filter fun a => s.arrivalGood rec_ a
    let bad := arrs.filter fun a => !s.arrivalGood rec_ a
    bad.foldl (fun s a => s.arrivalBad a) (s.setBarrier rec_ { b with counted := b.counted ++ good })
  else
    let k := b.node n
    (s.setBarrier rec_ { b with nodes := b.nodes.put n { k with pend := k.pend ++ arrs } }).barForward rec_ n

/-- The phase of a record is complete at its root: the count has reached N (R288). -/
def State.barComplete (s : State) (rec_ : Nat) : Bool :=
  let b := s.barrier rec_
  s.barLive rec_ && !b.counted.isEmpty && decide (s.barN rec_ ≤ b.counted.length)

/-- Arrivals at a record that a remote package refuses (R476): PROTECTION at each, and none is counted. -/
def State.arrivalsRefused (s : State) (arrs : List BarArr) : State :=
  arrs.foldl (fun s a => match a.counter with
    | some c => s.counterError c
    | none => s.raiseAt a.src { code := .protection, detail := wordOf a.va, step := a.step }) s

/-- BARRIER_ARRIVAL: a message reaches a node; a root that completes a phase first does that. -/
def barArriveEvent (n : Nat) (s : State) : Option State :=
  match s.msg? n with
  | some e => if !s.first n e then none else match e.body with
    | .barArrive rec_ node arrs kid =>
      if s.barComplete rec_ && node == s.barRootOf rec_ then none
      else
        let s1 := s.taken n
        let s2 := match kid with
          | some k =>
            let b := s1.barrier rec_
            (s1.setBarrier rec_ { b with nodes := b.nodes.put k { (b.node k) with inflight := false } }).barForward rec_ k
          | none => s1
        some (if isRefused rec_ then s2.arrivalsRefused arrs else s2.barArrive rec_ node arrs)
    | _ => none
  | none => none

/-- The nodes below a node that arrivals came through. -/
def kidsOf (n : Nat) (arrs : List BarArr) : List (Nat × List BarArr) :=
  let below := fun (a : BarArr) =>
    if n < 520 then a.quad else if n = packageNode then 512 + dieOfQuad a.quad else packageNode
  let ks := (arrs.map below).eraseDups
  ks.map fun k => (k, arrs.filter fun a => below a == k)

/-- A release at a quad node reaches a task: one of a halted context waits for it to resume (R291). -/
def State.barRelease1 (s : State) (rec_ : Nat) (a : BarArr) : State :=
  match s.ctx? a.src.ctx with
  | none => s
  | some x =>
    if x.state.issues then s.modTask a.src.pe a.src.task fun t => if t.ctx = a.src.ctx then { t with barWait := t.barWait.erase a.src.uid } else t
    else
      let b := s.barrier rec_
      s.setBarrier rec_ { b with held := b.held ++ [a] }

/-- A release at a node: down to those that contributed, or to the tasks of a quad node (R287). -/
def State.barReleaseAt (s : State) (rec_ n : Nat) (arrs : List BarArr) : State :=
  if n < 512 then (arrs.filter fun a => a.counter.isNone && !a.nw).foldl (fun s a => s.barRelease1 rec_ a) s
  else (kidsOf n arrs).foldl (fun s k => s.post (nodeAgent n) (nodeAgent k.1) 7 (.barRelease rec_ k.1 k.2)) s

/-- Everything the root has counted is released, and the count restarts (R288, R291). -/
def State.barReleaseAll (s : State) (rec_ root : Nat) : State :=
  let b := s.barrier rec_
  (s.setBarrier rec_ { b with counted := [] }).barReleaseAt rec_ root b.counted

/-- BARRIER_PHASE_COMPLETE: the root releases the arrivals counted so far and writes Phase + 1 (R288), a write that counts as any does (R279). -/
def barCompleteEvent (rec_ : Nat) (s : State) : Option State :=
  if !s.barComplete rec_ then none
  else
    let root := s.barRootOf rec_
    let w := s.read64 rec_
    let phase := (s.barPhase rec_ + 1) % 2 ^ 24
    some (((s.barReleaseAll rec_ root).write64 rec_ (w - bitsAt w 32 24 * 2 ^ 32 + phase * 2 ^ 32)).countWrite (homeAgent rec_) ((List.range 8).map fun i => rec_ + i))

/-- BARRIER_RELEASE: a release passes down (R287). -/
def barReleaseEvent (n : Nat) (s : State) : Option State :=
  match s.msg? n with
  | some e => if !s.first n e then none else match e.body with
    | .barRelease rec_ node arrs => some ((s.taken n).barReleaseAt rec_ node arrs)
    | _ => none
  | none => none

/-- Releases held for a context reach it as it resumes (R291). -/
def State.barResume (s : State) (c : Nat) : State :=
  s.sync.barriers.foldl (fun s p =>
    let mine := p.2.held.filter fun a => a.src.ctx == c
    let b := s.barrier p.1
    mine.foldl (fun s a => s.barRelease1 p.1 a) (s.setBarrier p.1 { b with held := b.held.filter fun a => a.src.ctx != c })) s

/-- The record a BARINIT wrote is performed (R291): what the root had counted is released with the old phase. -/
def State.barAdopt (s : State) (rec_ : Nat) : State := s.barReleaseAll rec_ (s.barRootOf rec_)

/-- The checks of a record's address (R290): its physical address, which carries the refusal of a remote package where the record is written or arrived
at later (R476). -/
def Firing.record (f : Firing) (s : State) (need : Need) (kind : Nat) : Except Stop Nat := do
  let a ← wantScalar f.a
  if !canonicalSpan a.toNat 64 then failWith .protection a
  else if a.toNat % 64 ≠ 0 then failWith .align a
  else do
    let ks ← rangeOrStop (if need.writes then s.checkHome f.fr.ctx f.pe need a.toNat 64 else s.checkRange f.fr.ctx f.pe need a.toNat 64) kind
    .ok ((ks.head?.map Prod.fst).getD 0)

/-- The activation holds a BARINIT or BARARR already (R291). -/
def Frame.hasBarrier (fr : Frame) : Bool :=
  fr.held.any fun e => match e with
    | .barinit _ _ _ _ => true
    | .bararr _ _ _ _ _ _ => true
    | _ => false

/-- BARINIT (R291). -/
def barinitBody (w : BarW) : Body := fun f s => do
  let b ← wantScalar f.b
  let pa ← f.record s (.store false) 1
  if b.toNat = 0 ∨ 2 ^ 32 ≤ b.toNat ∨ f.fr.hasBarrier then failWith .operand
  else .ok (Done.scalar (s.hold f.key (.barinit f.a.val.toNat pa w.level.code b.toNat)) 0)

/-- BARARR and SYNCALL (R64, R291). -/
def bararrBody (level : Nat) (nw : Bool) (step : Option Nat) : Body := fun f s =>
  let go : Except Stop Done := do
    let pa ← f.record s (.store false) 1
    if f.fr.hasBarrier then failWith .operand
    else .ok (Done.scalar (s.hold f.key (.bararr f.a.val.toNat pa level nw f.src step)) 0)
  match step with
  | some k => stepOf k go
  | none => go

/-- BARTRY (R291). -/
def bartryBody : Body := fun f s => do
  let b ← wantScalar f.b
  let pa ← f.record s (.load false) 0
  if s.rangePoisoned pa 16 then failWith .uncorrectable (wordOf pa)
  else
    let d := (s.barPhase pa + 2 ^ 24 - 1 + 2 ^ 24 - b.toNat % 2 ^ 24) % 2 ^ 24
    .ok { st := f.replyBoth s (nodeAgent (s.barRootOf pa)) (scalarTok (if d < 2 ^ 23 then 1 else 0)) }

/-- A record as BARINIT writes it (R286, R291). -/
def State.barRecord (s : State) (pe level n : Nat) : List Byte :=
  leBytes 8 (level * 2 ^ 61 + n) ++ leBytes 4 (s.instanceOf level (quadOfPe pe)) ++ List.replicate 52 0

/-- BARARR at commit: one arrival at the node of the PE's own quad, and the task waits for the release unless NW is set. -/
def State.commitBararr (s : State) (va pa level : Nat) (nw : Bool) (src : Src) (step : Option Nat) : State :=
  let q := quadOfPe src.pe
  let s1 := if nw then s else s.modTask src.pe src.task fun t => { t with barWait := src.uid :: t.barWait }
  s1.post (.pe src.pe) (.quad q) 7 (.barArrive pa q [{ src := src, va := va, level := level, nw := nw, counter := none, step := step }] none)

/-! ### The actions of counters (R281) -/

/-- The source a counter's action carries: its context and no instruction. -/
def Src.ofCtx (c : Nat) : Src := { Src.none with ctx := c }

/-- An action of a counter (R281), none where it is dropped and Error set. The descriptor is read at the physical address that ACBIND found, and an action
whose descriptor is poisoned, or whose target has no page or one that forbids the access, is dropped with Error set (DESIGN CHOICE, assumption
log 119). -/
def State.counterAction (s : State) (cid : Nat) (c : Counter) : Option State :=
  let l := s.readBytes c.descPa 64
  let d := descOf l
  if s.poisoned c.descPa || !actionGood l || (decide (d.action < 2) && !canonicalSpan d.target 64) then none
  else if d.action = 0 then
    match s.homeRuns c.ctx [] (.store false) (pageRuns d.target 64) with
    | .ok ks =>
      let q := counterQuad cid
      some (s.post (counterHome cid) (.quad q) 7
        (.barArrive ((ks.head?.map Prod.fst).getD 0) q [{ src := Src.ofCtx c.ctx, va := d.target, level := 0, nw := true, counter := some cid, step := none }] none))
    | _ => none
  else if d.action = 1 then
    match s.hwRead c.ctx .reader d.target 64 with
    | some r => some (s.hwEnqueueBytes c.ctx r d.target d.quad true none)
    | none => none
  else some (s.post (counterHome cid) (.pe (bitsAt d.token 17 11)) 4 (.inject (withParity d.value (d.token % 2 ^ 34 + 4 * 2 ^ 34)) cid))

/-- COUNTER_FIRE: a counter that reached zero performs its action; one of a halted context holds it (R281). -/
def counterFireEvent (cid : Nat) (s : State) : Option State :=
  match s.counter? cid with
  | none => none
  | some c =>
    if c.firing = 0 || !(match s.ctx? c.ctx with | some x => x.state.issues | none => false) then none
    else
      let s1 := s.setCounter cid { c with firing := c.firing - 1 }
      match s1.counterAction cid c with
      | some s2 => some s2
      | none => some (s1.counterError cid)

/-- ATOM (R271, R272). -/
def execAtom (h : Hdr) (op : AtomOp) (w : AtomW) (s : State) : Host.Outcome State Fault Refusal := fire (.atom h op w) (atomBody true op w) s
/-- ATOMN (R271, R272). -/
def execAtomn (h : Hdr) (op : AtomOp) (w : AtomW) (s : State) : Host.Outcome State Fault Refusal := fire (.atomn h op w) (atomBody false op w) s
/-- ACBIND (R283). -/
def execAcbind (h : Hdr) (s : State) : Host.Outcome State Fault Refusal := fire (.acbind h) acbindBody s
/-- ACEXPECT (R284). -/
def execAcexpect (h : Hdr) (s : State) : Host.Outcome State Fault Refusal := fire (.acexpect h) acexpectBody s
/-- ACREAD (R285). -/
def execAcread (h : Hdr) (s : State) : Host.Outcome State Fault Refusal := fire (.acread h) acreadBody s
/-- ACFREE (R285). -/
def execAcfree (h : Hdr) (s : State) : Host.Outcome State Fault Refusal := fire (.acfree h) acfreeBody s
/-- BARINIT (R291). -/
def execBarinit (h : Hdr) (w : BarW) (s : State) : Host.Outcome State Fault Refusal := fire (.barinit h w) (barinitBody w) s
/-- BARARR (R291). -/
def execBararr (h : Hdr) (w : BarW) (s : State) : Host.Outcome State Fault Refusal := fire (.bararr h w) (bararrBody w.level.code w.nw none) s
/-- BARTRY (R291). -/
def execBartry (h : Hdr) (w : BarW) (s : State) : Host.Outcome State Fault Refusal := fire (.bartry h w) bartryBody s
/-- SYNCALL (R64, R290). -/
def execSyncall (h : Hdr) (s : State) : Host.Outcome State Fault Refusal := fire (.syncall h) (bararrBody 3 false (some 0)) s
/-- ATOMIC_ENGINE_REQUEST (R268, R269). -/
def execAtomicEngineRequest (q : Nat) (b : Nat) (s : State) : Host.Outcome State Fault Refusal := event "ATOMIC_ENGINE_REQUEST" (engineEvent q b s)
/-- ATOMIC_LINE_FILL (R268). -/
def execAtomicLineFill (q : Nat) (line : Nat) (s : State) : Host.Outcome State Fault Refusal := event "ATOMIC_LINE_FILL" (fillEvent q line s)
/-- COUNT_MESSAGE (R279). -/
def execCountMessage (n : Nat) (s : State) : Host.Outcome State Fault Refusal := event "COUNT_MESSAGE" (countEvent n s)
/-- COUNTER_FIRE (R281). -/
def execCounterFire (c : Nat) (s : State) : Host.Outcome State Fault Refusal := event "COUNTER_FIRE" (counterFireEvent c s)
/-- BARRIER_ARRIVAL (R287). -/
def execBarrierArrival (n : Nat) (s : State) : Host.Outcome State Fault Refusal := event "BARRIER_ARRIVAL" (barArriveEvent n s)
/-- BARRIER_PHASE_COMPLETE (R288). -/
def execBarrierPhaseComplete (rec : Nat) (s : State) : Host.Outcome State Fault Refusal := event "BARRIER_PHASE_COMPLETE" (barCompleteEvent rec s)
/-- BARRIER_RELEASE (R287). -/
def execBarrierRelease (n : Nat) (s : State) : Host.Outcome State Fault Refusal := event "BARRIER_RELEASE" (barReleaseEvent n s)

end Sys2Proof.Machine
end

