-- ==== Sys2Proof/Machine/Channel.lean ====
section
/-! DEFINITION. Channels: the table of a home controller, endpoints, order, flow, spill, the quiescence monitor (R293 to
R313) and the channel instructions (R315 to R322). A channel is named by the physical address of its base (R293). -/

namespace Sys2Proof.Machine

/-! ### Sizes and thresholds (R294, R303) -/

/-- Bytes of an element (R294). -/
def elemSize (tile : Bool) (width : Nat) : Nat := if !tile then 8 else if width = 0 then 320 else if width = 1 then 576 else 1088

/-- Elements of a spill segment (R294). -/
def elemsPerSegment (tile : Bool) (width : Nat) : Nat := if !tile then 8192 else if width = 0 then 204 else if width = 1 then 113 else 60

/-- RTT of a reach (R303). -/
def roundTrip (reach : Nat) : Nat := if reach = 2 then 128 else if reach = 3 then 496 else 2596

/-- The gap between elements of one PE (R303). -/
def elemGap (tile : Bool) (width : Nat) : Nat := if tile then (elemSize tile width + 63) / 64 else 1

/-- Off and On for a total capacity (R303). -/
def thresholds (tile : Bool) (width reach nt : Nat) : Nat × Nat :=
  let h := min ((roundTrip reach + elemGap tile width - 1) / elemGap tile width) (nt / 2)
  (nt - h, nt - h - h)

/-- NT (R303). -/
def Chan.total (c : Chan) : Nat := c.nring + elemsPerSegment c.tile c.width * c.segs.length

/-- The thresholds for the channel's capacity now. -/
def Chan.retune (c : Chan) : Chan :=
  let t := thresholds c.tile c.width c.reach c.total
  { c with off := t.1, on := t.2 }

/-- Elements in spill segments. -/
def Chan.spilled (c : Chan) : Nat := (c.segs.map List.length).sum

/-- Occupancy (R302). -/
def Chan.occupancy (c : Chan) : Nat := c.ring.length + c.spilled

/-- The home controller. -/
def Chan.home (c : Chan) : Agent := match c.remote with | some p => .remote p | none => .die c.die

/-- A channel-table entry. -/
def State.chan? (s : State) (ch : Nat) : Option Chan := s.chans.get? ch

/-- Replace an entry. -/
def State.setChan (s : State) (ch : Nat) (c : Chan) : State := { s with chans := s.chans.put ch c }

/-- Change the number of segments a context holds (R305). -/
def State.addSegments (s : State) (c : Nat) (d : Int) : State :=
  s.modCtx c fun x => { x with segments := ((x.segments : Int) + d).toNat }

/-- The context may take one more segment (R305). -/
def State.segmentLeft (s : State) (c : Nat) : Bool :=
  match s.ctx? c with
  | some x => decide (x.segments < x.regs.spillq)
  | none => false

/-- Channel-spill and deadlock handling are host-assisted (R408). -/
def State.spillByHost (s : State) (c : Nat) : Bool := match s.ctx? c with | some x => bitAt x.regs.fmode 3 | none => false
/-- Deadlock handling. -/
def State.deadlockByHost (s : State) (c : Nat) : Bool := match s.ctx? c with | some x => bitAt x.regs.fmode 4 | none => false

/-! ### Endpoints (R296, R297) -/

/-- A task's endpoint entry. -/
def State.endpoint? (s : State) (pe task ch : Nat) (writer : Bool) : Option Endpoint :=
  s.pe.endpoints.find? fun e => e.pe == pe && e.task == task && e.ch == ch && e.writer == writer

/-- Change endpoint entries. -/
def State.modEndpoints (s : State) (p : Endpoint → Bool) (g : Endpoint → Endpoint) : State :=
  { s with pe := { s.pe with endpoints := mapIf p g s.pe.endpoints } }

/-- Remove endpoint entries. -/
def State.dropEndpoints (s : State) (p : Endpoint → Bool) : State :=
  { s with pe := { s.pe with endpoints := s.pe.endpoints.filter fun e => !p e } }

/-- Instructions that are parked on a wait: their frame and index. -/
def State.parkedOn (s : State) (p : Nat → Frame → Bool) (w : Wait) : List (Nat × Nat) :=
  s.pe.frames.flatMap fun f => if f.2.isOpen && p f.1 f.2 then (f.2.stat.filter fun q => q.2 == .parked w).map fun q => (f.1, q.1) else []

/-- A parked instruction is ready again. -/
def State.unpark (s : State) (k idx : Nat) : State := s.modFrame k fun f => { f with stat := f.stat.del idx, ready := f.ready.del idx }

/-- The channel base that a parked instruction names: it keeps its operands. -/
def Frame.baseOf (f : Frame) (idx : Nat) : Word := match f.operand idx .a with | some t => t.val | none => 0

/-- An instruction parked on a channel raises a fault (R87); its Detail is the base (R398). -/
def State.faultParked (s : State) (code : Code) (p : Nat × Nat) : State :=
  match s.frame? p.1 with
  | none => s
  | some f => (s.setStat p.1 p.2 .faulted).raiseAt (srcOf p.1 f p.2) { code := code, detail := f.baseOf p.2 }

/-- CHSENDs parked on a channel. -/
def State.parkedSends (s : State) (ch : Nat) : List (Nat × Nat) := s.parkedOn (fun _ _ => true) (.xoff ch)

/-- Every CHSEND parked on a channel raises a fault. -/
def State.faultSends (s : State) (ch : Nat) (code : Code) : State := (s.parkedSends ch).foldl (fun s p => s.faultParked code p) s

/-! ### Flow (R302, R305, R306) -/

/-- Tell the writer's PE a flow state: a message of class 7, control, since one of class 2 is for a frame there (R18; DESIGN CHOICE, assumption log 91). -/
def State.tellWriter (s : State) (ch : Nat) (c : Chan) (off : Bool) : State :=
  match c.writer with
  | some (pe, _, _) => s.post c.home (.pe pe) 7 (if off then .xoff ch pe else .xon ch pe)
  | none => s

/-- XON is sent where occupancy is at or below On (R302), but for a channel whose segment request the host has not answered (R306). A quota-blocked
channel keeps XOFF until its mark clears, as the chapter's worked run has it (R302's words alone would send XON; DESIGN CHOICE, assumption log 121). -/
def State.maybeXon (s : State) (ch : Nat) : State :=
  match s.chan? ch with
  | some c => if c.xoff ∧ c.occupancy ≤ c.on ∧ c.segAsked = false ∧ c.quota = none then (s.setChan ch { c with xoff := false, reported := false }).tellWriter ch c false else s
  | none => s

/-- A channel becomes quota-blocked (R305): CHSENDs parked on it raise SPILL_QUOTA. -/
def State.quotaBlock (s : State) (ch : Nat) : State :=
  match s.chan? ch with
  | some c => State.bump ((s.setChan ch { c with quota := match c.quota with | some q => some q | none => some s.sched.serial }).faultSends ch .spillQuota)
  | none => s

/-- A channel with one more segment, and the thresholds it then has (R303). -/
def Chan.grown (c : Chan) (byHost : Bool) : Chan := Chan.retune { c with segs := c.segs ++ [[]], lent := c.lent ++ [byHost], quota := none }

/-- Reserve one more segment of the quota for a channel (R305). -/
def State.reserveSegment (s : State) (ch : Nat) : State :=
  match s.chan? ch with
  | some c => (s.addSegments c.opener 1).setChan ch (c.grown false)
  | none => s

/-- Segments of a channel that its opener's quota counts: the host's do not (R305, R306). -/
def Chan.owned (c : Chan) : Nat := c.lent.count false

/-- The controller looks at occupancy after it accepted an element (R302, R305, R306). -/
def State.checkFlow (s : State) (ch : Nat) : State :=
  match s.chan? ch with
  | none => s
  | some c =>
    if c.occupancy < c.off ∨ c.xoff then s
    else if c.fixed then (s.setChan ch { c with xoff := true }).tellWriter ch c true
    else if s.spillByHost c.opener then
      let s1 := (s.setChan ch { c with xoff := true, segAsked := true }).tellWriter ch c true
      if c.segAsked then s1
      else s1.hostPost c.die 2 c.opener (wordOf c.base) (wordOf c.segs.length) { Src.none with ctx := c.opener, block := ch } [] []
    else if s.segmentLeft c.opener then s.reserveSegment ch
    else ((s.setChan ch { c with xoff := true }).tellWriter ch c true).quotaBlock ch

/-! ### Elements (R299 to R301, R304) -/

/-- An element behind all others in a chain of segments whatever room the last one has: it takes the place of one that has left the chain. -/
def pushSegment (e : Elem) : List (List Elem) → List (List Elem)
  | [] => [[e]]
  | g :: t => if t.all List.isEmpty then (g ++ [e]) :: t else g :: pushSegment e t

/-- The first segment that holds an element gives it up. -/
def takeSegment : List (List Elem) → Option (Elem × List (List Elem))
  | [] => none
  | [] :: t => (takeSegment t).map fun p => (p.1, [] :: p.2)
  | (e :: g) :: t => some (e, g :: t)

/-- An element into the chain of segments: the first segment with room that no later element follows. -/
def putSegment (cap : Nat) (e : Elem) : List (List Elem) → Option (List (List Elem))
  | [] => none
  | g :: t =>
    if g.length < cap ∧ t.all List.isEmpty then some ((g ++ [e]) :: t)
    else (putSegment cap e t).map fun t' => g :: t'

/-- Accept an element into the ring or a segment (R304): none where NT elements are there already, so that below NT it finds room (R303). With the tail
full it takes a place that an element has left, in the chain or, once the oldest spilled one has moved there, in the ring. -/
def Chan.put (c : Chan) (e : Elem) : Option Chan :=
  if c.spilled = 0 ∧ c.ring.length < c.nring then some { c with ring := c.ring ++ [e], sendSeq := c.sendSeq + 1 }
  else match putSegment (elemsPerSegment c.tile c.width) e c.segs with
    | some g => some { c with segs := g, sendSeq := c.sendSeq + 1 }
    | none =>
      if c.spilled < elemsPerSegment c.tile c.width * c.segs.length then some { c with segs := pushSegment e c.segs, sendSeq := c.sendSeq + 1 }
      else if c.ring.length < c.nring then
        (takeSegment c.segs).map fun p => { c with ring := c.ring ++ [p.1], segs := pushSegment e p.2, sendSeq := c.sendSeq + 1 }
      else none

/-- Answer a request with an element (R301, R322). -/
def State.answer (s : State) (c : Chan) (r : RecvReq) (e : Elem) : State :=
  let s1 := if c.tile then r.dests.foldl (fun s d => s.post c.home (.pe d.pe) 2 (.elemReply [d] e c.fc c.width r.src)) s
            else s.reply c.home 2 r.dests (scalarTok e.val) r.src
  s1.reply c.home 2 r.sdests (scalarTok 1) r.src

/-- Answer a request with no element. -/
def State.answerNone (s : State) (c : Chan) (r : RecvReq) (status : Word) : State :=
  (s.reply c.home 2 r.dests nullTok r.src).reply c.home 2 r.sdests (scalarTok status) r.src

/-- What is bound for a halted context is held (R311); what is bound for one that has ended is served and discarded (R298). -/
def State.reqLive (s : State) (r : RecvReq) : Bool := match s.ctx? r.src.ctx with | some x => x.state.issues | none => true

/-- Serve the requests of a channel in receive order (R300, R322). -/
def State.serveChan (s : State) (ch : Nat) : Nat → State
  | 0 => s
  | n + 1 =>
    match s.chan? ch with
    | none => s
    | some c =>
      match c.reqs with
      | [] => s
      | r :: t =>
        if !s.reqLive r then s
        else match c.ring with
          | e :: ring => ((s.setChan ch { c with reqs := t, ring := ring }).answer c r e).serveChan ch n
          | [] =>
            if c.spilled ≠ 0 ∨ c.state = .broken then s
            else if c.state ≠ .opened then ((s.setChan ch { c with reqs := t }).answerNone c r 2).serveChan ch n
            else if r.isTry then ((s.setChan ch { c with reqs := t }).answerNone c r 0).serveChan ch n
            else s

/-- Return a channel's segments and remove its entry. -/
def State.freeChan (s : State) (ch : Nat) : State :=
  match s.chan? ch with
  | some c =>
    let s1 := s.addSegments c.opener (-(c.owned : Int))
    { s1 with chans := s1.chans.del ch }
  | none => s

/-- A closed channel with no element and no reader is freed (R319). -/
def State.freeIfDone (s : State) (ch : Nat) : State :=
  match s.chan? ch with
  | some c => if c.state = .closed ∧ c.occupancy = 0 ∧ c.reader.isNone then s.freeChan ch else s
  | none => s

/-- The elements a channel holds. -/
def State.occupancy (s : State) (ch : Nat) : Nat := match s.chan? ch with | some c => c.occupancy | none => 0

/-- Requests are served; where the occupancy falls, XON may follow (R300, R302). -/
def State.serveAll (s : State) (ch : Nat) : State :=
  let s1 := s.serveChan ch (match s.chan? ch with | some c => c.reqs.length | none => 0)
  if s1.occupancy ch < s.occupancy ch then s1.maybeXon ch else s1

/-- Requests are served, and a closed channel that is done is freed. -/
def State.settleChan (s : State) (ch : Nat) : State := (s.serveAll ch).freeIfDone ch

/-- The channel a class-2 message concerns. -/
def Msg.chan? : Msg → Option Nat
  | .element ch _ _ _ _ => some ch
  | .recvReq ch _ => some ch
  | .epRelease ch _ _ _ => some ch
  | .chClose ch _ _ _ => some ch
  | .bind ch _ _ => some ch
  | .xoff ch _ => some ch
  | .xon ch _ => some ch
  | _ => none

/-- The receiver accepts a message (R19) that has crossed the JX link in its way (R475), and no earlier one of the same route concerns the same channel: one channel's flow control holds up no other. -/
def State.firstOn (s : State) (n : Nat) (e : Env) : Bool :=
  e.sound && s.reaches e.src && s.reaches e.dst &&
    !s.net.any fun p => decide (p.1 < n) && p.2.src == e.src && p.2.dst == e.dst && p.2.cls == e.cls && Msg.chan? p.2.body == Msg.chan? e.body

/-- The sender's tile reference goes and its tls number completes (R258, R301). -/
def State.sent (s : State) (src : Src) (tls : Nat) (holder : Option Word) : State :=
  let s1 := match holder with
    | some h => s.release src.pe h
    | none => s
  s1.completeNumber src.ctx src.pe .tls tls

/-- CHANNEL_ELEMENT: the controller accepts an element, or holds it off while it has no room (R299, R303). -/
def elementEvent (n : Nat) (s : State) : Option State :=
  match s.msg? n with
  | some e => if !s.firstOn n e then none else match e.body with
    | .element ch el src tls holder =>
      match s.chan? ch with
      | none => some ((s.taken n).sent src tls holder)
      | some c =>
        if c.state = .broken then some ((s.taken n).sent src tls holder)
        else match c.put el with
          | none => none
          | some c1 => some (((((s.taken n).setChan ch c1).sent src tls holder).serveAll ch).checkFlow ch)
    | _ => none
  | none => none

/-- CHANNEL_RECEIVE_REQUEST: the controller accepts a request (R300, R311): the instruction has performed, and the request is
answered in its turn. -/
def recvEvent (n : Nat) (s : State) : Option State :=
  match s.msg? n with
  | some e => if !s.firstOn n e then none else match e.body with
    | .recvReq ch r =>
      let k := frameKey r.src.pe r.src.frame
      let s1 := (s.taken n).modFrame k fun f => if f.uid = r.src.uid then { f with performed := true, stat := f.stat.put r.src.idx .fired } else f
      let gone := some ((s1.reply e.dst 2 r.dests nullTok r.src).reply e.dst 2 r.sdests (scalarTok 2) r.src)
      match s1.chan? ch with
      | none => gone
      | some c =>
        if c.state = .reserved then gone
        else if c.state = .broken then some (s1.raiseAt r.src { code := .linkDown, detail := wordOf c.base })
        else if 64 ≤ c.reqs.length then none
        else some ((s1.setChan ch { c with reqs := c.reqs ++ [r], recvSeq := c.recvSeq + 1 }).settleChan ch)
    | _ => none
  | none => none

/-- An emptied segment of a dynamic channel is returned at once (R304), unless later elements took places in it. -/
def dropEmptied (cap : Nat) : List (List Elem) → List (List Elem)
  | [] => []
  | g :: t => if g.isEmpty && decide ((t.map List.length).sum ≤ cap * t.length) then t else g :: t

/-- SPILL_READBACK: the oldest spilled element moves into the ring, and a segment it empties is returned (R304),
which lowers the thresholds and clears the quota-blocked mark (R303, R305). -/
def readbackEvent (ch : Nat) (s : State) : Option State :=
  match s.chan? ch with
  | none => none
  | some c =>
    if c.nring ≤ c.ring.length then none
    else match takeSegment c.segs with
      | none => none
      | some (e, segs) =>
        let left := if c.fixed then segs else dropEmptied (elemsPerSegment c.tile c.width) segs
        let back := left.length < segs.length
        let c1 := Chan.retune { c with ring := c.ring ++ [e], segs := left, lent := if back then c.lent.tail else c.lent, quota := if back then none else c.quota }
        let s1 := ((s.addSegments c.opener ((c1.owned : Int) - c.owned)).setChan ch c1).serveAll ch
        some (((if back then s1.maybeXon ch else s1).checkFlow ch).freeIfDone ch)

/-! ### Binding and release (R296, R298) -/

/-- The task's PE lies in the home's instance of the channel's reach (R252, R296). -/
def Chan.reaches (c : Chan) (pe : Nat) : Bool :=
  if c.reach = 2 then c.remote.isNone && c.die == dieOfPe pe else if c.reach = 3 then c.remote.isNone else true

/-- What the controller told a PE of a channel's flow before it answers a binding there reaches the PE first, and no endpoint (R16, R302). -/
def State.dropFlow (s : State) (ch pe : Nat) : State :=
  { s with net := s.net.filter fun p => match p.2.body with
      | .xoff c q | .xon c q => !(c == ch && q == pe)
      | _ => true }

/-- CHANNEL_BIND_REQUEST: the controller binds or refuses an endpoint, and the instruction goes on or faults (R296). -/
def bindEvent (n : Nat) (s : State) : Option State :=
  match s.msg? n with
  | some e => if !s.firstOn n e then none else match e.body with
    | .bind ch writer src =>
      let s1 := s.taken n
      let mine := fun (p : Endpoint) => p.pe == src.pe && p.task == src.task && p.ch == ch && p.writer == writer
      let waits := s1.parkedOn (fun k f => k / 256 == src.pe && f.task == src.task) (.bind ch writer)
      let part := match s1.ctx? src.ctx with | some x => x.part | none => 0
      let refuse := fun (code : Code) => waits.foldl (fun s p => s.faultParked code p) (s1.dropEndpoints mine)
      match s1.chan? ch with
      | none => some (refuse .channelState)
      | some c =>
        let slot := if writer then c.writer else c.reader
        let me := (src.pe, src.task, src.ctx)
        if part ≠ c.part then some (refuse .protection)
        else if c.state ≠ .opened ∨ (slot.isSome ∧ slot ≠ some me) ∨ !c.reaches src.pe then some (refuse .channelState)
        else
          let c1 := if writer then { c with writer := some me, xoff := false } else { c with reader := some me }
          let s2 := if writer then s1.dropFlow ch src.pe else s1
          some (waits.foldl (fun s p => s.unpark p.1 p.2) ((s2.setChan ch c1).modEndpoints mine fun p => { p with bound := true, xoff := false }))
    | _ => none
  | none => none

/-- ENDPOINT_RELEASE: a reader's takes effect once every request of the task was served (R298). -/
def epReleaseEvent (n : Nat) (s : State) : Option State :=
  match s.msg? n with
  | some e => if !s.firstOn n e then none else match e.body with
    | .epRelease ch writer pe task =>
      match s.chan? ch with
      | none => some (s.taken n)
      | some c =>
        let mine := fun (o : Option (Nat × Nat × Nat)) => match o with | some (p, t, _) => p == pe && t == task | none => false
        if writer then some (if mine c.writer then (s.taken n).setChan ch { c with writer := none } else s.taken n)
        else if !c.reqs.isEmpty then none
        else some (if mine c.reader then ((s.taken n).setChan ch { c with reader := none }).freeIfDone ch else s.taken n)
    | _ => none
  | none => none

/-- The endpoints of a task that ends are released (R298). -/
def State.releaseEndpoints (s : State) (pe task : Nat) : State :=
  let mine := s.pe.endpoints.filter fun e => e.pe == pe && e.task == task
  let s1 := mine.foldl (fun s e => match s.chan? e.ch with
    | some c => s.post (.pe pe) c.home 2 (.epRelease e.ch e.writer pe task)
    | none => s) s
  s1.dropEndpoints fun e => e.pe == pe && e.task == task

/-- XOFF reaches the writer's PE (R302). -/
def xoffEvent (n : Nat) (s : State) : Option State :=
  match s.msg? n with
  | some e => if !s.firstOn n e then none else match e.body with
    | .xoff ch pe => some ((s.taken n).modEndpoints (fun p => p.pe == pe && p.ch == ch && p.writer) fun p => { p with xoff := true })
    | _ => none
  | none => none

/-- XON reaches the writer's PE: parked sends proceed (R302). -/
def xonEvent (n : Nat) (s : State) : Option State :=
  match s.msg? n with
  | some e => if !s.firstOn n e then none else match e.body with
    | .xon ch pe =>
      let s1 := (s.taken n).modEndpoints (fun p => p.pe == pe && p.ch == ch && p.writer) fun p => { p with xoff := false }
      some ((s1.parkedOn (fun k _ => k / 256 == pe) (.xoff ch)).foldl (fun s p => s.unpark p.1 p.2) s1)
    | _ => none
  | none => none

/-! ### Closing (R319) -/

/-- Destroy a channel, as CHCLOSE mode 1 does. A bound reader's entry stays until its task ends: its later requests are answered
with status 2 (R322). -/
def State.destroyChan (s : State) (ch : Nat) : State :=
  match s.chan? ch with
  | none => s
  | some c =>
    let s1 := c.reqs.foldl (fun s r => s.answerNone c r 2) s
    let s2 := s1.faultSends ch .channelState
    (s2.modEndpoints (fun e => e.ch == ch) fun e => { e with closed := true }).freeChan ch

/-- Close a channel, as CHCLOSE mode 0 does. -/
def State.closeChan (s : State) (ch : Nat) : State :=
  match s.chan? ch with
  | none => s
  | some c =>
    let s1 := (s.setChan ch { c with state := .closed }).modEndpoints (fun e => e.ch == ch && e.writer) fun e => { e with closed := true }
    (s1.faultSends ch .channelState).settleChan ch

/-- CHCLOSE is legal from the bound writer's task, or from the opening context when no writer is bound or the channel is broken, which only mode 1
closes (R313, R319). -/
def Chan.mayClose (c : Chan) (src : Src) (mode : Nat) : Bool :=
  (c.writer == some (src.pe, src.task, src.ctx) || (c.opener == src.ctx && (c.writer.isNone || c.state == .broken))) &&
    (c.state != .broken || mode == 1)

/-- CHANNEL_CLOSE_MESSAGE (R319). -/
def closeEvent (n : Nat) (s : State) : Option State :=
  match s.msg? n with
  | some e => if !s.firstOn n e then none else match e.body with
    | .chClose ch va mode src =>
      let s1 := s.taken n
      let refuse := some (s1.raiseAt src { code := .channelState, detail := wordOf va })
      match s1.chan? ch with
      | none => refuse
      | some c =>
        if c.state = .reserved ∨ !c.mayClose src mode then refuse
        else some (if mode = 1 then s1.destroyChan ch else s1.closeChan ch)
    | _ => none
  | none => none

/-- Every channel a context opened is destroyed as it ends (R295). -/
def State.destroyChansOf (s : State) (c : Nat) : State :=
  s.chans.foldl (fun s p => if p.2.opener = c then s.destroyChan p.1 else s) s

/-- A quota that rose (R305): the quota-blocked channels of a context, in the order they were marked; under host-assisted spill the quota supplies
none (R306). -/
def State.quotaRaised (s : State) (c : Nat) : State :=
  if s.spillByHost c then s else
  let l := sortBy (fun p => p.2.quota.getD 0) (s.chans.filter fun p => p.2.opener == c && p.2.quota.isSome)
  l.foldl (fun s p => if s.segmentLeft c then (s.reserveSegment p.1).maybeXon p.1 else s) s

/-- Deliveries held for a context go on as it resumes (R311). -/
def State.chanResume (s : State) : State := s.chans.foldl (fun s p => s.settleChan p.1) s

/-- The host answers a segment request (R306): XON with the segment, or the quota-blocked mark. -/
def State.segmentReply (s : State) (ch : Nat) (granted : Bool) : State :=
  match s.chan? ch with
  | none => s
  | some c =>
    let s1 := s.setChan ch { c with segAsked := false }
    if granted then (s.setChan ch { (c.grown true) with segAsked := false, xoff := false }).tellWriter ch c false
    else s1.quotaBlock ch

/-! ### The quiescence monitor (R307 to R310) -/

/-- The silence of a context (R307). -/
def State.silenceOf (s : State) (c : Nat) : Nat := match s.ctx? c with | some x => x.silence | none => 0

/-- SILWIN as it reads (R391). -/
def Ctx.silWin (x : Ctx) : Nat := max 1900 x.regs.silwin.toNat

/-- SILWIN of a context. -/
def State.silWin (s : State) (c : Nat) : Nat := match s.ctx? c with | some x => x.silWin | none => 1900

/-- The two contexts the monitor judges: the writer's, and the reader's or the opening context (R308, R309). -/
def Chan.judged (c : Chan) : Nat × Nat :=
  (match c.writer with | some (_, _, w) => w | none => c.opener, match c.reader with | some (_, _, r) => r | none => c.opener)

/-- A candidate of a die's monitor (R308). -/
def State.candidate (s : State) (d : Nat) (p : Nat × Chan) : Bool :=
  let j := p.2.judged
  p.2.fixed && p.2.remote.isNone && p.2.die == d && p.2.state == .opened && p.2.xoff && !(s.parkedSends p.1).isEmpty &&
    decide (s.silWin j.1 ≤ s.silenceOf j.1) && decide (s.silWin j.1 ≤ s.silenceOf j.2)

/-- A probation window runs on a die. -/
def State.onProbation (s : State) (d : Nat) : Option (Nat × Chan) :=
  s.chans.find? fun p => p.2.remote.isNone && p.2.die == d && p.2.probation.isSome

/-- CHANNEL_DEADLOCK in both contexts, at the parked CHSEND (R309): once where they are one. -/
def State.raiseDeadlock (s : State) (ch : Nat) (c : Chan) : State :=
  let j := c.judged
  match s.parkedSends ch with
  | [] => s
  | p :: _ =>
    match s.frame? p.1 with
    | none => s
    | some f =>
      let s1 := s.faultParked .channelDeadlock p
      if j.1 = j.2 then s1
      else
        let src := srcOf p.1 f p.2
        s1.raise { s1.record src { code := .channelDeadlock, detail := f.baseOf p.2 } with src := { src with ctx := j.2 }, kept := false }

/-- MONITOR_EXTEND: the candidate of smallest NT, lowest base on a tie, is extended, reported, or found dead (R308, R309). -/
def monitorEvent (d : Nat) (s : State) : Option State :=
  if (s.onProbation d).isSome then none
  else
    let l := s.chans.filter fun p => s.candidate d p && !(p.2.reported && s.deadlockByHost p.2.opener)
    match leastBy (fun p => p.2.total * 2 ^ 64 + p.2.base) l with
    | none => none
    | some (ch, c) =>
      if s.deadlockByHost c.opener then
        some ((s.setChan ch { c with reported := true }).hostPost d 3 c.opener (wordOf c.base) (wordOf c.occupancy) Src.none [] [])
      else if !s.segmentLeft c.opener then some (s.raiseDeadlock ch c)
      else
        let s1 := s.reserveSegment ch
        match s1.chan? ch with
        | none => none
        | some c1 => some ((s1.setChan ch { c1 with ext := min 255 (c.ext + 1), probation := some (s.sched.cycle, s.sched.cycle + s.silWin c.judged.1) }).maybeXon ch)

/-- A context committed a block or had a reply since a cycle. -/
def State.activeSince (s : State) (c since : Nat) : Bool := match s.ctx? c with | some x => decide (since < x.lastActive) | none => false

/-- PROBATION_EXPIRY (R309). -/
def probationEvent (d : Nat) (s : State) : Option State :=
  match s.onProbation d with
  | none => none
  | some (ch, c) =>
    match c.probation with
    | none => none
    | some (t0, t1) =>
      if s.sched.cycle < t1 then none
      else
        let j := c.judged
        let s1 := s.setChan ch { c with probation := none }
        some (if s.activeSince j.1 t0 || s.activeSince j.2 t0 then s1 else s1.raiseDeadlock ch c)

/-! ### Links (R312, R313) -/

/-- A channel has an endpoint across a JX link. -/
def Chan.across (c : Chan) (link : Nat) : Bool := match c.remote with | some p => Config.linkOf p == link | none => false

/-- After a retrain, each writer across the link is told its flow state (R312). -/
def State.resendFlow (s : State) (link : Nat) : State :=
  s.chans.foldl (fun s p => if p.2.across link then s.tellWriter p.1 p.2 p.2.xoff else s) s

/-- Channels across a link break; parked requests and sends, and each context that holds an endpoint, have LINK_DOWN (R313). -/
def State.breakChan (s : State) (ch : Nat) (c : Chan) : State :=
  let s1 := s.setChan ch { c with state := .broken, reqs := [] }
  let s2 := c.reqs.foldl (fun s r => s.raiseAt r.src { code := .linkDown, detail := wordOf c.base }) (s1.faultSends ch .linkDown)
  let cs := ([c.writer, c.reader].filterMap fun o => o.map fun w => w.2.2).eraseDups
  let told := (c.reqs.map fun r => r.src.ctx) ++ (s.parkedSends ch).filterMap fun p => (s.frame? p.1).map fun f => f.ctx
  (cs.filter fun x => !told.contains x).foldl (fun s x => s.raiseNone { Src.none with ctx := x } { code := .linkDown, detail := wordOf c.base }) s2

/-- Every channel across a link breaks. -/
def State.breakLink (s : State) (link : Nat) : State :=
  s.chans.foldl (fun s p => if p.2.across link && p.2.state != .broken then s.breakChan p.1 p.2 else s) s

/-! ### Instructions (R315 to R322) -/

/-- The base of a channel instruction (R316): its checks in order, and the physical address it names. -/
def Firing.base (f : Firing) (s : State) : Except Stop Nat := do
  let a ← wantScalar f.a
  if !canonical a.toNat then failWith .protection a
  else if a.toNat % 65536 ≠ 0 then failWith .align a
  else do
    let ks ← rangeOrStop (s.checkRange f.fr.ctx f.pe .chan a.toNat 64) 0
    .ok ((ks.head?.map Prod.fst).getD 0)

/-- The channel open at a base, for the instructions that need one (R313, R316). -/
def Firing.openChan (f : Firing) (s : State) (ch : Nat) : Except Stop Chan :=
  match s.chan? ch with
  | none => failWith .channelState f.a.val
  | some c => if c.state = .reserved ∨ c.state = .broken then failWith .channelState f.a.val else .ok c

/-- The home die of a physical byte that may hold a channel (R293), with its package. -/
def chanDie (key : Nat) : Option (Nat × Option Nat) :=
  if 2 ^ 52 ≤ key then some (homeDie key, some ((key - 2 ^ 52) / 2 ^ 40))
  else match regionOf key with
    | .hbm st => some (st / 2, none)
    | .tile pe _ => some (pe / 256, none)
    | _ => none

/-- CHOPEN (R317, R318): the entry is reserved now and open at commit. One that names a broken channel raises CHANNEL_STATE (R313). -/
def chopenBody (w : ChopenW) : Body := fun f s => do
  let a ← wantScalar f.a
  let e := elemSize w.tile w.width.toNat
  let c := 64 * w.units.toNat
  if !canonical a.toNat then failWith .protection a
  else if a.toNat % 65536 ≠ 0 then failWith .align a
  else if c < 256 + e then failWith .operand
  else if !canonicalSpan a.toNat c then failWith .protection a
  else do
    let ks ← rangeOrStop (s.checkRange f.fr.ctx f.pe .chan a.toNat c) 0
    match ks with
    | [] => failWith .operand
    | k :: _ =>
      match chanDie k.1 with
      | none => failWith .operand
      | some home =>
        if ks.any fun r => chanDie r.1 != some home then failWith .operand
        else
          let pages := ks.map fun r => (r.1 / 65536 * 65536, 65536)
          if (s.chan? k.1).any fun c => c.state == .broken then failWith .channelState a
          else
          let nt := (c - 256) / e
          let t := thresholds w.tile w.width.toNat w.reach.code nt
          let ch : Chan := { base := a.toNat, pa := k.1, pages := pages, die := home.1, remote := home.2, opener := f.fr.ctx, part := f.x.part
                             tile := w.tile, width := w.width.toNat, fc := w.fc.toNat, fixed := w.fixed, reach := w.reach.code, nring := nt
                             off := t.1, on := t.2, state := .reserved, writer := none, reader := none, ring := [], segs := [], lent := [], sendSeq := 0
                             recvSeq := 0, reqs := [], xoff := false, quota := none, segAsked := false, ext := 0, probation := none
                             reported := false }
          if s.chans.any fun p => p.2.pages.any fun g => pages.any fun h => overlaps g h then
            .ok { st := f.replyTwo s ch.home (scalarTok 2) (scalarTok 0) }
          else if Config.channelsPerDie ≤ (s.chans.filter fun p => p.2.die == ch.die && p.2.remote == ch.remote).length then
            .ok { st := f.replyTwo s ch.home (scalarTok 0) (scalarTok 0) }
          else .ok { st := f.replyTwo ((s.setChan k.1 ch).hold f.key (.chopen k.1)) ch.home (scalarTok 1) (scalarTok (wordOf (t.1 * 2 ^ 32 + t.2))) }

/-- CHOPEN at commit (R318): no endpoint is bound, and what a PE still held of a channel destroyed here is gone. -/
def State.commitChopen (s : State) (ch : Nat) : State :=
  match s.chan? ch with
  | some c => (s.dropEndpoints fun e => e.ch == ch).setChan ch { c with state := .opened }
  | none => s

/-- CHCLOSE (R319) is sent at commit. -/
def chcloseBody : Body := fun f s => do
  let ch ← f.base s
  let b ← wantScalar f.b
  if 2 ≤ b.toNat then failWith .operand
  else match s.chan? ch with
    | none => failWith .channelState f.a.val
    | some c =>
      if c.state = .reserved ∨ (c.state = .broken ∧ b.toNat = 0) then failWith .channelState f.a.val
      else .ok { st := s.hold f.key (.chclose ch f.a.val.toNat b.toNat f.src) }

/-- CHCLOSE at commit: a class-2 message to the controller. -/
def State.commitChclose (s : State) (ch va mode : Nat) (src : Src) : State :=
  match s.chan? ch with
  | some c => s.post (.pe src.pe) c.home 2 (.chClose ch va mode src)
  | none => s.raiseAt src { code := .channelState, detail := wordOf va }

/-- The code of a channel state in the status word. -/
def ChanState.code : ChanState → Nat
  | .reserved => 0
  | .opened => 1
  | .closed => 2
  | .broken => 3

/-- The status word (R320): a request is parked where there is no element for it (R300). -/
def Chan.status (c : Chan) (sendPark : Bool) : Word :=
  if c.state = .reserved then 0 else
  wordOf (c.state.code * 2 ^ 62 + bit c.tile * 2 ^ 61 + c.width * 2 ^ 59 + bit c.fixed * 2 ^ 58 + bit c.writer.isSome * 2 ^ 57 +
    bit c.reader.isSome * 2 ^ 56 + bit c.xoff * 2 ^ 55 + bit sendPark * 2 ^ 54 + bit (decide (c.occupancy < c.reqs.length)) * 2 ^ 53 + bit c.quota.isSome * 2 ^ 52 +
    c.ext * 2 ^ 40 + min c.segs.length 65535 * 2 ^ 24 + min c.occupancy (2 ^ 24 - 1))

/-- CHSTAT (R320). -/
def chstatBody : Body := fun f s => do
  let ch ← f.base s
  match s.chan? ch with
  | none => .ok { st := f.replyBoth s (homeAgent ch) (scalarTok 0) }
  | some c => .ok { st := f.replyBoth s c.home (scalarTok (c.status !(s.parkedSends ch).isEmpty)) }

/-- The endpoint of an instruction's task (R296, R297): where it has none yet, a request goes to the controller and the
instruction parks. -/
def Firing.endpoint (f : Firing) (s : State) (ch : Nat) (c : Chan) (writer : Bool) : Except Stop (Endpoint ⊕ Done) :=
  match s.endpoint? f.pe f.fr.task ch writer with
  | some e => if e.bound then .ok (.inl e) else .ok (.inr { st := s, stat := .parked (.bind ch writer), again := true })
  | none =>
    if Config.endpointsPerPe ≤ (s.pe.endpoints.filter fun e => e.pe == f.pe).length then .error (.wait .space)
    else
      let e : Endpoint := { pe := f.pe, task := f.fr.task, ch := ch, writer := writer, bound := false, xoff := false, closed := false }
      let s1 := { s with pe := { s.pe with endpoints := s.pe.endpoints ++ [e] } }
      .ok (.inr { st := s1.post (.pe f.pe) c.home 2 (.bind ch writer f.src), stat := .parked (.bind ch writer), again := true })

/-- The element of a send (R294, R321): its value, or all its tile's codes, and the reference held until it is written. -/
def Firing.elementOf (f : Firing) (s : State) (c : Chan) : Except Stop (Elem × Option Word) :=
  if !c.tile then
    if f.b.kind ≠ .scalar then failWith .tokenKind
    else .ok ({ val := f.b.val, rows := 0, cols := 0, nonfinite := false, codes := [] }, none)
  else do
    let b ← f.tile s f.b
    if b.slot.width ≠ c.width then failWith .operand
    else .ok ({ val := 0, rows := b.rows, cols := b.cols, nonfinite := b.slot.nonfinite, codes := b.slot.codes }, some b.h)

/-- CHSEND and CHTRYS (R321): under XON the element leaves, and from there the instruction has performed (R311). -/
def sendBody (isTry : Bool) : Body := fun f s => do
  let ch ← f.base s
  let c ← f.openChan s ch
  match ← f.endpoint s ch c true with
  | .inr d => .ok d
  | .inl ep =>
    if ep.closed then failWith .channelState f.a.val
    else do
      let e ← f.elementOf s c
      if ep.xoff then
        if isTry then .ok { st := s.markPerformed f.key, t0 := some f.b, t1 := some (scalarTok 0) }
        else if c.quota.isSome then failWith .spillQuota f.a.val
        else .ok { st := s, stat := .parked (.xoff ch), again := true }
      else do
        f.awaitBefore s
        let r := (s.markPerformed f.key).takeNumber f.fr.ctx f.pe .tls
        let n := scalarTok (wordOf r.2)
        let s2 := r.1.post (.pe f.pe) c.home 2 (.element ch e.1 f.src r.2 e.2)
        .ok { st := s2, t0 := some n, t1 := some (if isTry then scalarTok 1 else n), keep := [f.b] }

/-- A reader whose channel was destroyed since it was bound (R322: status 2). -/
def State.readerCut (s : State) (pe task ch : Nat) : Bool :=
  match s.endpoint? pe task ch false with
  | some e => e.bound && e.closed
  | none => false

/-- CHRECV and CHTRYR (R322): the request waits at the controller's ingress, and has performed once it is accepted (R311). -/
def recvBody (isTry : Bool) : Body := fun f s => do
  let ch ← f.base s
  let r : RecvReq := { src := f.src, dests := destsOf f.src [f.h.t0], sdests := destsOf f.src [f.h.t1], isTry := isTry }
  let n := s.sched.serial
  let send := fun (home : Agent) => ({ st := (s.expect f.key f.fan).post (.pe f.pe) home 2 (.recvReq ch r), stat := .parked (.home n) } : Done)
  if s.readerCut f.pe f.fr.task ch then .ok (send (homeAgent ch))
  else do
    let c ← f.openChan s ch
    match ← f.endpoint s ch c false with
    | .inr d => .ok d
    | .inl _ => .ok (send c.home)

/-- CHOPEN (R317, R318). -/
def execChopen (h : Hdr) (w : ChopenW) (s : State) : Host.Outcome State Fault Refusal := fire (.chopen h w) (chopenBody w) s
/-- CHCLOSE (R319). -/
def execChclose (h : Hdr) (s : State) : Host.Outcome State Fault Refusal := fire (.chclose h) chcloseBody s
/-- CHSTAT (R320). -/
def execChstat (h : Hdr) (s : State) : Host.Outcome State Fault Refusal := fire (.chstat h) chstatBody s
/-- CHSEND (R321). -/
def execChsend (h : Hdr) (s : State) : Host.Outcome State Fault Refusal := fire (.chsend h) (sendBody false) s
/-- CHTRYS (R321). -/
def execChtrys (h : Hdr) (s : State) : Host.Outcome State Fault Refusal := fire (.chtrys h) (sendBody true) s
/-- CHRECV (R322). -/
def execChrecv (h : Hdr) (s : State) : Host.Outcome State Fault Refusal := fire (.chrecv h) (recvBody false) s
/-- CHTRYR (R322). -/
def execChtryr (h : Hdr) (s : State) : Host.Outcome State Fault Refusal := fire (.chtryr h) (recvBody true) s
/-- CHANNEL_BIND_REQUEST (R296). -/
def execChannelBindRequest (n : Nat) (s : State) : Host.Outcome State Fault Refusal := event "CHANNEL_BIND_REQUEST" (bindEvent n s)
/-- CHANNEL_ELEMENT (R299). -/
def execChannelElement (n : Nat) (s : State) : Host.Outcome State Fault Refusal := event "CHANNEL_ELEMENT" (elementEvent n s)
/-- CHANNEL_RECEIVE_REQUEST (R300). -/
def execChannelReceiveRequest (n : Nat) (s : State) : Host.Outcome State Fault Refusal := event "CHANNEL_RECEIVE_REQUEST" (recvEvent n s)
/-- SPILL_READBACK (R304). -/
def execSpillReadback (ch : Nat) (s : State) : Host.Outcome State Fault Refusal := event "SPILL_READBACK" (readbackEvent ch s)
/-- ENDPOINT_RELEASE (R298). -/
def execEndpointRelease (n : Nat) (s : State) : Host.Outcome State Fault Refusal := event "ENDPOINT_RELEASE" (epReleaseEvent n s)
/-- CHANNEL_CLOSE_MESSAGE (R319). -/
def execChannelCloseMessage (n : Nat) (s : State) : Host.Outcome State Fault Refusal := event "CHANNEL_CLOSE_MESSAGE" (closeEvent n s)
/-- XOFF (R302). -/
def execXoff (n : Nat) (s : State) : Host.Outcome State Fault Refusal := event "XOFF" (xoffEvent n s)
/-- XON (R302). -/
def execXon (n : Nat) (s : State) : Host.Outcome State Fault Refusal := event "XON" (xonEvent n s)
/-- MONITOR_EXTEND (R308). -/
def execMonitorExtend (d : Nat) (s : State) : Host.Outcome State Fault Refusal := event "MONITOR_EXTEND" (monitorEvent d s)
/-- PROBATION_EXPIRY (R309). -/
def execProbationExpiry (d : Nat) (s : State) : Host.Outcome State Fault Refusal := event "PROBATION_EXPIRY" (probationEvent d s)

end Sys2Proof.Machine
end

