-- ==== Sys2Proof/Machine/Copy.lean ====
section
/-! DEFINITION. Copies: packets, the copy unit, completion, user-mode queues and the filling of operand rings (R323 to R346). -/

namespace Sys2Proof.Machine

/-! ### Packets (R325 to R328) -/

/-- Dimensions in an extension packet (R326): none where it is malformed. -/
def extDims (l : List Byte) : Option (List (Nat × Int × Int)) :=
  let used := fieldAt l 62 1
  if fieldAt l 63 1 ≠ 2 ∨ used = 0 ∨ 3 < used ∨ fieldAt l 60 2 ≠ 0 ∨ fieldAt l (20 * used) (60 - 20 * used) ≠ 0 then none
  else some ((List.range used).map fun j =>
    (fieldAt l (20 * j) 4, signedOf 64 (fieldAt l (20 * j + 4) 8), signedOf 64 (fieldAt l (20 * j + 12) 8)))

/-- The dimensions of the extension packets of a group. -/
def extsOf : Nat → List Byte → Option (List (Nat × Int × Int))
  | 0, _ => some []
  | n + 1, l =>
    match extDims (l.take 64), extsOf n (l.drop 64) with
    | some a, some b => some (a ++ b)
    | _, _ => none

/-- An empty copy (R327). -/
def Packet.empty (p : Packet) : Bool := p.len0 == 0 || p.dims.any fun d => d.1 == 0

/-- The runs of a copy in the order of R327: the first byte of each at the source and the destination. -/
def runsFrom : List (Nat × Int × Int) → List (Int × Int) → List (Int × Int)
  | [], l => l
  | d :: t, l => (runsFrom t l).flatMap fun b => (List.range d.1).map fun i => (b.1 + Int.ofNat i * d.2.1, b.2 + Int.ofNat i * d.2.2)

/-- The runs of a packet. -/
def Packet.runs (p : Packet) : List (Int × Int) :=
  if p.empty then [] else runsFrom p.dims [(Int.ofNat p.source, Int.ofNat p.dest)]

/-- Bytes a copy moves. -/
def Packet.bytes (p : Packet) : Nat := p.dims.foldl (fun n d => n * d.1) p.len0

/-- The span from a base over strides, lowest to highest byte, is canonical (R218, R328). -/
def spanGood (base : Nat) (len : Nat) (dims : List (Nat × Int)) : Bool :=
  let lo : Int := dims.foldl (fun (a : Int) d => if d.2 < 0 then a + Int.ofNat (d.1 - 1) * d.2 else a) (Int.ofNat base)
  let hi : Int := dims.foldl (fun (a : Int) d => if 0 < d.2 then a + Int.ofNat (d.1 - 1) * d.2 else a) (Int.ofNat base + Int.ofNat len - 1)
  decide (0 ≤ lo) && decide (hi < 2 ^ 64) && canonical lo.toNat && canonical hi.toNat && lo.toNat / 2 ^ 56 == hi.toNat / 2 ^ 56

/-- Both spans of a non-empty copy are canonical (R328). -/
def Packet.spansGood (p : Packet) : Bool :=
  p.empty || (spanGood p.source p.len0 (p.dims.map fun d => (d.1, d.2.1)) && spanGood p.dest p.len0 (p.dims.map fun d => (d.1, d.2.2)))

/-- The base packet may be followed by the extension packets it names (R325). -/
def groupExt (l : List Byte) : Option Nat := if fieldAt l 63 1 = 1 ∧ fieldAt l 62 1 ≤ 4 then some (fieldAt l 62 1) else none

/-- A packet group from its bytes: none where it is malformed (R328). -/
def packetOf (l : List Byte) : Option Packet :=
  match groupExt l with
  | none => none
  | some ext =>
    match extsOf ext (l.drop 64) with
    | none => none
    | some ds =>
      let p : Packet :=
        { source := fieldAt l 0 8, dest := fieldAt l 8 8, len0 := fieldAt l 16 4
          dims := (fieldAt l 20 4, signedOf 64 (fieldAt l 24 8), signedOf 64 (fieldAt l 32 8)) :: ds
          signal := fieldAt l 40 8, wait := bitAt (fieldAt l 61 1) 0, ext := ext }
      if 2 ≤ fieldAt l 61 1 ∨ fieldAt l 48 13 ≠ 0 ∨ 12 < p.dims.length + 1 ∨ p.signal % 8 ≠ 0 ∨ !p.spansGood then none else some p

/-! ### Acceptance and start (R323, R324, R334) -/

/-- Copies in flight of a PE (R323). -/
def State.copiesOn (s : State) (pe : Nat) : Nat := (s.copies.filter fun p => p.2.src.pe == pe).length

/-- A copy that neither reads, writes nor signals: it completes at once (R332). -/
def Packet.idle (p : Packet) : Bool := p.empty && p.signal == 0

/-- A copy is accepted (R323). -/
def State.acceptCopy (s : State) (k : Copy) : State := State.bump { s with copies := s.copies.put s.sched.serial k }

/-- A copy as it is accepted. -/
def Copy.new (src : Src) (poster : Nat) (queue : Option Nat) (qslot : Nat) (p : Packet) (route : Option RingRoute) (tlc : Option Nat) : Copy :=
  { src := src, poster := poster, queue := queue, qslot := qslot, packet := p, route := route, tlc := tlc, phase := .accepted, buf := []
    beat := 0, head := none, aborted := false }

/-- Two copies have one poster: the same task, or the same queue (R324). -/
def Copy.samePoster (a b : Copy) : Bool := a.queue == b.queue && (a.queue.isSome || a.poster == b.poster)

/-- The context of a copy issues: a halted one starts no read (R331). -/
def State.copyLive (s : State) (k : Copy) : Bool := match s.ctx? k.src.ctx with | some x => x.state.issues | none => false

/-- A copy may start (R324): with Wait, once every earlier copy of its poster has completed; else in acceptance order. -/
def State.mayStart (s : State) (n : Nat) (k : Copy) : Bool :=
  k.phase == .accepted && s.copyLive k &&
    !(s.copies.any fun p => decide (p.1 < n) &&
      (if k.packet.wait then p.2.samePoster k
       else p.2.src.pe == k.src.pe && p.2.phase == .accepted && !p.2.packet.wait && s.copyLive p.2))

/-- The cells of runs on one side: virtual addresses with their place in the stream. -/
def runCells (len : Nat) (bases : List Int) : List (List (Nat × Nat)) :=
  (bases.zipIdx).map fun b => (List.range len).map fun j => ((b.1 + Int.ofNat j).toNat, b.2 * len + j)

/-- Cells grouped by 64-byte granule. -/
def granulesOf (l : List (Nat × Nat)) : List (List (Nat × Nat)) :=
  ((l.map fun c => c.1 / 64).eraseDups).map fun g => l.filter fun c => c.1 / 64 == g

/-- The read pieces of a copy (R334): the bytes one run reads within one granule. -/
def Packet.readPieces (p : Packet) : List (List (Nat × Nat)) :=
  (runCells p.len0 (p.runs.map Prod.fst)).flatMap granulesOf

/-- Of several writes of one byte by one copy, one stays: which is free choice (R335). -/
def State.pickWrites (s : State) (cells : List (Nat × Nat)) : State × List (Nat × Nat) :=
  ((cells.map Prod.fst).eraseDups).foldl (fun r va =>
    match cells.filter fun c => c.1 == va with
    | [c] => (r.1, r.2 ++ [c])
    | l => (r.1.drawn, r.2 ++ [nthD l (r.1.freeChoice l.length) (va, 0)])) (s, [])

/-- The write pieces of a copy (R334): every byte the whole copy writes within one granule. -/
def State.writePieces (s : State) (p : Packet) : State × List (List (Nat × Nat)) :=
  (granulesOf (runCells p.len0 (p.runs.map Prod.snd)).flatten).foldl (fun r g =>
    let q := r.1.pickWrites g
    (q.1, r.2 ++ [q.2])) (s, [])

/-- An access of a copy (R324, R334): a write waits for its bytes. -/
def Copy.access (k : Copy) (write : Bool) (purpose : AccFor) (cells : List (Nat × Nat)) : Access :=
  { src := k.src, stream := 8, lsid := 0, write := write, released := write, cells := cells, buf := [], pieces := [], dests := [], extra := []
    purpose := purpose, state := .walk, refused := [], step := none, issued := 0, prior := [], fwd := [] }

/-- COPY_START (R324): the copy's reads are issued; its writes follow as their bytes arrive. -/
def copyStartEvent (n : Nat) (s : State) : Option State :=
  match s.copies.get? n with
  | none => none
  | some k =>
    if !s.mayStart n k then none
    else
      let len := k.packet.bytes
      let s1 := { s with copies := s.copies.put n { k with phase := .running, buf := List.replicate len 0 } }
      let s2 := k.packet.readPieces.foldl (fun s c => s.addAccess (k.access false (.copyRead n) c)) s1
      match k.route with
      | some r => some (s2.tellHead r.pe r.ring n k)
      | none =>
        let w := s2.writePieces k.packet
        some (w.2.foldl (fun s c => s.addAccess (k.access true (.copyWrite n) c)) w.1)

/-! ### Rings (R339, R344) -/

/-- Beats of an entry of a width code. -/
def beatsOf (w : Nat) : Nat := 4 * 2 ^ w

/-- The token of a beat (R198). -/
def RingRoute.token (r : RingRoute) (slot beat : Nat) : BitVec 128 :=
  let seq := (r.first + beat / beatsOf r.width) % 2 ^ 32
  let v := seq * 2 ^ 32 + r.rows * 2 ^ 28 + r.cols * 2 ^ 24 + beat % beatsOf r.width * 2 ^ 6
  tokenRaw 6 { kind := .scalar, val := wordOf v } slot r.pe 0 0 r.ring

/-- Send the beats whose bytes are there and whose entries the ring has room for (R339), up to a number of them. -/
def State.pump (s : State) (n : Nat) : Nat → State
  | 0 => s
  | fuel + 1 =>
    match s.copies.get? n with
    | none => s
    | some k =>
      match k.route, k.head with
      | some r, some (head, depth) =>
        let b := k.beat
        let seq := (r.first + b / beatsOf r.width) % 2 ^ 32
        if k.aborted || decide (k.packet.bytes ≤ 64 * b) || decide (depth ≤ (seq + 2 ^ 32 - head % 2 ^ 32) % 2 ^ 32) ||
            s.copyReading n (fun i => i / 64 == b) then s
        else
          let s1 := { s with copies := s.copies.put n { k with beat := b + 1 } }
          State.pump (s1.post (.pe k.src.pe) (.pe r.pe) 6 (.packet (r.token (s.slotOf k.src.ctx) b) ((k.buf.drop (64 * b)).take 64) n)) n fuel
      | _, _ => s

/-- A copy's beats that can go, go. -/
def State.pumpAll (s : State) (n : Nat) : State :=
  match s.copies.get? n with
  | some k => s.pump n (k.packet.bytes / 64 + 1)
  | none => s

/-- RING_HEAD_UPDATE (R339). -/
def headUpdateEvent (n : Nat) (s : State) : Option State :=
  match s.msg? n with
  | some e => if !s.first n e then none else match e.body with
    | .headUpdate c head depth =>
      let s1 := s.taken n
      some (match s1.copies.get? c with
        | some k => State.pumpAll { s1 with copies := s1.copies.put c { k with head := some (head, depth) } } c
        | none => s1)
    | _ => none
  | none => none

/-! ### Queues (R336 to R338) -/

/-- The physical address of the slot of an index (R336). -/
def CopyQueue.slotPa (q : CopyQueue) (k : Nat) : Nat := runAt q.pages (64 + 64 * (k % q.slots))

/-- The virtual address of the slot of an index. -/
def CopyQueue.slotVa (q : CopyQueue) (k : Nat) : Nat := q.header + 64 + 64 * (k % q.slots)

/-- Bytes of `m` slots from an index up, wrapping. -/
def State.slotBytes (s : State) (q : CopyQueue) (k m : Nat) : List Byte := (List.range m).flatMap fun i => s.readBytes (q.slotPa (k + i)) 64

/-- A slot among `m` from an index up is poisoned. -/
def State.slotsPoisoned (s : State) (q : CopyQueue) (k m : Nat) : Bool := (List.range m).any fun i => s.poisoned (q.slotPa (k + i))

/-- The unit frees the slots of a group and advances Read past them (R337). -/
def State.takeGroup (s : State) (q : CopyQueue) (k m : Nat) : State :=
  ((List.range m).foldl (fun s i => s.writeByte (q.slotPa (k + i) + 63) 0) s).write64 (q.headerPa + 8) ((k + m) % 2 ^ 64)

/-- Completed counts a queue copy completed or aborted (R336, R338). -/
def State.countCompleted (s : State) (q : CopyQueue) : State :=
  s.write64 (q.headerPa + 16) ((s.read64 (q.headerPa + 16) + 1) % 2 ^ 64)

/-- The unit reads what the doorbell exposes, while it has room (R337): each group is accepted, or aborted where malformed. -/
def State.serveQueue (s : State) (qi : Nat) : Nat → State
  | 0 => s
  | fuel + 1 =>
    match s.dev.queues.get? qi with
    | none => s
    | some q =>
      let k := s.read64 (q.headerPa + 8)
      let b := s.readBytes (q.slotPa k) 64
      let live := match s.ctx? q.ctx with | some x => x.state.issues | none => false
      if !q.valid || !live || decide (q.door ≤ k) || fieldAt b 63 1 == 0 || decide (Config.maxCopies ≤ s.copiesOn q.pe) then s
      else
        let m := 1 + (groupExt b).getD 0
        let src : Src := { Src.none with ctx := q.ctx, pe := q.pe, frame := 0xFF, block := q.slotVa k, idx := 0xFF }
        let s1 := s.takeGroup q k m
        if s.slotsPoisoned q k m then ((s1.queueError qi k Code.uncorrectable.num).countCompleted q).serveQueue qi fuel
        else match packetOf (s.slotBytes q k m) with
          | none => ((s1.queueError qi k Code.operand.num).countCompleted q).serveQueue qi fuel
          | some p => (if p.idle then s1.countCompleted q else s1.acceptCopy (Copy.new src 0 (some qi) k p none none)).serveQueue qi fuel

/-- Serve a queue as far as it goes. -/
def State.serve (s : State) (qi : Nat) : State :=
  match s.dev.queues.get? qi with
  | some q => s.serveQueue qi q.slots
  | none => s

/-- Serve every queue of a PE: a place in its unit is free. -/
def State.servePe (s : State) (pe : Nat) : State := (List.range 16).foldl (fun s i => s.serve (16 * pe + i)) s

/-- Queues of a context go on as it resumes (R331). -/
def State.copyResume (s : State) (c : Nat) : State := s.dev.queues.foldl (fun s p => if p.2.ctx = c then s.serve p.1 else s) s

/-- A queue that was unregistered goes once none of its copies is in flight (R470). -/
def State.dropQueue (s : State) (qi : Nat) : State :=
  match s.dev.queues.get? qi with
  | some q =>
    if q.valid || s.copies.any fun p => p.2.queue == some qi then s
    else { s with dev := { s.dev with queues := s.dev.queues.del qi } }
  | none => s

/-- Register a queue (R336): its header and slots are translated once; none where they do not lie in normal memory with Rd and W, or
the header is not one (DESIGN CHOICE, assumption log 26). -/
def State.newQueue (s : State) (qi c header : Nat) : Option CopyQueue :=
  if header % 64 ≠ 0 ∨ !canonicalSpan header 64 then none
  else match s.checkRange c (qi / 16) .object header 64 with
    | .ok hk =>
      let pa := (hk.head?.map Prod.fst).getD 0
      let slots := leNat (s.readBytes (pa + 24) 4)
      if slots < 16 ∨ 65536 < slots ∨ 2 ^ slots.log2 ≠ slots ∨ !canonicalSpan header (64 + 64 * slots) then none
      else match s.checkRange c (qi / 16) .object header (64 + 64 * slots) with
        | .ok ks => some { ctx := c, pe := qi / 16, header := header, headerPa := pa, pages := ks, slots := slots, door := 0, valid := true }
        | _ => none
    | _ => none

/-- A write to a copy-queue registration by a partition (R470): setting Valid registers the queue, clearing it unregisters it once its
copies have completed; one to reserved bytes alone does nothing (R6). -/
def State.registerQueue (s : State) (off : Nat) (data : List Byte) (part : Nat) : State :=
  if 11 ≤ off % 32 then s else
  let qi := (off - 0x02000000) / 32
  let base := 0x02000000 + 32 * qi
  let s1 := s.devPut off data
  if s1.regValid qi then
    let c := s1.devNat (base + 8) 2
    if !(match s.ctx? c with | some x => x.part == part | none => false) then s
    else match s1.newQueue qi c (s1.devNat base 8) with
      | none => s
      | some q => { s1 with dev := { s1.dev with queues := s1.dev.queues.put qi q } }
  else
    match s1.dev.queues.get? qi with
    | some q => State.dropQueue { s1 with dev := { s1.dev with queues := s1.dev.queues.put qi { q with valid := false } } } qi
    | none => s1

/-- A doorbell write (R337). -/
def State.ringDoorbell (s : State) (off : Nat) (data : List Byte) : State :=
  let qi := (off - 0x03000000) / 64
  match s.dev.queues.get? qi with
  | some q =>
    if (off - 0x03000000) % 64 ≠ 0 then s
    else State.serve { s with dev := { s.dev with queues := s.dev.queues.put qi { q with door := max q.door (leNat data) } } } qi
  | none => s

/-! ### Completion (R332, R333) -/

/-- Accesses of a copy in flight. -/
def State.copyBusy (s : State) (n : Nat) : Bool :=
  s.mem.accesses.any fun p => p.2.purpose == .copyRead n || p.2.purpose == .copyWrite n

/-- Packets of a copy in flight. -/
def State.packetsOut (s : State) (n : Nat) : Bool :=
  s.net.any fun p => match p.2.body with | .packet _ _ c => c == n | _ => false

/-- A copy is complete: its number completes, or its queue counts it, and its place is free (R323, R332, R338). -/
def State.finishCopy (s : State) (n : Nat) (k : Copy) : State :=
  let s1 := { s with copies := s.copies.del n }
  let s2 := match k.tlc with
    | some m => s1.completeNumber k.src.ctx k.src.pe .tlc m
    | none => s1
  let s3 := match k.queue with
    | some qi => (match s2.dev.queues.get? qi with | some q => (s2.countCompleted q).dropQueue qi | none => s2)
    | none => s2
  s3.servePe k.src.pe

/-- The Signal add of a copy goes to its engine (R333). -/
def State.signalCopy (s : State) (n : Nat) (k : Copy) : Option State :=
  let va := k.packet.signal
  let page := fun (kind level : Nat) =>
    match s.pageEntry k.src kind va level with
    | .none => some (s.abortCopy n { code := .page, detail := wordOf va })
    | .full => none
    | .entry s1 e => some { s1 with copies := s1.copies.put n { k with phase := .parked e } }
  if !canonicalSpan va 8 then some (s.abortCopy n { code := .protection, detail := wordOf va })
  else match s.check1 k.src.ctx [k.src.pe, 2048 + dieOfPe k.src.pe] .atomic va with
    | .page level => page 1 level
    | .blocked => page 2 0
    | .prot => some (s.abortCopy n { code := .protection, detail := wordOf va })
    | .ok pa _ refused =>
      match homeQuad pa with
      | none => some (s.abortCopy n { code := .protection, detail := wordOf va })
      | some q =>
        let req : AtomReq := { src := k.src, bank := pa / 64 % 4, arrival := s.sched.cycle, near := q == quadOfPe k.src.pe && pa < 2 ^ 52
                               va := va, pa := pa, size := 8, op := .add, b := 1, c := 0, release := false, stream := 8, dests := [], tla := 0
                               accepted := none, purpose := .signal n, refused := refused }
        some (State.bump { s with copies := s.copies.put n { k with phase := .signalling }
                                  sync := { s.sync with reqs := s.sync.reqs.put s.sched.serial req } })

/-- COPY_COMPLETE: a copy with nothing left to do completes, after its Signal add if it has one (R332, R333). -/
def copyCompleteEvent (n : Nat) (s : State) : Option State :=
  match s.copies.get? n with
  | none => none
  | some k =>
    match k.phase with
    | .finished => if s.copyBusy n || s.packetsOut n then none else some (s.finishCopy n k)
    | .running =>
      if s.copyBusy n || s.packetsOut n || (!k.aborted && k.route.isSome && decide (64 * k.beat < k.packet.bytes)) then none
      else if k.aborted || k.packet.signal == 0 then some (s.finishCopy n k)
      else s.signalCopy n k
    | _ => none

/-! ### Instructions (R341 to R346) -/

/-- The bytes of a group in memory (R325, R342): a fetch, which PAGE parks. -/
def Firing.fetchGroup (f : Firing) (s : State) (va : Nat) : Except Stop (List Byte) := do
  let part := fun (len : Nat) =>
    if !canonicalSpan va len then failWith .protection (wordOf va)
    else do
      let ks ← rangeOrStop (s.checkRange f.fr.ctx f.pe (.load false) va len) 0
      match s.runsPoisoned ks with
      | some g => failWith .uncorrectable (wordOf g)
      | none => Except.ok (s.readRuns ks)
  let head ← part 64
  match groupExt head with
  | none => failWith .operand
  | some ext => part (64 + 64 * ext)

/-- Read a group in memory, once: none that is malformed (R328, R342). -/
def Firing.readGroup (f : Firing) (s : State) (va : Nat) : Except Stop (Packet × List Byte) := do
  let l ← f.once (f.fetchGroup s va)
  match packetOf l with
  | none => failWith .operand
  | some p => .ok (p, l)

/-- The number of the task an instruction runs in. -/
def Firing.poster (f : Firing) (s : State) : Nat := match s.task? f.pe f.fr.task with | some t => t.num | none => 0

/-- The copy is accepted, takes its tlc number, and replies with it (R342): performed from here. One with nothing to do is complete (R332). -/
def Firing.post (f : Firing) (s : State) (p : Packet) (route : Option RingRoute) (read : List Byte) : Except Stop Done :=
  if Config.maxCopies ≤ s.copiesOn f.pe then .error (.hold .space read)
  else
    let t := (s.markPerformed f.key).takeNumber f.fr.ctx f.pe .tlc
    let s1 := if p.idle then t.1.completeNumber f.fr.ctx f.pe .tlc t.2
              else t.1.acceptCopy (Copy.new f.src (f.poster s) none 0 p route (some t.2))
    .ok { st := f.replyBoth s1 (.pe f.pe) (scalarTok (wordOf t.2)) }

/-- CPY (R342). -/
def cpyBody : Body := fun f s => do
  let a ← wantScalar f.a
  f.awaitBefore s
  if a.toNat % 64 ≠ 0 then failWith .align a
  else do
    let g ← f.readGroup s a.toNat
    f.post s g.1 none g.2

/-- The packet of a CPY1 (R342, R343). -/
def cpy1Packet (a b : Word) (w : Cpy1W) : Packet :=
  { source := a.toNat, dest := b.toNat, len0 := w.len.toNat, dims := [(1, 0, 0)], signal := 0, wait := w.wait, ext := 0 }

/-- CPY1 (R342, R343). -/
def cpy1Body (w : Cpy1W) : Body := fun f s => do
  let a ← wantScalar f.a
  let b ← wantScalar f.b
  let p := cpy1Packet a b w
  if !p.spansGood then failWith .protection (if spanGood a.toNat p.len0 [] then b else a)
  else do
    f.awaitBefore s
    f.post s p none []

/-- CPYR (R342, R344). The copy waits where its word or its packet says so. -/
def cpyrBody (w : CpyrW) : Body := fun f s => do
  let a ← wantScalar f.a
  let b ← wantScalar f.b
  f.awaitBefore s
  if a.toNat % 64 ≠ 0 then failWith .align a
  else do
    let g ← f.readGroup s a.toNat
    let p : Packet := { g.1 with wait := g.1.wait || w.wait }
    let n := (w.count.toNat + 1) * 256 * 2 ^ w.width.toNat
    if b.toNat / 2 ^ 43 ≠ 0 ∨ p.dest ≠ 0 ∨ p.bytes ≠ n then failWith .operand
    else
      let r : RingRoute := { pe := bitsAt b.toNat 32 11, ring := w.ring.toNat, first := bitsAt b.toNat 0 32, count := w.count.toNat + 1
                             rows := w.rows.toNat, cols := w.cols.toNat, width := w.width.toNat }
      f.post s p (some r) g.2

/-- The queue of a context whose header is at an address (R345). -/
def State.queueAt (s : State) (c header : Nat) : Option (Nat × CopyQueue) :=
  s.dev.queues.find? fun p => p.2.valid && p.2.ctx == c && p.2.header == header

/-- CPQPOST (R345). -/
def cpqpostBody : Body := fun f s => do
  let a ← wantScalar f.a
  let b ← wantScalar f.b
  if a.toNat % 64 ≠ 0 then failWith .align a
  else if b.toNat % 64 ≠ 0 then failWith .align b
  else match s.queueAt f.fr.ctx a.toNat with
    | none => failWith .operand
    | some (qi, q) => do
      let g ← f.readGroup s b.toNat
      f.holdBefore s g.2
      let m := 1 + g.1.ext
      let w := s.read64 q.headerPa
      let read := s.read64 (q.headerPa + 8)
      let s1 := s.markPerformed f.key
      let from_ := match homeQuad q.headerPa with | some h => Agent.quad h | none => .io
      let reply := fun (s : State) => ((s.expect f.key (namedTargets { f.h with t1 := .none }).length).reply from_ 1 (destsOf f.src [f.h.t0]) (scalarTok (wordOf w)) f.src)
      if w + m ≤ read + q.slots then
        let s2 := s1.write64 q.headerPa (w + m)
        let s3 := (List.range m).foldl (fun s i => s.writeBytes (q.slotPa (w + i)) ((g.2.drop (64 * i)).take 64)) s2
        let s4 := s3.postFor f.fr.ctx (.pe f.pe) .io 0 (.devWrite (0x03000000 + 64 * qi) (leBytes 8 (w + m)) none none)
        .ok { st := reply s4, t1 := some (scalarTok 1) }
      else .ok { st := reply s1, t1 := some (scalarTok 0) }

/-- Bytes of a copy not yet written. -/
def State.copyLeft (s : State) (n : Nat) (k : Copy) : Nat :=
  match k.phase, k.route with
  | .accepted, _ => k.packet.bytes
  | _, some _ => k.packet.bytes - 64 * k.beat
  | _, none => s.mem.accesses.foldl (fun m p => if p.2.purpose == .copyWrite n then m + p.2.cells.length else m) 0

/-- A copy is parked on a fault entry. -/
def State.copyParked (s : State) (n : Nat) (k : Copy) : Bool :=
  (match k.phase with | .parked _ => true | _ => false) ||
    s.mem.accesses.any fun p => (p.2.purpose == .copyRead n || p.2.purpose == .copyWrite n) && (match p.2.state with | .parked _ => true | _ => false)

/-- CPSTAT (R346). -/
def cpstatBody : Body := fun f s => do
  let a ← wantScalar f.a
  let t := (s.pctx f.fr.ctx f.pe).tlc
  if t.taken < a.toNat then failWith .operand
  else
    let mine := s.copies.filter fun p => p.2.src.ctx == f.fr.ctx && p.2.src.pe == f.pe
    let one := mine.find? fun p => p.2.tlc == some a.toNat && !p.2.aborted
    let v := match one with
      | none => 0
      | some (n, k) =>
        (if k.phase == .accepted then 1 else if s.copyParked n k then 3 else 2) * 2 ^ 62 + min (s.copyLeft n k) (2 ^ 48 - 1)
    .ok (Done.scalar s (wordOf (v + mine.length * 2 ^ 48)))

/-- CPY (R342). -/
def execCpy (h : Hdr) (s : State) : Host.Outcome State Fault Refusal := fire (.cpy h) cpyBody s
/-- CPY1 (R342, R343). -/
def execCpy1 (h : Hdr) (w : Cpy1W) (s : State) : Host.Outcome State Fault Refusal := fire (.cpy1 h w) (cpy1Body w) s
/-- CPYR (R342, R344). -/
def execCpyr (h : Hdr) (w : CpyrW) (s : State) : Host.Outcome State Fault Refusal := fire (.cpyr h w) (cpyrBody w) s
/-- CPQPOST (R345). -/
def execCpqpost (h : Hdr) (s : State) : Host.Outcome State Fault Refusal := fire (.cpqpost h) cpqpostBody s
/-- CPSTAT (R346). -/
def execCpstat (h : Hdr) (s : State) : Host.Outcome State Fault Refusal := fire (.cpstat h) cpstatBody s
/-- COPY_START (R324). -/
def execCopyStart (n : Nat) (s : State) : Host.Outcome State Fault Refusal := event "COPY_START" (copyStartEvent n s)
/-- COPY_COMPLETE (R332, R333). -/
def execCopyComplete (n : Nat) (s : State) : Host.Outcome State Fault Refusal := event "COPY_COMPLETE" (copyCompleteEvent n s)
/-- RING_HEAD_UPDATE (R339). -/
def execRingHeadUpdate (n : Nat) (s : State) : Host.Outcome State Fault Refusal := event "RING_HEAD_UPDATE" (headUpdateEvent n s)

end Sys2Proof.Machine
end

