-- ==== Sys2Proof/Machine/Task.lean ====
section
/-! DEFINITION. Tasks, joins, futures, queues, the die task unit, power gating and pre-emption (R347 to R385, R403 to R405, R483). -/

namespace Sys2Proof.Machine

/-! ### Objects and their homes (R267, R372) -/

/-- The agent that performs operations on an object at a byte: its home engine (R267). -/
def engineAgent (key : Nat) : Agent :=
  if 2 ^ 52 ≤ key then homeAgent key else match homeQuad key with | some q => .quad q | none => .io

/-- The package quad of a byte's engine, for the placement of what it releases (R362). -/
def engineQuad (key : Nat) : Nat := (homeQuad key).getD 0

/-- Bytes of an object from its runs. -/
def State.objBytes (s : State) (runs : List (Nat × Nat)) (off n : Nat) : List Byte := (List.range n).map fun i => s.readByte (runAt runs (off + i))

/-- Write bytes of an object. -/
def State.objPut (s : State) (runs : List (Nat × Nat)) (off : Nat) (l : List Byte) : State :=
  (l.zipIdx).foldl (fun s b => s.writeByte (runAt runs (off + b.2)) b.1) s

/-- A poisoned granule among `n` bytes of an object. -/
def State.objPoison (s : State) (runs : List (Nat × Nat)) (off n : Nat) : Option Nat :=
  ((List.range ((n + 63) / 64)).map fun i => runAt runs (off + 64 * i) / 64 * 64).find? fun g => s.poisoned g

/-- The checks of an object's address (R372, R379): its runs, which carry the refusal of a remote package where its home performs the operation later
(R476). -/
def Firing.object (f : Firing) (s : State) (t : Tok) (len : Nat) (need : Need) (kind : Nat) : Except Stop (List (Nat × Nat)) := do
  let a ← wantScalar t
  if !canonicalSpan a.toNat len then failWith .protection a
  else if a.toNat % 64 ≠ 0 then failWith .align a
  else rangeOrStop (if need = .reader then s.checkRange f.fr.ctx f.pe need a.toNat len else s.checkHome f.fr.ctx f.pe need a.toNat len) kind

/-- The bytes of a record or descriptor that an instruction reads (R372): ALIGN comes before what the read raises (R380). -/
def Firing.fetchObject (f : Firing) (s : State) (t : Tok) (len : Nat) : Except Stop (List Byte) := do
  let a ← wantScalar t
  let _ ← if a.toNat % 64 ≠ 0 then failWith .align a else Except.ok ()
  let ks ← f.object s t len .reader 0
  match s.runsPoisoned ks with
  | some g => failWith .uncorrectable (wordOf g)
  | none => .ok (s.readRuns ks)

/-- A fault at the home of a request that has performed (R374): its targets receive nulls. -/
def State.homeFault (s : State) (from_ : Agent) (ds : List Dest) (src : Src) (e : Fail) : State :=
  ((s.raiseHome src e).answered src).reply from_ 1 ds nullTok src

/-- The source of a message to an object's home. -/
def Msg.objectSrc : Msg → Option Src
  | .join _ _ _ _ src => some src
  | .future _ _ _ _ _ src => some src
  | .poison _ _ _ src => some src
  | .deque _ _ _ _ _ src => some src
  | .wqueue _ _ _ _ _ src => some src
  | _ => none

/-- The receiver accepts a message (R19) that has crossed the JX link in its way (R475), and no earlier one of the same task is on the same route: one task's messages arrive in the order sent (R16). -/
def State.firstOf (s : State) (n : Nat) (e : Env) (src : Src) : Bool :=
  e.sound && s.reaches e.src && s.reaches e.dst && !s.net.any fun p => decide (p.1 < n) && p.2.src == e.src && p.2.dst == e.dst && p.2.cls == e.cls &&
    (match Msg.objectSrc p.2.body with | some a => sameTask a src | none => false)

/-- JNEW, JDEC and FNEW follow the earlier accesses of their task on stream 0 at their home (R249, R373, R375; DEDUCED, assumption log 110). -/
def State.objectReady (s : State) (n : Nat) (src : Src) (key : Nat) : Bool :=
  !s.heldBack n src 0 true (s.placeOf key) &&
    !(s.mem.accesses.any fun q => decide (q.1 < n) && !q.2.purpose.isCheck && sameTask q.2.src src && s.sameStream src.ctx q.2.stream 0 &&
        s.holdsUp q.2 (s.placeOf key)) &&
    !(s.sync.reqs.any fun q => decide (q.1 < n) && sameTask q.2.src src && s.sameStream src.ctx q.2.stream 0 && samePlace q.2.place (s.placeOf key))

/-! ### Joins (R350, R351) -/

/-- JNEW or a decrement at the home engine of a join object (R351, R381). -/
def State.joinOp (s : State) (va : Nat) (runs : List (Nat × Nat)) (new : Option Nat) (code : Nat) (src : Src) : State :=
  let w := leNat (s.objBytes runs 64 8)
  match s.objPoison runs 64 64 with
  | some g => s.raiseHome src { code := .uncorrectable, detail := wordOf g }
  | none =>
    match new with
    | some n =>
      if bitsAt w 0 32 ≠ 0 then s.raiseHome src { code := .operand }
      else (s.objPut runs 64 (leBytes 8 n ++ leBytes 8 src.ctx)).sweepHolds
    | none =>
      if bitsAt w 32 24 ≠ 0 then s.raiseHome src { code := .operand }
      else if bitsAt w 0 32 = 0 then s.raiseHome src { code := .joinUnderflow, detail := wordOf va }
      else
        let n := bitsAt w 0 32 - 1
        let c := if bitsAt w 56 8 = 0 then code else bitsAt w 56 8
        let s1 := s.objPut runs 64 (leBytes 8 (n + c * 2 ^ 56))
        if n ≠ 0 then s1
        else match s.objPoison runs 0 64 with
          | some g => s.raiseHome src { code := .uncorrectable, detail := wordOf g }
          | none => s1.hwEnqueueBytes (leNat (s.objBytes runs 72 8)) (s.objBytes runs 0 64) va (engineQuad (runAt runs 64)) false (some (wordOf c))

/-- JOIN_DECREMENT: a JNEW or a decrement reaches the home of its join object (R351), after the stores of its task on stream 0 there (R373). -/
def joinEvent (n : Nat) (s : State) : Option State :=
  match s.msg? n with
  | some e => match e.body with
    | .join va runs new code src =>
      if !s.firstOf n e src || !s.objectReady n src (runAt runs 64) then none
      else if runs.any fun r => isRefused r.1 then some ((s.taken n).raiseHome src { code := .protection, detail := wordOf va })
      else some ((s.taken n).joinOp va runs new code src)
    | _ => none
  | none => none

/-! ### Futures (R352 to R355) -/

/-- A state word is consistent (R353). -/
def futureGood (w : Nat) : Bool := if bitsAt w 62 2 = 1 then bitsAt w 56 6 != 0 else bitsAt w 56 6 == 0

/-- Overflow nodes from the newest (R355); a chain has no more nodes than memory has bytes that are not zero. -/
def State.overflow (s : State) : Nat → Nat → List Nat
  | 0, _ => []
  | n + 1, pa => if pa = 0 then [] else pa :: s.overflow n (s.read64 (pa + 64))

/-- The nodes a state word holds, in the order of their release (R355). -/
def State.waiters (s : State) (runs : List (Nat × Nat)) (w : Nat) : List Nat :=
  if bitsAt w 62 2 ≠ 1 then []
  else
    let lines := (s.sync.engines.map fun e => 64 * e.2.lines.length).sum
    ((List.range (bitsAt w 56 6)).map fun i => leNat (s.objBytes runs (8 + 8 * i) 8)) ++ s.overflow (s.mem.bytes.length + lines + 1) (w % 2 ^ 56)

/-- A node is enqueued with g5 (R354, R355): its record in its context. -/
def State.enqueueNode (s : State) (quad : Nat) (g5 : Word) (c pa : Nat) : State :=
  s.hwEnqueueBytes c (s.readBytes pa 64) pa quad false (some g5)

/-- The word becomes w, and the nodes found are released (R355). -/
def State.settleFuture (s : State) (runs : List (Nat × Nat)) (old w : Nat) : State :=
  let nodes := s.waiters runs old
  nodes.foldl (fun s pa => s.enqueueNode (engineQuad (runAt runs 0)) (wordOf w) (s.read64 (pa + 72)) pa) (s.objPut runs 0 (leBytes 8 w))

/-- The granules that releasing reads of a future are poisoned. -/
def State.futurePoison (s : State) (runs : List (Nat × Nat)) (old : Nat) : Option Nat :=
  s.objPoison runs 0 (8 + 8 * (if bitsAt old 62 2 = 1 then bitsAt old 56 6 else 0))

/-- A poisoned granule among those that releasing the waiters of a state word reads: slots, records, Ctx and Next (R354, R374). -/
def State.releasePoison (s : State) (runs : List (Nat × Nat)) (old : Nat) : Option Nat :=
  match s.futurePoison runs old with
  | some g => some g
  | none => ((s.waiters runs old).flatMap fun pa => [pa, pa + 64]).findSome? fun a => if s.rangePoisoned a 64 then some (a / 64 * 64) else none

/-- The granule of a future that FREG writes beside its state word is poisoned (R229, R355). -/
def State.slotPoison (s : State) (runs : List (Nat × Nat)) (w : Nat) : Option Nat :=
  s.objPoison runs (if bitsAt w 62 2 = 1 ∧ bitsAt w 56 6 < 63 then (8 + 8 * bitsAt w 56 6) / 64 * 64 else 0) 64

/-- FREG registers a node (R355): in the next slot, or as the newest overflow node. -/
def State.registerNode (s : State) (runs : List (Nat × Nat)) (w pa c : Nat) : State :=
  let s1 := s.writeBytes (pa + 72) (leBytes 8 c)
  let n := bitsAt w 56 6
  if bitsAt w 62 2 = 0 then (s1.objPut runs 8 (leBytes 8 pa)).objPut runs 0 (leBytes 8 (2 ^ 62 + 2 ^ 56))
  else if n < 63 then (s1.objPut runs (8 + 8 * n) (leBytes 8 pa)).objPut runs 0 (leBytes 8 (w + 2 ^ 56))
  else (s1.writeBytes (pa + 64) (leBytes 8 (w % 2 ^ 56))).objPut runs 0 (leBytes 8 (w - w % 2 ^ 56 + pa % 2 ^ 56))

/-- An operation on a future at its home engine (R355). -/
def State.futureOp (s : State) (va : Nat) (runs : List (Nat × Nat)) (op : FutOp) (ds sds : List Dest) (src : Src) : State :=
  let from_ := engineAgent (runAt runs 0)
  let w := leNat (s.objBytes runs 0 8)
  let st := bitsAt w 62 2
  let fault := fun (e : Fail) => match op with
    | .fnew => s.raiseHome src e
    | .fget => s.readFault from_ (ds ++ sds) src e
    | _ => s.homeFault from_ ds src e
  let both := fun (s : State) (v : Word) => ((s.answered src).reply from_ 1 ds (scalarTok v) src)
  let node := match op with | .freg nva pa => if isRefused pa then some nva else none | _ => none
  if runs.any fun r => isRefused r.1 then fault { code := .protection, detail := wordOf va }
  else if let some nva := node then fault { code := .protection, detail := wordOf nva }
  else match s.objPoison runs 0 64 with
  | some g => fault { code := .uncorrectable, detail := wordOf g }
  | none =>
    if !futureGood w then fault { code := .futureState, detail := wordOf va }
    else match op with
      | .fnew => if st = 1 then fault { code := .futureState, detail := wordOf va } else (s.objPut runs 0 (leBytes 8 0)).sweepHolds
      | .fget => (both s (wordOf w)).reply from_ 1 sds (scalarTok (if 2 ≤ st then 1 else 0)) src
      | .fres v =>
        if 2 ≤ st then fault { code := .doubleResolve, detail := wordOf va }
        else match s.releasePoison runs w with
          | some g => fault { code := .uncorrectable, detail := wordOf g }
          | none => (both s 1).settleFuture runs w (2 ^ 63 + v)
      | .freg nva pa =>
        if 2 ≤ st then
          if s.rangePoisoned pa 64 then fault { code := .uncorrectable, detail := wordOf (pa / 64 * 64) }
          else (both s (wordOf w)).hwEnqueueBytes src.ctx (s.readBytes pa 64) nva (engineQuad (runAt runs 0)) false (some (wordOf w))
        else match s.slotPoison runs w, s.rangePoisoned (pa + 64) 64 with
          | some g, _ => fault { code := .uncorrectable, detail := wordOf g }
          | none, true => fault { code := .uncorrectable, detail := wordOf ((pa + 64) / 64 * 64) }
          | none, false => both (s.registerNode runs w pa src.ctx) (wordOf w)

/-- FUTURE_OPERATION: an operation reaches the home of its future (R355). -/
def futureEvent (n : Nat) (s : State) : Option State :=
  match s.msg? n with
  | some e => match e.body with
    | .future va runs op ds sds src =>
      if !s.firstOf n e src || (op == .fnew && !s.objectReady n src (runAt runs 0)) then none
      else some ((s.taken n).futureOp va runs op ds sds src)
    | _ => none
  | none => none

/-- The poison action of an abnormal end (R355, R357). -/
def State.poisonFuture (s : State) (va : Nat) (runs : List (Nat × Nat)) (code : Nat) (src : Src) : State :=
  let w := leNat (s.objBytes runs 0 8)
  if runs.any fun r => isRefused r.1 then s.raiseHome src { code := .protection, detail := wordOf va }
  else match s.objPoison runs 0 64 with
  | some g => s.raiseHome src { code := .uncorrectable, detail := wordOf g }
  | none =>
    if !futureGood w then s.raiseHome src { code := .futureState, detail := wordOf va }
    else if 2 ≤ bitsAt w 62 2 then s
    else match s.releasePoison runs w with
      | some g => s.raiseHome src { code := .uncorrectable, detail := wordOf g }
      | none => s.settleFuture runs w (2 ^ 63 + 2 ^ 62 + code)

/-- FUTURE_POISON. -/
def poisonEvent (n : Nat) (s : State) : Option State :=
  match s.msg? n with
  | some e => match e.body with
    | .poison va runs code src => if !s.firstOf n e src then none else some ((s.taken n).poisonFuture va runs code src)
    | _ => none
  | none => none

/-! ### Deques and work queues (R369 to R371) -/

/-- The outcome at a header: what T0 and T1 receive and the state, or a fault. -/
abbrev QueRes := Except Fail (State × Tok × Bool)

/-- An entry's physical address through the issuing context (R372). -/
def State.entryAt (s : State) (c va k cap : Nat) : Except Fail Nat :=
  let a := (va + 64 + 8 * (k % cap)) % 2 ^ 64
  if !canonicalSpan a 8 then .error { code := .protection, detail := wordOf a }
  else match s.checkRuns c [] .object [(a, 8)] with
    | .ok ((key, _) :: _) => if s.poisoned key then .error { code := .uncorrectable, detail := wordOf (key / 64 * 64) } else .ok key
    | .page _ _ => .error { code := .page, detail := wordOf a }
    | .blocked _ => .error { code := .page, detail := wordOf a }
    | _ => .error { code := .protection, detail := wordOf a }

/-- An operation on a header of two indices (R370, R371). -/
def State.queueOp (s : State) (va pa c : Nat) (op : QueOp) : QueRes :=
  let hd := s.readBytes pa 64
  let lo := fieldAt hd 0 8
  let hi := fieldAt hd 8 8
  let cap := fieldAt hd 16 4
  let n := (hi + 2 ^ 64 - lo) % 2 ^ 64
  if isRefused pa then .error { code := .protection, detail := wordOf va }
  else if s.poisoned pa then .error { code := .uncorrectable, detail := wordOf (pa / 64 * 64) }
  else if fieldAt hd 20 44 ≠ 0 ∨ cap < 16 ∨ 2 ^ 20 < cap ∨ 2 ^ cap.log2 ≠ cap ∨ cap < n then .error { code := .operand }
  else match op with
    | .push v =>
      if n = cap then .ok (s, scalarTok v, false)
      else do
        let key ← s.entryAt c va hi cap
        .ok ((s.write64 key v.toNat).write64 (pa + 8) ((hi + 1) % 2 ^ 64), nullTok, true)
    | .pop =>
      if n = 0 then .ok (s, nullTok, false)
      else do
        let b := (hi + 2 ^ 64 - 1) % 2 ^ 64
        let key ← s.entryAt c va b cap
        .ok (s.write64 (pa + 8) b, scalarTok (wordOf (s.read64 key)), true)
    | .steal =>
      if n = 0 then .ok (s, nullTok, false)
      else do
        let key ← s.entryAt c va lo cap
        .ok (s.write64 pa ((lo + 1) % 2 ^ 64), scalarTok (wordOf (s.read64 key)), true)

/-- The operation is performed and answered (R373, R374). -/
def State.queueAnswer (s : State) (from_ : Agent) (va pa : Nat) (op : QueOp) (ds sds : List Dest) (src : Src) : State :=
  match s.queueOp va pa src.ctx op with
  | .error e => s.homeFault from_ (ds ++ sds) src e
  | .ok (s1, t, good) => ((s1.answered src).reply from_ 1 ds t src).reply from_ 1 sds (scalarTok (if good then 1 else 0)) src

/-- The kinds of request in the order in which a deque's controller takes those of one cycle (R370). -/
def QueOp.kind : QueOp → Nat
  | .push _ => 0
  | .pop => 1
  | .steal => 2

/-- The place of a PE of a deque's home quad in rotating order after the last winner (R370): its own order where none has won yet
(DESIGN CHOICE, assumption log 104); a PE of another quad has none. -/
def homeTurn (pa pe : Nat) (last : Option Nat) : Option Nat :=
  let q := quadOfPe pe
  let l := pesOfQuad q
  if homeQuad pa = some q ∧ pa < 2 ^ 52 then
    some (match last with
      | some w => (l.drop (l.idxOf w + 1) ++ l.take (l.idxOf w + 1)).idxOf pe
      | none => l.idxOf pe)
  else none

/-- The turn of a request that a deque's controller takes (R370): its kind first, then the PEs of the home quad in rotating order after the last
winner, and remote ones as they arrive. -/
def DqTurn.next (last : Option DqTurn) (pa pe : Nat) (op : QueOp) (now : Nat) : DqTurn :=
  let base := last.bind fun t => if t.cycle = now ∧ t.kind = op.kind then t.base else t.winner
  match homeTurn pa pe base with
  | some i => { cycle := now, rank := op.kind * 16 + i, kind := op.kind, winner := some pe, base := base }
  | none => { cycle := now, rank := op.kind * 16 + 15, kind := op.kind, winner := last.bind fun t => t.winner, base := base }

/-- DEQUE_OPERATION: the controller takes a request; in one cycle none is taken after one of a later rank (R370). -/
def dequeEvent (n : Nat) (s : State) : Option State :=
  match s.msg? n with
  | some e => match e.body with
    | .deque va pa op ds sds src =>
      let last := s.task.dqLast.get? pa
      let t := DqTurn.next last pa src.pe op s.sched.cycle
      if !s.firstOf n e src || last.any (fun l => l.cycle == t.cycle && decide (t.rank < l.rank)) then none
      else
        let s1 := s.taken n
        some (State.queueAnswer { s1 with task := { s1.task with dqLast := s1.task.dqLast.put pa t } } e.dst va pa op ds sds src)
    | _ => none
  | none => none

/-- WORK_QUEUE_OPERATION (R371). -/
def wqueueEvent (n : Nat) (s : State) : Option State :=
  match s.msg? n with
  | some e => match e.body with
    | .wqueue va pa op ds sds src => if !s.firstOf n e src then none else some ((s.taken n).queueAnswer e.dst va pa op ds sds src)
    | _ => none
  | none => none

/-! ### The die task unit (R365 to R368) -/

/-- The ranges of a dependence descriptor, reads before writes; none where it is malformed (R365). -/
def descRanges (l : List Byte) (regs : Nat) : Option (List (Nat × Nat) × List (Nat × Nat)) :=
  let nr := fieldAt l 0 1
  let nw := fieldAt l 1 1
  let rs := (List.range (nr + nw)).map fun i => (fieldAt l (16 + 16 * i) 8, fieldAt l (24 + 16 * i) 8)
  if 8 < nr ∨ 8 < nw ∨ fieldAt l 2 14 ≠ 0 ∨ regs < 8 + nw ∨
      rs.any (fun r => r.1 % 64 != 0 || r.2 % 64 != 0 || decide (r.2 < 64) || decide (2 ^ 40 < r.2) || !canonicalSpan r.1 r.2) then none
  else some (rs.take nr, rs.drop nr)

/-- The earlier live entries of a new entry's context in its unit (R366). -/
def State.earlierDeps (s : State) (die c order : Nat) : List (Nat × Dep) :=
  s.task.deps.filter fun p => p.1 / Config.depEntries == die && p.2.ctx == c && decide (p.2.order < order)

/-- Two sets of ranges overlap. -/
def rangesMeet (a b : List (Nat × Nat)) : Bool := a.any fun x => b.any fun y => overlaps x y

/-- The segments of a shadow (R367). -/
def segmentsFor (len : Nat) : Nat := (len + 65535) / 65536

/-- A write range that meets an earlier entry is renamed while the quota lasts, else it waits (R367): its shadow lies at an address
that the unit chooses, a multiple of 64 KiB. -/
def State.renameRange (s : State) (c j : Nat) (w : Nat × Nat) : Option (State × Rename) :=
  match s.ctx? c with
  | none => none
  | some x =>
    let need := segmentsFor w.2
    if x.regs.spillq < x.segments + need then none
    else
      let base := s.freeWord.toNat % 2 ^ 40 * 65536
      let s1 := (s.addSegments c (Int.ofNat need)).drawn
      let pa := shadowKey (s.sched.serial * 2 ^ 24) 0
      some (State.bump { s1 with mem := { s1.mem with shadows := s1.mem.shadows ++ [(c, base, need * 65536, pa)] } },
        { j := j, base := w.1, len := w.2, shadow := base, back := false })

/-- The renames and waits of the write ranges of a new entry. -/
def State.placeWrites (s : State) (c : Nat) (es : List (Nat × Dep)) : Nat → List (Nat × Nat) → State × List Rename × List Nat
  | _, [] => (s, [], [])
  | j, w :: t =>
    let hit := es.filter fun p => rangesMeet [w] (p.2.reads ++ p.2.writes)
    if hit.isEmpty then s.placeWrites c es (j + 1) t
    else match s.renameRange c j w with
      | some (s1, r) =>
        let q := s1.placeWrites c es (j + 1) t
        (q.1, r :: q.2.1, q.2.2)
      | none =>
        let q := s.placeWrites c es (j + 1) t
        (q.1, q.2.1, hit.map Prod.fst ++ q.2.2)

/-- Entries of a die's task unit that are live or kept for requests on their way to it (R366). -/
def State.depsTaken (s : State) (die : Nat) : Nat :=
  (s.task.deps.filter fun p => p.1 / Config.depEntries == die).length +
    (s.net.filter fun p => match p.2.body with | .depSubmit d _ _ _ => d == die | _ => false).length

/-- DEPENDENCE_SUBMIT: the unit accepts a SPAWND into a free entry (R366, R367); which one is free choice. -/
def depSubmitEvent (n : Nat) (s : State) : Option State :=
  match s.msg? n with
  | some e => if !s.first n e then none else match e.body with
    | .depSubmit die d src ds =>
      let free := (List.range Config.depEntries).filter fun i => (s.task.deps.get? (die * Config.depEntries + i)).isNone
      if free.isEmpty then none
      else
        let key := die * Config.depEntries + nthD free (s.freeChoice free.length) 0
        let order := s.sched.serial
        let s1 := (s.taken n).drawn.bump
        let es := s1.earlierDeps die d.ctx order
        let reads := (es.filter fun p => rangesMeet d.reads p.2.writes).map Prod.fst
        let w := s1.placeWrites d.ctx es 0 d.writes
        let d1 : Dep := { d with order := order, renames := w.2.1, waits := (reads ++ w.2.2).eraseDups }
        let s2 : State := { w.1 with task := { w.1.task with deps := w.1.task.deps.put key d1 } }
        let k := frameKey src.pe src.frame
        let s3 := if (s2.frameOf src.pe src.frame src.uid).isSome then s2.markPerformed k else s2
        some ((s3.answered src).reply e.dst 1 ds (scalarTok 1) src)
    | _ => none
  | none => none

/-- The base that g(8 + j) of a task holds (R367). -/
def Dep.baseOf (d : Dep) (j : Nat) : Nat :=
  match d.renames.find? fun r => r.j == j with
  | some r => r.shadow
  | none => (nthD d.writes j (0, 0)).1

/-- DEPENDENCE_RELEASE: an entry whose dependences are met is enqueued (R361, R367). -/
def depReleaseEvent (die e : Nat) (s : State) : Option State :=
  let key := die * Config.depEntries + e
  match s.task.deps.get? key with
  | none => none
  | some d =>
    match s.ctx? d.ctx with
    | none => none
    | some x =>
      let q := s.placeQuad x d.place (quadOfPe d.pe)
      if d.released || !d.waits.isEmpty || !s.queueRoom q d.record.prio then none
      else
        let s1 : State := { s with task := { s.task with deps := s.task.deps.put key { d with released := true } } }
        some (s1.drawn.putRecord d.ctx { d.record with dep := some key } q (if d.place = 0 then some d.pe else none) none)

/-- An entry completes (R367): nothing waits on it any more. -/
def State.completeDep (s : State) (key : Nat) : State :=
  let waits := (s.task.deps.del key).map fun p => (p.1, { p.2 with waits := p.2.waits.erase key })
  { s with task := { s.task with deps := waits } }

/-- The task of an entry has ended (R357): with no copy-back left it completes. -/
def State.endDep (s : State) (key : Nat) : State :=
  match s.task.deps.get? key with
  | none => s
  | some d =>
    if d.renames.all fun r => r.back then s.completeDep key
    else { s with task := { s.task with deps := s.task.deps.put key { d with ended := true } } }

/-- A shadow's bytes and segments are returned. -/
def State.dropShadow (s : State) (c : Nat) (r : Rename) : State :=
  match s.mem.shadows.find? fun g => g.1 == c && g.2.1 == r.shadow with
  | none => s
  | some (_, base, len, pa) =>
    State.addSegments { s with mem := { s.mem with shadows := s.mem.shadows.filter fun g => !(g.1 == c && g.2.1 == base)
                                                   bytes := s.mem.bytes.filter fun b => !(decide (pa ≤ b.1) && decide (b.1 < pa + len))
                                                   poison := s.mem.poison.filter fun g => !(decide (pa ≤ g) && decide (g < pa + len)) } }
      c (-(Int.ofNat (segmentsFor r.len)))

/-- The unit copies a shadow to its original range (R367). Where the range cannot be written, the fault stops the context and names no
instruction; nothing is copied, and the shadow goes (DESIGN CHOICE, assumption log 27). -/
def State.copyBack (s : State) (c : Nat) (r : Rename) : State :=
  let stop := fun (code : Code) (va : Nat) => s.raiseNone (Src.ofCtx c) { code := code, detail := wordOf va }
  let s1 := match s.mem.shadows.find? fun g => g.1 == c && g.2.1 == r.shadow with
    | none => s
    | some (_, _, _, pa) =>
      match s.checkRuns c [] .copyWrite (pageRuns r.base r.len) with
      | .ok ks => s.storeRuns ks (s.readBytes pa r.len)
      | .page va _ => stop .page va
      | .blocked va => stop .page va
      | .prot va => stop .protection va
      | .refused va => stop .protection va
  s1.dropShadow c r

/-- The range of an ended entry whose copy-back may be made now (R367). -/
def State.backReady (s : State) (die : Nat) (d : Dep) : Option Rename :=
  d.renames.find? fun r => !r.back && !(s.earlierDeps die d.ctx d.order).any fun p => rangesMeet [(r.base, r.len)] (p.2.reads ++ p.2.writes)

/-- COPY_BACK (R367). -/
def copyBackEvent (die e : Nat) (s : State) : Option State :=
  let key := die * Config.depEntries + e
  match s.task.deps.get? key with
  | none => none
  | some d =>
    if !d.ended then none
    else match s.backReady die d with
      | none => none
      | some r =>
        let s1 := s.copyBack d.ctx r
        let d1 : Dep := { d with renames := mapIf (fun (q : Rename) => q.j == r.j) (fun q => { q with back := true }) d.renames }
        some (State.endDep { s1 with task := { s1.task with deps := s1.task.deps.put key d1 } } key)

/-! ### Power (R361, R363, R364) -/

/-- COST_REPORT: a die task unit reports its minimum cost, every 64 cycles (R361). -/
def costEvent (d : Nat) (s : State) : Option State :=
  if s.sched.cycle % 64 ≠ 0 ∨ 8 ≤ d ∨ (s.task.costs.get? d).any (fun r => r.1 == s.sched.cycle) then none
  else some { s with task := { s.task with costs := s.task.costs.put d (s.sched.cycle, s.quadCost (s.leastQuad d)) } }.drawn

/-- A quad is in use: a task slot, a queued record or a live frame (R364). -/
def State.quadBusy (s : State) (q : Nat) : Bool :=
  s.quadTasks q != 0 || s.quadQueued q != 0 || s.pe.frames.any fun p => quadOfPe (p.1 / 256) == q

/-- A quad holds state of a halted context (R364): its PEs hold the timelines and programs of every context resident on their die. -/
def State.holdsHalted (s : State) (q : Nat) : Bool := s.ctxs.any fun p => !p.2.state.issues && p.2.onDie (dieOfQuad q)

/-- QUAD_GATE (R364). -/
def gateEvent (q : Nat) (s : State) : Option State :=
  let p := s.quadPower q
  if p.gated || s.quadBusy q || s.holdsHalted q || decide (s.sched.cycle < p.idleSince + 19000) || decide (512 ≤ q) then none
  else some { s with task := { s.task with power := s.task.power.put q { p with gated := true, waking := none } } }

/-- QUAD_WAKE (R364). -/
def wakeEvent (q : Nat) (s : State) : Option State :=
  let p := s.quadPower q
  match p.waking with
  | some t =>
    if p.gated ∧ t + 4750 ≤ s.sched.cycle then
      some { s with task := { s.task with power := s.task.power.put q { gated := false, waking := none, idleSince := s.sched.cycle } } }
    else none
  | none => none

/-! ### Popping (R356, R359, R389) -/

/-- Live frames of a context on a PE (R75). -/
def State.liveFrames (s : State) (c pe : Nat) : Nat := (s.pe.frames.filter fun p => p.1 / 256 == pe && p.2.ctx == c).length

/-- FQUOTA as a count (R75). -/
def Ctx.quota (x : Ctx) : Nat := if x.regs.fquota = 0 then 256 else x.regs.fquota

/-- A record is eligible on a PE but for a task slot (R359). -/
def State.eligibleBut (s : State) (pe : Nat) (e : QEntry) : Bool :=
  match s.ctx? e.ctx with
  | none => false
  | some x => e.quad == quadOfPe pe && x.state == .running && x.onDie (dieOfPe pe) && (e.tag == none || e.tag == some pe) &&
      decide (s.liveFrames e.ctx pe < x.quota)

/-- The urgent context is resident on a die (R389). -/
def State.urgentOn (s : State) (d : Nat) : Bool := s.ctxs.any fun p => p.2.urgent && p.2.onDie d

/-- A context is urgent. -/
def State.isUrgent (s : State) (c : Nat) : Bool := match s.ctx? c with | some x => x.urgent | none => false

/-- The task slots of a PE a context's record may use (R359, R389); a slot a pre-emption freed is kept for its record (R403). -/
def State.slotsFor (s : State) (pe c num : Nat) : List Nat :=
  let free := (List.range Config.taskSlots).filter fun t => (s.task? pe t).isNone &&
    !(match s.task.victim.get? (quadOfPe pe) with | some (k, m) => k == pe * 16 + t && m != num | none => false)
  let normal := (s.pe.tasks.filter fun p => p.1 / 16 == pe && !s.isUrgent p.2.ctx).length
  if !s.isUrgent c && s.urgentOn (dieOfPe pe) && decide (Config.taskSlots - 1 ≤ normal) then [] else free

/-- A record is eligible on a PE (R359). -/
def State.eligible (s : State) (pe : Nat) (e : QEntry) : Bool := s.eligibleBut pe e && !(s.slotsFor pe e.ctx e.num).isEmpty

/-- The record that comes first of some: an urgent one, then the highest priority, then the oldest (R359, R389). -/
def State.firstRecord (s : State) (l : List QEntry) : Option QEntry :=
  leastBy (fun e => (if s.isUrgent e.ctx then 0 else 4) + (3 - e.record.prio)) l

/-- The slot and record that a finished pre-emption keeps for each other (R403). -/
def State.reserved (s : State) (pe : Nat) : Option (Nat × QEntry) :=
  match s.task.victim.get? (quadOfPe pe) with
  | some (k, num) =>
    if k / 16 ≠ pe ∨ (s.task? pe (k % 16)).isSome then none
    else (s.task.queues.find? fun e => e.num == num && s.eligible pe e).map fun e => (k % 16, e)
  | none => none

/-- The record a PE takes next (R359, R403). -/
def State.nextRecord (s : State) (pe : Nat) : Option (Option Nat × QEntry) :=
  match s.reserved pe with
  | some (t, e) => some (some t, e)
  | none => (s.firstRecord (s.task.queues.filter fun e => s.eligible pe e)).map fun e => (none, e)

/-- A PE could pop (R359, R364). -/
def State.mayPop (s : State) (pe : Nat) : Bool :=
  !(s.quadPower (quadOfPe pe)).gated && decide ((s.pe.frames.filter fun p => p.1 / 256 == pe).length < Config.framesPerPe) &&
    (s.nextRecord pe).isSome

/-- The PEs of a quad in rotating order after the one that popped last (R359). -/
def State.popOrder (s : State) (q : Nat) : List Nat :=
  let l := pesOfQuad q
  match s.task.popLast.get? q with
  | some p => l.drop (l.idxOf p + 1) ++ l.take (l.idxOf p + 1)
  | none => l

/-- The g-file of a task that starts (R356). -/
def State.startRegs (s : State) (r : Rec) : List Tok :=
  let args := (r.args.zipIdx).map fun p => scalarTok (if p.2 = 4 then r.g5.getD p.1 else p.1)
  let bases := match r.dep with
    | some key => match s.task.deps.get? key with
      | some d => (List.range d.writes.length).map fun j => scalarTok (wordOf (d.baseOf j))
      | none => []
    | none => []
  let l := zeroTok :: args ++ [zeroTok, zeroTok] ++ bases
  l ++ List.replicate (128 - l.length) zeroTok

/-- A queued activation of a block (R74). -/
def Activation.fresh (pe c t addr now : Nat) (iter : Option Int) : Activation :=
  { pe := pe, ctx := c, task := t, addr := addr, iter := iter, since := now, cfg := none, requested := false
    faulted := false, pendingFault := none }

/-- A record's task starts in a slot (R356, R407). -/
def State.startTask (s : State) (pe t : Nat) (e : QEntry) : State :=
  let tk : Task :=
    { num := s.sched.serial, ctx := e.ctx, quad := e.quad, record := e.record, arg5 := nthD e.record.args 4 0
      regs := match e.image with | some (l, _) => l | none => s.startRegs e.record
      nregs := e.record.regs, stack := [], loop := none, estWord := 0x7FFFFFFF, estCycle := s.sched.cycle
      steps := match e.image with | some (_, n) => n | none => 0
      ckptReq := false, preempt := .running, barWait := [], popCycle := s.sched.cycle, ending := none, endEntry := none
      abnormal := none, yielded := false, image := e.image }
  let a := Activation.fresh pe e.ctx t e.record.code s.sched.cycle none
  let s1 := (s.setTask pe t tk).bump
  { s1 with pe := { s1.pe with queue := s1.pe.queue ++ [a] } }

/-- TASK_POP: a PE takes the record that comes first for it into a free slot, which one is free choice (R359). -/
def popEvent (pe : Nat) (s : State) : Option State :=
  let q := quadOfPe pe
  if !s.mayPop pe || (s.popOrder q).find? s.mayPop != some pe then none
  else match s.nextRecord pe with
    | none => none
    | some (slot, e) =>
      let free := s.slotsFor pe e.ctx e.num
      let t := slot.getD (nthD free (s.freeChoice free.length) 0)
      let victim := match s.task.victim.get? q with | some (_, m) => if m = e.num then s.task.victim.del q else s.task.victim | none => s.task.victim
      let s1 : State := { s with task := { s.task with queues := s.task.queues.filter (fun r => r.num != e.num)
                                                       popLast := s.task.popLast.put q pe, victim := victim } }
      some ((s1.drawn.startTask pe t e).enqueueHeld)

/-! ### The end of a task (R357, R483) -/

/-- The accumulators a task claims or has a spill of are given up; their flags reach its context (R187, R205). -/
def State.releaseAccs (s : State) (c pe t : Nat) : State :=
  (List.range 8).foldl (fun s z =>
    let a := s.acc pe z
    let flag := fun (s : State) (fl : BitVec 5) => s.modCtx c fun x => { x with regs := { x.regs with status := x.regs.status ||| fl.zeroExtend 7 } }
    if a.claim = some (c, t) then State.restoreAcc ((flag s a.val.flags).setAcc pe z { a with claim := none }) pe z
    else match a.spill with
      | some p => if p.claimed ∧ p.ctx = c ∧ p.task = t then (flag s (s.spilled pe z).flags).setAcc pe z { a with spill := some { p with claimed := false } } else s
      | none => s) s

/-- The rings a task owns are unbound (R196). -/
def State.releaseRings (s : State) (c pe t : Nat) : State :=
  (List.range 8).foldl (fun s q => if (s.ring pe q).bound = some (c, t) then (s.setRing pe q Ring.reset).tellHeads pe q else s) s

/-- The carries that a task's sequencer holds are released (R81). -/
def State.dropLoop (s : State) (pe t : Nat) : State :=
  match s.task? pe t with
  | none => s
  | some tk => match tk.loop with
    | none => s
    | some l =>
      let first := if l.sent.contains l.first then [] else [l.carry]
      let rest := (l.carries.filter fun p => !l.sent.contains (p.1 + l.step)).map Prod.snd
      (s.dropToks pe (first ++ rest)).setTask pe t { tk with loop := none }

/-- What a task holds is released, as steps 1 and 2 of R357 say. -/
def State.releaseTask (s : State) (pe t : Nat) : State :=
  match s.task? pe t with
  | none => s
  | some tk =>
    let mine := fun (k : SkipAt) => k.pe == pe && k.task == t
    let s0 := s.modCtx tk.ctx fun x => { x with skip := x.skip.filter fun k => !mine k }
    let s1 := ((s0.dropToks pe tk.regs).setTask pe t { tk with regs := [] }).dropLoop pe t
    ((s1.releaseRings tk.ctx pe t).releaseEndpoints pe t).releaseAccs tk.ctx pe t

/-- Free a task slot. -/
def State.delTask (s : State) (pe t : Nat) : State := { s with pe := { s.pe with tasks := s.pe.tasks.del (pe * 16 + t) } }

/-- What sending a decrement or poison comes to. -/
inductive EndRes where
  | sent (s : State)
  | wait (s : State)
  | full

/-- The translation of a join or future at the end of a task, and the message (R483). -/
def State.endSend (s : State) (pe t : Nat) (src : Src) (va len at_ : Nat) (m : List (Nat × Nat) → Msg) : EndRes :=
  let stop := fun (e : Fail) => EndRes.sent (s.raiseHome src e)
  let page := fun (kind a level : Nat) => match s.pageEntry src kind a level with
    | .none => stop { code := .page, detail := wordOf a }
    | .full => .full
    | .entry s1 n => .wait (s1.modTask pe t fun tk => { tk with endEntry := some n })
  if !canonicalSpan va len then stop { code := .protection, detail := wordOf va }
  else match s.checkHome src.ctx pe .object va len with
    | .ok ks =>
      (match s.objPoison ks at_ 64 with
      | some g => stop { code := .uncorrectable, detail := wordOf g }
      | none => .sent (s.post (.pe pe) (engineAgent (runAt ks at_)) 7 (m ks)))
    | .page a level => page 1 a level
    | .blocked a => page 2 a 0
    | .prot a => stop { code := .protection, detail := wordOf a }
    | .refused a => stop { code := .protection, detail := wordOf a }

/-- Accesses, atomics and messages of a task that are not performed yet (R357). -/
def State.taskBusy (s : State) (c pe t : Nat) : Bool :=
  let mine := fun (a : Src) => a.ctx == c && a.pe == pe && a.task == t
  s.pe.frames.any (fun p => p.1 / 256 == pe && p.2.task == t) || s.mem.accesses.any (fun p => mine p.2.src && decide (p.2.stream < 8)) ||
    s.sync.reqs.any (fun p => mine p.2.src && decide (p.2.stream < 8)) ||
    s.net.any fun p => match Msg.objectStore p.2.body with | some (a, _) => mine a | none => false

/-- The poison of the task's future, where its end is abnormal (R357). -/
def State.endPoison (s : State) (pe t : Nat) (tk : Task) (src : Src) : EndRes :=
  match tk.abnormal with
  | some c =>
    if tk.record.fa then
      match s.endSend pe t src tk.arg5.toNat 512 0 fun ks => .poison tk.arg5.toNat ks c src with
      | .sent s1 => .sent (s1.modTask pe t fun k => { k with record := { k.record with fa := false } })
      | r => r
    else .sent s
  | none => .sent s

/-- The decrement of the task's join (R357). -/
def State.endJoin (s : State) (pe t : Nat) (tk : Task) (src : Src) : EndRes :=
  if tk.record.join = 0 then .sent s
  else match s.endSend pe t src tk.record.join 128 64 fun ks => .join tk.record.join ks none (tk.abnormal.getD 0) src with
    | .sent s1 => .sent (s1.modTask pe t fun k => { k with record := { k.record with join := 0 } })
    | r => r

/-- TASK_END (R357, R483): the releases are made once, then the poison and the decrement are sent, and the slot is free. -/
def taskEndEvent (pe t : Nat) (s : State) : Option State :=
  match s.task? pe t with
  | none => none
  | some tk =>
    match tk.ending with
    | none => none
    | some src =>
      if s.taskBusy tk.ctx pe t || tk.endEntry.isSome || !s.issuing tk.ctx then none
      else
        let s1 := s.releaseTask pe t
        let s2 := match tk.record.dep with
          | some key => (s1.endDep key).modTask pe t fun k => { k with record := { k.record with dep := none } }
          | none => s1
        match s2.endPoison pe t tk src with
        | .full => none
        | .wait s3 => some s3
        | .sent s3 =>
          match s3.endJoin pe t tk src with
          | .full => none
          | .wait s4 => some s4
          | .sent s4 => some (s4.delTask pe t)

/-- A fault-queue entry that a task's end waits on is answered (R226, R483): it goes on, or the fault stops the context and the
decrement or poison is not performed. -/
def State.endRetry (s : State) (n : Nat) (fail : Option Fail) : State :=
  s.pe.tasks.foldl (fun s p =>
    if p.2.endEntry ≠ some n then s
    else
      let s1 := s.modTask (p.1 / 16) (p.1 % 16) fun tk => { tk with endEntry := none }
      match fail, p.2.ending with
      | some e, some src =>
        (s1.modTask (p.1 / 16) (p.1 % 16) fun tk =>
          if tk.abnormal.isSome && tk.record.fa then { tk with record := { tk.record with fa := false } }
          else { tk with record := { tk.record with join := 0 } }).raiseHome src e
      | _, _ => s1) s

/-! ### Pre-emption (R403 to R405) -/

/-- The estimate of a task in cycles: none where it is unknown (R404, R417). -/
def Task.estimate (tk : Task) (now : Nat) : Option Nat :=
  let e := tk.estWord.toNat % 2 ^ 31
  if e = 0x7FFFFFFF then none else some (e - (now - tk.estCycle))

/-- A record of a normal context is eligible on PEs of its quad, none of which has a task slot for it (R403). -/
def State.starved (s : State) (e : QEntry) : Bool :=
  let l := (pesOfQuad e.quad).filter fun pe => s.eligibleBut pe e
  !(s.quadPower e.quad).gated && !s.isUrgent e.ctx && !l.isEmpty && l.all fun pe => (s.slotsFor pe e.ctx e.num).isEmpty

/-- The blocked records of a quad (R403): each the one that R359 would pop next on some PE, had it a free slot, and found none for 2,048 cycles
(DEDUCED, assumption log 105). -/
def State.blockedRecords (s : State) (q : Nat) : List QEntry :=
  let next := ((pesOfQuad q).filterMap fun pe => s.firstRecord (s.task.queues.filter fun e => s.eligibleBut pe e)).eraseDups
  next.filter fun e => s.starved e && (s.task.blockedSince.get? e.num).any fun t => decide (t + 2048 ≤ s.sched.cycle)

/-- The victim among the tasks of the PEs a record is eligible on (R403): fewer priority tokens, the fewest first, then the task
popped last. -/
def State.victimFor (s : State) (q : Nat) (e : QEntry) : Option (Nat × Task) :=
  let prio := fun (c : Nat) => match s.ctx? c with | some x => x.regs.prio | none => 0
  let l := s.pe.tasks.filter fun p => (pesOfQuad q).contains (p.1 / 16) && s.eligibleBut (p.1 / 16) e && decide (prio p.2.ctx < prio e.ctx) &&
    p.2.preempt == .running && p.2.ending.isNone && s.issuing p.2.ctx
  let low := leastBy (fun (p : Nat × Task) => prio p.2.ctx) l
  match low with
  | none => none
  | some m =>
    (l.filter fun p => prio p.2.ctx == prio m.2.ctx).foldl (fun o p => match o with
      | some (b : Nat × Task) => if b.2.popCycle < p.2.popCycle then some p else o
      | none => some p) none

/-- A killed task has no frame left: its record goes back to its queue (R405). -/
def State.requeueKilled (s : State) (pe t : Nat) : State :=
  match s.task? pe t with
  | none => s
  | some tk =>
    if tk.preempt ≠ .killing || s.pe.frames.any fun p => p.1 / 256 == pe && p.2.task == t then s
    else ((s.releaseTask pe t).delTask pe t).requeue tk.ctx tk.record tk.quad tk.image

/-- Kill a task (R405): what is not kept is discarded as under R87. -/
def State.killTask (s : State) (pe t : Nat) : State :=
  let s1 := s.modTask pe t fun tk => { tk with preempt := .killing }
  let mine := s1.pe.frames.filter fun p => p.1 / 256 == pe && p.2.task == t && p.2.isOpen
  let kept := fun (s : State) (k : Nat) => match s.frame? k with | some f => f.isKept | none => true
  let s2 := mine.foldl (fun s p => if kept s p.1 then s else (s.discardAct p.1).1) s1
  let loops := mine.any fun p => p.2.iter.isNone && p.2.isKept
  let s3 : State := { s2 with pe := { s2.pe with queue := s2.pe.queue.filter fun a => !(a.pe == pe && a.task == t && (a.iter.isNone || !loops)) } }
  s3.requeueKilled pe t

/-- The action taken against a victim: the first row of R404 that applies. -/
def State.preemptTask (s : State) (pe t : Nat) (tk : Task) : State :=
  let timg := match s.ctx? tk.ctx with | some x => x.regs.timg.toNat | none => 0
  let short := match tk.estimate s.sched.cycle with | some n => decide (n ≤ 40000) | none => false
  if short then s.modTask pe t fun v => { v with preempt := .draining }
  else if tk.steps ≠ 0 ∧ timg ≠ 0 then s.modTask pe t fun v => { v with preempt := .awaitCkpt, ckptReq := true }
  else if bitAt tk.estWord.toNat 31 then s.killTask pe t
  else s.modTask pe t fun v => { v with preempt := .draining }

/-- PREEMPT: the scheduler of a quad picks a victim for a blocked record and an action (R403, R404). Which of several blocked records that have one is
free choice. -/
def preemptEvent (q : Nat) (s : State) : Option State :=
  let pairs := (s.blockedRecords q).filterMap fun e => (s.victimFor q e).map fun v => (e.num, v)
  match pairs[s.freeChoice pairs.length]? with
  | some (num, k, tk) =>
    if (s.task.victim.get? q).isSome then none
    else some (State.preemptTask { s with task := { s.task with victim := s.task.victim.put q (k, num) } }.drawn (k / 16) (k % 16) tk)
  | none => none

/-! ### Instructions (R378 to R385) -/

/-- The record of SPAWN and SPAWND in its bytes: malformed, it raises OPERAND (R349, R380). -/
def spawnRecord (l : List Byte) (x : SpawnX) : Except Stop Rec :=
  match recOfBytes (l.take 64) with
  | none => failWith .operand
  | some r => .ok { r with prio := x.prio.toNat, place := x.place.toNat }

/-- SPAWN (R361, R380). -/
def spawnBody (x : SpawnX) : Body := fun f s => do
  let b ← wantScalar f.b
  let l ← f.once (f.fetchObject s f.a 64)
  let r ← spawnRecord l x
  f.holdBefore s l
  let q := s.placeQuad f.x r.place (quadOfPe f.pe)
  if !s.queueRoom q r.prio then .error (.hold .space l)
  else
    let s1 := ((s.drawn.markPerformed f.key).putRecord f.fr.ctx { r with args := setAt 0 b r.args } q (if r.place = 0 then some f.pe else none) none)
    .ok { st := f.replyBoth s1 (.quad q) (scalarTok 1) }

/-- The bytes of SPAWND's record and of its descriptor after them (R365, R380): a malformed record is found first. -/
def Firing.fetchSpawnd (f : Firing) (s : State) (x : SpawnX) : Except Stop (List Byte) := do
  let r ← f.fetchObject s f.a 64
  let _ ← spawnRecord r x
  let head ← f.fetchObject s f.b 16
  let n := min 8 (fieldAt head 0 1) + min 8 (fieldAt head 1 1)
  let d ← f.fetchObject s f.b (16 + 16 * n)
  .ok (r ++ d)

/-- SPAWND (R365, R366, R380): it waits without issuing while its unit has no entry for it. -/
def spawndBody (x : SpawnX) : Body := fun f s => do
  let _ ← wantScalar f.b
  let l ← f.once (f.fetchSpawnd s x)
  let r ← spawnRecord l x
  match descRanges (l.drop 64) r.regs with
  | none => failWith .operand
  | some (reads, writes) =>
    f.holdBefore s l
    if Config.depEntries ≤ s.depsTaken f.die then .error (.hold .space l) else
    let d : Dep := { ctx := f.fr.ctx, order := 0, reads := reads, writes := writes, record := r, place := r.place, pe := f.pe, waits := []
                     renames := [], released := false, ended := false }
    .ok { st := (s.expect f.key f.fan).post (.pe f.pe) (.die f.die) 5 (.depSubmit f.die d f.src f.dests), stat := .parked (.home s.sched.serial) }

/-- JNEW (R381): at commit it goes to its join object. -/
def jnewBody : Body := fun f s => do
  let b ← wantScalar f.b
  let ks ← f.object s f.a 128 .object 1
  if b.toNat = 0 ∨ 2 ^ 32 ≤ b.toNat then failWith .operand
  else .ok (Done.scalar (s.hold f.key (.jnew f.a.val.toNat ks b.toNat f.src)) 0)

/-- JDEC (R381). -/
def jdecBody : Body := fun f s => do
  let ks ← f.object s f.a 128 .object 1
  .ok (Done.scalar (s.hold f.key (.jdec f.a.val.toNat ks f.src)) 0)

/-- JNEW and JDEC at commit: a class-7 message (R373). -/
def State.commitJoin (s : State) (va : Nat) (runs : List (Nat × Nat)) (new : Option Nat) (src : Src) : State :=
  s.post (.pe src.pe) (engineAgent (runAt runs 64)) 7 (.join va runs new 0 src)

/-- FNEW at commit (R373). -/
def State.commitFnew (s : State) (va : Nat) (runs : List (Nat × Nat)) (src : Src) : State :=
  s.post (.pe src.pe) (engineAgent (runAt runs 0)) 7 (.future va runs .fnew [] [] src)

/-- TEND (R357, R382): its effect comes with the commit. -/
def tendTarget (f : Firing) (_s : State) : Except Stop Branch := .ok (.tend f.idx)

/-- FNEW (R383). -/
def fnewBody : Body := fun f s => do
  let ks ← f.object s f.a 512 .object 1
  .ok (Done.scalar (s.hold f.key (.fnew f.a.val.toNat ks f.src)) 0)

/-- FRES (R383): a release; it has performed when its request leaves (R373). -/
def fresBody : Body := fun f s => do
  let b ← wantScalar f.b
  let ks ← f.object s f.a 512 .object 1
  if bitsAt b.toNat 56 8 ≠ 0 then failWith .operand
  else do
    f.awaitBefore s
    .ok (f.toHome (s.markPerformed f.key) (engineAgent (runAt ks 0)) (.future f.a.val.toNat ks (.fres b.toNat) f.dests [] f.src) false)

/-- FREG (R383): the node is held by its physical address. -/
def fregBody : Body := fun f s => do
  let b ← wantScalar f.b
  let ks ← f.object s f.a 512 .object 1
  let ns ← f.object s f.b 128 .object 1
  .ok (f.toHome (s.markPerformed f.key) (engineAgent (runAt ks 0))
    (.future f.a.val.toNat ks (.freg b.toNat (runAt ns 0)) f.dests [] f.src) false)

/-- FGET (R383): a read at the engine. -/
def fgetBody : Body := fun f s => do
  let ks ← f.object s f.a 512 .normalRead 0
  .ok (f.toHome s (engineAgent (runAt ks 0)) (.future f.a.val.toNat ks .fget (destsOf f.src [f.h.t0]) (destsOf f.src [f.h.t1]) f.src) true)

/-- The header of a deque or work queue (R384): its physical address. -/
def Firing.header (f : Firing) (s : State) : Except Stop Nat := do
  let ks ← f.object s f.a 64 .object 1
  .ok (runAt ks 0)

/-- DQPUSH, DQPOP and DQSTEAL (R369, R384): the first two are their owner's; a push releases (R375). -/
def dequeBody (owner : Bool) (op : Firing → Except Stop QueOp) : Body := fun f s => do
  let o ← op f
  let pa ← f.header s
  if owner && (homeQuad pa != some (quadOfPe f.pe) || decide (2 ^ 52 ≤ pa)) then failWith .operand
  else do
    match o with
    | .push _ => f.awaitBefore s
    | _ => .ok ()
    .ok (f.toHome (s.markPerformed f.key) (engineAgent pa) (.deque f.a.val.toNat pa o (destsOf f.src [f.h.t0]) (destsOf f.src [f.h.t1]) f.src) false)

/-- WQPUT and WQGET (R371, R384). -/
def wqueueBody (op : Firing → Except Stop QueOp) : Body := fun f s => do
  let o ← op f
  let pa ← f.header s
  match o with
  | .push _ => f.awaitBefore s
  | _ => .ok ()
  .ok (f.toHome (s.markPerformed f.key) (engineAgent pa) (.wqueue f.a.val.toNat pa o (destsOf f.src [f.h.t0]) (destsOf f.src [f.h.t1]) f.src) false)

/-- The value a push carries. -/
def pushOp (f : Firing) : Except Stop QueOp := (wantScalar f.b).map QueOp.push
/-- A pop. -/
def popOp (_f : Firing) : Except Stop QueOp := .ok .pop
/-- A steal, or a get. -/
def stealOp (_f : Firing) : Except Stop QueOp := .ok .steal

/-- YIELD (R385). -/
def yieldBody : Body := fun f s => .ok (Done.scalar (s.modTask f.pe f.fr.task fun t => { t with yielded := true }) 0)

/-- SPAWN (R361, R380). -/
def execSpawn (h : Hdr) (x : SpawnX) (s : State) : Host.Outcome State Fault Refusal := fire (.spawn h x) (spawnBody x) s
/-- SPAWND (R365, R366, R380). -/
def execSpawnd (h : Hdr) (x : SpawnX) (s : State) : Host.Outcome State Fault Refusal := fire (.spawnd h x) (spawndBody x) s
/-- JNEW (R381). -/
def execJnew (h : Hdr) (s : State) : Host.Outcome State Fault Refusal := fire (.jnew h) jnewBody s
/-- JDEC (R381). -/
def execJdec (h : Hdr) (s : State) : Host.Outcome State Fault Refusal := fire (.jdec h) jdecBody s
/-- TEND (R382). -/
def execTend (h : Hdr) (s : State) : Host.Outcome State Fault Refusal := fire (.tend h) (branchBody tendTarget) s
/-- FNEW (R383). -/
def execFnew (h : Hdr) (s : State) : Host.Outcome State Fault Refusal := fire (.fnew h) fnewBody s
/-- FRES (R383). -/
def execFres (h : Hdr) (s : State) : Host.Outcome State Fault Refusal := fire (.fres h) fresBody s
/-- FREG (R383). -/
def execFreg (h : Hdr) (s : State) : Host.Outcome State Fault Refusal := fire (.freg h) fregBody s
/-- FGET (R383). -/
def execFget (h : Hdr) (s : State) : Host.Outcome State Fault Refusal := fire (.fget h) fgetBody s
/-- DQPUSH (R370, R384). -/
def execDqpush (h : Hdr) (s : State) : Host.Outcome State Fault Refusal := fire (.dqpush h) (dequeBody true pushOp) s
/-- DQPOP (R370, R384). -/
def execDqpop (h : Hdr) (s : State) : Host.Outcome State Fault Refusal := fire (.dqpop h) (dequeBody true popOp) s
/-- DQSTEAL (R370, R384). -/
def execDqsteal (h : Hdr) (s : State) : Host.Outcome State Fault Refusal := fire (.dqsteal h) (dequeBody false stealOp) s
/-- WQPUT (R371, R384). -/
def execWqput (h : Hdr) (s : State) : Host.Outcome State Fault Refusal := fire (.wqput h) (wqueueBody pushOp) s
/-- WQGET (R371, R384). -/
def execWqget (h : Hdr) (s : State) : Host.Outcome State Fault Refusal := fire (.wqget h) (wqueueBody stealOp) s
/-- YIELD (R385). -/
def execYield (h : Hdr) (s : State) : Host.Outcome State Fault Refusal := fire (.yield_ h) yieldBody s
/-- TASK_POP (R359). -/
def execTaskPop (pe : Nat) (s : State) : Host.Outcome State Fault Refusal := event "TASK_POP" (popEvent pe s)
/-- TASK_END (R357). -/
def execTaskEnd (pe : Nat) (t : Nat) (s : State) : Host.Outcome State Fault Refusal := event "TASK_END" (taskEndEvent pe t s)
/-- JOIN_DECREMENT (R351). -/
def execJoinDecrement (n : Nat) (s : State) : Host.Outcome State Fault Refusal := event "JOIN_DECREMENT" (joinEvent n s)
/-- FUTURE_OPERATION (R355). -/
def execFutureOperation (n : Nat) (s : State) : Host.Outcome State Fault Refusal := event "FUTURE_OPERATION" (futureEvent n s)
/-- FUTURE_POISON (R355, R357). -/
def execFuturePoison (n : Nat) (s : State) : Host.Outcome State Fault Refusal := event "FUTURE_POISON" (poisonEvent n s)
/-- DEQUE_OPERATION (R370). -/
def execDequeOperation (n : Nat) (s : State) : Host.Outcome State Fault Refusal := event "DEQUE_OPERATION" (dequeEvent n s)
/-- WORK_QUEUE_OPERATION (R371). -/
def execWorkQueueOperation (n : Nat) (s : State) : Host.Outcome State Fault Refusal := event "WORK_QUEUE_OPERATION" (wqueueEvent n s)
/-- DEPENDENCE_SUBMIT (R366). -/
def execDependenceSubmit (n : Nat) (s : State) : Host.Outcome State Fault Refusal := event "DEPENDENCE_SUBMIT" (depSubmitEvent n s)
/-- DEPENDENCE_RELEASE (R367). -/
def execDependenceRelease (d : Nat) (e : Nat) (s : State) : Host.Outcome State Fault Refusal := event "DEPENDENCE_RELEASE" (depReleaseEvent d e s)
/-- COPY_BACK (R367). -/
def execCopyBack (d : Nat) (e : Nat) (s : State) : Host.Outcome State Fault Refusal := event "COPY_BACK" (copyBackEvent d e s)
/-- COST_REPORT (R361). -/
def execCostReport (d : Nat) (s : State) : Host.Outcome State Fault Refusal := event "COST_REPORT" (costEvent d s)
/-- QUAD_GATE (R364). -/
def execQuadGate (q : Nat) (s : State) : Host.Outcome State Fault Refusal := event "QUAD_GATE" (gateEvent q s)
/-- QUAD_WAKE (R364). -/
def execQuadWake (q : Nat) (s : State) : Host.Outcome State Fault Refusal := event "QUAD_WAKE" (wakeEvent q s)
/-- PREEMPT (R403, R404). -/
def execPreempt (q : Nat) (s : State) : Host.Outcome State Fault Refusal := event "PREEMPT" (preemptEvent q s)

end Sys2Proof.Machine
end

