-- ==== Sys2Proof/Machine/System.lean ====
section
/-! DEFINITION. Contexts, system registers, the halt line and its stop area, the watchdog, checkpoint images and the system
instructions (R386 to R423). -/

namespace Sys2Proof.Machine

/-! ### System registers (R391, R392) -/

/-- WDOG as it reads. -/
def wdogValue (v : Word) : Word := if v = 0 then 0 else if v.toNat < 190000 then 190000 else v

/-- The estimate word, aged (R404, R417). -/
def Task.estimateWord (tk : Task) (now : Nat) : Nat :=
  bit (bitAt tk.estWord.toNat 31) * 2 ^ 31 + (tk.estimate now).getD 0x7FFFFFFF

/-- A system register as SRR reads it (R391). -/
def Firing.sysRead (f : Firing) (s : State) (n : Nat) : Nat :=
  let r := f.x.regs
  if n = 0x00 then f.fr.ctx else if n = 0x01 then f.x.asid else if n = 0x02 then f.x.part else if n = 0x03 then r.prio
  else if n = 0x04 then r.mmrev else if n = 0x05 then r.fmode else if n = 0x06 then r.zskip else if n = 0x07 then r.rseed.toNat
  else if n = 0x08 then (wdogValue r.wdog).toNat else if n = 0x09 then f.x.silWin else if n = 0x0A then r.spillq
  else if n = 0x0B then f.x.quota else if n = 0x0C then bit f.x.dbgen else if n = 0x0D then f.x.stopBase
  else if n = 0x0E then r.status.toNat else if n = 0x0F then f.key % 256 * 2 ^ 9
  else if n = 0x10 then f.x.slot * 2 ^ 15 + f.fr.task * 2 ^ 11 + f.pe else if n = 0x11 then s.sched.cycle
  else if n = 0x12 then (match s.task? f.pe f.fr.task with | some tk => tk.estimateWord s.sched.cycle | none => 0x7FFFFFFF)
  else if n = 0x13 then r.fltq.toNat else if n = 0x14 then s.devNat (hostqOff f.fr.ctx) 8 else r.timg.toNat

/-- SRR (R413). -/
def srrBody (n : Nat) : Body := fun f s => .ok (Done.scalar s (wordOf (f.sysRead s n)))

/-- A register that only a manager writes (R391). -/
def sysManaged (n : Nat) : Bool := n == 0x05 || n == 0x0A || n == 0x13 || n == 0x15

/-- A write that needs MGR (R391, R392). -/
def sysPrivileged (x : Ctx) (n v : Nat) : Bool :=
  sysManaged n || (n == 0x03 && decide (x.regs.prio < v)) || (n == 0x08 && v == 0)

/-- A value that a register cannot hold (R392). -/
def sysBad (n v : Nat) : Bool :=
  if n = 0x03 then v == 0 || decide (64 < v) else if n = 0x05 then decide (2 ^ 5 ≤ v) else if n = 0x06 then decide (2 ≤ v)
  else if n = 0x0A then decide (2 ^ 32 ≤ v) else if n = 0x0B then decide (256 < v) else if n = 0x0E then decide (2 ^ 7 ≤ v)
  else if n = 0x13 then !canonical v || v % 64 != 0 else if n = 0x15 then !canonical v || v % 2048 != 0
  else false

/-- The registers after a write (R391). -/
def SysRegs.put (r : SysRegs) (n : Nat) (v : Word) : SysRegs :=
  if n = 0x03 then { r with prio := v.toNat } else if n = 0x05 then { r with fmode := v.toNat } else if n = 0x06 then { r with zskip := v.toNat }
  else if n = 0x07 then { r with rseed := v } else if n = 0x08 then { r with wdog := v } else if n = 0x09 then { r with silwin := v }
  else if n = 0x0A then { r with spillq := v.toNat } else if n = 0x0B then { r with fquota := v.toNat }
  else if n = 0x0E then { r with status := v.truncate 7 } else if n = 0x13 then { r with fltq := v } else if n = 0x15 then { r with timg := v }
  else r

/-- A value as its register will read it (R413). -/
def sysClamped (n : Nat) (v : Word) : Word :=
  if n = 0x08 then wdogValue v else if n = 0x09 then wordOf (max 1900 v.toNat) else if n = 0x0B then (if v = 0 then 256 else v) else v

/-- The activation has written a system register already (R140, R392). -/
def Frame.writesSys (f : Frame) (n : Nat) : Bool := f.held.any fun e => match e with | .srw m _ => m == n | _ => false

/-- SRW (R392, R413): checked now, written at commit; a second write of one register by one activation raises OPERAND, as R140 has it of a format
channel. -/
def srwBody (n : Nat) : Body := fun f s =>
  if (sysManaged n || (f.a.kind != .tile && sysPrivileged f.x n f.a.val.toNat)) && !f.x.mgr then failWith .privilege
  else do
    let v ← wantScalar f.a
    if sysBad n v.toNat || f.fr.writesSys n then failWith .operand
    else .ok (Done.scalar (s.hold f.key (.srw n v)) (sysClamped n v))

/-- SRW at commit: a SPILLQ that rises supplies channels that wait (R305). -/
def State.commitSrw (s : State) (c n : Nat) (v : Word) : State :=
  let s1 := s.modCtx c fun x => { x with regs := x.regs.put n v }
  if n = 0x0A ∧ (s.ctx? c).any (fun x => decide (x.regs.spillq < v.toNat)) then s1.quotaRaised c else s1

/-! ### Traps, host calls, checkpoints, estimates -/

/-- TRAP (R414). -/
def trapBody (w : BitVec 32) : Body := fun f _ => do
  let a ← wantScalar f.a
  .error (.fault { code := .trap, detail := a, aux := w.zeroExtend 64 })

/-- HCALL (R415): the request is posted and the instruction parks. -/
def hcallBody (w : BitVec 32) : Body := fun f s => do
  let a ← wantScalar f.a
  let s1 := (s.markPerformed f.key).expect f.key f.fan
  .ok { st := s1.hostPost f.die 4 f.fr.ctx (w.zeroExtend 64) a f.src (destsOf f.src [f.h.t0]) (destsOf f.src [f.h.t1])
        stat := .parked (.host s.sched.serial) }

/-- CKPT (R416). -/
def ckptBody : Body := fun f s =>
  match s.task? f.pe f.fr.task with
  | none => failWith .operand
  | some tk =>
    if !tk.stack.isEmpty || (tk.regs.take tk.nregs).any fun t => t.kind == .tile then failWith .operand
    else .ok { st := s.hold f.key .ckpt }

/-- REMEST (R417). -/
def remestBody (w : Option (BitVec 32)) : Body := fun f s => do
  let v ← match w with | some i => Except.ok (i.signExtend 64) | none => wantScalar f.b
  .ok (Done.scalar (s.hold f.key (.remest v)) 0)

/-- REMEST at commit. -/
def State.commitRemest (s : State) (pe t : Nat) (w : Word) : State :=
  s.modTask pe t fun tk => { tk with estWord := wordOf (w.toNat % 2 ^ 32), estCycle := s.sched.cycle }

/-- HBEAT (R421). -/
def hbeatBody : Body := fun f s =>
  .ok (Done.scalar (s.modCtx f.fr.ctx fun x => { x with wdCount := (wdogValue x.regs.wdog).toNat }) 0)

/-- PWRHINT (R421): the hint goes to the power controllers at commit. -/
def pwrhintBody (w : BitVec 32) : Body := fun f s => .ok { st := s.hold f.key (.pwrhint w.toNat) }

/-! ### Checkpoint images (R406, R407) -/

/-- The address of a task's image. -/
def imageVa (timg : Word) (pe t : Nat) : Nat := timg.toNat + (16 * pe + t) * 2048

/-- The bytes of a task's image: g-registers at and above Regs are zero. -/
def Task.imageBytes (tk : Task) (code : Nat) : List Byte :=
  leBytes 8 code ++ leBytes 8 tk.record.join ++ leBytes 8 tk.record.flags ++ leBytes 8 tk.arg5.toNat ++ leBytes 8 tk.steps ++
    List.replicate 24 0 ++ (List.range 128).flatMap fun g => leBytes 8 (if g < tk.nregs then (tk.reg g).val.toNat else 0)

/-- The runs an image is written to, or the fault of the write. -/
def State.imageRuns (s : State) (c va : Nat) : Except Code (List (Nat × Nat)) :=
  match s.checkRuns c [] (.store false) (pageRuns va 1088) with
  | .ok ks => .ok ks
  | .page _ _ => .error .page
  | .blocked _ => .error .page
  | _ => .error .protection

/-- The commit of a checkpoint (R406): the image is written, the task gives up its slot, and its image is queued, or stays for CTXRES
in the Checkpointing state. Its image holds no wait: where the block arrived at a barrier too, the task goes on without the release (R291; DESIGN CHOICE,
assumption log 120). -/
def State.checkpoint (s : State) (pe t code : Nat) (ks : List (Nat × Nat)) : State :=
  match s.task? pe t with
  | none => s
  | some tk =>
    match s.ctx? tk.ctx with
    | none => s
    | some x =>
      let s1 := s.storeRuns ks (tk.imageBytes code)
      let image := (List.range 128).map fun g => if g < tk.nregs then scalarTok (tk.reg g).val else zeroTok
      let s2 := (s1.releaseTask pe t).delTask pe t
      if x.state = .checkpointing then s2.modCtx tk.ctx fun x => { x with images := x.images ++ [(tk.quad, imageVa x.regs.timg pe t)] }
      else s2.requeue tk.ctx { tk.record with code := code } tk.quad (some (image, tk.steps))

/-- The record and registers in an image's bytes. -/
def imageOf (l : List Byte) : Rec × List Tok × Nat :=
  let fl := fieldAt l 16 8
  ({ code := fieldAt l 0 8, join := fieldAt l 8 8, regs := bitsAt fl 16 8, fa := bitAt fl 8, place := bitsAt fl 2 2, prio := bitsAt fl 0 2
     dep := none, args := [0, 0, 0, 0, wordOf (fieldAt l 24 8)], g5 := none },
   (List.range 128).map fun g => if g = 0 then zeroTok else scalarTok (wordOf (fieldAt l (64 + 8 * g) 8)), fieldAt l 32 8)

/-- The dependence entry that the Flags of an image name, in the die of a quad, while it lives (R407). -/
def State.imageDep (s : State) (c quad fl : Nat) : Option Nat :=
  (s.task.deps.find? fun p => bitAt fl 45 && p.2.ctx == c && p.2.released && p.1 % 8192 == bitsAt fl 32 13 &&
    (p.1 / 8192 == dieOfQuad quad || !(s.task.deps.get? (dieOfQuad quad * 8192 + bitsAt fl 32 13)).isSome)).map Prod.fst

/-- A resumed context's images are queued on the quads of their tasks' pops (R420); one that cannot be read is dropped as a malformed
record is. -/
def State.queueImages (s : State) (c : Nat) : State :=
  match s.ctx? c with
  | none => s
  | some x =>
    let s1 := s.modCtx c fun x => { x with images := [] }
    x.images.foldl (fun s p => match s.hwRead c .reader p.2 1088 with
      | none => s.raiseHeader (Src.atBlock c p.2) { code := .operand }
      | some l =>
        let m := imageOf l
        s.requeue c { m.1 with dep := s.imageDep c p.1 (fieldAt l 16 8) } p.1 (some m.2)) s1

/-! ### Creating contexts (R386 to R389, R418) -/

/-- A context descriptor's fields (R386). -/
structure CtxDesc where
  asid : Nat
  part : Nat
  dbgen : Bool
  mgr : Bool
  urgent : Bool
  dies : Nat
  spillq : Nat
  fquota : Nat
  prio : Nat
  root : Nat
  stop : Nat
  entry : Nat
  notify : Nat
  reserved : Bool
  deriving DecidableEq, Repr

/-- The fields of 64 descriptor bytes. -/
def ctxDescOf (l : List Byte) : CtxDesc :=
  let i := fieldAt l 8 8
  let m := fieldAt l 16 8
  { asid := bitsAt i 0 16, part := bitsAt i 16 8, dbgen := bitAt i 25, mgr := bitAt i 26, urgent := bitAt i 27, dies := bitsAt i 28 8
    spillq := bitsAt m 0 32, fquota := bitsAt m 32 8, prio := bitsAt m 40 7, root := fieldAt l 24 8, stop := fieldAt l 32 8
    entry := fieldAt l 40 8, notify := fieldAt l 48 8
    reserved := fieldAt l 0 8 != 0 || bitsAt i 36 28 != 0 || bitAt i 24 || bitsAt m 47 17 != 0 }

/-- Contexts that share a die with a mask. -/
def State.sharing (s : State) (dies : Nat) : List (Nat × Ctx) := s.ctxs.filter fun p => (List.range 8).any fun d => bitAt dies d && p.2.onDie d

/-- An invalid field of a descriptor: status 5 (R388, R418, R477). -/
def State.descBad (s : State) (d : CtxDesc) (part : Nat) (host : Bool) : Bool :=
  d.reserved || d.prio == 0 || decide (64 < d.prio) || d.dies == 0 || (d.urgent && (s.sharing d.dies).any fun p => p.2.urgent) ||
    d.part != part || d.stop % 65536 != 0 || d.root % 4096 != 0 || (host && !d.mgr) ||
    (d.dbgen && (match s.dev.parts.get? part with | some p => p.noDebug | none => false))

/-- A partition. -/
def State.part? (s : State) (p : Nat) : Option Part := s.dev.parts.get? p

/-- A partition's TDI is in a state. -/
def State.tdiIs (s : State) (p : Nat) (t : Tdi) : Bool := match s.part? p with | some v => v.tdi == t | none => false

/-- The status of a creation with what it would take (R386, R418): 5, 6, 2, 4, 3 in that order. A context is created in RUN only (R472), where it is
not with status 5 (DESIGN CHOICE, assumption log 124). -/
def State.createCheck (s : State) (d : CtxDesc) (part : Nat) (host : Bool) : Except Nat (Nat × Nat) :=
  if s.descBad d part host || !s.tdiIs part .run then .error 5
  else if host && s.ctxs.any fun p => p.2.hostMade && p.2.part == part then .error 6
  else match lowestFree 4096 (0 :: s.ctxs.map Prod.fst) with
    | none => .error 2
    | some c =>
      if s.ctxs.any fun p => p.2.asid == d.asid then .error 4
      else if d.urgent then .ok (c, 8)
      else match lowestFree 8 ((s.sharing d.dies).map fun p => p.2.slot) with
        | none => .error 3
        | some t => .ok (c, t)

/-- A context's system registers as CTXNEW sets them (R391). -/
def CtxDesc.regs (d : CtxDesc) : SysRegs :=
  { prio := d.prio, mmrev := 1, fmode := 0, zskip := 1, rseed := 0, wdog := 95000000, silwin := 38000, spillq := d.spillq, fquota := d.fquota
    status := 0, fltq := 0, timg := 0 }

/-- The context of a descriptor. -/
def CtxDesc.ctx (d : CtxDesc) (slot creator faultArea now : Nat) (host : Bool) : Ctx :=
  { state := .running, slot := slot, dieMask := d.dies, urgent := d.urgent, mgr := d.mgr, dbgen := d.dbgen, part := d.part, asid := d.asid
    hostMade := host, creator := creator, root := d.root, stopBase := d.stop, notify := d.notify, faultArea := faultArea, regs := d.regs
    fc := List.replicate 32 0, mmrevFixed := false, faults := [], heldFaults := [], haltReq := none, reason := 0, code := 0, stops := []
    wdCount := 95000000, stopped := 0, silence := 0, lastActive := now, runCycles := 0, counted := 0, breaks := [], trace := none, settings := [], segments := 0
    images := [], skip := none, requeue := [], hint := 0 }

/-- A number that is used again owns nothing from before. -/
def State.freshNumber (s : State) (c : Nat) : State :=
  { s with pe := { s.pe with accs := s.pe.accs.map fun p =>
                               let old := fun (l : Option Nat) => l.filter fun d => d != c
                               (p.1, { p.2 with last := old p.2.last, spill := p.2.spill.map fun q => { q with last := old q.last } })
                             pctx := s.pe.pctx.filter fun p => p.1 / 2048 != c } }

/-- Create a context from a descriptor at a physical address (R386): Result is written before its first activation. -/
def State.createContext (s : State) (l : List Byte) (pa creator part fltq quad : Nat) (host : Bool) : State × Nat :=
  let d := ctxDescOf l
  match s.createCheck d part host with
  | .error st => (s.write64 (pa + 56) (st * 2 ^ 56), st)
  | .ok (c, slot) =>
    let x := d.ctx slot creator fltq s.sched.cycle host
    let s1 := (s.freshNumber c).setCtx c { x with notify := if host then 0 else x.notify }
    let s2 := s1.write64 (pa + 56) (2 ^ 56 + c)
    (if d.entry = 0 then s2 else s2.hwEnqueueAt c d.entry quad none, 1)

/-! ### The halt line (R394 to R400) -/

/-- The lowest uncommitted iteration of a task's loop that no performed instruction keeps. -/
def State.lowestLive (s : State) (pe t : Nat) (l : Loop) : Option Int :=
  (s.pe.frames.filter fun p => p.1 / 256 == pe && p.2.task == t && p.2.isOpen && !p.2.performed).foldl (fun m p =>
    match p.2.iter, m with
    | some i, none => some i
    | some i, some j => if seqBefore l.step i j then some i else m
    | none, _ => m) none

/-- The iterations of every loop of a context that are not kept are discarded (R87, R97). -/
def State.haltLoops (s : State) (c : Nat) : State :=
  s.pe.tasks.foldl (fun s p =>
    if p.2.ctx ≠ c then s
    else match p.2.loop with
      | none => s
      | some l => match s.lowestLive (p.1 / 16) (p.1 % 16) l with
        | some j => s.discardIterations (p.1 / 16) (p.1 % 16) j
        | none => s) s

/-- Every activation of a context that is not kept is discarded, to restart when it resumes (R87, R395). -/
def State.haltFrames (s : State) (c : Nat) : State :=
  s.pe.frames.foldl (fun s p =>
    match s.frame? p.1 with
    | none => s
    | some f =>
      if f.ctx ≠ c ∨ !f.isOpen ∨ f.iter.isSome ∨ f.isKept then s
      else (s.discardFrame p.1).modCtx c fun x => { x with requeue := x.requeue ++ [restartOf s p.1 f] }) s

/-- A write of bytes over runs meets an uncorrectable error: it covers part of a poisoned granule (R229). -/
def State.runsSpoiled (s : State) (ks : List (Nat × Nat)) : Bool := ks.any fun r =>
  (List.range (r.2 / 64 + 2)).any fun i =>
    let g := (r.1 / 64 + i) * 64
    s.poisoned g && decide (g < r.1 + r.2) && !(decide (r.1 ≤ g) && decide (g + 64 ≤ r.1 + r.2))

/-- The granules that a write over runs covers whole lose their poison (R229). -/
def State.clearCovered (s : State) (ks : List (Nat × Nat)) : State :=
  ks.foldl (fun s r => (List.range (r.2 / 64 + 1)).foldl (fun s i =>
    let g := (r.1 / 64 + i) * 64
    if r.1 ≤ g ∧ g + 64 ≤ r.1 + r.2 then s.setPoison g false else s) s) s

/-- Write bytes of a context's stop area, where it can be written: a write that meets PAGE, PROTECTION or UNCORRECTABLE is not made (R396). -/
def State.stopWrite (s : State) (c off : Nat) (l : List Byte) : Option State :=
  match s.ctx? c with
  | none => none
  | some x => match s.checkRuns c [] (.store false) (pageRuns (x.stopBase + off) l.length) with
    | .ok ks => if s.runsSpoiled ks then none else some ((s.storeRuns ks l).clearCovered ks)
    | _ => none

/-- What the halt line does to a context (R390, R394, R395). -/
def State.haltContext (s : State) (c reason : Nat) : State :=
  let s1 := ((s.countStop c).haltLoops c).haltFrames c
  let s2 := s1.modCtx c fun x => { x with state := .halting, haltReq := none, reason := reason, stopped := s.sched.cycle }
  (s2.stopWrite c 0 [1]).getD s2

/-- HALT_LINE: the engines of a context stop, after a fault or CTXHALT, or once a checkpointing context has no task left (R394,
R419). -/
def haltLineEvent (c : Nat) (s : State) : Option State :=
  match s.ctx? c with
  | none => none
  | some x =>
    if !x.state.issues then none
    else match x.haltReq with
      | some (_, r) => some (s.haltContext c r)
      | none => if x.state = .checkpointing ∧ !(s.pe.tasks.any fun p => p.2.ctx == c) then some (s.haltContext c 3) else none

/-- The order in which the cause is chosen (R400): the first fault comes before the second. -/
def FaultRec.before (a b : FaultRec) : Bool :=
  let key := fun (r : FaultRec) => [r.stamp, r.code.priority, r.src.pe, r.src.frame, r.src.idx]
  decide (key a < key b)

/-- The cause among faults (R400). -/
def causeOf : List FaultRec → Option FaultRec
  | [] => none
  | a :: t => match causeOf t with
    | some b => if b.before a then some b else some a
    | none => some a

/-- The Flags byte of a stop record (R397). -/
def FaultRec.flags (r : FaultRec) : Nat :=
  bit r.access.isSome + bit r.src.iter.isSome * 2 + bit r.afterCommit * 4 + bit r.frameValid * 8 + bit r.kept * 16

/-- The index byte of a stop record (R397). -/
def FaultRec.index (r : FaultRec) : Nat := if r.header then 0xFF else if r.noInstr then 0xFE else r.src.idx

/-- A stop record of type 0 or 2 (R397); its Node is 0 where it names no instruction (DEDUCED, assumption log 111). -/
def FaultRec.bytes (r : FaultRec) (c slot : Nat) (cause : Bool) : List Byte :=
  leBytes 8 r.aux.toNat ++ leBytes 8 0 ++ leBytes 8 (match r.src.iter with | some i => wrapNat 64 i | none => 0) ++
    leBytes 1 (slot * 16 + r.src.task) ++ leBytes 1 (if cause then 0 else 2) ++ leBytes 1 r.code.num ++ leBytes 1 r.flags ++
    leBytes 1 (match r.access with | some (l, st) => l * 8 + st | none => 0) ++ leBytes 1 (r.step.getD 0xFF) ++ leBytes 1 r.index ++
    leBytes 1 (if r.frameValid then r.src.frame else 0) ++ leBytes 2 r.src.pe ++ leBytes 2 c ++
    leBytes 4 (if r.header || r.noInstr then 0 else r.src.node) ++ leBytes 8 r.src.block ++
    leBytes 8 r.detail.toNat ++ leBytes 8 r.stamp

/-- A wait is registered (R401). -/
def Wait.registered : Wait → Bool
  | .xoff _ | .timeline _ _ | .host _ => true
  | _ => false

/-- The requests of an activation that a channel controller holds parked (R300). -/
def State.parkedRecvs (s : State) (uid : Nat) : Nat := (s.chans.map fun p => (p.2.reqs.filter fun r => r.src.uid == uid).length).sum

/-- Instructions of a frame parked on registered waits (R401). -/
def State.parkedIn (s : State) (f : Frame) : Nat :=
  (f.stat.filter fun p => match p.2 with | .parked w => w.registered | _ => false).length + s.parkedRecvs f.uid

/-- The Live word of a PE (R397). -/
def State.liveWord (s : State) (c pe : Nat) : Nat :=
  let frames := s.pe.frames.filter fun p => p.1 / 256 == pe && p.2.ctx == c && p.2.isOpen
  let tasks := s.pe.tasks.filter fun p => p.1 / 16 == pe && p.2.ctx == c
  let waits := (frames.map fun p => s.parkedIn p.2).sum + (tasks.map fun p => p.2.barWait.length).sum
  waits % 65536 * 2 ^ 48 + (s.pe.queue.filter fun a => a.pe == pe && a.ctx == c).length * 2 ^ 32 + tasks.length * 2 ^ 16 + frames.length

/-- The PEs that hold work of a context (R397). -/
def State.workPes (s : State) (c : Nat) : List Nat :=
  let l := (s.pe.frames.filter fun p => p.2.ctx == c).map (fun p => p.1 / 256) ++ (s.pe.tasks.filter fun p => p.2.ctx == c).map (fun p => p.1 / 16) ++
    (s.pe.queue.filter fun a => a.ctx == c).map (fun a => a.pe) ++ (s.copies.filter fun p => p.2.src.ctx == c).map fun p => p.2.src.pe
  l.eraseDups

/-- The type 1 record of a PE (R397). -/
def State.engineRecord (s : State) (c slot stopped pe : Nat) : List Byte :=
  leBytes 8 0 ++ leBytes 8 (s.liveWord c pe) ++ leBytes 8 0 ++ leBytes 1 (slot * 16) ++ leBytes 1 1 ++ leBytes 1 0 ++ leBytes 1 0 ++ leBytes 1 0 ++
    leBytes 1 0xFF ++ leBytes 1 0xFE ++ leBytes 1 0 ++ leBytes 2 pe ++ leBytes 2 c ++ leBytes 4 0 ++ leBytes 8 0 ++ leBytes 8 0 ++
    leBytes 8 stopped

/-- A list in an order that the spec leaves open: each place is free choice. -/
def State.shuffle {α : Type} (s : State) : Nat → List α → State × List α
  | 0, l => (s, l)
  | n + 1, l =>
    let k := s.freeChoice l.length
    match l[k]? with
    | none => (s, l)
    | some a =>
      let r := s.drawn.shuffle n (l.eraseIdx k)
      (r.1, a :: r.2)

/-- Write stop records from a position on: the next position, and how many were lost (R396). -/
def State.stopRecords (s : State) (c : Nat) : List (List Byte) → Nat → Nat → State × Nat × Nat
  | [], n, lost => (s, n, lost)
  | r :: t, n, lost =>
    if 4095 < n then (s, n, lost + t.length + 1)
    else match s.stopWrite c (64 * n) r with
      | some s1 => s1.stopRecords c t (n + 1) lost
      | none => s.stopRecords c t n (lost + 1)

/-- The home die of a context (R402). -/
def Ctx.homeDie (x : Ctx) : Nat := x.dies.headD 0

/-- The records of a halt in the order written: the cause first, or an engine record where there is no cause, the others in an order left open (R396,
R400). -/
def State.haltRecords (s : State) (c : Nat) (x : Ctx) (cause : Option FaultRec) : State × List (List Byte) :=
  let others := match cause with | some r => x.faults.erase r | none => x.faults
  let further := others.map fun r => r.bytes c x.slot false
  let engines := s.shuffle (s.workPes c).length ((s.workPes c).map fun pe => s.engineRecord c x.slot x.stopped pe)
  let lead := match cause with | some q => [q.bytes c x.slot true] | none => engines.2.take 1
  let rest := (if cause.isSome then engines.2 else engines.2.drop 1) ++ further
  let r := engines.1.shuffle rest.length rest
  (r.1, lead ++ r.2)

/-- The header of the stop area as the halt ends (R396). -/
def stopHeader (done raised lost count c code reason : Nat) : List Byte :=
  leBytes 1 2 ++ leBytes 1 reason ++ leBytes 1 code ++ leBytes 1 0 ++ leBytes 2 c ++ leBytes 2 count ++ leBytes 4 lost ++ List.replicate 36 0 ++
    leBytes 8 raised ++ leBytes 8 done

/-- `n` bytes that the spec leaves open, from an address on. -/
def State.writeFree (s : State) (at_ : Nat) : Nat → State
  | 0 => s
  | n + 1 => ((s.writeByte at_ (s.freeWord.setWidth 8)).drawn).writeFree (at_ + 1) n

/-- An entry of a quad queue is written to the queue's backing area, in local HBM of the quad's die (R358, R419). The entries there are encrypted, in a
form and an order that the spec leaves open: free bytes at a free place (DESIGN CHOICE, assumption log 68). -/
def State.backEntry (s : State) (e : QEntry) : State :=
  let reg := queueAreaOff e.quad e.record.prio
  let base := s.devNat reg 8
  let size := s.devNat (reg + 8) 8
  let n := Config.queueEntries size
  if size = 0 ∨ n = 0 ∨ base / 2 ^ 37 ≠ dieOfQuad e.quad ∨ (base + size - 1) / 2 ^ 37 ≠ dieOfQuad e.quad then s
  else s.drawn.writeFree (base + size / n * s.freeChoice n) (size / n)

/-- What the quad queues hold of a context on chip goes to their backing areas (R419). -/
def State.backQueues (s : State) (c : Nat) : State :=
  let mine := fun (e : QEntry) => e.ctx == c && !e.backed
  let s1 := (s.task.queues.filter mine).foldl State.backEntry s
  { s1 with task := { s1.task with queues := mapIf mine (fun e => { e with backed := true }) s1.task.queues } }

/-- HALT_COMPLETE: the stop area is written, and whoever is to know is told (R396). -/
def haltCompleteEvent (c : Nat) (s : State) : Option State :=
  match s.ctx? c with
  | none => none
  | some x =>
    if x.state ≠ .halting then none
    else
      let cause := if x.reason = 1 then causeOf x.faults else none
      let code := match cause with | some r => r.code.num | none => 0
      let raised := match cause with | some r => r.stamp | none => 0
      let stops := match cause with | some r => r :: x.faults.erase r | none => x.faults
      let s1 := match s.stopWrite c 0 [1] with
        | none => s
        | some _ =>
          let l := s.haltRecords c x cause
          let w := l.1.stopRecords c l.2 1 0
          (w.1.stopWrite c 0 (stopHeader s.sched.cycle raised w.2.2 (w.2.1 - 1) c code x.reason)).getD w.1
      let s2 := (if x.reason = 3 then s1.backQueues c else s1).modCtx c fun x => { x with state := .halted, faults := [], stops := stops, code := code }
      if x.hostMade then
        some (s2.hostPost x.homeDie 1 c (wordOf x.stopBase) (wordOf (x.reason * 256 + code)) Src.none [] [])
      else if x.notify = 0 then some s2
      else some (s2.hwEnqueueAt x.creator x.notify (64 * x.homeDie) none)

/-! ### The watchdog (R401, R402) -/

/-- WATCHDOG: the count has run out. -/
def watchdogEvent (c : Nat) (s : State) : Option State :=
  match s.ctx? c with
  | none => none
  | some x =>
    if x.state ≠ .running || x.regs.wdog == 0 || x.wdCount != 0 || x.haltReq.isSome then none
    else some (s.raiseNone { Src.none with ctx := c, pe := 256 * x.homeDie } { code := .watchdog, detail := wdogValue x.regs.wdog })

/-! ### Resuming and destroying (R420) -/

/-- A fault starts again as the context resumes (R395, R441): its stamp is the cycle of the resume. -/
def State.raiseHeld (s : State) (r : FaultRec) : State := s.raise { r with stamp := s.sched.cycle }

/-- Instructions that raised a fault in kept activations are issued again (R87). -/
def Frame.reissue (f : Frame) : Frame := { f with stat := (f.stat.filter fun p => p.2 != .faulted), lost := [], failed := false }

/-- An instruction that is issued again holds its operands again: a handle whose tile is live counts, any other is stale (R161). -/
def State.regain (s : State) (c : Nat) : State :=
  s.pe.frames.foldl (fun s p =>
    if p.2.ctx = c then
      ((p.2.slots.filter fun q => p.2.lost.contains q.1).map Prod.snd).foldl (fun s t => (s.addRefs [t]).getD s) s
    else s) s

/-- Accesses of kept activations that met a fault are made again (R87, R229). -/
def Access.remake (a : Access) : Access :=
  if a.state = .parked 0 then { a with state := if a.write then .walk else .lsid } else a

/-- The effects of a resume that every mode shares (R420 mode 0). -/
def State.resumeShared (s : State) (c : Nat) : State :=
  match s.ctx? c with
  | none => s
  | some x =>
    let s1 := (s.regain c).setCtx c { x with state := .running, requeue := [], stops := [], heldFaults := [], wdCount := (wdogValue x.regs.wdog).toNat }
    let frames := s1.pe.frames.map fun p => if p.2.ctx = c then (p.1, p.2.reissue) else p
    let queue := (mapIf (fun (a : Activation) => a.ctx == c) (fun a => { a with faulted := false }) s1.pe.queue) ++
      x.requeue.map fun a => { a with since := s.sched.cycle }
    let s2 : State := { s1 with pe := { s1.pe with frames := frames, queue := queue }
                                mem := { s1.mem with accesses := s1.mem.accesses.map fun p => if p.2.src.ctx = c then (p.1, p.2.remake) else p } }
    let s3 := (((s2.queueImages c).chanResume).barResume c).copyResume c
    let held := x.heldFaults ++ (s3.pe.queue.filter fun a => a.ctx == c).filterMap fun a => a.pendingFault
    let raised := mapIf (fun (a : Activation) => a.ctx == c && a.pendingFault.isSome) (fun a => { a with pendingFault := none, faulted := true, requested := false })
      s3.pe.queue
    let s4 : State := { s3 with pe := { s3.pe with queue := raised } }
    held.foldl (fun s r => s.raiseHeld r) s4

/-- Replies of host calls that came while the context was halted are delivered (R415). -/
def State.deliverCalls (s : State) (c : Nat) : State :=
  s.dev.requests.foldl (fun s p =>
    if p.2.ctx = c ∧ p.2.kind = 4 ∧ p.2.status ≠ 0 then
      let s1 : State := { s with dev := { s.dev with requests := s.dev.requests.del p.1 } }
      ((s1.answered p.2.src).reply .host 1 p.2.dests (scalarTok p.2.reply) p.2.src).reply .host 1 p.2.sdests (scalarTok (wordOf p.2.status)) p.2.src
    else s) s

/-- A task is abandoned (R420 mode 1): its activations go, kept ones too, and it ends abnormally with a code (R357). -/
def State.abandon (s : State) (c pe t code : Nat) : State :=
  match s.task? pe t with
  | none => s
  | some tk =>
    if tk.ctx ≠ c then s
    else
      let mine := s.pe.frames.filter fun p => p.1 / 256 == pe && p.2.task == t && p.2.isOpen
      let s1 := mine.foldl (fun s p => s.discardFrame p.1) s
      let s2 : State := { s1 with pe := { s1.pe with queue := s1.pe.queue.filter fun a => !(a.pe == pe && a.task == t) } }
      let s3 := s2.modCtx c fun x => { x with requeue := x.requeue.filter fun a => !(a.pe == pe && a.task == t) }
      let src : Src := { Src.none with ctx := c, pe := pe, task := t, block := tk.record.code, idx := 0xFF }
      s3.modTask pe t fun k => { k with ending := some src, abnormal := some (k.abnormal.getD code), barWait := [], preempt := .running }

/-- Mode 2 (R420): the instruction of the cause resolves as under a predicate mismatch, in its kept activation now, or in the one
that restarts. -/
def State.skipCause (s : State) (c : Nat) (r : FaultRec) : State :=
  let k := frameKey r.src.pe r.src.frame
  match s.frameOf r.src.pe r.src.frame r.src.uid with
  | some f =>
    if f.isOpen && !r.header then
      (match f.cfg.instr r.src.idx with
      | some i => s.mismatch k r.src.idx i (f.heldAt r.src.idx)
      | none => s)
    else s.modCtx c fun x => { x with skip := some { pe := r.src.pe, task := r.src.task, block := r.src.block, iter := r.src.iter, idx := r.index } }
  | none => s.modCtx c fun x => { x with skip := some { pe := r.src.pe, task := r.src.task, block := r.src.block, iter := r.src.iter, idx := r.index } }

/-- The poison and decrement of a task whose context is destroyed: one that cannot be translated is dropped (R483). -/
def State.lastSend (s : State) (pe t : Nat) (tk : Task) (code : Nat) : State :=
  let src : Src := { Src.none with ctx := tk.ctx, pe := pe, task := t, block := tk.record.code, idx := 0xFF }
  let send := fun (s : State) (va len at_ : Nat) (m : List (Nat × Nat) → Msg) =>
    if !canonicalSpan va len then s
    else match s.checkHome tk.ctx pe .object va len with
      | .ok ks => s.post (.pe pe) (engineAgent (runAt ks at_)) 7 (m ks)
      | _ => s
  let s1 := if tk.record.fa then send s tk.arg5.toNat 512 0 fun ks => .poison tk.arg5.toNat ks code src else s
  if tk.record.join = 0 then s1 else send s1 tk.record.join 128 64 fun ks => .join tk.record.join ks none code src

/-- A task of a destroyed context ends (R357, R420). -/
def State.destroyTask (s : State) (pe t code : Nat) : State :=
  match s.task? pe t with
  | none => s
  | some tk =>
    let s1 := s.releaseTask pe t
    let s2 := match tk.record.dep with | some key => s1.endDep key | none => s1
    (s2.lastSend pe t tk (tk.abnormal.getD code)).delTask pe t

/-- A context's tiles go with it (R420), and so do its frames and queued activations. -/
def State.destroyStores (s : State) (c : Nat) (x : Ctx) : State :=
  let freed := fun (p : Nat × TileSlot) =>
    if p.2.count ≠ 0 ∧ p.2.owner = x.slot ∧ x.onDie (dieOfPe (p.1 / 4096)) then (p.1, p.2.freed) else p
  { s with pe := { s.pe with frames := s.pe.frames.filter fun p => p.2.ctx != c
                             queue := s.pe.queue.filter fun a => a.ctx != c
                             tiles := s.pe.tiles.map freed
                             pctx := s.pe.pctx.filter fun p => p.1 / 2048 != c
                             windows := s.pe.windows.map fun p => (p.1, p.2.filter fun w => w.ctx != c) } }

/-- A write of a copy keeps the bytes it carries when its copy goes. -/
def State.ownBytes (s : State) (a : Access) : Access :=
  match a.purpose with
  | .copyWrite _ => { a with buf := s.dataOf a, purpose := .store none }
  | _ => a

/-- What memory units, copy queues and the Kilns hold for a context goes with it (R420, R431); stores already released and a copy's writes
already issued perform (R330). -/
def State.destroyUnits (s : State) (c : Nat) : State :=
  let stays := s.mem.accesses.filter fun p => p.2.src.ctx != c || (p.2.released && p.2.state.isActive)
  { s with mem := { s.mem with accesses := stays.map fun p => if p.2.src.ctx = c then (p.1, s.ownBytes p.2) else p
                               holds := s.mem.holds.filter fun h => h.ctx != c
                               entries := s.mem.entries.filter fun p => p.2.ctx != c
                               shadows := s.mem.shadows.filter fun r => r.1 != c }
           copies := s.copies.filter fun p => p.2.src.ctx != c
           task := { s.task with queues := s.task.queues.filter fun e => e.ctx != c
                                 waiting := s.task.waiting.filter fun e => e.ctx != c
                                 deps := s.task.deps.filter fun p => p.2.ctx != c }
           kiln := { s.kiln with objects := s.kiln.objects.filter fun p => p.2.ctx != c
                                 entries := s.kiln.entries.filter fun e => e.ctx != c
                                 reqs := s.kiln.reqs.filter fun r => r.ctx != c
                                 jobs := s.kiln.jobs.filter fun p => p.2.src.ctx != c
                                 choice := s.kiln.choice.filter fun p => match s.kiln.objects.get? (p.1 % 4096) with | some o => o.ctx != c | none => false }
           dev := { s.dev with queues := s.dev.queues.filter fun p => p.2.ctx != c
                               requests := s.dev.requests.filter fun p => p.2.ctx != c || p.2.kind == 1 } }

/-- CTXRES mode 3, with the code that its tasks end with (R420); the header is written first of all, through the context's own
translation. What was held for the context is served and discarded (R298), and copy queues go on in the places it leaves (R337). -/
def State.destroyContext (s : State) (c : Nat) : State :=
  match s.ctx? c with
  | none => s
  | some x =>
    let code := if x.code = 0 then 0xFF else x.code
    let s0 := (s.stopWrite c 0 [2, 4]).getD s
    let s1 := s0.pe.frames.foldl (fun s p => if p.2.ctx = c ∧ p.2.isOpen then s.discardFrame p.1 else s) s0
    let s2 := s1.pe.tasks.foldl (fun s p => if p.2.ctx = c then s.destroyTask (p.1 / 16) (p.1 % 16) code else s) s1
    let s3 := s2.destroyChansOf c
    let s4 := s3.sync.counters.foldl (fun s p => if p.2.ctx = c then s.freeCounter p.1 else s) s3
    let s5 := (s4.destroyStores c x).destroyUnits c
    let s6 : State := { s5 with ctxs := s5.ctxs.del c }
    let s7 := s6.chans.foldl (fun s p => s.settleChan p.1) s6
    let pes := ((s4.copies.filter fun p => p.2.src.ctx == c).map fun p => p.2.src.pe).eraseDups
    (pes.foldl (fun s pe => s.servePe pe) s7).enqueueHeld

/-- CTXRES at its target (R420): no context of a partition runs but in RUN (R472). -/
def State.resumeContext (s : State) (c mode : Nat) (src : Src) : State :=
  match s.ctx? c with
  | none => s
  | some x =>
    if x.state ≠ .halted then s
    else if mode = 3 then s.destroyContext c
    else if !s.tdiIs x.part .run then s
    else
      let cause := if x.reason = 1 then x.stops.head? else none
      if mode = 2 then
        match cause with
        | some r => if r.code = .trap ∨ r.code = .breakpoint then ((s.skipCause c r).resumeShared c).deliverCalls c
                    else s.raiseAt src { code := .operand }
        | none => s.raiseAt src { code := .operand }
      else if mode = 1 then
        let s1 := x.stops.foldl (fun s r => if r.frameValid then s.abandon c r.src.pe r.src.task r.code.num else s) s
        (s1.resumeShared c).deliverCalls c
      else (s.resumeShared c).deliverCalls c

/-- CTXHALT at its target (R419). -/
def State.haltRequest (s : State) (c mode : Nat) : State :=
  match s.ctx? c with
  | none => s
  | some x =>
    if !x.state.issues then s
    else if mode = 0 then s.setCtx c { x with haltReq := match x.haltReq with | some q => some q | none => some (s.sched.cycle, 2) }
    else if x.state = .checkpointing then s
    else
      let s1 := s.setCtx c { x with state := .checkpointing }
      { s1 with pe := { s1.pe with tasks := s1.pe.tasks.map fun p => if p.2.ctx = c then (p.1, { p.2 with ckptReq := true }) else p } }

/-- A context instruction's message arrives, after its block's stores (R418): its target is checked, and it takes effect. -/
def State.contextOp (s : State) (op : CtxOp) (src : Src) (buf : List Byte) (pa : Nat) : State :=
  let target := fun (c : Nat) (k : State) =>
    match s.ctx? c with
    | none => s.raiseAt src { code := .operand }
    | some y =>
      if c = src.ctx then s.raiseAt src { code := .operand }
      else if y.part ≠ s.partOf src.ctx then s.raiseAt src { code := .protection }
      else k
  match op with
  | .new _ =>
    match s.ctx? src.ctx with
    | none => s
    | some x => (s.createContext buf pa src.ctx x.part x.regs.fltq.toNat (quadOfPe src.pe) false).1
  | .halt c mode => target c (s.haltRequest c mode)
  | .resume c mode => target c (s.resumeContext c mode src)

/-! ### Context instructions (R418 to R420) -/

/-- The message of a context instruction leaves at commit (R418). -/
def State.commitCtx (s : State) (op : CtxOp) (pa : Nat) (src : Src) : State :=
  let cells := match op with | .new _ => (List.range 64).map fun i => (plainKey pa + i, i) | _ => []
  s.addAccess { src := src, stream := 8, lsid := 0, write := false, released := true, cells := cells, buf := List.replicate cells.length 0, pieces := []
                dests := [], extra := [], purpose := .ctxop op, state := .walk, refused := if isRefused pa then [plainKey pa / 65536] else [], step := none
                issued := 0, prior := [], fwd := [] }

/-- CTXNEW (R418). -/
def ctxnewBody : Body := fun f s =>
  if !f.x.mgr then failWith .privilege
  else do
    let ks ← f.object s f.a 64 .object 1
    .ok (Done.scalar (s.hold f.key (.ctx (.new f.a.val.toNat) (runAt ks 0) f.src)) 0)

/-- CTXHALT and CTXRES (R418 to R420): a mode of `modes` or above raises OPERAND. -/
def ctxBody (modes : Nat) (op : Nat → Nat → CtxOp) : Body := fun f s =>
  if !f.x.mgr then failWith .privilege
  else do
    let a ← wantScalar f.a
    let b ← wantScalar f.b
    if modes ≤ b.toNat then failWith .operand
    else .ok (Done.scalar (s.hold f.key (.ctx (op a.toNat b.toNat) 0 f.src)) 0)

/-! ### ATINV (R422, R423) -/

/-- A control word's named pages: base and size; none for every page of the ASID. -/
def invSpan (a b : Nat) : Option (Nat × Nat) :=
  let size := bitsAt b 6 2
  if size = 3 then none else
    let n := levelSize size
    some (a % 2 ^ 57 / n * n, n)

/-- An address range meets the named pages. -/
def meetsSpan (span : Option (Nat × Nat)) (va n : Nat) : Bool := match span with | none => true | some g => overlaps g (va, n)

/-- A unit of translation lies in the scope. -/
def unitIn (die : Nat) (scope unit : Nat) : Bool := scope == 3 || unit == 2048 + die || (decide (unit < 2048) && dieOfPe unit == die)

/-- The object that a message on its way to its home was translated for: whose it is, its address and its length (R372). -/
def Msg.object : Msg → Option (Src × Nat × Nat)
  | .join va _ _ _ src => some (src, va, 128)
  | .future va _ _ _ _ src => some (src, va, 512)
  | .poison va _ _ src => some (src, va, 512)
  | .deque va _ _ _ _ src => some (src, va, 64)
  | .wqueue va _ _ _ _ src => some (src, va, 64)
  | .barArrive _ _ (a :: _) none => if a.counter.isNone then some (a.src, a.va, 64) else none
  | _ => none

/-- The address and length of what an effect held for its commit was translated for. -/
def Effect.object : Effect → Option (Nat × Nat)
  | .jnew va _ _ _ | .jdec va _ _ => some (va, 128)
  | .fnew va _ _ => some (va, 512)
  | .ctx (.new va) _ _ | .barinit va _ _ _ | .bararr va _ _ _ _ _ => some (va, 64)
  | _ => none

/-- A source's accesses use the translations of an address space within a scope. -/
def State.within (s : State) (die scope asid : Nat) (a : Src) : Bool :=
  unitIn die scope a.pe && (match s.ctx? a.ctx with | some x => x.asid == asid | none => false)

/-- An access, atomic or object operation that uses a translation of the named pages is in flight within the scope, or held by an activation that is
neither the one that asks, nor the parent of its loop, nor a later one of its task: those commit after it (R423; DEDUCED, assumption log 107). -/
def State.usesSpan (s : State) (me : Src) (die scope asid : Nat) (span : Option (Nat × Nat)) : Bool :=
  let uses := fun (a : Src) (va n : Nat) => s.within die scope asid a && meetsSpan span (va % 2 ^ 57) n
  let access := fun (a : Access) => match a.purpose with
    | .ctxop (.new va) => uses a.src va 64
    | .ctxop _ | .trace _ => false
    | _ => a.state.isActive && a.cells.any fun c => uses a.src c.1 1
  s.mem.accesses.any (fun p => access p.2) ||
    s.sync.reqs.any (fun p => !p.2.purpose.traces && uses p.2.src p.2.va p.2.size) || s.net.any (fun p => (Msg.object p.2.body).any fun o => uses o.1 o.2.1 o.2.2) ||
    s.pe.frames.any fun p => p.2.isOpen && p.2.uid != me.uid && p.2.uid != me.parent &&
      !(p.1 / 256 == me.pe && p.2.task == me.task && decide (me.seq < p.2.seq)) && p.2.held.any fun e => e.object.any fun o => uses (srcOf p.1 p.2 0xFF) o.1 o.2

/-- A held store whose address was translated through an entry that goes is translated afresh (R423). -/
def State.recheckStores (s : State) (die scope asid : Nat) (span : Option (Nat × Nat)) : State :=
  s.pe.frames.foldl (fun s p => p.2.stores.foldl (fun s r =>
    let src := srcOf p.1 p.2 r.idx
    if p.2.isOpen && r.translated && !r.dropped && s.within die scope asid src && r.cells.any (fun c => meetsSpan span (c.1 % 2 ^ 57) 1) then
      (s.modFrame p.1 fun f => f.putStore { r with phys := [], translated := false }).checkStore src r.lsid r.stream r.cells
        ((p.2.cfg.instr r.idx).any Instr.isSt)
    else s) s) s

/-- ATINV (R422, R423): it stays ready until the accesses that used such an entry are performed; then no entry remains. -/
def atinvBody : Body := fun f s => do
  let b ← wantScalar f.b
  let other := bitAt b.toNat 5
  if other && !f.x.mgr then failWith .privilege
  else do
    let a ← wantScalar f.a
    let asid := if other then bitsAt b.toNat 32 16 else f.x.asid
    let foreign := other && s.ctxs.any fun p => p.2.asid == asid && p.2.part != f.x.part
    let scope := bitsAt b.toNat 0 3
    if foreign || (bitsAt b.toNat 6 2 != 3 && !canonical a.toNat) then failWith .protection a
    else if bitsAt b.toNat 48 16 ≠ 0 ∨ bitsAt b.toNat 8 24 ≠ 0 ∨ bitsAt b.toNat 3 2 ≠ 0 ∨ (scope ≠ 2 ∧ scope ≠ 3) then failWith .operand
    else
      let span := invSpan a.toNat b.toNat
      if s.usesSpan f.src f.die scope asid span then .error (.wait .before)
      else
        let gone := fun (e : TlbEntry) => unitIn f.die scope e.unit && e.asid == asid && meetsSpan span e.va e.size
        let s1 : State := { s with mem := { s.mem with tlb := s.mem.tlb.filter fun e => !gone e } }
        .ok { st := f.replyBoth (s1.recheckStores f.die scope asid span) (.die f.die) (scalarTok 0) }

/-- SRR (R413). -/
def execSrr (h : Hdr) (w : BitVec 32) (s : State) : Host.Outcome State Fault Refusal := fire (.srr h w) (srrBody w.toNat) s
/-- SRW (R392, R413). -/
def execSrw (h : Hdr) (w : BitVec 32) (s : State) : Host.Outcome State Fault Refusal := fire (.srw h w) (srwBody w.toNat) s
/-- TRAP (R414). -/
def execTrap (h : Hdr) (w : BitVec 32) (s : State) : Host.Outcome State Fault Refusal := fire (.trap h w) (trapBody w) s
/-- HCALL (R415). -/
def execHcall (h : Hdr) (w : BitVec 32) (s : State) : Host.Outcome State Fault Refusal := fire (.hcall h w) (hcallBody w) s
/-- CKPT (R416). -/
def execCkpt (h : Hdr) (s : State) : Host.Outcome State Fault Refusal := fire (.ckpt h) ckptBody s
/-- REMEST (R417). -/
def execRemest (h : Hdr) (s : State) : Host.Outcome State Fault Refusal := fire (.remest h) (remestBody none) s
/-- REMEST_IMM (R417). -/
def execRemestImm (h : Hdr) (w : BitVec 32) (s : State) : Host.Outcome State Fault Refusal := fire (.remestImm h w) (remestBody (some w)) s
/-- CTXNEW (R418). -/
def execCtxnew (h : Hdr) (s : State) : Host.Outcome State Fault Refusal := fire (.ctxnew h) ctxnewBody s
/-- CTXHALT (R419). -/
def execCtxhalt (h : Hdr) (s : State) : Host.Outcome State Fault Refusal := fire (.ctxhalt h) (ctxBody 2 .halt) s
/-- CTXRES (R420). -/
def execCtxres (h : Hdr) (s : State) : Host.Outcome State Fault Refusal := fire (.ctxres h) (ctxBody 4 .resume) s
/-- HBEAT (R421). -/
def execHbeat (h : Hdr) (s : State) : Host.Outcome State Fault Refusal := fire (.hbeat h) hbeatBody s
/-- ATINV (R422, R423). -/
def execAtinv (h : Hdr) (s : State) : Host.Outcome State Fault Refusal := fire (.atinv h) atinvBody s
/-- PWRHINT (R421). -/
def execPwrhint (h : Hdr) (w : BitVec 32) (s : State) : Host.Outcome State Fault Refusal := fire (.pwrhint h w) (pwrhintBody w) s
/-- HALT_LINE (R394). -/
def execHaltLine (c : Nat) (s : State) : Host.Outcome State Fault Refusal := event "HALT_LINE" (haltLineEvent c s)
/-- HALT_COMPLETE (R396). -/
def execHaltComplete (c : Nat) (s : State) : Host.Outcome State Fault Refusal := event "HALT_COMPLETE" (haltCompleteEvent c s)
/-- WATCHDOG (R402). -/
def execWatchdog (c : Nat) (s : State) : Host.Outcome State Fault Refusal := event "WATCHDOG" (watchdogEvent c s)

end Sys2Proof.Machine
end

