-- ==== Sys2Proof/Machine/Home.lean ====
section
/-! DEFINITION. Accesses at their homes (R225 to R249), what completes with them, and activations that waited on a fault-queue entry (R226, R227). -/

namespace Sys2Proof.Machine

/-! ### Pieces at their homes (R229, R238, R248) -/

/-- A byte as a plain access reads it at its home: of a device register, or of memory (R219). -/
def State.homeByte (s : State) (key : Nat) : Byte :=
  if 2 ^ 52 ≤ key then s.readByte key
  else match regionOf key with
    | .dev off => s.devByte off
    | _ => s.readByte key

/-- A piece writes its bytes (R229): one that fills a poisoned granule clears its poison; every byte is counted (R279), but for those of a trace record
(R456). -/
def State.writePiece (s : State) (a : Access) (p : Piece) : State :=
  let data := s.dataOf a
  match p.cells with
  | [] => s
  | c :: _ =>
    let s1 := s.recall c.1
    let s2 := if ((p.cells.map Prod.fst).eraseDups).length = 64 then s1.setPoison c.1 false else s1
    let s3 := p.cells.foldl (fun s x => s.writeByte x.1 (nthD data x.2 0)) s2
    if a.purpose.traces then s3 else s3.countWrite p.home (p.cells.map Prod.fst)

/-- A write to a device register travels to it (R223, R470), and is performed when it takes effect there (R247). -/
def State.sendPiece (s : State) (n i : Nat) (a : Access) (p : Piece) : State :=
  s.post (.pe a.src.pe) .io 0 (.devWrite (p.key - 2 * 2 ^ 40) (p.cells.map fun x => nthD (s.dataOf a) x.2 0) (some (s.partOf a.src.ctx)) (some (n, i)))

/-- The pieces of an access with one performed. -/
def Access.donePiece (a : Access) (p : Nat) : Access :=
  match a.pieces[p]? with
  | some q => { a with pieces := setAt p { q with done := true } a.pieces }
  | none => a

/-- Codes of a tile image (R243): element (r, c) at r × cols + c. -/
def imageCodes (buf : List Byte) (rows cols w : Nat) : List Nat :=
  (List.range 256).map fun i => if i / 16 < rows ∧ i % 16 < cols then fieldAt buf ((i / 16 * cols + i % 16) * w) w else 0

/-- Bytes of an element of a channel's image. -/
def imageBytes (img : BitVec 16) : Nat := match chanOf img with | some ch => ch.bytes | none => 1

/-- A tile fetch fills its tile (R235, R243): the nonfinite bit follows the format of its channel as the fetch fired (R138, R164). -/
def State.fillTile (s : State) (slot : Nat) (h : Word) (img : BitVec 16) (buf : List Byte) : State :=
  match s.tileOf h with
  | none => s
  | some t =>
    let codes := imageCodes buf (hRows h + 1) (hCols h + 1) (imageBytes img)
    let nf := match chanOf img with
      | some ch => regionNonfinite ch.fmt (hRows h) (hCols h) codes
      | none => false
    s.setTile (hPe h) slot { t with nonfinite := nf, codes := codes }

/-- The value of a scalar load (R241). -/
def loadValue (buf : List Byte) (size : Nat) (sx : Bool) : Word :=
  if sx then wordOfInt (signedOf (8 * size) (leNat buf)) else wordOf (leNat buf)

/-- A list of TGATH or TSCAT has been read (R245): its rows, or the fault its base raises. -/
def rowsOf (t : TmemW) (w : Nat) (buf : List Byte) : Except Fail (List (Nat × Nat)) :=
  match listRows buf (t.rows.toNat + 1) (t.cols.toNat + 1) w with
  | none => .error { code := .align, detail := wordOf (fieldAt buf 0 8) }
  | some cells =>
    match cells.find? fun c => !canonical c.1 with
    | some c => .error { code := .protection, detail := wordOf c.1 }
    | none => .ok cells

/-- Every piece of an access is performed: what it was for happens, and the access is over. -/
def State.completeAccess (s : State) (n : Nat) (a : Access) (home : Agent) : State :=
  let s1 := s.delAccess n
  match a.purpose with
  | .scalar size sx => s1.reply home 1 a.dests (scalarTok (loadValue a.buf size sx)) a.src
  | .tile slot h img => (s1.fillTile slot h img a.buf).reply home 1 a.dests { kind := .tile, val := h } a.src
  | .gather t slot h img =>
    let w := imageBytes img
    match rowsOf t w a.buf with
    | .error e => s.accessFault n a e
    | .ok cells =>
      s.setAccess n { a with cells := cells, buf := List.replicate ((t.rows.toNat + 1) * (t.cols.toNat + 1) * w) 0, pieces := []
                             purpose := .tile slot h img, state := .lsid }
  | .scatter t h img =>
    let w := imageBytes img
    match rowsOf t w a.buf with
    | .error e => s.accessFault n a e
    | .ok cells =>
      let codes := match s.tileOf h with | some ts => ts.codes | none => []
      s1.noteStore a.src a.lsid a.stream cells false (some (tileBytes codes (t.rows.toNat + 1) (t.cols.toNat + 1) w)) (some h)
  | .check _ => s1
  | .store holder => (match holder with | some h => s1.release a.src.pe h | none => s1)
  | .copyRead c =>
    match s1.copies.get? c with
    | some k =>
      let buf := a.cells.foldl (fun b x => setAt x.2 (nthD a.buf x.2 0) b) k.buf
      State.pumpAll { s1 with copies := s1.copies.put c { k with buf := buf } } c
    | none => s1
  | .copyWrite _ => s1
  | .ctxop op => s1.contextOp op a.src a.buf (((a.cells.head?).map Prod.fst).getD 0)
  | .trace t => s1.traceReq a.src t.part ((((a.cells.head?).map Prod.fst).getD 0) / 64 * 64) (.typed t)
  | .barinit => if a.refused.isEmpty then s1.barAdopt ((((a.pieces.head?).bind fun p => p.cells.head?).map Prod.fst).getD 0) else s1

/-- An access all of whose pieces are performed completes. -/
def State.settleAccess (s : State) (n : Nat) (home : Agent) : State :=
  match s.mem.accesses.get? n with
  | some a => if a.state.isActive && a.pieces.all (fun p => p.done) then (s.completeAccess n a home).sweepHolds else s
  | none => s

/-- A register write that performs a piece of an access has been made (R247, R470). -/
def State.performed (s : State) (acc : Option (Nat × Nat)) : State :=
  match acc with
  | none => s
  | some (n, i) => match s.mem.accesses.get? n with
    | some a => (s.setAccess n (a.donePiece i)).settleAccess n .io
    | none => s

/-- A piece is refused where it is performed: by a remote package (R476), or because its page passed to another partition since it was translated (R471). -/
def State.refuses (s : State) (a : Access) (p : Piece) : Bool :=
  a.refused.contains (p.key / 65536) || (s.ctx? a.src.ctx).any fun x => s.foreign x.part p.key

/-- A write of a trace record meets PROTECTION or UNCORRECTABLE (R456). -/
def State.traceFails (s : State) (a : Access) (key : Nat) : Bool :=
  match a.purpose with
  | .trace t => !s.traceReach t.part key || s.poisoned key
  | _ => false

/-- A trace record cannot be written (R456): it is dropped and counted in Lost. -/
def State.dropTrace (s : State) (n : Nat) (a : Access) : State :=
  match a.purpose with
  | .trace t => (s.delAccess n).loseTrace a.src t
  | _ => s

/-- Refused pieces of a write are not performed and the access goes on without them (R471, R476): PROTECTION at reply, once for the access. -/
def State.refuseWrite (s : State) (n : Nat) (a : Access) (va : Nat) (home : Agent) : State :=
  let e : Fail := { code := .protection, detail := wordOf va, access := if a.stream < 8 then some (a.lsid, a.stream) else none, step := a.step }
  let s1 := match a.purpose with
    | .copyWrite c => s.abortCopy c e
    | _ => s.raiseAt a.src e
  (s1.setAccess n { a with pieces := mapIf (fun p => s.refuses a p) (fun p => { p with done := true }) a.pieces }).settleAccess n home

/-- A read piece fills the access's buffer; a copy's is as long as its stream. -/
def State.readPiece (s : State) (a : Access) (p : Piece) : Access :=
  let need := p.cells.foldl (fun m c => max m (c.2 + 1)) a.buf.length
  { a with buf := p.cells.foldl (fun b c => setAt c.2 (s.homeByte c.1) b) (a.buf ++ List.replicate (need - a.buf.length) 0) }

/-- MEMORY_ACCESS_AT_HOME: piece p of access n is performed (R248). A remote package's refusal is found at reply (R476). -/
def homeEvent (n p : Nat) (s : State) : Option State :=
  match s.mem.accesses.get? n with
  | none => none
  | some a =>
    match a.pieces[p]? with
    | none => none
    | some q =>
      if !s.pieceReady n a q then none
      else
        let key := q.key
        let va := ((a.cells.find? fun c => q.cells.any fun d => d.2 == c.2).map Prod.fst).getD 0
        let stop := fun (e : Fail) => some (s.accessFault n a e).sweepHolds
        if s.traceFails a key then some (s.dropTrace n a)
        else if s.refuses a q then (if a.write then some (s.refuseWrite n a va q.home) else stop { code := .protection, detail := wordOf va })
        else if a.write && q.home == .io then some (s.sendPiece n p a q)
        else if a.write then
          let s1 := s.writePiece a q
          some ((s1.setAccess n (a.donePiece p)).settleAccess n q.home)
        else
          let s1 := if q.home = .io then s else s.recall key
          if s1.poisoned key && q.home != .io then stop { code := .uncorrectable, detail := wordOf (key / 64 * 64) }
          else some ((s1.setAccess n ((s1.readPiece a q).donePiece p)).settleAccess n q.home)

/-- TRANSLATION_WALK: a walk completes and the access goes on (R222); one with nothing left to read completes (R237). -/
def walkDoneEvent (n : Nat) (s : State) : Option State :=
  match s.walkEvent n, s.mem.accesses.get? n with
  | some s1, some a => some (s1.settleAccess n (.pe a.src.pe))
  | _, _ => none

/-! ### Activations that wait (R226, R227) -/

/-- An activation waits on an entry no more: an iteration goes back to its sequencer, any other is queued or kept for the resume. -/
def State.restartAct (s : State) (a : Activation) (held : Bool) : State :=
  if a.iter.isSome then s.modLoop a.pe a.task fun l => { l with paused := l.paused.filter fun j => some j != a.iter }
  else
    let a1 := { a with since := s.sched.cycle }
    if held then s.modCtx a.ctx fun x => { x with requeue := x.requeue ++ [a1] }
    else { s with pe := { s.pe with queue := s.pe.queue ++ [a1] } }

/-- MEMORY_ACCESS_AT_HOME (R248). -/
def execMemoryAccessAtHome (n : Nat) (p : Nat) (s : State) : Host.Outcome State Fault Refusal := event "MEMORY_ACCESS_AT_HOME" (homeEvent n p s)
/-- TRANSLATION_WALK (R222). -/
def execTranslationWalk (n : Nat) (s : State) : Host.Outcome State Fault Refusal := event "TRANSLATION_WALK" (walkDoneEvent n s)

end Sys2Proof.Machine
end

