-- ==== Sys2Proof/Machine/Debug.lean ====
section
/-! DEFINITION. The trace buffer, breakpoints, and the debug instructions (R455 to R466). -/

namespace Sys2Proof.Machine

/-! ### The trace buffer (R455 to R458) -/

/-- A trace record's fields (R457). -/
structure TraceRec where
  type : Nat
  cls : Nat := 0
  detail : Nat := 0
  src : Option Src := none
  pe : Nat
  a : Nat := 0
  b : Nat := 0
  c : Nat := 0
  d : Nat := 0
  e : Nat := 0
  deriving DecidableEq, Repr

/-- The bytes of a trace record (R457). -/
def TraceRec.bytes (r : TraceRec) (ctx cycle : Nat) : List Byte :=
  leBytes 1 r.type ++ leBytes 3 0 ++ leBytes 1 r.cls ++ leBytes 1 r.detail ++ leBytes 1 (match r.src with | some k => k.idx | none => 0xFE) ++
    leBytes 1 (match r.src with | some k => k.frame | none => 0xFF) ++ leBytes 2 ctx ++ leBytes 2 r.pe ++
    leBytes 4 (match r.src with | some k => k.node | none => 0xFFFFFFFF) ++ leBytes 8 r.e ++ leBytes 8 r.d ++ leBytes 8 r.c ++ leBytes 8 r.b ++
    leBytes 8 r.a ++ leBytes 8 cycle

/-- A record of a context is generated under its setting (R456, R457): it is on its way to the buffer. -/
def State.traceRecord (s : State) (c cycle : Nat) (r : TraceRec) : State :=
  match s.ctx? c with
  | none => s
  | some x => match x.trace with
    | none => s
    | some t => s.sendTrace (traceSrc c r.pe) { part := x.part, header := t.headerPa, slots := t.slots, pages := t.pages, bytes := r.bytes c cycle }

/-- The configuration record of an interval that ends (R457, R458). -/
def State.endInterval (s : State) (pe : Nat) (w : WinCfg) : State :=
  match (s.ctx? w.ctx).bind fun x => x.trace with
  | some t =>
    if t.configs then
      s.traceRecord w.ctx s.sched.cycle { type := 3, pe := pe, a := w.addr, b := w.tag1.toNat, c := w.fired * 2 ^ 32 + w.waitOp
                                          d := w.blocked * 2 ^ 32 + w.cfgLoad, e := w.beginCycle }
    else s
  | none => s

/-- The next sample that a PE has taken for a context and is to write. -/
def State.sampleDue (s : State) (c pe : Nat) : Option Sample :=
  ((s.ctx? c).bind fun x => x.trace).bind fun t => t.samples.find? fun q => q.pe == pe

/-- The record of a sample (R457). -/
def Sample.record (q : Sample) : TraceRec :=
  { type := 1, cls := q.cls, detail := q.detail, src := q.src, pe := q.pe
    a := match q.src with | some k => (match k.iter with | some i => wrapNat 64 i | none => 0) | none => 0
    b := match q.src with | some k => k.block | none => 0 }

/-- A sample is written no more. -/
def TraceCfg.without (t : TraceCfg) (q : Sample) : TraceCfg := { t with samples := t.samples.erase q }

/-- TRACE_SAMPLE: a PE writes the record of a sample it took (R458). -/
def sampleEvent (c pe : Nat) (s : State) : Option State :=
  match s.sampleDue c pe with
  | none => none
  | some q => some ((s.modCtx c fun x => { x with trace := x.trace.map fun t => t.without q }).traceRecord c q.cycle q.record)

/-! ### Instructions (R459 to R466) -/

/-- The target of a debug instruction, with its checks in order (R459). -/
def Firing.target (f : Firing) (s : State) (cid : Nat) : Except Stop (Nat × Ctx) :=
  let c := if cid = 0 then f.fr.ctx else cid
  match s.ctx? c with
  | none => failWith .operand
  | some x =>
    if c ≠ f.fr.ctx ∧ !f.x.mgr then failWith .privilege
    else if x.part ≠ f.x.part then failWith .protection
    else if !x.dbgen then failWith .debugDisabled
    else .ok (c, x)

/-- TRACE's control word obeys R463. -/
def traceGood (w : Nat) : Bool :=
  let k := bitsAt w 16 5
  bitsAt w 25 39 == 0 && (k == 0 || (decide (8 ≤ k) && decide (k ≤ 24))) && (bitAt w 24 || bitsAt w 16 8 == 0)

/-- The setting that TRACE asks for (R463), none to disable: the header and the whole buffer are checked and translated once. -/
def Firing.traceCfg (f : Firing) (s : State) (w : Nat) : Except Stop (Option TraceCfg) := do
  let a ← wantScalar f.a
  if !bitAt w 24 then (if traceGood w then .ok none else failWith .operand)
  else
    let hs ← f.object s f.a 64 .object 1
    let header := runAt hs 0
    let slots := leNat (s.readBytes (header + 24) 4)
    if isRefused header then failWith .protection a
    else if s.poisoned header then failWith .uncorrectable (wordOf header)
    else if slots < 16 ∨ 2 ^ 24 < slots ∨ 2 ^ slots.log2 ≠ slots then failWith .operand
    else if !canonicalSpan a.toNat (64 + 64 * slots) then failWith .protection a
    else
      let ks ← rangeOrStop (s.checkRange f.fr.ctx f.pe .object (a.toNat + 64) (64 * slots)) 1
      if !traceGood w then failWith .operand
      else .ok (some { header := a.toNat, headerPa := header, slots := slots, pages := ks, omitIdle := bitAt w 23, configs := bitAt w 22
                       marks := bitAt w 21, k := bitsAt w 16 5, samples := [] })

/-- Set, replace or remove a breakpoint (R465): the list and the status. -/
def brkList (l : List Brk) (addr count : Nat) (remove : Bool) : List Brk × Nat :=
  let held := l.any fun b => b.addr == addr
  let rest := l.filter fun b => b.addr != addr
  if remove then (rest, if held then 1 else 2)
  else if held || decide (rest.length < 8) then (rest ++ [{ addr := addr, count := count }], 1)
  else (l, 0)

/-- A setting comes into force in a context (R460, R463). -/
def Ctx.apply (x : Ctx) : Setting → Ctx
  | .trace t => { x with trace := t }
  | .brk addr count remove => { x with breaks := (brkList x.breaks addr count remove).1 }

/-- A setting waits for its instruction's reply (R460, R463); one that names no target has replied as it fires. -/
def Firing.settle (f : Firing) (s : State) (c : Nat) (x : Ctx) (v : Setting) : State :=
  s.setCtx c (if f.fan = 0 then x.apply v else { x with settings := x.settings ++ [(f.src, v)] })

/-- The settings that an instruction asked for come into force as it replies (R460, R463). -/
def State.inForce (s : State) (src : Src) : State :=
  if s.ctxs.any fun p => p.2.settings.any fun q => q.1 == src then
    { s with ctxs := s.ctxs.map fun p =>
        let mine := (p.2.settings.filter fun q => q.1 == src).map Prod.snd
        (p.1, mine.foldl Ctx.apply { p.2 with settings := p.2.settings.filter fun q => q.1 != src }) }
  else s

/-- TRACE (R459, R463). -/
def traceBody : Body := fun f s => do
  let b ← wantScalar f.b
  let p ← both (f.target s (bitsAt b.toNat 0 16)) (f.traceCfg s b.toNat)
  .ok { st := f.replyBoth (f.settle s p.1.1 p.1.2 (.trace p.2)) (.die f.die) (scalarTok 1) }

/-- MARK (R458, R464). -/
def markBody (w : BitVec 32) : Body := fun f s => do
  let a ← wantScalar f.a
  let on := match f.x.trace with | some t => t.marks | none => false
  .ok { st := if on then s.traceRecord f.fr.ctx s.sched.cycle { type := 2, src := some f.src, pe := f.pe, a := a.toNat, b := w.toNat, c := f.fr.cfg.addr } else s }

/-- BRK (R465): its status is that of the breakpoints as every setting asked for before it leaves them. -/
def brkBody : Body := fun f s => do
  let b ← wantScalar f.b
  let w := b.toNat
  let p ← both (f.target s (bitsAt w 0 16)) (wantScalar f.a)
  let t := p.1
  let a := p.2
  if bitsAt w 32 32 ≠ 0 ∨ bitsAt w 17 7 ≠ 0 ∨ (bitAt w 16 ∧ bitsAt w 24 8 ≠ 0) then failWith .operand
  else
    match s.typeAt f.die t.1 a.toNat with
    | some .code | some .actor | some .loop =>
      let held := ((t.2.settings.map Prod.snd).foldl Ctx.apply t.2).breaks
      .ok { st := f.replyBoth (f.settle s t.1 t.2 (.brk a.toNat (bitsAt w 24 8) (bitAt w 16))) (.die f.die)
                    (scalarTok (wordOf (brkList held a.toNat (bitsAt w 24 8) (bitAt w 16)).2)) }
    | _ => failWith .operand

/-- The cycle of the instruction's own issue, which FIRED on its PE counts too, where no other instruction of its context issued there in it (R466: the
value is that of a cycle between fire and reply). -/
def Firing.ownCycle (f : Firing) (s : State) (c pe n : Nat) : Nat :=
  bit (n == 0 && c == f.fr.ctx && pe == f.pe && (s.issuedNow c pe).isNone && !s.countedNow c)

/-- CNTRD (R466). -/
def cntrdBody (w : BitVec 32) : Body := fun f s => do
  let a ← wantScalar f.a
  let v := a.toNat
  let cid := bitsAt v 0 16
  let pe := bitsAt v 32 11
  if bitsAt v 16 16 ≠ 0 ∨ bitsAt v 43 21 ≠ 0 ∨ (cid = 0 ∧ pe ≠ 0) then failWith .operand
  else do
    let t ← f.target s cid
    let p := if cid = 0 then f.pe else pe
    if !t.2.onDie (dieOfPe p) then failWith .operand
    else .ok { st := f.replyBoth s (.pe p) (scalarTok (wordOf (s.counterOf t.1 p (w.toNat % 8) + f.ownCycle s t.1 p (w.toNat % 8)))) }

/-- TRACE (R463). -/
def execTrace (h : Hdr) (s : State) : Host.Outcome State Fault Refusal := fire (.trace h) traceBody s
/-- MARK (R464). -/
def execMark (h : Hdr) (w : BitVec 32) (s : State) : Host.Outcome State Fault Refusal := fire (.mark h w) (markBody w) s
/-- BRK (R465). -/
def execBrk (h : Hdr) (s : State) : Host.Outcome State Fault Refusal := fire (.brk h) brkBody s
/-- CNTRD (R466). -/
def execCntrd (h : Hdr) (w : BitVec 32) (s : State) : Host.Outcome State Fault Refusal := fire (.cntrd h w) (cntrdBody w) s
/-- TRACE_SAMPLE (R458). -/
def execTraceSample (c : Nat) (pe : Nat) (s : State) : Host.Outcome State Fault Refusal := event "TRACE_SAMPLE" (sampleEvent c pe s)

end Sys2Proof.Machine
end

