-- ==== Sys2Proof/Machine/Kiln.lean ====
section
/-! DEFINITION. The Kiln and the translation cache: windows, translation, invalidation, TCINV, TCPIN and TCPRE (R424 to R428, R432,
R433, R439 to R442, R446 to R449). -/

namespace Sys2Proof.Machine

/-! ### Tags, the entry store and the windows (R424, R425, R428) -/

/-- Tag doubleword 1 of an entry (R425). -/
def TcEntry.tag1 (e : TcEntry) : Nat :=
  bit e.stale * 2 ^ 24 + e.rev * 2 ^ 25 + bit e.pinned * 2 ^ 26 + bit e.native * 2 ^ 27 + bit (Config.dieRevision e.die) * 2 ^ 28 + e.cfg.obj * 2 ^ 36 +
    e.asid * 2 ^ 48

/-- There is room for one more in a part of the cache that holds at least `least` configurations: beyond that it is implementation-specific. -/
def State.cacheRoom (s : State) (held least : Nat) : Bool := decide (held < least) || s.freeChoice 2 == 0

/-- The least recently used entry of a die that is neither pinned nor stale is evicted (R428). -/
def State.evictEntry (s : State) (die : Nat) : State :=
  match leastBy (fun (e : TcEntry) => e.used) (s.kiln.entries.filter fun e => e.die == die && !e.pinned && !e.stale) with
  | some e => { s with kiln := { s.kiln with entries := s.kiln.entries.erase e } }
  | none => s

/-- A new entry enters the entry store of its die (R424, R428). -/
def State.storeEntry (s : State) (e : TcEntry) : State :=
  let s1 := if s.cacheRoom (s.kiln.entries.filter fun q => q.die == e.die).length Config.storeEntries then s else s.evictEntry e.die
  { s1 with kiln := { s1.kiln with entries := s1.kiln.entries ++ [e] } }.drawn

/-- Replace a PE's window. -/
def State.setWin (s : State) (pe : Nat) (l : List WinCfg) : State := { s with pe := { s.pe with windows := s.pe.windows.put pe l } }

/-- A configuration leaves a window: its interval ends (R454). -/
def State.dropWin (s : State) (pe : Nat) (w : WinCfg) : State :=
  let s1 := s.endInterval pe w
  s1.setWin pe ((s1.winOf pe).filter fun v => v.num != w.num)

/-- A configuration is loaded into a window, the least recently used making room (R424, R428). -/
def State.loadWindow (s : State) (pe ctx : Nat) (cfg : Cfg) (tag1 : Nat) : State :=
  let s1 := if s.cacheRoom (s.winOf pe).length Config.windowConfigs then s
    else match leastBy (fun (w : WinCfg) => w.used) (s.winOf pe) with
      | some w => s.dropWin pe w
      | none => s
  let w : WinCfg := { num := cfg.num, addr := cfg.addr, ctx := ctx, tag1 := wordOf tag1, beginCycle := s.sched.cycle, used := s.sched.cycle, fired := 0
                      waitOp := 0, blocked := 0, cfgLoad := saturate (s.loadCount pe cfg.num) }
  ((s1.setWin pe (s1.winOf pe ++ [w])).setLoadCount pe cfg.num 0).drawn

/-- Entries change; the tag of a configuration in a window is that of its entry (R425). -/
def State.mapEntries (s : State) (p : TcEntry → Bool) (g : TcEntry → TcEntry) : State :=
  let es := mapIf p g s.kiln.entries
  let tag := fun (pe : Nat) (w : WinCfg) => match es.find? fun e => e.die == dieOfPe pe && e.cfg.num == w.num with
    | some e => { w with tag1 := wordOf e.tag1 }
    | none => w
  { s with kiln := { s.kiln with entries := es }
           pe := { s.pe with windows := s.pe.windows.map fun q => (q.1, q.2.map (tag q.1)) } }

/-- An entry is used: it and its configuration in a window are the most recent. -/
def State.touchEntry (s : State) (e : TcEntry) : State :=
  let now := s.sched.cycle
  { s with kiln := { s.kiln with entries := mapIf (fun (q : TcEntry) => q.cfg.num == e.cfg.num && q.die == e.die) (fun q => { q with used := now }) s.kiln.entries } }

/-- An activation that began uses a configuration (R439). -/
def State.begun (s : State) (die num : Nat) : Bool := s.pe.frames.any fun p => p.2.isOpen && dieOfPe (p.1 / 256) == die && p.2.cfg.num == num

/-- Stale entries that no activation uses any more are freed (R439). -/
def State.sweepStale (s : State) : State :=
  { s with kiln := { s.kiln with entries := s.kiln.entries.filter fun e => !e.stale || s.begun e.die e.cfg.num } }

/-! ### Faults of a translation (R66, R427, R441) -/

/-- The record of a fault found in a block: at its header, or at an instruction (R66, R397). -/
def State.blockRecord (s : State) (a : Activation) (code : Code) (idx : Option Nat) (detail : Word) : FaultRec :=
  let node := match idx, s.objectOf a.ctx a.addr with | some k, some (_, o) => o.nodeOf a.addr k | _, _ => 0xFFFFFFFF
  let src : Src := { Src.none with ctx := a.ctx, pe := a.pe, task := a.task, block := a.addr, idx := idx.getD 0xFF, node := node, iter := a.iter }
  { s.record src { code := code, detail := detail } with header := idx.isNone, frameValid := false, afterCommit := false, kept := false }

/-- Change the queued activations that meet a condition. -/
def State.mapQueue (s : State) (p : Activation → Bool) (g : Activation → Activation) : State :=
  { s with pe := { s.pe with queue := mapIf p g s.pe.queue } }

/-- A fault against a queued activation, which never starts: raised, or held while its context is halted (R66, R441). -/
def State.faultAct (s : State) (a : Activation) (r : FaultRec) : State :=
  let me := fun (b : Activation) => b == a
  if s.issuing a.ctx then (s.mapQueue me fun b => { b with faulted := true, requested := false }).raise r
  else s.mapQueue me fun b => { b with requested := false, pendingFault := some r }

/-- A queued activation waits for a translation. -/
def Activation.awaits (a : Activation) (die c addr : Nat) : Bool :=
  a.requested && a.cfg.isNone && a.ctx == c && a.addr == addr && dieOfPe a.pe == die

/-- The type of a block suits an activation: a loop body for an iteration, code or actor for any other (R39, R92). -/
def suits (a : Activation) (ty : BlockTy) : Bool := if a.iter.isSome then ty == .loop else ty == .code || ty == .actor

/-- A translation failed: the fault is raised against every activation that waits for it; one that the block's type does not suit meets
NONCODE_BLOCK and no other fault of the block (R66). -/
def State.failTranslation (s : State) (r : KReq) (ty : Option BlockTy) (code : Code) (idx : Option Nat) (detail : Word) : State :=
  (s.pe.queue.filter fun a => a.awaits r.die r.ctx r.addr).foldl (fun s a =>
    s.faultAct a (if ty.any fun t => !suits a t then s.blockRecord a .noncodeBlock none 0 else s.blockRecord a code idx detail)) s

/-! ### CONFIG_LOAD (R426 to R428, R442) -/

/-- An open frame of a PE whose configuration was evicted from the window. -/
def State.unloaded (s : State) (pe addr : Nat) : Option (Nat × Frame) :=
  s.pe.frames.find? fun p => p.1 / 256 == pe && p.2.isOpen && p.2.cfg.addr == addr && s.issuing p.2.ctx && !s.inWindow pe p.2.cfg.num

/-- The oldest queued activation of a block on a PE that has no configuration yet and may ask for one. -/
def State.wanting (s : State) (pe addr : Nat) : Option Activation :=
  s.pe.queue.find? fun a => a.pe == pe && a.addr == addr && a.cfg.isNone && !a.requested && !a.faulted && s.issuing a.ctx

/-- A tag's doubleword 1 as a request names it (R442). -/
def Obj.tag1 (o : Obj) (die num asid : Nat) : Nat := o.rev * 2 ^ 25 + bit (Config.dieRevision die) * 2 ^ 28 + num * 2 ^ 36 + asid * 2 ^ 48

/-- A request that an activation needs, not a background one (R426). -/
def KFor.demands : KFor → Bool
  | .demand _ _ | .reload _ _ _ => true
  | .background _ => false

/-- A demand request for a block is with the die's Kiln or with the host. -/
def State.asked (s : State) (die c addr : Nat) : Bool := s.kiln.reqs.any fun r => r.die == die && r.ctx == c && r.addr == addr && r.whom.demands

/-- A demand request is posted, to the Kiln or to the host (R426, R442); one for a block already asked for joins it. -/
def State.ask (s : State) (die c addr obj : Nat) (o : Obj) (whom : KFor) : State :=
  match s.ctx? c with
  | none => s
  | some x =>
    if s.asked die c addr then s
    else
      let host := bitAt x.regs.fmode 0
      let r : KReq := { die := die, ctx := c, obj := obj, addr := addr, whom := whom, pin := false, entry := none, read := []
                        host := if host then some s.sched.serial else none, native := none, stale := false }
      let s1 := if host then s.hostPost die 6 c (wordOf addr) (wordOf (o.tag1 die obj x.asid)) Src.none [] [] else s
      { s1 with kiln := { s1.kiln with reqs := s1.kiln.reqs ++ [r] } }

/-- A queued activation asks for the translation of its block. -/
def State.demand (s : State) (a : Activation) (obj : Nat) (o : Obj) : State :=
  (s.mapQueue (fun b => b == a) fun b => { b with requested := true }).ask (dieOfPe a.pe) a.ctx a.addr obj o (.demand a.pe a.task)

/-- An Open frame's configuration is loaded again, from the entry store alone (R424, R428): where its entry was evicted the block is translated
again, and its activation goes on with what it began with, since an eviction never changes a result (DEDUCED, assumption log 92). -/
def State.reloadFrame (s : State) (pe addr : Nat) : Option State :=
  match s.unloaded pe addr with
  | none => none
  | some (k, f) =>
    let die := dieOfPe pe
    match (s.kiln.entries.find? fun e => e.die == die && e.cfg.num == f.cfg.num) <|> s.entryOf die f.ctx addr with
    | some e =>
      let s1 := (s.touchEntry e).setFrame k { f with cfg := { f.cfg with num := e.cfg.num } }
      some (if s1.inWindow pe e.cfg.num then s1 else s1.loadWindow pe f.ctx e.cfg e.tag1)
    | none =>
      match s.kiln.objects.get? f.cfg.obj with
      | some o =>
        if s.asked die f.ctx addr || (s.ctx? f.ctx).any (fun x => x.haltReq.isSome) then none
        else some (s.ask die f.ctx addr f.cfg.obj o (.reload pe (k % 256) f.uid))
      | none => none

/-- CONFIG_LOAD: a configuration finishes loading into a PE's window, for an open frame or for a queued activation; an activation whose
block has no entry asks for its translation, and one whose address is no block of its context's meets NONCODE_BLOCK (R66, R424 to R431). -/
def configLoadEvent (pe addr : Nat) (s : State) : Option State :=
  match s.reloadFrame pe addr with
  | some s1 => some s1
  | none =>
    match s.wanting pe addr with
    | none => none
    | some a =>
      match s.objectOf a.ctx addr with
      | none => some (s.faultAct a (s.blockRecord a .noncodeBlock none 0))
      | some (n, o) =>
        match s.entryOf (dieOfPe pe) a.ctx addr with
        | none => some (s.demand a n o)
        | some e =>
          if !suits a e.cfg.ty then some (s.faultAct a (s.blockRecord a .noncodeBlock none 0))
          else
            let s1 := (s.touchEntry e).mapQueue (fun b => b == a) fun b => { b with cfg := some e.cfg }
            some (if s1.inWindow pe e.cfg.num then s1 else s1.loadWindow pe a.ctx e.cfg e.tag1)

/-! ### KILN_TRANSLATE (R426, R427, R432) -/

/-- An image is usable on a die (R432); no feature is ever enabled on this part (R65). -/
def Obj.usable (o : Obj) (die k : Nat) (m : Image) : Bool :=
  m.rev == bit (Config.dieRevision die) && m.digest == o.digest && m.features == 0 && !m.disabled && Config.nativeWellFormed o.digest k die

/-- The image a die uses of an object, chosen at its first translation there (R432). -/
def State.chooseImage (s : State) (die n : Nat) (o : Obj) : State × Option Nat :=
  match s.kiln.choice.get? (die * 4096 + n) with
  | some c => (s, c)
  | none =>
    let c := ((o.images.zipIdx).find? fun p => o.usable die p.2 p.1).map Prod.snd
    ({ s with kiln := { s.kiln with choice := s.kiln.choice.put (die * 4096 + n) c } }, c)

/-- The place of a request in the order of service (R426). -/
def State.kilnRank (s : State) (r : KReq) : Nat :=
  match r.whom with
  | .demand _ _ | .reload _ _ _ => if s.isUrgent r.ctx then 0 else 1
  | .background _ => 2

/-- The request a die's Kiln serves next (R426): those that wait for the host or for a page stand aside. -/
def State.nextTranslation (s : State) (d : Nat) : Option KReq :=
  leastBy s.kilnRank (s.kiln.reqs.filter fun r => r.die == d && r.host.isNone && r.entry.isNone)

/-- A request is done. -/
def State.dropReq (s : State) (r : KReq) : State := { s with kiln := { s.kiln with reqs := s.kiln.reqs.erase r } }

/-- Change a request. -/
def State.setReq (s : State) (r q : KReq) : State := { s with kiln := { s.kiln with reqs := mapIf (fun p => p == r) (fun _ => q) s.kiln.reqs } }

/-- The activations that waited for a block load it now. -/
def State.answerReq (s : State) (r : KReq) : State := s.mapQueue (fun a => a.awaits r.die r.ctx r.addr) fun a => { a with requested := false }

/-- A job replies once nothing of it is left (R448, R449). -/
def State.jobDone (s : State) (n : Nat) (j : KJob) (die : Nat) : State :=
  if j.left ≠ 0 then { s with kiln := { s.kiln with jobs := s.kiln.jobs.put n j } }
  else
    let s1 : State := { s with kiln := { s.kiln with jobs := s.kiln.jobs.del n } }
    let status : Nat := if j.failed then 2 else if j.unpinned then 0 else 1
    (s1.reply (.die die) 1 j.dests (scalarTok (wordOf j.count)) j.src).reply (.die die) 1 j.sdests (scalarTok (wordOf status)) j.src

/-- What a background request came to (R449). -/
inductive BackRes where
  | done | left | failed
  deriving DecidableEq, Repr

/-- A background request completes, fails or is dropped. -/
def State.countJob (s : State) (whom : KFor) (die : Nat) (r : BackRes) : State :=
  match whom with
  | .demand _ _ | .reload _ _ _ => s
  | .background n =>
    match s.kiln.jobs.get? n with
    | none => s
    | some j => s.jobDone n { j with left := j.left - 1, count := j.count + (if r = .done then 1 else 0), unpinned := j.unpinned || r == .left
                                     failed := j.failed || r == .failed } die

/-- A block whose pin would pass 4 MiB of the entry store is left unpinned (R449): 128 entries always fit, beyond that it depends on their
sizes. -/
def State.pinRoom (s : State) (die : Nat) : Bool :=
  let n := (s.kiln.entries.filter fun e => e.die == die && e.pinned).length
  decide (n < 2 ^ 22 / Config.entryBytes) || s.freeChoice 2 == 0

/-- The entry of a request's block is there: pinned where asked, and the request completes. -/
def State.settleReq (s : State) (r : KReq) (e : TcEntry) : State :=
  let s1 := (s.dropReq r).answerReq r
  if !r.pin || e.pinned then s1.countJob r.whom r.die .done
  else if s1.pinRoom r.die then
    let s2 := s1.mapEntries (fun q => q.cfg.num == e.cfg.num && q.die == e.die) fun q => { q with pinned := true }
    (s2.countJob r.whom r.die .done).drawn
  else (s1.countJob r.whom r.die .left).drawn

/-- A translation for an Open frame failed: its activation has the fault. -/
def State.failReload (s : State) (pe frame uid : Nat) (code : Code) (idx : Option Nat) (detail : Word) : State :=
  match s.frameOf pe frame uid with
  | none => s
  | some f => s.raise { s.record (srcOf (frameKey pe frame) f (idx.getD 0xFF)) { code := code, detail := detail } with header := idx.isNone }

/-- A translation fails: nothing is cached (R66). A background request raises nothing (R449). `ty` is the block's type where it was read whole. -/
def State.failReq (s : State) (r : KReq) (ty : Option BlockTy) (code : Code) (idx : Option Nat) (detail : Word) : State :=
  let s1 := s.dropReq r
  match r.whom with
  | .demand _ _ => s1.failTranslation r ty code idx detail
  | .reload pe frame uid => (s1.failTranslation r ty code idx detail).failReload pe frame uid code idx detail
  | .background _ => s1.countJob r.whom r.die .failed

/-- The source that a translation's fault-queue entry names (R427). -/
def KReq.src (r : KReq) : Src :=
  let p := match r.whom with | .demand pe t => (pe, t) | .reload pe _ _ => (pe, 0) | .background _ => (256 * r.die, 0)
  { Src.none with ctx := r.ctx, pe := p.1, task := p.2, frame := 0xFF, block := r.addr, idx := 0xFF }

/-- A word of the block cannot be had (R427): its page is not mapped, is not code, or its granule is poisoned. What was read before is kept, and the
translation goes on from there. -/
def State.missingWord (s : State) (r : KReq) (va : Nat) : Option State :=
  match s.check1 r.ctx [] .code va with
  | .page level =>
    (match s.pageEntry r.src 0 va level with
    | .none => some (s.failReq r none .page none (wordOf va))
    | .full => none
    | .entry s1 n => some (s1.setReq r { r with entry := some n, read := r.read ++ s.fetchRest r.ctx r.addr (va - r.addr) r.read.length }))
  | .ok key _ _ => some (s.failReq r none .uncorrectable none (wordOf (key / 64 * 64)))
  | _ => some (s.failReq r none .protection none (wordOf va))

/-- An image found ill formed for a block is discarded as a whole on the die, which translates the virtual code from then on (R433). -/
def State.tryImage (s : State) (r : KReq) (o : Obj) : State × Option Nat :=
  let ch := s.chooseImage r.die r.obj o
  match ch.2 with
  | none => ch
  | some k =>
    if r.native.isNone && Config.imageIll o.digest k r.die r.addr then
      ({ ch.1 with kiln := { ch.1.kiln with choice := ch.1.kiln.choice.put (r.die * 4096 + r.obj) none } }, none)
    else ch

/-- A translated block enters the entry store (R424, R432, R433). -/
def State.cacheBlock (s : State) (r : KReq) (o : Obj) (c : Cfg) : State :=
  let ch := s.tryImage r o
  let x := s.ctx? r.ctx
  let e : TcEntry := { die := r.die, cfg := { c with num := s.sched.serial }, ctx := r.ctx, asid := match x with | some y => y.asid | none => 0
                       native := r.native.isSome || ch.2.isSome, pinned := false, rev := o.rev, stale := false, used := s.sched.cycle }
  (ch.1.bump.storeEntry e).settleReq r e

/-- KILN_TRANSLATE: a die's Kiln completes its next request (R426, R427). -/
def translateEvent (d : Nat) (s : State) : Option State :=
  match s.nextTranslation d with
  | none => none
  | some r =>
    match s.entryOf d r.ctx r.addr with
    | some e => some (s.settleReq r e)
    | none =>
      match s.kiln.objects.get? r.obj with
      | none => some (s.failReq r none .noncodeBlock none 0)
      | some o =>
        match s.parseAt r.ctx r.obj o r.addr r.read with
        | .ok c => some (s.cacheBlock r o c)
        | .fault b => some (s.failReq r ((s.codeBytes r.ctx r.addr 4).bind fun l => h0Type (leNat l)) b.code b.idx 0)
        | .missing off => s.missingWord r (r.addr + off)

/-- A fault-queue entry that a translation waits on is answered (R427): it reads again, or PAGE is raised. -/
def State.kilnRetry (s : State) (n : Nat) (fail : Option Word) : State :=
  (s.kiln.reqs.filter fun r => r.entry == some n).foldl (fun s r => match fail with
    | none => s.setReq r { r with entry := none }
    | some va => s.failReq r none .page none va) s

/-- The host's answer to a translation request (R442): a configuration wholly in pages of the context's partition, in HBM of the die, that
the Kiln finds well formed is installed as native; else the Kiln translates the block itself. What an invalidation discarded is asked for again
(R439). -/
def State.hostConfig (s : State) (k : Nat) (granted : Bool) (pa : Word) : State :=
  -- the last byte of the configuration: an entry takes at most `entryBytes` (R424), so it lies on two pages at most
  let last := pa.toNat + Config.nativeBytes pa k % Config.entryBytes
  let good := fun (r : KReq) => granted && pa.toNat / 2 ^ 37 == r.die && last / 2 ^ 37 == r.die &&
    (match s.ctx? r.ctx with | some x => s.ownerOf pa.toNat == x.part && s.ownerOf last == x.part | none => false) &&
    Config.nativeWellFormed pa k r.die
  let taken := mapIf (fun (r : KReq) => r.host == some k && !r.stale) (fun r => { r with host := none, native := if good r then some k else none }) s.kiln.reqs
  let s1 : State := { s with kiln := { s.kiln with reqs := taken } }
  (s.kiln.reqs.filter fun r => r.host == some k && r.stale).foldl (fun s r => (s.dropReq r).answerReq r) s1

/-! ### Invalidation (R439, R440, R448) -/

/-- INVALIDATION_EFFECT at a die (R439): the die chooses anew among the native images of each object named (R432). -/
def State.invalidate (s : State) (die c : Nat) (addrs : List Nat) : State :=
  let hit := fun (e : TcEntry) => e.die == die && e.ctx == c && addrs.contains e.cfg.addr
  let copy := fun (w : WinCfg) => w.ctx == c && addrs.contains w.addr
  let objs := (s.kiln.objects.filter fun p => p.2.ctx == c && addrs.any fun a => decide (p.2.codeVa ≤ a ∧ a < p.2.codeVa + p.2.codeSize)).map Prod.fst
  let mine := fun (r : KReq) => r.die == die && r.ctx == c && addrs.contains r.addr
  let s0 := s.mapEntries hit fun e => { e with stale := true, pinned := false }
  let s1 : State := { s0 with kiln := { s0.kiln with reqs := mapIf mine (fun r => { r with native := none, read := [], stale := r.host.isSome }) s0.kiln.reqs
                                                     choice := s0.kiln.choice.filter fun p => !(p.1 / 4096 == die && objs.contains (p.1 % 4096)) } }
  let s2 := s1.mapQueue (fun a => dieOfPe a.pe == die && a.ctx == c && addrs.contains a.addr) fun a => { a with cfg := none }
  let s3 := s2.pe.windows.foldl (fun s p =>
    if dieOfPe p.1 = die then (p.2.filter fun w => copy w && !s.begun die w.num).foldl (fun s w => s.dropWin p.1 w) s else s) s2
  -- the copies that begun activations still use are stale, their entries evicted or not (R425)
  let stale := fun (w : WinCfg) => if copy w then { w with tag1 := (w.tag1 ||| wordOf (2 ^ 24)) &&& ~~~ wordOf (2 ^ 26) } else w
  let s4 : State := { s3 with pe := { s3.pe with windows := s3.pe.windows.map fun q => (q.1, if dieOfPe q.1 = die then q.2.map stale else q.2) } }
  s4.sweepStale

/-- INVALIDATION_EFFECT: the die's Kiln has done its part, and the TCINV replies when every die has (R448). -/
def invalEvent (n : Nat) (s : State) : Option State :=
  match s.msg? n with
  | some e => if !s.first n e then none else match e.body with
    | .inval die addrs c job =>
      let s1 := (s.taken n).invalidate die c addrs
      match s1.kiln.jobs.get? job with
      | some j =>
        if j.left ≤ 1 then
          let s2 : State := { s1 with kiln := { s1.kiln with jobs := s1.kiln.jobs.del job } }
          some (s2.reply (.die die) 1 (j.dests ++ j.sdests) zeroTok j.src)
        else some { s1 with kiln := { s1.kiln with jobs := s1.kiln.jobs.put job { j with left := j.left - 1 } } }
      | none => some s1
    | _ => none
  | none => none

/-! ### TCINV, TCPIN, TCPRE (R446 to R449) -/

/-- What a control word names: its dies, and each object with its blocks (R447). -/
def Firing.tcNames (f : Firing) (s : State) (pre : Bool) : Except Stop (List Nat × List (Nat × Nat)) := do
  let a ← wantScalar f.a
  let b ← wantScalar f.b
  let w := b.toNat
  let range := bitsAt w 5 2
  let scope := bitsAt w 0 3
  if w / 2 ^ 8 ≠ 0 ∨ bitsAt w 3 2 ≠ 0 ∨ range = 3 ∨ (scope ≠ 2 ∧ scope ≠ 3) ∨ (pre ∧ bitAt w 7) then failWith .operand
  else
    let dies := if scope = 2 then [f.die] else f.x.dies
    let mine := s.kiln.objects.filter fun p => p.2.ctx == f.fr.ctx && p.2.committed
    let blocks := fun (p : Nat × Obj) => p.2.blocks.map fun o => (p.1, p.2.codeVa + o)
    if range = 2 then .ok (dies, mine.flatMap blocks)
    else match mine.find? fun p => decide (p.2.codeVa ≤ a.toNat ∧ a.toNat < p.2.codeVa + p.2.codeSize) with
      | none => failWith .operand
      | some p =>
        if range = 1 then .ok (dies, blocks p)
        else if p.2.blocks.contains (a.toNat - p.2.codeVa) then .ok (dies, [(p.1, a.toNat)])
        else failWith .operand

/-- TCINV (R448): it performs as it fires. -/
def tcinvBody : Body := fun f s => do
  let (dies, names) ← f.tcNames s false
  f.awaitBefore s
  let objs := names.map Prod.fst
  let off := fun (p : Nat × Obj) => if objs.contains p.1 then (p.1, { p.2 with images := p.2.images.map fun m => { m with disabled := true } }) else p
  let s0 : State := if bitAt f.b.val.toNat 7 then
      { s with kiln := { s.kiln with objects := s.kiln.objects.map off, choice := s.kiln.choice.filter fun p => !objs.contains (p.1 % 4096) } } else s
  let s1 := s0.expect f.key f.fan
  let job := s1.sched.serial
  let j : KJob := { src := f.src, dests := destsOf f.src [f.h.t0], sdests := destsOf f.src [f.h.t1], left := dies.length, count := 0, unpinned := false, failed := false }
  let s2 := State.bump { s1 with kiln := { s1.kiln with jobs := s1.kiln.jobs.put job j } }
  .ok { st := dies.foldl (fun s d => s.post (.pe f.pe) (.die d) 7 (.inval d (names.map Prod.snd) f.fr.ctx job)) s2 }

/-- Background requests of a die (R426). -/
def State.background (s : State) (die : Nat) : Nat :=
  (s.kiln.reqs.filter fun r => r.die == die && !r.whom.demands).length

/-- One background request of a job: TCPRE's is dropped at a full queue, TCPIN's waits for room (R449). -/
def State.postBackground (s : State) (c die obj addr job : Nat) (pin : Bool) : State :=
  if !pin && decide (Config.backgroundRequests ≤ s.background die) then s.countJob (.background job) die .left
  else
    let r : KReq := { die := die, ctx := c, obj := obj, addr := addr, whom := .background job, pin := pin, entry := none, read := [], host := none, native := none, stale := false }
    { s with kiln := { s.kiln with reqs := s.kiln.reqs ++ [r] } }

/-- The entries that unpinning clears (R449). -/
def unpins (dies : List Nat) (c : Nat) (addrs : List Nat) (e : TcEntry) : Bool :=
  dies.contains e.die && e.ctx == c && !e.stale && addrs.contains e.cfg.addr && e.pinned

/-- TCPIN and TCPRE (R449); their replies carry no tag (DEDUCED, assumption log 112). -/
def tcpinBody (pin : Bool) : Body := fun f s => do
  let (dies, names) ← f.tcNames s (!pin)
  if pin && bitAt f.b.val.toNat 7 then
    let hit := unpins dies f.fr.ctx (names.map Prod.snd)
    let n := (s.kiln.entries.filter hit).length
    .ok { st := f.replyTwo (s.mapEntries hit fun e => { e with pinned := false }) (.die f.die) (scalarTok (wordOf n)) (scalarTok 1) }
  else
    let s1 := s.expect f.key f.fan
    let job := s1.sched.serial
    let all := dies.flatMap fun d => names.map fun p => (d, p)
    let j : KJob := { src := f.src, dests := destsOf f.src [f.h.t0], sdests := destsOf f.src [f.h.t1], left := all.length, count := 0, unpinned := false, failed := false }
    let s2 := State.bump { s1 with kiln := { s1.kiln with jobs := s1.kiln.jobs.put job j } }
    if all.isEmpty then .ok { st := s2.jobDone job j f.die }
    else .ok { st := all.foldl (fun s p => s.postBackground f.fr.ctx p.1 p.2.1 p.2.2 job pin) s2 }

/-- TCINV (R448). -/
def execTcinv (h : Hdr) (s : State) : Host.Outcome State Fault Refusal := fire (.tcinv h) tcinvBody s
/-- TCPIN (R449). -/
def execTcpin (h : Hdr) (s : State) : Host.Outcome State Fault Refusal := fire (.tcpin h) (tcpinBody true) s
/-- TCPRE (R449). -/
def execTcpre (h : Hdr) (s : State) : Host.Outcome State Fault Refusal := fire (.tcpre h) (tcpinBody false) s
/-- KILN_TRANSLATE (R427). -/
def execKilnTranslate (d : Nat) (s : State) : Host.Outcome State Fault Refusal := event "KILN_TRANSLATE" (translateEvent d s)
/-- CONFIG_LOAD (R428). -/
def execConfigLoad (pe : Nat) (addr : Nat) (s : State) : Host.Outcome State Fault Refusal := event "CONFIG_LOAD" (configLoadEvent pe addr s)
/-- INVALIDATION_EFFECT (R439). -/
def execInvalidationEffect (n : Nat) (s : State) : Host.Outcome State Fault Refusal := event "INVALIDATION_EFFECT" (invalEvent n s)

end Sys2Proof.Machine
end

