-- ==== Sys2Proof/Machine/Sign.lean ====
section
/-! DEFINITION. SHA-384 and ECDSA on the 384-bit Brainpool curve of RFC 5639, by which an object's signature is verified (R36, R430).
The part names the curve and the hash by their standards; the constants here are those standards' (PRESUMED, assumption log 28). -/

namespace Sys2Proof.Machine

/-! ### SHA-384 -/

/-- The greatest number of at most b bits beyond r whose e-th power is at most n. -/
def rootFrom (e n : Nat) : Nat → Nat → Nat
  | 0, r => r
  | b + 1, r => rootFrom e n b (if (r + 2 ^ b) ^ e ≤ n then r + 2 ^ b else r)

/-- The first 64 bits of the fraction of the e-th root of a number below 2^9. -/
def rootFraction (e n : Nat) : Word := wordOf (rootFrom e (n * 2 ^ (64 * e)) 69 0)

/-- The first 80 primes: those below 410. -/
def smallPrimes : List Nat := (List.range 410).filter fun n => decide (2 ≤ n) && (List.range 21).all fun d => decide (d < 2) || decide (n ≤ d) || n % d != 0

/-- The round constants of the hash, by their definition: from the cube roots of the first 80 primes. -/
def shaK : List Word := smallPrimes.map (rootFraction 3)

/-- The initial state of SHA-384, by its definition: from the square roots of the ninth to the sixteenth prime. -/
def shaInit : List Word := ((smallPrimes.drop 8).take 8).map (rootFraction 2)

/-- The message padded to whole blocks. -/
def shaPad (l : List Byte) : List Byte :=
  let z := (128 - (l.length + 17) % 128) % 128
  l ++ [0x80] ++ List.replicate z 0 ++ beBytes 16 (8 * l.length)

/-- The words of a block. -/
def shaWords (b : List Byte) : List Word := (List.range 16).map fun i => wordOf (beNat ((b.drop (8 * i)).take 8))

/-- The exclusive or of several rotations of a word. -/
def rotations (w : Word) (l : List Nat) : Word := l.foldl (fun r n => r ^^^ w.rotateRight n) 0

/-- The next word of the schedule: the newest sixteen are kept, newest first. -/
def shaNext (w : List Word) : Word :=
  let a := nthD w 1 0
  let b := nthD w 14 0
  (rotations a [19, 61] ^^^ (a >>> 6)) + nthD w 6 0 + (rotations b [1, 8] ^^^ (b >>> 7)) + nthD w 15 0

/-- The schedule from its first sixteen words, newest first. -/
def shaExpand : Nat → List Word → List Word
  | 0, w => w
  | n + 1, w => shaExpand n (shaNext w :: w)

/-- One round. -/
def shaRound (st : List Word) (k w : Word) : List Word :=
  match st with
  | [a, b, c, d, e, f, g, h] =>
    let added := rotations e [14, 18, 41] + ((e &&& f) ||| (g &&& ~~~e)) + h + k + w
    [rotations a [28, 34, 39] + ((a &&& (b ||| c)) ||| (b &&& c)) + added, a, b, c, d + added, e, f, g]
  | l => l

/-- One block. -/
def shaBlock (st : List Word) (b : List Byte) : List Word :=
  let ws := (shaExpand 64 (shaWords b).reverse).reverse
  let out := (shaK.zip ws).foldl (fun s p => shaRound s p.1 p.2) st
  (st.zip out).map fun p => p.1 + p.2

/-- All blocks. -/
def shaBlocks : Nat → List Word → List Byte → List Word
  | 0, st, _ => st
  | n + 1, st, l => shaBlocks n (shaBlock st (l.take 128)) (l.drop 128)

/-- The SHA-384 digest: 48 bytes. -/
def sha384 (l : List Byte) : List Byte :=
  let p := shaPad l
  ((shaBlocks (p.length / 128) shaInit p).take 6).flatMap fun w => beBytes 8 w.toNat

/-! ### The curve -/

/-- The field prime. -/
def curveP : Nat := 0x8CB91E82A3386D280F5D6F7E50E641DF152F7109ED5456B412B1DA197FB71123ACD3A729901D1A71874700133107EC53
/-- The coefficient of x. -/
def curveA : Nat := 0x7BC382C63D8C150C3C72080ACE05AFA0C2BEA28E4FB22787139165EFBA91F90F8AA5814A503AD4EB04A8C7DD22CE2826
/-- The constant coefficient. -/
def curveB : Nat := 0x04A8C7DD22CE28268B39B55416F0447C2FB77DE107DCD2A62E880EA53EEB62D57CB4390295DBC9943AB78696FA504C11
/-- The base point. -/
def curveG : Nat × Nat :=
  (0x1D1C64F068CF45FFA2A63A81B7C13F6B8847A3E77EF14FE3DB7FCAFE0CBD10E8E826E03436D646AAEF87B2E247D4AF1E,
   0x8ABE1D7520F9C2A45CB1EB8E95CFD55262B70B29FEEC5864E19C054FF99129280E4646217791811142820341263C5315)
/-- The order of the base point. -/
def curveQ : Nat := 0x8CB91E82A3386D280F5D6F7E50E641DF152F7109ED5456B31F166E6CAC0425A7CF3AB6AF6B7FC3103B883202E9046565

/-- A power modulo m, by the low bits of the exponent. -/
def powMod (m : Nat) : Nat → Nat → Nat → Nat → Nat
  | 0, _, _, r => r
  | n + 1, b, e, r => powMod m n (b * b % m) (e / 2) (if e % 2 = 1 then r * b % m else r)

/-- The inverse modulo a prime. -/
def invMod (m v : Nat) : Nat := powMod m 384 (v % m) (m - 2) 1

/-- Difference modulo m. -/
def subMod (m a b : Nat) : Nat := (a + (m - b % m)) % m

/-- A point that is not the neutral element, as (X, Y, Z): its coordinates are X / Z² and Y / Z³. -/
abbrev Point := Nat × Nat × Nat

/-- Twice a point; none is the neutral element. -/
def curveDouble : Point → Option Point
  | (x, y, z) =>
    if y = 0 then none
    else
      let y2 := y * y % curveP
      let z2 := z * z % curveP
      let s := 4 * x * y2 % curveP
      let m := (3 * x * x + curveA * (z2 * z2)) % curveP
      let x3 := subMod curveP (m * m) (2 * s)
      some (x3, subMod curveP (m * subMod curveP s x3) (8 * y2 * y2), 2 * y * z % curveP)

/-- The sum of two points; none is the neutral element. -/
def curveAdd : Option Point → Option Point → Option Point
  | none, q => q
  | p, none => p
  | some (x1, y1, z1), some (x2, y2, z2) =>
    let za := z1 * z1 % curveP
    let zb := z2 * z2 % curveP
    let u1 := x1 * zb % curveP
    let u2 := x2 * za % curveP
    let s1 := y1 * zb * z2 % curveP
    let s2 := y2 * za * z1 % curveP
    if u1 = u2 then (if s1 = s2 then curveDouble (x1, y1, z1) else none)
    else
      let h := subMod curveP u2 u1
      let r := subMod curveP s2 s1
      let h2 := h * h % curveP
      let v := u1 * h2 % curveP
      let x3 := subMod curveP (r * r) (h * h2 + 2 * v)
      some (x3, subMod curveP (r * subMod curveP v x3) (s1 * (h * h2)), h * z1 * z2 % curveP)

/-- A multiple of a point, by the low bits of the factor. -/
def curveMul : Nat → Nat → Option Point → Option Point → Option Point
  | 0, _, _, r => r
  | n + 1, k, p, r => curveMul n (k / 2) (curveAdd p p) (if k % 2 = 1 then curveAdd r p else r)

/-- A point of the curve. -/
def onCurve (x y : Nat) : Bool :=
  decide (x < curveP) && decide (y < curveP) && y * y % curveP == (x * x * x + curveA * x + curveB) % curveP

/-- An ECDSA signature verifies with a public point over a digest. -/
def ecdsaGood (x y r s : Nat) (digest : List Byte) : Bool :=
  if !onCurve x y || r == 0 || s == 0 || decide (curveQ ≤ r) || decide (curveQ ≤ s) then false
  else
    let w := invMod curveQ s
    let u := beNat digest * w % curveQ
    let v := r * w % curveQ
    match curveAdd (curveMul 384 u (some (curveG.1, curveG.2, 1)) none) (curveMul 384 v (some (x, y, 1)) none) with
    | none => false
    | some (px, _, pz) => px * invMod curveP (pz * pz) % curveP % curveQ == r

end Sys2Proof.Machine
end

