-- ==== Sys2Proof/Machine/Load.lean ====
section
/-! DEFINITION. Code objects and their loading: the container (R29 to R38, R451), its signature (R36, R430), actor graphs (R434 to R438)
and OBJLOAD (R429 to R431, R450). -/

namespace Sys2Proof.Machine

/-! ### The container (R29 to R37) -/

/-- A section of an object (R31). -/
structure Sect where
  ty : Nat
  off : Nat
  size : Nat
  reserved : Bool
  deriving DecidableEq, Repr

/-- The entries of a section table (R31). -/
def sectsOf (l : List Byte) (n : Nat) : List Sect :=
  (List.range n).map fun i =>
    { ty := fieldAt l (64 + 16 * i + 12) 2, off := fieldAt l (64 + 16 * i) 8, size := fieldAt l (64 + 16 * i + 8) 4
      reserved := fieldAt l (64 + 16 * i + 14) 2 != 0 }

/-- The first section of a type. -/
def sectOf (ss : List Sect) (ty : Nat) : Option Sect := ss.find? fun x => x.ty == ty

/-- Bytes of a section. -/
def Sect.bytes (x : Sect) (l : List Byte) : List Byte := (l.drop x.off).take x.size

/-- A range of bytes is zero. -/
def zeroSpan (l : List Byte) (off n : Nat) : Bool := ((l.drop off).take n).all (· == 0)

/-- The header's fields that are checked before any page beyond it is examined (R429): Magic, Version, Level, Revision, Sections and
Length. -/
def headGood (h : List Byte) (va : Nat) : Bool :=
  let n := fieldAt h 12 4
  let len := fieldAt h 16 8
  fieldAt h 0 4 == 0x5A574F42 && fieldAt h 4 2 == 1 && fieldAt h 6 1 == 1 && decide (fieldAt h 7 1 ≤ 1) && decide (2 ≤ n) && decide (n ≤ 64) &&
    len % 64 == 0 && canonicalSpan va len

/-- The header's other fields (R30): Features, Name and the reserved bytes. -/
def nameGood (h : List Byte) : Bool :=
  let name := (h.drop 24).take 32
  let used := name.takeWhile (· != 0)
  decide (fieldAt h 8 4 < 2 ^ 7) && !used.isEmpty && used.all (fun b => decide (b.toNat < 128)) && (name.drop used.length).all (· == 0) &&
    fieldAt h 60 4 == 0

/-- Sections of a type. -/
def countSects (ss : List Sect) (ty : Nat) : Nat := (ss.filter fun x => x.ty == ty).length

/-- The sections lie in the object in order, without overlap, with zeros between them (R29). -/
def sectsFit (l : List Byte) : Nat → List Sect → Bool
  | _, [] => true
  | at_, x :: t => x.off % 64 == 0 && decide (at_ ≤ x.off) && decide (x.off + x.size ≤ l.length) && zeroSpan l at_ (x.off - at_) &&
      sectsFit l (x.off + x.size) t

/-- The section table (R31 to R33); a native image section too short for its tag fails it (DESIGN CHOICE, assumption log 93). -/
def tableGood (l : List Byte) (ss : List Sect) : Bool :=
  ss.all (fun x => !x.reserved && decide (1 ≤ x.ty) && decide (x.ty ≤ 6)) && countSects ss 1 == 1 && countSects ss 6 == 1 &&
    [2, 3, 4].all (fun t => decide (countSects ss t ≤ 1)) && decide (countSects ss 5 ≤ 16) && (ss.getLast?.map fun x => x.ty) == some 6 &&
    decide (64 + 16 * ss.length ≤ l.length) && sectsFit l (64 + 16 * ss.length) ss &&
    (ss.filter fun x => x.ty == 5).all (fun x => decide (64 ≤ x.size) && zeroSpan l (x.off + 1) 3 && zeroSpan l (x.off + 16) 48 &&
      decide (fieldAt l (x.off + 4) 4 < 2 ^ 7))

/-- The offsets of a block table (R34). -/
def blockOffsets (c : List Byte) : List Nat := (List.range (fieldAt c 0 4)).map fun i => fieldAt c (8 + 8 * i) 4

/-- Offsets strictly increase. -/
def rising : List Nat → Bool
  | a :: b :: t => decide (a < b) && rising (b :: t)
  | _ => true

/-- The block table (R33, R34). -/
def blocksGood (c : List Byte) : Bool :=
  let n := fieldAt c 0 4
  decide (8 ≤ c.length) && decide (1 ≤ n) && decide (n ≤ 1048576) && decide (8 + 8 * n ≤ c.length) && fieldAt c 4 4 == 0 &&
    (List.range n).all (fun i => fieldAt c (12 + 8 * i) 4 == 0) &&
    (blockOffsets c).all (fun o => o % 64 == 0 && decide (8 + 8 * n ≤ o) && decide (o + 8 ≤ c.length)) && rising (blockOffsets c)

/-- The type of a block as its header word gives it (R40): 4, no type, where its magic is not that of a block, so that such a block is no entry block and
no actor's first block, and needs no actor (DESIGN CHOICE, assumption log 93). -/
def blockType (c : List Byte) (o : Nat) : Nat := if fieldAt c (o + 3) 1 = 0x5B then bitsAt (fieldAt c o 4) 22 2 else 4

/-! ### Graph sections (R37) -/

/-- A record of a graph section. -/
structure GRec where
  kind : Nat
  f4 : Nat
  f8 : Nat
  f12 : Nat
  f16 : Nat
  cap : Nat
  reserved : Bool
  deriving DecidableEq, Repr

/-- A record from its 32 bytes; which are reserved depends on its kind. -/
def gRecOf (l : List Byte) : GRec :=
  let kind := fieldAt l 0 1
  let lo := if kind = 1 then 16 else if kind = 2 then 20 else if kind = 3 then 12 else 8
  { kind := kind, f4 := fieldAt l 4 4, f8 := fieldAt l 8 4, f12 := fieldAt l 12 4, f16 := fieldAt l 16 4, cap := fieldAt l 20 8
    reserved := fieldAt l 1 3 != 0 || (if kind = 4 then !zeroSpan l 8 12 || !zeroSpan l 28 4 else !zeroSpan l lo (32 - lo)) }

/-- The records of a graph section. -/
def gRecs (g : List Byte) : List GRec := (List.range (fieldAt g 0 4)).map fun i => gRecOf ((g.drop (8 + 32 * i)).take 32)

/-- The records of a kind. -/
def ofKind (rs : List GRec) (k : Nat) : List GRec := rs.filter fun r => r.kind == k

/-- The port that an edge names, by record index. -/
def portAt (rs : List GRec) (i : Nat) : Option GRec := (rs[i]?).filter fun r => r.kind == 2

/-- The graph section is well formed (R37): of blocks with types, and a data section of a size. -/
def graphGood (rs : List GRec) (types : List Nat) (data : Option Nat) : Bool :=
  let acts := ofKind rs 1
  let ports := ofKind rs 2
  let edges := ofKind rs 3
  let kinds := rs.map fun r => r.kind
  let ends := edges.flatMap fun e => [e.f4, e.f8]
  kinds.all (fun k => decide (1 ≤ k) && decide (k ≤ 4)) && kinds == sortBy id kinds && rs.all (fun r => !r.reserved) &&
    acts.all (fun a => types[a.f4]? == some 2) && (acts.map fun a => a.f4).eraseDups.length == acts.length &&
    (acts.zipIdx).all (fun a => a.1.f12 == (ports.filter fun p => p.f4 == a.2).length) &&
    ports.all (fun p => decide (p.f4 < acts.length) && decide (p.f8 ≤ 63) && decide (p.f12 ≤ 1) && decide (p.f16 ≤ 65535)) &&
    (ports.map fun p => (p.f4, p.f8)).eraseDups.length == ports.length &&
    edges.all (fun e => (portAt rs e.f4).any (fun p => p.f12 == 1) && (portAt rs e.f8).any (fun p => p.f12 == 0)) &&
    ends.length == ports.length && ends.eraseDups.length == ports.length &&
    (ofKind rs 4).all (fun c => c.f4 % 65536 == 0 && c.cap % 64 == 0 && (match data with | some n => decide (c.f4 + c.cap ≤ n) | none => false))

/-- Every actor-type block belongs to an actor (R33, R37). -/
def actorsCover (rs : List GRec) (types : List Nat) : Bool :=
  (types.zipIdx).all fun t => t.1 != 2 || (ofKind rs 1).any fun a => decide (a.f4 ≤ t.2)

/-! ### Node maps (R451) -/

/-- The entries of a node map: block, index and node. -/
def nodesOf (m : List Byte) : List (Nat × Nat × Nat) :=
  (List.range (fieldAt m 0 4)).map fun i =>
    let v := fieldAt m (8 + 8 * i) 8
    (bitsAt v 7 25, bitsAt v 0 7, bitsAt v 32 32)

/-- A node map is well formed (R451). -/
def nodesGood (m c : List Byte) : Bool :=
  let offs := blockOffsets c
  let es := nodesOf m
  decide (8 + 8 * fieldAt m 0 4 ≤ m.length) && fieldAt m 4 4 == 0 && rising (es.map fun e => e.1 * 128 + e.2.1) &&
    es.all fun e => e.2.2 != 0xFFFFFFFF && (match offs[e.1]? with
      | some o => blockType c o != 1 && blockType c o != 4 && decide (e.2.1 ≤ bitsAt (fieldAt c o 4) 15 7)
      | none => false)

/-! ### The whole object (R33, R36, R430) -/

/-- An object read from its bytes. -/
structure Parts where
  code : Sect
  data : Option Sect
  codeBytes : List Byte
  offs : List Nat
  types : List Nat
  recs : List GRec
  nodes : List (Nat × Nat × Nat)
  images : List Image
  sig : Sect
  entry : Nat
  deriving DecidableEq, Repr

/-- The parts of an object's bytes, where it has the sections it must have. -/
def partsOf (l : List Byte) : Option Parts :=
  let ss := sectsOf l (fieldAt l 12 4)
  match sectOf ss 1, sectOf ss 6 with
  | some code, some sig =>
    let c := code.bytes l
    let offs := blockOffsets c
    some { code := code, data := sectOf ss 3, codeBytes := c, offs := offs, types := offs.map (blockType c)
           recs := (match sectOf ss 2 with | some g => gRecs (g.bytes l) | none => [])
           nodes := (match sectOf ss 4 with | some m => nodesOf (m.bytes l) | none => [])
           images := (ss.filter fun x => x.ty == 5).map fun x =>
             { rev := fieldAt l x.off 1, digest := wordOf (fieldAt l (x.off + 8) 8), features := fieldAt l (x.off + 4) 4, disabled := false }
           sig := sig, entry := fieldAt l 56 4 }
  | _, _ => none

/-- The object is well formed but for its signature (R33). -/
def containerGood (l : List Byte) (p : Parts) : Bool :=
  let ss := sectsOf l (fieldAt l 12 4)
  nameGood l && tableGood l ss && blocksGood p.codeBytes && p.types[p.entry]? == some 0 &&
    (match sectOf ss 2 with
      | some g => decide (8 + 32 * fieldAt l g.off 4 ≤ g.size) && fieldAt l (g.off + 4) 4 == 0 && graphGood p.recs p.types (p.data.map fun d => d.size)
      | none => true) &&
    actorsCover p.recs p.types && (match sectOf ss 4 with | some m => nodesGood (m.bytes l) p.codeBytes | none => true) &&
    p.sig.size == 128 && zeroSpan l (p.sig.off + 104) 24

/-- The signature verifies with a key of the partition (R36, R430). -/
def State.signed (s : State) (part : Nat) (l : List Byte) (p : Parts) : Bool :=
  let keys := match s.dev.parts.get? part with | some q => q.keys | none => []
  let sg := p.sig.bytes l
  match keys.find? fun k => k.ident.toNat == fieldAt sg 96 8 with
  | some k => ecdsaGood k.x k.y (beNat (sg.take 48)) (beNat ((sg.drop 48).take 48)) (sha384 (l.take p.sig.off))
  | none => false

/-! ### Rates (R434) -/

/-- An edge with its actors and rates; it is fixed where both rates are nonzero. -/
structure GEdge where
  p : Nat
  c : Nat
  rp : Nat
  rc : Nat
  deriving DecidableEq, Repr

/-- The edges of a graph section. -/
def gEdges (rs : List GRec) : List GEdge :=
  (ofKind rs 3).map fun e =>
    let a := (portAt rs e.f4).getD (gRecOf [])
    let b := (portAt rs e.f8).getD (gRecOf [])
    { p := a.f4, c := b.f4, rp := a.f16, rc := b.f16 }

/-- Both rates are nonzero. -/
def GEdge.fixed (e : GEdge) : Bool := e.rp != 0 && e.rc != 0

/-- A positive fraction with the set of actors it belongs to. -/
abbrev Rate := Nat × Nat × Nat

/-- A fraction in lowest terms. -/
def rateOf (n d set : Nat) : Rate := (n / Nat.gcd n d, d / Nat.gcd n d, set)

/-- One edge gives the rate of one of its actors from the other's. -/
def relax (v : List (Option Rate)) (e : GEdge) : List (Option Rate) :=
  match nthD v e.p none, nthD v e.c none with
  | some (n, d, k), none => setAt e.c (some (rateOf (n * e.rp) (d * e.rc) k)) v
  | none, some (n, d, k) => setAt e.p (some (rateOf (n * e.rc) (d * e.rp) k)) v
  | _, _ => v

/-- Every edge, `n` times. -/
def spread (es : List GEdge) : Nat → List (Option Rate) → List (Option Rate)
  | 0, v => v
  | n + 1, v => spread es n (es.foldl relax v)

/-- The rates of all actors: each set from its first actor at 1. -/
def allRates (es : List GEdge) (n : Nat) : List (Option Rate) :=
  (List.range n).foldl (fun v i => if (nthD v i none).isNone then spread es n (setAt i (some (1, 1, i)) v) else v) (List.replicate n none)

/-- Fixed edges left when those whose producer no edge enters are removed, `n` times: all that remain lie on or below a cycle. -/
def peel : Nat → List GEdge → List GEdge
  | 0, l => l
  | n + 1, l => peel n (l.filter fun e => l.any fun d => d.c == e.p)

/-- The repetition vector (R434): none where a set has no solution or the fixed edges form a directed cycle. -/
def repVector (es : List GEdge) (n : Nat) : Option (List Nat) :=
  let fx := es.filter GEdge.fixed
  let v := (allRates fx n).map fun r => r.getD (1, 1, 0)
  let rate := fun i => nthD v i (1, 1, 0)
  if !(peel (fx.length + 1) fx).isEmpty || fx.any (fun e => (rate e.p).1 * e.rp * (rate e.c).2.1 != (rate e.c).1 * e.rc * (rate e.p).2.1) then none
  else some (v.map fun r =>
    let set := v.filter fun q => q.2.2 == r.2.2
    let l := set.foldl (fun m q => Nat.lcm m q.2.1) 1
    let g := set.foldl (fun m q => Nat.gcd m (q.1 * (l / q.2.1))) 0
    r.1 * (l / r.2.1) / g)

/-! ### Reading the object (R429) -/

/-- Bytes an OBJLOAD reads (R429). -/
def Firing.readSpan (f : Firing) (s : State) (va n : Nat) : Except Stop (List Byte) :=
  if !canonicalSpan va n then failWith .protection (wordOf va)
  else do
    let ks ← rangeOrStop (s.checkRange f.fr.ctx f.pe .normalRead va n) 0
    match s.runsPoisoned ks with
    | some g => failWith .uncorrectable (wordOf g)
    | none => .ok (s.readRuns ks)

/-- The ranges that channel records name, as far as the table and the graph section can be read. -/
def chanRanges (va len : Nat) (ss : List Sect) (g : List Byte) : List (Nat × Nat) :=
  match sectOf ss 3 with
  | none => []
  | some d =>
    let n := min (fieldAt g 0 4) (g.length / 32)
    (((List.range n).map fun i => gRecOf ((g.drop (8 + 32 * i)).take 32)).filter fun r => r.kind == 4).filterMap fun r =>
      if r.f4 + r.cap ≤ d.size ∧ d.off + d.size ≤ len ∧ r.cap ≠ 0 then some (va + d.off + r.f4, r.cap) else none

/-- A run of pages lies in a channel range. -/
def inRanges (ranges : List (Nat × Nat)) (r : Nat × Nat) : Bool := ranges.any fun g => overlaps g r

/-- A check whose protection failure is OBJECT (R429 step 3). -/
def objectRange (r : RangeRes) : Except Stop (List (Nat × Nat)) :=
  match r with
  | .ok l => .ok l
  | .page va level => .error (.page 0 va level)
  | _ => failWith .object

/-- Steps 2 and 3 of R429, and the object's bytes. -/
def Firing.readObject (f : Firing) (s : State) (va len n : Nat) : Except Stop (List Byte) := do
  let table ← f.readSpan s va (min len (64 + 16 * n))
  let ss := sectsOf table n
  let graph ← match sectOf ss 2 with
    | some g => if g.off + g.size ≤ len then f.readSpan s (va + g.off) g.size else .ok []
    | none => .ok []
  let ranges := chanRanges va len ss graph
  let runs := pageRuns va len
  let _ ← rangeOrStop (s.checkRuns f.fr.ctx [f.pe, 2048 + f.die] .normalRead (runs.filter fun r => !inRanges ranges r)) 0
  let _ ← match sectOf ss 1 with
    | some c => if c.off + c.size ≤ len then objectRange (s.checkRange f.fr.ctx f.pe .code (va + c.off) c.size) else .ok []
    | none => .ok []
  let chans ← ranges.mapM fun g => objectRange (s.checkRange f.fr.ctx f.pe .chan g.1 g.2)
  if chans.any fun ks => ((ks.map fun k => chanDie k.1).eraseDups).length != 1 || (ks.head?.bind fun k => chanDie k.1).isNone then failWith .object
  else do
    let keys ← runs.mapM fun r => objectRange (s.checkRange f.fr.ctx f.pe (if inRanges ranges r then .chan else .normalRead) r.1 r.2)
    match s.runsPoisoned keys.flatten with
    | some g => failWith .uncorrectable (wordOf g)
    | none => .ok (s.readRuns keys.flatten)

/-! ### Graph start (R436 to R438) -/

/-- The kind, width and FC of an Element byte (R436). -/
def elemOf (b : Nat) : Bool × Nat × Nat := (bitsAt b 0 2 != 0, bitsAt b 0 2 - 1, bitsAt b 2 5)

/-- The capacity of an edge (R437). -/
def Edge.need (e : Edge) (b : Nat) : Nat :=
  if e.fixed then roundUp (256 + 2 * e.period * elemSize (elemOf b).1 (elemOf b).2.1) 64 else e.capacity

/-- Channel-table entries of a home. -/
def State.homeEntries (s : State) (home : Nat × Option Nat) : Nat := (s.chans.filter fun p => (p.2.die, p.2.remote) == home).length

/-- The graph-start checks (R437). -/
def Firing.graphStart (f : Firing) (s : State) (va : Nat) (o : Obj) : Except Stop GraphStart := do
  let n := o.edges.length
  let d ← f.readSpan s va (16 + n)
  let els := (List.range n).map fun i => fieldAt d (16 + i) 1
  if fieldAt d 0 8 ≠ n ∨ fieldAt d 8 1 ≠ 0 ∨ fieldAt d 10 6 ≠ 0 ∨ 3 < fieldAt d 9 1 ∨ els.any (fun b => bitAt b 7 || (bitsAt b 0 2 == 0 && bitsAt b 2 5 != 0)) then
    failWith .operand
  else do
    let es := o.edges.zip els
    -- an edge's bytes lie in its record's range, which step 3 of R429 checked, where they do not exceed it
    if es.any fun e => decide (e.1.capacity < e.1.need e.2) then failWith .translationResource else
    let runs ← es.mapM fun e => objectRange (s.checkRange f.fr.ctx f.pe .chan e.1.base (e.1.need e.2))
    let homes := runs.map fun ks => (ks.head?.bind fun k => chanDie k.1).getD (0, none)
    if homes.any (fun h => decide (Config.channelsPerDie < s.homeEntries h + (homes.filter fun g => g == h).length)) ||
        decide (Config.taskSlots * 256 * f.x.dies.length < o.actors.length) then failWith .translationResource
    else .ok { prio := fieldAt d 9 1, edges := (es.zip runs).map fun e => (e.1.2, e.1.1.need e.1.2, e.2) }

/-- The channel-table entry of an edge as CHOPEN makes it (R318, R437). -/
def edgeChan (e : Edge) (b cap : Nat) (ks : List (Nat × Nat)) (c part : Nat) : Chan :=
  let el := elemOf b
  let home := (ks.head?.bind fun k => chanDie k.1).getD (0, none)
  let nt := (cap - 256) / elemSize el.1 el.2.1
  let t := thresholds el.1 el.2.1 3 nt
  { base := e.base, pa := (ks.head?.map Prod.fst).getD 0, pages := ks.map fun r => (r.1 / 65536 * 65536, 65536), die := home.1, remote := home.2, opener := c
    part := part, tile := el.1, width := el.2.1, fc := el.2.2, fixed := e.fixed, reach := 3, nring := nt, off := t.1, on := t.2, state := .opened
    writer := none, reader := none, ring := [], segs := [], lent := [], sendSeq := 0, recvSeq := 0, reqs := [], xoff := false, quota := none, segAsked := false
    ext := 0, probation := none, reported := false }

/-- Open the edges of a graph, all or none, as CHOPEN opens a channel (R318, R437). -/
def State.openEdges (s : State) : List Chan → Except Fail State
  | [] => .ok s
  | ch :: t =>
    if s.chans.any fun p => p.2.pages.any fun g => ch.pages.any fun h => overlaps g h then .error { code := .channelState, detail := wordOf ch.base }
    else if Config.channelsPerDie ≤ s.homeEntries (ch.die, ch.remote) then .error { code := .translationResource }
    else ((s.dropEndpoints fun e => e.ch == ch.pa).setChan ch.pa ch).openEdges t

/-- The task of an actor is enqueued, tagged for a PE that the Kiln chooses (R438). -/
def State.startActor (s : State) (c n prio : Nat) (o : Obj) (a : Actor) : State :=
  match s.ctx? c with
  | none => s
  | some x =>
    let pe := nthD x.dies (s.freeChoice x.dies.length) 0 * 256 + s.drawn.freeChoice 256
    let r : Rec := { code := a.block, join := 0, regs := 128, fa := false, place := 0, prio := prio, dep := none
                     args := [wordOf o.dataVa, wordOf a.index, wordOf a.rep, wordOf n, 0], g5 := none }
    let s1 := s.drawn.drawn
    if s1.queueRoom (quadOfPe pe) prio then s1.putRecord c r (quadOfPe pe) (some pe) none else s1.waitRoom c r (quadOfPe pe) (some pe) none

/-- OBJLOAD at commit (R431, R437): the object is loaded, and its graph starts or its fault is raised. -/
def State.commitObjload (s : State) (n : Nat) (graph : Option GraphStart) (src : Src) : State :=
  match s.kiln.objects.get? n with
  | none => s
  | some o =>
    let s1 : State := { s with kiln := { s.kiln with objects := s.kiln.objects.put n { o with committed := true } } }
    let s2 := s1.modCtx src.ctx fun x => if x.mmrevFixed then x else { x with mmrevFixed := true, regs := { x.regs with mmrev := o.rev } }
    match graph with
    | none => s2
    | some g =>
      let chans := (o.edges.zip g.edges).map fun e => edgeChan e.1 e.2.1 e.2.2.1 e.2.2.2 src.ctx (s2.partOf src.ctx)
      match s2.openEdges chans with
      | .error e => s2.raiseAt src e
      | .ok s3 => o.actors.foldl (fun s a => s.startActor src.ctx n g.prio o a) s3

/-! ### OBJLOAD (R429, R431, R450) -/

/-- The object that an OBJLOAD would load. -/
def Parts.obj (p : Parts) (l : List Byte) (va ctx : Nat) (rep : List Nat) : Obj :=
  let acts := ofKind p.recs 1
  let data := match p.data with | some d => va + d.off | none => 0
  let code := va + p.code.off
  { ctx := ctx, base := va, codeVa := code, codeSize := p.code.size, dataVa := data, blocks := p.offs, types := p.types, features := fieldAt l 8 4
    rev := fieldAt l 7 1, entry := code + nthD p.offs p.entry 0, digest := wordOf (leNat ((sha384 p.codeBytes).take 8)), images := p.images, nodes := p.nodes
    actors := (acts.zipIdx).map fun a => { index := a.2, block := code + nthD p.offs a.1.f4 0, rep := nthD rep a.2 1 }
    edges := ((gEdges p.recs).zip (ofKind p.recs 4)).map fun e =>
      { producer := e.1.p, consumer := e.1.c, fixed := e.1.fixed, period := e.1.rp * nthD rep e.1.p 1, base := data + e.2.f4, capacity := e.2.cap }
    committed := false }

/-- Step 5 of R429: false where OBJECT is raised. -/
def Firing.stepFive (f : Firing) (s : State) (o : Obj) (p : Parts) : Bool :=
  !(f.x.mmrevFixed && o.rev != f.x.regs.mmrev) &&
    !(s.kiln.objects.any fun q => q.2.committed && q.2.ctx == f.fr.ctx && overlaps (q.2.codeVa, q.2.codeSize) (o.codeVa, o.codeSize)) &&
    decide ((ofKind p.recs 3).length ≤ (ofKind p.recs 4).length)

/-- OBJLOAD (R450): the checks of R429 in order, the number, and the load held for commit. -/
def objloadBody : Body := fun f s => do
  let a ← wantScalar f.a
  let b ← wantScalar f.b
  if a.toNat % 64 ≠ 0 then failWith .align a
  else if b.toNat % 64 ≠ 0 then failWith .align b
  else do
    f.awaitBefore s
    let h ← f.readSpan s a.toNat 64
    if !headGood h a.toNat then failWith .object
    else do
      let l ← f.readObject s a.toNat (fieldAt h 16 8) (fieldAt h 12 4)
      match partsOf l with
      | none => failWith .object
      | some p =>
        if !containerGood l p || !s.signed f.x.part l p then failWith .object
        else
          let rep := repVector (gEdges p.recs) (ofKind p.recs 1).length
          let o := p.obj l a.toNat f.fr.ctx (rep.getD [])
          if !f.stepFive s o p then failWith .object
          else if rep.isNone then failWith .rateInconsistent
          else do
            let g ← if b = 0 then .ok none else (f.graphStart s b.toNat o).map some
            match lowestFree (Config.maxObjects + 1) (0 :: s.kiln.objects.map Prod.fst) with
            | none => .ok { st := f.replyTwo s (.die f.die) zeroTok zeroTok }
            | some n =>
              let s1 : State := { s with kiln := { s.kiln with objects := s.kiln.objects.put n o } }
              .ok { st := f.replyTwo (s1.hold f.key (.objload n g f.src)) (.die f.die) (scalarTok (wordOf n)) (scalarTok (wordOf o.entry)) }

/-- OBJLOAD (R450). -/
def execObjload (h : Hdr) (s : State) : Host.Outcome State Fault Refusal := fire (.objload h) objloadBody s

end Sys2Proof.Machine
end

