-- ==== Sys2Proof/Machine/Resolver.lean ====
section
/-! DEFINITION. Doorbells: of copy queues (R337), and of fault queues, at which pending entries are read again (R226 to R228, R409). -/

namespace Sys2Proof.Machine

/-- An entry is marked Retry (R226, R227): what is parked on it translates again, and discarded activations restart. -/
def State.retryEntry (s : State) (n : Nat) (e : FaultEntry) : State :=
  let again := fun (p : Nat × Access) =>
    if p.2.state = .parked n then (p.1, { p.2 with state := if p.2.write then AccState.walk else .lsid }) else p
  let wake := fun (p : Nat × Copy) => if p.2.phase = .parked n then (p.1, { p.2 with phase := CopyPhase.running }) else p
  let s1 : State := { s with mem := { s.mem with entries := s.mem.entries.del n, accesses := s.mem.accesses.map again }
                             copies := s.copies.map wake }
  let s2 := (s1.parkedOn (fun _ _ => true) (.entry n)).foldl (fun s p => s.unpark p.1 p.2) ((s1.endRetry n none).kilnRetry n none)
  e.restart.foldl (fun s r => s.restartAct r.2 (!s.issuing r.2.ctx)) s2

/-- An entry is marked Fail (R226, R227): PAGE stops the context at each instruction that waits on it. -/
def State.failEntry (s : State) (n : Nat) (e : FaultEntry) : State :=
  let f : Fail := { code := .page, detail := wordOf e.va, aux := wordOf e.index }
  let s0 : State := { s with mem := { s.mem with entries := s.mem.entries.del n } }
  let s1 := (s0.endRetry n (some f)).kilnRetry n (some (wordOf e.va))
  let s2 := (s1.mem.accesses.filter fun p => p.2.state == .parked n).foldl (fun s p => s.accessFault p.1 p.2 f) s1
  let s3 := (s2.copies.filter fun p => p.2.phase == .parked n).foldl (fun s p => s.abortCopy p.1 f) s2
  let s4 := (s3.parkedOn (fun _ _ => true) (.entry n)).foldl (fun s p => match s.frame? p.1 with
    | some fr => (s.setStat p.1 p.2 .faulted).raiseAt (srcOf p.1 fr p.2) { f with step := fr.stepAt p.2 }
    | none => s) s3
  e.restart.foldl (fun s r => (s.restartAct r.2 true).raiseAt r.1 f) s4

/-- The Status byte of a pending entry is read again (R228). -/
def State.rereadEntry (s : State) (p : Nat × FaultEntry) : State :=
  let st := (s.readByte (p.2.pa + 15)).toNat
  if st = 1 then s.retryEntry p.1 p.2 else if st = 2 then s.failEntry p.1 p.2 else s

/-- An offset is that of a fault-queue doorbell. -/
def isFaultDoorbell (off : Nat) : Bool := (List.range 8).any fun d => decide (doorbellOff d ≤ off ∧ off < doorbellOff d + 8)

/-- COPY_QUEUE_DOORBELL: a write reaches a doorbell register (R337). -/
def doorbellEvent (n : Nat) (s : State) : Option State :=
  match s.msg? n with
  | some e => if !s.first n e then none else match e.body with
    | .devWrite off data _ acc => if 0x03000000 ≤ off ∧ off < 0x03200000 then some (((s.taken n).ringDoorbell off data).performed acc) else none
    | _ => none
  | none => none

/-- FAULT_QUEUE_DOORBELL: the Status bytes of pending entries are read again (R409). -/
def faultDoorbellEvent (n : Nat) (s : State) : Option State :=
  match s.msg? n with
  | some e => if !s.first n e then none else match e.body with
    | .devWrite off _ _ acc =>
      if isFaultDoorbell off then
        let s1 := s.taken n
        some ((s1.mem.entries.foldl (fun s p => s.rereadEntry p) s1).performed acc)
      else none
    | _ => none
  | none => none

/-- COPY_QUEUE_DOORBELL (R337). -/
def execCopyQueueDoorbell (n : Nat) (s : State) : Host.Outcome State Fault Refusal := event "COPY_QUEUE_DOORBELL" (doorbellEvent n s)
/-- FAULT_QUEUE_DOORBELL (R409). -/
def execFaultQueueDoorbell (n : Nat) (s : State) : Host.Outcome State Fault Refusal := event "FAULT_QUEUE_DOORBELL" (faultDoorbellEvent n s)

end Sys2Proof.Machine
end

