-- ==== Sys2Proof/Machine/Attach.lean ====
section
/-! DEFINITION. Device registers, the host and its bridge, partitions, the security processor, links, power and boot (R312, R313, R388,
R410, R467 to R482). -/

namespace Sys2Proof.Machine

/-! ### Partitions (R472) -/

/-- Replace a partition. -/
def State.setPart (s : State) (p : Nat) (v : Part) : State := { s with dev := { s.dev with parts := s.dev.parts.put p v } }

/-- Contexts of a partition. -/
def State.ctxsOf (s : State) (p : Nat) : List Nat := (s.ctxs.filter fun q => q.2.part == p).map Prod.fst

/-- A TDI enters ERROR: every context of its partition is halted as by CTXHALT mode 0 (R472). -/
def State.toError (s : State) (p : Nat) : State :=
  match s.part? p with
  | none => s
  | some v => (s.ctxsOf p).foldl (fun s c => s.haltRequest c 0) (s.setPart p { v with tdi := .error })

/-- The partition whose CONFIG_LOCKED state freezes a register (R472): window entries and copy-queue registrations. -/
def State.frozenBy (s : State) (off : Nat) : Option Nat :=
  let p := if 0x10000 ≤ off ∧ off < 0x18000 then some (s.window ((off - 0x10000) / 16)).2.1
    else if 0x02000000 ≤ off ∧ off < 0x02100000 then
      let qi := (off - 0x02000000) / 32
      if s.regValid qi then s.regPart qi else none
    else none
  p.filter fun q => s.tdiIs q .locked

/-! ### Writes to device registers (R470) -/

/-- The partition page of an offset: its partition and the offset in it. -/
def partPage (off : Nat) : Option (Nat × Nat) :=
  if 0x18000 ≤ off ∧ off < 0x18000 + 256 * 0x10000 then some ((off - 0x18000) / 0x10000, (off - 0x18000) % 0x10000) else none

/-- The PE whose aperture-size register holds an offset (R230; DESIGN CHOICE, assumption log 9). -/
def aperturePe (off : Nat) : Option Nat :=
  if 0x01100000 ≤ off ∧ off < 0x01180000 then
    let d := (off - 0x01100000) / 0x10000
    let o := off % 0x10000
    if 0x1000 ≤ o ∧ o < 0x1800 then some (256 * d + (o - 0x1000) / 8) else none
  else none

/-- What a register write is for: the event of the table that performs it. -/
inductive DevKind where
  | registration | copyDoorbell | faultDoorbell | aperture (pe : Nat) | pkgno | create (p : Nat) | plain
  deriving DecidableEq, Repr

/-- The kind of a register by its offset. -/
def devKind (off : Nat) : DevKind :=
  if 0x02000000 ≤ off ∧ off < 0x02100000 then .registration
  else if 0x03000000 ≤ off ∧ off < 0x03200000 then .copyDoorbell
  else if isFaultDoorbell off then .faultDoorbell
  else if 0x100 ≤ off ∧ off < 0x108 then .pkgno
  else match aperturePe off with
    | some pe => .aperture pe
    | none => match partPage off with
      | some (p, o) => if o < 8 then .create p else .plain
      | none => .plain

/-- The register write of a message that is the first of its route. -/
def State.devMsg (s : State) (n : Nat) : Option (Nat × List Byte × Option Nat × Option (Nat × Nat)) :=
  match s.msg? n with
  | some e => if !s.first n e then none else match e.body with
    | .devWrite off data part acc => some (off, data, part, acc)
    | _ => none
  | none => none

/-- A register write takes effect: `g` of its offset, data and partition, where it is one of the event's; the access it performs is performed (R247). -/
def State.regWrite (s : State) (n : Nat) (g : Nat → List Byte → Option Nat → State → Option State) : Option State :=
  match s.devMsg n with
  | some (off, data, part, acc) => (g off data part (s.taken n)).map fun t => t.performed acc
  | none => none

/-- The partition a register write is made as: that of its context or function; the copy units are the operator's. -/
def writerPart (part : Option Nat) : Nat := part.getD 0

/-- COPY_QUEUE_REGISTRATION (R470, R472). -/
def registrationEvent (n : Nat) (s : State) : Option State :=
  s.regWrite n fun off data part s =>
    if devKind off ≠ .registration then none
    else match s.frozenBy off with
      | some p => some (s.toError p)
      | none => some (s.registerQueue off data (writerPart part))

/-- A context is resident on a PE (R389). -/
def State.residentOn (s : State) (pe : Nat) : Bool := s.ctxs.any fun p => p.2.onDie (dieOfPe pe)

/-- APERTURE_SIZE_WRITE (R230): ignored while a context is resident on the PE, and for a value above 32. -/
def apertureEvent (n : Nat) (s : State) : Option State :=
  s.regWrite n fun off data _ s =>
    match devKind off with
    | .aperture pe =>
      let s1 := s.devPut off data
      let v := s1.devNat (off / 8 * 8) 8
      if s.residentOn pe || decide (32 < v) then some s
      else some { s1 with pe := { s1.pe with regs0 := s1.pe.regs0.put pe v } }
    | _ => none

/-- PKGNO_WRITE (R482): ignored while a context is live, and for a nonzero reserved bit. -/
def pkgnoEvent (n : Nat) (s : State) : Option State :=
  s.regWrite n fun off data _ s =>
    if devKind off ≠ .pkgno then none
    else
      let s1 := s.devPut off data
      if !s.ctxs.isEmpty || decide (2 ^ 15 ≤ s1.devNat 0x100 8) then some s else some s1

/-- The offset of CSTAT of a partition (R388). -/
def cstatOff (p : Nat) : Nat := 0x18000 + p * 0x10000 + 0x10

/-- A creation has ended with a status (R388). -/
def State.setCstat (s : State) (p status : Nat) : State := s.devPut (cstatOff p) (leBytes 8 status)

/-- The device is powered and booted. -/
def State.powered (s : State) : Bool := s.dev.power == .d0 && !s.dev.down && !s.dev.bootFailed

/-- A creation by the host (R388): in RUN (R472) and in D0 (R479) only. -/
def State.hostCreate (s : State) (p pa : Nat) : State :=
  if !s.tdiIs p .run || !s.powered || pa % 64 != 0 || decide (2 ^ 40 ≤ pa) || s.ownerOf pa != p || s.poisoned pa then s.setCstat p 5
  else
    let l := s.readBytes pa 64
    let quad := 64 * ((List.range 8).find? fun d => bitAt (ctxDescOf l).dies d).getD 0
    let fltq := s.devNat (0x18000 + p * 0x10000 + 8) 8
    let r := s.createContext l pa 0 p fltq quad true
    r.1.setCstat p r.2

/-- CREATE: a write to CREATE starts a creation (R388). -/
def createEvent (n : Nat) (s : State) : Option State :=
  s.regWrite n fun off data _ s =>
    match devKind off with
    | .create p => some (s.hostCreate p (leNat data))
    | _ => none

/-- The offset of the boot status of the package block, 1 where boot has failed (R470, R478; DESIGN CHOICE, assumption log 9: R470 gives no
inner offset). -/
def bootStatusOff : Nat := 0x0108

/-- A register that keeps no value from outside: CSTAT and the boot status are written by the device alone, and 0x18 to 0x3F of a partition
page are reserved. -/
def readOnly (off : Nat) : Bool :=
  match partPage off with
  | some (_, o) => decide (0x10 ≤ o ∧ o < 0x40)
  | none => decide (bootStatusOff ≤ off ∧ off < bootStatusOff + 8)

/-- DEVICE_REGISTER_WRITE (R470): a frozen one is an error (R472); a larger backing area admits records that wait (R358), and a host request queue with
room the requests that wait (R410). -/
def deviceWriteEvent (n : Nat) (s : State) : Option State :=
  s.regWrite n fun off data _ s =>
    if devKind off ≠ .plain then none
    else match s.frozenBy off with
      | some p => some (s.toError p)
      | none => if readOnly off then some s else some ((s.devPut off data).enqueueHeld).placeHeld

/-! ### Host accesses (R467 to R469, R471) -/

/-- A read of the package block, which a device whose boot failed still answers: that is where it reports the failure (R478). -/
def State.reportsBoot (s : State) (a : HostAccess) : Bool :=
  s.dev.power == .d0 && !s.dev.down && a.bar0 && decide (a.fn = 0) && a.data.isEmpty && decide (a.offset + a.len ≤ 0x10000)

/-- How many bytes a host access covers. -/
def hostSpan (a : HostAccess) : Nat := if a.data.isEmpty then a.len else a.data.length

/-- The register offset of a BAR0 access that lies in its BAR (R467). -/
def regOff (a : HostAccess) : Option Nat :=
  if a.fn = 0 then (if a.offset + hostSpan a ≤ 2 ^ 32 then some a.offset else none)
  else if a.fn < 256 ∧ a.offset + hostSpan a ≤ 0x10000 then some (0x18000 + a.fn * 0x10000 + a.offset) else none

/-- A write of device registers as writes of one register, of 8 bytes or a part of them, each: a bound on their number first. -/
def regWrites : Nat → Nat → List Byte → List (Nat × List Byte)
  | 0, _, _ => []
  | n + 1, off, l => if l.isEmpty then [] else (off, l.take (8 - off % 8)) :: regWrites n (off + (8 - off % 8)) (l.drop (8 - off % 8))

/-- An earlier posted write of the function is not performed yet (R469). -/
def State.postedBy (s : State) (fn : Nat) : Bool :=
  s.net.any fun p => p.2.src == .host && (match p.2.body with | .devWrite _ _ part _ => part == some fn | _ => false)

/-- Bytes of local HBM as a partition: none where it does not own a page of them (R471). -/
def State.ownsRange (s : State) (p off n : Nat) : Bool := decide (off + n ≤ 2 ^ 40) && (pageRuns off n).all fun r => s.ownerOf r.1 == p

/-- A host write of HBM bytes is performed, granule by granule. -/
def State.hostWrite (s : State) (off : Nat) (data : List Byte) : State :=
  (piecesOf ((data.zipIdx).map fun b => (off + b.2, b.2))).foldl (fun s p =>
    match p.cells with
    | [] => s
    | c :: _ =>
      let s1 := s.recall c.1
      let s2 := if p.cells.length = 64 then s1.setPoison c.1 false else s1
      (p.cells.foldl (fun s x => s.writeByte x.1 (nthD data x.2 0)) s2).countWrite p.home (p.cells.map Prod.fst)) s

/-- A request is answered. -/
def State.dropRequest (s : State) (k : Nat) : State := { s with dev := { s.dev with requests := s.dev.requests.del k } }

/-- The answer of an HCALL (R415): delivered, or held while its context is halted. -/
def State.answerCall (s : State) (k : Nat) (r : HostReq) (status : Nat) (reply : Word) : State :=
  if s.issuing r.ctx then
    (((s.dropRequest k).answered r.src).reply .host 1 r.dests (scalarTok reply) r.src).reply .host 1 r.sdests (scalarTok (wordOf status)) r.src
  else { s with dev := { s.dev with requests := s.dev.requests.put k { r with status := status, reply := reply } } }

/-- What the host's answer of a request brings about (R306, R410, R415, R442). -/
def State.answerRequest (s : State) (k : Nat) (r : HostReq) (status : Nat) (reply : Word) : State :=
  if r.kind = 2 then (s.dropRequest k).segmentReply r.src.block (status == 1)
  else if r.kind = 4 then s.answerCall k r status reply
  else if r.kind = 6 then (s.dropRequest k).hostConfig k (status == 1) reply
  else s.dropRequest k

/-- The host has written bytes of local HBM (R410, R468): a pending request whose Status byte is among them and now holds 1 or 2 is answered, with the Reply
that its record holds. -/
def State.answersIn (s : State) (off n : Nat) : State :=
  s.dev.requests.foldl (fun s p => match p.2.place with
    | none => s
    | some a =>
      let status := (s.readByte (a + 2)).toNat
      if p.2.status = 0 ∧ off ≤ a + 2 ∧ a + 2 < off + n ∧ (status = 1 ∨ status = 2) then s.answerRequest p.1 p.2 status (wordOf (leNat (s.readBytes (a + 24) 8)))
      else s) s

/-- A host write through BAR2 (R468): the requests it answers are answered. -/
def State.hostWrites (s : State) (off : Nat) (data : List Byte) : State := (s.hostWrite off data).answersIn off data.length

/-- HOST_BAR_ACCESS (R467, R469): a register write is posted, register by register, any other access is performed; one that the function's partition may
not make is refused (R470, R471). -/
def barEvent (a : HostAccess) (s : State) : Option State :=
  let refuse := some (s.toHost (.refused Code.protection.num))
  if !s.dev.hostUp || !(s.powered || s.reportsBoot a) then none
  else if a.bar0 then
    match regOff a with
    | none => refuse
    | some off =>
      if !s.ownsRegs off (hostSpan a) a.fn then refuse
      else if !a.data.isEmpty then
        some ((regWrites a.data.length off a.data).foldl (fun s w => s.post .host .io 0 (.devWrite w.1 w.2 (some a.fn) none)) s)
      else if s.postedBy a.fn then none
      else some (s.toHost (.read ((List.range a.len).map fun i => s.devByte (off + i))))
  else if s.postedBy a.fn then none
  else if !s.ownsRange a.fn a.offset (hostSpan a) then refuse
  else if !a.data.isEmpty then some (s.hostWrites a.offset a.data).placeHeld
  else if s.rangePoisoned a.offset a.len then some (s.toHost (.refused Code.uncorrectable.num))
  else some (s.toHost (.read (s.readBytes a.offset a.len)))

/-- BRIDGE_LINK_LOSS (R469): contexts keep running. -/
def linkLossEvent (s : State) : Option State := if s.dev.hostUp then some { s with dev := { s.dev with hostUp := false } } else none

/-- BRIDGE_LINK_RETURN (R469): the doorbells of the requests posted meanwhile, and of those still pending, send their vectors (DESIGN CHOICE, assumption log
37). -/
def linkReturnEvent (s : State) : Option State :=
  if !s.dev.hostUp && !s.dev.down && s.dev.power != .d3cold then
    let s1 : State := { s with dev := { s.dev with hostUp := true } }
    some (s1.dev.requests.foldl (fun s p => if p.2.place.isSome && p.2.status == 0 then s.toHost (.msix p.2.ctx (p.2.kind == 1)) else s) s1)
  else none

/-- HOST_REPLY: the host writes Reply, then Status 1 or 2, of a pending request's record (R410). -/
def hostReplyEvent (k status : Nat) (reply : Word) (s : State) : Option State :=
  match s.dev.requests.get? k with
  | none => none
  | some r =>
    match r.place with
    | none => none
    | some a =>
      if !s.dev.hostUp ∨ !s.powered ∨ r.status ≠ 0 ∨ (status ≠ 1 ∧ status ≠ 2) then none
      else some ((s.hostWrites (a + 24) (leBytes 8 reply.toNat)).hostWrites (a + 2) (leBytes 1 status))

/-! ### The security processor (R430, R471 to R474) -/

/-- The bytes of a physical range read as nothing written. -/
def State.zeroRange (s : State) (lo n : Nat) : State :=
  let inside := fun (a : Nat) => decide (lo ≤ a) && decide (a < lo + n)
  { s with mem := { s.mem with bytes := s.mem.bytes.filter fun b => !inside b.1
                               poison := s.mem.poison.filter fun g => !inside g }
           sync := { s.sync with engines := s.sync.engines.map fun e => (e.1, { e.2 with lines := e.2.lines.filter fun l => !inside l.pa }) } }

/-- A message is for an object, record or channel whose bytes lie in a range of memory. -/
def Msg.inRange (lo n : Nat) : Msg → Bool
  | .join _ runs _ _ _ | .future _ runs _ _ _ _ | .poison _ runs _ _ => runs.any fun r => overlaps r (lo, n)
  | .deque _ pa _ _ _ _ | .wqueue _ pa _ _ _ _ | .barArrive pa _ _ _ | .barRelease pa _ _ => overlaps (pa, 64) (lo, n)
  | .element ch _ _ _ _ => overlaps (ch, 64) (lo, n)
  | _ => false

/-- A piece of an access is still to be performed in a range of memory. -/
def Piece.pendingIn (lo n : Nat) (p : Piece) : Bool := !p.done && p.cells.any fun c => decide (lo ≤ c.1 ∧ c.1 < lo + n)

/-- Something that was translated is on its way to a range of memory. -/
def State.inFlight (s : State) (lo n : Nat) : Bool :=
  s.mem.accesses.any (fun p => p.2.pieces.any fun q => q.pendingIn lo n) || s.sync.reqs.any (fun p => overlaps (p.2.pa, p.2.size) (lo, n)) ||
    s.net.any fun p => p.2.body.inRange lo n

/-- What is on its way to a range of memory is given up: it was a destroyed context's (R472). -/
def State.dropFlights (s : State) (lo n : Nat) : State :=
  let acc := s.mem.accesses.map fun p => (p.1, { p.2 with pieces := mapIf (fun q => q.pendingIn lo n) (fun q => { q with done := true }) p.2.pieces })
  { s with mem := { s.mem with accesses := acc.filter fun p => !(p.2.state.isActive && !p.2.pieces.isEmpty && p.2.pieces.all fun q => q.done) }
           sync := { s.sync with reqs := s.sync.reqs.filter fun p => !overlaps (p.2.pa, p.2.size) (lo, n) }
           net := s.net.filter fun p => !p.2.body.inRange lo n }

/-- The bytes of a page that the stack controllers encrypted with one partition's key are decrypted with another's (R474): one data unit of 64 bytes each,
with the tweak PA[51:6]. -/
def State.rekeyPage (s : State) (lo old new : Nat) : State :=
  (List.range 1024).foldl (fun s i =>
    let g := lo + 64 * i
    let s1 := s.recall g
    let l := s1.readBytes g 64
    (List.range 64).foldl (fun s j => s.writeByte (g + j) (Config.recrypt (Config.memoryKey old) (Config.memoryKey new) (g / 64) l j)) s1) s

/-- The number of a partition's memory key. -/
def State.keyOf (s : State) (p : Nat) : Nat := ((s.part? p).bind fun v => v.key).getD 0

/-- The host is there, and the device serves it (R469, R478 to R480). -/
def State.served (s : State) : Bool := s.dev.hostUp && s.powered

/-- OWNERSHIP_CHANGE: a page moves to a new owner, once nothing is on its way to it (DESIGN CHOICE, assumption log 125); one that leaves a confidential partition is zeroed
first (R471), one of the operator's is read under the new owner's key (R474), and a frozen ownership table is left alone, in error (R472). -/
def ownershipEvent (page owner : Nat) (s : State) : Option State :=
  let old := s.mem.owner.getD page 0
  if !s.served || 2 ^ 24 ≤ page || (s.part? owner).isNone then none
  else if s.tdiIs old .locked then some (s.toError old)
  else if s.tdiIs owner .locked then some (s.toError owner)
  else if old = owner then some s
  else if s.inFlight (page * 65536) 65536 then none
  else
    let s1 := if old = 0 then s.rekeyPage (page * 65536) (s.keyOf 0) (s.keyOf owner) else s.zeroRange (page * 65536) 65536
    some (State.placeHeld { s1 with mem := { s1.mem with owner := if owner = 0 then s1.mem.owner.del page else s1.mem.owner.put page owner } })

/-! ### TDISP over SPDM (R472, R473) -/

/-- An SPDM response: the codes are those of the SPDM standard the spec names. -/
def State.spdm (s : State) (code : Nat) (data : List Byte) : State := s.toHost (.spdm code data)

/-- SPDM needs the host, power and, but for GET_VERSION, a completed boot (R478), and the requests that go before. -/
def State.spdmUp (s : State) (versioned algs : Bool) : Bool :=
  s.served && (!versioned || s.dev.version) && (!algs || s.dev.algs)

/-- A request that may not be served now is answered by ERROR. -/
def State.spdmOr (s : State) (ok : Bool) (r : State) : Option State :=
  if !s.served then none else if ok then some r else some (s.spdm 0x7F [])

/-- A request for a TDI is inside a session bound to it, or it is for partition 0 (R473). -/
def State.boundTo (s : State) (p : Nat) : Bool := p == 0 || s.dev.sessions.any fun q => q.2.open_ && q.2.peer.isNone && q.2.part == p

/-- A change of a TDI's state (R472), asked for inside a session bound to the TDI (R473); partition 0 is no TDI (R471). -/
def tdiEvent (p : Nat) (old new : Tdi) (s : State) : Option State :=
  match s.part? p with
  | some v => s.spdmOr (s.spdmUp true true && p != 0 && s.boundTo p && v.tdi == old) (s.setPart p { v with tdi := new })
  | none => s.spdmOr false s

/-- The security processor draws a memory key for a partition (R474). -/
def State.drawKey (s : State) (p : Nat) (v : Part) : State :=
  let s1 := s.setPart p { v with key := some s.dev.keysDrawn }
  { s1 with dev := { s1.dev with keysDrawn := s1.dev.keysDrawn + 1 } }

/-- A TDI is stopped (R472): contexts destroyed, key erased, pages zeroed and returned to partition 0. The partition that is CONFIG_UNLOCKED again has a new
key (DESIGN CHOICE, assumption log 126). -/
def State.stopPart (s : State) (p : Nat) (v : Part) : State :=
  let s1 := (s.ctxsOf p).foldl (fun s c => s.destroyContext c) s
  let pages := (s1.mem.owner.filter fun q => q.2 == p).map Prod.fst
  let s2 := pages.foldl (fun s g => (s.dropFlights (g * 65536) 65536).zeroRange (g * 65536) 65536) s1
  let s3 : State := { s2 with mem := { s2.mem with owner := s2.mem.owner.filter fun q => q.2 != p } }
  s3.drawKey p { v with tdi := .unlocked, ide := none }

/-- STOP_INTERFACE (R472), asked for inside a session bound to the TDI (R473). -/
def stopEvent (p : Nat) (s : State) : Option State :=
  match s.part? p with
  | some v => s.spdmOr (s.spdmUp true true && p != 0 && s.boundTo p) (s.stopPart p v)
  | none => s.spdmOr false s

/-- PARTITION_CREATION (R472, R474, R477). -/
def partitionEvent (p : Nat) (noDebug : Bool) (s : State) : Option State :=
  if !s.served || p = 0 || 256 ≤ p || (s.part? p).isSome then none
  else some (s.drawKey p { tdi := .unlocked, key := none, ide := none, noDebug := noDebug, keys := [] })

/-- VERIFICATION_KEY_INSTALL (R430, R472): up to 16 keys; one of the same identifier replaces. -/
def keyInstallEvent (p : Nat) (key : VerifyKey) (s : State) : Option State :=
  match s.part? p with
  | none => none
  | some v =>
    if !s.served then none
    else if v.tdi = .locked then some (s.toError p)
    else
      let rest := v.keys.filter fun k => k.ident != key.ident
      if Config.keysPerPartition ≤ rest.length then some (s.toHost (.refused 0)) else some (s.setPart p { v with keys := rest ++ [key] })

/-- IDE_INTEGRITY_FAILURE (R472). -/
def ideEvent (p : Nat) (s : State) : Option State := if !s.served || p = 0 || (s.part? p).isNone then none else some (s.toError p)

/-! ### SPDM and attestation (R473, R477) -/

/-- GET_VERSION (R473, R478): answered even when boot has failed. -/
def versionEvent (s : State) : Option State :=
  if !s.dev.hostUp ∨ s.dev.power ≠ .d0 ∨ s.dev.down then none
  else some (State.spdm { s with dev := { s.dev with version := true } } 0x04 [0x13])

/-- GET_CAPABILITIES. -/
def capabilitiesEvent (s : State) : Option State := s.spdmOr (s.spdmUp true false) (s.spdm 0x61 (Config.spdmBody 0x61 0))

/-- The algorithms that the device selects (R473), by their bits in the SPDM standard (PRESUMED, assumption log 80): ECDSA over NIST P-384, SHA-384, the DHE group
secp384r1, AES-256-GCM. -/
def spdmAlgorithms : List Byte := leBytes 4 (2 ^ 7) ++ leBytes 4 (2 ^ 1) ++ leBytes 2 (2 ^ 4) ++ leBytes 2 (2 ^ 1)

/-- NEGOTIATE_ALGORITHMS. -/
def algorithmsEvent (s : State) : Option State :=
  s.spdmOr (s.spdmUp true false) (State.spdm { s with dev := { s.dev with algs := true } } 0x63 spdmAlgorithms)

/-- GET_DIGESTS. -/
def digestsEvent (s : State) : Option State := s.spdmOr (s.spdmUp true true) (s.spdm 0x01 (sha384 (Config.certificate 0)))

/-- GET_CERTIFICATE. -/
def certificateEvent (slot : Nat) (s : State) : Option State := s.spdmOr (s.spdmUp true true) (s.spdm 0x02 (Config.certificate slot))

/-- A signature of the device attestation key over a digest (R477): r, then s, 48 bytes each, big-endian. -/
def attestation (digest : List Byte) : List Byte := beBytes 48 (Config.attestR digest) ++ beBytes 48 (Config.attestS digest)

/-- CHALLENGE. -/
def challengeEvent (nonce : Nat) (s : State) : Option State :=
  s.spdmOr (s.spdmUp true true) (s.spdm 0x03 (attestation (sha384 (leBytes 32 nonce))))

/-- The capability fields of the report (R477). -/
def capabilities : List Nat :=
  [8, 256, 64, 256, 512, 2048, 4096, 64, 16, 8, 512, 64] ++ [8192, 4096, 65536, 8192, 1024, 64, 16, 64, 64, 256, 4095, 1900]

/-- Every JX port is keyed (R475). -/
def State.allKeyed (s : State) : Bool := (List.range 64).all fun i => (s.link i).tx.key.isSome && (s.link i).rx.key.isSome

/-- The keys of a partition as measured (R477): each as its identifier, then its coordinates, in identifier order (DESIGN CHOICE, assumption
log 114: R477 names no byte form of a key). -/
def keyBytes (ks : List VerifyKey) : List Byte :=
  (sortBy (fun (k : VerifyKey) => k.ident.toNat) ks).flatMap fun k => leBytes 8 k.ident.toNat ++ beBytes 48 k.x ++ beBytes 48 k.y

/-- The signed part of the report (R477): 416 bytes. Both I/O dies are A0 (R1). -/
def State.reportBody (s : State) (p nonce : Nat) (v : Part) : List Byte :=
  let mine := s.ctxs.filter fun q => q.2.part == p
  leBytes 4 0x4B485341 ++ leBytes 2 1 ++ leBytes 2 512 ++ leBytes 32 nonce ++ Config.serialNumber.take 16 ++
    List.replicate (16 - Config.serialNumber.length) 0 ++
    List.replicate 2 0 ++ (List.range 8).map (fun d => BitVec.ofNat 8 (bit (Config.dieRevision d))) ++
    leBytes 1 1 ++ leBytes 1 3 ++ leBytes 2 p ++ leBytes 1 (bit v.noDebug + bit (v.tdi == .run) * 2 + bit s.allKeyed * 4) ++ leBytes 1 0 ++
    leBytes 2 (mine.filter fun q => q.2.dbgen).length ++ leBytes 2 mine.length ++ leBytes 4 0 ++ capabilities.flatMap (leBytes 4) ++
    s.dev.stages.flatten ++ sha384 (keyBytes v.keys)

/-- The 512 bytes of the report (R477). -/
def State.report (s : State) (p nonce : Nat) (v : Part) : List Byte :=
  let body := s.reportBody p nonce v
  body ++ attestation (sha384 body)

/-- What a measurement index names (R473, R477, R478): 1 to 4 the boot stages, 0 how many there are, 255 the report (PRESUMED, assumption log 80). -/
def State.measured (s : State) (p index nonce : Nat) (v : Part) : Option (List Byte) :=
  if index = 0 then some [4]
  else if index ≤ 4 then s.dev.stages[index - 1]?
  else if index = 255 then some (s.report p nonce v)
  else none

/-- GET_MEASUREMENTS (R473, R477). -/
def measurementsEvent (p : MeasureAsk) (nonce : Nat) (s : State) : Option State :=
  match s.part? p.part with
  | none => s.spdmOr false s
  | some v => match s.measured p.part p.index nonce v with
    | none => s.spdmOr false s
    | some l => s.spdmOr (s.spdmUp true true && s.boundTo p.part) (s.spdm 0x60 l)

/-- Replace a session. -/
def State.setSession (s : State) (n : Nat) (v : Session) : State := { s with dev := { s.dev with sessions := s.dev.sessions.put n v } }

/-- KEY_EXCHANGE starts a session: of the host, bound to a TDI, or with the security processor at the other end of a JX link, as requester or responder
(R473). -/
def keyExchangeEvent (n : Nat) (p : SessionEnd) (s : State) : Option State :=
  match p with
  | .host p =>
    s.spdmOr (s.spdmUp true true && (s.dev.sessions.get? n).isNone && (s.part? p).isSome)
      ((s.setSession n { part := p, peer := none, open_ := false, keyGen := 0 }).spdm 0x64 (Config.spdmBody 0x64 n))
  | .peer l =>
    if !s.powered || 64 ≤ l || !(s.link l).up || (s.dev.sessions.get? n).isSome then none
    else some (s.setSession n { part := 0, peer := some l, open_ := false, keyGen := 0 })

/-- A session has new keys: those of the JX link it keys are derived from it, one for each direction, and their counters begin anew (R475); a host's session
keys the IDE stream of its TDI (R473). -/
def State.deriveKeys (s : State) (n : Nat) (v : Session) : State :=
  match v.peer with
  | some l =>
    let k := s.link l
    let s1 := s.setLink l { k with tx := LinkDir.fresh s.dev.linkKeys, rx := LinkDir.fresh (s.dev.linkKeys + 1) }
    { s1 with dev := { s1.dev with linkKeys := s1.dev.linkKeys + 2 } }
  | none => match s.part? v.part with
    | some q => s.setPart v.part { q with ide := some (n, v.keyGen) }
    | none => s

/-- FINISH, KEY_UPDATE: a session of which `need` holds becomes `g` of it, and its keys are new. A peer's session needs no host. -/
def sessionEvent (n code : Nat) (need : Session → Bool) (g : Session → Session) (s : State) : Option State :=
  match s.dev.sessions.get? n with
  | none => s.spdmOr false s
  | some v =>
    let t := (s.setSession n (g v)).deriveKeys n (g v)
    match v.peer with
    | none => s.spdmOr (s.spdmUp true true && need v) (t.spdm code (Config.spdmBody code n))
    | some _ => if s.powered && need v then some t else none

/-- END_SESSION. -/
def endSessionEvent (n : Nat) (s : State) : Option State :=
  match s.dev.sessions.get? n with
  | some v =>
    let t : State := { s with dev := { s.dev with sessions := s.dev.sessions.del n } }
    match v.peer with
    | none => s.spdmOr (s.spdmUp true true && v.open_) (t.spdm 0x6C (Config.spdmBody 0x6C n))
    | some _ => if s.powered && v.open_ then some t else none
  | none => s.spdmOr false s

/-! ### JX links (R312, R313, R475) -/

/-- The IV of a group on one direction of a link (R475): the 32-bit link number, then the group counter. -/
def LinkDir.iv (d : LinkDir) (l : Nat) : BitVec 96 := BitVec.ofNat 32 l ++ BitVec.ofNat 64 d.counter

/-- A group has crossed the link to a remote package in each direction, with its tag flit (R475; DESIGN CHOICE, assumption log 127). -/
def State.grouped (s : State) (pkg : Nat) : State :=
  let k := s.link (Config.linkOf pkg)
  s.setLink (Config.linkOf pkg) { k with tx := { k.tx with counter := k.tx.counter + 1 }, rx := { k.rx with counter := k.rx.counter + 1 } }

/-- LINK_RETRAIN (R312): every reservation stays, and each writer across the link is told its flow state. -/
def retrainEvent (l : Nat) (s : State) : Option State :=
  if 64 ≤ l ∨ !(s.link l).up then none else some (s.resendFlow l)

/-- LINK_DOWN (R313): the link's channels break. -/
def linkDownEvent (l : Nat) (s : State) : Option State :=
  if 64 ≤ l ∨ !(s.link l).up then none else some ((s.setLink l { s.link l with up := false }).breakLink l)

/-- The TDIs whose traffic crosses a link: their windows or channels lead to a package beyond it (R475). -/
def State.tdisAcross (s : State) (l : Nat) : List Nat :=
  let byWindow := (List.range 2048).filterMap fun w =>
    let e := s.window w
    if e.1 && Config.linkOf e.2.2.2 == l then some e.2.1 else none
  let byChan := (s.chans.filter fun p => p.2.across l).map fun p => p.2.part
  ((byWindow ++ byChan).eraseDups).filter fun p => p != 0

/-- The number of tag failures in a row on a direction of a link. -/
def Link.dir (k : Link) (rx : Bool) : LinkDir := if rx then k.rx else k.tx

/-- A link with one direction replaced. -/
def Link.withDir (k : Link) (rx : Bool) (d : LinkDir) : Link := if rx then { k with rx := d } else { k with tx := d }

/-- JX_TAG_FAILURE (R475): a group of one direction is replayed, with its key and counter; the third failure in a row there takes the link down. Whether a
group went well since the last failure is free. -/
def tagFailureEvent (x : LinkSide) (s : State) : Option State :=
  let l := x.port
  let k := s.link l
  let d := k.dir x.rx
  if 64 ≤ l ∨ !k.up then none
  else
    let n := if s.freeChoice 2 = 0 then 1 else d.fails + 1
    let s1 := s.drawn
    if n < 3 then some (s1.setLink l (k.withDir x.rx { d with fails := n }))
    else some ((s.tdisAcross l).foldl (fun s p => s.toError p) ((s1.setLink l { k.withDir x.rx { d with fails := 0 } with up := false }).breakLink l))

/-! ### Boot and power (R478 to R480) -/

/-- A stage register after an image (R478). -/
def measure (r digest : List Byte) : List Byte := sha384 (r ++ digest)

/-- The stages in order, up to the first whose signature fails (R478): the registers, and whether boot failed. -/
def bootStages (b : BootImages) : List (List Byte) × Bool :=
  let zero := List.replicate 48 (0 : Byte)
  let stages := [[b.stage1], [b.stage2], [b.stage3], b.stage4]
  stages.foldl (fun st imgs =>
    if st.2 then (st.1 ++ [zero], true)
    else (st.1 ++ [imgs.foldl (fun r i => measure r i.digest) zero], !imgs.all fun i => i.verifies)) ([], false)

/-- The machine reset, keeping what is the MODEL's own: the schedule, what was sent to the host and how many keys were drawn. The keys of partition 0 and of the
JX links are new (R474, R475). -/
def State.cleared (s : State) : State :=
  let k := s.dev.linkKeys
  { State.reset with dev := { State.reset.dev with out := s.dev.out, keysDrawn := s.dev.keysDrawn + 1, linkKeys := k + 2
                                                   parts := [(0, { tdi := .run, key := some s.dev.keysDrawn, ide := none, noDebug := false, keys := [] })]
                                                   links := (List.range 64).map fun l => (l, { up := true, tx := LinkDir.fresh k, rx := LinkDir.fresh (k + 1) }) }
                     sched := { s.sched with cycle := 0 } }

/-- The machine without power (R479, R480): the JX links are down and their keys lost, and the host does not see the device. -/
def State.dark (s : State) : State :=
  let s1 := s.cleared
  { s1 with dev := { s1.dev with links := (List.range 64).map fun l => (l, Link.dead), hostUp := false } }

/-- RESET (R478): a failed boot shows in the package block. -/
def resetEvent (b : BootImages) (s : State) : Option State :=
  let r := bootStages b
  let s1 := s.cleared
  let s2 : State := { s1 with dev := { s1.dev with stages := r.1, bootFailed := r.2 } }
  some (if r.2 then s2.devPut bootStatusOff [1] else s2)

/-- A write that the host has posted is not performed yet. -/
def State.hostPosts (s : State) : Bool := s.net.any fun p => p.2.src == .host

/-- POWER_STATE_REQUEST (R479): the host asks for it, in order after the writes it has posted (R469); a move out of D0 is refused while a context is live;
D3cold loses all state, and only a boot leaves it. -/
def powerEvent (st : PowerState) (s : State) : Option State :=
  if s.dev.down || !s.dev.hostUp || s.dev.bootFailed || s.hostPosts then none
  else match st with
    | .d0 => if s.dev.power = .d3cold then none else some { s with dev := { s.dev with power := .d0 } }
    | .d3hot => if !s.ctxs.isEmpty then some (s.toHost (.refused 0)) else if s.dev.power = .d3cold then none else some { s with dev := { s.dev with power := .d3hot } }
    | .d3cold => if !s.ctxs.isEmpty then some (s.toHost (.refused 0))
        else
          let s1 := s.dark
          some { s1 with dev := { s1.dev with power := .d3cold } }

/-- THERMAL_THROTTLE (R480): the die's power controller lowers issue rates. -/
def throttleEvent (d : Nat) (s : State) : Option State :=
  if 8 ≤ d then none else some { s with dev := { s.dev with throttled := d :: s.dev.throttled.filter (· != d) } }

/-- THERMAL_SHUTDOWN (R480): the device is powered down at once and keeps no context state. -/
def shutdownEvent (s : State) : Option State :=
  if s.dev.down then none
  else
    let s1 := s.dark
    some { s1 with dev := { s1.dev with down := true } }

/-- CREATE (R388). -/
def execCreate (n : Nat) (s : State) : Host.Outcome State Fault Refusal := event "CREATE" (createEvent n s)
/-- HOST_REPLY (R410). -/
def execHostReply (k : Nat) (status : Nat) (reply : Word) (s : State) : Host.Outcome State Fault Refusal := event "HOST_REPLY" (hostReplyEvent k status reply s)
/-- APERTURE_SIZE_WRITE (R230). -/
def execApertureSizeWrite (n : Nat) (s : State) : Host.Outcome State Fault Refusal := event "APERTURE_SIZE_WRITE" (apertureEvent n s)
/-- PKGNO_WRITE (R482). -/
def execPkgnoWrite (n : Nat) (s : State) : Host.Outcome State Fault Refusal := event "PKGNO_WRITE" (pkgnoEvent n s)
/-- DEVICE_REGISTER_WRITE (R470). -/
def execDeviceRegisterWrite (n : Nat) (s : State) : Host.Outcome State Fault Refusal := event "DEVICE_REGISTER_WRITE" (deviceWriteEvent n s)
/-- COPY_QUEUE_REGISTRATION (R470). -/
def execCopyQueueRegistration (n : Nat) (s : State) : Host.Outcome State Fault Refusal := event "COPY_QUEUE_REGISTRATION" (registrationEvent n s)
/-- HOST_BAR_ACCESS (R469). -/
def execHostBarAccess (acc : HostAccess) (s : State) : Host.Outcome State Fault Refusal := event "HOST_BAR_ACCESS" (barEvent acc s)
/-- BRIDGE_LINK_LOSS (R469). -/
def execBridgeLinkLoss (s : State) : Host.Outcome State Fault Refusal := event "BRIDGE_LINK_LOSS" (linkLossEvent s)
/-- BRIDGE_LINK_RETURN (R469). -/
def execBridgeLinkReturn (s : State) : Host.Outcome State Fault Refusal := event "BRIDGE_LINK_RETURN" (linkReturnEvent s)
/-- OWNERSHIP_CHANGE (R471). -/
def execOwnershipChange (page : Nat) (owner : Nat) (s : State) : Host.Outcome State Fault Refusal := event "OWNERSHIP_CHANGE" (ownershipEvent page owner s)
/-- LOCK_INTERFACE_REQUEST (R472). -/
def execLockInterfaceRequest (p : Nat) (s : State) : Host.Outcome State Fault Refusal := event "LOCK_INTERFACE_REQUEST" (tdiEvent p .unlocked .locked s)
/-- START_INTERFACE_REQUEST (R472). -/
def execStartInterfaceRequest (p : Nat) (s : State) : Host.Outcome State Fault Refusal := event "START_INTERFACE_REQUEST" (tdiEvent p .locked .run s)
/-- STOP_INTERFACE (R472). -/
def execStopInterface (p : Nat) (s : State) : Host.Outcome State Fault Refusal := event "STOP_INTERFACE" (stopEvent p s)
/-- GET_VERSION (R473). -/
def execGetVersion (s : State) : Host.Outcome State Fault Refusal := event "GET_VERSION" (versionEvent s)
/-- GET_CAPABILITIES (R473). -/
def execGetCapabilities (s : State) : Host.Outcome State Fault Refusal := event "GET_CAPABILITIES" (capabilitiesEvent s)
/-- NEGOTIATE_ALGORITHMS (R473). -/
def execNegotiateAlgorithms (s : State) : Host.Outcome State Fault Refusal := event "NEGOTIATE_ALGORITHMS" (algorithmsEvent s)
/-- GET_DIGESTS (R473). -/
def execGetDigests (s : State) : Host.Outcome State Fault Refusal := event "GET_DIGESTS" (digestsEvent s)
/-- GET_CERTIFICATE (R473). -/
def execGetCertificate (slot : Nat) (s : State) : Host.Outcome State Fault Refusal := event "GET_CERTIFICATE" (certificateEvent slot s)
/-- CHALLENGE (R473). -/
def execChallenge (nonce : Nat) (s : State) : Host.Outcome State Fault Refusal := event "CHALLENGE" (challengeEvent nonce s)
/-- GET_MEASUREMENTS (R477). -/
def execGetMeasurements (p : MeasureAsk) (nonce : Nat) (s : State) : Host.Outcome State Fault Refusal :=
  event "GET_MEASUREMENTS" (measurementsEvent p nonce s)
/-- KEY_EXCHANGE (R473). -/
def execKeyExchange (sess : Nat) (p : SessionEnd) (s : State) : Host.Outcome State Fault Refusal :=
  event "KEY_EXCHANGE" (keyExchangeEvent sess p s)
/-- FINISH (R473). -/
def execFinish (sess : Nat) (s : State) : Host.Outcome State Fault Refusal :=
  event "FINISH" (sessionEvent sess 0x65 (fun v => !v.open_) (fun v => { v with open_ := true }) s)
/-- KEY_UPDATE (R473). -/
def execKeyUpdate (sess : Nat) (s : State) : Host.Outcome State Fault Refusal :=
  event "KEY_UPDATE" (sessionEvent sess 0x69 (fun v => v.open_) (fun v => { v with keyGen := v.keyGen + 1 }) s)
/-- END_SESSION (R473). -/
def execEndSession (sess : Nat) (s : State) : Host.Outcome State Fault Refusal := event "END_SESSION" (endSessionEvent sess s)
/-- RESET (R478). -/
def execReset (boot : BootImages) (s : State) : Host.Outcome State Fault Refusal := event "RESET" (resetEvent boot s)
/-- POWER_STATE_REQUEST (R479). -/
def execPowerStateRequest (st : PowerState) (s : State) : Host.Outcome State Fault Refusal := event "POWER_STATE_REQUEST" (powerEvent st s)
/-- THERMAL_THROTTLE (R480). -/
def execThermalThrottle (d : Nat) (s : State) : Host.Outcome State Fault Refusal := event "THERMAL_THROTTLE" (throttleEvent d s)
/-- THERMAL_SHUTDOWN (R480). -/
def execThermalShutdown (s : State) : Host.Outcome State Fault Refusal := event "THERMAL_SHUTDOWN" (shutdownEvent s)
/-- IDE_INTEGRITY_FAILURE (R472). -/
def execIdeIntegrityFailure (p : Nat) (s : State) : Host.Outcome State Fault Refusal := event "IDE_INTEGRITY_FAILURE" (ideEvent p s)
/-- PARTITION_CREATION (R472). -/
def execPartitionCreation (p : Nat) (noDebug : Bool) (s : State) : Host.Outcome State Fault Refusal := event "PARTITION_CREATION" (partitionEvent p noDebug s)
/-- VERIFICATION_KEY_INSTALL (R430). -/
def execVerificationKeyInstall (p : Nat) (key : VerifyKey) (s : State) : Host.Outcome State Fault Refusal := event "VERIFICATION_KEY_INSTALL" (keyInstallEvent p key s)
/-- LINK_RETRAIN (R312). -/
def execLinkRetrain (link : Nat) (s : State) : Host.Outcome State Fault Refusal := event "LINK_RETRAIN" (retrainEvent link s)
/-- LINK_DOWN (R313). -/
def execLinkDown (link : Nat) (s : State) : Host.Outcome State Fault Refusal := event "LINK_DOWN" (linkDownEvent link s)
/-- JX_TAG_FAILURE (R475). -/
def execJxTagFailure (link : LinkSide) (s : State) : Host.Outcome State Fault Refusal := event "JX_TAG_FAILURE" (tagFailureEvent link s)

end Sys2Proof.Machine
end

