-- ==== Sys2Proof/Machine/Frames.lean ====
section
/-! DEFINITION. Tokens and replies at frames (R18 to R20, R77 to R79, R85, R162) and the life of a frame up to its commit (R73 to R76, R82,
R83, R88, R93, R460). -/

namespace Sys2Proof.Machine

/-! ### Tokens at a frame (R78, R79, R85) -/

/-- A context commits a block or has a reply delivered: its silence ends (R307). -/
def State.active (s : State) (c : Nat) : State := s.modCtx c fun x => { x with silence := 0, lastActive := s.sched.cycle }

/-- A token that its slot does not take: OPERAND at the receiving instruction, and its reference is released (R78). -/
def State.refuseTok (s : State) (k : Nat) (f : Frame) (idx : Nat) (t : Tok) : State :=
  (s.raiseAt (srcOf k f idx) { code := .operand }).dropTok (k / 256) t

/-- A frame with a token in a slot: the cycle of an instruction's first token and the cycle it became ready are kept (R24, R452);
one that waits for R88 is ready later. -/
def Frame.parked (f : Frame) (idx : Nat) (sd : Side) (i : Instr) (t : Tok) (now : Nat) : Frame :=
  let first := !(i.required.any fun sd => (f.operand idx sd).isSome)
  let f1 : Frame := { f with slots := f.slots.put (idx * 4 + sideNum sd) t, ready := if first then f.ready.put (128 + idx) now else f.ready }
  if !f1.present idx i then f1
  else { f1 with since := f1.since.put idx now, ready := if i.guarded then f1.ready else f1.ready.put idx now }

/-- A token parks in a slot that its instruction requires: a predicate that does not match resolves the instruction (R79), and the address
of a store is translated (R88). -/
def State.parkTok (s : State) (k : Nat) (f : Frame) (idx : Nat) (sd : Side) (i : Instr) (t : Tok) : State :=
  let f1 := f.parked idx sd i t s.sched.cycle
  let s1 := s.setFrame k f1
  if sd == .c && predMismatch i.hdr t then s1.mismatch k idx i (f1.heldAt idx)
  else if i.isStore && sd == .a then s1.storeAddress (srcOf k f idx) i t
  else s1

/-- A token arrives at a slot of an Open frame (R78). -/
def State.deliverSlot (s : State) (k : Nat) (f : Frame) (idx : Nat) (sd : Side) (t : Tok) : State :=
  match f.cfg.instr idx with
  | none => s.refuseTok k f idx t
  | some i =>
    if !i.required.contains sd then s.refuseTok k f idx t
    else match f.stat.get? idx with
      | some .mismatched => s.dropTok (k / 256) t
      | some .fired | some (.parked _) => s.refuseTok k f idx t
      | _ => if (f.operand idx sd).isSome then s.refuseTok k f idx t else s.parkTok k f idx sd i t

/-- The side a token's field names (R18). -/
def sideOf (n : Nat) : Side := if n = 0 then .a else if n = 1 then .b else .c

/-- A token of kind 3 or side 3 is discarded where it arrives, with TOKEN_KIND in its context (R20). -/
def State.oddToken (s : State) (raw : BitVec 128) (c : Nat) : State :=
  let pe := rawField raw 81 11
  (s.raiseNone { Src.ofCtx c with pe := pe } { code := .tokenKind }).dropTok pe (rawTok raw)

/-- An accepted token reaches its frame: one of kind 3 or side 3 is discarded (R20), and so is one whose activation is not Open (R85). -/
def State.deliverToken (s : State) (raw : BitVec 128) (uid : Nat) (src : Src) : State :=
  let pe := rawField raw 81 11
  let k := frameKey pe (rawField raw 73 8)
  if tokenOdd raw then s.oddToken raw src.ctx
  else match s.frame? k with
    | none => s.dropTok pe (rawTok raw)
    | some f =>
      if f.uid = uid ∧ f.live then s.deliverSlot k f (rawField raw 64 7) (sideOf (rawField raw 71 2)) (rawTok raw)
      else s.dropTok pe (rawTok raw)

/-- A counter's token reaches its slot: only in an Open frame of the context the counter was bound in as it sent it (R281), which has TOKEN_KIND where
the token is of kind 3 or side 3 and is discarded (R20). -/
def State.injectToken (s : State) (raw : BitVec 128) (cid ctx : Nat) : State :=
  let k := frameKey (rawField raw 81 11) (rawField raw 73 8)
  let lost := if (s.counter? cid).any fun c => c.ctx == ctx then s.counterError cid else s
  if tokenOdd raw then s.oddToken raw ctx
  else match s.frame? k with
  | some f =>
    if f.live ∧ f.ctx = ctx ∧ rawField raw 92 4 = s.slotOf ctx then
      s.deliverSlot k f (rawField raw 64 7) (sideOf (rawField raw 71 2)) (rawTok raw)
    else lost
  | none => lost

/-- TOKEN_DELIVERY (R19, R78): a receiver refuses a message whose parity fails or whose class or slot is reserved, and its sender holds it;
an accepted token reaches its frame. -/
def tokenEvent (n : Nat) (s : State) : Option State :=
  match s.msg? n with
  | some e =>
    if !s.ahead n e || e.refused then none
    else if !tokenGood e.wire then some (s.setEnv n { e with refused := true, refusals := e.refusals + 1 })
    else match e.body with
      | .token _ uid src => some ((s.taken n).deliverToken e.wire uid src)
      | .inject _ cid => some ((s.taken n).injectToken e.wire cid e.ctx)
      | _ => none
  | none => none

/-- TOKEN_RESEND (R19): a message refused fewer than 8 times is sent again, as its sender made it or damaged as before: which, is free
(DESIGN CHOICE, assumption log 91). -/
def resendEvent (n : Nat) (s : State) : Option State :=
  match s.msg? n with
  | some e =>
    if e.refused ∧ e.refusals < 8 then
      some (s.drawn.setEnv n { e with refused := false, wire := if s.freeChoice 2 = 0 then s.wireOf e.dst e.cls e.ctx e.body else e.wire })
    else none
  | none => none

/-- What a message that is given up leaves undone: its reply counts as withheld, and the references its tokens hold go. -/
def State.giveUp (s : State) (e : Env) : State :=
  match e.body with
  | .token raw _ src => s.dropTok src.pe (rawTok raw)
  | .reply d t _ => (s.unexpect d).dropTok d.pe t
  | .withheld d => s.unexpect d
  | .elemReply ds _ _ _ _ => ds.foldl State.unexpect s
  | .devWrite _ _ _ acc => s.performed acc
  | _ => s

/-- TOKEN_PARITY: after 8 refusals the sender stops, and the context whose work the message carries has the fault (R19, R398): at the
instruction that made a token of a PE, and at none for an engine's. -/
def parityEvent (n : Nat) (s : State) : Option State :=
  match s.msg? n with
  | some e =>
    if e.refused ∧ 8 ≤ e.refusals then
      let fail : Fail := { code := .tokenParity, detail := wordOf (rawField e.wire 64 64) }
      let s1 := (s.taken n).giveUp e
      some (match e.src, e.body.owner with
        | .pe _, some src => s1.raiseHome src fail
        | _, _ => s1.raiseNone (Src.ofCtx e.ctx) fail)
    else none
  | none => none

/-! ### Replies (R77) -/

/-- A reply is delivered: to its slot or write entry while the frame is Open, discarded while it drains (R77). -/
def State.deliverReply (s : State) (d : Dest) (t : Tok) (src : Src) : State :=
  match s.frameOf d.pe d.frame d.uid with
  | none => s.dropTok d.pe t
  | some f =>
    let k := frameKey d.pe d.frame
    let f1 : Frame := { f with outstanding := f.outstanding - 1 }
    let s1 := (s.setFrame k f1).active f.ctx
    if !f.live then s1.dropTok d.pe t
    else match d.tgt with
      | .none => s1.dropTok d.pe t
      | .slot sd i => s1.deliverSlot k f1 i.toNat sd t
      | .write e =>
        if (f1.outs.get? e.toNat).isSome then
          (s1.raiseAt src { code := .operand, step := match d.step with | some k => some k | none => f1.stepAt src.idx }).dropTok d.pe t
        else s1.setFrame k { f1 with outs := f1.outs.put e.toNat t }

/-- A tile element reaches its receiver: it becomes a tile there, once there is room (R170, R301). -/
def State.deliverElem (s : State) (d : Dest) (e : Elem) (fc w : Nat) (src : Src) : Option State :=
  match s.frameOf d.pe d.frame d.uid with
  | none => some s
  | some f =>
    if !f.live then some ((s.unexpect d).active f.ctx)
    else if !s.tileRoom d.pe w then none
    else
      let slot := s.pickSlot d.pe
      let h := handleOf d.pe slot fc e.rows e.cols (s.tileSlot d.pe slot).gen
      some ((s.drawn.fillSlot d.pe slot (s.slotOf src.ctx) 1 w e.nonfinite e.codes).deliverReply d { kind := .tile, val := h } src)

/-- What a controller has for a halted context is held until it resumes (R311). -/
def State.heldFor (s : State) (e : Env) (src : Src) : Bool := e.cls == 2 && (s.ctx? src.ctx).any fun x => !x.state.issues

/-- The next reply of its source, destination and class, past those of class 2 that are held for halted contexts. -/
def State.firstReply (s : State) (n : Nat) (e : Env) : Bool :=
  e.sound && s.reaches e.src && !(e.body.owner.any fun src => s.heldFor e src) &&
    !s.net.any fun p => decide (p.1 < n) && p.2.src == e.src && p.2.dst == e.dst && p.2.cls == e.cls && !(p.2.body.owner.any fun src => s.heldFor p.2 src)

/-- SPLIT_PHASE_REPLY (R77): a reply, with which what its instruction set comes into force (R460, R463), a reply that will not come (R225), or a tile
element. -/
def replyEvent (n : Nat) (s : State) : Option State :=
  match s.msg? n with
  | some e => if !s.firstReply n e then none else match e.body with
    | .reply d _ src =>
      let s1 := (s.taken n).inForce src
      if tokenOdd e.wire then some ((s1.oddToken e.wire src.ctx).unexpect d)
      else some (s1.deliverReply d (rawTok e.wire) src)
    | .withheld d => some ((s.taken n).unexpect d)
    | .elemReply [d] el fc w src => (s.taken n).deliverElem d el fc w src
    | _ => none
  | none => none

/-- TILE_RELEASE: a release reaches the tile's PE (R162). -/
def releaseEvent (n : Nat) (s : State) : Option State :=
  match s.msg? n with
  | some e => if !s.first n e then none else match e.body with
    | .release h => some ((s.taken n).dropRef h)
    | _ => none
  | none => none

/-! ### Granting a frame (R73 to R75) -/

/-- Granules of the frame of a block of n instructions (R73). -/
def granulesFor (n : Nat) : Nat := (64 + 32 * n + 255) / 256

/-- Live frames of a PE. -/
def State.framesAt (s : State) (pe : Nat) : List (Nat × Frame) := s.pe.frames.filter fun p => p.1 / 256 == pe

/-- The lowest free run of n granules (R73; which run is taken is DESIGN CHOICE, assumption log 30). -/
def State.freeRun (s : State) (pe n : Nat) : Option Nat :=
  let used := (s.framesAt pe).map fun p => (p.2.granule, p.2.ngran)
  leastBy id ((0 :: used.map fun u => u.1 + u.2).filter fun g => decide (g + n ≤ Config.frameGranules) && !used.any fun u => overlaps u (g, n))

/-- The id and granules a frame of a block would get (R73). -/
def State.framePlace (s : State) (pe : Nat) (g : Cfg) : Option (Nat × Nat) :=
  match lowestFree Config.framesPerPe ((s.framesAt pe).map fun p => p.1 % 256), s.freeRun pe (granulesFor g.code.length) with
  | some f, some r => some (f, r)
  | _, _ => none

/-- A queued activation is ready for a frame, but for FQUOTA and room: its block is loaded (R424), its context issues, its task waits for
no barrier (R291), and a task being killed opens iterations alone (R405). -/
def State.mayOpenBut (s : State) (pe : Nat) (a : Activation) : Bool :=
  a.pe == pe && a.cfg.isSome && !a.faulted && a.pendingFault.isNone && s.issuing a.ctx &&
    match s.task? pe a.task with
    | some t => t.barWait.isEmpty && (t.preempt != .killing || a.iter.isSome)
    | none => false

/-- FQUOTA binds a context on a PE (R75). -/
def State.quotaBinds (s : State) (c pe : Nat) : Bool := match s.ctx? c with | some x => decide (x.quota ≤ s.liveFrames c pe) | none => true

/-- The frame store has room for an activation's block. -/
def State.fits (s : State) (pe : Nat) (a : Activation) : Bool := match a.cfg with | some g => (s.framePlace pe g).isSome | none => false

/-- The activation a PE grants next (R74): an urgent one first, then the oldest that fits; one that has waited 2,048 cycles holds every
younger one back. -/
def State.nextGrant (s : State) (pe : Nat) : Option Activation :=
  let l := s.pe.queue.filter fun a => s.mayOpenBut pe a && !s.quotaBinds a.ctx pe
  match (l.filter fun a => s.isUrgent a.ctx).find? fun a => s.fits pe a with
  | some a => some a
  | none => match l.filter fun a => !s.isUrgent a.ctx with
    | [] => none
    | a :: t => if s.fits pe a then some a else if a.since + 2048 ≤ s.sched.cycle then none else t.find? fun b => s.fits pe b

/-- A frame is a loop parent's whose loop still has iterations to start; one that is queued has still to (R75; DEDUCED, assumption log 31). -/
def State.loopWaits (s : State) (p : Nat × Frame) : Bool :=
  let pe := p.1 / 256
  p.2.isOpen && match (s.task? pe p.2.task).bind fun t => t.loop with
    | some l => l.uid == p.2.uid && !l.fin &&
        (l.goes || s.pe.queue.any fun a => a.pe == pe && a.task == p.2.task && a.iter.isSome)
    | none => false

/-- A queued activation that could only wait for loop parents (R75). -/
def State.quotaStuck (s : State) (pe : Nat) (a : Activation) : Bool :=
  let all := s.framesAt pe
  let l := if s.quotaBinds a.ctx pe then all.filter fun p => p.2.ctx == a.ctx else all
  s.mayOpenBut pe a && (s.quotaBinds a.ctx pe || !s.fits pe a) && !l.isEmpty && l.all fun p => s.loopWaits p

/-- FRAME_QUOTA (R75): an iteration's is reported at its task's LOOP, any other's at the block's header; the activation stays queued. -/
def State.raiseQuota (s : State) (a : Activation) : State :=
  match a.iter, (s.task? a.pe a.task).bind fun t => t.loop with
  | some _, some l =>
    match s.frameOf a.pe l.frame l.uid with
    | some f => (s.mapQueue (fun b => b == a) fun b => { b with faulted := true }).raiseAt (srcOf (frameKey a.pe l.frame) f l.idx) { code := .frameQuota }
    | none => s.faultAct a (s.blockRecord a .frameQuota none 0)
  | _, _ => s.faultAct a (s.blockRecord a .frameQuota none 0)

/-! ### Opening a frame (R82, R83, R88, R96, R460) -/

/-- Nothing of the activation goes on until it is discarded. -/
def Frame.stopped (f : Frame) : Frame := { f with failed := true }

/-- The header of an activation as the source of what its read entries send. -/
def headSrc (k : Nat) (f : Frame) : Src := { srcOf k f 0 with idx := 0xFF, node := 0xFFFFFFFF }

/-- An activation that opened stops with a fault at its header: Frame is valid (R163, R460). -/
def State.stopOpen (s : State) (k : Nat) (f : Frame) (code : Code) : State :=
  let src := headSrc k f
  let s1 := s.modFrame k Frame.stopped
  s1.raise { s1.record src { code := code } with header := true }

/-- Read entries send their registers' values, to T0 and then to T1, each handle with a reference of its own (R83, R161); the fault of an
entry that cannot (R86, R163). -/
def State.sendReads (s : State) (src : Src) (val : Nat → Tok) : List ReadEntry → State × Option Code
  | [] => (s, none)
  | r :: t =>
    let ts := [r.t0, r.t1].filter (· != .none)
    let tok := val r.g
    match s.addRefs (List.replicate ts.length tok) with
    | none => (s, some .refcount)
    | some s1 =>
      let sent := ts.foldl (fun (p : State × Bool) g => match p.1.sendTo src g tok with
        | some s2 => (s2, p.2)
        | none => (p.1.dropTok src.pe tok, true)) (s1, false)
      if sent.2 then (sent.1, some .operand) else sent.1.sendReads src val t

/-- The fault of a BR or CALL that is checked as the frame opens, with its index (R88). -/
def State.openCheck (s : State) (pe c : Nat) (g : Cfg) (depth : Nat) : Option (Nat × Code) :=
  if !g.hasIrrevocable then none
  else
    let ok := fun (tgt : Nat) (ty : BlockTy) => s.checkBlock (dieOfPe pe) c g.addr tgt ty
    g.instrs.findSome? fun p => match p.2 with
      | .br _ w => if ok (branchTarget g.addr w) g.ty then none else some (p.1, Code.noncodeBlock)
      | .call _ w =>
        if !ok (branchTarget g.addr w) .code then some (p.1, .noncodeBlock)
        else if depth = 32 then some (p.1, .operand)
        else if (match s.nextBlock c g.addr with | some r => ok r .code | none => false) then none
        else some (p.1, .noncodeBlock)
      | _ => none

/-- The register a read entry delivers: of a loop body g0 is the iteration index (R83). -/
def Task.readValue (t : Task) (iter : Option Int) (g : Nat) : Tok :=
  match iter with
  | some j => if g = 0 then scalarTok (wordOfInt j) else t.reg g
  | none => t.reg g

/-- A read or write entry names a register at or above the task's count (R82). -/
def Cfg.badRegs (g : Cfg) (t : Task) : Bool := g.reads.any (fun r => decide (t.nregs ≤ r.g)) || g.writes.any fun w => decide (t.nregs ≤ w)

/-- What a frame does as it opens: the checks of R88, its read entries, and the carry of an iteration (R83, R96). -/
def State.begin (s : State) (k : Nat) (f : Frame) (t : Task) : State :=
  let pe := k / 256
  match s.openCheck pe f.ctx f.cfg t.stack.length with
  | some (idx, code) => (s.modFrame k Frame.stopped).raiseAt (srcOf k f idx) { code := code }
  | none =>
    match s.sendReads (headSrc k f) (t.readValue f.iter) f.cfg.reads with
    | (s1, some code) => s1.stopOpen k f code
    | (s1, none) =>
      match f.iter with
      | none => s1
      | some j => match s1.deliverCarry pe f.task j with
        | some s2 => s2
        | none => s1.stopOpen k f .refcount

/-- A breakpoint of a context applies to a block: its list with the count lowered, or none where the activation stops (R460). -/
def brkHit (l : List Brk) (addr : Nat) : Option (List Brk) :=
  match l.find? fun b => b.addr == addr with
  | none => some l
  | some b => if b.count = 0 then none else some (mapIf (fun (q : Brk) => q.addr == addr) (fun q => { q with count := q.count - 1 }) l)

/-- A frame as it is granted: instructions that require no operand are ready at once (R78). -/
def newFrame (a : Activation) (g : Cfg) (uid parent : Nat) (wide : Bool) (run now : Nat) : Frame :=
  { uid := uid, seq := uid, parent := parent, wide := wide, isOpen := true, ctx := a.ctx, task := a.task, cfg := g, iter := a.iter, slots := [], lost := [], stepped := [], stat := []
    ready := (g.instrs.filter fun p => p.2.required.isEmpty && !p.2.guarded).map (fun p => (p.1, now))
    since := (g.instrs.filter fun p => p.2.required.isEmpty).map (fun p => (p.1, now)), grace := [], fetched := [], outs := [], stores := [], satisfied := [], branch := none
    nullBranch := false, outstanding := 0, held := [], flags := 0, performed := false, looped := false, failed := false, granule := run, ngran := granulesFor g.code.length }

/-- An activation leaves the queue and opens (R76); the instruction that CTXRES mode 2 named resolves without effect (R420). -/
def State.openAct (s : State) (pe : Nat) (a : Activation) (g : Cfg) (x : Ctx) (t : Task) (id run : Nat) : State :=
  let skip := x.skip.filter fun k => k.pe == pe && k.task == a.task && k.block == a.addr && k.iter == a.iter
  let k := frameKey pe id
  let parent := match a.iter, t.loop with | some _, some l => l.uid | _, _ => 0
  let wide := a.iter.isSome && t.loop.any fun l => decide (1 < l.k)
  let f := newFrame a g s.sched.serial parent wide run s.sched.cycle
  let s0 := State.bump { s with pe := { s.pe with queue := s.pe.queue.erase a } }
  let s1 := (s0.modWin pe g.num fun w => { w with used := s.sched.cycle }).setTask pe a.task { t with yielded := false }
  let go := fun (s : State) =>
    let s2 := if skip.isSome then s.modCtx a.ctx fun y => { y with skip := none } else s
    let s3 := (s2.setFrame k f).begin k f t
    match skip, s3.frame? k with
    | some q, some f1 => (match f1.cfg.instr q.idx with
        | some i => s3.mismatch k q.idx i (f1.heldAt q.idx)
        | none => s3)
    | _, _ => s3
  if g.badRegs t then s.faultAct a (s.blockRecord a .operand none 0)
  else if skip.any fun q => q.idx == 0xFF then go s1
  else match brkHit x.breaks a.addr with
    | none => (s1.setFrame k f).stopOpen k f .breakpoint
    | some l => go (s1.modCtx a.ctx fun y => { y with breaks := l })

/-- FRAME_GRANT (R74): a PE grants a frame, or finds that none can ever be granted (R75). -/
def grantEvent (pe : Nat) (s : State) : Option State :=
  match s.nextGrant pe with
  | none => (s.pe.queue.find? fun a => s.quotaStuck pe a).map fun a => s.raiseQuota a
  | some a =>
    match a.cfg, s.ctx? a.ctx, s.task? pe a.task with
    | some g, some x, some t => (s.framePlace pe g).map fun p => s.openAct pe a g x t p.1 p.2
    | _, _, _ => none

/-- FRAME_FREE: a draining frame with no reply outstanding is freed (R76); a killed task whose last frame went is queued again (R405). -/
def freeEvent (pe f : Nat) (s : State) : Option State :=
  match s.frame? (frameKey pe f) with
  | none => none
  | some fr =>
    if fr.isOpen ∨ fr.outstanding ≠ 0 then none
    else some ((s.delFrame (frameKey pe f)).sweepStale.requeueKilled pe fr.task)

/-! ### The loop sequencer (R93) -/

/-- LOOP_ITERATION_START (R93): the sequencer queues the next iteration while fewer than k are live; a task has one activation queued at a
time (R74). -/
def iterStartEvent (pe t : Nat) (s : State) : Option State :=
  match s.task? pe t with
  | none => none
  | some tk =>
    match tk.loop with
    | none => none
    | some l =>
      if l.fin || l.paused.contains l.upcoming || !l.goes || decide (l.k ≤ l.started.length) || !s.issuing tk.ctx ||
          s.pe.queue.any fun a => a.pe == pe && a.task == t then none
      else
        let a := Activation.fresh pe tk.ctx t l.body s.sched.cycle (some l.upcoming)
        let s1 := s.modLoop pe t fun l => { l with next := l.upcoming + l.step, started := l.started ++ [l.upcoming] }
        some { s1 with pe := { s1.pe with queue := s1.pe.queue ++ [a] } }

/-- TOKEN_DELIVERY (R78). -/
def execTokenDelivery (n : Nat) (s : State) : Host.Outcome State Fault Refusal := event "TOKEN_DELIVERY" (tokenEvent n s)
/-- TOKEN_RESEND (R19). -/
def execTokenResend (n : Nat) (s : State) : Host.Outcome State Fault Refusal := event "TOKEN_RESEND" (resendEvent n s)
/-- TOKEN_PARITY (R19). -/
def execTokenParity (n : Nat) (s : State) : Host.Outcome State Fault Refusal := event "TOKEN_PARITY" (parityEvent n s)
/-- SPLIT_PHASE_REPLY (R77). -/
def execSplitPhaseReply (n : Nat) (s : State) : Host.Outcome State Fault Refusal := event "SPLIT_PHASE_REPLY" (replyEvent n s)
/-- TILE_RELEASE (R162). -/
def execTileRelease (n : Nat) (s : State) : Host.Outcome State Fault Refusal := event "TILE_RELEASE" (releaseEvent n s)
/-- FRAME_GRANT (R74). -/
def execFrameGrant (pe : Nat) (s : State) : Host.Outcome State Fault Refusal := event "FRAME_GRANT" (grantEvent pe s)
/-- FRAME_FREE (R76). -/
def execFrameFree (pe : Nat) (f : Nat) (s : State) : Host.Outcome State Fault Refusal := event "FRAME_FREE" (freeEvent pe f s)
/-- LOOP_ITERATION_START (R93). -/
def execLoopIterationStart (pe : Nat) (t : Nat) (s : State) : Host.Outcome State Fault Refusal := event "LOOP_ITERATION_START" (iterStartEvent pe t s)

end Sys2Proof.Machine
end

