-- ==== Sys2Proof/Machine/Commit.lean ====
section
/-! DEFINITION. Commit: its conditions, the release of stores, the g-file, the effects held for it, the branch, and the completion of a
loop (R84 to R86, R88, R91, R94 to R96, R112, R406). -/

namespace Sys2Proof.Machine

/-! ### The conditions (R84, R88, R90, R94, R291) -/

/-- Instructions that a commit waits for beyond the conditions of R84: BARINIT and BARARR (R291), and an irrevocable instruction or HCALL, whose
block stays Open while it has not issued (R90; DEDUCED, assumption log 32). Any other that has not resolved is cancelled. -/
def Instr.awaited (i : Instr) : Bool :=
  i.guarded || match i with
    | .barinit _ _ | .bararr _ _ | .syncall _ => true
    | _ => false

/-- An irrevocable instruction or HCALL has performed, or never will (R88, R90, R373, R415). -/
def Frame.performedAt (f : Frame) (idx : Nat) : Bool :=
  match f.stat.get? idx with
  | some .fired | some .mismatched | some (.parked (.host _)) => true
  | _ => false

/-- Every instruction that the commit waits for has resolved. -/
def Frame.instrsDone (f : Frame) : Bool :=
  f.cfg.instrs.all fun p =>
    (!p.2.branchClass || f.resolved p.1) && (!Instr.awaited p.2 || f.performedAt p.1)

/-- No instruction of the activation raised a fault. -/
def Frame.unfaulted (f : Frame) : Bool := !f.failed && f.stat.all fun p => p.2 != .faulted

/-- Conditions 1 to 3 of R84. -/
def Frame.satisfiedAll (f : Frame) : Bool :=
  (maskBits 32 f.cfg.storeMask.toNat).all (fun l => f.satisfied.contains l) &&
    (List.range f.cfg.writes.length).all (fun e => (f.outs.get? e).isSome) && f.branch.isSome

/-- Every held store's address has passed translation, and no list of its scatters is still on its way (R88, R227, R246). -/
def State.storesReady (s : State) (f : Frame) : Bool :=
  (f.stores.all StoreRec.passed) &&
    !(s.mem.accesses.any fun p => p.2.src.uid == f.uid && (match p.2.purpose with | .check _ | .scatter _ _ _ => true | _ => false))

/-- Condition 4 of R84: a loop of the block has completed. -/
def State.loopDone (s : State) (k : Nat) (f : Frame) : Bool :=
  match f.cfg.loopIdx with
  | some n => s.loopOver (k / 256) f n
  | none => true

/-- Iterations commit in the order they start (R94). -/
def State.inTurn (s : State) (k : Nat) (f : Frame) : Bool :=
  match f.iter, (s.task? (k / 256) f.task).bind fun t => t.loop with
  | some j, some l => j == l.first + l.committed * l.step
  | some _, none => false
  | none, _ => true

/-- An effect that releases (R253): its commit waits for what precedes it (R255). -/
def Effect.releases : Effect → Bool
  | .bararr _ _ _ _ _ _ => true
  | .jdec _ _ _ => true
  | _ => false

/-- What a release among the effects of an activation waits for is performed. -/
def State.releasesReady (s : State) (k : Nat) (f : Frame) : Bool := !(f.held.any Effect.releases) || !s.before (headSrc k f) 0xFF

/-- The checkpoint that an activation's commit makes, if one was requested (R406): a CKPT whose branch is no TEND. -/
def State.ckptDue (s : State) (k : Nat) (f : Frame) : Option (Task × Nat × Nat) :=
  match s.task? (k / 256) f.task, s.ctx? f.ctx with
  | some t, some x =>
    match f.branch with
    | some (.goto tgt) | some (.call tgt _) | some (.ret tgt) =>
      if f.held.contains .ckpt && t.ckptReq && x.regs.timg != 0 then some (t, imageVa x.regs.timg (k / 256) f.task, tgt) else none
    | _ => none
  | _, _ => none

/-- Step 1 of R406: every copy that the task posted has completed, and every store and atomic of the task has been performed. -/
def State.ckptReady (s : State) (k : Nat) (f : Frame) (t : Task) : Bool :=
  let mine := fun (a : Src) => a.ctx == f.ctx && a.pe == k / 256 && a.task == f.task
  !(s.copies.any fun p => p.2.poster == t.num) &&
    !(s.mem.accesses.any fun p => p.2.write && mine p.2.src && decide (p.2.stream < 8)) &&
    !(s.sync.reqs.any fun p => mine p.2.src && decide (p.2.stream < 8)) &&
    !(s.net.any fun p => match Msg.objectStore p.2.body with | some (a, _) => mine a | none => false)

/-- The activation may commit now. -/
def State.committable (s : State) (k : Nat) (f : Frame) : Bool :=
  f.isOpen && s.issuing f.ctx && f.unfaulted && f.satisfiedAll && f.instrsDone && s.storesReady f && s.loopDone k f && s.inTurn k f &&
    s.releasesReady k f &&
    match s.ckptDue k f with
    | some (t, _, _) => s.ckptReady k f t
    | none => true

/-! ### Stores (R84, R236, R242) -/

/-- One held store is released to its homes. -/
def State.releaseStore (s : State) (k : Nat) (f : Frame) (r : StoreRec) : State :=
  match r.data with
  | none => s
  | some d =>
    if r.dropped then s
    else s.addAccess { src := srcOf k f r.idx, stream := r.stream, lsid := r.lsid, write := true, released := true, cells := r.cells, buf := d
                       pieces := piecesOf r.phys, dests := [], extra := [], purpose := .store r.holder, state := .active, refused := r.refused
                       step := none, issued := s.sched.serial, prior := [], fwd := [] }

/-- The record of a BARINIT is written after the stores of its block, on stream 0 (R291). -/
def State.releaseBarinit (s : State) (k : Nat) (f : Frame) (e : Effect) : State :=
  match e with
  | .barinit va pa level n =>
    s.addAccess { src := headSrc k f, stream := 0, lsid := 32, write := true, released := true, cells := extent va 64
                  buf := s.barRecord (k / 256) level n, pieces := piecesOf (extent (plainKey pa) 64), dests := [], extra := [], purpose := .barinit
                  state := .active, refused := if isRefused pa then [plainKey pa / 65536] else [], step := none, issued := s.sched.serial, prior := [], fwd := [] }
  | _ => s

/-- A load of a block that commits before the load issued keeps what it takes from the block's stores (R237). -/
def State.leaveStores (s : State) (f : Frame) : State :=
  { s with mem := { s.mem with accesses := s.mem.accesses.map fun p =>
      if p.2.src.uid = f.uid ∧ !p.2.write ∧ !p.2.released then (p.1, { p.2 with fwd := f.stores }) else p } }

/-- The stores of an activation, in LSID order (R84). -/
def State.releaseStores (s : State) (k : Nat) (f : Frame) : State :=
  let s1 := (sortBy (fun (r : StoreRec) => r.lsid) f.stores).foldl (fun s r => s.releaseStore k f r) (s.leaveStores f)
  f.held.foldl (fun s e => s.releaseBarinit k f e) s1

/-! ### The g-file (R82, R84) -/

/-- One write entry: a null leaves the register, any other token replaces it, and the reference overwritten is released. -/
def State.writeReg (s : State) (pe task g : Nat) (t : Tok) : State :=
  if t.kind = .null then s
  else match s.task? pe task with
    | none => s.dropTok pe t
    | some tk =>
      if g = 0 then s.dropTok pe t
      else (s.setTask pe task { tk with regs := setAt g t tk.regs }).dropTok pe (tk.reg g)

/-- The write entries of an activation. -/
def State.writeRegs (s : State) (k : Nat) (f : Frame) : State :=
  (f.cfg.writes.zipIdx).foldl (fun s p => match f.outs.get? p.2 with
    | some t => s.writeReg (k / 256) f.task p.1 t
    | none => s) s

/-! ### Effects held for the commit -/

/-- What an activation did to a ring of its PE takes effect (R197): head passes the entries it marked and tail those it pushed; a ring it unbound
is free (R216). -/
def State.commitRing (s : State) (pe uid : Nat) (q : Nat) : State :=
  let r := s.ring pe q
  let popped := ((List.range r.complete.length).map fun i => (r.head + i) % 2 ^ 32).filter fun n => r.marks.contains (uid, n)
  let pops := popped.length
  let mine := r.pushed.filter fun p => p.1 == uid
  if pops = 0 ∧ mine.isEmpty ∧ !(r.undo.any fun u => u.1 == uid) then s
  else
    let r0 := r.without uid
    let r1 : Ring := { r0 with head := (r.head + pops) % 2 ^ 32, complete := r.complete.drop pops, ready := r.ready ++ mine.map Prod.snd
                               marks := r0.marks.filter fun m => !popped.contains m.2, undo := r.undo.filter fun u => u.1 != uid }
    let s1 := s.setRing pe q (Ring.advance 16 r1)
    if pops = 0 then s1 else s1.tellHeads pe q

/-- An effect that an instruction left for the commit of its activation. A write of a format channel or system register is seen by every task and every
later iteration from the commit on, whatever fence or stream barrier on stream 0 is pending: R140 leaves open when those that have not synchronised
see it (DESIGN CHOICE, assumption log 101). A TRESCALE whose sum clamps only now, because another was performed since it fired, sets no flag: R155 does
not say that it does (DESIGN CHOICE, assumption log 102). -/
def State.commitEffect (s : State) (k : Nat) (f : Frame) (e : Effect) : State :=
  let pe := k / 256
  match e with
  | .fcset ch img => s.modCtx f.ctx fun x => { x with fc := setAt ch (img.truncate 16) x.fc }
  | .trescale ch d => s.modCtx f.ctx fun x => { x with fc := setAt ch (rescaled (x.chan ch) d).1 x.fc }
  | .srw n v => s.commitSrw f.ctx n v
  | .remest w => s.commitRemest pe f.task w
  | .fence _ _ _ _ => s
  | .sbar _ _ => s
  | .barinit _ _ _ _ => s
  | .bararr va pa level nw src step => s.commitBararr va pa level nw src step
  | .jnew va runs n src => s.commitJoin va runs (some n) src
  | .jdec va runs src => s.commitJoin va runs none src
  | .fnew va runs src => s.commitFnew va runs src
  | .chopen ch => s.commitChopen ch
  | .chclose ch va mode src => s.commitChclose ch va mode src
  | .acbind id => s.commitAcbind id
  | .acfree id => s.commitAcfree f.ctx id
  | .ctx op pa src => s.commitCtx op pa src
  | .pwrhint w => s.modCtx f.ctx fun x => { x with hint := w }
  | .ckpt => s.modTask pe f.task fun t => { t with steps := t.steps + 1 }
  | .objload n graph src => s.commitObjload n graph src
  | .ringCfg _ _ => s

/-- The fences and stream barriers of an activation become pending (R261, R262), after every access of the activation (R249). Revision 0 adds a
barrier from all streams to all, and the masks of the others mean nothing (R251). -/
def State.commitHolds (s : State) (k : Nat) (f : Frame) : State :=
  let src := headSrc k f
  let pend := s.mem.holds
  let all := match s.ctx? f.ctx with | some x => x.regs.mmrev == 0 | none => false
  if all then s.commitSbar pend src 0xFF 0xFF
  else f.held.foldl (fun s e => match e with
    | .fence _ streams acq rel => s.commitFence pend src streams acq rel
    | .sbar from_ to_ => s.commitSbar pend src from_ to_
    | _ => s) s

/-- Everything an activation held (R84, R112, R189, R197). -/
def State.commitHeld (s : State) (k : Nat) (f : Frame) : State :=
  let pe := k / 256
  let s0 := f.held.foldl (fun s e => s.commitEffect k f e) s
  let s1 := s0.commitHolds k f
  let s2 := (List.range 8).foldl (fun s q => s.commitRing pe f.uid q) s1
  (s2.keepAccs pe f.uid).modCtx f.ctx fun x =>
    { x with regs := { x.regs with status := x.regs.status ||| f.flags }, wdCount := (wdogValue x.regs.wdog).toNat }

/-! ### Loops (R94 to R96) -/

/-- The final carried value (R96): what the last committed iteration's CARRY sent, null where it sent none, resolved or cancelled
(DEDUCED, assumption log 108), and g[cin] where the body has no CARRY. -/
def Loop.final (l : Loop) (last : Int) (carries : Bool) : Tok :=
  if !carries then l.carry
  else match l.carries.find? fun p => p.1 == last with
    | some p => p.2
    | none => nullTok

/-- The tokens the sequencer holds a reference of (R81). -/
def Loop.tokens (l : Loop) : List Tok :=
  (if l.sent.contains l.first then [] else [l.carry]) ++ (l.carries.filter fun p => !l.sent.contains (p.1 + l.step)).map Prod.snd

/-- LOOP sends its tokens as the loop completes (R95): the count to T0 and the final carry to T1, whose reference moves. -/
def State.finishLoop (s : State) (pe t : Nat) (l : Loop) (last : Int) (carries : Bool) : State :=
  match s.frameOf pe l.frame l.uid with
  | none => s
  | some p =>
    let k := frameKey pe l.frame
    let src := srcOf k p l.idx
    let h := match p.cfg.instr l.idx with | some i => i.hdr | none => { pr := .always, t1 := .none, t0 := .none }
    let out := l.final last carries
    let s1 := s.modLoop pe t fun q => { q with fin := true, carries := [], sent := [q.first] }
    match s1.settle pe l.tokens (if h.t1 = .none then [] else [out].filter fun q => q.kind == .tile) with
    | none => s1.raiseAt src { code := .refcount }
    | some s2 => match s2.sendTo src h.t0 (scalarTok (wordOf l.committed)) with
      | none => s2.raiseAt src { code := .operand }
      | some s3 => (s3.sendTo src h.t1 out).getD (s3.raiseAt src { code := .operand })

/-- An iteration has committed (R94, R95): with none left to start and none live, the loop completes. -/
def State.commitIter (s : State) (k : Nat) (f : Frame) (j : Int) : State :=
  let pe := k / 256
  let s1 := s.modLoop pe f.task fun l => { l with started := l.started.filter fun i => i != j, committed := l.committed + 1 }
  match (s1.task? pe f.task).bind fun t => t.loop with
  | none => s1
  | some l =>
    if l.started.isEmpty && !l.goes then s1.finishLoop pe f.task l j f.cfg.carryTargets.isSome else s1

/-! ### The next activation (R84, R91, R357, R405) -/

/-- The task's next block is queued (R74). -/
def State.queueBlock (s : State) (pe task c addr : Nat) : State :=
  { s with pe := { s.pe with queue := s.pe.queue ++ [Activation.fresh pe c task addr s.sched.cycle none] } }

/-- The effect of the branch that fired: the push or pop, and the next activation; a task being killed starts none (R405). -/
def State.startNext (s : State) (k : Nat) (f : Frame) : State :=
  let pe := k / 256
  match s.task? pe f.task with
  | none => s
  | some t =>
    if t.preempt = .killing then s
    else match f.branch with
      | some (.goto tgt) => s.queueBlock pe f.task f.ctx tgt
      | some (.call tgt r) => (s.setTask pe f.task { t with stack := r :: t.stack }).queueBlock pe f.task f.ctx tgt
      | some (.ret tgt) => (s.setTask pe f.task { t with stack := t.stack.drop 1 }).queueBlock pe f.task f.ctx tgt
      | some (.tend i) => s.setTask pe f.task { t with ending := some (srcOf k f i) }
      | _ => s

/-- What follows a commit: the checkpoint of R406, the loop's bookkeeping, or the next activation; a loop that completed is over with
its parent. -/
def State.afterCommit (s : State) (k : Nat) (f : Frame) (ckpt : Option (Nat × List (Nat × Nat))) : State :=
  let pe := k / 256
  match ckpt with
  | some (code, ks) => s.checkpoint pe f.task code ks
  | none => match f.iter with
    | some j => s.commitIter k f j
    | none =>
      let done := match (s.task? pe f.task).bind fun t => t.loop with | some l => l.uid == f.uid | none => false
      (if done then s.dropLoop pe f.task else s).startNext k f

/-- The commit (R84). -/
def State.commit (s : State) (k : Nat) (f : Frame) (ckpt : Option (Nat × List (Nat × Nat))) : State :=
  let pe := k / 256
  let s1 := s.releaseStores k f
  let s2 := s1.writeRegs k f
  let s3 := (s2.setFrame k { f with isOpen := false, slots := [], lost := [], outs := [], stores := [], held := [] }).dropToks pe f.parkedToks
  let s4 := (s3.commitHeld k f).active f.ctx
  let p := s4.pctx f.ctx pe
  let s5 := s4.setPctx f.ctx pe { p with commits := p.commits + 1 }
  (s5.afterCommit k f ckpt).sweepHolds.sweepStale

/-- BLOCK_COMMIT (R84): where a checkpoint is due and its image cannot be written, the CKPT raises the fault (R225, R406). -/
def commitEvent (pe fid : Nat) (s : State) : Option State :=
  let k := frameKey pe fid
  match s.frame? k with
  | none => none
  | some f =>
    if !s.committable k f then none
    else match s.ckptDue k f with
      | none => some (s.commit k f none)
      | some (_, va, code) =>
        match s.imageRuns f.ctx va with
        | .ok ks => some (s.commit k f (some (code, ks)))
        | .error c =>
          let idx := ((f.cfg.instrs.find? fun p => isCkpt p.2).map Prod.fst).getD 0
          some ((s.setStat k idx .faulted).raiseAt (srcOf k f idx) { code := c, detail := wordOf va })

/-- BLOCK_COMMIT (R84). -/
def execBlockCommit (pe : Nat) (f : Nat) (s : State) : Host.Outcome State Fault Refusal := event "BLOCK_COMMIT" (commitEvent pe f s)

end Sys2Proof.Machine
end

