-- ==== Sys2Proof/Machine/Tick.lean ====
section
/-! DEFINITION. The passage of time: CYCLE, quiescence and the watchdog's count (R401, R402), silence (R307), cycle counts (R452), and how
long quads have been idle or blocked (R364, R403). -/

namespace Sys2Proof.Machine

/-! ### Quiescence (R376, R401) -/

/-- The contexts a message works for. -/
def Msg.ctxs (m : Msg) : List Nat :=
  match m with
  | .barArrive _ _ l _ | .barRelease _ _ l => l.map fun a => a.src.ctx
  | .inval _ _ c _ => [c]
  | _ => m.owner.toList.map fun src => src.ctx

/-- A frame holds a token that is ready, or an instruction that waits for a resource or has been issued and is no registered wait (R401). -/
def Frame.busy (f : Frame) : Bool :=
  (f.stat.any fun p => match p.2 with | .waiting _ => true | .parked w => !w.registered | _ => false) ||
    f.cfg.instrs.any fun p => (f.stat.get? p.1).isNone && f.present p.1 p.2 && (!p.2.guarded || f.settled p.1)

/-- An Open frame is parked (R401). -/
def State.frameParked (s : State) (k : Nat) (f : Frame) : Bool :=
  s.parkedIn f != 0 ||
    (match (s.task? (k / 256) f.task).bind fun t => t.loop with
      | some l => l.uid == f.uid && !l.started.isEmpty
      | none => false) ||
    (f.iter.isSome && f.unfaulted && f.satisfiedAll && f.instrsDone && s.storesReady f && !s.inTurn k f)

/-- A task has something that goes on: an activation, or its wait at a barrier (R401). -/
def State.taskParked (s : State) (k : Nat) (t : Task) : Bool :=
  t.ending.isNone && (!t.barWait.isEmpty || s.pe.frames.any (fun p => p.1 / 256 == k / 16 && p.2.task == k % 16 && p.2.isOpen) ||
    s.pe.queue.any fun a => a.pe == k / 16 && a.task == k % 16)

/-- A context is quiescent (R401). -/
def State.quiescent (s : State) (c : Nat) : Bool :=
  (s.pe.frames.all fun p => p.2.ctx != c || !p.2.isOpen || (!p.2.busy && s.frameParked p.1 p.2)) &&
    (s.pe.tasks.all fun p => p.2.ctx != c || s.taskParked p.1 p.2) && (s.pe.queue.all fun a => a.ctx != c || a.cfg.isSome) &&
    !(s.net.any fun p => (Msg.ctxs p.2.body).contains c) && !(s.mem.accesses.any fun p => !p.2.purpose.traces && p.2.src.ctx == c) &&
    !(s.sync.reqs.any fun p => !p.2.purpose.traces && p.2.src.ctx == c) && !(s.copies.any fun p => p.2.src.ctx == c) &&
    !(s.sync.counters.any fun p => p.2.ctx == c && p.2.firing != 0) && !(s.task.waiting.any fun w => w.ctx == c) &&
    !(s.task.deps.any fun p => p.2.ctx == c && p.2.ended) && !(s.kiln.jobs.any fun p => p.2.src.ctx == c)

/-! ### Clocks -/

/-- The watchdog's count of a context over n cycles (R402). -/
def Ctx.watch (x : Ctx) (quiet : Bool) (n : Nat) : Nat :=
  if quiet then (wdogValue x.regs.wdog).toNat else if x.state = .running then x.wdCount - n else x.wdCount

/-- The clocks of the contexts over n cycles (R307, R402). -/
def State.clockCtxs (s : State) (n : Nat) : State :=
  { s with ctxs := s.ctxs.map fun p => (p.1, { p.2 with wdCount := p.2.watch (s.quiescent p.1) n
                                                        silence := if p.2.state.issues then p.2.silence + n else p.2.silence }) }

/-- Quads with a task, a queued record or a live frame (R364). -/
def State.busyQuads (s : State) : List Nat :=
  (s.pe.frames.map (fun p => quadOfPe (p.1 / 256)) ++ s.pe.tasks.map (fun p => quadOfPe (p.1 / 16)) ++ s.task.queues.map fun e => e.quad).eraseDups

/-- Quads in use over n cycles are not idle (R364). -/
def State.clockQuads (s : State) (n : Nat) : State :=
  s.busyQuads.foldl (fun s q => { s with task := { s.task with power := s.task.power.put q { s.quadPower q with idleSince := s.sched.cycle + n } } }) s

/-- How long each queued record has found no task slot (R403); a record that has gone keeps no slot. -/
def State.clockBlocked (s : State) : State :=
  let l := (s.task.queues.filter s.starved).map fun e => (e.num, s.task.blockedSince.getD e.num s.sched.cycle)
  { s with task := { s.task with blockedSince := l, victim := s.task.victim.filter fun p => s.task.queues.any fun e => e.num == p.2.2 } }

/-- n cycles pass. -/
def State.tick (s : State) (n : Nat) : State :=
  let s1 := (((s.countCycles n).clockCtxs n).clockQuads n).clockBlocked
  { s1 with sched := { s1.sched with cycle := s1.sched.cycle + n } }

end Sys2Proof.Machine
end

