-- ==== Sys2Proof/Machine/Dispatch.lean ====
section
/-! DEFINITION. One arm for each constructor of Instr: a direct call of its meaning. -/

namespace Sys2Proof.Machine

/-- The meaning of an instruction or event. -/
def exec (i : Instr) (s : State) : Host.Outcome State Fault Refusal :=
  match i with
  | .mov h => Sys2Proof.Machine.execMov h s
  | .const_ h w => Sys2Proof.Machine.execConst h w s
  | .constZx h w => Sys2Proof.Machine.execConstZx h w s
  | .consth h w => Sys2Proof.Machine.execConsth h w s
  | .null_ h => Sys2Proof.Machine.execNull h s
  | .sel h => Sys2Proof.Machine.execSel h s
  | .gate h => Sys2Proof.Machine.execGate h s
  | .br h w => Sys2Proof.Machine.execBr h w s
  | .bri h => Sys2Proof.Machine.execBri h s
  | .call h w => Sys2Proof.Machine.execCall h w s
  | .calli h => Sys2Proof.Machine.execCalli h s
  | .ret h => Sys2Proof.Machine.execRet h s
  | .loop h w => Sys2Proof.Machine.execLoop h w s
  | .iter h => Sys2Proof.Machine.execIter h s
  | .carry h => Sys2Proof.Machine.execCarry h s
  | .lbreak h => Sys2Proof.Machine.execLbreak h s
  | .add h => Sys2Proof.Machine.execAdd h s
  | .addImm h w => Sys2Proof.Machine.execAddImm h w s
  | .sub h => Sys2Proof.Machine.execSub h s
  | .subImm h w => Sys2Proof.Machine.execSubImm h w s
  | .and_ h => Sys2Proof.Machine.execAnd h s
  | .andImm h w => Sys2Proof.Machine.execAndImm h w s
  | .or_ h => Sys2Proof.Machine.execOr h s
  | .orImm h w => Sys2Proof.Machine.execOrImm h w s
  | .xor_ h => Sys2Proof.Machine.execXor h s
  | .xorImm h w => Sys2Proof.Machine.execXorImm h w s
  | .shl h => Sys2Proof.Machine.execShl h s
  | .shlImm h w => Sys2Proof.Machine.execShlImm h w s
  | .shr h => Sys2Proof.Machine.execShr h s
  | .shrImm h w => Sys2Proof.Machine.execShrImm h w s
  | .sar h => Sys2Proof.Machine.execSar h s
  | .sarImm h w => Sys2Proof.Machine.execSarImm h w s
  | .min_ h => Sys2Proof.Machine.execMin h s
  | .minImm h w => Sys2Proof.Machine.execMinImm h w s
  | .max_ h => Sys2Proof.Machine.execMax h s
  | .maxImm h w => Sys2Proof.Machine.execMaxImm h w s
  | .minu h => Sys2Proof.Machine.execMinu h s
  | .minuImm h w => Sys2Proof.Machine.execMinuImm h w s
  | .maxu h => Sys2Proof.Machine.execMaxu h s
  | .maxuImm h w => Sys2Proof.Machine.execMaxuImm h w s
  | .rotl h => Sys2Proof.Machine.execRotl h s
  | .rotlImm h w => Sys2Proof.Machine.execRotlImm h w s
  | .andn h => Sys2Proof.Machine.execAndn h s
  | .andnImm h w => Sys2Proof.Machine.execAndnImm h w s
  | .orn h => Sys2Proof.Machine.execOrn h s
  | .ornImm h w => Sys2Proof.Machine.execOrnImm h w s
  | .xnor h => Sys2Proof.Machine.execXnor h s
  | .xnorImm h w => Sys2Proof.Machine.execXnorImm h w s
  | .mul h => Sys2Proof.Machine.execMul h s
  | .mulImm h w => Sys2Proof.Machine.execMulImm h w s
  | .mulh h => Sys2Proof.Machine.execMulh h s
  | .mulhImm h w => Sys2Proof.Machine.execMulhImm h w s
  | .mulhu h => Sys2Proof.Machine.execMulhu h s
  | .mulhuImm h w => Sys2Proof.Machine.execMulhuImm h w s
  | .div h => Sys2Proof.Machine.execDiv h s
  | .divImm h w => Sys2Proof.Machine.execDivImm h w s
  | .divu h => Sys2Proof.Machine.execDivu h s
  | .divuImm h w => Sys2Proof.Machine.execDivuImm h w s
  | .rem_ h => Sys2Proof.Machine.execRem h s
  | .remImm h w => Sys2Proof.Machine.execRemImm h w s
  | .remu h => Sys2Proof.Machine.execRemu h s
  | .remuImm h w => Sys2Proof.Machine.execRemuImm h w s
  | .clz h => Sys2Proof.Machine.execClz h s
  | .ctz h => Sys2Proof.Machine.execCtz h s
  | .popc h => Sys2Proof.Machine.execPopc h s
  | .sext h => Sys2Proof.Machine.execSext h s
  | .zext h => Sys2Proof.Machine.execZext h s
  | .neg h => Sys2Proof.Machine.execNeg h s
  | .not_ h => Sys2Proof.Machine.execNot h s
  | .abs_ h => Sys2Proof.Machine.execAbs h s
  | .cmp h cc => Sys2Proof.Machine.execCmp h cc s
  | .cmpImm h cc w => Sys2Proof.Machine.execCmpImm h cc w s
  | .lea h => Sys2Proof.Machine.execLea h s
  | .leaImm h w => Sys2Proof.Machine.execLeaImm h w s
  | .bfx h w => Sys2Proof.Machine.execBfx h w s
  | .bfi h w => Sys2Proof.Machine.execBfi h w s
  | .faddS h => Sys2Proof.Machine.execFaddS h s
  | .fsubS h => Sys2Proof.Machine.execFsubS h s
  | .fmulS h => Sys2Proof.Machine.execFmulS h s
  | .fdivS h => Sys2Proof.Machine.execFdivS h s
  | .fminS h => Sys2Proof.Machine.execFminS h s
  | .fmaxS h => Sys2Proof.Machine.execFmaxS h s
  | .fsqrtS h => Sys2Proof.Machine.execFsqrtS h s
  | .fabsS h => Sys2Proof.Machine.execFabsS h s
  | .fnegS h => Sys2Proof.Machine.execFnegS h s
  | .fcmpeqS h => Sys2Proof.Machine.execFcmpeqS h s
  | .fcmpltS h => Sys2Proof.Machine.execFcmpltS h s
  | .fcmpleS h => Sys2Proof.Machine.execFcmpleS h s
  | .fcmpunS h => Sys2Proof.Machine.execFcmpunS h s
  | .ffmaS h => Sys2Proof.Machine.execFfmaS h s
  | .faddD h => Sys2Proof.Machine.execFaddD h s
  | .fsubD h => Sys2Proof.Machine.execFsubD h s
  | .fmulD h => Sys2Proof.Machine.execFmulD h s
  | .fdivD h => Sys2Proof.Machine.execFdivD h s
  | .fminD h => Sys2Proof.Machine.execFminD h s
  | .fmaxD h => Sys2Proof.Machine.execFmaxD h s
  | .fsqrtD h => Sys2Proof.Machine.execFsqrtD h s
  | .fabsD h => Sys2Proof.Machine.execFabsD h s
  | .fnegD h => Sys2Proof.Machine.execFnegD h s
  | .fcmpeqD h => Sys2Proof.Machine.execFcmpeqD h s
  | .fcmpltD h => Sys2Proof.Machine.execFcmpltD h s
  | .fcmpleD h => Sys2Proof.Machine.execFcmpleD h s
  | .fcmpunD h => Sys2Proof.Machine.execFcmpunD h s
  | .ffmaD h => Sys2Proof.Machine.execFfmaD h s
  | .cvt h k w => Sys2Proof.Machine.execCvt h k w s
  | .tcvt h w => Sys2Proof.Machine.execTcvt h w s
  | .fcset h w => Sys2Proof.Machine.execFcset h w s
  | .fcget h w => Sys2Proof.Machine.execFcget h w s
  | .tamax h => Sys2Proof.Machine.execTamax h s
  | .trescale h => Sys2Proof.Machine.execTrescale h s
  | .tadd h => Sys2Proof.Machine.execTadd h s
  | .tsub h => Sys2Proof.Machine.execTsub h s
  | .tmul h => Sys2Proof.Machine.execTmul h s
  | .tmax h => Sys2Proof.Machine.execTmax h s
  | .tmin h => Sys2Proof.Machine.execTmin h s
  | .tdiv h => Sys2Proof.Machine.execTdiv h s
  | .tand h => Sys2Proof.Machine.execTand h s
  | .tor h => Sys2Proof.Machine.execTor h s
  | .txor h => Sys2Proof.Machine.execTxor h s
  | .tneg h => Sys2Proof.Machine.execTneg h s
  | .tabs h => Sys2Proof.Machine.execTabs h s
  | .texp h => Sys2Proof.Machine.execTexp h s
  | .tlog h => Sys2Proof.Machine.execTlog h s
  | .trsqrt h => Sys2Proof.Machine.execTrsqrt h s
  | .trecip h => Sys2Proof.Machine.execTrecip h s
  | .ttanh h => Sys2Proof.Machine.execTtanh h s
  | .tsigm h => Sys2Proof.Machine.execTsigm h s
  | .tgelu h => Sys2Proof.Machine.execTgelu h s
  | .tfma h => Sys2Proof.Machine.execTfma h s
  | .tsplat h => Sys2Proof.Machine.execTsplat h s
  | .trowb h => Sys2Proof.Machine.execTrowb h s
  | .tcolb h => Sys2Proof.Machine.execTcolb h s
  | .trsum h => Sys2Proof.Machine.execTrsum h s
  | .tcsum h => Sys2Proof.Machine.execTcsum h s
  | .trmax h => Sys2Proof.Machine.execTrmax h s
  | .tcmax h => Sys2Proof.Machine.execTcmax h s
  | .tsum h => Sys2Proof.Machine.execTsum h s
  | .ttrans h => Sys2Proof.Machine.execTtrans h s
  | .tmask h => Sys2Proof.Machine.execTmask h s
  | .tcmp h cc => Sys2Proof.Machine.execTcmp h cc s
  | .tsel h => Sys2Proof.Machine.execTsel h s
  | .telget h => Sys2Proof.Machine.execTelget h s
  | .telset h => Sys2Proof.Machine.execTelset h s
  | .tnew h w => Sys2Proof.Machine.execTnew h w s
  | .trel h => Sys2Proof.Machine.execTrel h s
  | .tcopy h => Sys2Proof.Machine.execTcopy h s
  | .mma h x => Sys2Proof.Machine.execMma h x s
  | .mmar h x => Sys2Proof.Machine.execMmar h x s
  | .zinit h w => Sys2Proof.Machine.execZinit h w s
  | .zclrf h w => Sys2Proof.Machine.execZclrf h w s
  | .zflags h w => Sys2Proof.Machine.execZflags h w s
  | .zscale h w => Sys2Proof.Machine.execZscale h w s
  | .zload h w => Sys2Proof.Machine.execZload h w s
  | .zdrain h z w => Sys2Proof.Machine.execZdrain h z w s
  | .tmac h x w => Sys2Proof.Machine.execTmac h x w s
  | .rcfg h w => Sys2Proof.Machine.execRcfg h w s
  | .rpush h w => Sys2Proof.Machine.execRpush h w s
  | .rpop h w => Sys2Proof.Machine.execRpop h w s
  | .rstat h w => Sys2Proof.Machine.execRstat h w s
  | .epload h w => Sys2Proof.Machine.execEpload h w s
  | .eparg h w => Sys2Proof.Machine.execEparg h w s
  | .ld h x w => Sys2Proof.Machine.execLd h x w s
  | .ldr h x w => Sys2Proof.Machine.execLdr h x w s
  | .st h x w => Sys2Proof.Machine.execSt h x w s
  | .ldpair h x w => Sys2Proof.Machine.execLdpair h x w s
  | .tld h w => Sys2Proof.Machine.execTld h w s
  | .tldr h w => Sys2Proof.Machine.execTldr h w s
  | .tst h w => Sys2Proof.Machine.execTst h w s
  | .tgath h w => Sys2Proof.Machine.execTgath h w s
  | .tscat h w => Sys2Proof.Machine.execTscat h w s
  | .fence h sc => Sys2Proof.Machine.execFence h sc s
  | .fenceWord h sc w => Sys2Proof.Machine.execFenceWord h sc w s
  | .sbar h w => Sys2Proof.Machine.execSbar h w s
  | .tlwait h tl => Sys2Proof.Machine.execTlwait h tl s
  | .tlread h tl => Sys2Proof.Machine.execTlread h tl s
  | .atom h op w => Sys2Proof.Machine.execAtom h op w s
  | .atomn h op w => Sys2Proof.Machine.execAtomn h op w s
  | .acbind h => Sys2Proof.Machine.execAcbind h s
  | .acexpect h => Sys2Proof.Machine.execAcexpect h s
  | .acread h => Sys2Proof.Machine.execAcread h s
  | .acfree h => Sys2Proof.Machine.execAcfree h s
  | .barinit h w => Sys2Proof.Machine.execBarinit h w s
  | .bararr h w => Sys2Proof.Machine.execBararr h w s
  | .bartry h w => Sys2Proof.Machine.execBartry h w s
  | .syncall h => Sys2Proof.Machine.execSyncall h s
  | .chopen h w => Sys2Proof.Machine.execChopen h w s
  | .chclose h => Sys2Proof.Machine.execChclose h s
  | .chstat h => Sys2Proof.Machine.execChstat h s
  | .chsend h => Sys2Proof.Machine.execChsend h s
  | .chtrys h => Sys2Proof.Machine.execChtrys h s
  | .chrecv h => Sys2Proof.Machine.execChrecv h s
  | .chtryr h => Sys2Proof.Machine.execChtryr h s
  | .cpy h => Sys2Proof.Machine.execCpy h s
  | .cpy1 h w => Sys2Proof.Machine.execCpy1 h w s
  | .cpyr h w => Sys2Proof.Machine.execCpyr h w s
  | .cpqpost h => Sys2Proof.Machine.execCpqpost h s
  | .cpstat h => Sys2Proof.Machine.execCpstat h s
  | .spawn h x => Sys2Proof.Machine.execSpawn h x s
  | .spawnd h x => Sys2Proof.Machine.execSpawnd h x s
  | .jnew h => Sys2Proof.Machine.execJnew h s
  | .jdec h => Sys2Proof.Machine.execJdec h s
  | .tend h => Sys2Proof.Machine.execTend h s
  | .fnew h => Sys2Proof.Machine.execFnew h s
  | .fres h => Sys2Proof.Machine.execFres h s
  | .freg h => Sys2Proof.Machine.execFreg h s
  | .fget h => Sys2Proof.Machine.execFget h s
  | .dqpush h => Sys2Proof.Machine.execDqpush h s
  | .dqpop h => Sys2Proof.Machine.execDqpop h s
  | .dqsteal h => Sys2Proof.Machine.execDqsteal h s
  | .wqput h => Sys2Proof.Machine.execWqput h s
  | .wqget h => Sys2Proof.Machine.execWqget h s
  | .yield_ h => Sys2Proof.Machine.execYield h s
  | .srr h w => Sys2Proof.Machine.execSrr h w s
  | .srw h w => Sys2Proof.Machine.execSrw h w s
  | .trap h w => Sys2Proof.Machine.execTrap h w s
  | .hcall h w => Sys2Proof.Machine.execHcall h w s
  | .ckpt h => Sys2Proof.Machine.execCkpt h s
  | .remest h => Sys2Proof.Machine.execRemest h s
  | .remestImm h w => Sys2Proof.Machine.execRemestImm h w s
  | .ctxnew h => Sys2Proof.Machine.execCtxnew h s
  | .ctxhalt h => Sys2Proof.Machine.execCtxhalt h s
  | .ctxres h => Sys2Proof.Machine.execCtxres h s
  | .hbeat h => Sys2Proof.Machine.execHbeat h s
  | .atinv h => Sys2Proof.Machine.execAtinv h s
  | .pwrhint h w => Sys2Proof.Machine.execPwrhint h w s
  | .tcinv h => Sys2Proof.Machine.execTcinv h s
  | .tcpin h => Sys2Proof.Machine.execTcpin h s
  | .tcpre h => Sys2Proof.Machine.execTcpre h s
  | .objload h => Sys2Proof.Machine.execObjload h s
  | .trace h => Sys2Proof.Machine.execTrace h s
  | .mark h w => Sys2Proof.Machine.execMark h w s
  | .brk h => Sys2Proof.Machine.execBrk h s
  | .cntrd h w => Sys2Proof.Machine.execCntrd h w s
  | .tokenDelivery n => Sys2Proof.Machine.execTokenDelivery n s
  | .tokenResend n => Sys2Proof.Machine.execTokenResend n s
  | .tokenParity n => Sys2Proof.Machine.execTokenParity n s
  | .splitPhaseReply n => Sys2Proof.Machine.execSplitPhaseReply n s
  | .tileRelease n => Sys2Proof.Machine.execTileRelease n s
  | .frameGrant pe => Sys2Proof.Machine.execFrameGrant pe s
  | .blockCommit pe f => Sys2Proof.Machine.execBlockCommit pe f s
  | .frameFree pe f => Sys2Proof.Machine.execFrameFree pe f s
  | .loopIterationStart pe t => Sys2Proof.Machine.execLoopIterationStart pe t s
  | .memoryAccessAtHome n p => Sys2Proof.Machine.execMemoryAccessAtHome n p s
  | .translationWalk n => Sys2Proof.Machine.execTranslationWalk n s
  | .faultQueueDoorbell n => Sys2Proof.Machine.execFaultQueueDoorbell n s
  | .atomicEngineRequest q b => Sys2Proof.Machine.execAtomicEngineRequest q b s
  | .atomicLineFill q line => Sys2Proof.Machine.execAtomicLineFill q line s
  | .countMessage n => Sys2Proof.Machine.execCountMessage n s
  | .counterFire c => Sys2Proof.Machine.execCounterFire c s
  | .barrierArrival n => Sys2Proof.Machine.execBarrierArrival n s
  | .barrierPhaseComplete rec => Sys2Proof.Machine.execBarrierPhaseComplete rec s
  | .barrierRelease n => Sys2Proof.Machine.execBarrierRelease n s
  | .channelBindRequest n => Sys2Proof.Machine.execChannelBindRequest n s
  | .channelElement n => Sys2Proof.Machine.execChannelElement n s
  | .channelReceiveRequest n => Sys2Proof.Machine.execChannelReceiveRequest n s
  | .spillReadback ch => Sys2Proof.Machine.execSpillReadback ch s
  | .endpointRelease n => Sys2Proof.Machine.execEndpointRelease n s
  | .channelCloseMessage n => Sys2Proof.Machine.execChannelCloseMessage n s
  | .xoff n => Sys2Proof.Machine.execXoff n s
  | .xon n => Sys2Proof.Machine.execXon n s
  | .monitorExtend d => Sys2Proof.Machine.execMonitorExtend d s
  | .probationExpiry d => Sys2Proof.Machine.execProbationExpiry d s
  | .linkRetrain link => Sys2Proof.Machine.execLinkRetrain link s
  | .linkDown link => Sys2Proof.Machine.execLinkDown link s
  | .jxTagFailure link => Sys2Proof.Machine.execJxTagFailure link s
  | .copyStart n => Sys2Proof.Machine.execCopyStart n s
  | .copyComplete n => Sys2Proof.Machine.execCopyComplete n s
  | .copyQueueDoorbell n => Sys2Proof.Machine.execCopyQueueDoorbell n s
  | .copyQueueRegistration n => Sys2Proof.Machine.execCopyQueueRegistration n s
  | .ringHeadUpdate n => Sys2Proof.Machine.execRingHeadUpdate n s
  | .matrixOperandPacket n => Sys2Proof.Machine.execMatrixOperandPacket n s
  | .accumulatorSpill pe z => Sys2Proof.Machine.execAccumulatorSpill pe z s
  | .taskPop pe => Sys2Proof.Machine.execTaskPop pe s
  | .taskEnd pe t => Sys2Proof.Machine.execTaskEnd pe t s
  | .joinDecrement n => Sys2Proof.Machine.execJoinDecrement n s
  | .futureOperation n => Sys2Proof.Machine.execFutureOperation n s
  | .futurePoison n => Sys2Proof.Machine.execFuturePoison n s
  | .dequeOperation n => Sys2Proof.Machine.execDequeOperation n s
  | .workQueueOperation n => Sys2Proof.Machine.execWorkQueueOperation n s
  | .dependenceSubmit n => Sys2Proof.Machine.execDependenceSubmit n s
  | .dependenceRelease d e => Sys2Proof.Machine.execDependenceRelease d e s
  | .copyBack d e => Sys2Proof.Machine.execCopyBack d e s
  | .costReport d => Sys2Proof.Machine.execCostReport d s
  | .quadGate q => Sys2Proof.Machine.execQuadGate q s
  | .quadWake q => Sys2Proof.Machine.execQuadWake q s
  | .preempt q => Sys2Proof.Machine.execPreempt q s
  | .haltLine c => Sys2Proof.Machine.execHaltLine c s
  | .haltComplete c => Sys2Proof.Machine.execHaltComplete c s
  | .watchdog c => Sys2Proof.Machine.execWatchdog c s
  | .create n => Sys2Proof.Machine.execCreate n s
  | .hostReply k status reply => Sys2Proof.Machine.execHostReply k status reply s
  | .kilnTranslate d => Sys2Proof.Machine.execKilnTranslate d s
  | .configLoad pe addr => Sys2Proof.Machine.execConfigLoad pe addr s
  | .invalidationEffect n => Sys2Proof.Machine.execInvalidationEffect n s
  | .traceSample c pe => Sys2Proof.Machine.execTraceSample c pe s
  | .apertureSizeWrite n => Sys2Proof.Machine.execApertureSizeWrite n s
  | .pkgnoWrite n => Sys2Proof.Machine.execPkgnoWrite n s
  | .deviceRegisterWrite n => Sys2Proof.Machine.execDeviceRegisterWrite n s
  | .hostBarAccess acc => Sys2Proof.Machine.execHostBarAccess acc s
  | .bridgeLinkLoss => Sys2Proof.Machine.execBridgeLinkLoss s
  | .ownershipChange page owner => Sys2Proof.Machine.execOwnershipChange page owner s
  | .lockInterfaceRequest p => Sys2Proof.Machine.execLockInterfaceRequest p s
  | .startInterfaceRequest p => Sys2Proof.Machine.execStartInterfaceRequest p s
  | .stopInterface p => Sys2Proof.Machine.execStopInterface p s
  | .getVersion => Sys2Proof.Machine.execGetVersion s
  | .getCapabilities => Sys2Proof.Machine.execGetCapabilities s
  | .negotiateAlgorithms => Sys2Proof.Machine.execNegotiateAlgorithms s
  | .getDigests => Sys2Proof.Machine.execGetDigests s
  | .getCertificate slot => Sys2Proof.Machine.execGetCertificate slot s
  | .challenge nonce => Sys2Proof.Machine.execChallenge nonce s
  | .getMeasurements p nonce => Sys2Proof.Machine.execGetMeasurements p nonce s
  | .keyExchange sess p => Sys2Proof.Machine.execKeyExchange sess p s
  | .finish sess => Sys2Proof.Machine.execFinish sess s
  | .keyUpdate sess => Sys2Proof.Machine.execKeyUpdate sess s
  | .endSession sess => Sys2Proof.Machine.execEndSession sess s
  | .reset boot => Sys2Proof.Machine.execReset boot s
  | .powerStateRequest st => Sys2Proof.Machine.execPowerStateRequest st s
  | .thermalThrottle d => Sys2Proof.Machine.execThermalThrottle d s
  | .thermalShutdown => Sys2Proof.Machine.execThermalShutdown s
  | .ideIntegrityFailure p => Sys2Proof.Machine.execIdeIntegrityFailure p s
  | .bridgeLinkReturn => Sys2Proof.Machine.execBridgeLinkReturn s
  | .partitionCreation p noDebug => Sys2Proof.Machine.execPartitionCreation p noDebug s
  | .verificationKeyInstall p key => Sys2Proof.Machine.execVerificationKeyInstall p key s

end Sys2Proof.Machine
end

