-- ==== Sys2Proof/Machine/Events.lean ====
section
/-! DEFINITION. The events of the part's own units: those rows of the table that no instruction word and no request from outside names. -/

namespace Sys2Proof.Machine

/-- An event that a unit of the part brings about: the row of its name. -/
inductive Event where
  | tokenDelivery (n : Nat)
  | tokenResend (n : Nat)
  | tokenParity (n : Nat)
  | splitPhaseReply (n : Nat)
  | tileRelease (n : Nat)
  | frameGrant (pe : Nat)
  | blockCommit (pe : Nat) (f : Nat)
  | frameFree (pe : Nat) (f : Nat)
  | loopIterationStart (pe : Nat) (t : Nat)
  | memoryAccessAtHome (n : Nat) (p : Nat)
  | translationWalk (n : Nat)
  | faultQueueDoorbell (n : Nat)
  | atomicEngineRequest (q : Nat) (b : Nat)
  | atomicLineFill (q : Nat) (line : Nat)
  | countMessage (n : Nat)
  | counterFire (c : Nat)
  | barrierArrival (n : Nat)
  | barrierPhaseComplete (rec : Nat)
  | barrierRelease (n : Nat)
  | channelBindRequest (n : Nat)
  | channelElement (n : Nat)
  | channelReceiveRequest (n : Nat)
  | spillReadback (ch : Nat)
  | endpointRelease (n : Nat)
  | channelCloseMessage (n : Nat)
  | xoff (n : Nat)
  | xon (n : Nat)
  | monitorExtend (d : Nat)
  | probationExpiry (d : Nat)
  | copyStart (n : Nat)
  | copyComplete (n : Nat)
  | copyQueueDoorbell (n : Nat)
  | copyQueueRegistration (n : Nat)
  | ringHeadUpdate (n : Nat)
  | matrixOperandPacket (n : Nat)
  | accumulatorSpill (pe : Nat) (z : Nat)
  | taskPop (pe : Nat)
  | taskEnd (pe : Nat) (t : Nat)
  | joinDecrement (n : Nat)
  | futureOperation (n : Nat)
  | futurePoison (n : Nat)
  | dequeOperation (n : Nat)
  | workQueueOperation (n : Nat)
  | dependenceSubmit (n : Nat)
  | dependenceRelease (d : Nat) (e : Nat)
  | copyBack (d : Nat) (e : Nat)
  | costReport (d : Nat)
  | quadGate (q : Nat)
  | quadWake (q : Nat)
  | preempt (q : Nat)
  | haltLine (c : Nat)
  | haltComplete (c : Nat)
  | watchdog (c : Nat)
  | create (n : Nat)
  | kilnTranslate (d : Nat)
  | configLoad (pe : Nat) (addr : Nat)
  | invalidationEffect (n : Nat)
  | traceSample (c : Nat) (pe : Nat)
  | apertureSizeWrite (n : Nat)
  | pkgnoWrite (n : Nat)
  | deviceRegisterWrite (n : Nat)
  deriving DecidableEq, Repr

/-- The event happens: the meaning of its row. -/
def Event.run (e : Event) (s : State) : Host.Outcome State Fault Refusal :=
  match e with
  | .tokenDelivery n => execTokenDelivery n s
  | .tokenResend n => execTokenResend n s
  | .tokenParity n => execTokenParity n s
  | .splitPhaseReply n => execSplitPhaseReply n s
  | .tileRelease n => execTileRelease n s
  | .frameGrant pe => execFrameGrant pe s
  | .blockCommit pe f => execBlockCommit pe f s
  | .frameFree pe f => execFrameFree pe f s
  | .loopIterationStart pe t => execLoopIterationStart pe t s
  | .memoryAccessAtHome n p => execMemoryAccessAtHome n p s
  | .translationWalk n => execTranslationWalk n s
  | .faultQueueDoorbell n => execFaultQueueDoorbell n s
  | .atomicEngineRequest q b => execAtomicEngineRequest q b s
  | .atomicLineFill q line => execAtomicLineFill q line s
  | .countMessage n => execCountMessage n s
  | .counterFire c => execCounterFire c s
  | .barrierArrival n => execBarrierArrival n s
  | .barrierPhaseComplete rec => execBarrierPhaseComplete rec s
  | .barrierRelease n => execBarrierRelease n s
  | .channelBindRequest n => execChannelBindRequest n s
  | .channelElement n => execChannelElement n s
  | .channelReceiveRequest n => execChannelReceiveRequest n s
  | .spillReadback ch => execSpillReadback ch s
  | .endpointRelease n => execEndpointRelease n s
  | .channelCloseMessage n => execChannelCloseMessage n s
  | .xoff n => execXoff n s
  | .xon n => execXon n s
  | .monitorExtend d => execMonitorExtend d s
  | .probationExpiry d => execProbationExpiry d s
  | .copyStart n => execCopyStart n s
  | .copyComplete n => execCopyComplete n s
  | .copyQueueDoorbell n => execCopyQueueDoorbell n s
  | .copyQueueRegistration n => execCopyQueueRegistration n s
  | .ringHeadUpdate n => execRingHeadUpdate n s
  | .matrixOperandPacket n => execMatrixOperandPacket n s
  | .accumulatorSpill pe z => execAccumulatorSpill pe z s
  | .taskPop pe => execTaskPop pe s
  | .taskEnd pe t => execTaskEnd pe t s
  | .joinDecrement n => execJoinDecrement n s
  | .futureOperation n => execFutureOperation n s
  | .futurePoison n => execFuturePoison n s
  | .dequeOperation n => execDequeOperation n s
  | .workQueueOperation n => execWorkQueueOperation n s
  | .dependenceSubmit n => execDependenceSubmit n s
  | .dependenceRelease d e => execDependenceRelease d e s
  | .copyBack d e => execCopyBack d e s
  | .costReport d => execCostReport d s
  | .quadGate q => execQuadGate q s
  | .quadWake q => execQuadWake q s
  | .preempt q => execPreempt q s
  | .haltLine c => execHaltLine c s
  | .haltComplete c => execHaltComplete c s
  | .watchdog c => execWatchdog c s
  | .create n => execCreate n s
  | .kilnTranslate d => execKilnTranslate d s
  | .configLoad pe addr => execConfigLoad pe addr s
  | .invalidationEffect n => execInvalidationEffect n s
  | .traceSample c pe => execTraceSample c pe s
  | .apertureSizeWrite n => execApertureSizeWrite n s
  | .pkgnoWrite n => execPkgnoWrite n s
  | .deviceRegisterWrite n => execDeviceRegisterWrite n s

/-- The event that a row of the table names. -/
def eventOf : Instr → Option Event
  | .tokenDelivery n => some (.tokenDelivery n)
  | .tokenResend n => some (.tokenResend n)
  | .tokenParity n => some (.tokenParity n)
  | .splitPhaseReply n => some (.splitPhaseReply n)
  | .tileRelease n => some (.tileRelease n)
  | .frameGrant pe => some (.frameGrant pe)
  | .blockCommit pe f => some (.blockCommit pe f)
  | .frameFree pe f => some (.frameFree pe f)
  | .loopIterationStart pe t => some (.loopIterationStart pe t)
  | .memoryAccessAtHome n p => some (.memoryAccessAtHome n p)
  | .translationWalk n => some (.translationWalk n)
  | .faultQueueDoorbell n => some (.faultQueueDoorbell n)
  | .atomicEngineRequest q b => some (.atomicEngineRequest q b)
  | .atomicLineFill q line => some (.atomicLineFill q line)
  | .countMessage n => some (.countMessage n)
  | .counterFire c => some (.counterFire c)
  | .barrierArrival n => some (.barrierArrival n)
  | .barrierPhaseComplete rec => some (.barrierPhaseComplete rec)
  | .barrierRelease n => some (.barrierRelease n)
  | .channelBindRequest n => some (.channelBindRequest n)
  | .channelElement n => some (.channelElement n)
  | .channelReceiveRequest n => some (.channelReceiveRequest n)
  | .spillReadback ch => some (.spillReadback ch)
  | .endpointRelease n => some (.endpointRelease n)
  | .channelCloseMessage n => some (.channelCloseMessage n)
  | .xoff n => some (.xoff n)
  | .xon n => some (.xon n)
  | .monitorExtend d => some (.monitorExtend d)
  | .probationExpiry d => some (.probationExpiry d)
  | .copyStart n => some (.copyStart n)
  | .copyComplete n => some (.copyComplete n)
  | .copyQueueDoorbell n => some (.copyQueueDoorbell n)
  | .copyQueueRegistration n => some (.copyQueueRegistration n)
  | .ringHeadUpdate n => some (.ringHeadUpdate n)
  | .matrixOperandPacket n => some (.matrixOperandPacket n)
  | .accumulatorSpill pe z => some (.accumulatorSpill pe z)
  | .taskPop pe => some (.taskPop pe)
  | .taskEnd pe t => some (.taskEnd pe t)
  | .joinDecrement n => some (.joinDecrement n)
  | .futureOperation n => some (.futureOperation n)
  | .futurePoison n => some (.futurePoison n)
  | .dequeOperation n => some (.dequeOperation n)
  | .workQueueOperation n => some (.workQueueOperation n)
  | .dependenceSubmit n => some (.dependenceSubmit n)
  | .dependenceRelease d e => some (.dependenceRelease d e)
  | .copyBack d e => some (.copyBack d e)
  | .costReport d => some (.costReport d)
  | .quadGate q => some (.quadGate q)
  | .quadWake q => some (.quadWake q)
  | .preempt q => some (.preempt q)
  | .haltLine c => some (.haltLine c)
  | .haltComplete c => some (.haltComplete c)
  | .watchdog c => some (.watchdog c)
  | .create n => some (.create n)
  | .kilnTranslate d => some (.kilnTranslate d)
  | .configLoad pe addr => some (.configLoad pe addr)
  | .invalidationEffect n => some (.invalidationEffect n)
  | .traceSample c pe => some (.traceSample c pe)
  | .apertureSizeWrite n => some (.apertureSizeWrite n)
  | .pkgnoWrite n => some (.pkgnoWrite n)
  | .deviceRegisterWrite n => some (.deviceRegisterWrite n)
  | _ => none

end Sys2Proof.Machine
end

