-- ==== Sys2Proof/Machine/Sched.lean ====
section
/-! DEFINITION. What may happen next and which of it does: the choice among ready instructions (R22 to R25), the events of the other units,
inputs, and the passage of time. The plan of the state picks among what is enabled, so that every order is some state's. -/

namespace Sys2Proof.Machine

/-- What a step may do: issue an instruction of a frame, let an event happen, or take the next input from outside. -/
inductive Action where
  | issue (k idx : Nat) (i : Instr)
  | event (e : Event)
  | input (e : Instr)
  deriving DecidableEq, Repr

/-- A ready instruction that competes for an issue slot: its frame's key, its frame, its index. -/
structure Contender where
  k : Nat
  f : Frame
  idx : Nat
  i : Instr
  deriving DecidableEq, Repr

/-! ### Ready instructions (R22 to R25, R385) -/

/-- How many instructions an issue slot takes in a cycle (R22). -/
def slotCap : IssueSlot → Nat
  | .scalar => 2
  | _ => 1

/-- The PE of a contender. -/
def Contender.pe (x : Contender) : Nat := x.k / 256

/-- Its issue slot. -/
def Contender.slot (x : Contender) : Nat := slotCode x.i.slot

/-- The instruction in focus is one of a frame. -/
def State.focus (s : State) (k idx : Nat) : State := { s with sched := { s.sched with pe := k / 256, frame := k % 256, idx := idx } }

/-- An outcome is a next state. -/
def isNext : Host.Outcome State Fault Refusal → Bool
  | .next _ => true
  | _ => false

/-- The instruction waits for what it lacks. -/
def State.waits (s : State) (k idx : Nat) : Bool :=
  match s.frame? k with
  | some f => (match f.stat.get? idx with | some (.waiting _) => true | _ => false)
  | none => false

/-- An instruction that waited has what it lacked (R24, R170). -/
def State.movesOn (s : State) (k idx : Nat) (i : Instr) : Bool :=
  match exec i (s.focus k idx) with
  | .next s1 => !s1.waits k idx
  | _ => false

/-- The divider of a PE takes no instruction: it is busy, or has taken one in this cycle (R109, R114). -/
def State.dividerHeld (s : State) (pe : Nat) : Bool := s.dividerBusy pe || (s.pe.divider.get? pe).any fun u => u.cycle == s.sched.cycle

/-- An instruction of a frame competes: it is ready, was not found to wait for what it still lacks, and finds the divider free (R114). -/
def State.competes (s : State) (k : Nat) (f : Frame) (idx : Nat) (i : Instr) : Bool :=
  f.present idx i && (!i.guarded || f.settled idx) && !(i.divides && s.dividerHeld (k / 256)) &&
    match f.stat.get? idx with
    | none => true
    | some (.waiting _) => s.movesOn k idx i
    | _ => false

/-- A PE's die takes no instruction in this cycle: its power controller has lowered the issue rates (R480). By how much is left open (DESIGN CHOICE, assumption log 128). -/
def State.slowed (s : State) (pe : Nat) : Bool := s.dev.throttled.contains (dieOfPe pe) && Config.throttled (dieOfPe pe) s.sched.cycle

/-- Every ready instruction of the part whose configuration its PE's window holds (R424). -/
def State.contenders (s : State) : List Contender :=
  s.pe.frames.flatMap fun p =>
    if p.2.live && s.issuing p.2.ctx && s.inWindow (p.1 / 256) p.2.cfg.num && !s.slowed (p.1 / 256) then
      (p.2.cfg.instrs.filter fun q => s.competes p.1 p.2 q.1 q.2).map fun q => { k := p.1, f := p.2, idx := q.1, i := q.2 }
    else []

/-- The cycle in which a contender became ready. -/
def State.readyAt (s : State) (x : Contender) : Nat := x.f.ready.getD x.idx s.sched.cycle

/-- The order within a context: the oldest first, a task that yielded after every other (R23, R385). -/
def State.ageKey (s : State) (x : Contender) : Nat :=
  let y := match s.task? x.pe x.f.task with | some t => t.yielded | none => false
  s.readyAt x + (if y then 2 ^ 64 else 0)

/-- What an issue slot of a PE has taken in this cycle. -/
def State.slotUse (s : State) (pe slot : Nat) : SlotUse :=
  let none : SlotUse := { cycle := s.sched.cycle, count := 0, urgent := false }
  match s.pe.issued.get? (pe * 4 + slot) with
  | some u => if u.cycle = s.sched.cycle then u else none
  | Option.none => none

/-- The priority tokens of a context (R23). -/
def State.weight (s : State) (c : Nat) : Nat := match s.ctx? c with | some x => x.regs.prio | none => 0

/-- The credit of a context on an issue slot of a PE. -/
def State.credit (s : State) (c pe slot : Nat) : Int := nthD (s.pctx c pe).credits slot 0

/-- The normal context that is next in the weighted round-robin of an issue slot (R23): the one of most credit with its weight added. -/
def State.nextCtx (s : State) (pe slot : Nat) (cs : List Nat) : Option Nat :=
  leastBy (fun c => (1000000 - (s.credit c pe slot + Int.ofNat (s.weight c))).toNat) cs

/-- The contenders of the issue slot of one. -/
def rivals (l : List Contender) (x : Contender) : List Contender := l.filter fun y => y.pe == x.pe && y.slot == x.slot

/-- The last cycle in which R24 or R25 lets a contender issue: 4 cycles after it became ready where it is urgent, else 2,048 and the cycles
its bound has grown by, this one among them where an urgent instruction has taken the slot in it. -/
def State.deadline (s : State) (x : Contender) : Nat :=
  s.readyAt x + (if s.isUrgent x.f.ctx then 4 else 2048 + x.f.grace.getD x.idx 0 + bit (s.slotUse x.pe x.slot).urgent)

/-- Some contenders of an issue slot cannot all meet their bounds unless the slot takes one now: one of them and those that must go no later than it
are more than the slot takes in the cycles after this one. -/
def State.pressed (s : State) (r : List Contender) : Bool :=
  r.any fun y => decide (slotCap y.i.slot * (s.deadline y - s.sched.cycle) < (r.filter fun z => decide (s.deadline z ≤ s.deadline y)).length)

/-- The issue slot chooses a contender (R22, R23): it is one of the oldest of the urgent context, or of the normal context whose turn it is;
where R25 leaves no time for turns, the one whose bound is nearest. -/
def State.chosen (s : State) (l : List Contender) (x : Contender) : Bool :=
  let r := rivals l x
  let u := r.filter fun y => s.isUrgent y.f.ctx
  let turn := match s.nextCtx x.pe x.slot ((r.map fun y => y.f.ctx).eraseDups) with
    | some c => r.filter fun y => y.f.ctx == c
    | none => []
  let hurry := u.isEmpty && s.pressed r
  let pool := if !u.isEmpty then u else if hurry then r else turn
  let key := if hurry then s.deadline else s.ageKey
  decide ((s.slotUse x.pe x.slot).count < slotCap x.i.slot) && pool.any (fun y => y.k == x.k && y.idx == x.idx) &&
    pool.all fun y => decide (key x ≤ key y)

/-- The instructions that may issue now. -/
def State.issuable (s : State) : List Contender :=
  let l := s.contenders
  l.filter fun x => s.chosen l x

/-- A contender that its issue slot chooses must issue in this cycle: else it, or one behind it, would pass the bound of R24 or R25. -/
def State.overdue (s : State) (l : List Contender) (x : Contender) : Bool :=
  let r := rivals l x
  s.pressed (r.filter fun y => s.isUrgent y.f.ctx) || s.pressed (r.filter fun y => !s.isUrgent y.f.ctx)

/-- The credits of an issue slot after a normal context took it (R23). -/
def State.charge (s : State) (pe slot c : Nat) (cs : List Nat) : State :=
  let total := (cs.map s.weight).sum
  cs.foldl (fun s d =>
    let p := s.pctx d pe
    let v := nthD p.credits slot 0 + Int.ofNat (s.weight d) - (if d = c then Int.ofNat total else 0)
    s.setPctx d pe { p with credits := setAt slot v p.credits }) s

/-- The latency of a divider instruction on A0 (R113), from its dividend; 0 where it gives no result, since its predicate does not match, it sends nulls
or it raises TOKEN_KIND (DEDUCED, assumption log 56). -/
def Contender.latency (x : Contender) : Nat :=
  let a := (x.f.operand x.idx .a).getD zeroTok
  let odd := fun (t : Tok) => t.kind == .null || (t.kind == .tile && !x.f.dependentAt x.idx)
  if (x.i.required.any fun sd => (x.f.operand x.idx sd).any odd) || predMismatch x.i.hdr ((x.f.operand x.idx .c).getD zeroTok) then 0
  else match x.i with
    | .div _ | .divImm _ _ | .rem_ _ | .remImm _ _ => 8 + (bitLength a.val.toInt.natAbs + 3) / 4
    | .divu _ | .divuImm _ _ | .remu _ | .remuImm _ _ => 8 + (bitLength a.val.toNat + 3) / 4
    | .fdivS _ | .fsqrtS _ => 16
    | _ => 28

/-- A divider instruction occupies the divider from the cycle it issues in (R109, R114). -/
def State.tookDivider (s : State) (x : Contender) : State :=
  if x.i.divides then { s with pe := { s.pe with divider := s.pe.divider.put x.pe { cycle := s.sched.cycle, latency := x.latency } } } else s

/-- The issue slot of a contender has taken it (R22, R23, R454). -/
def State.tookSlot (s : State) (l : List Contender) (x : Contender) (now : State) : State :=
  let r := rivals l x
  let use := now.slotUse x.pe x.slot
  let urgent := now.isUrgent x.f.ctx
  let s1 := if urgent then s else s.charge x.pe x.slot x.f.ctx (r.map fun y => y.f.ctx).eraseDups
  let use1 : SlotUse := { use with count := use.count + 1, urgent := use.urgent || urgent }
  let s2 : State := { s1 with pe := { s1.pe with issued := s1.pe.issued.put (x.pe * 4 + x.slot) use1 } }
  (s2.tookDivider x).noteIssue x.f.ctx x.pe (now.readyAt x) x.f.cfg.num (srcOf x.k x.f x.idx)

/-- An instruction issues: it takes its slot unless it finds that it must wait (R24, R170). -/
def State.runIssue (s : State) (k idx : Nat) (i : Instr) : Host.Outcome State Fault Refusal :=
  match exec i (s.focus k idx) with
  | .next s1 =>
    if s1.waits k idx then .next s1
    else match s.frame? k with
      | some f => .next (s1.tookSlot s.contenders { k := k, f := f, idx := idx, i := i } s)
      | none => .next s1
  | o => o

/-! ### Events of the other units -/

/-- The events that an accepted message may become. -/
def msgEvents (n : Nat) : Msg → List Event
  | .token _ _ _ | .inject _ _ => []
  | .reply _ _ _ | .withheld _ | .elemReply _ _ _ _ _ => [.splitPhaseReply n]
  | .release _ => [.tileRelease n]
  | .count _ _ | .acread _ _ _ => [.countMessage n]
  | .barArrive _ _ _ _ => [.barrierArrival n]
  | .barRelease _ _ _ => [.barrierRelease n]
  | .bind _ _ _ => [.channelBindRequest n]
  | .element _ _ _ _ _ => [.channelElement n]
  | .recvReq _ _ => [.channelReceiveRequest n]
  | .epRelease _ _ _ _ => [.endpointRelease n]
  | .chClose _ _ _ _ => [.channelCloseMessage n]
  | .xoff _ _ => [.xoff n]
  | .xon _ _ => [.xon n]
  | .packet _ _ _ => [.matrixOperandPacket n]
  | .headUpdate _ _ _ => [.ringHeadUpdate n]
  | .join _ _ _ _ _ => [.joinDecrement n]
  | .future _ _ _ _ _ _ => [.futureOperation n]
  | .poison _ _ _ _ => [.futurePoison n]
  | .deque _ _ _ _ _ _ => [.dequeOperation n]
  | .wqueue _ _ _ _ _ _ => [.workQueueOperation n]
  | .depSubmit _ _ _ _ => [.dependenceSubmit n]
  | .devWrite _ _ _ _ =>
    [.deviceRegisterWrite n, .apertureSizeWrite n, .pkgnoWrite n, .create n, .copyQueueRegistration n, .copyQueueDoorbell n, .faultQueueDoorbell n]
  | .inval _ _ _ _ => [.invalidationEffect n]

/-- Events of frames, queued activations and tasks. -/
def State.frameEvents (s : State) : List Event :=
  (s.pe.frames.flatMap fun p => [Event.blockCommit (p.1 / 256) (p.1 % 256), Event.frameFree (p.1 / 256) (p.1 % 256),
      Event.configLoad (p.1 / 256) p.2.cfg.addr]) ++
    ((s.pe.queue.map fun a => a.pe).eraseDups.map Event.frameGrant) ++ (s.pe.queue.map fun a => Event.configLoad a.pe a.addr) ++
    s.pe.tasks.flatMap fun p => [Event.loopIterationStart (p.1 / 16) (p.1 % 16), Event.taskEnd (p.1 / 16) (p.1 % 16)]

/-- Events of memory, atomic engines, counters and barriers. -/
def State.memoryEvents (s : State) : List Event :=
  (s.mem.accesses.flatMap fun p => Event.translationWalk p.1 :: (List.range p.2.pieces.length).map fun q => Event.memoryAccessAtHome p.1 q) ++
    (s.sync.reqs.flatMap fun p => [Event.atomicEngineRequest p.2.engine p.2.bank, Event.atomicLineFill p.2.engine p.2.line]) ++
    (s.sync.counters.map fun p => Event.counterFire p.1) ++ s.sync.barriers.map fun p => Event.barrierPhaseComplete p.1

/-- Events of channels, copies, accumulators and the Kilns. -/
def State.unitEvents (s : State) : List Event :=
  (s.chans.map fun p => Event.spillReadback p.1) ++ (s.copies.flatMap fun p => [Event.copyStart p.1, Event.copyComplete p.1]) ++
    (s.pe.accs.map fun p => Event.accumulatorSpill (p.1 / 8) (p.1 % 8)) ++ ((s.kiln.reqs.map fun r => r.die).eraseDups.map Event.kilnTranslate) ++
    if s.chans.isEmpty then [] else (List.range 8).flatMap fun d => [Event.monitorExtend d, Event.probationExpiry d]

/-- Events of task queues, quads and dependences. -/
def State.taskEvents (s : State) : List Event :=
  let quads := (s.task.queues.map fun e => e.quad).eraseDups
  (quads.flatMap fun q => (pesOfQuad q).map Event.taskPop) ++
    (s.task.deps.flatMap fun p => [Event.dependenceRelease (p.1 / Config.depEntries) (p.1 % Config.depEntries),
      Event.copyBack (p.1 / Config.depEntries) (p.1 % Config.depEntries)]) ++
    quads.map Event.preempt ++ (s.task.power.flatMap fun p => [Event.quadWake p.1]) ++
    (List.range 8).map Event.costReport ++ (List.range 512).map Event.quadGate

/-- The samples that PEs have taken and not written yet (R458). -/
def State.sampleEvents (s : State) : List Event :=
  s.ctxs.flatMap fun p => match p.2.trace with
    | none => []
    | some t => ((t.samples.map fun q => q.pe).eraseDups).map fun pe => Event.traceSample p.1 pe

/-- Events of contexts. -/
def State.ctxEvents (s : State) : List Event :=
  (s.ctxs.flatMap fun p => [Event.haltLine p.1, Event.haltComplete p.1, Event.watchdog p.1]) ++ s.sampleEvents

/-- Everything that may happen now, but inputs. -/
def State.events (s : State) : List Event :=
  (s.net.flatMap fun p => [Event.tokenDelivery p.1, .tokenResend p.1, .tokenParity p.1] ++ msgEvents p.1 p.2.body) ++ s.frameEvents ++ s.memoryEvents ++ s.unitEvents ++ s.ctxEvents ++ s.taskEvents

/-! ### The choice -/

/-- What is enabled: instructions first, then events, then the next input. -/
def State.actions (s : State) : List Action :=
  s.issuable.map (fun x => Action.issue x.k x.idx x.i) ++ (s.events.filter fun e => isNext (e.run s)).map Action.event ++
    match s.sched.inbox with
    | [] => []
    | e :: _ => if isNext (exec e s) then [Action.input e] else []

/-- The halt line of a context reaches its engines within 96 cycles (R394). -/
def haltDue (now : Nat) (x : Ctx) : Bool :=
  match x.haltReq with
  | some (t, _) => x.state.issues && decide (t + 95 ≤ now)
  | none => false

/-- Events that a cycle does not pass without: a watchdog whose count is 0 (R402), a report of costs (R361). -/
def State.clockEvents (s : State) : List Event :=
  s.ctxs.map (fun p => Event.watchdog p.1) ++ (if s.sched.cycle = 0 then [] else (List.range 8).map Event.costReport)

/-- What must happen before the cycle ends: an overdue instruction (R24, R25), a halt line (R394), what comes with the cycle. The samples of the cycle before
go first of all (R458): each was taken as that cycle ended, its record stands before those generated in this one, and it delays nothing. -/
def State.due (s : State) : List Action :=
  if !s.sampleEvents.isEmpty then s.sampleEvents.map Action.event else
  (s.issuable.filter fun x => s.overdue s.contenders x).map (fun x => Action.issue x.k x.idx x.i) ++
    ((s.ctxs.filter fun p => haltDue s.sched.cycle p.2).map fun p => Action.event (.haltLine p.1)) ++
    (s.clockEvents.filter fun e => isNext (e.run s)).map Action.event

/-- A word of an activation that began decodes to no instruction: the Kiln's checks rule it out (R63). -/
def State.badWord (s : State) : Option Reject :=
  s.pe.frames.findSome? fun p => if p.2.isOpen then p.2.cfg.code.findSome? fun r => match decodeRaw r with
    | .error e => some e
    | .ok _ => none
  else none

/-- The choice in force: the next of the plan, or a fixed rotation between actions and the passage of time. -/
def State.pick (s : State) : Pick :=
  match s.sched.plan with
  | p :: _ => p
  | [] => { k := s.sched.turn / 2, dt := s.sched.turn % 2 }

/-- The choice is used up. -/
def State.popped (s : State) : State := { s with sched := { s.sched with plan := s.sched.plan.tail, turn := s.sched.turn + 1 } }

/-- The action of a number: of a plan's that is too high the first, of the rotation's the one it comes to. -/
def choose (l : List Action) (k : Nat) (planned : Bool) : Option Action :=
  if planned then (match l[k]? with | some a => some a | none => l.head?) else l[k % l.length]?

/-- What a step does: what is due, what the choice names, or none where time passes. -/
def State.nextAction (s : State) : Option Action :=
  let p := s.pick
  match s.due with
  | [] => if p.dt = 0 then choose s.actions p.k (!s.sched.plan.isEmpty) else none
  | l => choose l p.k (!s.sched.plan.isEmpty)

/-- Cycles to the next that brings something with it: a report of costs (R361), a watchdog at 0 (R402), the end of a halt line's time (R394). -/
def State.horizon (s : State) : Nat :=
  s.ctxs.foldl (fun n p =>
    let w := if p.2.wdCount = 0 then n else min n p.2.wdCount
    match p.2.haltReq with
    | some (t, _) => min w (max 1 (t + 95 - s.sched.cycle))
    | none => w) (64 - s.sched.cycle % 64)

/-- Nothing of the cycle differs from the next ones: nothing is enabled or ready, no divider is busy, nothing issued in it, no die is slowed and nothing is traced. -/
def State.uneventful (s : State) : Bool :=
  s.actions.isEmpty && s.contenders.isEmpty && (s.pe.divider.all fun p => !s.dividerHeld p.1) && (s.pe.issued.all fun p => p.2.cycle != s.sched.cycle) &&
    s.dev.throttled.isEmpty && s.ctxs.all fun c => c.2.trace.isNone

/-- The cycles that pass in a step with no action: one, or what the choice says in an uneventful cycle. -/
def State.idleFor (s : State) : Nat :=
  let p := s.pick
  if p.dt ≤ 1 then 1 else if s.uneventful then min p.dt s.horizon else 1

/-- The instructions of a frame as n cycles pass: one that waits for a resource is not ready, and becomes ready in the cycle in which it has what
it lacked (R24); the bound of one that is ready grows by the cycles in which an urgent one has taken its slot (R25) or it waits for the divider (R114). -/
def State.clockFrame (s : State) (n k : Nat) (f : Frame) : Frame :=
  f.cfg.instrs.foldl (fun (f : Frame) q =>
    match f.stat.get? q.1 with
    | none | some (.waiting _) =>
      if !f.present q.1 q.2 then f
      else if !s.movesOn k q.1 q.2 then { f with ready := f.ready.del q.1 }
      else
        let f1 : Frame := if (f.ready.get? q.1).isNone then { f with ready := f.ready.put q.1 s.sched.cycle } else f
        if (s.slotUse (k / 256) (slotCode q.2.slot)).urgent || (q.2.divides && s.dividerBusy (k / 256)) then
          { f1 with grace := f1.grace.put q.1 (f1.grace.getD q.1 0 + n) }
        else f1
    | _ => f) f

/-- The instructions of every live frame of a context that issues, as n cycles pass. -/
def State.clockReady (s : State) (n : Nat) : State :=
  { s with pe := { s.pe with frames := s.pe.frames.map fun p =>
      (p.1, if p.2.live && s.issuing p.2.ctx then s.clockFrame n p.1 p.2 else p.2) } }

/-- Requests that have not left for their engines reach them later (R269). -/
def State.clockReqs (s : State) (n : Nat) : State :=
  { s with sync := { s.sync with reqs := s.sync.reqs.map fun p => if s.reqSent p.1 p.2 then p else (p.1, { p.2 with arrival := s.sched.cycle + n }) } }

/-- The remote packages with which an event exchanges something over JX: the senders and receivers of messages it takes, the home of an access, an engine. -/
def State.crossed (s t : State) (e : Event) : List Nat :=
  (s.net.filter fun p => (t.net.get? p.1).isNone).flatMap (fun p => p.2.src.package.toList ++ p.2.dst.package.toList) ++
    match e with
    | .memoryAccessAtHome n p => (((s.mem.accesses.get? n).bind fun a => a.pieces[p]?).bind fun q => q.home.package).toList
    | .atomicEngineRequest q _ => (Agent.quad q).package.toList
    | _ => []

/-- An action happens; what crosses a JX link goes in a group of its own (R475). -/
def State.run (s : State) : Action → Host.Outcome State Fault Refusal
  | .issue k idx i => s.runIssue k idx i
  | .event e => match e.run s with
    | .next t => .next ((s.crossed t e).foldl State.grouped t)
    | o => o
  | .input e => exec e { s with sched := { s.sched with inbox := s.sched.inbox.tail } }

/-- One step of the machine. -/
def State.advance (s : State) : Host.Outcome State Fault Refusal :=
  match s.badWord with
  | some r => .refused (.illFormed r)
  | none =>
    match s.nextAction with
    | some a => s.popped.run a
    | none => .next (((s.popped.clockReady s.idleFor).clockReqs s.idleFor).tick s.idleFor)

/-! ### Placing an instruction -/

/-- The raw instruction of a table word: its bytes in memory order as words (R7). -/
def rawOfWord (nbits w : Nat) : Raw :=
  let l := wordsOfBytes (bytesOfNat 8 (w % 2 ^ nbits))
  { base := nthD l 0 0, second := nthD l 1 0 }

/-- A block of one instruction, of a type that may hold it (R60). -/
def wordCfg (r : Raw) : Cfg :=
  let c : Cfg := { num := 0, addr := 0, obj := 0, ty := .code, code := [r], reads := [], writes := [], storeMask := 0, nodes := [] }
  match c.instr 0 with
  | some (.iter _) | some (.lbreak _) | some (.carry _) => { c with ty := .loop }
  | some i => if i.isStore then { c with storeMask := BitVec.ofNat 32 (2 ^ (i.lsid.getD 0)) } else c
  | none => c

/-- Operands for it: scalar zeros, and a predicate that matches. -/
def wordSlots (c : Cfg) : Tab Tok :=
  match c.instr 0 with
  | none => []
  | some i => (i.required.map fun sd => (sideNum sd, if sd == .c && i.hdr.pr == .ifTrue then scalarTok 1 else zeroTok)).foldl
      (fun l p => l.put p.1 p.2) []

/-- The context it runs in: a manager of partition 0 on die 0. -/
def wordCtx (now : Nat) : Ctx :=
  let d : CtxDesc := { asid := 0, part := 0, dbgen := true, mgr := true, urgent := false, dies := 1, spillq := 0, fquota := 0, prio := 1, root := 0
                       stop := 0, entry := 0, notify := 0, reserved := false }
  d.ctx 0 0 0 now true

/-- The task it runs in; an instruction of a loop body has a loop. -/
def wordTask (c : Cfg) (now : Nat) : Task :=
  let r : Rec := { code := 0, join := 0, regs := 128, fa := false, place := 0, prio := 0, dep := none, args := [0, 0, 0, 0, 0], g5 := none }
  let l : Loop := { frame := 1, uid := 0, idx := 0, body := 0, first := 0, sent := [0], next := 1, stop := 1, step := 1, k := 1, started := [0]
                    committed := 0, carry := zeroTok, carries := [], brk := none, limit := 1, paused := [], fin := false }
  { num := 0, ctx := 1, quad := 0, record := r, arg5 := 0, regs := List.replicate 128 zeroTok, nregs := 128, stack := []
    loop := if c.ty == .loop then some l else none, estWord := 0x7FFFFFFF, estCycle := now, steps := 0, ckptReq := false, preempt := .running
    barWait := [], popCycle := now, ending := none, endEntry := none, abnormal := none, yielded := false, image := none }

/-- The frame it runs in. -/
def wordFrame (c : Cfg) (uid now : Nat) : Frame :=
  let a : Activation := { Activation.fresh 0 1 0 0 now (if c.ty == .loop then some 0 else none) with cfg := some c }
  { newFrame a c uid 0 false 0 now with slots := wordSlots c, ready := [(0, now)] }

/-- The instruction of a table word is the next to issue: context 1 runs one task, on PE 0, whose one Open frame holds it with its
operands, and the plan picks it. -/
def State.placeWord (s : State) (nbits w : Nat) : State :=
  let c := wordCfg (rawOfWord nbits w)
  let now := s.sched.cycle
  let win : WinCfg := { num := 0, addr := 0, ctx := 1, tag1 := 0, beginCycle := now, used := now, fired := 0, waitOp := 0, blocked := 0, cfgLoad := 0 }
  { s with ctxs := [(1, wordCtx now)]
           pe := { s.pe with frames := [(0, wordFrame c s.sched.serial now)], queue := [], tasks := [(0, wordTask c now)], windows := [(0, [win])], issued := [], divider := [] }
           sched := { s.sched with plan := [{ k := 0, dt := 0 }], serial := s.sched.serial + 1 } }

end Sys2Proof.Machine
end

