-- ==== Sys2Proof/Machine/Step.lean ====
section
/-! DEFINITION. One step of the machine. -/

namespace Sys2Proof.Machine

/-- One step: one action of the part, or the passage of time. -/
def step (s : State) : Host.Outcome State Fault Refusal := s.advance

/-- The state with the instruction of a table word as the next to issue. -/
def State.withFetchWord (s : State) (nbits w : Nat) : State := s.placeWord nbits w

end Sys2Proof.Machine
end

