-- ==== Sys2Proof/Safety.lean ====
section
/-! DEFINITION. The words that statements about the machine use: when an instruction fires, what its firing leaves, what stays as
it was, and what every state of a sound run keeps. -/

namespace Sys2Proof

/-- A row of the table that is an event of the machine, not an instruction word. -/
def Instr.isEvent : Instr → Bool
  | .tokenDelivery _ | .tokenResend _ | .tokenParity _ | .splitPhaseReply _ | .tileRelease _ | .frameGrant _ | .blockCommit _ _
  | .frameFree _ _ | .loopIterationStart _ _ | .memoryAccessAtHome _ _ | .translationWalk _ | .faultQueueDoorbell _
  | .atomicEngineRequest _ _ | .atomicLineFill _ _ | .countMessage _ | .counterFire _ | .barrierArrival _
  | .barrierPhaseComplete _ | .barrierRelease _ | .channelBindRequest _ | .channelElement _ | .channelReceiveRequest _
  | .spillReadback _ | .endpointRelease _ | .channelCloseMessage _ | .xoff _ | .xon _ | .monitorExtend _ | .probationExpiry _
  | .linkRetrain _ | .linkDown _ | .jxTagFailure _ | .copyStart _ | .copyComplete _ | .copyQueueDoorbell _
  | .copyQueueRegistration _ | .ringHeadUpdate _ | .matrixOperandPacket _ | .accumulatorSpill _ _ | .taskPop _ | .taskEnd _ _
  | .joinDecrement _ | .futureOperation _ | .futurePoison _ | .dequeOperation _ | .workQueueOperation _ | .dependenceSubmit _
  | .dependenceRelease _ _ | .copyBack _ _ | .costReport _ | .quadGate _ | .quadWake _ | .preempt _ | .haltLine _
  | .haltComplete _ | .watchdog _ | .create _ | .hostReply _ _ _ | .kilnTranslate _ | .configLoad _ _ | .invalidationEffect _
  | .traceSample _ _ | .apertureSizeWrite _ | .pkgnoWrite _ | .deviceRegisterWrite _ | .hostBarAccess _ | .bridgeLinkLoss
  | .ownershipChange _ _ | .lockInterfaceRequest _ | .startInterfaceRequest _ | .stopInterface _ | .getVersion
  | .getCapabilities | .negotiateAlgorithms | .getDigests | .getCertificate _ | .challenge _ | .getMeasurements _ _
  | .keyExchange _ _ | .finish _ | .keyUpdate _ | .endSession _ | .reset _ | .powerStateRequest _ | .thermalThrottle _
  | .thermalShutdown | .ideIntegrityFailure _ | .bridgeLinkReturn | .partitionCreation _ _ | .verificationKeyInstall _ _ => true
  | _ => false

/-- The instructions of chapter 7, which R188 orders. -/
def Instr.ordered : Instr → Bool
  | .mma _ _ | .mmar _ _ | .zinit _ _ | .zclrf _ _ | .zflags _ _ | .zscale _ _ | .zload _ _ | .zdrain _ _ _ | .tmac _ _ _
  | .rcfg _ _ | .rpush _ _ | .rpop _ _ | .rstat _ _ | .epload _ _ | .eparg _ _ => true
  | _ => false

/-- The accumulator that an instruction names (R187). -/
def Instr.accumulator : Instr → Option (BitVec 3)
  | .mma _ x | .mmar _ x | .tmac _ x _ => some x.z
  | .zinit _ w | .zclrf _ w | .zflags _ w | .zscale _ w | .zload _ w => some w.z
  | .zdrain _ z _ => some z
  | _ => none

/-- A relation of CMP (R121). -/
def Cond.holds (c : Cond) (a b : Word) : Prop :=
  match c with
  | .eq => a = b
  | .ne => a ≠ b
  | .lt => a.toInt < b.toInt
  | .ge => b.toInt ≤ a.toInt
  | .ltu => a.toNat < b.toNat
  | .geu => b.toNat ≤ a.toNat

/-- The instructions of R115, R117, R121 and R122: two operands, the second of which may be an immediate (R51). -/
inductive IntOp where
  | add | sub | and | or | xor | shl | shr | sar | min | max | minu | maxu | rotl | andn | orn | xnor
  | mul | mulh | mulhu | div | divu | rem | remu
  | cmp (cc : Cond)
  | lea
  deriving DecidableEq, Repr

/-- The instruction with b from its slot, or with an immediate. -/
def IntOp.instr (o : IntOp) (h : Hdr) : Option (BitVec 32) → Instr
  | none => match o with
    | .add => .add h
    | .sub => .sub h
    | .and => .and_ h
    | .or => .or_ h
    | .xor => .xor_ h
    | .shl => .shl h
    | .shr => .shr h
    | .sar => .sar h
    | .min => .min_ h
    | .max => .max_ h
    | .minu => .minu h
    | .maxu => .maxu h
    | .rotl => .rotl h
    | .andn => .andn h
    | .orn => .orn h
    | .xnor => .xnor h
    | .mul => .mul h
    | .mulh => .mulh h
    | .mulhu => .mulhu h
    | .div => .div h
    | .divu => .divu h
    | .rem => .rem_ h
    | .remu => .remu h
    | .lea => .lea h
    | .cmp cc => .cmp h cc
  | some w => match o with
    | .add => .addImm h w
    | .sub => .subImm h w
    | .and => .andImm h w
    | .or => .orImm h w
    | .xor => .xorImm h w
    | .shl => .shlImm h w
    | .shr => .shrImm h w
    | .sar => .sarImm h w
    | .min => .minImm h w
    | .max => .maxImm h w
    | .minu => .minuImm h w
    | .maxu => .maxuImm h w
    | .rotl => .rotlImm h w
    | .andn => .andnImm h w
    | .orn => .ornImm h w
    | .xnor => .xnorImm h w
    | .mul => .mulImm h w
    | .mulh => .mulhImm h w
    | .mulhu => .mulhuImm h w
    | .div => .divImm h w
    | .divu => .divuImm h w
    | .rem => .remImm h w
    | .remu => .remuImm h w
    | .lea => .leaImm h w
    | .cmp cc => .cmpImm h cc w

/-- The instructions of R119, R123 and R124. -/
inductive BitOp where
  | clz | ctz | popc | sext | zext | neg | not | abs
  | bfx (w : BfW)
  | bfi (w : BfW)
  deriving DecidableEq, Repr

/-- The instruction. -/
def BitOp.instr (o : BitOp) (h : Hdr) : Instr :=
  match o with
  | .clz => .clz h
  | .ctz => .ctz h
  | .popc => .popc h
  | .sext => .sext h
  | .zext => .zext h
  | .neg => .neg h
  | .not => .not_ h
  | .abs => .abs_ h
  | .bfx w => .bfx h w
  | .bfi w => .bfi h w

/-- The instructions of R125, in FP32 and FP64. -/
inductive FpOp where
  | add | sub | mul | div | min | max | sqrt | abs | neg | cmpeq | cmplt | cmple | cmpun | fma
  deriving DecidableEq, Repr

/-- The instruction of a precision. -/
def FpOp.instr (o : FpOp) (double : Bool) (h : Hdr) : Instr :=
  match o, double with
  | .add, false => .faddS h
  | .add, true => .faddD h
  | .sub, false => .fsubS h
  | .sub, true => .fsubD h
  | .mul, false => .fmulS h
  | .mul, true => .fmulD h
  | .div, false => .fdivS h
  | .div, true => .fdivD h
  | .min, false => .fminS h
  | .min, true => .fminD h
  | .max, false => .fmaxS h
  | .max, true => .fmaxD h
  | .sqrt, false => .fsqrtS h
  | .sqrt, true => .fsqrtD h
  | .abs, false => .fabsS h
  | .abs, true => .fabsD h
  | .neg, false => .fnegS h
  | .neg, true => .fnegD h
  | .cmpeq, false => .fcmpeqS h
  | .cmpeq, true => .fcmpeqD h
  | .cmplt, false => .fcmpltS h
  | .cmplt, true => .fcmpltD h
  | .cmple, false => .fcmpleS h
  | .cmple, true => .fcmpleD h
  | .cmpun, false => .fcmpunS h
  | .cmpun, true => .fcmpunD h
  | .fma, false => .ffmaS h
  | .fma, true => .ffmaD h

/-- The format of a precision (R132). -/
def fpOf (double : Bool) : Machine.FpFmt := if double then Machine.fp64 else Machine.fp32

/-- An operand of a precision (R125): FP32 is bits [31:0]. -/
def fpVal (double : Bool) (w : Word) : Machine.Num := (fpOf double).decode (w.toNat % 2 ^ (if double then 64 else 32))

/-- The result and the flags of R126 to R130 on operands a, b and c: arithmetic rounds the exact result, FABS and FNEG change the sign bit,
FMIN and FMAX return an operand's code, a comparison gives 1 or 0. -/
def FpOp.result (o : FpOp) (double : Bool) (a b c : Word) : Word × Machine.Flags :=
  let x := fpVal double a
  let y := fpVal double b
  let z := fpVal double c
  let bits := if double then 64 else 32
  let code := fun (w : Word) => BitVec.ofNat 64 (w.toNat % 2 ^ bits)
  let rounded := fun (v : Machine.NumF) => (BitVec.ofNat 64 ((fpOf double).result v).1, ((fpOf double).result v).2)
  let truth := fun (p : Bool) => (if p then 1 else 0 : Word)
  match o with
  | .add => rounded (x.add y)
  | .sub => rounded (x.add y.negate)
  | .mul => rounded (x.mul y)
  | .div => rounded (x.div y)
  | .sqrt => rounded x.sqrt
  | .fma => rounded (x.fma y z)
  | .abs => (BitVec.ofNat 64 (a.toNat % 2 ^ (bits - 1)), 0)
  | .neg => (BitVec.ofNat 64 ((a.toNat + 2 ^ (bits - 1)) % 2 ^ bits), 0)
  | .min => (match Machine.Num.pick false x y with
      | some true => code a
      | some false => code b
      | none => BitVec.ofNat 64 (fpOf double).canonNan, Machine.sigNV [x, y])
  | .max => (match Machine.Num.pick true x y with
      | some true => code a
      | some false => code b
      | none => BitVec.ofNat 64 (fpOf double).canonNan, Machine.sigNV [x, y])
  | .cmpeq => (truth (x.eq y), Machine.sigNV [x, y])
  | .cmpun => (truth (x.isNan || y.isNan), Machine.sigNV [x, y])
  | .cmplt => (truth (x.lt y), Machine.flagIf (x.isNan || y.isNan) Machine.flagNV)
  | .cmple => (truth (x.lt y || x.eq y), Machine.flagIf (x.isNan || y.isNan) Machine.flagNV)

/-- The result `v` on operands a and b, as R115, R118, R121 and R122 give it. -/
def IntOp.result (o : IntOp) (a b v : Word) : Prop :=
  let n := b.toNat % 64
  match o with
  | .add => v.toNat = (a.toNat + b.toNat) % 2 ^ 64
  | .sub => v = BitVec.ofInt 64 (a.toInt - b.toInt)
  | .and => ∀ j, v.getLsbD j = (a.getLsbD j && b.getLsbD j)
  | .or => ∀ j, v.getLsbD j = (a.getLsbD j || b.getLsbD j)
  | .xor => ∀ j, v.getLsbD j = (a.getLsbD j != b.getLsbD j)
  | .shl => ∀ j, j < 64 → v.getLsbD j = (decide (n ≤ j) && a.getLsbD (j - n))
  | .shr => ∀ j, v.getLsbD j = a.getLsbD (j + n)
  | .sar => ∀ j, j < 64 → v.getLsbD j = a.getLsbD (Min.min (j + n) 63)
  | .min => v.toInt = Min.min a.toInt b.toInt
  | .max => v.toInt = Max.max a.toInt b.toInt
  | .minu => v.toNat = Min.min a.toNat b.toNat
  | .maxu => v.toNat = Max.max a.toNat b.toNat
  | .rotl => ∀ j, j < 64 → v.getLsbD ((j + n) % 64) = a.getLsbD j
  | .andn => ∀ j, j < 64 → v.getLsbD j = (a.getLsbD j && !b.getLsbD j)
  | .orn => ∀ j, j < 64 → v.getLsbD j = (a.getLsbD j || !b.getLsbD j)
  | .xnor => ∀ j, j < 64 → v.getLsbD j = (a.getLsbD j == b.getLsbD j)
  | .mul => v.toNat = a.toNat * b.toNat % 2 ^ 64
  | .mulh => v.toInt = a.toInt * b.toInt / 2 ^ 64
  | .mulhu => v.toNat = a.toNat * b.toNat / 2 ^ 64
  | .div => if b = 0 then v = BitVec.allOnes 64 else if a.toInt = -2 ^ 63 ∧ b.toInt = -1 then v.toInt = -2 ^ 63
      else v.toInt = a.toInt.tdiv b.toInt
  | .divu => if b = 0 then v = BitVec.allOnes 64 else v.toNat = a.toNat / b.toNat
  | .rem => if b = 0 then v = a else if a.toInt = -2 ^ 63 ∧ b.toInt = -1 then v = 0
      else v.toInt = a.toInt - b.toInt * a.toInt.tdiv b.toInt
  | .remu => if b = 0 then v = a else v.toNat = a.toNat - b.toNat * (a.toNat / b.toNat)
  | .cmp cc => (cc.holds a b → v = 1) ∧ (¬ cc.holds a b → v = 0)
  | .lea => v = BitVec.ofInt 64 (a.toInt + 64 * b.toInt)

/-- The integer-divide flag (R112, R118): DIV, DIVU, REM and REMU by zero. -/
def IntOp.flags (o : IntOp) (b : Word) : Machine.Flags :=
  match o with
  | .div | .divu | .rem | .remu => if b = 0 then Machine.flagID else 0
  | _ => 0

/-- The result `v` on operands a, b and c, as R120, R123 and R124 give it. -/
def BitOp.result (o : BitOp) (a b c v : Word) : Prop :=
  let n := b.toNat % 64
  match o with
  | .clz => v.toNat ≤ 64 ∧ (∀ j, 64 ≤ v.toNat + j → a.getLsbD j = false) ∧ (v.toNat < 64 → a.getLsbD (63 - v.toNat) = true)
  | .ctz => v.toNat ≤ 64 ∧ (∀ j, j < v.toNat → a.getLsbD j = false) ∧ (v.toNat < 64 → a.getLsbD v.toNat = true)
  | .popc => v.toNat = ((List.range 64).filter fun j => a.getLsbD j).length
  | .sext => ∀ j, j < 64 → v.getLsbD j = a.getLsbD (Min.min j n)
  | .zext => ∀ j, j < 64 → v.getLsbD j = (decide (j ≤ n) && a.getLsbD j)
  | .neg => v = BitVec.ofInt 64 (-a.toInt)
  | .not => ∀ j, j < 64 → v.getLsbD j = !a.getLsbD j
  | .abs => v.toNat = a.toInt.natAbs
  | .bfx w => ∀ j, j < 64 →
      v.getLsbD j = if j ≤ w.width.toNat then a.getLsbD (w.pos.toNat + j) else w.sx && a.getLsbD (w.pos.toNat + w.width.toNat)
  | .bfi w => ∀ j, j < 64 →
      v.getLsbD j = if w.pos.toNat + c.toNat % 64 ≤ j ∧ j ≤ w.pos.toNat + c.toNat % 64 + w.width.toNat
        then b.getLsbD (j - (w.pos.toNat + c.toNat % 64)) else a.getLsbD j

end Sys2Proof

namespace Sys2Proof.Machine

/-! ### Firing -/

/-- The instruction in focus fires: its frame is Open and its context issues, it has not resolved, its operands are there and R88 holds
where it applies (`firing`, R78), its predicate matches (R79), and no operand is null where that would send nulls (R80). -/
def Fires (i : Instr) (s : State) (f : Firing) : Prop :=
  s.firing i = some f ∧ predMismatch f.h f.c = false ∧ f.nulled i = false

/-- A target that is a write entry has no token yet (R86). -/
def Firing.entryFree (f : Firing) : Target → Bool
  | .write e => (f.fr.outs.get? e.toNat).isNone
  | _ => true

/-- Both targets can take a token: no write entry among them has one, and they are not one write entry (R86). -/
def Firing.clear (f : Firing) : Bool :=
  f.entryFree f.h.t0 && f.entryFree f.h.t1 &&
    (match f.h.t0, f.h.t1 with | .write j, .write k => j != k | _, _ => true)

/-- The handles among the operands that an instruction consumes (R161). -/
def Firing.handles (f : Firing) (i : Instr) : List Tok := (f.consumed i).filter fun t => t.kind == .tile

/-- A token of an activation on its way to one of its instruction's targets (R18, R77, R86): a write entry has it at once, a slot
gets it by a class-0 message of its own PE. -/
def State.arrive (s : State) (f : Firing) (tgt : Target) (t : Tok) : State :=
  match tgt with
  | .none => s
  | .write e => s.modFrame f.key fun fr => { fr with outs := fr.outs.put e.toNat t }
  | .slot sd j => s.post (.pe f.pe) (.pe f.pe) 0
      (.token (tokenRaw 0 t f.x.slot f.pe (f.key % 256) (sideNum sd) j.toNat) f.fr.uid f.src)

/-- The same for a token that may not be sent now. -/
def State.arrive? (s : State) (f : Firing) (tgt : Target) : Option Tok → State
  | some t => s.arrive f tgt t
  | none => s

/-- What memory holds once a store writes nothing: its bytes and every access but the translation of that store's own address (R88). -/
def Firing.withdrawn (f : Firing) (s : State) : MemState :=
  { s.mem with accesses := s.mem.accesses.filter fun p => !(p.2.purpose.isCheck && p.2.src.uid == f.fr.uid && p.2.src.idx == f.idx) }

/-- The end of a firing: the instruction's slots are empty, its status is set, the handles in `rel` lose a reference (R161), and
T0 and T1 receive their tokens. -/
def State.retire (s : State) (f : Firing) (rel : List Tok) (st : IStat) (r0 r1 : Option Tok) : State :=
  (((s.modFrame f.key fun fr => { fr.emptied f.idx with stat := fr.stat.put f.idx st }).dropToks f.pe rel).arrive? f f.h.t0 r0).arrive? f
    f.h.t1 r1

/-- The instruction performs: with the state `u` that its own effect gives, and the tokens T0 and T1 receive. -/
def Gives (i : Instr) (s : State) (f : Firing) (u : State) (rel : List Tok) (r0 r1 : Option Tok) : Prop :=
  exec i s = .next (u.retire f rel .fired r0 r1)

/-- It performs and sends one scalar to both targets. -/
def GivesScalar (i : Instr) (s : State) (f : Firing) (u : State) (rel : List Tok) (v : Word) : Prop :=
  Gives i s f u rel (some (scalarTok v)) (some (scalarTok v))

/-- It raises a fault in the state `u`: the instruction is marked and a stop record with its code and Detail is recorded (R87, R394, R397); with
TOKEN_KIND its operands' references go (R110, R159). -/
def RaisesFrom (i : Instr) (s : State) (f : Firing) (u : State) (c : Code) (detail : Word) : Prop :=
  exec i s = .next (u.failAt f { code := c, detail := detail })

/-- The same, with no other effect. -/
def Raises (i : Instr) (s : State) (f : Firing) (c : Code) (detail : Word) : Prop := RaisesFrom i s f s c detail

/-- A check of R159 fails: the same, and the references its operands hold go with the fault. -/
def Refuses (i : Instr) (s : State) (f : Firing) (c : Code) : Prop := exec i s = .next (s.failAt f { code := c, frees := true })

/-- It waits for what it lacks, and stays ready (R24, R170). -/
def Waits (i : Instr) (s : State) (f : Firing) (r : Short) : Prop := exec i s = .next (s.waitAt f r)

/-! ### Scalar results (R110, R115 to R124) -/

/-- Operands that an instruction of the scalar slot takes as values (R110): none is a handle, but in a dependent of an irrevocable
instruction (R89). -/
def Firing.takesScalars (f : Firing) (i : Instr) : Bool := i.data.all fun sd => (f.get sd).kind != .tile || f.dependent

/-- The second operand: the sign-extended immediate where there is one (R51), else operand b. -/
def Firing.second (f : Firing) (im : Option (BitVec 32)) : Word :=
  match im with
  | some w => w.signExtend 64
  | none => f.b.val

/-- Tokens passed on with the state `u` that the instruction's effect gives (R161): what is sent beyond the operands it came from takes a reference for
each handle, or REFCOUNT is raised (R163); an operand that is not passed on loses its own. -/
def PassesFrom (i : Instr) (s : State) (f : Firing) (u : State) (r0 r1 : Tok) : Prop :=
  let sent := (f.sent (some r0) (some r1)).filter fun t => t.kind == .tile
  let rel := sent.foldl (fun l t => l.erase t) (f.handles i)
  let more := (f.handles i).foldl (fun l t => l.erase t) sent
  (∀ v, u.addRefs more = some v → Gives i s f v rel (some r0) (some r1)) ∧ (u.addRefs more = none → Raises i s f .refcount 0)

/-- The same, with no other effect. -/
def Passes (i : Instr) (s : State) (f : Firing) (r0 r1 : Tok) : Prop := PassesFrom i s f s r0 r1

/-! ### Tiles (R156 to R185) -/

/-- An operand passes the checks of R159: it is a handle of this PE to a live tile of the context with the handle's generation, and
the handle's channel has a format of the tile's width. -/
def Firing.holds (f : Firing) (s : State) (t : Tok) (a : TileIn) : Prop :=
  t.kind = .tile ∧ a.h = t.val ∧ a.slot = s.tileSlot (hPe t.val) (hSlot t.val) ∧ hPe t.val = f.pe ∧ a.slot.count ≠ 0 ∧
    a.slot.owner = f.x.slot ∧ a.slot.gen = hGen t.val ∧ chanOf (f.x.chan (hFc t.val)) = some a.ch ∧ a.ch.fmt.width = a.slot.width

/-- A new tile of a channel and shape: inside its region the code and flags that `g` gives each element, outside it zero codes (R164);
its flags are those of its elements, and the nonfinite bit says whether an element is not finite. -/
def NewTile.isOf (n : NewTile) (fc : Nat) (ch : ChanFmt) (rows cols : Nat) (g : Nat → Nat × Flags) : Prop :=
  n.fc = fc ∧ n.rows = rows ∧ n.cols = cols ∧ n.width = ch.fmt.width ∧ n.codes.length = 256 ∧
    (∀ i, i < 256 → n.codes[i]? = some (if i / 16 ≤ rows ∧ i % 16 ≤ cols then (g i).1 else 0)) ∧
    (∀ j, n.flags.getLsbD j = true ↔ ∃ i, i < 256 ∧ i / 16 ≤ rows ∧ i % 16 ≤ cols ∧ (g i).2.getLsbD j = true) ∧
    (n.nf = true ↔ ∃ i, i < 256 ∧ i / 16 ≤ rows ∧ i % 16 ≤ cols ∧ nonfiniteCode ch.fmt (g i).1 = true)

/-- The instruction, with the state `u` that its other effects give, sends a new tile to both targets: the references in `used` go first, then a
free slot takes the tile, with one reference for each named target (R161, R170). Where it finds no room it waits, and has no effect. -/
def SendsTileFrom (i : Instr) (s : State) (f : Firing) (u : State) (used : List Tok) (n : NewTile) : Prop :=
  let v := u.dropToks f.pe used
  let slot := v.pickSlot f.pe
  let t : Tok := { kind := .tile, val := handleOf f.pe slot n.fc n.rows n.cols (v.tileSlot f.pe slot).gen }
  (f.room u n.width used = true →
    Gives i s f ((v.drawn.fillSlot f.pe slot f.x.slot f.fan n.width n.nf n.codes).orFlags f.key n.flags)
      (used.foldl (fun l t => l.erase t) (f.handles i)) (some t) (some t)) ∧
  (f.room u n.width used = false → Waits i s f .tiles)

/-- The same, with no other effect. -/
def SendsTile (i : Instr) (s : State) (f : Firing) (used : List Tok) (n : NewTile) : Prop := SendsTileFrom i s f s used n

/-- The same, of a tile given element by element. -/
def MakesTile (i : Instr) (s : State) (f : Firing) (used : List Tok) (fc : Nat) (ch : ChanFmt) (rows cols : Nat)
    (g : Nat → Nat × Flags) : Prop := ∃ n : NewTile, n.isOf fc ch rows cols g ∧ SendsTile i s f used n

/-! ### Matrix state (R186 to R217) -/

/-- R187 and R188 let an instruction of the matrix slot perform: its order, and no other task's claim on its accumulator. -/
def Firing.mayUse (f : Firing) (s : State) (i : Instr) (z : Option (BitVec 3)) : Prop :=
  f.inOrder s i = true ∧ ∀ n, z = some n → (s.acc f.pe n.toNat).claim = none ∨ (s.acc f.pe n.toNat).claim = some (f.fr.ctx, f.fr.task)

/-- An accumulator as the instruction finds it: one that comes from another context is cleared (R187). -/
def Firing.accValue (f : Firing) (s : State) (z : BitVec 3) : AccVal :=
  if (s.acc f.pe z.toNat).last = some f.fr.ctx then (s.acc f.pe z.toNat).val else AccVal.reset

/-- An accumulator claimed, and its value. -/
def Firing.accClaimed (f : Firing) (s : State) (z : BitVec 3) : State :=
  s.setAcc f.pe z.toNat { s.acc f.pe z.toNat with val := f.accValue s z, claim := some (f.fr.ctx, f.fr.task), last := some f.fr.ctx }

/-- An accumulator claimed and written, the value before the activation's first change kept in its shadow (R187, R189). -/
def Firing.accSet (f : Firing) (s : State) (z : BitVec 3) (v : AccVal) : State :=
  let a := s.acc f.pe z.toNat
  let kept := match a.shadow with
    | some (u, w) => if u = f.fr.uid then (u, w) else (f.fr.uid, f.accValue s z)
    | none => (f.fr.uid, f.accValue s z)
  s.setAcc f.pe z.toNat { a with val := v, claim := some (f.fr.ctx, f.fr.task), last := some f.fr.ctx, shadow := some kept }

/-- The state in which the instruction claims the accumulator that it names, where it names one (R187). -/
def Firing.claiming (f : Firing) (s : State) : Option (BitVec 3) → State
  | some z => f.accClaimed s z
  | none => s

/-- The instruction takes the next tlm number, which completes, and sends it (R206). -/
def GivesNumber (i : Instr) (s : State) (f : Firing) (u : State) (rel : List Tok) : Prop :=
  let n := (u.pctx f.fr.ctx f.pe).tlm.taken + 1
  GivesScalar i s f ((u.takeNumber f.fr.ctx f.pe .tlm).1.completeNumber f.fr.ctx f.pe .tlm n) rel (BitVec.ofNat 64 n)

/-- A new accumulator value: the code `g` gives each element, and the flags of the old value with those `g` sets (R194). -/
def AccVal.isOf (v old : AccVal) (int : Bool) (g : Nat → Nat × Flags) : Prop :=
  v.int = int ∧ v.elems.length = 256 ∧ (∀ i, i < 256 → v.elems[i]? = some (g i).1) ∧
    ∀ j, j < 5 → (v.flags.getLsbD j = true ↔ old.flags.getLsbD j = true ∨ ∃ i, i < 256 ∧ (g i).2.getLsbD j = true)

/-- An element that an instruction leaves: it keeps its value, or becomes zero where the mode changes (R190, R211). -/
def AccVal.left (old : AccVal) (int : Bool) (i : Nat) : Nat × Flags := (if old.int = int then nthD old.elems i 0 else 0, 0)

/-- An element after MMA (R191): the sum of the old value, or 0 with init, and the products over the common range, exact and rounded
once, or taken modulo 2^32 with OF beyond 32 bits. -/
def AccVal.product (old : AccVal) (init int : Bool) (a b : MatIn) (i : Nat) : Nat × Flags :=
  let n := min a.cols b.rows + 1
  let x := fun (k : Nat) => nthD a.codes (i / 16 * 16 + k) 0
  let y := fun (k : Nat) => nthD b.codes (k * 16 + i % 16) 0
  if i / 16 ≤ a.rows ∧ i % 16 ≤ b.cols then
    if int then
      let start : Int := if init then 0 else if old.int then signedOf 32 (nthD old.elems i 0) else 0
      let sum := (List.range n).foldl (fun (t : Int) k => t + signedOf 8 (x k) * signedOf 8 (y k)) start
      ((sum % 2 ^ 32).toNat, if sum < -2 ^ 31 ∨ 2 ^ 31 ≤ sum then flagOF else 0)
    else roundAcc (sumTerms (oldTerm (if init then .zero else old.num i) :: (List.range n).map fun k => (a.ch.decode (x k)).mul (b.ch.decode (y k))))
  else old.left int i

/-- A ring that the task may use, with a channel of its width and its oldest entry that no instruction of the activation has marked (R196, R197, R209). -/
def Firing.ringEntry (f : Firing) (s : State) (q : Nat) (ch : ChanFmt) (e : RingEntry) : Prop :=
  let r := s.ring f.pe q
  r.bound = some (f.fr.ctx, f.fr.task) ∧ r.error = false ∧ chanOf (f.x.chan r.fc) = some ch ∧ ch.fmt.width = r.width ∧
    r.complete[r.nextPop f.fr.uid]? = some e

/-- The entry is marked by the activation, to be popped at its commit (R197). -/
def Firing.popped (f : Firing) (s : State) (q : Nat) : State :=
  s.setRing f.pe q { s.ring f.pe q with marks := (f.fr.uid, ((s.ring f.pe q).head + (s.ring f.pe q).nextPop f.fr.uid) % 2 ^ 32) :: (s.ring f.pe q).marks }

/-- The state of a drain that reads accumulator z with a checked program into a destination `d` (R213), and the tile it makes. -/
def DrainsTo (i : Instr) (s : State) (f : Firing) (u : State) (z : BitVec 3) (ops : List EpOp) (d : DrainTo) (used : List Tok) : Prop :=
  let out := lastChannel ops d.fc d.ch
  let v := f.accValue u z
  let r := f.drain v ops d out.2
  let w := f.accSet u z { v with flags := v.flags ||| accFlags r.2 }
  let n := (w.pctx f.fr.ctx f.pe).tlm.taken + 1
  SendsTileFrom i s f ((w.takeNumber f.fr.ctx f.pe .tlm).1.completeNumber f.fr.ctx f.pe .tlm n) used
    { fc := out.1, rows := d.rows, cols := d.cols, width := out.2.fmt.width
      nf := regionNonfinite out.2.fmt d.rows d.cols r.1, codes := r.1, flags := 0 }

/-! ### Memory (R218 to R265) -/

/-- A byte address of R218: bits [63:56] of every byte of the extent are equal, and no byte lies past the top. -/
def reachable (va n : Nat) : Prop := va + n ≤ 2 ^ 56 ∨ (2 ^ 64 - 2 ^ 56 ≤ va ∧ va + n ≤ 2 ^ 64)

/-- The request of a load for `n` bytes from an address (R233, R237). -/
def Firing.request (f : Firing) (lsid stream va n : Nat) (dests extra : List Dest) (purpose : AccFor) (step : Option Nat) : Access :=
  { src := f.src, stream := stream, lsid := lsid, write := false, released := false, cells := (List.range n).map fun i => (va + i, i)
    buf := List.replicate n 0, pieces := [], dests := dests, extra := extra, purpose := purpose, state := .lsid, refused := [], step := step
    issued := 0, fwd := [], prior := [] }

/-- A reply to one of the instruction's targets (R77). -/
def Firing.destsTo (f : Firing) (l : List Target) : List Dest :=
  (l.filter fun t => t != .none).map fun t => { pe := f.pe, frame := f.key % 256, uid := f.fr.uid, tgt := t }

/-- A load issues: the outstanding counts of the frames its replies go to rise, and its request is in flight. -/
def State.request (s : State) (a : Access) : State := (a.dests.foldl (fun s d => s.expect (frameKey d.pe d.frame) 1) s).addAccess a

/-- The slot that a routing word names (R234), of an Open frame of the context that no fault discards. -/
def Firing.routes (f : Firing) (s : State) (w : Word) (d : Dest) : Prop :=
  ∃ fr, s.frame? (frameKey f.pe (w.toNat / 2 ^ 9 % 2 ^ 8)) = some fr ∧ fr.isOpen = true ∧ fr.failed = false ∧ fr.ctx = f.fr.ctx ∧ w.toNat < 2 ^ 17 ∧
    w.toNat / 2 ^ 7 % 4 ≠ 3 ∧ d.pe = f.pe ∧ d.frame = w.toNat / 2 ^ 9 % 2 ^ 8 ∧ d.uid = fr.uid ∧
    ∃ sd j, d.tgt = .slot sd j ∧ sideNum sd = w.toNat / 2 ^ 7 % 4 ∧ j.toNat = w.toNat % 2 ^ 7

/-- Memory reads as before at every address. -/
def SameMemory (s t : State) : Prop := ∀ key, t.readByte key = s.readByte key

/-! ### Atomics, counters and barriers (R267 to R291) -/

/-- The activation is kept from here on: its irrevocable instruction has performed (R87, R88, R189). -/
def Firing.performs (f : Firing) (s : State) : State := s.keep f.key fun fr => { fr with performed := true }

/-- A request n of ATOM or ATOMN is performed on a held line `l` (R268, R272): the line's other bytes stay, its own take the result, the tla number
completes, and ATOM's targets get the old value; memory itself waits for the line to go. `lines` are the engine's lines before. -/
def AtomDone (s t : State) (q n : Nat) (r : AtomReq) (lines : List Line) (l : Line) : Prop :=
  let old := fieldAt l.bytes (r.pa % 64) r.size
  let new := atomicNew r.op r.size old r.b.toNat r.c.toNat
  t.sync.reqs.get? n = none ∧ t.mem.bytes = s.mem.bytes ∧
    (t.pctx r.src.ctx r.src.pe).tla = (s.pctx r.src.ctx r.src.pe).tla.complete r.tla ∧
    (r.purpose = .instr true → ∀ d ∈ r.dests, ∃ k e, t.net.get? k = some e ∧ e.dst = .pe d.pe ∧ e.cls = 3 ∧
      e.body = .reply d (scalarTok (BitVec.ofNat 64 old)) r.src) ∧
    ∃ m : Line, (t.engine q).lines = mapIf (fun k => k.pa == l.pa) (fun _ => m) lines ∧ m.pa = l.pa ∧ m.poisoned = l.poisoned ∧ m.bytes.length = 64 ∧
      (∀ i, i < 64 → (i < r.pa % 64 ∨ r.pa % 64 + r.size ≤ i) → m.bytes[i]? = l.bytes[i]?) ∧
      (∀ x, new = some x → m.dirty = true ∧ fieldAt m.bytes (r.pa % 64) r.size = x % 2 ^ (8 * r.size)) ∧
      (new = none → m.bytes = l.bytes ∧ m.dirty = l.dirty)

/-- A request that a bank of an engine may take (R269): it is ready there. -/
def State.mayTake (s : State) (q b n : Nat) (r : AtomReq) : Prop :=
  (n, r) ∈ s.sync.reqs ∧ r.engine = q ∧ r.bank = b ∧ s.reqReady n r = true

/-- Among the faults recorded in a context is one with this code at this instruction index (R394, R397). -/
def State.recorded (t : State) (c : Nat) (code : Code) (idx : Nat) : Prop :=
  ∃ y, t.ctx? c = some y ∧ ∃ r ∈ y.faults, r.code = code ∧ r.src.idx = idx

/-- A context but for the faults recorded in it (R394). -/
def Ctx.quiet (x : Ctx) : Ctx := { x with faults := [], heldFaults := [], haltReq := none }

/-- What every instruction that only computes leaves as it was: memory and every unit, the registers of every task and context, accumulators and rings, and
every frame but its own; of its own frame all but operands, sends, status and sticky flags. -/
def KeepsUnits (s t : State) : Prop :=
  t.mem = s.mem ∧ t.sync = s.sync ∧ t.chans = s.chans ∧ t.copies = s.copies ∧ t.task = s.task ∧ t.kiln = s.kiln ∧ t.dev = s.dev ∧
    t.sched.cycle = s.sched.cycle ∧ t.pe.tasks = s.pe.tasks ∧ t.pe.queue = s.pe.queue ∧ t.pe.accs = s.pe.accs ∧ t.pe.rings = s.pe.rings ∧
    t.pe.pctx = s.pe.pctx ∧ t.pe.windows = s.pe.windows ∧ t.pe.endpoints = s.pe.endpoints ∧ t.pe.regs0 = s.pe.regs0 ∧
    t.pe.spills = s.pe.spills ∧ t.pe.issued = s.pe.issued ∧ t.pe.divider = s.pe.divider ∧
    (∀ c, (t.ctx? c).map Ctx.quiet = (s.ctx? c).map Ctx.quiet) ∧ (∀ k, k ≠ frameKey s.sched.pe s.sched.frame → t.frame? k = s.frame? k) ∧
    ∀ fr, s.frame? (frameKey s.sched.pe s.sched.frame) = some fr → ∃ g, t.frame? (frameKey s.sched.pe s.sched.frame) = some g ∧ g.isOpen = fr.isOpen ∧
      g.uid = fr.uid ∧ g.ctx = fr.ctx ∧ g.task = fr.task ∧ g.cfg = fr.cfg ∧ g.iter = fr.iter ∧ g.held = fr.held ∧ g.branch = fr.branch ∧
      g.satisfied = fr.satisfied ∧ g.stores = fr.stores ∧ g.performed = fr.performed ∧ g.looped = fr.looped ∧ g.outstanding = fr.outstanding

/-- What an instruction that acts on its frame, its loop, the matrix engine or its own accesses leaves as it was before its block commits: every byte of
memory, the general registers of every task, the registers and format channels of every context, and the other units. -/
def KeepsMemory (s t : State) : Prop :=
  SameMemory s t ∧ t.pe.spills = s.pe.spills ∧ t.sync = s.sync ∧ t.chans = s.chans ∧ t.copies = s.copies ∧ t.task = s.task ∧ t.kiln = s.kiln ∧ t.dev = s.dev ∧
    t.sched.cycle = s.sched.cycle ∧ (∀ c, (t.ctx? c).map Ctx.quiet = (s.ctx? c).map Ctx.quiet) ∧
    (∀ pe k, (t.task? pe k).map (fun v => (v.regs, v.stack)) = (s.task? pe k).map fun v => (v.regs, v.stack))

/-- What an instruction that acts through another unit leaves as it was, whatever it asks of that unit: the general registers and call stack of every task,
accumulators and operand rings, and the registers and format channels of every context. -/
def KeepsRegisters (s t : State) : Prop :=
  t.pe.accs = s.pe.accs ∧ t.pe.rings = s.pe.rings ∧ t.pe.spills = s.pe.spills ∧ t.sched.cycle = s.sched.cycle ∧
    (∀ c, (t.ctx? c).map (fun x => (x.regs, x.fc)) = (s.ctx? c).map fun x => (x.regs, x.fc)) ∧
    ∀ pe k, (t.task? pe k).map (fun v => (v.regs, v.stack)) = (s.task? pe k).map fun v => (v.regs, v.stack)

/-- A store fires: its LSID is satisfied, its bytes are held with their addresses until the block commits, and memory reads as before (R84, R242). -/
def HoldsStore (i : Instr) (s : State) (f : Firing) (lsid stream : Nat) (cells : List (Nat × Nat)) (data : List Byte) (holder : Option Word)
    (rel : List Tok) : Prop :=
  ∃ t fr r, exec i s = .next t ∧ t.frame? f.key = some fr ∧ fr.stat = f.fr.stat.put f.idx .fired ∧ fr.satisfied = lsid :: f.fr.satisfied ∧
    r ∈ fr.stores ∧ r.idx = f.idx ∧ r.lsid = lsid ∧ r.stream = stream ∧ r.cells = cells ∧ r.data = some data ∧ r.holder = holder ∧
    SameMemory s t ∧ (rel = [] → t.net = s.net) ∧ t.pe.tiles = (s.dropToks f.pe rel).pe.tiles

/-- A value written into a channel (R166). -/
def putIn (ch : ChanFmt) (v : NumF) : Nat × Flags := ((putF v ch).code, (putF v ch).flags)

/-- Node (k, j) of tree16 (R169): the combination of positions j to j + 2^k − 1, with the flags its parts set. -/
def treeNode (comb : Num → Num → NumF) (leaf : Nat → Option NumF) : Nat → Nat → Option NumF
  | 0, j => leaf j
  | k + 1, j =>
    match treeNode comb leaf k j, treeNode comb leaf k (j + 2 ^ k) with
    | some x, some y => some ((comb x.1 y.1).1, x.2 ||| y.2 ||| (comb x.1 y.1).2)
    | some x, none => some x
    | none, o => o

end Sys2Proof.Machine

namespace Sys2Proof

/-- The arithmetic rows of R172. -/
inductive TileOp where
  | add | sub | mul | max | min | div
  deriving DecidableEq, Repr

/-- The instruction. -/
def TileOp.instr (o : TileOp) (h : Hdr) : Instr :=
  match o with
  | .add => .tadd h
  | .sub => .tsub h
  | .mul => .tmul h
  | .max => .tmax h
  | .min => .tmin h
  | .div => .tdiv h

/-- The element result before it is put (R167, R172). -/
def TileOp.value (o : TileOp) (x y : Machine.Num) : Machine.NumF :=
  match o with
  | .add => x.add y
  | .sub => x.add y.negate
  | .mul => x.mul y
  | .div => x.div y
  | .max => (match Machine.Num.pick true x y with
      | some true => x
      | some false => y
      | none => .nan false, Machine.sigNV [x, y])
  | .min => (match Machine.Num.pick false x y with
      | some true => x
      | some false => y
      | none => .nan false, Machine.sigNV [x, y])

/-- The instruction of a unary function (R173). -/
def Machine.UnFn.instr (o : Machine.UnFn) (h : Hdr) : Instr :=
  match o with
  | .neg => .tneg h
  | .abs => .tabs h
  | .exp => .texp h
  | .log => .tlog h
  | .rsqrt => .trsqrt h
  | .recip => .trecip h
  | .tanh => .ttanh h
  | .sigm => .tsigm h
  | .gelu => .tgelu h

/-- The relation of TCMP on values, NaN comparing unordered (R179). -/
def TCond.holds (c : TCond) (x y : Machine.Num) : Bool :=
  let nan := x.isNan || y.isNan
  match c with
  | .eq => !nan && x.eq y
  | .ne => nan || !x.eq y
  | .lt => !nan && x.lt y
  | .le => !nan && (x.lt y || x.eq y)
  | .gt => !nan && y.lt x
  | .ge => !nan && (y.lt x || x.eq y)
  | .un => nan

end Sys2Proof
end

