-- ==== Sys2Proof/Certificates/Slice0/Obligations.lean ====
section
/-! DEFINITION. What is to be proved of the machine. The rules at the head of a docstring are those that its statement rests on; what it says is in the
sentences after them. `Fires`, `Gives` and the other words are those of Safety.lean. -/

open Sys2Proof Sys2Proof.Machine

/-! ### Firing (R77 to R80, R86 to R88) -/

/-- R78, R79, R85, R87, R88: `exec` of an instruction answers a next state exactly when its frame is Open and no fault discards it, its context issues, it has not resolved, every operand it
requires is present, and, where it is irrevocable or HCALL, R88's condition holds. -/
def Obligations.FiringConditions : Prop :=
  ∀ (i : Instr) (s : State), i.isEvent = false →
    ((∃ t, exec i s = .next t) ↔
      ∃ fr x, s.frame? (frameKey s.sched.pe s.sched.frame) = some fr ∧ fr.isOpen = true ∧ fr.failed = false ∧ s.ctx? fr.ctx = some x ∧
        (x.state = .running ∨ x.state = .checkpointing) ∧
        (∀ st, fr.stat.get? s.sched.idx = some st → st = .faulted ∨ ∃ r, st = .waiting r) ∧
        (∀ sd ∈ i.required, (fr.operand s.sched.idx sd).isSome = true) ∧
        (i.irrevocable = true ∨ i.isHcall = true → fr.settled s.sched.idx = true))

/-- R79: the predicate does not match. The instruction resolves and its operands leave their slots, their handles released; it sends nothing, writes
no entry, satisfies no LSID, takes no branch and holds no effect. R80: a null among the operands. The instruction does not perform: both targets
receive nulls, where the instruction is no store, branch or CARRY; a store satisfies its LSID and writes nothing, and a second one of an LSID raises OPERAND
(R86); a branch takes no effect; a store that writes nothing has its address translated no further (R88). One that names matrix state keeps its order
(R188) and claims its accumulator with its nulls, or waits: that instructions which send nulls claim it is the model's choice (DEDUCED, assumption log 109). -/
def Obligations.MismatchAndNulls : Prop :=
  (∀ (i : Instr) (s : State) (f : Firing), i.isEvent = false → s.firing i = some f → f.c.kind ≠ .null →
    ((i.hdr.pr = .ifTrue ∧ f.c.val.getLsbD 0 = false) ∨ (i.hdr.pr = .ifFalse ∧ f.c.val.getLsbD 0 = true)) →
    ∃ t fr, exec i s = .next t ∧ t.frame? f.key = some fr ∧
      fr.stat = f.fr.stat.put f.idx .mismatched ∧ fr.slots = (f.fr.emptied f.idx).slots ∧ fr.outs = f.fr.outs ∧
      fr.satisfied = f.fr.satisfied ∧ fr.branch = f.fr.branch ∧ fr.nullBranch = f.fr.nullBranch ∧ fr.held = f.fr.held ∧
      fr.flags = f.fr.flags ∧ fr.outstanding = f.fr.outstanding ∧
      (i.isStore = false → t.mem = s.mem) ∧ (i.isStore = true → t.mem = f.withdrawn s) ∧
      t.net = (s.dropToks f.pe (f.consumed i)).net ∧ t.pe.tiles = (s.dropToks f.pe (f.consumed i)).pe.tiles) ∧
  (∀ (i : Instr) (s : State) (f : Firing), i.isEvent = false → s.firing i = some f → predMismatch f.h f.c = false →
    ((i.hdr.pr ≠ .always ∧ f.c.kind = .null) ∨ ∃ sd ∈ i.nullSides, (f.get sd).kind = .null) → f.clear = true →
    (i.isStore = false → i.isCarry = false → i.branchClass = false → i.ordered = false →
      Gives i s f s (f.handles i) (some nullTok) (some nullTok)) ∧
    (i.ordered = true →
      (f.mayUse s i i.accumulator → Gives i s f (f.claiming s i.accumulator) (f.handles i) (some nullTok) (some nullTok)) ∧
      (f.inOrder s i = false → Waits i s f .order) ∧
      (∀ z o, f.inOrder s i = true → i.accumulator = some z → (s.acc f.pe z.toNat).claim = some o → o ≠ (f.fr.ctx, f.fr.task) →
        Waits i s f .accumulator)) ∧
    (∀ l, i.isStore = true → i.lsid = some l → f.fr.satisfied.contains l = true → Raises i s f .operand 0) ∧
    (∀ l, i.isStore = true → i.lsid = some l → f.fr.satisfied.contains l = false →
      ∃ t fr, exec i s = .next t ∧ t.frame? f.key = some fr ∧ fr.satisfied = l :: f.fr.satisfied ∧
        fr.stores = mapIf (fun r => r.idx == f.idx) (fun r => { r with dropped := true }) f.fr.stores ∧
        fr.stat = f.fr.stat.put f.idx .fired ∧ t.mem = f.withdrawn s) ∧
    (i.branchClass = true →
      ∃ t fr, exec i s = .next t ∧ t.frame? f.key = some fr ∧ fr.branch = f.fr.branch ∧ fr.nullBranch = true ∧
        fr.stat = f.fr.stat.put f.idx .fired))

/-! ### Scalar instructions (R81, R99 to R103, R109 to R153) -/

/-- R110, R115 to R118, R121, R122: every integer ALU, multiply, divide, compare and address instruction, with its second operand from a slot or from
an immediate, sends its result to both targets and sets the integer-divide flag where it divides by zero. A handle is taken only in a dependent of an
irrevocable instruction, where its value is read and its reference released (R89). XOR (`xor_`) completes with the exclusive or of its operands. -/
def Obligations.IntegerResults : Prop :=
  (∀ (o : IntOp) (h : Hdr) (im : Option (BitVec 32)) (s : State) (f : Firing),
    Fires (o.instr h im) s f → f.clear = true → f.takesScalars (o.instr h im) = true →
    ∃ v, o.result f.a.val (f.second im) v ∧
      GivesScalar (o.instr h im) s f (s.orFlags f.key (o.flags (f.second im))) (f.handles (o.instr h im)) v) ∧
  (∀ (h : Hdr) (s : State) (f : Firing), Fires (.xor_ h) s f → f.clear = true → f.takesScalars (.xor_ h) = true →
    GivesScalar (.xor_ h) s f (s.orFlags f.key 0) (f.handles (.xor_ h)) (f.a.val ^^^ f.b.val))

/-- R119, R120, R123, R124: the unary and bit-field instructions send their result, given bit by bit where the rule gives bits. -/
def Obligations.BitResults : Prop :=
  ∀ (o : BitOp) (h : Hdr) (s : State) (f : Firing), (o.instr h).wf = true →
    Fires (o.instr h) s f → f.clear = true → f.takesScalars (o.instr h) = true →
    ∃ v, o.result f.a.val f.b.val f.c.val v ∧ GivesScalar (o.instr h) s f s (f.handles (o.instr h)) v

/-- R125 to R130: every floating-point instruction of both precisions sends its result and sets its flags with the activation. -/
def Obligations.FloatingPointResults : Prop :=
  ∀ (o : FpOp) (double : Bool) (h : Hdr) (s : State) (f : Firing),
    Fires (o.instr double h) s f → f.clear = true → f.takesScalars (o.instr double h) = true →
    GivesScalar (o.instr double h) s f (s.orFlags f.key (o.result double f.a.val f.b.val f.c.val).2) (f.handles (o.instr double h))
      (o.result double f.a.val f.b.val f.c.val).1

/-- R126, R133: a NaN operand of FADD, FSUB, FMUL, FDIV, FSQRT or FFMA gives the canonical NaN; so do infinity minus infinity, zero times infinity,
zero over zero, infinity over infinity and the root of a value below −0, with NV; FFMA in which a × b is zero times infinity sets NV too, even when c is a
quiet NaN, and so does an infinite product with an infinite c of the other sign; a finite nonzero value over zero is an infinity with DZ. R126,
R132: rounding gives back a value that the format holds: for every finite code of FP32 and FP64 its own code, and no flag. -/
def Obligations.FloatingPointValues : Prop :=
  (∀ (double : Bool) (a b c : Word),
    let x := fpVal double a
    let y := fpVal double b
    let z := fpVal double c
    let nan := BitVec.ofNat 64 (fpOf double).canonNan
    (∀ o ∈ [FpOp.add, FpOp.sub, FpOp.mul, FpOp.div, FpOp.fma], x.isNan = true ∨ y.isNan = true → (o.result double a b c).1 = nan) ∧
    (z.isNan = true → (FpOp.fma.result double a b c).1 = nan) ∧
    (x.isNan = true → (FpOp.sqrt.result double a b c).1 = nan) ∧
    (x.isInf = true → y.isInf = true → x.sign = y.sign → FpOp.sub.result double a b c = (nan, flagNV)) ∧
    (x.isInf = true → y.isInf = true → x.sign ≠ y.sign → FpOp.add.result double a b c = (nan, flagNV)) ∧
    ((x.isInf = true ∧ y.isZero = true) ∨ (x.isZero = true ∧ y.isInf = true) →
      FpOp.mul.result double a b c = (nan, flagNV) ∧ FpOp.fma.result double a b c = (nan, flagNV)) ∧
    (x.isInf = true → y.isInf = true → z.isInf = true → z.sign ≠ (x.sign != y.sign) → FpOp.fma.result double a b c = (nan, flagNV)) ∧
    (∀ n d, x.isInf = true → y = .fin y.sign n d → n ≠ 0 → z.isInf = true → z.sign ≠ (x.sign != y.sign) →
      FpOp.fma.result double a b c = (nan, flagNV) ∧ FpOp.fma.result double b a c = (nan, flagNV)) ∧
    (x.isZero = true → y.isZero = true → FpOp.div.result double a b c = (nan, flagNV)) ∧
    (x.isInf = true → y.isInf = true → FpOp.div.result double a b c = (nan, flagNV)) ∧
    (∀ n d, x = .fin true n d → n ≠ 0 → FpOp.sqrt.result double a b c = (nan, flagNV)) ∧
    (x = .inf true → FpOp.sqrt.result double a b c = (nan, flagNV)) ∧
    (∀ sg n d, x = .fin sg n d → n ≠ 0 → y.isZero = true →
      FpOp.div.result double a b c = (BitVec.ofNat 64 ((fpOf double).infCode (sg != y.sign)), flagDZ))) ∧
  (∀ (double : Bool) (neg : Bool) (m : Nat), m ≤ (fpOf double).maxCode →
    (fpOf double).result ((fpOf double).decode ((fpOf double).withSign neg m), 0) = ((fpOf double).withSign neg m, 0))

/-- R110: a handle among the data operands of an instruction of the scalar integer and floating-point groups raises TOKEN_KIND, but in a dependent of
an irrevocable instruction. R159, R165: what the tile instructions refuse: an operand that is no handle raises TOKEN_KIND; one of another PE, of no
live slot, of another context or of another generation HANDLE; one whose channel has a reserved format or another width OPERAND, each releasing the
references that the operands hold; then unequal shapes OPERAND; TFMA's operand c is held to the same checks and to the same shape. -/
def Obligations.HandleFaults : Prop :=
  (∀ (s : State) (f : Firing), f.dependent = false →
    (∀ (o : IntOp) (h : Hdr) (im : Option (BitVec 32)), Fires (o.instr h im) s f →
      (∃ sd ∈ (o.instr h im).data, (f.get sd).kind = .tile) → Raises (o.instr h im) s f .tokenKind 0) ∧
    (∀ (o : BitOp) (h : Hdr), Fires (o.instr h) s f →
      (∃ sd ∈ (o.instr h).data, (f.get sd).kind = .tile) → Raises (o.instr h) s f .tokenKind 0) ∧
    (∀ (o : FpOp) (double : Bool) (h : Hdr), Fires (o.instr double h) s f →
      (∃ sd ∈ (o.instr double h).data, (f.get sd).kind = .tile) → Raises (o.instr double h) s f .tokenKind 0)) ∧
  (∀ (s : State) (f : Firing) (h : Hdr) (c : TCond) (w : ConvW),
    let slot := fun (t : Tok) => s.tileSlot (hPe t.val) (hSlot t.val)
    let stale := fun (t : Tok) => hPe t.val ≠ f.pe ∨ (slot t).count = 0 ∨ (slot t).owner ≠ f.x.slot ∨ (slot t).gen ≠ hGen t.val
    let badChan := fun (t : Tok) => ∀ ch, chanOf (f.x.chan (hFc t.val)) = some ch → ch.fmt.width ≠ (slot t).width
    let pairs := [Instr.tadd h, .tsub h, .tmul h, .tmax h, .tmin h, .tdiv h, .tand h, .tor h, .txor h, .tcmp h c, .tsel h]
    let refuses := fun (i : Instr) (t : Tok) =>
      (t.kind = .scalar → Refuses i s f .tokenKind) ∧ (t.kind = .tile → stale t → Refuses i s f .handle) ∧
        (t.kind = .tile → ¬ stale t → badChan t → Refuses i s f .operand)
    (∀ i ∈ pairs ++ [.tfma h, .tneg h, .tabs h, .texp h, .tlog h, .trsqrt h, .trecip h, .ttanh h, .tsigm h, .tgelu h, .trsum h, .tcsum h,
        .trmax h, .tcmax h, .tsum h, .ttrans h, .trel h, .tcopy h, .tcvt h w, .tamax h], Fires i s f → refuses i f.a) ∧
    (∀ i ∈ pairs ++ [.tfma h], ∀ a, Fires i s f → f.holds s f.a a → refuses i f.b) ∧
    (∀ a b, Fires (.tfma h) s f → f.holds s f.a a → f.holds s f.b b → refuses (.tfma h) f.c) ∧
    (∀ a b c, Fires (.tfma h) s f → f.holds s f.a a → f.holds s f.b b → f.holds s f.c c →
      (a.rows ≠ b.rows ∨ a.cols ≠ b.cols ∨ a.rows ≠ c.rows ∨ a.cols ≠ c.cols) → Raises (.tfma h) s f .operand 0) ∧
    (∀ i ∈ pairs, ∀ a b, Fires i s f → f.holds s f.a a → f.holds s f.b b → (a.rows ≠ b.rows ∨ a.cols ≠ b.cols) → Raises i s f .operand 0) ∧
    (∀ i ∈ [Instr.telget h, .telset h, .tmask h, .trowb h, .tcolb h], Fires i s f → f.b.kind = .tile → Raises i s f .tokenKind 0))

/-- R141, R147, R150 and R153: CVT sends the converted value to T0 and its overflow token to T1 and sets its flags; FCGET sends the image of a format
channel. R140, R152, R155: FCSET and TRESCALE send a channel's new image now and hold the write for the commit: FCSET's image is the word's or operand
a's and must be one of R139, TRESCALE adds a signed delta to the scale, clamped to −128 and 127 with SV. -/
def Obligations.FormatInstructions : Prop :=
  (∀ (s : State) (f : Firing), f.clear = true →
    (∀ h k w ch, Fires (.cvt h k w) s f → f.takesScalars (.cvt h k w) = true → chanOf (f.x.chan w.fc.toNat) = some ch →
      let p := convertKind k ch f.a.val (f.rounding w.mode 0)
      Gives (.cvt h k w) s f (s.orFlags f.key p.flags) (f.handles (.cvt h k w)) (some (scalarTok (wordOf p.code)))
        (some (if p.sat then scalarTok 1 else nullTok))) ∧
    (∀ h w, Fires (.fcget h w) s f →
      GivesScalar (.fcget h w) s f s (f.handles (.fcget h w)) ((f.x.chan w.chan.toNat).zeroExtend 64))) ∧
  (∀ (s : State) (f : Firing), f.clear = true →
    (∀ h w, Fires (.fcset h w) s f → f.fr.writesChan w.chan.toNat = false →
      (w.fromA = true → f.a.kind = .scalar) →
      let img : Word := if w.fromA then f.a.val else BitVec.ofNat 64 (w.scale.toNat * 256 + w.fmt.toNat)
      (∀ j, 16 ≤ j → img.getLsbD j = false) → (∀ j, 4 ≤ j → j < 8 → img.getLsbD j = false) → img.getLsbD 3 = false →
      GivesScalar (.fcset h w) s f (s.hold f.key (.fcset w.chan.toNat img)) (f.handles (.fcset h w)) img) ∧
    (∀ h, Fires (.trescale h) s f → f.a.kind = .scalar → f.b.kind = .scalar → f.a.val.toNat < 32 →
      f.fr.writesChan f.a.val.toNat = false →
      let old := f.x.chan f.a.val.toNat
      let sum := signedOf 8 (old.toNat / 256) + f.b.val.toInt
      let scale : Int := max (-128) (min 127 sum)
      ∃ img : Word, signedOf 8 (img.toNat / 256) = scale ∧ img.toNat % 16 = old.toNat % 16 ∧ img.toNat < 2 ^ 16 ∧ img.toNat / 16 % 16 = 0 ∧
        GivesScalar (.trescale h) s f ((s.hold f.key (.trescale f.a.val.toNat f.b.val.toInt)).orFlags f.key (if sum = scale then 0 else flagSV))
          (f.handles (.trescale h)) img))

/-! ### Steering, branches and loops (R81, R92 to R108, R382) -/

/-- R81, R99 to R103: CONST, CONST.zx, CONSTH and NULL send their value; MOV and GATE pass operand a on, of whatever kind, and SEL passes it to the
target that bit 0 of b picks and a null to the other. Handles keep their count of references. -/
def Obligations.SteeringResults : Prop :=
  ∀ (s : State) (f : Firing), f.clear = true →
    (∀ h w, Fires (.const_ h w) s f → GivesScalar (.const_ h w) s f s (f.handles (.const_ h w)) (w.signExtend 64)) ∧
    (∀ h w, Fires (.constZx h w) s f → GivesScalar (.constZx h w) s f s (f.handles (.constZx h w)) (w.zeroExtend 64)) ∧
    (∀ h w, Fires (.consth h w) s f →
      GivesScalar (.consth h w) s f s (f.handles (.consth h w)) (w ++ BitVec.extractLsb' 0 32 f.a.val)) ∧
    (∀ h, Fires (.null_ h) s f → Gives (.null_ h) s f s (f.handles (.null_ h)) (some nullTok) (some nullTok)) ∧
    (∀ h, Fires (.mov h) s f → Passes (.mov h) s f f.a f.a) ∧
    (∀ h, Fires (.gate h) s f → Passes (.gate h) s f f.a f.a) ∧
    (∀ h, Fires (.sel h) s f → f.b.val.getLsbD 0 = true → Passes (.sel h) s f nullTok f.a) ∧
    (∀ h, Fires (.sel h) s f → f.b.val.getLsbD 0 = false → Passes (.sel h) s f f.a nullTok)

/-- R54, R86, R105, R107, R382: the branch-class instructions. The first to fire with operands gives the block its branch effect, which its commit
carries out: a goto, a call with the block after in the table as its return, a return to the top of the stack, the end of the task, the end of an
iteration, or a break, which also sets the loop's break flag now: the earliest iteration that broke (R94), after which the sequencer starts none that it
had not started; for a negative step the earliest is the one of the highest index, which is the model's choice (DEDUCED, assumption log 20). A block address is checked as it is read, but BR and CALL of a block with an
irrevocable instruction were checked when the frame opened. -/
def Obligations.BranchEffects : Prop :=
  ∀ (s : State) (f : Firing), f.clear = true → f.fr.branch = none →
    let c := f.fr.cfg
    let ok := fun tgt ty => s.checkBlock f.die f.fr.ctx c.addr tgt ty = true
    let takes := fun i b => Gives i s f (s.modFrame f.key fun fr => { fr with branch := some b }) (f.handles i) none none
    let at_ := fun (w : BitVec 32) => (BitVec.ofInt 64 ((c.addr : Int) + 64 * w.toInt)).toNat
    (∀ h w, Fires (.br h w) s f → (c.hasIrrevocable = true ∨ ok (at_ w) c.ty) → takes (.br h w) (.goto (at_ w))) ∧
    (∀ h, Fires (.bri h) s f → ok f.a.val.toNat c.ty → takes (.bri h) (.goto f.a.val.toNat)) ∧
    (∀ h w r, Fires (.call h w) s f → s.nextBlock f.fr.ctx c.addr = some r →
      (c.hasIrrevocable = true ∨ (ok (at_ w) .code ∧ ok r .code ∧ (f.stack s).length ≠ 32)) → takes (.call h w) (.call (at_ w) r)) ∧
    (∀ h r, Fires (.calli h) s f → s.nextBlock f.fr.ctx c.addr = some r → ok f.a.val.toNat .code → ok r .code →
      (f.stack s).length ≠ 32 → takes (.calli h) (.call f.a.val.toNat r)) ∧
    (∀ h r rest, Fires (.ret h) s f → f.stack s = r :: rest → ok r .code → takes (.ret h) (.ret r)) ∧
    (∀ h, Fires (.tend h) s f → takes (.tend h) (.tend f.idx)) ∧
    (∀ h, Fires (.iter h) s f → takes (.iter h) .iter) ∧
    (∀ h, Fires (.lbreak h) s f →
      Gives (.lbreak h) s f ((s.modFrame f.key fun fr => { fr with branch := some .lbreak }).modLoop f.pe f.fr.task fun l =>
        match f.fr.iter, l.brk with
        | some j, none => { l with brk := some j, limit := l.next }
        | some j, some b => { l with brk := some (if (0 < l.step ∧ j < b) ∨ (l.step < 0 ∧ b < j) then j else b) }
        | none, _ => l) (f.handles (.lbreak h)) none none)

/-- R86, R105: every branch-class instruction that fires after another of its block raises BRANCH_COUNT, where it raises nothing else; a target that is no
block of the type allowed raises NONCODE_BLOCK; RET with an empty stack and CALL and CALLI with a full one raise OPERAND. BR and CALL of a block with an
irrevocable instruction were checked when the frame opened (R88). -/
def Obligations.BranchFaults : Prop :=
  ∀ (s : State) (f : Firing) (h : Hdr) (w : BitVec 32),
    let c := f.fr.cfg
    let ok := fun tgt ty => s.checkBlock f.die f.fr.ctx c.addr tgt ty = true
    let at_ := (BitVec.ofInt 64 ((c.addr : Int) + 64 * w.toInt)).toNat
    (f.fr.branch.isSome = true → (Fires (.iter h) s f → Raises (.iter h) s f .branchCount 0) ∧
      (Fires (.tend h) s f → Raises (.tend h) s f .branchCount 0) ∧ (Fires (.lbreak h) s f → Raises (.lbreak h) s f .branchCount 0) ∧
      (Fires (.br h w) s f → (c.hasIrrevocable = true ∨ ok at_ c.ty) → Raises (.br h w) s f .branchCount 0) ∧
      (Fires (.bri h) s f → ok f.a.val.toNat c.ty → Raises (.bri h) s f .branchCount 0) ∧
      (∀ r, Fires (.call h w) s f → s.nextBlock f.fr.ctx c.addr = some r →
        (c.hasIrrevocable = true ∨ (ok at_ .code ∧ ok r .code ∧ (f.stack s).length ≠ 32)) → Raises (.call h w) s f .branchCount 0) ∧
      (∀ r, Fires (.calli h) s f → s.nextBlock f.fr.ctx c.addr = some r → ok f.a.val.toNat .code → ok r .code → (f.stack s).length ≠ 32 →
        Raises (.calli h) s f .branchCount 0) ∧
      (∀ r rest, Fires (.ret h) s f → f.stack s = r :: rest → ok r .code → Raises (.ret h) s f .branchCount 0)) ∧
    (Fires (.br h w) s f → c.hasIrrevocable = false → ¬ ok at_ c.ty → Raises (.br h w) s f .noncodeBlock 0) ∧
    (Fires (.call h w) s f → c.hasIrrevocable = false →
      (¬ ok at_ .code → Raises (.call h w) s f .noncodeBlock 0) ∧
      (ok at_ .code → (f.stack s).length = 32 → Raises (.call h w) s f .operand 0) ∧
      (ok at_ .code → (f.stack s).length ≠ 32 → (∀ r, s.nextBlock f.fr.ctx c.addr = some r → ¬ ok r .code) →
        Raises (.call h w) s f .noncodeBlock 0)) ∧
    (∀ r rest, Fires (.ret h) s f → f.stack s = r :: rest → ¬ ok r .code → Raises (.ret h) s f .noncodeBlock 0) ∧
    (Fires (.bri h) s f → s.checkBlock f.die f.fr.ctx f.fr.cfg.addr f.a.val.toNat f.fr.cfg.ty = false →
      Raises (.bri h) s f .noncodeBlock 0) ∧
    (Fires (.calli h) s f → s.checkBlock f.die f.fr.ctx f.fr.cfg.addr f.a.val.toNat .code = false →
      Raises (.calli h) s f .noncodeBlock 0) ∧
    (Fires (.ret h) s f → f.stack s = [] → Raises (.ret h) s f .operand 0) ∧
    (Fires (.calli h) s f → s.checkBlock f.die f.fr.ctx f.fr.cfg.addr f.a.val.toNat .code = true → (f.stack s).length = 32 →
      Raises (.calli h) s f .operand 0) ∧
    (Fires (.calli h) s f → s.checkBlock f.die f.fr.ctx f.fr.cfg.addr f.a.val.toNat .code = true → (f.stack s).length ≠ 32 →
      (∀ r, s.nextBlock f.fr.ctx f.fr.cfg.addr = some r → s.checkBlock f.die f.fr.ctx f.fr.cfg.addr r .code = false) →
      Raises (.calli h) s f .noncodeBlock 0)

/-- R92, R93, R95, R106: LOOP. A body that is no loop block raises NONCODE_BLOCK (R66). A step of 0 and a Cin at or above the task's register count raise OPERAND; a trip count of zero sends 0 and g[cin] at
once; any other starts the sequencer at the start value with g[cin] as its carry, and the tokens come when the loop completes. R96, R108: CARRY, of
any kind of token, gives the carry of the next iteration, and one whose predicate is null a null carry (R80); where no frame of that iteration is open
yet the loop sequencer keeps it, with the reference it holds, and where one is open the slots that CARRY's targets name there receive it, each handle with
a reference of its own. A LOOP that has fired keeps its activation from then on (R87). -/
def Obligations.LoopsAndCarries : Prop :=
  (∀ (s : State) (f : Firing) (h : Hdr) (w : LoopW) (t : Task) (body : Nat), f.clear = true → Fires (.loop h w) s f →
    s.task? f.pe f.fr.task = some t → s.nextBlock f.fr.ctx f.fr.cfg.addr = some body → s.typeAt f.die f.fr.ctx body = some .loop →
    let start := f.a.val.toInt
    let stop := f.b.val.toInt
    let step := w.step.toInt
    let cin := if w.cin = 0 then scalarTok 0 else t.regs.getD w.cin.toNat (scalarTok 0)
    (step = 0 ∨ (w.cin ≠ 0 ∧ t.nregs ≤ w.cin.toNat) → Raises (.loop h w) s f .operand 0) ∧
    (step ≠ 0 → (w.cin = 0 ∨ w.cin.toNat < t.nregs) →
      let s0 := s.keep f.key fun fr => { fr with looped := true }
      ((0 < step ∧ stop ≤ start) ∨ (step < 0 ∧ start ≤ stop) → PassesFrom (.loop h w) s f s0 (scalarTok 0) cin) ∧
      ((0 < step ∧ start < stop) ∨ (step < 0 ∧ stop < start) →
        ∀ u, s0.addRefs [cin] = some u →
          ∃ l : Loop, l.frame = f.key % 256 ∧ l.uid = f.fr.uid ∧ l.idx = f.idx ∧ l.body = body ∧ l.first = start ∧ l.next = start ∧
            l.stop = stop ∧ l.step = step ∧ l.k = w.k.toNat + 1 ∧ l.started = [] ∧ l.committed = 0 ∧ l.carry = cin ∧ l.carries = [] ∧
            l.brk = none ∧ l.limit = start ∧ l.sent = [] ∧ l.paused = [] ∧ l.fin = false ∧
            Gives (.loop h w) s f (u.setTask f.pe f.fr.task { t with loop := some l }) (f.handles (.loop h w)) none none))) ∧
  (∀ (s : State) (f : Firing) (h : Hdr) (w : LoopW) (t : Task), Fires (.loop h w) s f → s.task? f.pe f.fr.task = some t →
    (∀ body, s.nextBlock f.fr.ctx f.fr.cfg.addr = some body → s.typeAt f.die f.fr.ctx body ≠ some .loop) → Raises (.loop h w) s f .noncodeBlock 0) ∧
  (∀ (s : State) (f : Firing) (h : Hdr) (t : Task) (l : Loop) (j : Int) (k : Nat) (fr : Frame) (tgts : List Target), f.clear = true →
    Fires (.carry h) s f → s.task? f.pe f.fr.task = some t → t.loop = some l → f.fr.iter = some j → (l.sent.contains j = true ∨ l.carryIn j = none) →
    l.step ≠ 0 → j + l.step ≠ l.first → (∀ p ∈ l.carries, p.1 ≠ j) → l.sent.contains (j + l.step) = false →
    s.iterFrame f.pe f.fr.task (j + l.step) = some (k, fr) → fr.cfg.carryTargets = some tgts → tgts ≠ [] → (∀ g ∈ tgts, ∃ sd i, g = .slot sd i) →
    let kept := fun (sent : List Int) => { t with loop := some { l with carries := l.carries ++ [(j, f.a)], sent := sent } }
    ∀ u, (s.setTask f.pe f.fr.task (kept l.sent)).addRefs (List.replicate (tgts.length - 1) f.a) = some u →
      Gives (.carry h) s f
        ((tgts.foldl (fun u g => match g with
          | .slot sd i => u.post (.pe (k / 256)) (.pe (k / 256)) 0 (.token (tokenRaw 0 f.a (u.slotOf fr.ctx) (k / 256) (k % 256) (sideNum sd) i.toNat) fr.uid (srcOf k fr 0))
          | _ => u) u).setTask f.pe f.fr.task (kept ((j + l.step) :: l.sent)))
        ((f.handles (.carry h)).erase f.a) none none) ∧
  (∀ (s : State) (f : Firing) (h : Hdr) (t : Task) (l : Loop) (j : Int), f.clear = true →
    s.task? f.pe f.fr.task = some t → t.loop = some l → f.fr.iter = some j → (l.sent.contains j = true ∨ l.carryIn j = none) →
    s.iterFrame f.pe f.fr.task (j + l.step) = none →
    let carries := fun (tok : Tok) => s.setTask f.pe f.fr.task { t with loop := some { l with carries := l.carries ++ [(j, tok)] } }
    (Fires (.carry h) s f → Gives (.carry h) s f (carries f.a) ((f.handles (.carry h)).erase f.a) none none) ∧
    (s.firing (.carry h) = some f → predNull f.h f.c = true → Gives (.carry h) s f (carries nullTok) (f.handles (.carry h)) none none))

/-! ### Tiles (R151, R154, R156 to R185) -/

/-- R165 to R168, R172 to R174: the elementwise instructions on operands that pass R159's checks and have one shape. TADD to TDIV and TFMA put the
exact result into a's channel, TAND to TXOR combine codes of equal width bit for bit, the unary functions put their value; the references of the
operands go before the result takes its slot. -/
def Obligations.TileElementwise : Prop :=
  ∀ (s : State) (f : Firing) (h : Hdr) (a b c : TileIn), f.clear = true → f.holds s f.a a →
    (∀ o : TileOp, Fires (o.instr h) s f → f.holds s f.b b → a.rows = b.rows → a.cols = b.cols →
      MakesTile (o.instr h) s f [f.a, f.b] (hFc a.h) a.ch a.rows a.cols fun i => putIn a.ch (o.value (a.val i) (b.val i))) ∧
    (∀ p ∈ [(Instr.tand h, fun x y : Bool => x && y), (.tor h, fun x y => x || y), (.txor h, fun x y => x != y)],
      Fires p.1 s f → f.holds s f.b b → a.rows = b.rows → a.cols = b.cols → a.ch.fmt.width = b.ch.fmt.width →
      ∃ g : Nat → Nat, (∀ i j, i < 256 → (g i).testBit j = p.2 ((a.code i).testBit j) ((b.code i).testBit j)) ∧
        MakesTile p.1 s f [f.a, f.b] (hFc a.h) a.ch a.rows a.cols fun i => (g i, 0)) ∧
    (∀ o : UnFn, Fires (o.instr h) s f →
      MakesTile (o.instr h) s f [f.a] (hFc a.h) a.ch a.rows a.cols fun i => ((unaryPut o (a.val i) a.ch).code, (unaryPut o (a.val i) a.ch).flags)) ∧
    (Fires (.tfma h) s f → f.holds s f.b b → f.holds s f.c c → a.rows = b.rows → a.cols = b.cols → a.rows = c.rows → a.cols = c.cols →
      MakesTile (.tfma h) s f [f.a, f.b, f.c] (hFc a.h) a.ch a.rows a.cols fun i =>
        putIn a.ch ((a.val i).fma (b.val i) (c.val i)))

/-- R169, R176: the reductions. TRSUM and TRMAX give one element for each row, TCSUM and TCMAX for each column, TSUM one for the tile, each by tree16:
sums round at each node to FP32, but integer sums are exact, and maxima take maximumNumber. -/
def Obligations.TileReductions : Prop :=
  ∀ (s : State) (f : Firing) (h : Hdr) (a : TileIn), f.clear = true → f.holds s f.a a →
    let exact := match a.ch.fmt with | .int _ => true | _ => false
    let leaf := fun (i : Nat) => if i / 16 ≤ a.rows ∧ i % 16 ≤ a.cols then
      (if exact = true then some (a.val i, 0) else some (round32 (a.val i, flagIf (a.val i).isSig flagNV))) else none
    let value := fun (i : Nat) => if i / 16 ≤ a.rows ∧ i % 16 ≤ a.cols then some ((a.val i, 0) : NumF) else none
    let add := fun (x y : Machine.Num) => if exact = true then x.add y else round32 (x.add y)
    let max := fun (x y : Machine.Num) => TileOp.max.value x y
    let out := fun (o : Option NumF) => putIn a.ch (o.getD (.zero, 0))
    let make := fun i rows cols g => MakesTile i s f [f.a] (hFc a.h) a.ch rows cols g
    (Fires (.trsum h) s f → make (.trsum h) a.rows 0 fun i => out (treeNode add (fun j => leaf (i / 16 * 16 + j)) 4 0)) ∧
    (Fires (.tcsum h) s f → make (.tcsum h) 0 a.cols fun i => out (treeNode add (fun j => leaf (j * 16 + i % 16)) 4 0)) ∧
    (Fires (.trmax h) s f → make (.trmax h) a.rows 0 fun i => out (treeNode max (fun j => value (i / 16 * 16 + j)) 4 0)) ∧
    (Fires (.tcmax h) s f → make (.tcmax h) 0 a.cols fun i => out (treeNode max (fun j => value (j * 16 + i % 16)) 4 0)) ∧
    (Fires (.tsum h) s f → make (.tsum h) 0 0 fun _ =>
      out (treeNode add (fun r => if r ≤ a.rows then treeNode add (fun j => leaf (r * 16 + j)) 4 0 else none) 4 0))

/-- R151, R175, R177 to R180, R182, R183 and R185: the instructions that make a tile by moving, comparing or converting codes: TSPLAT, TROWB, TCOLB,
TTRANS, TMASK, TCMP, TSEL, TELSET, TNEW and TCOPY. -/
def Obligations.TileMoves : Prop :=
  ∀ (s : State) (f : Firing) (h : Hdr) (a b : TileIn), f.clear = true →
    let n := f.b.val.toNat
    let scalarB := f.b.kind ≠ .tile
    (∀ ch, Fires (.tsplat h) s f → f.a.kind ≠ .tile → scalarB → n < 2 ^ 13 → chanOf (f.x.chan (n / 2 ^ 8)) = some ch →
      let v := fp64.decode f.a.val.toNat
      MakesTile (.tsplat h) s f [] (n / 2 ^ 8) ch (n / 16 % 16) (n % 16) fun _ => putIn ch (v, flagIf v.isSig flagNV)) ∧
    (Fires (.trowb h) s f → scalarB → f.holds s f.a a → a.rows = 0 → 1 ≤ n → n ≤ 16 →
      MakesTile (.trowb h) s f [f.a] (hFc a.h) a.ch (n - 1) a.cols fun i => (a.code (i % 16), 0)) ∧
    (Fires (.tcolb h) s f → scalarB → f.holds s f.a a → a.cols = 0 → 1 ≤ n → n ≤ 16 →
      MakesTile (.tcolb h) s f [f.a] (hFc a.h) a.ch a.rows (n - 1) fun i => (a.code (i / 16 * 16), 0)) ∧
    (Fires (.ttrans h) s f → f.holds s f.a a →
      MakesTile (.ttrans h) s f [f.a] (hFc a.h) a.ch a.cols a.rows fun i => (a.code (i % 16 * 16 + i / 16), 0)) ∧
    (Fires (.tmask h) s f → scalarB → f.holds s f.a a → n < 2 ^ 8 →
      MakesTile (.tmask h) s f [f.a] (hFc a.h) a.ch (n / 16) (n % 16) fun i => (a.code i, 0)) ∧
    (∀ c, Fires (.tcmp h c) s f → f.holds s f.a a → f.holds s f.b b → a.rows = b.rows → a.cols = b.cols →
      ∃ t : NewTile, SendsTile (.tcmp h c) s f [f.a, f.b] { t with nf := false } ∧ t.isOf (hFc a.h) a.ch a.rows a.cols fun i =>
        let x := a.val i
        let y := b.val i
        let quiet := c = .eq ∨ c = .ne ∨ c = .un
        (if c.holds x y = true then 1 else 0,
          if (quiet ∧ (x.isSig = true ∨ y.isSig = true)) ∨ (¬ quiet ∧ (x.isNan = true ∨ y.isNan = true)) then flagNV else 0)) ∧
    (Fires (.tsel h) s f → f.holds s f.a a → f.holds s f.b b → a.rows = b.rows → a.cols = b.cols →
      MakesTile (.tsel h) s f [f.a, f.b] (hFc a.h) a.ch a.rows a.cols fun i => (if (b.code i).testBit 0 then a.code i else 0, 0)) ∧
    (Fires (.telset h) s f → scalarB → f.holds s f.a a → n < 2 ^ 40 → n % 2 ^ 32 < 2 ^ a.ch.fmt.bits → n / 2 ^ 36 ≤ a.rows →
      n / 2 ^ 32 % 16 ≤ a.cols →
      MakesTile (.telset h) s f [f.a] (hFc a.h) a.ch a.rows a.cols fun i => (if i = n / 2 ^ 32 then n % 2 ^ 32 else a.code i, 0)) ∧
    (∀ w ch, Fires (.tnew h w) s f → chanOf (f.x.chan w.fc.toNat) = some ch →
      ∃ t : NewTile, t.fc = w.fc.toNat ∧ t.rows = w.rows.toNat ∧ t.cols = w.cols.toNat ∧ t.width = ch.fmt.width ∧ t.nf = false ∧ t.flags = 0 ∧
        t.codes = List.replicate 256 0 ∧ SendsTile (.tnew h w) s f [] t) ∧
    (Fires (.tcopy h) s f → f.holds s f.a a →
      SendsTile (.tcopy h) s f [f.a] { fc := hFc a.h, rows := a.rows, cols := a.cols, width := a.slot.width, nf := a.slot.nonfinite
                                       codes := a.slot.codes, flags := 0 })

/-- R151, R154, R181, R184: TELGET sends the code of one element, TREL sends nulls and releases its reference, TAMAX sends the greatest magnitude as
FP32, and TCVT sends the converted tile to T0 and the count of saturated elements to T1, a null where there is none. -/
def Obligations.TileReadings : Prop :=
  ∀ (s : State) (f : Firing) (h : Hdr) (a : TileIn), f.clear = true → f.holds s f.a a →
    (Fires (.telget h) s f → f.b.kind ≠ .tile → f.b.val.toNat < 256 → f.b.val.toNat / 16 ≤ a.rows → f.b.val.toNat % 16 ≤ a.cols →
      GivesScalar (.telget h) s f s (f.handles (.telget h)) (BitVec.ofNat 64 (a.code f.b.val.toNat))) ∧
    (Fires (.trel h) s f → Gives (.trel h) s f s (f.handles (.trel h)) (some nullTok) (some nullTok)) ∧
    (Fires (.tamax h) s f →
      let inside := fun i => i < 256 ∧ i / 16 ≤ a.rows ∧ i % 16 ≤ a.cols
      ((∃ i, inside i ∧ (a.val i).isNan = true) → GivesScalar (.tamax h) s f s (f.handles (.tamax h)) 0x7FC00000) ∧
      ((∀ i, inside i → (a.val i).isNan = false) → (∃ i, inside i ∧ (a.val i).isInf = true) →
        GivesScalar (.tamax h) s f s (f.handles (.tamax h)) 0x7F800000) ∧
      ((∀ i, inside i → (a.val i).isNan = false ∧ (a.val i).isInf = false) →
        ∃ k, inside k ∧ (∀ i, inside i → (a.val k).magnitude.lt (a.val i).magnitude = false) ∧
          GivesScalar (.tamax h) s f s (f.handles (.tamax h)) (BitVec.ofNat 64 (fp32.result ((a.val k).magnitude, 0)).1))) ∧
    (∀ w d, Fires (.tcvt h w) s f → chanOf (f.x.chan w.fc.toNat) = some d → f.room s d.fmt.width [f.a] = true →
      let p := fun i => convert (a.val i) d (f.rounding w.mode i)
      let u := s.dropToks f.pe [f.a]
      let slot := u.pickSlot f.pe
      let t : Tok := { kind := .tile, val := handleOf f.pe slot w.fc.toNat a.rows a.cols (u.tileSlot f.pe slot).gen }
      let count := ((List.range 256).filter fun i => decide (i / 16 ≤ a.rows ∧ i % 16 ≤ a.cols) && (p i).sat).length
      ∃ n : NewTile, n.isOf w.fc.toNat d a.rows a.cols (fun i => ((p i).code, (p i).flags)) ∧
        let v := (u.drawn.fillSlot f.pe slot f.x.slot f.fan n.width n.nf n.codes).orFlags f.key n.flags
        -- the slot was filled with a reference for each named target, and the one of T1 is given back
        Gives (.tcvt h w) s f (if f.h.t1 = .none then v else v.dropTok f.pe t) ((f.handles (.tcvt h w)).erase f.a) (some t)
          (some (if count = 0 then nullTok else scalarTok (BitVec.ofNat 64 count))))

/-! ### The matrix engine (R186 to R217) -/

/-- R187, R189, R194, R210, R211: the accumulator word instructions. ZINIT writes zeros, ZCLRF clears the flags, ZSCALE rounds each product by an FP32
factor, ZLOAD loads a tile, each after its shadow is kept; ZFLAGS sends the flags and the mode. All claim the accumulator; ZSCALE of an INT32 one
raises OPERAND. One whose accumulator another task claims waits, as one out of its order does, whatever its operands are. That the faulting ZSCALE claims its
accumulator is the model's choice (DEDUCED, assumption log 109), and so is that a zero which ZLOAD or ZSCALE writes is +0 (DEDUCED, assumption log 50). -/
def Obligations.AccumulatorInstructions : Prop :=
  ∀ (s : State) (f : Firing) (h : Hdr) (w : AccW), f.clear = true →
    let v := f.accValue s w.z
    (Fires (.zinit h w) s f → f.mayUse s (.zinit h w) w.z →
      GivesNumber (.zinit h w) s f
        (f.accSet s w.z { elems := List.replicate 256 0, int := w.mode, flags := if w.clr then 0 else v.flags }) (f.handles (.zinit h w))) ∧
    (Fires (.zclrf h w) s f → f.mayUse s (.zclrf h w) w.z →
      GivesNumber (.zclrf h w) s f (f.accSet s w.z { v with flags := 0 }) (f.handles (.zclrf h w))) ∧
    (Fires (.zflags h w) s f → f.mayUse s (.zflags h w) w.z →
      GivesScalar (.zflags h w) s f (f.accClaimed s w.z) (f.handles (.zflags h w))
        (BitVec.ofNat 64 (v.flags.toNat + if v.int then 256 else 0))) ∧
    (Fires (.zscale h w) s f → f.mayUse s (.zscale h w) w.z → f.a.kind = .scalar → v.int = false →
      ∃ n : AccVal, (n.isOf v false fun i => roundAcc ((fp32.decode (nthD v.elems i 0)).mul (fp32.decode (f.a.val.toNat % 2 ^ 32)))) ∧
        GivesNumber (.zscale h w) s f (f.accSet s w.z n) (f.handles (.zscale h w))) ∧
    (∀ a, Fires (.zload h w) s f → f.mayUse s (.zload h w) w.z → f.holds s f.a a →
      (w.mode = true → (a.ch.fmt = .int 8 ∨ a.ch.fmt = .int 32) ∧ a.ch.scale = 0) →
      ∃ n : AccVal, (n.isOf v w.mode fun i =>
          if i / 16 ≤ a.rows ∧ i % 16 ≤ a.cols then
            (if w.mode then ((signedOf a.ch.fmt.bits (a.code i) % 2 ^ 32).toNat, 0)
              else roundAcc (a.val i, if (a.val i).isSig then flagNV else 0))
          else v.left w.mode i) ∧
        GivesNumber (.zload h w) s f (f.accSet s w.z n) (f.handles (.zload h w))) ∧
    (Fires (.zscale h w) s f → f.mayUse s (.zscale h w) w.z → f.a.kind = .scalar → v.int = true →
      RaisesFrom (.zscale h w) s f (f.accClaimed s w.z) .operand 0) ∧
    (∀ i ∈ [Instr.zinit h w, .zclrf h w, .zflags h w, .zscale h w, .zload h w], Fires i s f →
      (f.inOrder s i = false → Waits i s f .order) ∧
      (∀ o, f.inOrder s i = true → (s.acc f.pe w.z.toNat).claim = some o → o ≠ (f.fr.ctx, f.fr.task) → Waits i s f .accumulator))

/-- R190, R191, R206, R208, R209: MMA multiplies two tiles and MMAR two ring entries, which it marks for popping but where the selector keeps them,
into an accumulator of the pair's mode. -/
def Obligations.MatrixProducts : Prop :=
  ∀ (s : State) (f : Firing) (h : Hdr) (x : AccX) (int : Bool) (n : AccVal), f.clear = true →
    let v := f.accValue s x.z
    let ready := fun (i : Instr) (a b : MatIn) => Fires i s f ∧ f.mayUse s i x.z ∧ pairMode a.ch b.ch = some int ∧ (x.init = true ∨ v.int = int) ∧
      n.isOf v int fun i => v.product x.init int a b i
    (∀ a b : TileIn, f.holds s f.a a → f.holds s f.b b → ready (.mma h x) a.mat b.mat →
      GivesNumber (.mma h x) s f (f.accSet s x.z n) (f.handles (.mma h x))) ∧
    (∀ (ea eb : RingEntry) (ca cb : ChanFmt), f.a.kind = .scalar → f.a.val.toNat < 2 ^ 8 →
      let qa := f.a.val.toNat % 8
      let qb := f.a.val.toNat / 16 % 8
      qa ≠ qb → f.ringEntry s qa ca ea → f.ringEntry s qb cb eb →
      ready (.mmar h x) { rows := ea.rows, cols := ea.cols, ch := ca, codes := ea.codes } { rows := eb.rows, cols := eb.cols, ch := cb, codes := eb.codes } →
      let u := f.accSet s x.z n
      let u1 := if f.a.val.getLsbD 3 then u else f.popped u qa
      GivesNumber (.mmar h x) s f (if f.a.val.getLsbD 7 then u1 else f.popped u1 qb) (f.handles (.mmar h x)))

/-- R64, R200 to R202, R206, R213, R214: ZDRAIN reads the accumulator through its program, where it has one, into a fresh tile or over operand a's. TMAC
performs step 0, MMA, releases its operands and is ready again; then step 1 drains, each step with a number of its own. -/
def Obligations.Drains : Prop :=
  ∀ (s : State) (f : Firing) (h : Hdr) (z : BitVec 3) (w : DrainW) (ops : List EpOp), f.clear = true →
    let fits := fun (d : DrainTo) => (lastChannel ops d.fc d.ch).2.fmt.width = d.ch.fmt.width
    let fresh := fun (ch : ChanFmt) => ({ fc := w.fc.toNat, ch := ch, rows := w.rows.toNat, cols := w.cols.toNat, codes := List.replicate 256 0 } : DrainTo)
    let runs := fun (u : State) => (w.ep = true → f.program u w.slot.toNat = .ok ops) ∧ (w.ep = false → ops = [])
    (∀ ch, Fires (.zdrain h z w) s f → f.mayUse s (.zdrain h z w) z → w.fromA = false → chanOf (f.x.chan w.fc.toNat) = some ch → runs s →
      fits (fresh ch) → DrainsTo (.zdrain h z w) s f s z ops (fresh ch) []) ∧
    (∀ a : TileIn, Fires (.zdrain h z w) s f → f.mayUse s (.zdrain h z w) z → w.fromA = true → f.holds s f.a a → runs s →
      let d : DrainTo := { fc := hFc a.h, ch := a.ch, rows := a.rows, cols := a.cols, codes := a.slot.codes }
      fits d → DrainsTo (.zdrain h z w) s f s z ops d [f.a]) ∧
    (∀ (x : AccX) (a b : TileIn) (int : Bool) (n : AccVal), Fires (.tmac h x w) s f → f.mayUse s (.tmac h x w) x.z → f.idx ∉ f.fr.stepped →
      f.holds s f.a a → f.holds s f.b b → pairMode a.ch b.ch = some int →
      let v := f.accValue s x.z
      (x.init = true ∨ v.int = int) → (n.isOf v int fun i => v.product x.init int a.mat b.mat i) →
      let u := f.accSet s x.z n
      let k := (u.pctx f.fr.ctx f.pe).tlm.taken + 1
      let u1 := (u.takeNumber f.fr.ctx f.pe .tlm).1.completeNumber f.fr.ctx f.pe .tlm k
      exec (.tmac h x w) s = .next ((f.step u1).modFrame f.key fun fr => { fr with stat := fr.stat.del f.idx })) ∧
    (∀ (x : AccX) (ch : ChanFmt), Fires (.tmac h x w) s f → f.mayUse s (.tmac h x w) x.z → f.idx ∈ f.fr.stepped →
      chanOf (f.x.chan w.fc.toNat) = some ch → fits (fresh ch) → runs s → DrainsTo (.tmac h x w) s f s x.z ops (fresh ch) [])

/-- R170, R195 to R197, R215 to R217, R339: RCFG binds an unbound ring or unbinds its own and tells its head to the copies that fill it, RPUSH adds a
pending entry, the next free one, RPOP sends the oldest entry its activation has not marked as a tile, RSTAT sends the status word; EPLOAD writes four operations and EPARG an argument register, with the reference it holds. That RCFG with U = 1 raises OPERAND on a ring bound to nobody, and that the status word is the ring's as RCFG leaves it, is the
model's choice (DESIGN CHOICE, assumption log 95). -/
def Obligations.RingsAndEpilogue : Prop :=
  ∀ (s : State) (f : Firing) (h : Hdr) (w : RingW), f.clear = true →
    let q := w.ring.toNat
    let r := s.ring f.pe q
    let me := (f.fr.ctx, f.fr.task)
    let status := fun (r : Ring) => BitVec.ofNat 64 (r.head % 2 ^ 32 * 2 ^ 32 + (if r.bound = some me then 2 ^ 15 else 0) +
      (if r.error then 2 ^ 14 else 0) + r.fc * 2 ^ 9 + (r.depth - 1) * 2 ^ 5 + r.complete.length)
    (∀ ch, Fires (.rcfg h w) s f → f.mayUse s (.rcfg h w) none → w.unbind = false → r.bound = none →
      (∀ u, r.undo = some u → u.1 = f.fr.uid) → chanOf (f.x.chan w.fc.toNat) = some ch →
      let new : Ring := { Ring.reset with bound := some me, fc := w.fc.toNat, width := ch.fmt.width, depth := w.depth.toNat + 1, undo := r.undo }
      (new.depth * widthGranules ch.fmt.width ≤ s.granulesFree f.pe → s.olderWaits f .tiles = false →
        GivesScalar (.rcfg h w) s f (((s.setRing f.pe q new).tellHeads f.pe q).hold f.key (.ringCfg q r)) (f.handles (.rcfg h w)) (status new)) ∧
      (s.granulesFree f.pe < new.depth * widthGranules ch.fmt.width → Waits (.rcfg h w) s f .tiles)) ∧
    (Fires (.rcfg h w) s f → f.mayUse s (.rcfg h w) none → w.unbind = true → r.bound = some me →
      ∃ u, GivesScalar (.rcfg h w) s f (((s.setRing f.pe q { Ring.reset with undo := u }).tellHeads f.pe q).hold f.key (.ringCfg q r))
        (f.handles (.rcfg h w)) (status Ring.reset)) ∧
    (Fires (.rcfg h w) s f → f.mayUse s (.rcfg h w) none → (w.unbind = false → r.bound ≠ none) → (w.unbind = true → r.bound ≠ some me) →
      Raises (.rcfg h w) s f .operand 0) ∧
    (∀ t : TileIn, Fires (.rpush h w) s f → f.mayUse s (.rpush h w) none → r.bound = some me → r.error = false → f.holds s f.a t → hFc t.h = r.fc →
      let used := r.complete.length + r.ready.length + r.pushed.length + r.arriving.length
      let seq := fun (j : Nat) => (r.head + r.complete.length + j) % 2 ^ 32
      let free := fun (n : Nat) => (∀ p ∈ r.pushed, p.2.1 ≠ n) ∧ (∀ p ∈ r.ready, p.1 ≠ n) ∧ ∀ a ∈ r.arriving, a.seq ≠ n
      (∀ j, used < r.depth → j < 16 → free (seq j) → (∀ i, i < j → ¬ free (seq i)) →
        let e : RingEntry := { rows := t.rows, cols := t.cols, nonfinite := t.slot.nonfinite, codes := t.slot.codes }
        GivesScalar (.rpush h w) s f (s.setRing f.pe q { r with pushed := r.pushed ++ [(f.fr.uid, seq j, e)] })
          (f.handles (.rpush h w)) (BitVec.ofNat 64 (seq j))) ∧
      (r.depth ≤ used → Waits (.rpush h w) s f .ring)) ∧
    (Fires (.rpop h w) s f → f.mayUse s (.rpop h w) none → r.bound = some me → r.error = false →
      (∀ e, r.complete[r.nextPop f.fr.uid]? = some e →
        SendsTileFrom (.rpop h w) s f (f.popped s q) []
          { fc := r.fc, rows := e.rows, cols := e.cols, width := r.width, nf := e.nonfinite, codes := e.codes, flags := 0 }) ∧
      (r.complete[r.nextPop f.fr.uid]? = none → Waits (.rpop h w) s f .ring)) ∧
    (Fires (.rstat h w) s f → f.mayUse s (.rstat h w) none → r.bound = some me → r.error = false →
      GivesScalar (.rstat h w) s f s (f.handles (.rstat h w)) (status r)) ∧
    (∀ e : EploadW, Fires (.epload h e) s f → f.mayUse s (.epload h e) none → f.a.kind = .scalar →
      ∃ progs : List Nat, progs.length = (s.pctx f.fr.ctx f.pe).progs.length ∧
        (∀ k, k < progs.length → progs[k]? = if k / 4 = e.slot.toNat * 8 + e.group.toNat then some (f.a.val.toNat / 2 ^ (16 * (k % 4)) % 2 ^ 16)
          else (s.pctx f.fr.ctx f.pe).progs[k]?) ∧
        GivesScalar (.epload h e) s f (s.setPctx f.fr.ctx f.pe { s.pctx f.fr.ctx f.pe with progs := progs }) (f.handles (.epload h e)) 0) ∧
    (∀ e : EpargW, Fires (.eparg h e) s f → f.mayUse s (.eparg h e) none →
      let p := s.pctx f.fr.ctx f.pe
      GivesScalar (.eparg h e) s f
        ((s.setPctx f.fr.ctx f.pe { p with eargs := p.eargs.set e.arg.toNat f.a }).dropTok f.pe (p.eargs.getD e.arg.toNat (scalarTok 0)))
        ((f.handles (.eparg h e)).erase f.a) 0)

/-- R198, R199: a packet that reaches a ring. One for an unbound ring is discarded; one that is out of place marks the ring's error and leaves its
entries; one that fits adds its beat, and the last beat of the next entry advances the tail over it. R203 to R205: an instruction of the urgent context
waits for an accumulator that a task of a normal context claims. The accumulator's value and record go to the spill area of the frame store, and the
urgent task takes it cleared. -/
def Obligations.MatrixEvents : Prop :=
  (∀ (s : State) (n : Nat) (e : Env) (r0 : BitVec 128) (data : List Byte) (c : Nat), s.msg? n = some e → s.first n e = true → e.body = .packet r0 data c →
    let raw := e.wire
    let pe := raw.toNat / 2 ^ 81 % 2 ^ 11
    let q := raw.toNat / 2 ^ 64 % 8
    let r := s.ring pe q
    (r.bound = none → exec (.matrixOperandPacket n) s = .next (s.taken n)) ∧
    (∀ x t, r.bound = some (x, t) → (s.slotOf x ≠ raw.toNat / 2 ^ 92 % 16 ∨ packetGood raw = false ∨ 4 * 2 ^ r.width ≤ raw.toNat / 2 ^ 6 % 16 ∨
        r.depth ≤ r.complete.length + (raw.toNat / 2 ^ 32 % 2 ^ 32 + 2 ^ 32 - (r.head + r.complete.length) % 2 ^ 32) % 2 ^ 32) →
      exec (.matrixOperandPacket n) s = .next ((s.taken n).setRing pe q { r with error := true })) ∧
    (∀ x t, r.bound = some (x, t) → s.slotOf x = raw.toNat / 2 ^ 92 % 16 → packetGood raw = true → raw.toNat / 2 ^ 6 % 16 < 4 * 2 ^ r.width →
      (raw.toNat / 2 ^ 32 % 2 ^ 32 + 2 ^ 32 - (r.head + r.complete.length) % 2 ^ 32) % 2 ^ 32 + r.complete.length < r.depth →
      (∀ a ∈ r.arriving, a.seq ≠ raw.toNat / 2 ^ 32 % 2 ^ 32) → (∀ p ∈ r.ready, p.1 ≠ raw.toNat / 2 ^ 32 % 2 ^ 32) →
      (∀ p ∈ r.pushed, p.2.1 ≠ raw.toNat / 2 ^ 32 % 2 ^ 32) →
      ∃ t r', exec (.matrixOperandPacket n) s = .next t ∧ t.ring pe q = r' ∧ r'.error = r.error ∧
        ({ seq := raw.toNat / 2 ^ 32 % 2 ^ 32, rows := raw.toNat / 2 ^ 28 % 16, cols := raw.toNat / 2 ^ 24 % 16
           beats := [(raw.toNat / 2 ^ 6 % 16, data)] } : RingArrival) ∈ r'.arriving) ∧
    (∀ x t a, r.bound = some (x, t) → s.slotOf x = raw.toNat / 2 ^ 92 % 16 → packetGood raw = true → raw.toNat / 2 ^ 6 % 16 < 4 * 2 ^ r.width →
      r.complete.length < r.depth → a.seq = (r.head + r.complete.length) % 2 ^ 32 → raw.toNat / 2 ^ 32 % 2 ^ 32 = a.seq →
      r.arriving = [a] → (∀ p ∈ r.ready, p.1 ≠ a.seq) → a.rows = raw.toNat / 2 ^ 28 % 16 → a.cols = raw.toNat / 2 ^ 24 % 16 →
      a.beats.length + 1 = 4 * 2 ^ r.width → (∀ b ∈ a.beats, b.1 ≠ raw.toNat / 2 ^ 6 % 16) →
      ∃ t r' e', exec (.matrixOperandPacket n) s = .next t ∧ t.ring pe q = r' ∧ r'.error = r.error ∧ r'.arriving = [] ∧
        r'.complete[r.complete.length]? = some e' ∧ e'.rows = a.rows ∧ e'.cols = a.cols)) ∧
  (∀ (s : State) (pe z k idx c t : Nat) (fr : Frame), s.urgentFor pe z = some (k, idx) → s.frame? k = some fr → z < 8 →
    (s.acc pe z).claim = some (c, t) → (s.acc pe z).spill = none → (s.acc pe z).shadow = none →
    (∀ x, s.ctx? c = some x → x.urgent = false) → Memory.wf s.pe.spills = true → (s.acc pe z).val.elems.length = 256 →
    ∃ u, exec (.accumulatorSpill pe z) s = .next u ∧
      u.acc pe z = { val := AccVal.reset, claim := some (fr.ctx, fr.task), last := some fr.ctx, shadow := none
                     spill := some { ctx := c, task := t, claimed := true, last := (s.acc pe z).last } } ∧
      (∀ i v, (s.acc pe z).val.elems[i]? = some v →
        leNat ((List.range 4).map fun b => Memory.read u.pe.spills (pe * 2 ^ 19 + (1984 + 4 * z) * 256 + 4 * i + b)) = v % 2 ^ 32) ∧
      leNat ((List.range 64).map fun b => Memory.read u.pe.spills (pe * 2 ^ 19 + 2016 * 256 + 64 * z + b)) =
        (s.acc pe z).val.flags.toNat + (if (s.acc pe z).val.int then 2 ^ 6 else 0) + s.slotOf c % 8 * 2 ^ 7 + t % 16 * 2 ^ 11 + 2 ^ 15)

/-! ### Memory and ordering (R218 to R265) -/

/-- R218, R225, R233 to R235, R237, R240, R241, R243, R245, R246: the loads. LD, LDR and LDPAIR ask for the bytes at their effective address, TLD and
TLDR for a tile's dense image, TGATH for its list; the replies are counted on the frames they go to, and a tile fetch takes its slot now. -/
def Obligations.LoadsIssue : Prop :=
  ∀ (s : State) (f : Firing) (h : Hdr), f.a.kind = .scalar → s.inflight f.pe < 511 →
    let own := f.destsTo [f.h.t0, f.h.t1]
    (∀ (x : LoadX) (w : MemW), Fires (.ld h x w) s f →
      let va := (f.a.val + w.disp.signExtend 64).toNat
      let n := x.width.bytes
      reachable va n → va % n = 0 →
      Gives (.ld h x w) s f (s.request (f.request w.lsid.toNat w.stream.toNat va n own [] (.scalar n x.sx) none)) (f.handles (.ld h x w)) none none) ∧
    (∀ (x : LoadX) (w : MemW) (d : Dest), Fires (.ldr h x w) s f → f.b.kind = .scalar → f.routes s f.b.val d →
      let va := (f.a.val + w.disp.signExtend 64).toNat
      let n := x.width.bytes
      reachable va n → va % n = 0 →
      Gives (.ldr h x w) s f (s.request (f.request w.lsid.toNat w.stream.toNat va n [d] own (.scalar n x.sx) none)) (f.handles (.ldr h x w)) none none) ∧
    (∀ (x : LoadX) (w : MemW), Fires (.ldpair h x w) s f →
      let n := x.width.bytes
      let va := (f.a.val + w.disp.signExtend 64).toNat
      let vb := (f.a.val + w.disp.signExtend 64 + BitVec.ofNat 64 n).toNat
      reachable va n → reachable vb n → va % n = 0 →
      let step := fun (k : Nat) (t : Target) => (f.destsTo [t]).map fun d => { d with step := some k }
      let u := s.request (f.request w.lsid.toNat w.stream.toNat va n (step 0 f.h.t0) [] (.scalar n x.sx) (some 0))
      Gives (.ldpair h x w) s f (u.request (f.request w.lsid.toNat w.stream.toNat vb n (step 1 f.h.t1) [] (.scalar n x.sx) (some 1)))
        (f.handles (.ldpair h x w)) none none) ∧
    (∀ (w : TmemW) (ch : ChanFmt), chanOf (f.x.chan w.fc.toNat) = some ch → s.tileRoom f.pe ch.fmt.width = true → s.olderWaits f .tiles = false →
      let n := (w.rows.toNat + 1) * (w.cols.toNat + 1) * (ch.fmt.bits / 8)
      let va := f.a.val.toNat
      let slot := s.pickSlot f.pe
      let t := handleOf f.pe slot w.fc.toNat w.rows.toNat w.cols.toNat (s.tileSlot f.pe slot).gen
      let u := fun (m : Nat) => s.drawn.fillSlot f.pe slot f.x.slot m ch.fmt.width false (List.replicate 256 0)
      (Fires (.tld h w) s f → reachable va n → va % (ch.fmt.bits / 8) = 0 →
        Gives (.tld h w) s f ((u own.length).request (f.request w.lsid.toNat w.stream.toNat va n own [] (.tile slot t (f.x.chan w.fc.toNat)) none))
          (f.handles (.tld h w)) none none) ∧
      (∀ d, Fires (.tldr h w) s f → f.b.kind = .scalar → f.routes s f.b.val d → reachable va n → va % (ch.fmt.bits / 8) = 0 →
        Gives (.tldr h w) s f ((u 1).request (f.request w.lsid.toNat w.stream.toNat va n [d] own (.tile slot t (f.x.chan w.fc.toNat)) none))
          (f.handles (.tldr h w)) none none) ∧
      (Fires (.tgath h w) s f → reachable va (8 + 4 * (w.rows.toNat + 1)) → va % 8 = 0 →
        Gives (.tgath h w) s f
          ((u own.length).request (f.request w.lsid.toNat w.stream.toNat va (8 + 4 * (w.rows.toNat + 1)) own [] (.gather w slot t (f.x.chan w.fc.toNat)) none))
          (f.handles (.tgath h w)) none none))

/-- R84, R88, R236, R242, R244 to R246: the stores. ST holds the low bytes of its value, TST the dense image of its tile, each at the addresses it
computes; TSCAT first reads its list. Memory reads as before at every address until the block commits. -/
def Obligations.StoresHold : Prop :=
  ∀ (s : State) (f : Firing) (h : Hdr), f.a.kind = .scalar →
    let known := fun (l : Nat) (cells : List (Nat × Nat)) (st : Nat) =>
      ∀ r ∈ f.fr.stores, r.idx = f.idx → r.cells = cells → r.lsid = l ∧ r.stream = st
    (∀ (wd : Width) (w : MemW), Fires (.st h wd w) s f → f.h.t0 = .none → f.h.t1 = .none → (f.b.kind = .scalar ∨ f.dependent = true) →
      f.fr.satisfied.contains w.lsid.toNat = false →
      let va := (f.a.val + w.disp.signExtend 64).toNat
      let cells := (List.range wd.bytes).map fun k => (va + k, k)
      reachable va wd.bytes → va % wd.bytes = 0 → known w.lsid.toNat cells w.stream.toNat →
      HoldsStore (.st h wd w) s f w.lsid.toNat w.stream.toNat cells
        ((List.range wd.bytes).map fun k => BitVec.ofNat 8 (f.b.val.toNat / 2 ^ (8 * k))) none (f.handles (.st h wd w))) ∧
    (∀ (w : TmemW) (ch : ChanFmt) (b : TileIn), chanOf (f.x.chan w.fc.toNat) = some ch → f.holds s f.b b → ch.fmt.width = b.slot.width →
      f.fr.satisfied.contains w.lsid.toNat = false → f.h.t0 = .none → f.h.t1 = .none →
      let e := ch.fmt.bits / 8
      let cols := w.cols.toNat + 1
      let n := (w.rows.toNat + 1) * cols * e
      let va := f.a.val.toNat
      let cells := (List.range n).map fun k => (va + k, k)
      (Fires (.tst h w) s f → reachable va n → va % e = 0 → known w.lsid.toNat cells w.stream.toNat →
        HoldsStore (.tst h w) s f w.lsid.toNat w.stream.toNat cells
          ((List.range n).map fun k => BitVec.ofNat 8 (b.code (k / e / cols * 16 + k / e % cols) / 2 ^ (8 * (k % e)))) (some f.b.val)
          ((f.handles (.tst h w)).erase f.b)) ∧
      (Fires (.tscat h w) s f → s.inflight f.pe < 512 → reachable va (8 + 4 * (w.rows.toNat + 1)) → va % 8 = 0 →
        let rows : StoreRec := { idx := f.idx, lsid := w.lsid.toNat, stream := w.stream.toNat, cells := [], data := none, phys := []
                                 translated := false, dropped := false, refused := [], holder := some f.b.val }
        Gives (.tscat h w) s f (((s.satisfy f.key w.lsid.toNat).request
            (f.request w.lsid.toNat w.stream.toNat va (8 + 4 * (w.rows.toNat + 1)) [] [] (.scatter w f.b.val (f.x.chan w.fc.toNat)) none)).modFrame f.key
              fun fr => { fr with stores := (fr.stores.filter fun r => r.idx != f.idx) ++ [rows] })
          ((f.handles (.tscat h w)).erase f.b) none none))

/-- R64, R86, R159, R218, R225, R233 to R235, R241 to R246: what the memory instructions refuse: a handle as an address or as a routing word, and a value of
TST or TSCAT that is no handle, raise TOKEN_KIND; an address out of range raises PROTECTION and a misaligned one ALIGN, each with the address as Detail, LDPAIR's with
the step that found it; a routing word that names a frame of another context raises PROTECTION, any other bad one OPERAND; a value tile that R159 refuses
raises its fault, and one of another width OPERAND; a second store of one LSID raises OPERAND; a load beyond 512 requests waits, and so does a tile fetch that
finds no room. An extent that runs past address 2^64 − 1 is out of range by the model's choice (DESIGN CHOICE, assumption log 99). -/
def Obligations.MemoryFaults : Prop :=
  (∀ (s : State) (f : Firing) (h : Hdr) (x : LoadX) (w : MemW),
    let va := f.a.val + w.disp.signExtend 64
    let n := x.width.bytes
    let vb := va + BitVec.ofNat 64 n
    let pair := fun (c : Code) (d : Word) (k : Nat) => exec (.ldpair h x w) s = .next (s.failAt f { code := c, detail := d, step := some k })
    (∀ i ∈ [Instr.ld h x w, .ldr h x w, .st h x.width w], Fires i s f → f.a.kind = .tile → Raises i s f .tokenKind 0) ∧
    (Fires (.ldr h x w) s f → f.a.kind = .scalar → f.b.kind = .tile → Raises (.ldr h x w) s f .tokenKind 0) ∧
    (∀ i ∈ [Instr.ld h x w, .ldr h x w], Fires i s f → f.a.kind = .scalar → (i = .ldr h x w → f.b.kind = .scalar) →
      (¬ reachable va.toNat n → Raises i s f .protection va) ∧
      (reachable va.toNat n → va.toNat % n ≠ 0 → Raises i s f .align va) ∧
      (∀ d, reachable va.toNat n → va.toNat % n = 0 → (i = .ldr h x w → f.routes s f.b.val d) → 512 ≤ s.inflight f.pe → Waits i s f .requests)) ∧
    (Fires (.st h x.width w) s f → f.a.kind = .scalar → f.b.kind = .scalar →
      (¬ reachable va.toNat n → Raises (.st h x.width w) s f .protection va) ∧
      (reachable va.toNat n → va.toNat % n ≠ 0 → Raises (.st h x.width w) s f .align va) ∧
      (reachable va.toNat n → va.toNat % n = 0 → f.fr.satisfied.contains w.lsid.toNat = true → Raises (.st h x.width w) s f .operand 0)) ∧
    (Fires (.st h x.width w) s f → f.a.kind = .scalar → f.b.kind = .tile → f.dependent = false → Raises (.st h x.width w) s f .tokenKind 0) ∧
    (Fires (.ldpair h x w) s f →
      (f.a.kind = .tile → pair .tokenKind 0 0) ∧
      (f.a.kind = .scalar →
        (¬ reachable va.toNat n → pair .protection va 0) ∧
        (reachable va.toNat n → va.toNat % n ≠ 0 → pair .align va 0) ∧
        (reachable va.toNat n → va.toNat % n = 0 → ¬ reachable vb.toNat n → pair .protection vb 1) ∧
        (reachable va.toNat n → va.toNat % n = 0 → reachable vb.toNat n → 512 ≤ s.inflight f.pe → Waits (.ldpair h x w) s f .requests)))) ∧
  (∀ (s : State) (f : Firing) (h : Hdr) (x : LoadX) (w : MemW) (tw : TmemW) (ch : ChanFmt), f.a.kind = .scalar → f.b.kind = .scalar →
    let frame := s.frame? (frameKey f.pe (f.b.val.toNat / 2 ^ 9 % 2 ^ 8))
    let va := f.a.val + w.disp.signExtend 64
    let e := ch.fmt.bits / 8
    let tile := (tw.rows.toNat + 1) * (tw.cols.toNat + 1) * e
    let sound := fun (i : Instr) => Fires i s f ∧ ((i = .ldr h x w ∧ reachable va.toNat x.width.bytes ∧ va.toNat % x.width.bytes = 0) ∨
      (i = .tldr h tw ∧ chanOf (f.x.chan tw.fc.toNat) = some ch ∧ reachable f.a.val.toNat tile ∧ f.a.val.toNat % e = 0))
    ∀ i, sound i →
      (frame = none → Raises i s f .operand 0) ∧
      (∀ fr, frame = some fr → fr.ctx ≠ f.fr.ctx → Raises i s f .protection 0) ∧
      (∀ fr, frame = some fr → fr.ctx = f.fr.ctx →
        (2 ^ 17 ≤ f.b.val.toNat ∨ f.b.val.toNat / 2 ^ 7 % 4 = 3 ∨ fr.isOpen = false ∨ fr.failed = true) → Raises i s f .operand 0)) ∧
  (∀ (s : State) (f : Firing) (h : Hdr) (w : TmemW),
    (∀ i ∈ [Instr.tld h w, .tldr h w, .tst h w, .tgath h w, .tscat h w], Fires i s f → f.a.kind = .tile → Raises i s f .tokenKind 0) ∧
    (Fires (.tldr h w) s f → f.a.kind = .scalar → f.b.kind = .tile → Raises (.tldr h w) s f .tokenKind 0) ∧
    (∀ i ∈ [Instr.tst h w, .tscat h w], Fires i s f → f.a.kind = .scalar → f.b.kind = .scalar → Raises i s f .tokenKind 0)) ∧
  (∀ (s : State) (f : Firing) (h : Hdr) (w : TmemW) (ch : ChanFmt), f.a.kind = .scalar → chanOf (f.x.chan w.fc.toNat) = some ch →
    let va := f.a.val.toNat
    let e := ch.fmt.bits / 8
    let tile := (w.rows.toNat + 1) * (w.cols.toNat + 1) * e
    let list := 8 + 4 * (w.rows.toNat + 1)
    let inPlace := fun (i : Instr) => (i = .tld h w ∨ i = .tldr h w ∨ i = .tst h w → reachable va tile ∧ va % e = 0) ∧
      (i = .tgath h w ∨ i = .tscat h w → reachable va list ∧ va % 8 = 0)
    (∀ i ∈ [Instr.tld h w, .tldr h w], Fires i s f → (i = .tldr h w → f.b.kind = .scalar) →
      (va % e ≠ 0 → Raises i s f .align f.a.val) ∧ (va % e = 0 → ¬ reachable va tile → Raises i s f .protection f.a.val)) ∧
    (Fires (.tst h w) s f → f.b.kind = .tile →
      (¬ reachable va tile → Raises (.tst h w) s f .protection f.a.val) ∧
      (reachable va tile → va % e ≠ 0 → Raises (.tst h w) s f .align f.a.val)) ∧
    (∀ i ∈ [Instr.tgath h w, .tscat h w], Fires i s f → (i = .tscat h w → f.b.kind = .tile) →
      (¬ reachable va list → Raises i s f .protection f.a.val) ∧ (reachable va list → va % 8 ≠ 0 → Raises i s f .align f.a.val)) ∧
    (∀ i ∈ [Instr.tld h w, .tldr h w, .tgath h w], ∀ d, Fires i s f → inPlace i → (i = .tldr h w → f.b.kind = .scalar ∧ f.routes s f.b.val d) →
      (s.tileRoom f.pe ch.fmt.width = false ∨ s.olderWaits f .tiles = true → Waits i s f .tiles) ∧
      (s.tileRoom f.pe ch.fmt.width = true → s.olderWaits f .tiles = false → 512 ≤ s.inflight f.pe → Waits i s f .requests)) ∧
    (∀ i ∈ [Instr.tst h w, .tscat h w], Fires i s f → f.b.kind = .tile → inPlace i →
      let slot := s.tileSlot (hPe f.b.val) (hSlot f.b.val)
      (hPe f.b.val ≠ f.pe ∨ slot.count = 0 ∨ slot.owner ≠ f.x.slot ∨ slot.gen ≠ hGen f.b.val → Refuses i s f .handle) ∧
      (∀ b, f.holds s f.b b → ch.fmt.width ≠ b.slot.width → Raises i s f .operand 0) ∧
      (∀ b, f.holds s f.b b → ch.fmt.width = b.slot.width → f.fr.satisfied.contains w.lsid.toNat = true → Raises i s f .operand 0)))

/-- R258, R260 to R265: FENCE with and without its word and SBAR are held for the commit; TLREAD sends a timeline's counter; TLWAIT replies with it
once it has reached operand a, and parks until then. -/
def Obligations.OrderingInstructions : Prop :=
  ∀ (s : State) (f : Firing) (h : Hdr),
    (∀ sc, Fires (.fence h sc) s f → Gives (.fence h sc) s f (s.hold f.key (.fence sc 0xFF true true)) (f.handles (.fence h sc)) none none) ∧
    (∀ sc w, Fires (.fenceWord h sc w) s f →
      Gives (.fenceWord h sc w) s f (s.hold f.key (.fence sc w.streams.toNat (w.order.getLsbD 0) (w.order.getLsbD 1)))
        (f.handles (.fenceWord h sc w)) none none) ∧
    (∀ w, Fires (.sbar h w) s f →
      Gives (.sbar h w) s f (s.hold f.key (.sbar w.src.toNat w.dst.toNat)) (f.handles (.sbar h w)) none none) ∧
    (∀ tl, let d := ((s.pctx f.fr.ctx f.pe).timeline tl).done
      (Fires (.tlread h tl) s f → f.clear = true → GivesScalar (.tlread h tl) s f s (f.handles (.tlread h tl)) (BitVec.ofNat 64 d)) ∧
      (Fires (.tlwait h tl) s f → f.a.kind = .scalar →
        let u := s.expect f.key f.fan
        (f.a.val.toNat ≤ d → Gives (.tlwait h tl) s f (u.reply (.pe f.pe) 1 (f.destsTo [f.h.t0, f.h.t1]) (scalarTok (BitVec.ofNat 64 d)) f.src)
          (f.handles (.tlwait h tl)) none none) ∧
        (d < f.a.val.toNat → exec (.tlwait h tl) s =
          .next (u.retire f (f.handles (.tlwait h tl)) (.parked (.timeline tl f.a.val.toNat)) none none))))

/-- R229, R238, R247, R248, R268: a piece of an access is performed at its home. A write's bytes are what memory then holds, and every other address reads
as before; a read takes the bytes that memory holds; a read of a poisoned granule raises UNCORRECTABLE and takes nothing. A line that an engine holds goes back
to memory first, and the piece finds its bytes there. R77, R241: the last piece of a scalar load replies with the loaded bytes, sign- or zero-extended; the
last piece of a store ends it. -/
def Obligations.AccessAtHome : Prop :=
  ∀ (s : State) (n p : Nat) (a : Access) (q : Piece) (k j : Nat), s.mem.accesses.get? n = some a → a.pieces[p]? = some q →
    s.pieceReady n a q = true → s.refuses a q = false → a.purpose.traces = false → q.cells.head? = some (k, j) → (∀ c ∈ q.cells, c.1 / 64 = k / 64) →
    q.home ≠ .io → Memory.wf s.mem.bytes = true → (∀ c ∈ q.cells, c.2 < a.buf.length) →
    -- a line that an engine holds is as memory is where nothing has changed it (R268)
    (∀ e l, s.lineOf k = some (e, l) → l.bytes.length = 64 ∧ 
      (l.dirty = false → ∀ i, i < 64 → l.bytes[i]? = some (Memory.read s.mem.bytes (k / 64 * 64 + i))) ∧ (l.poisoned = true ↔ k / 64 * 64 ∈ s.mem.poison)) →
    let more := ∃ r ∈ a.pieces.eraseIdx p, r.done = false
    (a.write = true → (∃ holder, a.purpose = .store holder) → (q.cells.map Prod.fst).Nodup →
      ∃ t, exec (.memoryAccessAtHome n p) s = .next t ∧
        (more → t.mem.accesses.get? n = some { a with pieces := a.pieces.set p { q with done := true } }) ∧
        (¬ more → Tab.sorted s.mem.accesses = true → t.mem.accesses.get? n = none) ∧ t.lineOf k = none ∧
        (∀ c ∈ q.cells, some (t.readByte c.1) = a.buf[c.2]?) ∧ ∀ key, (∀ c ∈ q.cells, c.1 ≠ key) → t.readByte key = s.readByte key) ∧
    (∀ size sx, ¬ more → a.write = false → a.purpose = .scalar size sx → s.poisoned k = false → (q.cells.map Prod.snd).Nodup → Tab.sorted s.mem.accesses = true →
      ∃ buf, buf.length = a.buf.length ∧ (∀ c ∈ q.cells, buf[c.2]? = some (s.readByte c.1)) ∧ (∀ i, (∀ c ∈ q.cells, c.2 ≠ i) → buf[i]? = a.buf[i]?) ∧
        exec (.memoryAccessAtHome n p) s = .next ((((s.recall k).delAccess n).reply q.home 1 a.dests
          (scalarTok (if sx then BitVec.ofInt 64 (signedOf (8 * size) (leNat buf)) else BitVec.ofNat 64 (leNat buf))) a.src).sweepHolds)) ∧
    (more → a.write = false → s.poisoned k = false → (q.cells.map Prod.snd).Nodup →
      ∃ t buf, exec (.memoryAccessAtHome n p) s = .next t ∧ t.lineOf k = none ∧
        t.mem.accesses.get? n = some { a with buf := buf, pieces := a.pieces.set p { q with done := true } } ∧ buf.length = a.buf.length ∧
        (∀ c ∈ q.cells, buf[c.2]? = some (s.readByte c.1)) ∧ (∀ i, (∀ c ∈ q.cells, c.2 ≠ i) → buf[i]? = a.buf[i]?) ∧ SameMemory s t) ∧
    (a.write = false → s.poisoned k = true → (∀ c, a.purpose ≠ .copyRead c ∧ a.purpose ≠ .copyWrite c) →
      ∃ t, exec (.memoryAccessAtHome n p) s = .next t ∧ SameMemory s t ∧ ∀ x, s.ctx? a.src.ctx = some x → x.state = .running →
        ∃ y r, t.ctx? a.src.ctx = some y ∧ y.faults = x.faults ++ [r] ∧ r.code = .uncorrectable ∧ r.detail = BitVec.ofNat 64 (k / 64 * 64))

/-- R88, R222, R225, R237: a walk of an access whose pages are all mapped and permitted. A held store's address is then translated; a load takes each
byte from the held store of the highest LSID below its own that writes it, and what is left goes to the homes of its granules. A page that a remote package refuses stays marked until then (R476). -/
def Obligations.WalkAndForwarding : Prop :=
  (∀ (s : State) (n : Nat) (a : Access) (cells : List (Nat × Nat)) (refused : List Nat), s.mem.accesses.get? n = some a → Tab.sorted s.mem.accesses = true →
    s.copyHeld a = false → a.purpose.isCtx = false → s.xlCells a.src.ctx a.src.pe a.need a.cells = .ok cells refused →
    cells.map Prod.snd = a.cells.map Prod.snd →
    (a.purpose.isCheck = true → a.state = .walk → ∃ t, exec (.translationWalk n) s = .next t ∧ t.mem.accesses.get? n = none ∧
      ∀ fr, s.frameOf a.src.pe a.src.frame a.src.uid = some fr → ∃ g, t.frame? (frameKey a.src.pe a.src.frame) = some g ∧
        ∀ r ∈ g.stores, r.idx = a.src.idx → r.translated = true ∧ r.refused = refused ∧ r.phys = cells) ∧
    (∀ buf left stores, a.purpose.isCheck = false → a.state = .lsid → a.extra = [] →
      ((∃ fr, s.frameOf a.src.pe a.src.frame a.src.uid = some fr ∧ fr.isOpen = true ∧ s.storesKnown fr a.lsid = true ∧ fr.stores = stores) ∨
        ((∀ fr, s.frameOf a.src.pe a.src.frame a.src.uid = some fr → fr.isOpen = false) ∧ a.fwd = stores)) →
      forwardAll stores a.lsid a.buf a.cells = some (buf, left) →
      let rest := cells.filter fun c => left.any fun d => d.2 == c.2
      rest ≠ [] → ∃ t b, exec (.translationWalk n) s = .next t ∧ t.mem.accesses.get? n = some b ∧
        b.state = .active ∧ b.issued = s.sched.serial ∧ t.sched.serial = s.sched.serial + 1 ∧ b.pieces = piecesOf rest ∧ b.cells = a.cells ∧ b.dests = a.dests ∧ b.buf = buf ∧ b.refused = refused)) ∧
  (∀ (stores : List StoreRec) (lsid va : Nat), (∀ r ∈ stores, r.lsid < lsid → r.dropped = false → ∀ c ∈ r.cells, c.1 ≠ va) →
    forward stores lsid va = .memory) ∧
  (∀ (stores : List StoreRec) (lsid va i : Nat) (r : StoreRec) (d : List Byte) (b : Byte), r ∈ stores → r.lsid < lsid → r.dropped = false → r.data = some d →
    r.cells = [(va, i)] → d[i]? = some b →
    (∀ q ∈ stores, q ≠ r → q.dropped = false → q.lsid < lsid → (∃ c ∈ q.cells, c.1 = va) → q.lsid < r.lsid) → forward stores lsid va = .byte b)

/-! ### Atomics, arrival counters and barriers (R267 to R291) -/

/-- R267, R271 to R273, R258, R77: ATOM and ATOMN that pass their checks reserve the next tla number, are marked as performed, and send one request to
the home engine; ATOM's targets wait for its reply, ATOMN sends the number now. -/
def Obligations.AtomicsFire : Prop :=
  ∀ (s : State) (f : Firing) (h : Hdr) (op : AtomOp) (w : AtomW) (pa q attr : Nat) (refused : Bool), f.a.kind ≠ .tile → f.b.kind ≠ .tile →
    (op = .cas → f.c.kind ≠ .tile) → s.inflight f.pe < 512 →
    let va := (f.a.val + w.disp.signExtend 64).toNat
    let n := if w.dbl then 8 else 4
    reachable va n → va % n = 0 → s.check1 f.fr.ctx [f.pe, 2048 + f.pe / 256] .atomic va = .ok pa attr refused → homeQuad pa = some q →
    let t := s.fillTables f.fr.ctx f.pe [(va, 0)]
    let k := (t.pctx f.fr.ctx f.pe).tla.taken + 1
    let u := f.performs (t.takeNumber f.fr.ctx f.pe .tla).1
    let req := fun (value : Bool) => ({
      src := f.src, bank := pa / 64 % 4, arrival := s.sched.cycle, near := q == quadOfPe f.pe && decide (pa < 2 ^ 52), va := va, pa := pa, size := n, op := op
      b := f.b.val, c := if op = .cas then f.c.val else 0, release := w.order.getLsbD 1, stream := w.stream.toNat
      dests := if value then f.destsTo [f.h.t0, f.h.t1] else [], tla := k, accepted := none, purpose := .instr value, refused := refused } : AtomReq)
    let place := fun (value : Bool) => State.bump { u with sync := { u.sync with reqs := u.sync.reqs.put u.sched.serial (req value) } }
    (Fires (.atom h op w) s f → Gives (.atom h op w) s f ((place true).expect f.key f.fan) (f.handles (.atom h op w)) none none) ∧
    (Fires (.atomn h op w) s f → f.clear = true →
      GivesScalar (.atomn h op w) s f (place false) (f.handles (.atomn h op w)) (BitVec.ofNat 64 k))

/-- R272: what an operation of 4 or 8 bytes makes of the old value and operand b, modulo its width: sums wrap, min and max compare signed, minu and
maxu unsigned, swap takes b, and cas takes c where the old value is b and else writes nothing. -/
def Obligations.AtomicResults : Prop :=
  ∀ (n old b c : Nat), n = 4 ∨ n = 8 → old < 2 ^ (8 * n) →
    let m := 2 ^ (8 * n)
    let less := fun (x y : Nat) => signedOf (8 * n) x < signedOf (8 * n) y
    atomicNew .add n old b c = some ((old + b) % m) ∧
    (∀ p ∈ [(AtomOp.and, fun x y : Bool => x && y), (.or, fun x y => x || y), (.xor, fun x y => x != y)], ∃ v, atomicNew p.1 n old b c = some v ∧
      ∀ j, v.testBit j = (decide (j < 8 * n) && p.2 (old.testBit j) (b.testBit j))) ∧
    (less b old → atomicNew .min n old b c = some (b % m) ∧ atomicNew .max n old b c = some old) ∧
    (less old b → atomicNew .min n old b c = some old ∧ atomicNew .max n old b c = some (b % m)) ∧
    atomicNew .minu n old b c = some (min old (b % m)) ∧ atomicNew .maxu n old b c = some (max old (b % m)) ∧
    atomicNew .swap n old b c = some (b % m) ∧ (old = b % m → atomicNew .cas n old b c = some (c % m)) ∧
    (old ≠ b % m → atomicNew .cas n old b c = none)

/-- R268, R269, R272: an engine's bank with ready requests takes one: the oldest of those that waited 8 cycles, a local one where a remote is as old;
else, of the local ones, the next after the PE that won last, from the first PE of the quad where none has won yet (the model's choice, DESIGN CHOICE, assumption log 104);
else the oldest. On a held line that is not poisoned it performs the request at once
(`AtomDone`); where it does not hold the line it asks for it, unless it was asked for. A line that comes holds the bytes that memory holds, and a request
that alone waited for it is then performed. -/
def Obligations.AtomicEngine : Prop :=
  (∀ (s : State) (q b : Nat), (∃ n r, s.mayTake q b n r) →
    ∃ n r t, s.mayTake q b n r ∧ exec (.atomicEngineRequest q b) s = .next t ∧ s.bankPick q b = some (n, r) ∧
      ((∃ m x, s.mayTake q b m x ∧ x.arrival + 8 ≤ s.sched.cycle) →
        ∀ m x, s.mayTake q b m x → r.arrival < x.arrival ∨ (r.arrival = x.arrival ∧ (x.near = true → r.near = true))) ∧
      ((∀ m x, s.mayTake q b m x → s.sched.cycle < x.arrival + 8) →
        ((∃ m x, s.mayTake q b m x ∧ x.near = true) → r.near = true ∧ ∀ m x, s.mayTake q b m x → x.near = true →
          rotation ((s.engine q).last.getD b 2048) r.src.pe (pesOfQuad (q % 512)) ≤
            rotation ((s.engine q).last.getD b 2048) x.src.pe (pesOfQuad (q % 512))) ∧
        ((∀ m x, s.mayTake q b m x → x.near = false) → ∀ m x, s.mayTake q b m x → r.arrival ≤ x.arrival))) ∧
  (∀ (s : State) (q b n : Nat) (r : AtomReq), s.bankPick q b = some (n, r) → r.refused = false → Tab.sorted s.sync.reqs = true →
    (∀ (l : Line) (v : Bool), (s.engine q).lines.find? (fun k => k.pa == r.line) = some l → l.poisoned = false → l.bytes.length = 64 →
      r.pa % 64 + r.size ≤ 64 → r.purpose = .instr v →
      ∃ t, exec (.atomicEngineRequest q b) s = .next t ∧ AtomDone s t q n r (s.engine q).lines l) ∧
    ((∀ l ∈ (s.engine q).lines, l.pa ≠ r.line) →
      ∃ t, exec (.atomicEngineRequest q b) s = .next t ∧ t.sync.reqs.get? n = some { r with accepted := some s.sched.serial } ∧
        (t.engine q).lines = (s.engine q).lines ∧ t.mem = s.mem ∧ t.net = s.net ∧
        (t.engine q).fills = if r.line ∈ (s.engine q).fills then (s.engine q).fills else (s.engine q).fills ++ [r.line])) ∧
  (∀ (s : State) (q line : Nat), line ∈ (s.engine q).fills → (s.engine q).lines.length < 64 → (∀ k ∈ (s.engine q).lines, k.pa ≠ line) →
    Tab.sorted s.sync.reqs = true →
    let waits := s.sync.reqs.filter fun p => p.2.accepted.isSome && p.2.engine == q && p.2.line == line
    ∃ t l, exec (.atomicLineFill q line) s = .next t ∧ l.pa = line ∧ l.dirty = false ∧ l.bytes.length = 64 ∧
      (l.poisoned = true ↔ line ∈ s.mem.poison) ∧ (∀ i, i < 64 → l.bytes[i]? = some (Memory.read s.mem.bytes (line + i))) ∧
      (t.engine q).fills = (s.engine q).fills.erase line ∧
      (waits = [] → (t.engine q).lines = (s.engine q).lines ++ [l] ∧ t.mem = s.mem) ∧
      (∀ n r v, waits = [(n, r)] → r.purpose = .instr v → l.poisoned = false → r.pa % 64 + r.size ≤ 64 →
        AtomDone s t q n r ((s.engine q).lines ++ [l]) l))

/-- R275 to R279, R283 to R285: the counter instructions. ACBIND of a descriptor and range that pass their checks reserves the lowest free counter of a
home, bound at the commit, or answers why not: none free, a range that is counted already, a full segment table. ACEXPECT adds own − total and arms its
counter in one step, or refuses, once every access before it is performed; ACREAD sends its request to the counter; ACFREE is held for the commit. -/
def Obligations.CounterInstructions : Prop :=
  ∀ (s : State) (f : Firing) (h : Hdr), f.a.kind ≠ .tile →
    (∀ (dk ks : List (Nat × Nat)) (cid : Nat), Fires (.acbind h) s f → f.b.kind ≠ .tile → reachable f.a.val.toNat 64 → f.a.val.toNat % 64 = 0 →
      s.checkRange f.fr.ctx f.pe .normalRead f.a.val.toNat 64 = .ok dk → s.runsPoisoned dk = none →
      let bytes := s.readRuns dk
      let d := descOf bytes
      idBad f.b.val.toNat = false → f.b.val.toNat % 2 ^ 10 = 0 → descGood bytes = true → reachable d.base d.len →
      s.checkRange f.fr.ctx f.pe .counted d.base d.len = .ok ks → (∀ r ∈ ks, r.1 < 2 ^ 52) →
      let segs := segmentsOf ks
      let clash := s.sync.counters.any fun p => p.2.segs.any fun g => segs.any fun x => decide (g.1 < x.1 + x.2 ∧ x.1 < g.1 + g.2)
      let answer := fun (u : State) (v k : Word) =>
        Gives (.acbind h) s f (f.replyTwo u (counterHome f.b.val.toNat) (scalarTok v) (scalarTok k)) (f.handles (.acbind h)) none none
      let home := f.b.val.toNat
      let slots := if bitAt home 23 then 64 else 1024
      ((∀ i, i < slots → s.counter? (home + i) ≠ none) → answer s (BitVec.allOnes 64) 0) ∧
      (∀ i, i < slots → cid = home + i → s.counter? cid = none → (∀ j, j < i → s.counter? (home + j) ≠ none) →
        (clash = true → answer s (BitVec.allOnes 64) 2) ∧ (clash = false → s.segsFull segs = true → answer s (BitVec.allOnes 64) 3) ∧
        (clash = false → s.segsFull segs = false →
          ∃ c : Counter, c.ctx = f.fr.ctx ∧ c.bound = false ∧ c.desc = f.a.val.toNat ∧ c.segs = segs ∧ c.armed = false ∧ c.isDone = false ∧
            c.error = false ∧ c.cyclic = d.cyclic ∧ c.cycle = 0 ∧ c.count = 0 ∧
            answer ((s.setCounter cid c).hold f.key (.acbind cid)) (BitVec.ofNat 64 cid) 1))) ∧
    (∀ (c : Counter), Fires (.acexpect h) s f → f.b.kind ≠ .tile →
      let cid := f.a.val.toNat % 2 ^ 24
      let own : Nat := f.a.val.toNat / 2 ^ 32
      let total : Nat := f.b.val.toNat
      idBad cid = false → f.a.val.toNat / 2 ^ 24 % 2 ^ 8 = 0 → 1 ≤ total → total ≤ 2 ^ 47 → s.counter? cid = some c → c.ctx = f.fr.ctx → c.bound = true →
      (s.before f.src 0xFF = true → Waits (.acexpect h) s f .before) ∧
      (s.before f.src 0xFF = false →
        let u := f.performs s
        let answer := fun (v : State) (k : Word) =>
          Gives (.acexpect h) s f (f.replyBoth v (counterHome cid) (scalarTok k)) (f.handles (.acexpect h)) none none
        (c.armed = true ∨ c.isDone = true → answer u (c.status true)) ∧
        (c.armed = false → c.isDone = false →
          let c1 := Counter.add { c with armed := true } (own - total : Int)
          answer (u.setCounter cid c1) (c1.status false)))) ∧
    (Fires (.acread h) s f → exec (.acread h) s =
      .next (((s.expect f.key f.fan).post (.pe f.pe) (counterHome f.a.val.toNat) 7 (.acread f.a.val.toNat (f.destsTo [f.h.t0, f.h.t1]) f.src)).modFrame f.key
        fun fr => { fr with stat := fr.stat.put f.idx (.parked (.home s.sched.serial)) })) ∧
    (Fires (.acfree h) s f → Gives (.acfree h) s f (s.hold f.key (.acfree f.a.val.toNat)) (f.handles (.acfree h)) none none)

/-- R279, R281, R285: a count that reaches a bound counter is added, saturating in 49 bits with Error; an armed counter that reaches zero fires once and
starts its next cycle, or is Done; a count for no counter is dropped. ACREAD's request to a counter bound to its context is answered with the status word,
any other raises OPERAND at its instruction and its replies do not come. A counter of a context that issues and that has fired acts: it sends one arrival
to the node of its quad, enqueues the record at Target, or sends its token; where its descriptor is poisoned, breaks R277 or names an address out of range
it only sets Error, and that a poisoned descriptor or a Target that may not be reached drops the action is the model's choice (DESIGN CHOICE, assumption log 119). -/
def Obligations.CounterCounts : Prop :=
  (∀ (c : Counter) (d : Int), c.isDone = false →
    let v := c.count + d
    let count := if v < -2 ^ 48 then -2 ^ 48 else if 2 ^ 48 - 1 < v then 2 ^ 48 - 1 else v
    (c.add d).count = count ∧ ((c.add d).error = true ↔ c.error = true ∨ v < -2 ^ 48 ∨ 2 ^ 48 ≤ v) ∧
    (c.armed = false ∨ count < 0 → (c.add d).armed = c.armed ∧ (c.add d).isDone = false ∧ (c.add d).cycle = c.cycle ∧ (c.add d).firing = c.firing) ∧
    (c.armed = true → 0 ≤ count → (c.add d).armed = false ∧ (c.add d).isDone = !c.cyclic ∧ (c.add d).cycle = (c.cycle + 1) % 1024 ∧
      (c.add d).firing = c.firing + 1)) ∧
  (∀ (c : Counter) (d : Int), c.isDone = true → c.add d = c) ∧
  (∀ (s : State) (n : Nat) (e : Env) (cid k : Nat), s.msg? n = some e → s.first n e = true → e.body = .count cid k →
    (∀ c, s.counter? cid = some c → c.bound = true → exec (.countMessage n) s = .next ((s.taken n).setCounter cid (c.add k))) ∧
    (s.counter? cid = none → exec (.countMessage n) s = .next (s.taken n))) ∧
  (∀ (s : State) (n : Nat) (e : Env) (cid : Nat) (ds : List Dest) (src : Src), s.msg? n = some e → s.first n e = true → e.body = .acread cid ds src →
    (∀ c, idBad cid = false → s.counter? cid = some c → c.bound = true → c.ctx = src.ctx →
      exec (.countMessage n) s = .next (((s.taken n).answered src).reply (counterHome cid) 1 ds (scalarTok (c.status false)) src)) ∧
    ((idBad cid = true ∨ ∀ c, s.counter? cid = some c → c.bound = true → c.ctx ≠ src.ctx) →
      exec (.countMessage n) s = .next ((s.taken n).readFault (counterHome cid) ds src { code := .operand }))) ∧
  (∀ (s : State) (cid : Nat) (c : Counter) (x : Ctx), s.counter? cid = some c → 0 < c.firing → s.ctx? c.ctx = some x →
    (x.state = .running ∨ x.state = .checkpointing) →
    let u := s.setCounter cid { c with firing := c.firing - 1 }
    let bytes := s.readBytes c.descPa 64
    let d := descOf bytes
    let sound := s.poisoned c.descPa = false ∧ actionGood bytes = true ∧ (d.action < 2 → canonicalSpan d.target 64 = true)
    (¬ sound → exec (.counterFire cid) s = .next (s.setCounter cid { c with firing := c.firing - 1, error := true })) ∧
    (sound →
      (∀ pa len rest, d.action = 0 → u.homeRuns c.ctx [] (.store false) (pageRuns d.target 64) = .ok ((pa, len) :: rest) →
        exec (.counterFire cid) s = .next (u.post (counterHome cid) (.quad (counterQuad cid)) 7 (.barArrive pa (counterQuad cid)
          [{ src := Src.ofCtx c.ctx, va := d.target, level := 0, nw := true, counter := some cid, step := none }] none))) ∧
      (∀ rec_, d.action = 1 → u.hwRead c.ctx .reader d.target 64 = some rec_ →
        exec (.counterFire cid) s = .next (u.hwEnqueueBytes c.ctx rec_ d.target d.quad true none)) ∧
      (d.action = 2 → exec (.counterFire cid) s = .next (u.post (counterHome cid) (.pe (d.token / 2 ^ 17 % 2 ^ 11)) 4
        (.inject (withParity d.value (d.token % 2 ^ 34 + 4 * 2 ^ 34)) cid)))))

/-- R64, R286, R290, R291: BARINIT, BARARR and SYNCALL of a record that translates send 0 and are held for the commit, one to a block; a second of any of them
raises OPERAND, and so does BARINIT with an N of 0 or beyond 32 bits; where a remote package refuses the record its address says so (R476); BARTRY replies whether the phase named is complete. -/
def Obligations.BarrierInstructions : Prop :=
  ∀ (s : State) (f : Firing) (h : Hdr) (w : BarW) (ks : List (Nat × Nat)) (pa : Nat), f.a.kind ≠ .tile → reachable f.a.val.toNat 64 → f.a.val.toNat % 64 = 0 →
    ks.head? = some (pa, 64) →
    let barrier := fun (e : Effect) => match e with | .barinit _ _ _ _ => True | .bararr _ _ _ _ _ _ => True | _ => False
    let none_ := ∀ e ∈ f.fr.held, ¬ barrier e
    (s.checkHome f.fr.ctx f.pe (.store false) f.a.val.toNat 64 = .ok ks →
      (f.clear = true → none_ → Fires (.barinit h w) s f → f.b.kind ≠ .tile → 1 ≤ f.b.val.toNat → f.b.val.toNat < 2 ^ 32 →
        GivesScalar (.barinit h w) s f (s.hold f.key (.barinit f.a.val.toNat pa w.level.code f.b.val.toNat)) (f.handles (.barinit h w)) 0) ∧
      (f.clear = true → none_ → Fires (.bararr h w) s f →
        GivesScalar (.bararr h w) s f (s.hold f.key (.bararr f.a.val.toNat pa w.level.code w.nw f.src none)) (f.handles (.bararr h w)) 0) ∧
      (f.clear = true → none_ → Fires (.syncall h) s f →
        GivesScalar (.syncall h) s f (s.hold f.key (.bararr f.a.val.toNat pa 3 false f.src (some 0))) (f.handles (.syncall h)) 0) ∧
      ((∃ e ∈ f.fr.held, barrier e) → Fires (.bararr h w) s f → Raises (.bararr h w) s f .operand 0) ∧
      ((∃ e ∈ f.fr.held, barrier e) → Fires (.barinit h w) s f → f.b.kind ≠ .tile → Raises (.barinit h w) s f .operand 0) ∧
      ((∃ e ∈ f.fr.held, barrier e) → Fires (.syncall h) s f →
        exec (.syncall h) s = .next (s.failAt f { code := .operand, step := some 0 })) ∧
      (Fires (.barinit h w) s f → f.b.kind ≠ .tile → (f.b.val.toNat = 0 ∨ 2 ^ 32 ≤ f.b.val.toNat) → Raises (.barinit h w) s f .operand 0)) ∧
    (s.checkRange f.fr.ctx f.pe (.load false) f.a.val.toNat 64 = .ok ks → Fires (.bartry h w) s f → f.b.kind ≠ .tile → s.rangePoisoned pa 16 = false →
      let phase : Int := Int.ofNat (s.read64 pa / 2 ^ 32 % 2 ^ 24)
      let done := (phase - 1 - f.b.val.toNat) % 2 ^ 24 < 2 ^ 23
      Gives (.bartry h w) s f (f.replyBoth s (nodeAgent (s.barRootOf pa)) (scalarTok (if done then 1 else 0))) (f.handles (.bartry h w)) none none)

/-- R287, R288, R291: an arrival that reaches its record's root is counted, and one whose level or place is not the record's raises OPERAND; one at a record
that a remote package refuses raises PROTECTION and is not counted (R476); at a node
below the root that has no message on its way it goes on to the node above. Once N have arrived the root writes Phase + 1, the rest of the record as
before, its count restarts, and, where it stands above the quads, every arrival it had counted is in a release to a node below. A release at a node above the quads goes down to the nodes
that its arrivals came through; at a quad node it lets the waiting task of a running context go on, and is held for a halted one. -/
def Obligations.BarrierEvents : Prop :=
  (∀ (s : State) (n : Nat) (e : Env) (rec_ node : Nat) (a : BarArr), s.msg? n = some e → s.first n e = true → e.body = .barArrive rec_ node [a] none →
    s.barComplete rec_ = false → isRefused rec_ = false → s.barLive rec_ = true → node = s.barRootOf rec_ → s.arrivalGood rec_ a = true →
    exec (.barrierArrival n) s =
      .next ((s.taken n).setBarrier rec_ { s.barrier rec_ with counted := (s.barrier rec_).counted ++ [a] })) ∧
  (∀ (s : State) (n : Nat) (e : Env) (rec_ node : Nat) (a : BarArr), s.msg? n = some e → s.first n e = true → e.body = .barArrive rec_ node [a] none →
    s.barComplete rec_ = false → isRefused rec_ = false → s.barLive rec_ = true → a.counter = none →
    (node = s.barRootOf rec_ → (s.barLevel rec_ ≠ a.level ∨ s.instanceOf (s.barLevel rec_) (quadOfPe a.src.pe) ≠ s.barInst rec_) →
      exec (.barrierArrival n) s =
        .next (((s.taken n).setBarrier rec_ (s.barrier rec_)).raiseAt a.src { code := .operand, step := a.step })) ∧
    (node ≠ s.barRootOf rec_ → (s.barrier rec_).node node = { pend := [], inflight := false } →
      let up := if nodeLevel node < s.barLevel rec_ then nodeUp node else s.barRootOf rec_
      ∃ t, exec (.barrierArrival n) s = .next t ∧ ((t.barrier rec_).node node) = { pend := [], inflight := true } ∧
        (t.barrier rec_).counted = (s.barrier rec_).counted ∧
        ∃ k m, t.net.get? k = some m ∧ m.dst = nodeAgent up ∧ m.body = .barArrive rec_ up [a] (some node))) ∧
  (∀ (s : State) (n : Nat) (e : Env) (rec_ node : Nat) (a : BarArr), s.msg? n = some e → s.first n e = true → e.body = .barArrive rec_ node [a] none →
    s.barComplete rec_ = false → isRefused rec_ = true → a.counter = none →
    exec (.barrierArrival n) s = .next ((s.taken n).raiseAt a.src { code := .protection, detail := BitVec.ofNat 64 a.va, step := a.step })) ∧
  (∀ (s : State) (rec_ : Nat), s.barComplete rec_ = true → s.lineOf rec_ = none → Memory.wf s.mem.bytes = true → rec_ % 64 = 0 →
    ∃ t, exec (.barrierPhaseComplete rec_) s = .next t ∧ (t.barrier rec_).counted = [] ∧ t.barPhase rec_ = (s.barPhase rec_ + 1) % 2 ^ 24 ∧
      t.barN rec_ = s.barN rec_ ∧ t.barLevel rec_ = s.barLevel rec_ ∧
      (512 ≤ s.barRootOf rec_ → ∀ a ∈ (s.barrier rec_).counted, ∃ k m node l, t.net.get? k = some m ∧ m.body = .barRelease rec_ node l ∧ a ∈ l) ∧
      ∀ key, (key < rec_ ∨ rec_ + 8 ≤ key) → t.readByte key = s.readByte key) ∧
  (∀ (s : State) (n : Nat) (e : Env) (rec_ node : Nat) (a : BarArr) (x : Ctx) (t : Task), s.msg? n = some e → s.first n e = true →
    e.body = .barRelease rec_ node [a] → node < 512 → a.counter = none → a.nw = false → s.ctx? a.src.ctx = some x → s.task? a.src.pe a.src.task = some t →
    t.ctx = a.src.ctx →
    (x.state = .running → exec (.barrierRelease n) s = .next ((s.taken n).setTask a.src.pe a.src.task { t with barWait := t.barWait.erase a.src.uid })) ∧
    (x.state = .halting ∨ x.state = .halted → exec (.barrierRelease n) s =
      .next ((s.taken n).setBarrier rec_ { s.barrier rec_ with held := (s.barrier rec_).held ++ [a] }))) ∧
  (∀ (s : State) (n : Nat) (e : Env) (rec_ node : Nat) (l : List BarArr), s.msg? n = some e → s.first n e = true → e.body = .barRelease rec_ node l →
    512 ≤ node → ∃ t, exec (.barrierRelease n) s = .next t ∧
      ∀ a ∈ l, ∃ k m down d, t.net.get? k = some m ∧ m.dst = nodeAgent down ∧ m.body = .barRelease rec_ down d ∧ a ∈ d)

/-! ### Channels (R293 to R322) -/

/-- R293 to R296, R302, R303, R311, R313, R315 to R322: the channel instructions whose base passes its checks. CHOPEN reserves the entry with its capacity
and thresholds, held for the commit, and replies 1 and them, or answers 2 where its pages are a channel's and 0 where the table is full; one that names a
broken channel raises CHANNEL_STATE; CHCLOSE is held for the commit; CHSTAT replies with the status word; CHSEND and CHTRYS of a bound writer under XON
perform and send their element with the next tls number, a tile's reference held; under XOFF CHSEND parks, or raises SPILL_QUOTA on a quota-blocked
channel, and CHTRYS sends 0 and its operand; CHRECV and CHTRYR of a bound reader send their request and park; a task with no endpoint asks for one first
and parks. -/
def Obligations.ChannelInstructions : Prop :=
  ∀ (s : State) (f : Firing) (h : Hdr) (ks : List (Nat × Nat)) (ch n : Nat), f.a.kind ≠ .tile → reachable f.a.val.toNat 1 → f.a.val.toNat % 65536 = 0 →
    ks.head? = some (ch, n) →
    let named := s.checkRange f.fr.ctx f.pe .chan f.a.val.toNat 64 = .ok ks
    let ep := s.endpoint? f.pe f.fr.task ch
    let u := f.performs s
    let k := (u.pctx f.fr.ctx f.pe).tls.taken + 1
    let parks := fun (i : Instr) (v : State) (w : Wait) => exec i s = .next (v.modFrame f.key fun fr => { fr with stat := fr.stat.put f.idx (.parked w) })
    (∀ (w : ChopenW) (die : Nat) (pkg : Option Nat), Fires (.chopen h w) s f →
      let e := if !w.tile then 8 else if w.width = 0 then 320 else if w.width = 1 then 576 else 1088
      let size := 64 * w.units.toNat
      let nt := (size - 256) / e
      let gap := if w.tile then (e + 63) / 64 else 1
      let rtt := if w.reach = .die then 128 else if w.reach = .pkg then 496 else 2596
      let head := min ((rtt + gap - 1) / gap) (nt / 2)
      256 + e ≤ size → reachable f.a.val.toNat size → s.checkRange f.fr.ctx f.pe .chan f.a.val.toNat size = .ok ks →
      (∀ r ∈ ks, chanDie r.1 = some (die, pkg)) →
      let home : Agent := match pkg with | some p => .remote p | none => .die die
      let taken := s.chans.any fun p => p.2.pages.any fun g => ks.any fun r => overlaps g (r.1 / 65536 * 65536, 65536)
      let full := 2048 ≤ (s.chans.filter fun p => p.2.die == die && p.2.remote == pkg).length
      let answer := fun (v : Word) => Gives (.chopen h w) s f (f.replyTwo s home (scalarTok v) (scalarTok 0)) (f.handles (.chopen h w)) none none
      (∀ c, s.chan? ch = some c → c.state = .broken → Raises (.chopen h w) s f .channelState f.a.val) ∧
      ((∀ c, s.chan? ch = some c → c.state ≠ .broken) → (taken = true → answer 2) ∧ (taken = false → full → answer 0) ∧ (taken = false → ¬ full →
        ∃ c : Chan, c.base = f.a.val.toNat ∧ c.opener = f.fr.ctx ∧ c.nring = nt ∧ c.off = nt - head ∧ c.on = nt - head - head ∧ c.state = .reserved ∧
          c.fixed = w.fixed ∧ c.writer = none ∧ c.reader = none ∧ c.ring = [] ∧ c.segs = [] ∧ c.lent = [] ∧ c.reqs = [] ∧ c.sendSeq = 0 ∧ c.recvSeq = 0 ∧
          Gives (.chopen h w) s f (f.replyTwo ((s.setChan ch c).hold f.key (.chopen ch)) home (scalarTok 1)
            (scalarTok (BitVec.ofNat 64 (c.off * 2 ^ 32 + c.on)))) (f.handles (.chopen h w)) none none))) ∧
    (∀ c, named → s.chan? ch = some c → c.state ≠ .reserved → f.b.kind ≠ .tile → f.b.val.toNat < 2 → (c.state = .broken → f.b.val.toNat = 1) →
      Fires (.chclose h) s f →
      Gives (.chclose h) s f (s.hold f.key (.chclose ch f.a.val.toNat f.b.val.toNat f.src)) (f.handles (.chclose h)) none none) ∧
    (named → Fires (.chstat h) s f →
      (s.chan? ch = none → Gives (.chstat h) s f (f.replyBoth s (homeAgent ch) (scalarTok 0)) (f.handles (.chstat h)) none none) ∧
      (∀ c, s.chan? ch = some c → Gives (.chstat h) s f
        (f.replyBoth s c.home (scalarTok (c.status !(s.parkedSends ch).isEmpty))) (f.handles (.chstat h)) none none)) ∧
    (∀ c p e holder, named → s.chan? ch = some c → (c.state = .opened ∨ c.state = .closed) → ep true = some p → p.bound = true → p.closed = false →
      ((c.tile = false ∧ f.b.kind = .scalar ∧ e = ({ val := f.b.val, rows := 0, cols := 0, nonfinite := false, codes := [] } : Elem) ∧ holder = none) ∨
        (c.tile = true ∧ holder = some f.b.val ∧ ∃ b : TileIn, f.holds s f.b b ∧ b.slot.width = c.width ∧
          e = { val := 0, rows := b.rows, cols := b.cols, nonfinite := b.slot.nonfinite, codes := b.slot.codes })) →
      let sent := ((u.takeNumber f.fr.ctx f.pe .tls).1).post (.pe f.pe) c.home 2 (.element ch e f.src k holder)
      (p.xoff = false → s.before f.src 0xFF = false → f.clear = true →
        (Fires (.chsend h) s f → GivesScalar (.chsend h) s f sent ((f.handles (.chsend h)).erase f.b) (BitVec.ofNat 64 k)) ∧
        (Fires (.chtrys h) s f →
          Gives (.chtrys h) s f sent ((f.handles (.chtrys h)).erase f.b) (some (scalarTok (BitVec.ofNat 64 k))) (some (scalarTok 1)))) ∧
      (p.xoff = true → (c.quota = none → Fires (.chsend h) s f → parks (.chsend h) s (.xoff ch)) ∧
        (c.quota.isSome = true → Fires (.chsend h) s f → Raises (.chsend h) s f .spillQuota f.a.val) ∧
        (f.clear = true → Fires (.chtrys h) s f → PassesFrom (.chtrys h) s f u f.b (scalarTok 0)))) ∧
    (∀ c p, named → s.chan? ch = some c → (c.state = .opened ∨ c.state = .closed) → ep false = some p → p.bound = true → p.closed = false →
      let asks := fun (isTry : Bool) => (s.expect f.key f.fan).post (.pe f.pe) c.home 2
        (.recvReq ch { src := f.src, dests := f.destsTo [f.h.t0], sdests := f.destsTo [f.h.t1], isTry := isTry })
      (Fires (.chrecv h) s f → exec (.chrecv h) s =
        .next ((asks false).retire f (f.handles (.chrecv h)) (.parked (.home s.sched.serial)) none none)) ∧
      (Fires (.chtryr h) s f → exec (.chtryr h) s =
        .next ((asks true).retire f (f.handles (.chtryr h)) (.parked (.home s.sched.serial)) none none))) ∧
    (∀ c (writer : Bool), named → s.chan? ch = some c → (c.state = .opened ∨ c.state = .closed) → ep writer = none →
      (s.pe.endpoints.filter fun e => e.pe == f.pe).length < 64 →
      let p : Endpoint := { pe := f.pe, task := f.fr.task, ch := ch, writer := writer, bound := false, xoff := false, closed := false }
      let v := ({ s with pe := { s.pe with endpoints := s.pe.endpoints ++ [p] } } : State).post (.pe f.pe) c.home 2 (.bind ch writer f.src)
      ∀ i ∈ (if writer then [Instr.chsend h, .chtrys h] else [.chrecv h, .chtryr h]), Fires i s f → parks i v (.bind ch writer))

/-- R294, R313, R316 and R318 to R322: what the channel instructions refuse: a handle as the base raises TOKEN_KIND, an address out of range PROTECTION, a
misaligned one ALIGN, and a base with no open channel, or with a broken one, CHANNEL_STATE, but for CHSTAT and for CHCLOSE with mode 1 of a broken one; another
mode of CHCLOSE raises OPERAND. CHOPEN raises OPERAND where its capacity does not hold one element or its pages lie on two dies, PROTECTION where they are
out of range or forbid it, and CHANNEL_STATE on a broken channel; a capacity that runs past address 2^64 − 1 is out of range by the model's choice
(DESIGN CHOICE, assumption log 99). -/
def Obligations.ChannelFaults : Prop :=
  (∀ (s : State) (f : Firing) (h : Hdr), ∀ i ∈ [Instr.chclose h, .chstat h, .chsend h, .chtrys h, .chrecv h, .chtryr h], Fires i s f →
    (f.a.kind = .tile → Raises i s f .tokenKind 0) ∧
    (f.a.kind = .scalar → ¬ reachable f.a.val.toNat 1 → Raises i s f .protection f.a.val) ∧
    (f.a.kind = .scalar → reachable f.a.val.toNat 1 → f.a.val.toNat % 65536 ≠ 0 → Raises i s f .align f.a.val) ∧
    (∀ ch n ks, f.a.kind = .scalar → reachable f.a.val.toNat 1 → f.a.val.toNat % 65536 = 0 →
      s.checkRange f.fr.ctx f.pe .chan f.a.val.toNat 64 = .ok ((ch, n) :: ks) → s.chan? ch = none →
      i ≠ .chstat h → (i = .chclose h → f.b.kind = .scalar ∧ f.b.val.toNat < 2) → s.readerCut f.pe f.fr.task ch = false →
      Raises i s f .channelState f.a.val) ∧
    (∀ ch n ks c, f.a.kind = .scalar → reachable f.a.val.toNat 1 → f.a.val.toNat % 65536 = 0 →
      s.checkRange f.fr.ctx f.pe .chan f.a.val.toNat 64 = .ok ((ch, n) :: ks) → s.chan? ch = some c → c.state = .broken ∨ c.state = .reserved →
      i ≠ .chstat h → (i = .chclose h → f.b.kind = .scalar ∧ f.b.val.toNat < 2 ∧ (c.state = .broken → f.b.val.toNat = 0)) →
      s.readerCut f.pe f.fr.task ch = false → Raises i s f .channelState f.a.val) ∧
    (∀ ks, f.a.kind = .scalar → reachable f.a.val.toNat 1 → f.a.val.toNat % 65536 = 0 → s.checkRange f.fr.ctx f.pe .chan f.a.val.toNat 64 = .ok ks →
      i = .chclose h → (f.b.kind = .tile → Raises i s f .tokenKind 0) ∧ (f.b.kind = .scalar → 2 ≤ f.b.val.toNat → Raises i s f .operand 0))) ∧
  (∀ (s : State) (f : Firing) (h : Hdr) (w : ChopenW), Fires (.chopen h w) s f →
    let e := if !w.tile then 8 else if w.width = 0 then 320 else if w.width = 1 then 576 else 1088
    let size := 64 * w.units.toNat
    let a := f.a.val
    let i := Instr.chopen h w
    (f.a.kind = .tile → Raises i s f .tokenKind 0) ∧
    (f.a.kind = .scalar → ¬ reachable a.toNat 1 → Raises i s f .protection a) ∧
    (f.a.kind = .scalar → reachable a.toNat 1 → a.toNat % 65536 ≠ 0 → Raises i s f .align a) ∧
    (f.a.kind = .scalar → reachable a.toNat 1 → a.toNat % 65536 = 0 →
      (size < 256 + e → Raises i s f .operand 0) ∧
      (256 + e ≤ size → ¬ reachable a.toNat size → Raises i s f .protection a) ∧
      (∀ va, 256 + e ≤ size → reachable a.toNat size →
        (s.checkRange f.fr.ctx f.pe .chan a.toNat size = .prot va ∨ s.checkRange f.fr.ctx f.pe .chan a.toNat size = .refused va) →
        Raises i s f .protection (BitVec.ofNat 64 va)) ∧
      (∀ ks, 256 + e ≤ size → reachable a.toNat size → s.checkRange f.fr.ctx f.pe .chan a.toNat size = .ok ks →
        ((∃ r ∈ ks, ∃ q ∈ ks, chanDie r.1 ≠ chanDie q.1) → Raises i s f .operand 0) ∧
        (∀ ch n rest home c, ks = (ch, n) :: rest → (∀ r ∈ ks, chanDie r.1 = some home) → s.chan? ch = some c → c.state = .broken →
          Raises i s f .channelState a))))

/-- R299 to R302, R304, R322: what the controller does with elements and requests, in order. An element joins the ring with the next send sequence, and a
fixed channel that it takes to the off threshold, to XOFF; or it answers the request that waits. A request of a context that is not halted takes the oldest
element, which it is sent with 1, waits its turn, or is told that there is none with a null and 0. The oldest spilled element moves into the ring; a fixed
channel keeps its segments; a dynamic one drops the segment that this empties, unless later elements took places in it, and reserves another where the occupancy stands at the new threshold. -/
def Obligations.ChannelController : Prop :=
  (∀ (s : State) (n : Nat) (e : Env) (ch : Nat) (c : Chan), s.msg? n = some e → s.firstOn n e = true → s.chan? ch = some c → c.state = .opened →
    let answered := fun (t : State) (ds : List Dest) (r : RecvReq) (v : Tok) =>
      ∀ d ∈ ds, ∃ k m, t.net.get? k = some m ∧ m.dst = .pe d.pe ∧ m.body = .reply d v r.src
    (∀ el src tls, e.body = .element ch el src tls none → c.segs = [] → c.ring.length < c.nring →
      (c.reqs = [] → ∃ t d, exec (.channelElement n) s = .next t ∧ t.chan? ch = some d ∧ d.ring = c.ring ++ [el] ∧ d.sendSeq = c.sendSeq + 1 ∧
        (c.fixed = true → c.xoff = false → (d.xoff = true ↔ c.off ≤ c.ring.length + 1))) ∧
      (∀ r, c.reqs = [r] → c.ring = [] → s.reqLive r = true → c.tile = false → 0 < c.off →
        ∃ t d, exec (.channelElement n) s = .next t ∧ t.chan? ch = some d ∧ d.ring = [] ∧ d.reqs = [] ∧ d.sendSeq = c.sendSeq + 1 ∧
          answered t r.dests r (scalarTok el.val) ∧ answered t r.sdests r (scalarTok 1))) ∧
    (∀ r, e.body = .recvReq ch r → c.reqs = [] → s.reqLive r = true →
      (∀ el rest, c.ring = el :: rest → c.tile = false →
        ∃ t d, exec (.channelReceiveRequest n) s = .next t ∧ t.chan? ch = some d ∧ d.ring = rest ∧ d.reqs = [] ∧ d.recvSeq = c.recvSeq + 1 ∧
          answered t r.dests r (scalarTok el.val) ∧ answered t r.sdests r (scalarTok 1)) ∧
      (c.ring = [] → c.segs = [] → r.isTry = false →
        ∃ t d, exec (.channelReceiveRequest n) s = .next t ∧ t.chan? ch = some d ∧ d.reqs = [r] ∧ d.recvSeq = c.recvSeq + 1) ∧
      (c.ring = [] → c.segs = [] → r.isTry = true →
        ∃ t d, exec (.channelReceiveRequest n) s = .next t ∧ t.chan? ch = some d ∧ d.reqs = [] ∧ answered t r.dests r nullTok ∧
          answered t r.sdests r (scalarTok 0)))) ∧
  (∀ (s : State) (ch : Nat) (c : Chan), s.chan? ch = some c → c.state = .opened →
    ∀ el g rest, c.ring.length < c.nring → c.segs = (el :: g) :: rest → c.reqs = [] →
      ∃ t d, exec (.spillReadback ch) s = .next t ∧ t.chan? ch = some d ∧ d.ring = c.ring ++ [el] ∧
        (c.fixed = true → d.segs = g :: rest) ∧
        (c.fixed = false → let left := if g.isEmpty && decide ((rest.map List.length).sum ≤ elemsPerSegment c.tile c.width * rest.length) then rest else g :: rest
          d.segs = left ∨ (c.xoff = false ∧ d.segs = left ++ [[]])))

/-- R296, R298, R302, R319: binding, release, flow and close. A free slot of an open channel within reach binds the task under XON, and its parked
instruction is ready again; a taken one refuses, and the instruction raises CHANNEL_STATE; a release frees the task's slot, the reader's once no request
is unserved; XOFF and XON set the endpoint's state, and XON readies a parked CHSEND; a close from the bound writer's task, or from the opening context
with no writer bound, destroys the channel in mode 1, and in mode 0 closes it, or frees it where it holds no element and no reader. -/
def Obligations.ChannelMessages : Prop :=
  ∀ (s : State) (n : Nat) (e : Env) (ch : Nat) (c : Chan), s.msg? n = some e → s.firstOn n e = true → Tab.sorted s.chans = true →
    (∀ writer src x, e.body = .bind ch writer src → s.chan? ch = some c → c.state = .opened → s.ctx? src.ctx = some x → x.part = c.part →
      c.reaches src.pe = true →
      ((if writer then c.writer else c.reader) = none → ∃ t d, exec (.channelBindRequest n) s = .next t ∧ t.chan? ch = some d ∧
        (if writer then d.writer else d.reader) = some (src.pe, src.task, src.ctx) ∧
        (∀ p ∈ t.pe.endpoints, p.pe = src.pe → p.task = src.task → p.ch = ch → p.writer = writer → p.bound = true ∧ p.xoff = false) ∧
        ∀ k fr idx, s.frame? k = some fr → s.parkedOn (fun k f => k / 256 == src.pe && f.task == src.task) (.bind ch writer) = [(k, idx)] →
          ∃ g, t.frame? k = some g ∧ g.stat = fr.stat.del idx) ∧
      (∀ w, (if writer then c.writer else c.reader) = some w → w ≠ (src.pe, src.task, src.ctx) →
        ∀ k fr idx, s.frame? k = some fr → s.parkedOn (fun k f => k / 256 == src.pe && f.task == src.task) (.bind ch writer) = [(k, idx)] →
          ∃ t g, exec (.channelBindRequest n) s = .next t ∧ t.chan? ch = some c ∧ t.frame? k = some g ∧ g.stat = fr.stat.put idx .faulted ∧
            (fr.ctx = src.ctx → x.state = .running → t.recorded src.ctx .channelState idx))) ∧
    (∀ writer pe task x, e.body = .epRelease ch writer pe task → s.chan? ch = some c → c.state = .opened →
      (if writer then c.writer else c.reader) = some (pe, task, x) → (writer = false → c.reqs = []) →
      exec (.endpointRelease n) s =
        .next ((s.taken n).setChan ch (if writer then { c with writer := none } else { c with reader := none }))) ∧
    (∀ pe, e.body = .xoff ch pe → ∃ t, exec (.xoff n) s = .next t ∧ t.pe.endpoints = s.pe.endpoints.map fun p =>
      if p.pe = pe ∧ p.ch = ch ∧ p.writer = true then { p with xoff := true } else p) ∧
    (∀ pe, e.body = .xon ch pe → ∃ t, exec (.xon n) s = .next t ∧
      (t.pe.endpoints = s.pe.endpoints.map fun p => if p.pe = pe ∧ p.ch = ch ∧ p.writer = true then { p with xoff := false } else p) ∧
      ∀ k fr idx, s.frame? k = some fr → s.parkedOn (fun k _ => k / 256 == pe) (.xoff ch) = [(k, idx)] →
        ∃ g, t.frame? k = some g ∧ g.stat = fr.stat.del idx) ∧
    (∀ va mode src, e.body = .chClose ch va mode src → s.chan? ch = some c → c.state = .opened →
      (c.writer = some (src.pe, src.task, src.ctx) ∨ (c.writer = none ∧ c.opener = src.ctx)) → s.parkedSends ch = [] →
      (mode = 1 → ∃ t, exec (.channelCloseMessage n) s = .next t ∧ t.chan? ch = none) ∧
      (mode = 0 → ∀ el rest, c.ring = el :: rest → c.reqs = [] → ∃ t d, exec (.channelCloseMessage n) s = .next t ∧ t.chan? ch = some d ∧
        d.state = .closed ∧ d.ring = c.ring) ∧
      (mode = 0 → c.ring = [] → c.segs = [] → c.reqs = [] → c.reader = none →
        ∃ t, exec (.channelCloseMessage n) s = .next t ∧ t.chan? ch = none))

/-- R307 to R309: the quiescence monitor of a die. With no probation running it extends the candidate by a segment of the opening context's quota and
opens a probation window of the writer's context's SILWIN; where the quota has none it raises CHANNEL_DEADLOCK at the parked CHSEND; at the window's end a
context that was active in it ends the matter, and where neither was, CHANNEL_DEADLOCK is raised. -/
def Obligations.QuiescenceMonitor : Prop :=
  ∀ (s : State) (d ch : Nat) (c : Chan), s.chans = [(ch, c)] → c.die = d → c.remote = none →
    (c.probation = none → s.candidate d (ch, c) = true → s.deadlockByHost c.opener = false →
      (s.segmentLeft c.opener = true → ∃ t b, exec (.monitorExtend d) s = .next t ∧ t.chan? ch = some b ∧ b.segs = c.segs ++ [[]] ∧
        b.ext = min 255 (c.ext + 1) ∧ b.probation = some (s.sched.cycle, s.sched.cycle + s.silWin c.judged.1)) ∧
      (s.segmentLeft c.opener = false → ∀ k idx l fr x, s.parkedSends ch = (k, idx) :: l → s.frame? k = some fr → s.ctx? fr.ctx = some x →
        x.state = .running → ∃ t, exec (.monitorExtend d) s = .next t ∧ t.recorded fr.ctx .channelDeadlock idx)) ∧
    (∀ t0 t1, c.probation = some (t0, t1) → t1 ≤ s.sched.cycle →
      ((∃ x, (s.ctx? c.judged.1 = some x ∨ s.ctx? c.judged.2 = some x) ∧ t0 < x.lastActive) →
        exec (.probationExpiry d) s = .next (s.setChan ch { c with probation := none })) ∧
      ((∀ x, s.ctx? c.judged.1 = some x ∨ s.ctx? c.judged.2 = some x → x.lastActive ≤ t0) →
        ∀ k idx l fr x, s.parkedSends ch = (k, idx) :: l → s.frame? k = some fr → s.ctx? fr.ctx = some x → x.state = .running →
          ∃ t b, exec (.probationExpiry d) s = .next t ∧ t.recorded fr.ctx .channelDeadlock idx ∧ t.chan? ch = some b ∧ b.probation = none))

/-! ### Copies (R323 to R346) -/

/-- R323, R324, R332, R342 to R346, R77: the copy instructions. CPY, CPY1 and CPYR wait for what comes before them and, with the group they have read,
for a place in the unit; they then perform, take the next tlc number and reply with it, and the unit holds their copy, or, where it is empty and has no
Signal, its number completes. CPY1 raises PROTECTION where a span is not canonical. CPQPOST waits with its group for what comes before it, claims slots of
its queue where there is room, writes them and rings the doorbell, or sends 0. CPSTAT sends the state, the copies in flight and the bytes left, and raises
OPERAND for a number not taken yet. That CPYR's copy waits where its packet or its word says so is the model's choice (DEDUCED, assumption log 41), and so is that a
span of CPY1 which runs past address 2^64 − 1 raises PROTECTION (DESIGN CHOICE, assumption log 99). -/
def Obligations.CopyInstructions : Prop :=
  ∀ (s : State) (f : Firing) (h : Hdr), f.a.kind ≠ .tile →
    let a := f.a.val.toNat
    let b := f.b.val.toNat
    let u := f.performs s
    let k := (u.pctx f.fr.ctx f.pe).tlc.taken + 1
    let v := (u.takeNumber f.fr.ctx f.pe .tlc).1
    let copy := fun (p : Packet) (r : Option RingRoute) => ({
      src := f.src, poster := f.poster s, queue := none, qslot := 0, packet := p, route := r, tlc := some k, phase := .accepted, buf := [], beat := 0
      head := none, aborted := false } : Copy)
    let posts := fun (i : Instr) (p : Packet) (r : Option RingRoute) (read : List Byte) => Fires i s f →
      let nothing := (p.len0 = 0 ∨ ∃ d ∈ p.dims, d.1 = 0) ∧ p.signal = 0
      (s.before f.src 0xFF = false → s.copiesOn f.pe < 512 → ¬ nothing →
        Gives i s f (f.replyBoth (State.bump { v with copies := v.copies.put v.sched.serial (copy p r) }) (.pe f.pe) (scalarTok (BitVec.ofNat 64 k)))
          (f.handles i) none none) ∧
      (s.before f.src 0xFF = false → s.copiesOn f.pe < 512 → nothing →
        Gives i s f (f.replyBoth (v.completeNumber f.fr.ctx f.pe .tlc k) (.pe f.pe) (scalarTok (BitVec.ofNat 64 k))) (f.handles i) none none) ∧
      (s.before f.src 0xFF = true → Waits i s f .before) ∧
      (s.before f.src 0xFF = false → 512 ≤ s.copiesOn f.pe → exec i s = .next (s.holdAt f .space read))
    (∀ p l, a % 64 = 0 → f.readGroup s a = .ok (p, l) → posts (.cpy h) p none l) ∧
    (∀ (w : Cpy1W), f.b.kind ≠ .tile →
      (w.len.toNat = 0 ∨ (reachable a w.len.toNat ∧ reachable b w.len.toNat) →
        posts (.cpy1 h w) { source := a, dest := b, len0 := w.len.toNat, dims := [(1, 0, 0)], signal := 0, wait := w.wait, ext := 0 } none []) ∧
      (0 < w.len.toNat → ¬ reachable a w.len.toNat → Fires (.cpy1 h w) s f → Raises (.cpy1 h w) s f .protection f.a.val) ∧
      (0 < w.len.toNat → reachable a w.len.toNat → ¬ reachable b w.len.toNat → Fires (.cpy1 h w) s f →
        Raises (.cpy1 h w) s f .protection f.b.val)) ∧
    (∀ p l (w : CpyrW), f.b.kind ≠ .tile → a % 64 = 0 → f.readGroup s a = .ok (p, l) → b < 2 ^ 43 → p.dest = 0 →
      p.bytes = (w.count.toNat + 1) * 256 * 2 ^ w.width.toNat →
      posts (.cpyr h w) { p with wait := p.wait || w.wait }
        (some { pe := b / 2 ^ 32, ring := w.ring.toNat, first := b % 2 ^ 32, count := w.count.toNat + 1, rows := w.rows.toNat, cols := w.cols.toNat
                width := w.width.toNat }) l) ∧
    (∀ qi q p l (quad : Nat), f.b.kind ≠ .tile → a % 64 = 0 → b % 64 = 0 → s.queueAt f.fr.ctx a = some (qi, q) → f.readGroup s b = .ok (p, l) →
      homeQuad q.headerPa = some quad → f.entryFree f.h.t1 = true → Fires (.cpqpost h) s f →
      (s.before f.src 0xFF = true → exec (.cpqpost h) s = .next (s.holdAt f .before l)) ∧ (s.before f.src 0xFF = false →
      let w := s.read64 q.headerPa
      let m := 1 + p.ext
      let n := if f.h.t0 = .none then 0 else 1
      let reply := fun (t : State) => (t.expect f.key n).reply (.quad quad) 1 (f.destsTo [f.h.t0]) (scalarTok (BitVec.ofNat 64 w)) f.src
      (w + m ≤ s.read64 (q.headerPa + 8) + q.slots →
        let t := (List.range m).foldl (fun t i => t.writeBytes (q.slotPa (w + i)) ((l.drop (64 * i)).take 64)) (u.write64 q.headerPa (w + m))
        Gives (.cpqpost h) s f (reply (t.postFor f.fr.ctx (.pe f.pe) .io 0 (.devWrite (0x03000000 + 64 * qi) (leBytes 8 (w + m)) none none))) (f.handles (.cpqpost h))
          none (some (scalarTok 1))) ∧
      (s.read64 (q.headerPa + 8) + q.slots < w + m → Gives (.cpqpost h) s f (reply u) (f.handles (.cpqpost h)) none (some (scalarTok 0))))) ∧
    (Fires (.cpstat h) s f →
      let t := (s.pctx f.fr.ctx f.pe).tlc
      let mine := s.copies.filter fun p => p.2.src.ctx == f.fr.ctx && p.2.src.pe == f.pe
      (t.taken < a → Raises (.cpstat h) s f .operand 0) ∧
      (a ≤ t.taken → f.clear = true → (∀ p ∈ mine, p.2.tlc = some a → p.2.aborted = true) →
        GivesScalar (.cpstat h) s f s (f.handles (.cpstat h)) (BitVec.ofNat 64 (mine.length * 2 ^ 48))) ∧
      (∀ n (c : Copy), a ≤ t.taken → f.clear = true → mine.find? (fun p => p.2.tlc == some a && !p.2.aborted) = some (n, c) →
        let st := if c.phase = .accepted then 1 else if s.copyParked n c then 3 else 2
        GivesScalar (.cpstat h) s f s (f.handles (.cpstat h))
          (BitVec.ofNat 64 (st * 2 ^ 62 + mine.length * 2 ^ 48 + min (s.copyLeft n c) (2 ^ 48 - 1)))))

/-- R324, R327, R332 to R339, R470: the copy unit. A copy starts in its order, reads every piece of its source, and writes one piece to each granule of its
destination, which holds all and only the bytes of its walk, or asks its ring for its head; one with Wait does not start before an earlier one of its
poster has completed. With nothing left to do it completes its number or is counted by its queue, or asks for its Signal add first. The beats that have
their bytes go to a ring while it has room. A doorbell keeps the largest value, and the sound group it exposes, with something to do, is accepted. A write
that sets Valid in a registration registers a queue whose header is sound, and none else, and only for a context of the writer's partition; one that clears it unregisters a queue with no copy in flight; one to
reserved bytes alone does nothing (R6). Each such write then ends the access that made it (R247). That a registration whose header is unsound is ignored is the
model's choice (DESIGN CHOICE, assumption log 26). -/
def Obligations.CopyEvents : Prop :=
  (∀ (s : State) (n : Nat) (k : Copy), s.copies.get? n = some k →
    (k.phase = .accepted → s.copyLive k = true → (∀ p ∈ s.copies, p.1 < n → k.packet.wait = true → p.2.samePoster k = false) →
      (∀ p ∈ s.copies, p.1 < n → k.packet.wait = false → p.2.src.pe = k.src.pe → p.2.phase = .accepted → p.2.packet.wait = false → s.copyLive p.2 = false) →
      ∃ t c, exec (.copyStart n) s = .next t ∧ t.copies.get? n = some c ∧ c.phase = .running ∧ c.packet = k.packet ∧
        (∀ g ∈ k.packet.readPieces, ∃ m x, t.mem.accesses.get? m = some x ∧ x.purpose = .copyRead n ∧ x.cells = g ∧ x.write = false ∧ x.src = k.src) ∧
        (k.route = none → ∀ g ∈ (s.writePieces k.packet).2,
          ∃ m x, t.mem.accesses.get? m = some x ∧ x.purpose = .copyWrite n ∧ x.write = true ∧ x.src = k.src ∧
            x.cells.map Prod.fst = g.map Prod.fst) ∧
        ∀ r, k.route = some r → ∃ m e d, t.net.get? m = some e ∧ e.body = .headUpdate n (s.ring r.pe r.ring).head d) ∧
    (∀ m q, m < n → s.copies.get? m = some q → k.packet.wait = true → q.queue = k.queue → q.poster = k.poster →
      exec (.copyStart n) s = .fault (.notEnabled "COPY_START"))) ∧
  (∀ (s : State) (p : Packet),
    let w := (s.writePieces p).2
    (w.flatten.map Prod.fst).Nodup ∧ (∀ g ∈ w, ∃ n, ∀ c ∈ g, c.1 / 64 = n) ∧
      w.Pairwise (fun g g' => ∀ c ∈ g, ∀ c' ∈ g', c.1 / 64 ≠ c'.1 / 64) ∧
      (∀ c ∈ w.flatten, ∃ r : Nat, ∃ b : Int × Int, ∃ o : Nat, p.runs[r]? = some b ∧ o < p.len0 ∧ c.1 = (b.2 + Int.ofNat o).toNat ∧ c.2 = r * p.len0 + o) ∧
      ∀ (r : Nat) (b : Int × Int) (o : Nat), p.runs[r]? = some b → o < p.len0 → ∃ i, ((b.2 + Int.ofNat o).toNat, i) ∈ w.flatten) ∧
  (∀ (s : State) (n : Nat) (k : Copy), s.copies.get? n = some k → k.phase = .running → s.copyBusy n = false → s.packetsOut n = false →
    (k.aborted = true ∨ k.route = none ∨ k.packet.bytes ≤ 64 * k.beat) →
    let t : State := { s with copies := s.copies.del n }
    (k.aborted = true ∨ k.packet.signal = 0 →
      (∀ m, k.tlc = some m → k.queue = none →
        exec (.copyComplete n) s = .next ((t.completeNumber k.src.ctx k.src.pe .tlc m).servePe k.src.pe)) ∧
      (∀ qi q, k.tlc = none → k.queue = some qi → s.dev.queues.get? qi = some q →
        exec (.copyComplete n) s =
          .next (((t.write64 (q.headerPa + 16) ((t.read64 (q.headerPa + 16) + 1) % 2 ^ 64)).dropQueue qi).servePe k.src.pe))) ∧
    (∀ pa attr refused quad, k.aborted = false → k.packet.signal ≠ 0 → reachable k.packet.signal 8 →
      s.check1 k.src.ctx [k.src.pe, 2048 + k.src.pe / 256] .atomic k.packet.signal = .ok pa attr refused → homeQuad pa = some quad →
      ∃ t c m r, exec (.copyComplete n) s = .next t ∧ t.copies.get? n = some c ∧ c.phase = .signalling ∧ t.sync.reqs.get? m = some r ∧ r.pa = pa ∧
        r.size = 8 ∧ r.op = .add ∧ r.b = 1 ∧ r.purpose = .signal n)) ∧
  (∀ (s : State) (n c head depth : Nat) (e : Env) (k : Copy) (r : RingRoute), s.msg? n = some e → s.first n e = true → e.body = .headUpdate c head depth →
    s.copies.get? c = some k → k.route = some r → k.aborted = false → r.rows < 16 →
    r.cols < 16 → r.width < 3 →
    let seq := fun (b : Nat) => (r.first + b / (4 * 2 ^ r.width)) % 2 ^ 32
    ∃ t j, exec (.ringHeadUpdate n) s = .next t ∧ t.copies.get? c = some j ∧ j.head = some (head, depth) ∧ k.beat ≤ j.beat ∧
      (k.packet.bytes ≤ 64 * j.beat ∨ depth ≤ (seq j.beat + 2 ^ 32 - head % 2 ^ 32) % 2 ^ 32 ∨
        t.copyReading c (fun i => i / 64 == j.beat) = true) ∧
      ∀ b, k.beat ≤ b → b < j.beat → (seq b + 2 ^ 32 - head % 2 ^ 32) % 2 ^ 32 < depth ∧
        ∃ m g raw, t.net.get? m = some g ∧ g.dst = .pe r.pe ∧ g.body = .packet raw ((k.buf.drop (64 * b)).take 64) c ∧
          rawField raw 32 32 = seq b) ∧
  (∀ (s : State) (n qi : Nat) (e : Env) (data : List Byte) (part : Option Nat) (acc : Option (Nat × Nat)) (q : CopyQueue), s.msg? n = some e → s.first n e = true → qi < 32768 →
    e.body = .devWrite (0x03000000 + 64 * qi) data part acc → s.dev.queues.get? qi = some q →
    let door := max q.door (leNat data)
    let at_ := s.read64 (q.headerPa + 8)
    let b := s.readBytes (q.slotPa at_) 64
    let t := (s.taken n).ringDoorbell (0x03000000 + 64 * qi) data
    exec (.copyQueueDoorbell n) s = .next (t.performed acc) ∧ t.dev.queues.get? qi = some { q with door := door } ∧
      (q.valid = true → s.issuing q.ctx = true → at_ < door → fieldAt b 63 1 = 1 → fieldAt b 62 1 = 0 → s.poisoned (q.slotPa at_) = false →
        s.copiesOn q.pe < 512 → 0 < q.slots → ∀ p, packetOf b = some p → ¬ ((p.len0 = 0 ∨ ∃ d ∈ p.dims, d.1 = 0) ∧ p.signal = 0) →
        ∃ m c, t.copies.get? m = some c ∧ c.packet = p ∧ c.queue = some qi ∧ c.tlc = none ∧ c.phase = .accepted ∧ c.src.ctx = q.ctx ∧ c.src.pe = q.pe)) ∧
  (∀ (s : State) (n off : Nat) (data : List Byte) (part : Option Nat) (acc : Option (Nat × Nat)), s.devMsg n = some (off, data, part, acc) →
    devKind off = .registration → s.frozenBy off = none →
    let qi := (off - 0x02000000) / 32
    let u := s.taken n
    let v := u.devPut off data
    let c := v.devNat (0x02000000 + 32 * qi + 8) 2
    let ends := fun (t : State) => exec (.copyQueueRegistration n) s = .next (t.performed acc)
    (11 ≤ off % 32 → ends u) ∧
    (off % 32 < 11 → v.regValid qi = true → (∀ x, v.ctx? c = some x → x.part ≠ part.getD 0) → ends u) ∧
    (off % 32 < 11 → v.regValid qi = true → ∀ x, v.ctx? c = some x → x.part = part.getD 0 →
      (∀ q, v.newQueue qi c (v.devNat (0x02000000 + 32 * qi) 8) = some q →
        ends { v with dev := { v.dev with queues := v.dev.queues.put qi q } }) ∧
      (v.newQueue qi c (v.devNat (0x02000000 + 32 * qi) 8) = none → ends u)) ∧
    (off % 32 < 11 → v.regValid qi = false → ∀ q, v.dev.queues.get? qi = some q → (∀ p ∈ s.copies, p.2.queue ≠ some qi) →
      ends { v with dev := { v.dev with queues := (v.dev.queues.put qi { q with valid := false }).del qi } }))

/-! ### Tasks, joins, futures and queues (R347 to R385, R403 to R405, R483) -/

/-- R349, R361, R366, R373, R379 to R385: the task instructions. SPAWN places its record, its first argument b, in the quad queue its placement gives, and
replies 1; SPAWND submits it with its ranges to the task unit of the die; each waits, with what it has read, for what comes before it and for a place, and
reads nothing again; JNEW, JDEC and FNEW send 0 and are held for the commit; the operations on futures,
deques and work queues leave for their object's home and are parked until it answers; YIELD sends 0; TOKEN_KIND, PROTECTION, ALIGN and OPERAND are
raised as the rules say, and for a record of SPAWN or SPAWND ALIGN before PROTECTION. An object that runs past address 2^64 − 1 is out of range, PROTECTION:
that is the model's choice (DESIGN CHOICE, assumption log 99). -/
def Obligations.TaskInstructions : Prop :=
  ∀ (s : State) (f : Firing) (h : Hdr),
    let a := f.a.val.toNat
    let b := f.b.val.toNat
    let go := s.before f.src 0xFF = false
    let performed := fun (u : State) => f.performs u
    let parks := fun (i : Instr) (u : State) (dst : Agent) (cls : Nat) (m : Msg) =>
      exec i s = .next (((u.expect f.key f.fan).post (.pe f.pe) dst cls m).retire f (f.handles i) (.parked (.home s.sched.serial)) none none)
    (f.a.kind ≠ .tile → f.b.kind ≠ .tile → ∀ (x : SpawnX) l r, recOfBytes (l.take 64) = some r →
      let got := fun (read : Except Stop (List Byte)) =>
        f.fr.fetched.get? f.idx = some l ∨ (f.fr.fetched.get? f.idx = none ∧ read = .ok l)
      let r1 : Rec := { r with prio := x.prio.toNat, place := x.place.toNat }
      let q := s.placeQuad f.x x.place.toNat (quadOfPe f.pe)
      (Fires (.spawn h x) s f → got (f.fetchObject s f.a 64) →
        (go → s.queueRoom q x.prio.toNat = true →
          Gives (.spawn h x) s f (f.replyBoth ((performed s.drawn).putRecord f.fr.ctx { r1 with args := setAt 0 f.b.val r1.args } q
            (if x.place = 0 then some f.pe else none) none) (.quad q) (scalarTok 1)) (f.handles (.spawn h x)) none none) ∧
        (go → s.queueRoom q x.prio.toNat = false → exec (.spawn h x) s = .next (s.holdAt f .space l)) ∧
        (s.before f.src 0xFF = true → exec (.spawn h x) s = .next (s.holdAt f .before l)) ∧
        (x.place.toNat ≤ 1 → f.x.onDie (f.pe / 256) = true → q = quadOfPe f.pe)) ∧
      (∀ reads writes, Fires (.spawnd h x) s f →
        (f.fr.fetched.get? f.idx = some l ∨ (f.fr.fetched.get? f.idx = none ∧ ∃ rec_ head d, l = rec_ ++ d ∧ rec_.length = 64 ∧
          f.fetchObject s f.a 64 = .ok rec_ ∧ f.fetchObject s f.b 16 = .ok head ∧
          f.fetchObject s f.b (16 + 16 * (min 8 (fieldAt head 0 1) + min 8 (fieldAt head 1 1))) = .ok d)) →
        descRanges (l.drop 64) r.regs = some (reads, writes) →
        (s.before f.src 0xFF = true → exec (.spawnd h x) s = .next (s.holdAt f .before l)) ∧
        (go → 8192 ≤ s.depsTaken (f.pe / 256) → exec (.spawnd h x) s = .next (s.holdAt f .space l)) ∧
        (go → s.depsTaken (f.pe / 256) < 8192 → parks (.spawnd h x) s (.die (f.pe / 256)) 5 (.depSubmit (f.pe / 256)
          { ctx := f.fr.ctx, order := 0, reads := reads, writes := writes, record := r1, place := x.place.toNat, pe := f.pe, waits := [], renames := []
            released := false, ended := false } f.src f.dests)))) ∧
    (f.a.kind ≠ .tile → ∀ ks, f.clear = true →
      (f.b.kind ≠ .tile → f.object s f.a 128 .object 1 = .ok ks →
        (Fires (.jnew h) s f → 1 ≤ b → b < 2 ^ 32 → GivesScalar (.jnew h) s f (s.hold f.key (.jnew a ks b f.src)) (f.handles (.jnew h)) 0) ∧
        (Fires (.jnew h) s f → (b = 0 ∨ 2 ^ 32 ≤ b) → Raises (.jnew h) s f .operand 0)) ∧
      (f.object s f.a 128 .object 1 = .ok ks →
        Fires (.jdec h) s f → GivesScalar (.jdec h) s f (s.hold f.key (.jdec a ks f.src)) (f.handles (.jdec h)) 0) ∧
      (f.object s f.a 512 .object 1 = .ok ks →
        Fires (.fnew h) s f → GivesScalar (.fnew h) s f (s.hold f.key (.fnew a ks f.src)) (f.handles (.fnew h)) 0)) ∧
    (f.a.kind ≠ .tile → ∀ ks ns, f.object s f.a 512 .object 1 = .ok ks →
      let home := engineAgent (runAt ks 0)
      (Fires (.fres h) s f → f.b.kind ≠ .tile → b < 2 ^ 56 → go → parks (.fres h) (performed s) home 7 (.future a ks (.fres b) f.dests [] f.src)) ∧
      (Fires (.fres h) s f → f.b.kind ≠ .tile → 2 ^ 56 ≤ b → Raises (.fres h) s f .operand 0) ∧
      (Fires (.freg h) s f → f.b.kind ≠ .tile → f.object s f.b 128 .object 1 = .ok ns →
        parks (.freg h) (performed s) home 7 (.future a ks (.freg b (runAt ns 0)) f.dests [] f.src))) ∧
    (f.a.kind ≠ .tile → ∀ ks, f.object s f.a 512 .normalRead 0 = .ok ks → Fires (.fget h) s f →
      exec (.fget h) s = .next (((s.expect f.key f.fan).post (.pe f.pe) (engineAgent (runAt ks 0)) 7
        (.future a ks .fget (f.destsTo [f.h.t0]) (f.destsTo [f.h.t1]) f.src)).modFrame f.key fun fr =>
          { fr with stat := fr.stat.put f.idx (.parked (.home s.sched.serial)) })) ∧
    (f.a.kind ≠ .tile → ∀ ks, f.object s f.a 64 .object 1 = .ok ks →
      let pa := runAt ks 0
      let owner := homeQuad pa = some (quadOfPe f.pe) ∧ pa < 2 ^ 52
      let send := fun (i : Instr) (m : Msg) => parks i (performed s) (engineAgent pa) 7 m
      let dq := fun (op : QueOp) => Msg.deque a pa op (f.destsTo [f.h.t0]) (f.destsTo [f.h.t1]) f.src
      let wq := fun (op : QueOp) => Msg.wqueue a pa op (f.destsTo [f.h.t0]) (f.destsTo [f.h.t1]) f.src
      (Fires (.dqpush h) s f → f.b.kind ≠ .tile → (owner → go → send (.dqpush h) (dq (.push f.b.val))) ∧
        (¬ owner → Raises (.dqpush h) s f .operand 0)) ∧
      (Fires (.dqpop h) s f → (owner → send (.dqpop h) (dq .pop)) ∧ (¬ owner → Raises (.dqpop h) s f .operand 0)) ∧
      (Fires (.dqsteal h) s f → send (.dqsteal h) (dq .steal)) ∧
      (Fires (.wqput h) s f → f.b.kind ≠ .tile → go → send (.wqput h) (wq (.push f.b.val))) ∧
      (Fires (.wqget h) s f → send (.wqget h) (wq .steal))) ∧
    (Fires (.yield_ h) s f → f.clear = true →
      GivesScalar (.yield_ h) s f (s.modTask f.pe f.fr.task fun t => { t with yielded := true }) (f.handles (.yield_ h)) 0) ∧
    (∀ (x : SpawnX), ∀ p ∈ [(Instr.jnew h, 128), (.jdec h, 128), (.fnew h, 512), (.fres h, 512), (.freg h, 512), (.fget h, 512), (.dqpush h, 64), (.dqpop h, 64),
        (.dqsteal h, 64), (.wqput h, 64), (.wqget h, 64), (.spawn h x, 64), (.spawnd h x, 64)], Fires p.1 s f →
      let record := p.1 = .spawn h x ∨ p.1 = .spawnd h x
      (record → f.fr.fetched.get? f.idx = none) →
      (f.a.kind = .tile → Raises p.1 s f .tokenKind 0) ∧
      (f.a.kind ≠ .tile → (.b ∈ p.1.data → f.b.kind ≠ .tile) → ¬ reachable a p.2 → (record → a % 64 = 0) → Raises p.1 s f .protection f.a.val) ∧
      (f.a.kind ≠ .tile → (.b ∈ p.1.data → f.b.kind ≠ .tile) → reachable a p.2 ∨ record → a % 64 ≠ 0 → Raises p.1 s f .align f.a.val))

/-- R351, R353, R355, R370, R371, R373, R374, R476: what homes do with the messages that reach them in their order, after what their task did before on stream 0
there. A join counts down, keeps the first code and releases its record with it; a future's word takes the value of each operation, and its waiters are
released with it; a deque and a work queue push, pop and steal in order, fail when full or empty, and answer; what an object forbids is reported at the
instruction. In one cycle a deque takes pushes before pops and pops before steals, and of one kind the home quad's PEs in rotation after the last winner; it
takes none out of turn. What lies beyond a JX window that refuses it raises PROTECTION as the request reaches it (R476). -/
def Obligations.ObjectHomes : Prop :=
  ∀ (s : State) (n : Nat) (e : Env) (src : Src), s.msg? n = some e → s.firstOf n e src = true →
    let u := s.taken n
    let sees := fun (runs : List (Nat × Nat)) => ∀ r ∈ runs, isRefused r.1 = false
    (∀ va runs new code, e.body = .join va runs new code src → s.objectReady n src (runAt runs 64) = true → ¬ sees runs →
      exec (.joinDecrement n) s = .next (u.raiseHome src { code := .protection, detail := BitVec.ofNat 64 va })) ∧
    (∀ va runs op ds sds, e.body = .future va runs op ds sds src → ¬ sees runs → (∃ v, op = .fres v) ∨ (∃ v pa, op = .freg v pa) →
      exec (.futureOperation n) s = .next (u.homeFault (engineAgent (runAt runs 0)) ds src { code := .protection, detail := BitVec.ofNat 64 va })) ∧
    (∀ va runs nva pa ds sds, e.body = .future va runs (.freg nva pa) ds sds src → sees runs → isRefused pa = true →
      exec (.futureOperation n) s = .next (u.homeFault (engineAgent (runAt runs 0)) ds src { code := .protection, detail := BitVec.ofNat 64 nva })) ∧
    (∀ va runs code, e.body = .poison va runs code src → ¬ sees runs →
      exec (.futurePoison n) s = .next (u.raiseHome src { code := .protection, detail := BitVec.ofNat 64 va })) ∧
    (∀ va runs code, e.body = .join va runs none code src → s.objectReady n src (runAt runs 64) = true → sees runs → u.objPoison runs 64 64 = none →
      let w := leNat (u.objBytes runs 64 8)
      let left := w % 2 ^ 32 - 1
      let c := if w / 2 ^ 56 = 0 then code else w / 2 ^ 56
      let v := u.objPut runs 64 (leBytes 8 (left + c * 2 ^ 56))
      (w / 2 ^ 32 % 2 ^ 24 = 0 → 2 ≤ w % 2 ^ 32 → exec (.joinDecrement n) s = .next v) ∧
      (w / 2 ^ 32 % 2 ^ 24 = 0 → w % 2 ^ 32 = 1 → u.objPoison runs 0 64 = none →
        exec (.joinDecrement n) s = .next (v.hwEnqueueBytes (leNat (u.objBytes runs 72 8)) (u.objBytes runs 0 64) va (engineQuad (runAt runs 64)) false
          (some (BitVec.ofNat 64 c)))) ∧
      (w / 2 ^ 32 % 2 ^ 24 = 0 → w % 2 ^ 32 = 0 → exec (.joinDecrement n) s =
        .next (u.raiseHome src { code := .joinUnderflow, detail := BitVec.ofNat 64 va })) ∧
      (w / 2 ^ 32 % 2 ^ 24 ≠ 0 → exec (.joinDecrement n) s = .next (u.raiseHome src { code := .operand }))) ∧
    (∀ va runs k code, e.body = .join va runs (some k) code src → s.objectReady n src (runAt runs 64) = true → sees runs → u.objPoison runs 64 64 = none →
      (leNat (u.objBytes runs 64 8) % 2 ^ 32 = 0 →
        exec (.joinDecrement n) s = .next (u.objPut runs 64 (leBytes 8 k ++ leBytes 8 src.ctx)).sweepHolds) ∧
      (leNat (u.objBytes runs 64 8) % 2 ^ 32 ≠ 0 → exec (.joinDecrement n) s = .next (u.raiseHome src { code := .operand }))) ∧
    (∀ va runs op ds sds, e.body = .future va runs op ds sds src → sees runs → u.objPoison runs 0 64 = none →
      let w := leNat (u.objBytes runs 0 8)
      let st := w / 2 ^ 62 % 4
      let k := w / 2 ^ 56 % 64
      let set := fun (t : State) (off v : Nat) => t.objPut runs off (leBytes 8 v)
      let from_ := engineAgent (runAt runs 0)
      let both := fun (t : State) (v : Word) => (t.answered src).reply from_ 1 ds (scalarTok v) src
      let does := fun (t : State) => exec (.futureOperation n) s = .next t
      ((st = 1 ↔ k ≠ 0) →
        (op = .fnew → s.objectReady n src (runAt runs 0) = true → st ≠ 1 → does (set u 0 0).sweepHolds) ∧
        (op = .fget → does ((both u (BitVec.ofNat 64 w)).reply from_ 1 sds (scalarTok (if 2 ≤ st then 1 else 0)) src)) ∧
        (∀ v, op = .fres v → st = 0 → does (set (both u 1) 0 (2 ^ 63 + v))) ∧
        (∀ v, op = .fres v → 2 ≤ st → does (u.homeFault from_ ds src { code := .doubleResolve, detail := BitVec.ofNat 64 va })) ∧
        (∀ v, op = .fres v → st = 1 → u.releasePoison runs w = none → does (((both u 1).waiters runs w).foldl
          (fun t pa => t.enqueueNode (engineQuad (runAt runs 0)) (BitVec.ofNat 64 (2 ^ 63 + v)) (t.read64 (pa + 72)) pa) (set (both u 1) 0 (2 ^ 63 + v)))) ∧
        (∀ va' pa, op = .freg va' pa → isRefused pa = false → 2 ≤ st → u.rangePoisoned pa 64 = false →
          does ((both u (BitVec.ofNat 64 w)).hwEnqueueBytes src.ctx (u.readBytes pa 64) va' (engineQuad (runAt runs 0)) false (some (BitVec.ofNat 64 w)))) ∧
        (∀ va' pa, op = .freg va' pa → isRefused pa = false → st < 2 → u.slotPoison runs w = none → u.rangePoisoned (pa + 64) 64 = false →
          let x := u.writeBytes (pa + 72) (leBytes 8 src.ctx)
          (st = 0 → does (both (set (set x 8 pa) 0 (2 ^ 62 + 2 ^ 56)) (BitVec.ofNat 64 w))) ∧
          (st = 1 → k < 63 → does (both (set (set x (8 + 8 * k) pa) 0 (w + 2 ^ 56)) (BitVec.ofNat 64 w))) ∧
          (st = 1 → k = 63 → does (both (set (x.writeBytes (pa + 64) (leBytes 8 (w % 2 ^ 56))) 0 (w - w % 2 ^ 56 + pa % 2 ^ 56)) (BitVec.ofNat 64 w))))) ∧
      (¬ (st = 1 ↔ k ≠ 0) → (∃ v, op = .fres v) → does (u.homeFault from_ ds src { code := .futureState, detail := BitVec.ofNat 64 va }))) ∧
    (∀ va runs code, e.body = .poison va runs code src → sees runs → u.objPoison runs 0 64 = none →
      let w := leNat (u.objBytes runs 0 8)
      (w / 2 ^ 62 % 4 = 0 → w / 2 ^ 56 % 64 = 0 → exec (.futurePoison n) s = .next (u.objPut runs 0 (leBytes 8 (2 ^ 63 + 2 ^ 62 + code)))) ∧
      (w / 2 ^ 62 % 4 = 1 → w / 2 ^ 56 % 64 ≠ 0 → u.releasePoison runs w = none →
        exec (.futurePoison n) s = .next ((u.waiters runs w).foldl
          (fun t pa => t.enqueueNode (engineQuad (runAt runs 0)) (BitVec.ofNat 64 (2 ^ 63 + 2 ^ 62 + code)) (t.read64 (pa + 72)) pa)
          (u.objPut runs 0 (leBytes 8 (2 ^ 63 + 2 ^ 62 + code))))) ∧
      (2 ≤ w / 2 ^ 62 % 4 → w / 2 ^ 56 % 64 = 0 → exec (.futurePoison n) s = .next u)) ∧
    (∀ va pa op ds sds,
      let last := s.task.dqLast.get? pa
      let turn := DqTurn.next last pa src.pe op s.sched.cycle
      let kind := match op with | .push _ => 0 | .pop => 1 | .steal => 2
      let quad := pesOfQuad (quadOfPe src.pe)
      (turn.rank / 16 = kind ∧ (homeQuad pa = some (quadOfPe src.pe) → pa < 2 ^ 52 → ∀ l w, last = some l → l.cycle ≠ s.sched.cycle → l.winner = some w →
        turn.rank = kind * 16 + (quad.drop (quad.idxOf w + 1) ++ quad.take (quad.idxOf w + 1)).idxOf src.pe)) ∧
      (∀ l, e.body = .deque va pa op ds sds src → last = some l → l.cycle = s.sched.cycle → turn.rank < l.rank →
        exec (.dequeOperation n) s = .fault (.notEnabled "DEQUE_OPERATION")) ∧
      let ranked : State := { u with task := { u.task with dqLast := u.task.dqLast.put pa turn } }
      ∀ p ∈ [(Instr.dequeOperation n, Msg.deque va pa op ds sds src, ranked), (.workQueueOperation n, .wqueue va pa op ds sds src, u)],
        e.body = p.2.1 → (p.1 = .dequeOperation n → ∀ l, last = some l → l.cycle = s.sched.cycle → l.rank ≤ turn.rank) →
        let v := p.2.2
        let lo := fieldAt (v.readBytes pa 64) 0 8
        let hi := fieldAt (v.readBytes pa 64) 8 8
        let cap := fieldAt (v.readBytes pa 64) 16 4
        let count := (hi + 2 ^ 64 - lo) % 2 ^ 64
        let does := fun (t : State) (r : Tok) (ok : Word) =>
          exec p.1 s = .next (((t.answered src).reply e.dst 1 ds r src).reply e.dst 1 sds (scalarTok ok) src)
        (isRefused pa = true → exec p.1 s = .next (v.homeFault e.dst (ds ++ sds) src { code := .protection, detail := BitVec.ofNat 64 va })) ∧
        (isRefused pa = false → v.poisoned pa = false →
        (fieldAt (v.readBytes pa 64) 20 44 = 0 → 16 ≤ cap → cap ≤ 2 ^ 20 → (∃ k, cap = 2 ^ k) → count ≤ cap →
          (∀ w, op = .push w → count = cap → does v (scalarTok w) 0) ∧
          (∀ w key, op = .push w → count < cap → v.entryAt src.ctx va hi cap = .ok key →
            does ((v.write64 key w.toNat).write64 (pa + 8) ((hi + 1) % 2 ^ 64)) nullTok 1) ∧
          (op = .pop ∨ op = .steal → count = 0 → does v nullTok 0) ∧
          (∀ key, op = .pop → 0 < count → v.entryAt src.ctx va ((hi + 2 ^ 64 - 1) % 2 ^ 64) cap = .ok key →
            does (v.write64 (pa + 8) ((hi + 2 ^ 64 - 1) % 2 ^ 64)) (scalarTok (BitVec.ofNat 64 (v.read64 key))) 1) ∧
          (∀ key, op = .steal → 0 < count → v.entryAt src.ctx va lo cap = .ok key →
            does (v.write64 pa ((lo + 1) % 2 ^ 64)) (scalarTok (BitVec.ofNat 64 (v.read64 key))) 1)) ∧
        (cap < 16 ∨ 2 ^ 20 < cap ∨ cap < count → exec p.1 s = .next (v.homeFault e.dst (ds ++ sds) src { code := .operand }))))

/-- R356, R357, R359, R363, R364, R366, R367, R403, R404: tasks in the quads. A pop takes, of the eligible records, the oldest of the highest priority
and starts its task as the rules say; a task that has ended releases what it holds, sends its decrement and frees its slot; dependences hold back
entries that meet earlier ones; costs are reported, idle quads are gated and woken. The victim of a blocked record is a task of fewer priority tokens on a
PE the record is eligible on, the fewest first and then the one popped last, and the first row of R404 that applies acts on it. That a die reports its cost at
each cycle that is 0 modulo 64 is the model's choice (DEDUCED, assumption log 45), and so is a 0 in each register that a record starts no value in (DESIGN CHOICE, assumption log 1). -/
def Obligations.TaskScheduling : Prop :=
  (∀ (s : State) (l : List QEntry) (e : QEntry), s.firstRecord l = some e →
    let rank := fun (e : QEntry) => (if s.isUrgent e.ctx then 0 else 4) + (3 - e.record.prio)
    ∃ p q, l = p ++ e :: q ∧ (∀ x ∈ p, rank e < rank x) ∧ ∀ x ∈ q, rank e ≤ rank x) ∧
  (∀ (s : State) (pe : Nat) (slot : Option Nat) (e : QEntry), s.mayPop pe = true → (s.popOrder (quadOfPe pe)).find? s.mayPop = some pe →
    s.nextRecord pe = some (slot, e) → s.task.waiting = [] → e.record.args.length = 5 →
    ∃ t k tk, exec (.taskPop pe) s = .next t ∧ k < 16 ∧ s.task? pe k = none ∧ t.task? pe k = some tk ∧ tk.ctx = e.ctx ∧ tk.record = e.record ∧ tk.stack = [] ∧
      tk.loop = none ∧ t.task.queues = (s.task.queues.filter fun r => r.num != e.num) ∧
      (∃ a ∈ t.pe.queue, a.pe = pe ∧ a.task = k ∧ a.ctx = e.ctx ∧ a.addr = e.record.code ∧ a.iter = none) ∧
      (e.image = none → e.record.dep = none → tk.regs.length = 128 ∧ tk.regs[0]? = some zeroTok ∧
        (∀ j v, j < 4 → e.record.args[j]? = some v → tk.regs[j + 1]? = some (scalarTok v)) ∧
        (∀ v, e.record.args[4]? = some v → tk.regs[5]? = some (scalarTok (e.record.g5.getD v))) ∧
        ∀ j, 6 ≤ j → j < 128 → tk.regs[j]? = some zeroTok)) ∧
  (∀ (s : State) (pe k : Nat) (tk : Task) (src : Src), s.task? pe k = some tk → tk.ending = some src → tk.endEntry = none → s.issuing tk.ctx = true →
    s.taskBusy tk.ctx pe k = false → tk.record.dep = none → tk.abnormal = none →
    let u := s.releaseTask pe k
    (tk.record.join = 0 → exec (.taskEnd pe k) s = .next (u.delTask pe k)) ∧
    (∀ ks, tk.record.join ≠ 0 → reachable tk.record.join 128 → u.checkRange src.ctx pe .object tk.record.join 128 = .ok ks →
      u.objPoison ks 64 64 = none →
      exec (.taskEnd pe k) s = .next (((u.post (.pe pe) (engineAgent (runAt ks 64)) 7 (.join tk.record.join ks none 0 src)).modTask pe k
        fun t => { t with record := { t.record with join := 0 } }).delTask pe k))) ∧
  (∀ (s : State) (n : Nat) (e : Env) (die : Nat) (d : Dep) (src : Src) (ds : List Dest), s.msg? n = some e → s.first n e = true →
    e.body = .depSubmit die d src ds → (∃ i, i < 8192 ∧ s.task.deps.get? (die * 8192 + i) = none) → (∀ p ∈ s.task.deps, p.2.order < s.sched.serial) →
    let earlier := fun (p : Nat × Dep) => p ∈ s.task.deps ∧ p.1 / 8192 = die ∧ p.2.ctx = d.ctx
    ∃ t key d1, exec (.dependenceSubmit n) s = .next t ∧ key / 8192 = die ∧ s.task.deps.get? key = none ∧ t.task.deps.get? key = some d1 ∧
      d1.record = d.record ∧ d1.reads = d.reads ∧ d1.writes = d.writes ∧ (∀ p, earlier p → rangesMeet d.reads p.2.writes = true → p.1 ∈ d1.waits) ∧
      (∀ j w, d.writes[j]? = some w → (∃ p, earlier p ∧ rangesMeet [w] (p.2.reads ++ p.2.writes) = true) →
        (∃ r ∈ d1.renames, r.j = j ∧ r.base = w.1 ∧ r.len = w.2) ∨
          ∀ p, earlier p → rangesMeet [w] (p.2.reads ++ p.2.writes) = true → p.1 ∈ d1.waits) ∧
      ((∀ p, earlier p → rangesMeet d.reads p.2.writes = false ∧ ∀ w ∈ d.writes, rangesMeet [w] (p.2.reads ++ p.2.writes) = false) →
        d1.waits = [] ∧ d1.renames = []) ∧
      ∀ x ∈ ds, ∃ m g, t.net.get? m = some g ∧ g.dst = .pe x.pe ∧ g.body = .reply x (scalarTok 1) src) ∧
  (∀ (s : State) (die i : Nat) (d : Dep) (x : Ctx), s.task.deps.get? (die * 8192 + i) = some d → s.ctx? d.ctx = some x → d.released = false →
    let q := s.placeQuad x d.place (quadOfPe d.pe)
    (d.waits = [] → s.queueRoom q d.record.prio = true → ∃ t r, exec (.dependenceRelease die i) s = .next t ∧ r ∈ t.task.queues ∧ r.ctx = d.ctx ∧
      r.quad = q ∧ r.record = { d.record with dep := some (die * 8192 + i) } ∧ t.task.deps.get? (die * 8192 + i) = some { d with released := true }) ∧
    (d.waits ≠ [] → exec (.dependenceRelease die i) s = .fault (.notEnabled "DEPENDENCE_RELEASE"))) ∧
  (∀ (s : State) (die i : Nat) (d : Dep) (r : Rename), s.task.deps.get? (die * 8192 + i) = some d → d.ended = true → d.renames = [r] → r.back = false →
    Tab.sorted s.task.deps = true → (∀ p ∈ s.task.deps, p.2.ctx = d.ctx → d.order ≤ p.2.order) →
    ∃ t, exec (.copyBack die i) s = .next t ∧ t.task.deps.get? (die * 8192 + i) = none ∧
      (∀ g ∈ t.mem.shadows, g.1 = d.ctx → g.2.1 ≠ r.shadow) ∧
      ∀ k p q, k ≠ die * 8192 + i → s.task.deps.get? k = some p → t.task.deps.get? k = some q → q.waits = p.waits.erase (die * 8192 + i)) ∧
  (∀ (s : State) (d : Nat), s.sched.cycle % 64 = 0 → d < 8 → (∀ r, s.task.costs.get? d = some r → r.1 ≠ s.sched.cycle) →
    ∃ t q, exec (.costReport d) s = .next t ∧ q / 64 = d ∧ t.task.costs.get? d = some (s.sched.cycle, s.quadCost q) ∧
      ∀ p, p / 64 = d → (s.quadPower p).gated = false → s.quadCost q ≤ s.quadCost p) ∧
  (∀ (s : State) (q : Nat),
    (q < 512 → (s.quadPower q).gated = false → s.quadBusy q = false → s.holdsHalted q = false → (s.quadPower q).idleSince + 19000 ≤ s.sched.cycle →
      ∃ t, exec (.quadGate q) s = .next t ∧ (t.quadPower q).gated = true ∧ ∀ p, p ≠ q → t.quadPower p = s.quadPower p) ∧
    (∀ c, (s.quadPower q).gated = true → (s.quadPower q).waking = some c → c + 4750 ≤ s.sched.cycle →
      ∃ t, exec (.quadWake q) s = .next t ∧ (t.quadPower q).gated = false ∧ ∀ p, p ≠ q → t.quadPower p = s.quadPower p)) ∧
  (∀ (s : State) (q k : Nat) (e : QEntry) (tk : Task), s.victimFor q e = some (k, tk) →
    let prio := fun (c : Nat) => match s.ctx? c with | some x => x.regs.prio | none => 0
    let may := fun (p : Nat × Task) => p ∈ s.pe.tasks ∧ p.1 / 16 ∈ pesOfQuad q ∧ s.eligibleBut (p.1 / 16) e = true ∧ prio p.2.ctx < prio e.ctx ∧
      p.2.preempt = .running ∧ p.2.ending = none ∧ s.issuing p.2.ctx = true
    may (k, tk) ∧ ∀ p, may p → prio tk.ctx ≤ prio p.2.ctx ∧ (prio p.2.ctx = prio tk.ctx → p.2.popCycle ≤ tk.popCycle)) ∧
  (∀ (s : State) (q k : Nat) (e : QEntry) (tk v : Task) (x : Ctx), s.blockedRecords q = [e] → s.task.victim.get? q = none → s.victimFor q e = some (k, tk) →
    s.pe.tasks.get? k = some v → s.ctx? tk.ctx = some x →
    let est := tk.estWord.toNat % 2 ^ 31
    let left := est - (s.sched.cycle - tk.estCycle)
    let acts := fun (w : Task) => ∃ t, exec (.preempt q) s = .next t ∧ t.pe.tasks.get? k = some w ∧ t.task.victim.get? q = some (k, e.num)
    (est ≠ 0x7FFFFFFF → left ≤ 40000 → acts { v with preempt := .draining }) ∧
    ((est = 0x7FFFFFFF ∨ 40000 < left) → tk.steps ≠ 0 → x.regs.timg ≠ 0 → acts { v with preempt := .awaitCkpt, ckptReq := true }) ∧
    ((est = 0x7FFFFFFF ∨ 40000 < left) → (tk.steps = 0 ∨ x.regs.timg = 0) → tk.estWord.toNat / 2 ^ 31 % 2 = 0 → acts { v with preempt := .draining }) ∧
    ((est = 0x7FFFFFFF ∨ 40000 < left) → (tk.steps = 0 ∨ x.regs.timg = 0) → tk.estWord.toNat / 2 ^ 31 % 2 = 1 →
      (∃ p ∈ s.pe.frames, p.1 / 256 = k / 16 ∧ p.2.task = k % 16) →
      (∀ p ∈ s.pe.frames, p.1 / 256 = k / 16 → p.2.task = k % 16 → p.2.isOpen = false) → acts { v with preempt := .killing }))

/-! ### System, debug and Kiln instructions (R391 to R423, R446 to R450, R459 to R466) -/

/-- R391, R392, R413 to R423: the system instructions. SRR sends the register it names (HOSTQ from the place of log entry 9); SRW checks its privilege and
value, writes one register once in an activation, is held for the commit, and sends the value as the register will read it; TRAP raises TRAP with a and its
immediate; HCALL performs, posts a request of kind 4 and parks on it; CKPT, REMEST, PWRHINT and the context instructions are held for the commit, the last
for a manager alone; HBEAT sets the watchdog count; ATINV waits for what uses a translation of the pages it names, leaves none, and has the stores that are
held translated afresh. That ATINV stays ready until then and performs in one step (DEDUCED, assumption log 67), and which held effects it waits for and that held
stores are translated afresh (DEDUCED, assumption log 107), are the model's choices. -/
def Obligations.SystemInstructions : Prop :=
  ∀ (s : State) (f : Firing) (h : Hdr),
    let r := f.x.regs
    let a := f.a.val.toNat
    let b := f.b.val.toNat
    let wdog := fun (v : Word) => if v = 0 then 0 else if v.toNat < 190000 then 190000 else v.toNat
    let quota := fun (v : Nat) => if v = 0 then 256 else v
    (∀ (w : BitVec 32), Fires (.srr h w) s f → f.clear = true →
      ∀ p ∈ [(0x00, f.fr.ctx), (0x01, f.x.asid), (0x02, f.x.part), (0x03, r.prio), (0x04, r.mmrev), (0x05, r.fmode), (0x06, r.zskip), (0x07, r.rseed.toNat),
          (0x08, wdog r.wdog), (0x09, max 1900 r.silwin.toNat), (0x0A, r.spillq), (0x0B, quota r.fquota), (0x0C, if f.x.dbgen then 1 else 0), (0x0D, f.x.stopBase),
          (0x0E, r.status.toNat), (0x0F, f.key % 256 * 2 ^ 9), (0x10, f.x.slot * 2 ^ 15 + f.fr.task * 2 ^ 11 + f.pe), (0x11, s.sched.cycle), (0x13, r.fltq.toNat),
          (0x14, s.devNat (0x8000 + 8 * f.fr.ctx) 8), (0x15, r.timg.toNat)],
        w.toNat = p.1 → GivesScalar (.srr h w) s f s (f.handles (.srr h w)) (BitVec.ofNat 64 p.2)) ∧
    (∀ (w : BitVec 32) tk, Fires (.srr h w) s f → f.clear = true → w.toNat = 0x12 → s.task? f.pe f.fr.task = some tk →
      let e := tk.estWord.toNat % 2 ^ 31
      let now := if e = 0x7FFFFFFF then e else e - (s.sched.cycle - tk.estCycle)
      GivesScalar (.srr h w) s f s (f.handles (.srr h w)) (BitVec.ofNat 64 (tk.estWord.toNat / 2 ^ 31 % 2 * 2 ^ 31 + now))) ∧
    (∀ (w : BitVec 32), Fires (.srw h w) s f → f.a.kind = .scalar → w.toNat ∈ [0x03, 0x05, 0x06, 0x07, 0x08, 0x09, 0x0A, 0x0B, 0x0E, 0x13, 0x15] →
      let n := w.toNat
      let legal := (n = 0x03 → 1 ≤ a ∧ a ≤ 64) ∧ (n = 0x05 → a < 32) ∧ (n = 0x06 → a < 2) ∧ (n = 0x0A → a < 2 ^ 32) ∧ (n = 0x0B → a ≤ 256) ∧ (n = 0x0E → a < 128) ∧
        (n = 0x13 → reachable a 1 ∧ a % 64 = 0) ∧ (n = 0x15 → reachable a 1 ∧ a % 2048 = 0)
      let manager := n ∈ [0x05, 0x0A, 0x13, 0x15] ∨ (n = 0x03 ∧ r.prio < a) ∨ (n = 0x08 ∧ a = 0)
      let first := ∀ v, Effect.srw n v ∉ f.fr.held
      (manager → f.x.mgr = false → Raises (.srw h w) s f .privilege 0) ∧
      ((manager → f.x.mgr = true) → ¬ (legal ∧ first) → Raises (.srw h w) s f .operand 0) ∧
      ((manager → f.x.mgr = true) → legal → first → f.clear = true → GivesScalar (.srw h w) s f (s.hold f.key (.srw n f.a.val)) (f.handles (.srw h w))
        (BitVec.ofNat 64 (if n = 0x08 then wdog f.a.val else if n = 0x09 then max 1900 a else if n = 0x0B then quota a else a)))) ∧
    (∀ (w : BitVec 32), Fires (.srw h w) s f → f.a.kind = .tile →
      (w.toNat ∈ [0x05, 0x0A, 0x13, 0x15] → f.x.mgr = false → Raises (.srw h w) s f .privilege 0) ∧
      ((w.toNat ∈ [0x05, 0x0A, 0x13, 0x15] → f.x.mgr = true) → Raises (.srw h w) s f .tokenKind 0)) ∧
    (∀ (w : BitVec 32), Fires (.trap h w) s f → f.a.kind ≠ .tile →
      exec (.trap h w) s = .next (s.failAt f { code := .trap, detail := f.a.val, aux := w.zeroExtend 64 })) ∧
    (∀ (w : BitVec 32), Fires (.hcall h w) s f → f.a.kind ≠ .tile →
      let u := (f.performs s).expect f.key f.fan
      exec (.hcall h w) s = .next ((u.hostPost (f.pe / 256) 4 f.fr.ctx (w.zeroExtend 64) f.a.val f.src (f.destsTo [f.h.t0]) (f.destsTo [f.h.t1])).retire f
        (f.handles (.hcall h w)) (.parked (.host s.sched.serial)) none none)) ∧
    (∀ tk, Fires (.ckpt h) s f → s.task? f.pe f.fr.task = some tk →
      (tk.stack = [] → (∀ t ∈ tk.regs.take tk.nregs, t.kind ≠ .tile) → Gives (.ckpt h) s f (s.hold f.key .ckpt) (f.handles (.ckpt h)) none none) ∧
      (tk.stack ≠ [] ∨ (∃ t ∈ tk.regs.take tk.nregs, t.kind = .tile) → Raises (.ckpt h) s f .operand 0)) ∧
    (∀ (w : BitVec 32), Fires (.remestImm h w) s f → f.clear = true →
      GivesScalar (.remestImm h w) s f (s.hold f.key (.remest (w.signExtend 64))) (f.handles (.remestImm h w)) 0) ∧
    (Fires (.remest h) s f → f.b.kind ≠ .tile → f.clear = true →
      GivesScalar (.remest h) s f (s.hold f.key (.remest f.b.val)) (f.handles (.remest h)) 0) ∧
    (∀ i ∈ [Instr.ctxnew h, .ctxhalt h, .ctxres h], Fires i s f → f.x.mgr = false → Raises i s f .privilege 0) ∧
    (f.x.mgr = true → f.a.kind ≠ .tile → f.clear = true →
      (∀ ks, Fires (.ctxnew h) s f → f.object s f.a 64 .object 1 = .ok ks →
        GivesScalar (.ctxnew h) s f (s.hold f.key (.ctx (.new a) (runAt ks 0) f.src)) (f.handles (.ctxnew h)) 0) ∧
      (Fires (.ctxhalt h) s f → f.b.kind ≠ .tile → (b < 2 → GivesScalar (.ctxhalt h) s f (s.hold f.key (.ctx (.halt a b) 0 f.src)) (f.handles (.ctxhalt h)) 0) ∧
        (2 ≤ b → Raises (.ctxhalt h) s f .operand 0)) ∧
      (Fires (.ctxres h) s f → f.b.kind ≠ .tile → (b < 4 → GivesScalar (.ctxres h) s f (s.hold f.key (.ctx (.resume a b) 0 f.src)) (f.handles (.ctxres h)) 0) ∧
        (4 ≤ b → Raises (.ctxres h) s f .operand 0))) ∧
    (Fires (.hbeat h) s f → f.clear = true →
      GivesScalar (.hbeat h) s f (s.modCtx f.fr.ctx fun x => { x with wdCount := wdog x.regs.wdog }) (f.handles (.hbeat h)) 0) ∧
    (∀ (w : BitVec 32), Fires (.pwrhint h w) s f → Gives (.pwrhint h w) s f (s.hold f.key (.pwrhint w.toNat)) (f.handles (.pwrhint h w)) none none) ∧
    (Fires (.atinv h) s f → f.a.kind ≠ .tile → f.b.kind ≠ .tile →
      let scope := b % 8
      let size := b / 2 ^ 6 % 4
      let other := b / 2 ^ 5 % 2 = 1
      let asid := if other then b / 2 ^ 32 % 2 ^ 16 else f.x.asid
      let n := levelSize size
      let base := a % 2 ^ 57 / n * n
      let span := if size = 3 then none else some (base, n)
      (other → f.x.mgr = false → Raises (.atinv h) s f .privilege 0) ∧
      ((other → f.x.mgr = true ∧ ∀ p ∈ s.ctxs, p.2.asid = asid → p.2.part = f.x.part) → (size ≠ 3 → reachable a 1) →
        b / 2 ^ 48 = 0 → b / 2 ^ 8 % 2 ^ 24 = 0 → b / 2 ^ 3 % 4 = 0 → (scope = 2 ∨ scope = 3) →
        (s.usesSpan f.src (f.pe / 256) scope asid span = true → Waits (.atinv h) s f .before) ∧
        (s.usesSpan f.src (f.pe / 256) scope asid span = false →
          ∃ l, Gives (.atinv h) s f (f.replyBoth (State.recheckStores { s with mem := { s.mem with tlb := l } } (f.pe / 256) scope asid span)
            (.die (f.pe / 256)) (scalarTok 0)) (f.handles (.atinv h)) none none ∧
            ∀ e, e ∈ l ↔ e ∈ s.mem.tlb ∧ ¬ (e.asid = asid ∧ (scope = 3 ∨ e.unit = 2048 + f.pe / 256 ∨ (e.unit < 2048 ∧ e.unit / 256 = f.pe / 256)) ∧
              (size = 3 ∨ (base < e.va + e.size ∧ e.va < base + n))))))

/-- R447 to R450, R459, R463 to R466: the Kiln and debug instructions. TCINV tells the dies it names, and disables native images where its word says so;
TCPIN unpins or asks for pins and TCPRE for translations, all of the blocks their word names; OBJLOAD checks its container and its signature and reserves a
number; TRACE, BRK and CNTRD act on a debuggable context of the same partition, and TRACE and BRK refuse any other as R459 says, where no poisoned header
goes before (R399); what TRACE and BRK set comes into force with their reply (R460, R463), at once where no target takes one; MARK writes a record where
marks are on. That TCPIN with N = 1 counts the pins that it cleared is the model's choice (DEDUCED, assumption log 74). -/
def Obligations.DebugAndKilnInstructions : Prop :=
  ∀ (s : State) (f : Firing) (h : Hdr),
    let a := f.a.val.toNat
    let b := f.b.val.toNat
    let die := f.pe / 256
    let job := fun (l : Nat) => ({ src := f.src, dests := f.destsTo [f.h.t0], sdests := f.destsTo [f.h.t1], left := l, count := 0, unpinned := false
                                   failed := false } : KJob)
    let posted := fun (u : State) (l : Nat) => State.bump { u with kiln := { u.kiln with jobs := u.kiln.jobs.put u.sched.serial (job l) } }
    (∀ dies names, f.tcNames s false = .ok (dies, names) →
      let e := s.expect f.key f.fan
      (Fires (.tcinv h) s f → s.before f.src 0xFF = false → b / 2 ^ 7 % 2 = 0 →
        Gives (.tcinv h) s f (dies.foldl (fun t d => t.post (.pe f.pe) (.die d) 7 (.inval d (names.map Prod.snd) f.fr.ctx e.sched.serial))
          (posted e dies.length)) (f.handles (.tcinv h)) none none) ∧
      (Fires (.tcinv h) s f → s.before f.src 0xFF = false → b / 2 ^ 7 % 2 = 1 →
        ∃ t, exec (.tcinv h) s = .next t ∧ (∀ p ∈ t.kiln.objects, (∃ m ∈ names, m.1 = p.1) → ∀ g ∈ p.2.images, g.disabled = true) ∧
          ∀ d ∈ dies, ∃ k m, t.net.get? k = some m ∧ m.dst = .die d ∧ m.body = .inval d (names.map Prod.snd) f.fr.ctx e.sched.serial) ∧
      (Fires (.tcpin h) s f → b / 2 ^ 7 % 2 = 1 →
        let hit := unpins dies f.fr.ctx (names.map Prod.snd)
        Gives (.tcpin h) s f (f.replyTwo (s.mapEntries hit fun e => { e with pinned := false }) (.die die)
          (scalarTok (BitVec.ofNat 64 (s.kiln.entries.filter hit).length)) (scalarTok 1)) (f.handles (.tcpin h)) none none)) ∧
    (∀ dies names, dies ≠ [] → names ≠ [] →
      let e := s.expect f.key f.fan
      let all := dies.flatMap fun d => names.map fun p => (d, p)
      ∀ p ∈ [(Instr.tcpin h, true), (.tcpre h, false)], Fires p.1 s f → f.tcNames s (!p.2) = .ok (dies, names) → (p.2 = true → b / 2 ^ 7 % 2 = 0) →
        Gives p.1 s f (all.foldl (fun t q => t.postBackground f.fr.ctx q.1 q.2.1 q.2.2 e.sched.serial p.2) (posted e all.length)) (f.handles p.1) none none) ∧
    (f.a.kind ≠ .tile → f.b.kind ≠ .tile → Fires (.objload h) s f → a % 64 = 0 → b % 64 = 0 → s.before f.src 0xFF = false →
      ∀ hd, f.readSpan s a 64 = .ok hd →
        (headGood hd a = false → Raises (.objload h) s f .object 0) ∧
        ∀ l p, headGood hd a = true → f.readObject s a (fieldAt hd 16 8) (fieldAt hd 12 4) = .ok l → partsOf l = some p → containerGood l p = true →
          (s.signed f.x.part l p = false → Raises (.objload h) s f .object 0) ∧
          ∀ rep n o g, s.signed f.x.part l p = true → repVector (gEdges p.recs) (ofKind p.recs 1).length = some rep → o = p.obj l a f.fr.ctx rep →
            f.stepFive s o p = true → (b = 0 → g = none) → (b ≠ 0 → ∃ q, f.graphStart s b o = .ok q ∧ g = some q) →
            lowestFree (Config.maxObjects + 1) (0 :: s.kiln.objects.map Prod.fst) = some n →
            Gives (.objload h) s f (f.replyTwo (({ s with kiln := { s.kiln with objects := s.kiln.objects.put n o } } : State).hold f.key (.objload n g f.src))
              (.die die) (scalarTok (BitVec.ofNat 64 n)) (scalarTok (BitVec.ofNat 64 o.entry))) (f.handles (.objload h)) none none) ∧
    (∀ c x, s.ctx? c = some x →
      let named := fun (v : Nat) => (v = c ∧ c ≠ 0) ∨ (v = 0 ∧ c = f.fr.ctx)
      let allowed := (c = f.fr.ctx ∨ f.x.mgr = true) ∧ x.part = f.x.part ∧ x.dbgen = true
      let asks := fun (v : Setting) => s.setCtx c (if f.fan = 0 then x.apply v else { x with settings := x.settings ++ [(f.src, v)] })
      (f.a.kind ≠ .tile → f.b.kind ≠ .tile → named (b % 2 ^ 16) → allowed →
        (Fires (.trace h) s f → b / 2 ^ 16 = 0 →
          Gives (.trace h) s f (f.replyBoth (asks (.trace none)) (.die die) (scalarTok 1)) (f.handles (.trace h)) none none) ∧
        (∀ hs ks, Fires (.trace h) s f → b / 2 ^ 24 = 1 → (b / 2 ^ 16 % 32 = 0 ∨ (8 ≤ b / 2 ^ 16 % 32 ∧ b / 2 ^ 16 % 32 ≤ 24)) → f.object s f.a 64 .object 1 = .ok hs →
          let pa := runAt hs 0
          let slots := leNat (s.readBytes (pa + 24) 4)
          isRefused pa = false → s.poisoned pa = false → 16 ≤ slots → slots ≤ 2 ^ 24 → (∃ m, slots = 2 ^ m) → reachable a (64 + 64 * slots) →
          s.checkRange f.fr.ctx f.pe .object (a + 64) (64 * slots) = .ok ks →
          let tr : TraceCfg := { header := a, headerPa := pa, slots := slots, pages := ks, omitIdle := bitAt b 23, configs := bitAt b 22, marks := bitAt b 21
                                 k := b / 2 ^ 16 % 32, samples := [] }
          Gives (.trace h) s f (f.replyBoth (asks (.trace (some tr))) (.die die) (scalarTok 1)) (f.handles (.trace h)) none none) ∧
        (Fires (.brk h) s f → b / 2 ^ 32 = 0 → b / 2 ^ 17 % 2 ^ 7 = 0 → (∃ ty, s.typeAt die c a = some ty ∧ ty ≠ .data) →
          let l := ((x.settings.map Prod.snd).foldl Ctx.apply x).breaks
          let rest := l.filter fun k => k.addr != a
          let set := fun (v : Word) =>
            Gives (.brk h) s f (f.replyBoth (asks (.brk a (b / 2 ^ 24) (bitAt b 16))) (.die die) (scalarTok v)) (f.handles (.brk h)) none none
          (b / 2 ^ 16 % 2 = 1 → b / 2 ^ 24 = 0 → set (if rest.length < l.length then 1 else 2)) ∧
          (b / 2 ^ 16 % 2 = 0 → (rest.length < l.length ∨ rest.length < 8) → set 1) ∧
          (b / 2 ^ 16 % 2 = 0 → rest.length = l.length → 8 ≤ rest.length → set 0))) ∧
      (∀ addr n,
        let l := x.breaks
        let rest := l.filter fun k => k.addr != addr
        (x.apply (.brk addr n true)).breaks = rest ∧
        ((rest.length < l.length ∨ rest.length < 8) → (x.apply (.brk addr n false)).breaks = rest ++ [{ addr := addr, count := n }]) ∧
        (rest.length = l.length → 8 ≤ rest.length → (x.apply (.brk addr n false)).breaks = l) ∧ ∀ tr, (x.apply (.trace tr)).trace = tr) ∧
      (∀ (w : BitVec 32), f.a.kind ≠ .tile → Fires (.cntrd h w) s f → named (a % 2 ^ 16) → allowed → a / 2 ^ 16 % 2 ^ 16 = 0 →
        a / 2 ^ 43 = 0 → (a % 2 ^ 16 = 0 → a / 2 ^ 32 = 0) →
        let pe := if a % 2 ^ 16 = 0 then f.pe else a / 2 ^ 32
        x.onDie (pe / 256) = true →
        let own := if w.toNat % 8 = 0 ∧ c = f.fr.ctx ∧ pe = f.pe ∧ s.issuedNow c pe = none ∧ s.countedNow c = false then 1 else 0
        Gives (.cntrd h w) s f (f.replyBoth s (.pe pe) (scalarTok (BitVec.ofNat 64 (s.counterOf c pe (w.toNat % 8) + own)))) (f.handles (.cntrd h w)) none none) ∧
      (f.a.kind ≠ .tile → f.b.kind ≠ .tile → b = c → c ≠ f.fr.ctx → c < 2 ^ 16 → c ≠ 0 → ∀ i ∈ [Instr.trace h, .brk h], Fires i s f →
        (∀ hs, f.object s f.a 64 .object 1 = .ok hs → s.poisoned (runAt hs 0) = false) →
        (f.x.mgr = false → Raises i s f .privilege 0) ∧
        (f.x.mgr = true → x.part ≠ f.x.part → Raises i s f .protection 0) ∧
        (f.x.mgr = true → x.part = f.x.part → x.dbgen = false → Raises i s f .debugDisabled 0))) ∧
    (∀ (w : BitVec 32), f.a.kind ≠ .tile → Fires (.mark h w) s f →
      (∀ t, f.x.trace = some t → t.marks = true →
        Gives (.mark h w) s f (s.traceRecord f.fr.ctx s.sched.cycle { type := 2, src := some f.src, pe := f.pe, a := a, b := w.toNat, c := f.fr.cfg.addr })
          (f.handles (.mark h w)) none none) ∧
      ((∀ t, f.x.trace = some t → t.marks = false) → Gives (.mark h w) s f s (f.handles (.mark h w)) none none))

/-! ### Tokens, frames, halts, the Kiln and the package (R16 to R20, R73 to R86, R386 to R482) -/

/-- R18 to R20, R77 to R79, R81, R85, R86, R162, R225, R281, R460, R463: what arrives. A receiver refuses a message whose parity or whose class or slot is bad; it is sent
again, and given up after 8 refusals with TOKEN_PARITY in the context whose work it carries; that a resend arrives as it was made or damaged as before, which
of the two is free, and what the wire of each message holds are the model's choices (DESIGN CHOICE, assumption log 91). A token of kind 3 or side 3 is discarded with
TOKEN_KIND. A sound token parks in the empty slot its instruction requires, or resolves it by a predicate that does not match; a slot that is taken, or not
required, or whose instruction has fired, refuses it with OPERAND; one whose activation is not Open, or is discarded by its fault, is discarded. A counter's
token that finds no Open frame of its context sets Error, unless the counter is of another context by then. A
reply lowers the frame's count, delivers what it carries, and brings what its TRACE or BRK set into force; a tile element becomes a tile of one reference; a release lowers the tile's count and frees its
slot at 0. -/
def Obligations.TokensArrive : Prop :=
  ∀ (s : State) (n : Nat) (e : Env), s.msg? n = some e →
    let raw := e.wire
    let pe := rawField raw 81 11
    let k := frameKey pe (rawField raw 73 8)
    let idx := rawField raw 64 7
    let odd := rawField raw 96 2 = 3 ∨ rawField raw 71 2 = 3
    let v := rawTok raw
    let u := s.taken n
    (s.ahead n e = true → e.refused = false → tokenGood raw = false →
      exec (.tokenDelivery n) s = .next (s.setEnv n { e with refused := true, refusals := e.refusals + 1 })) ∧
    (e.refused = true →
      (e.refusals < 8 → ∃ t w, exec (.tokenResend n) s = .next t ∧ t.msg? n = some { e with refused := false, wire := w } ∧
        (w = s.wireOf e.dst e.cls e.ctx e.body ∨ w = raw)) ∧
      (8 ≤ e.refusals →
        (∀ p src x, e.src = .pe p → e.body.owner = some src → s.ctx? src.ctx = some x → x.state = .running → ∃ t, exec (.tokenParity n) s = .next t ∧
          t.recorded src.ctx .tokenParity src.idx) ∧
        (∀ x, (∀ p, e.src ≠ .pe p) ∨ e.body.owner = none → s.ctx? e.ctx = some x → x.state = .running → ∃ t i, exec (.tokenParity n) s = .next t ∧
          t.recorded e.ctx .tokenParity i))) ∧
    (∀ r uid src, e.body = .token r uid src → s.first n e = true →
      (odd → exec (.tokenDelivery n) s = .next ((u.raiseNone { Src.ofCtx src.ctx with pe := pe } { code := .tokenKind }).dropTok pe v)) ∧
      (¬ odd →
        ((∀ f, s.frame? k = some f → f.uid ≠ uid ∨ f.live = false) → exec (.tokenDelivery n) s = .next (u.dropTok pe v)) ∧
        ∀ f sd i, s.frame? k = some f → f.uid = uid → f.live = true → sideNum sd = rawField raw 71 2 → f.cfg.instr idx = some i →
          (sd ∉ i.required ∨ f.stat.get? idx = some .fired ∨ (∃ p, f.stat.get? idx = some (.parked p)) ∨
              (f.stat.get? idx ≠ some .mismatched ∧ (f.operand idx sd).isSome = true) →
            exec (.tokenDelivery n) s = .next ((u.raiseAt (srcOf k f idx) { code := .operand }).dropTok pe v)) ∧
          (sd ∈ i.required → f.stat.get? idx = some .mismatched → exec (.tokenDelivery n) s = .next (u.dropTok pe v)) ∧
          (sd ∈ i.required → f.stat.get? idx = none → f.operand idx sd = none →
            (sd = .c → predMismatch i.hdr v = false) → (i.isStore = true → sd ≠ .a) →
            ∃ t g, exec (.tokenDelivery n) s = .next t ∧ t.frame? k = some g ∧ g.operand idx sd = some v ∧ g.stat = f.stat ∧ g.outs = f.outs ∧
              ∀ j sd', (j ≠ idx ∨ sd' ≠ sd) → g.operand j sd' = f.operand j sd') ∧
          (sd = .c → i.required.contains .c = true → f.stat.get? idx = none → f.operand idx .c = none → predMismatch i.hdr v = true →
            ∃ t g, exec (.tokenDelivery n) s = .next t ∧ t.frame? k = some g ∧ g.stat.get? idx = some .mismatched))) ∧
    (∀ r cid, e.body = .inject r cid → s.first n e = true →
      (odd → exec (.tokenDelivery n) s = .next ((u.raiseNone { Src.ofCtx e.ctx with pe := pe } { code := .tokenKind }).dropTok pe v)) ∧
      (¬ odd → (∀ f, s.frame? k = some f → f.live = false ∨ f.ctx ≠ e.ctx ∨ rawField raw 92 4 ≠ s.slotOf e.ctx) →
        (∀ c, s.counter? cid = some c → c.ctx = e.ctx → exec (.tokenDelivery n) s = .next (u.setCounter cid { c with error := true })) ∧
        ((∀ c, s.counter? cid = some c → c.ctx ≠ e.ctx) → exec (.tokenDelivery n) s = .next u))) ∧
    (∀ d w src f, (e.body = .reply d w src ∨ e.body = .withheld d) → ¬ odd → s.firstReply n e = true → s.frameOf d.pe d.frame d.uid = some f →
      (∀ sd j i, d.tgt = .slot sd j → f.cfg.instr j.toNat = some i → i.isStore = false) →
      ∃ t g, exec (.splitPhaseReply n) s = .next t ∧ t.frame? (frameKey d.pe d.frame) = some g ∧ g.outstanding = f.outstanding - 1 ∧ g.isOpen = f.isOpen ∧
        (e.body = .withheld d ∨ f.live = false → g.slots = f.slots ∧ g.outs = f.outs ∧ g.stat = f.stat) ∧
        (e.body = .reply d w src → f.live = true → ∀ x, d.tgt = .write x → f.outs.get? x.toNat = none → g.outs = f.outs.put x.toNat v) ∧
        (e.body = .reply d w src → f.live = true → ∀ sd j i, d.tgt = .slot sd j → f.cfg.instr j.toNat = some i → sd ∈ i.required →
          f.stat.get? j.toNat = none → f.operand j.toNat sd = none → (sd = .c → predMismatch i.hdr v = false) → g.operand j.toNat sd = some v) ∧
        (∀ c x, e.body = .reply d w src → s.ctx? c = some x →
          let z := ((x.settings.filter fun q => q.1 == src).map Prod.snd).foldl Ctx.apply x
          ∃ y, t.ctx? c = some y ∧ y.settings = (x.settings.filter fun q => q.1 != src) ∧ y.breaks = z.breaks ∧ y.trace = z.trace)) ∧
    (∀ d el fc w src f, e.body = .elemReply [d] el fc w src → s.firstReply n e = true → s.frameOf d.pe d.frame d.uid = some f → f.live = true →
      s.tileRoom d.pe w = true → d.pe < 2048 → fc < 32 → el.rows < 16 → el.cols < 16 → ∀ x, d.tgt = .write x → f.outs.get? x.toNat = none →
        ∃ t g h, exec (.splitPhaseReply n) s = .next t ∧ t.frame? (frameKey d.pe d.frame) = some g ∧ g.outs = f.outs.put x.toNat { kind := .tile, val := h } ∧
          (t.tileSlot d.pe (hSlot h)).codes = el.codes ∧ (t.tileSlot d.pe (hSlot h)).count = 1) ∧
    (∀ h, e.body = .release h → s.first n e = true → ∃ t, exec (.tileRelease n) s = .next t ∧ ∀ p, s.tileOf h = some p →
      let q := t.tileSlot (hPe h) (hSlot h)
      (1 < p.count → q = { p with count := p.count - 1 }) ∧ (p.count = 1 → q.count = 0 ∧ q.gen = (p.gen + 1) % 2 ^ 28))

/-- R73 to R76, R82 to R86, R91, R93 to R96, R112, R140, R155, R392, R417, R421: the life of a frame. A grant opens the frame of the next activation, and its read
entries send their registers; a commit closes it, gives the registers their tokens, lets its stores go with memory as before, ORs its flags into
STATUS, makes its held effects happen in the order they were held and starts the next block; an iteration's commit counts it and starts no block, and the
last one completes the loop, whose LOOP sends the count to T0 and the final carry to T1; a draining frame without replies is freed; the sequencer queues the
next iteration while fewer than k are live and no LBREAK ends the loop before it. What a loop of a negative step takes as the order of its iterations and what
its limit is after an LBREAK (DEDUCED, assumption log 20), and the null that is the final carry where the last iteration's CARRY sent nothing (DEDUCED, assumption log 108),
are the model's choices. -/
def Obligations.FrameLife : Prop :=
  (∀ (s : State) (pe : Nat) (a : Activation) (g : Cfg) (x : Ctx) (t : Task) (id run : Nat), s.nextGrant pe = some a → a.cfg = some g → s.ctx? a.ctx = some x →
    s.task? pe a.task = some t → s.framePlace pe g = some (id, run) → x.breaks = [] → x.skip = none → g.badRegs t = false → g.hasIrrevocable = false → a.iter = none →
    (∀ r ∈ g.reads, (t.reg r.g).kind ≠ .tile) → ((g.reads.flatMap fun r => [r.t0, r.t1]).filter fun w => match w with | .write _ => true | _ => false).Nodup →
    ∃ u f, exec (.frameGrant pe) s = .next u ∧ s.frame? (frameKey pe id) = none ∧ u.frame? (frameKey pe id) = some f ∧ f.isOpen = true ∧ f.ctx = a.ctx ∧
      f.task = a.task ∧ f.cfg = g ∧ f.iter = none ∧ f.uid = s.sched.serial ∧ f.slots = [] ∧ f.stat = [] ∧ f.outstanding = 0 ∧ f.branch = none ∧ f.held = [] ∧
      u.pe.queue = s.pe.queue.erase a ∧
      ∀ r ∈ g.reads, ∀ w, (w = r.t0 ∨ w = r.t1) →
        (∀ e, w = .write e → f.outs.get? e.toNat = some (t.reg r.g)) ∧
        (∀ sd j, w = .slot sd j → ∃ m e src, u.net.get? m = some e ∧ e.dst = .pe pe ∧ e.cls = 0 ∧
          e.body = .token (tokenRaw 0 (t.reg r.g) (s.slotOf a.ctx) pe id (sideNum sd) j.toNat) f.uid src)) ∧
  (∀ (s : State) (pe fid : Nat) (f : Frame) (x : Ctx) (k : Task), s.frame? (frameKey pe fid) = some f → s.committable (frameKey pe fid) f = true → pe < 2048 → fid < 256 →
    s.ckptDue (frameKey pe fid) f = none → s.ctx? f.ctx = some x → s.task? pe f.task = some k → (f.iter = none → k.preempt ≠ .killing) →
    (∀ l, f.iter ≠ none → k.loop = some l → l.uid ≠ f.uid) →
    (∀ e ∈ f.held, (∃ c w, e = .fcset c w) ∨ (∃ c d, e = .trescale c d) ∨ (∃ m v, e = .srw m v ∧ m ≠ 0x0A) ∨ (∃ w, e = .remest w) ∨ (∃ w, e = .pwrhint w) ∨
      e = .ckpt ∨ (∃ p q a r, e = .fence p q a r) ∨ ∃ p q, e = .sbar p q) →
    let seen := f.held.foldl (fun (x : Ctx) e => match e with
      | .fcset c w => { x with fc := setAt c (w.truncate 16) x.fc }
      | .trescale c d => { x with fc := setAt c (rescaled (x.chan c) d).1 x.fc }
      | .srw m v => { x with regs := x.regs.put m v }
      | .pwrhint w => { x with hint := w }
      | _ => x) x
    let queues := fun (t : State) (tgt : Nat) => ∃ a, t.pe.queue = s.pe.queue ++ [a] ∧ a.pe = pe ∧ a.task = f.task ∧ a.ctx = f.ctx ∧ a.addr = tgt ∧ a.iter = none
    ∃ t g y u, exec (.blockCommit pe fid) s = .next t ∧ t.frame? (frameKey pe fid) = some g ∧ g.isOpen = false ∧ g.slots = [] ∧ g.outs = [] ∧ g.stores = [] ∧
      g.outstanding = f.outstanding ∧ SameMemory s t ∧ t.ctx? f.ctx = some y ∧ t.task? pe f.task = some u ∧
      (∀ r ∈ f.stores, ∀ d, r.dropped = false → r.data = some d → ∃ m a, t.mem.accesses.get? m = some a ∧ a.write = true ∧ a.released = true ∧ a.buf = d ∧
        a.cells = r.cells ∧ a.stream = r.stream ∧ a.purpose = .store r.holder) ∧
      (∀ e r v, f.cfg.writes.Nodup → f.cfg.writes[e]? = some r → f.outs.get? e = some v → 0 < r → r < k.regs.length → (∀ v ∈ k.regs, v.kind ≠ .tile) →
        u.regs[r]? = if v.kind = .null then k.regs[r]? else some v) ∧
      y.regs = { seen.regs with status := seen.regs.status ||| f.flags } ∧ y.fc = seen.fc ∧ y.hint = seen.hint ∧ u.steps = k.steps + f.held.count .ckpt ∧
      (∀ p w q, f.held = p ++ .remest w :: q → (∀ v, Effect.remest v ∉ q) → u.estWord = BitVec.ofNat 64 (w.toNat % 2 ^ 32) ∧ u.estCycle = s.sched.cycle) ∧
      (f.iter = none →
        (∀ l, k.loop = some l → u.loop = if l.uid = f.uid then none else some l) ∧
        (∀ tgt, f.branch = some (.goto tgt) → u.stack = k.stack ∧ queues t tgt) ∧
        (∀ tgt r, f.branch = some (.call tgt r) → u.stack = r :: k.stack ∧ queues t tgt) ∧
        (∀ tgt, f.branch = some (.ret tgt) → u.stack = k.stack.drop 1 ∧ queues t tgt) ∧
        (∀ i, f.branch = some (.tend i) → u.ending = some (srcOf (frameKey pe fid) f i) ∧ t.pe.queue = s.pe.queue)) ∧
      ∀ j l, f.iter = some j → k.loop = some l → l.next ∉ l.started →
        let left := l.started.filter fun i => i != j
        let more := (if 0 < l.step then l.next < l.stop else l.step < 0 ∧ l.stop < l.next) ∧
          (l.brk = none ∨ if 0 < l.step then l.next < l.limit else l.limit < l.next)
        j = l.first + l.committed * l.step ∧ u.stack = k.stack ∧ t.pe.queue = s.pe.queue ∧
        (left ≠ [] ∨ more → u.loop = some { l with started := left, committed := l.committed + 1 }) ∧
        (∀ p i out, left = [] → ¬ more → l.frame < 256 → s.frameOf pe l.frame l.uid = some p → p.cfg.instr l.idx = some i → l.carry.kind ≠ .tile →
          (∀ c ∈ l.carries, c.2.kind ≠ .tile) → (i.hdr.t0 = .none ∨ i.hdr.t0 ≠ i.hdr.t1) →
          (∀ e, i.hdr.t0 = .write e ∨ i.hdr.t1 = .write e → p.outs.get? e.toNat = none) →
          (f.cfg.carryTargets = none → out = l.carry) →
          (f.cfg.carryTargets.isSome = true → out = ((l.carries.find? fun c => c.1 == j).map Prod.snd).getD nullTok) →
          (∃ v, u.loop = some v ∧ v.fin = true ∧ v.committed = l.committed + 1 ∧ v.started = []) ∧
          ∀ w ∈ [(i.hdr.t0, scalarTok (BitVec.ofNat 64 (l.committed + 1))), (i.hdr.t1, out)],
            (∀ e, w.1 = .write e → ∃ g, t.frame? (frameKey pe l.frame) = some g ∧ g.outs.get? e.toNat = some w.2) ∧
            ∀ sd n, w.1 = .slot sd n → ∃ m e src, t.net.get? m = some e ∧ e.dst = .pe pe ∧ e.cls = 0 ∧
              e.body = .token (tokenRaw 0 w.2 (s.slotOf p.ctx) pe l.frame (sideNum sd) n.toNat) p.uid src)) ∧
  (∀ (s : State) (pe fid : Nat) (f : Frame), s.frame? (frameKey pe fid) = some f → f.isOpen = false → f.outstanding = 0 →
    Tab.sorted s.pe.frames = true → (∀ k, s.task? pe f.task = some k → k.preempt ≠ .killing) →
    ∃ t, exec (.frameFree pe fid) s = .next t ∧ t.frame? (frameKey pe fid) = none ∧ ∀ k, k ≠ frameKey pe fid → t.frame? k = s.frame? k) ∧
  (∀ (s : State) (pe task : Nat) (k : Task) (l : Loop), s.task? pe task = some k → k.loop = some l → l.fin = false → l.next ∉ l.paused → l.next ∉ l.started →
    (l.brk = none ∨ (if 0 < l.step then l.next < l.limit else l.limit < l.next)) →
    (if 0 < l.step then l.next < l.stop else l.step < 0 ∧ l.stop < l.next) → l.started.length < l.k → s.issuing k.ctx = true →
    (∀ a ∈ s.pe.queue, a.pe = pe → a.task ≠ task) →
    ∃ t u a, exec (.loopIterationStart pe task) s = .next t ∧ t.task? pe task = some u ∧
      u.loop = some { l with next := l.next + l.step, started := l.started ++ [l.next] } ∧ t.pe.queue = s.pe.queue ++ [a] ∧ a.pe = pe ∧ a.task = task ∧
      a.ctx = k.ctx ∧ a.addr = l.body ∧ a.iter = some l.next)

/-- R87, R226 to R228, R388, R390 to R402, R409, R410, R415, R418: faults, halts and the host. A fault is recorded with its code, Detail, Aux and
source and asks for the halt line, its activation is discarded unless it is kept, and the references of its operands go where its rule says so; the line discards what is not kept, to restart; the halt's
end gives the cause and tells the host of a context the host made; the watchdog raises WATCHDOG at count 0; a doorbell has the Status of an entry read; a
creation makes a context with its registers as reset; the host's answer is written into its request's record, and ends the request. That the line stops every
engine of a context in one action (DESIGN CHOICE, assumption log 36), and where a request's record lies, or that it waits for its place (DESIGN CHOICE, assumption log 37), are the model's
choices. -/
def Obligations.FaultsAndHalts : Prop :=
  (∀ (s : State) (f : Firing) (e : Fail) (fr : Frame) (x : Ctx), s.frame? f.key = some fr → s.ctx? f.fr.ctx = some x → x.state = .running →
    let t := s.failAt f e
    ∃ g y r, t.frame? f.key = some g ∧ g.stat = fr.stat.put f.idx .faulted ∧ g.slots = fr.slots ∧ g.isOpen = fr.isOpen ∧
      (fr.uid = f.fr.uid → g.failed = (fr.failed || (fr.isOpen && !fr.performed && !fr.looped))) ∧ t.ctx? f.fr.ctx = some y ∧ y.faults = x.faults ++ [r] ∧
      r.code = e.code ∧ r.detail = e.detail ∧ r.aux = e.aux ∧ r.src = f.src ∧ r.stamp = s.sched.cycle ∧ y.state = .running ∧
      (x.haltReq = none → y.haltReq = some (s.sched.cycle, 1)) ∧ y.regs = x.regs ∧ SameMemory s t ∧ t.pe.tasks = s.pe.tasks ∧ t.pe.accs = s.pe.accs ∧
      let u := if e.releases then s.dropToks f.pe (f.fr.heldAt f.idx) else s
      t.net = u.net ∧ t.pe.tiles = u.pe.tiles) ∧
  (∀ (s : State) (c : Nat) (x : Ctx) (q r : Nat), s.ctx? c = some x → x.state.issues = true → x.haltReq = some (q, r) → (∀ p ∈ s.pe.tasks, p.2.loop = none) →
    Tab.sorted s.pe.frames = true →
    ∃ t y, exec (.haltLine c) s = .next t ∧ t.ctx? c = some y ∧ y.state = .halting ∧ y.haltReq = none ∧ y.reason = r ∧ y.stopped = s.sched.cycle ∧ y.faults = x.faults ∧
      (∀ k f, s.frame? k = some f → f.ctx = c → f.isOpen = true → f.iter = none → f.performed = false → f.looped = false →
        (∃ a ∈ y.requeue, a.pe = k / 256 ∧ a.task = f.task ∧ a.addr = f.cfg.addr) ∧ ∀ g, t.frame? k = some g → g.isOpen = false) ∧
      (∀ k f, s.frame? k = some f → (f.ctx ≠ c ∨ f.performed = true ∨ f.looped = true) → ∃ g, t.frame? k = some g ∧ g.isOpen = f.isOpen)) ∧
  (∀ (l : List FaultRec) (r : FaultRec), causeOf l = some r → r ∈ l ∧ ∀ p ∈ l,
    r.stamp < p.stamp ∨ (r.stamp = p.stamp ∧ (r.code.priority < p.code.priority ∨ (r.code.priority = p.code.priority ∧ (r.src.pe < p.src.pe ∨
      (r.src.pe = p.src.pe ∧ (r.src.frame < p.src.frame ∨ (r.src.frame = p.src.frame ∧ r.src.idx ≤ p.src.idx)))))))) ∧
  (∀ (s : State) (c : Nat) (x : Ctx), s.ctx? c = some x → x.state = .halting →
    ∃ t y, exec (.haltComplete c) s = .next t ∧ t.ctx? c = some y ∧ y.state = .halted ∧ y.faults = [] ∧
      (∀ r, x.reason = 1 → causeOf x.faults = some r → y.code = r.code.num ∧ y.stops.head? = some r) ∧
      (x.hostMade = true → ∃ k r, t.dev.requests.get? k = some r ∧ r.kind = 1 ∧ r.ctx = c ∧ r.addr = BitVec.ofNat 64 x.stopBase ∧
        r.arg = BitVec.ofNat 64 (x.reason * 256 + y.code))) ∧
  (∀ (s : State) (c : Nat) (x : Ctx), s.ctx? c = some x → x.state = .running → x.regs.wdog ≠ 0 → x.wdCount = 0 → x.haltReq = none →
    ∃ t y r, exec (.watchdog c) s = .next t ∧ t.ctx? c = some y ∧ y.faults = x.faults ++ [r] ∧ r.code = .watchdog ∧ r.noInstr = true ∧
      r.detail.toNat = (if x.regs.wdog.toNat < 190000 then 190000 else x.regs.wdog.toNat) ∧ y.haltReq = some (s.sched.cycle, 1)) ∧
  (∀ (s : State) (n off m : Nat) (e : Env) (data : List Byte) (part : Option Nat) (acc : Option (Nat × Nat)) (q : FaultEntry), s.msg? n = some e →
    s.first n e = true → e.body = .devWrite off data part acc → isFaultDoorbell off = true → s.mem.entries = [(m, q)] →
    let st := (s.readByte (q.pa + 15)).toNat
    let does := fun (t : State) => exec (.faultQueueDoorbell n) s = .next (t.performed acc)
    (st = 1 → does ((s.taken n).retryEntry m q)) ∧ (st = 2 → does ((s.taken n).failEntry m q)) ∧ (st ≠ 1 → st ≠ 2 → does (s.taken n))) ∧
  (∀ (s : State) (n p : Nat) (data : List Byte) (part : Option Nat) (acc : Option (Nat × Nat)), p < 256 →
    s.devMsg n = some (0x18000 + p * 0x10000, data, part, acc) →
    let pa := leNat data
    let d := ctxDescOf ((s.taken n).readBytes pa 64)
    let t := (s.taken n).hostCreate p pa
    exec (.create n) s = .next (t.performed acc) ∧
      (∀ c slot, s.tdiIs p .run = true → s.powered = true → pa % 64 = 0 → pa < 2 ^ 40 → s.ownerOf pa = p → s.poisoned pa = false → (s.taken n).createCheck d p true = .ok (c, slot) →
        0 < c ∧ s.ctx? c = none ∧ ∃ x, t.ctx? c = some x ∧ x.state = .running ∧ x.slot = slot ∧ x.asid = d.asid ∧ x.part = p ∧ x.mgr = true ∧ x.root = d.root ∧
          x.hostMade = true ∧ x.dieMask = d.dies ∧ x.fc = List.replicate 32 0 ∧
          x.regs = { prio := d.prio, mmrev := 1, fmode := 0, zskip := 1, rseed := 0, wdog := 95000000, silwin := 38000, spillq := d.spillq, fquota := d.fquota
                     status := 0, fltq := 0, timg := 0 }) ∧
      (s.tdiIs p .run = false ∨ s.powered = false → t.ctxs = s.ctxs)) ∧
  (∀ (s : State) (k status : Nat) (reply : Word) (r : HostReq), s.dev.requests.get? k = some r →
    (r.place = none → exec (.hostReply k status reply) s = .fault (.notEnabled "HOST_REPLY")) ∧
    ∀ a, r.place = some a → s.dev.hostUp = true → s.powered = true → r.status = 0 → status = 1 ∨ status = 2 → Tab.sorted s.dev.requests = true →
      (∀ q ∈ s.dev.requests, q ≠ (k, r) → ∀ b, q.2.place = some b → b + 32 ≤ a ∨ a + 32 ≤ b) →
      let w := (s.hostWrite (a + 24) (leBytes 8 reply.toNat)).hostWrite (a + 2) (leBytes 1 status)
      let v := BitVec.ofNat 64 (leNat (w.readBytes (a + 24) 8))
      let u := w.dropRequest k
      let does := fun (t : State) => exec (.hostReply k status reply) s = .next t
      (s.lineOf a = none → Memory.wf s.mem.bytes = true → a % 32 = 0 → v = reply ∧ (w.readByte (a + 2)).toNat = status) ∧
      ((w.readByte (a + 2)).toNat = status →
        (r.kind = 4 → s.issuing r.ctx = true →
          does (((u.answered r.src).reply .host 1 r.dests (scalarTok v) r.src).reply .host 1 r.sdests (scalarTok (BitVec.ofNat 64 status)) r.src)) ∧
        (r.kind = 4 → s.issuing r.ctx = false →
          does { w with dev := { w.dev with requests := w.dev.requests.put k { r with status := status, reply := v } } }) ∧
        (r.kind = 2 → does (u.segmentReply r.src.block (status == 1))) ∧ (r.kind = 6 → does (u.hostConfig k (status == 1) v)) ∧
        (r.kind ≠ 2 → r.kind ≠ 4 → r.kind ≠ 6 → does u)))

/-- R66, R424 to R433, R439, R448, R452, R458: the Kilns and traces. A PE loads the entry of an Open frame's block or of a queued activation's into its
window, asks for it where there is none, or raises NONCODE_BLOCK; a Kiln serves the most urgent request and caches what it reads; an invalidation leaves no entry of the
blocks that is not stale; a sample that a PE has taken is written as its trace record, once. -/
def Obligations.KilnEvents : Prop :=
  (∀ (s : State) (pe addr k : Nat) (f : Frame) (e : TcEntry), s.unloaded pe addr = some (k, f) →
    s.kiln.entries.find? (fun e => e.die == pe / 256 && e.cfg.num == f.cfg.num) = some e →
    ∃ t, exec (.configLoad pe addr) s = .next t ∧ t.inWindow pe e.cfg.num = true) ∧
  (∀ (s : State) (pe addr : Nat) (a : Activation), s.unloaded pe addr = none → s.wanting pe addr = some a →
    (s.objectOf a.ctx addr = none → ∃ t, exec (.configLoad pe addr) s = .next t ∧ ∀ x, s.ctx? a.ctx = some x → x.state = .running → ∃ y r, t.ctx? a.ctx = some y ∧
      y.faults = x.faults ++ [r] ∧ r.code = .noncodeBlock ∧ r.header = true ∧ r.src.block = a.addr) ∧
    (∀ n o e, s.objectOf a.ctx addr = some (n, o) → s.entryOf (pe / 256) a.ctx addr = some e →
      (e.cfg.ty = .code ∨ e.cfg.ty = .actor) → a.iter = none →
      ∃ t, exec (.configLoad pe addr) s = .next t ∧ t.inWindow pe e.cfg.num = true ∧ { a with cfg := some e.cfg } ∈ t.pe.queue) ∧
    (∀ n o x, s.objectOf a.ctx addr = some (n, o) → s.entryOf (pe / 256) a.ctx addr = none → s.ctx? a.ctx = some x → x.regs.fmode % 2 = 0 →
      (∀ r ∈ s.kiln.reqs, r.addr ≠ a.addr) →
      ∃ t r, exec (.configLoad pe addr) s = .next t ∧ t.kiln.reqs = s.kiln.reqs ++ [r] ∧ r.die = a.pe / 256 ∧ r.ctx = a.ctx ∧ r.obj = n ∧ r.addr = a.addr ∧
        r.whom = .demand a.pe a.task ∧ r.host = none)) ∧
  (∀ (s : State) (d : Nat) (r : KReq), s.nextTranslation d = some r →
    (r ∈ s.kiln.reqs ∧ r.die = d ∧ r.host = none ∧ r.entry = none ∧
      ∀ q ∈ s.kiln.reqs, q.die = d → q.host = none → q.entry = none → s.kilnRank r ≤ s.kilnRank q) ∧
    (∀ e, s.entryOf d r.ctx r.addr = some e → exec (.kilnTranslate d) s = .next (s.settleReq r e)) ∧
    (∀ o c, s.entryOf d r.ctx r.addr = none → s.kiln.objects.get? r.obj = some o → s.parseAt r.ctx r.obj o r.addr r.read = .ok c →
      ∃ t e, exec (.kilnTranslate d) s = .next t ∧ e ∈ t.kiln.entries ∧ e.die = d ∧ e.ctx = r.ctx ∧ e.cfg = { c with num := s.sched.serial } ∧ e.stale = false) ∧
    (∀ o b, s.entryOf d r.ctx r.addr = none → s.kiln.objects.get? r.obj = some o → s.parseAt r.ctx r.obj o r.addr r.read = .fault b →
      ∃ ty, exec (.kilnTranslate d) s = .next (s.failReq r ty b.code b.idx 0))) ∧
  (∀ (s : State) (n die c job : Nat) (e : Env) (addrs : List Nat), s.msg? n = some e → s.first n e = true → e.body = .inval die addrs c job →
    ∃ t, exec (.invalidationEffect n) s = .next t ∧
      (∀ q ∈ t.kiln.entries, q.die = die → q.ctx = c → q.cfg.addr ∈ addrs → q.stale = true ∧ q.pinned = false) ∧
      ∀ j, s.kiln.jobs.get? job = some j → (1 < j.left → t.kiln.jobs.get? job = some { j with left := j.left - 1 }) ∧
        (j.left ≤ 1 → ∀ d ∈ j.dests, ∃ m g, t.net.get? m = some g ∧ g.dst = .pe d.pe ∧ g.body = .reply d zeroTok j.src)) ∧
  (∀ (s : State) (c pe : Nat) (x : Ctx) (w : TraceCfg), s.ctx? c = some x → x.trace = some w →
    (∀ q, s.sampleDue c pe = some q → q ∈ w.samples ∧ q.pe = pe ∧
      exec (.traceSample c pe) s = .next ((s.setCtx c { x with trace := some { w with samples := w.samples.erase q } }).traceRecord c q.cycle
        { type := 1, cls := q.cls, detail := q.detail, src := q.src, pe := pe
          a := (q.src.bind fun k => k.iter).elim 0 fun i => (i % 2 ^ 64).toNat, b := q.src.elim 0 fun k => k.block })) ∧
    ((∀ q ∈ w.samples, q.pe ≠ pe) → exec (.traceSample c pe) s = .fault (.notEnabled "TRACE_SAMPLE")) ∧
    (w.k ≠ 0 → s.sched.cycle % 2 ^ w.k = 0 → ∃ y v, (s.takeSamples c).ctx? c = some y ∧ y.trace = some v ∧ (∃ l, v.samples = w.samples ++ l) ∧
      ∀ p, x.onDie (p / 256) = true → p < 2048 → ((s.classify c p).cls ≠ 4 ∨ w.omitIdle = false) → ∃ q ∈ v.samples, q.pe = p ∧ q.cycle = s.sched.cycle ∧
        q.cls = (s.classify c p).cls ∧ q.detail = (s.classify c p).detail ∧ q.src = (s.classify c p).src.map Prod.fst))

/-- R230, R467 to R471, R474, R482: device registers, the bridge and ownership. A write of an aperture size, of PKGNO or of a plain register takes its effect
at the device or is ignored where the rule says so, and one that its partition has frozen is an error of that partition. A host access from the powered
device's link is refused where it does not lie in its BAR or its partition may not make it (0x0A); else a register write is posted, register by register, an
HBM write performed, and a read answered, after the function's posted writes. The bridge's link goes and returns, and the vectors of the requests that wait
are sent. A page goes to its new owner once nothing is on its way to it: one that leaves a confidential partition for another reads zero, one of the
operator's reads as its new owner's key decrypts it, and every byte outside it is kept. That a register whose use no rule states keeps what is written to it
(DESIGN CHOICE, assumption log 88), the offsets by which a register is known (DESIGN CHOICE, assumption log 9), the vectors as the link returns (DESIGN CHOICE, assumption log 37) and that an ownership
change waits for what is on its way (DESIGN CHOICE, assumption log 125) are the model's choices. -/
def Obligations.DeviceRegisters : Prop :=
  (∀ (s : State) (n off : Nat) (data : List Byte) (part : Option Nat) (acc : Option (Nat × Nat)), s.devMsg n = some (off, data, part, acc) →
    let u := s.taken n
    let w := u.devPut off data
    let does := fun (i : Instr) (t : State) => exec i s = .next (t.performed acc)
    (∀ pe, devKind off = .aperture pe →
      let v := w.devNat (off / 8 * 8) 8
      (s.residentOn pe = false → v ≤ 32 →
        ∃ t, exec (.apertureSizeWrite n) s = .next t ∧ t.aperture pe = v * 65536 ∧ ∀ p, p ≠ pe → t.aperture p = s.aperture p) ∧
      (s.residentOn pe = true ∨ 32 < v → does (.apertureSizeWrite n) u)) ∧
    (devKind off = .pkgno →
      (s.ctxs = [] → w.devNat 0x100 8 < 2 ^ 15 → does (.pkgnoWrite n) w) ∧
      (s.ctxs ≠ [] ∨ 2 ^ 15 ≤ w.devNat 0x100 8 → does (.pkgnoWrite n) u)) ∧
    (devKind off = .plain → s.frozenBy off = none →
      (readOnly off = false → does (.deviceRegisterWrite n) w.enqueueHeld.placeHeld) ∧ (readOnly off = true → does (.deviceRegisterWrite n) u)) ∧
    (devKind off = .plain → ∀ p, s.frozenBy off = some p → does (.deviceRegisterWrite n) (u.toError p)) ∧
    (devKind off = .registration → ∀ p, s.frozenBy off = some p → does (.copyQueueRegistration n) (u.toError p))) ∧
  (∀ (s : State) (a : HostAccess), s.dev.hostUp = true → s.powered = true ∨ s.reportsBoot a = true →
    let span := if a.data = [] then a.len else a.data.length
    let out := fun (o : HostOut) => exec (.hostBarAccess a) s = .next { s with dev := { s.dev with out := o :: s.dev.out } }
    (a.bar0 = true → (256 ≤ a.fn ∨ (0 < a.fn ∧ 0x10000 < a.offset + span) ∨ (a.fn = 0 ∧ 2 ^ 32 < a.offset + span)) → out (.refused 0x0A)) ∧
    (∀ off, a.bar0 = true → regOff a = some off →
      (s.ownsRegs off span a.fn = false → out (.refused 0x0A)) ∧
      (s.ownsRegs off span a.fn = true → a.data ≠ [] → ∃ ws : List (Nat × List Byte), ws.flatMap Prod.snd = a.data ∧
        (∀ p w q, ws = p ++ w :: q → w.1 = off + (p.flatMap Prod.snd).length ∧ w.2 ≠ [] ∧ w.1 % 8 + w.2.length ≤ 8) ∧
        exec (.hostBarAccess a) s = .next (ws.foldl (fun t w => t.post .host .io 0 (.devWrite w.1 w.2 (some a.fn) none)) s)) ∧
      (s.ownsRegs off span a.fn = true → a.data = [] → s.postedBy a.fn = false → out (.read ((List.range a.len).map fun i => s.devByte (off + i))))) ∧
    (a.bar0 = false → s.postedBy a.fn = false →
      (a.data = [] → s.ownsRange a.fn a.offset a.len = true → s.rangePoisoned a.offset a.len = false → out (.read (s.readBytes a.offset a.len))) ∧
      (a.data = [] → s.ownsRange a.fn a.offset a.len = true → s.rangePoisoned a.offset a.len = true → out (.refused 0x22)) ∧
      (a.data = [] → s.ownsRange a.fn a.offset a.len = false → out (.refused 0x0A)) ∧
      (a.data ≠ [] → s.ownsRange a.fn a.offset a.data.length = false → out (.refused 0x0A)) ∧
      (a.data ≠ [] → s.ownsRange a.fn a.offset a.data.length = true → exec (.hostBarAccess a) s = .next (s.hostWrites a.offset a.data).placeHeld))) ∧
  (∀ (s : State), (s.dev.hostUp = true → exec .bridgeLinkLoss s = .next { s with dev := { s.dev with hostUp := false } }) ∧
    (s.dev.hostUp = false → s.dev.down = false → s.dev.power ≠ .d3cold →
      let pending := (s.dev.requests.filter fun p => p.2.place.isSome && p.2.status == 0).map fun p => HostOut.msix p.2.ctx (p.2.kind == 1)
      exec .bridgeLinkReturn s = .next { s with dev := { s.dev with hostUp := true, out := pending.reverse ++ s.dev.out } })) ∧
  (∀ (s : State) (page owner : Nat) (v : Part), s.dev.hostUp = true → s.powered = true → page < 2 ^ 24 → s.part? owner = some v → v.tdi ≠ .locked →
    s.tdiIs (s.ownerOf (page * 65536)) .locked = false → Tab.sorted s.mem.owner = true →
    let old := s.ownerOf (page * 65536)
    let lo := page * 65536
    let does := fun (t : State) => exec (.ownershipChange page owner) s = .next t
    (old = owner → does s) ∧
    (old ≠ owner → s.inFlight lo 65536 = true → exec (.ownershipChange page owner) s = .fault (.notEnabled "OWNERSHIP_CHANGE")) ∧
    (old ≠ owner → s.inFlight lo 65536 = false → (∀ q ∈ s.dev.requests, q.2.place ≠ none ∨ q.2.status ≠ 0) → Memory.wf s.mem.bytes = true →
      (∀ k, s.lineOf k = none) →
      ∃ t, does t ∧ t.ownerOf lo = owner ∧ (∀ k, (k < lo ∨ lo + 65536 ≤ k) → Memory.read t.mem.bytes k = Memory.read s.mem.bytes k) ∧
        ∀ k, lo ≤ k → k < lo + 65536 → Memory.read t.mem.bytes k = if old ≠ 0 then 0 else
          Config.recrypt (Config.memoryKey (s.keyOf 0)) (Config.memoryKey (s.keyOf owner)) (k / 64) (s.readBytes (k / 64 * 64) 64) (k % 64)))

/-- R312, R313, R430, R471 to R475, R478 to R480: TDISP, SPDM, links, boot and power. The interface states follow their requests; an SPDM request is
answered where it may be, with ERROR where it may not; a session's keys key the IDE stream of its TDI or the two directions of its JX link; a link that
fails breaks its channels; a reset measures each stage and stops at the first that fails; a move out of D0 is refused while a context lives. The model's
choices among its clauses: the codes of the SPDM answers and the measurement indices (PRESUMED, assumption log 80), the ERROR that a request out of its order or session
gets and STOP_INTERFACE in every state (DEDUCED, assumption log 87), ERROR for a key installed while the interface is locked (DEDUCED, assumption log 79), the key that
STOP_INTERFACE draws (DESIGN CHOICE, assumption log 126), the measurements of a boot that fails (DEDUCED, assumption log 82), what the device holds after a reset or a loss of power
(assumption logs 83 and 3), and that a throttle only names its die (DESIGN CHOICE, assumption log 84). -/
def Obligations.SecurityAndPower : Prop :=
  (∀ (s : State) (p : Nat) (v : Part), s.part? p = some v → 0 < p →
    s.dev.hostUp = true → s.powered = true →
    let answers := fun (t : State) (code : Nat) (body : List Byte) => ({ t with dev := { t.dev with out := .spdm code body :: t.dev.out } } : State)
    exec (.ideIntegrityFailure p) s = .next (s.toError p) ∧
    (let served := s.dev.version && s.dev.algs && s.boundTo p;
      (served = true →
        (v.tdi = .unlocked → exec (.lockInterfaceRequest p) s = .next (s.setPart p { v with tdi := .locked })) ∧
        (v.tdi ≠ .unlocked → exec (.lockInterfaceRequest p) s = .next (answers s 0x7F [])) ∧
        (v.tdi = .locked → exec (.startInterfaceRequest p) s = .next (s.setPart p { v with tdi := .run })) ∧
        (v.tdi ≠ .locked → exec (.startInterfaceRequest p) s = .next (answers s 0x7F [])) ∧
        ∃ t, exec (.stopInterface p) s = .next t ∧ t.part? p = some { v with tdi := .unlocked, key := some s.dev.keysDrawn, ide := none } ∧
          t.dev.keysDrawn = s.dev.keysDrawn + 1 ∧ ∀ q ∈ t.mem.owner, q.2 ≠ p) ∧
      (served = false → ∀ i ∈ [Instr.lockInterfaceRequest p, .startInterfaceRequest p, .stopInterface p], exec i s = .next (answers s 0x7F []))) ∧
    (∀ key, v.tdi ≠ .locked → (v.keys.filter fun k => k.ident != key.ident).length < 16 →
      exec (.verificationKeyInstall p key) s = .next (s.setPart p { v with keys := (v.keys.filter fun k => k.ident != key.ident) ++ [key] })) ∧
    (∀ key, v.tdi = .locked → exec (.verificationKeyInstall p key) s = .next (s.toError p))) ∧
  (∀ (s : State) (p : Nat) (nd : Bool), s.dev.hostUp = true → s.powered = true → 0 < p → p < 256 → s.part? p = none →
    ∃ t v, exec (.partitionCreation p nd) s = .next t ∧ t.part? p = some v ∧ v.tdi = .unlocked ∧ v.noDebug = nd ∧ v.keys = [] ∧ v.key = some s.dev.keysDrawn ∧
      t.dev.keysDrawn = s.dev.keysDrawn + 1) ∧
  (∀ (s : State), s.dev.hostUp = true → s.dev.power = .d0 → s.dev.down = false →
    exec .getVersion s = .next { s with dev := { s.dev with version := true, out := .spdm 0x04 [0x13] :: s.dev.out } } ∧
    (s.dev.bootFailed = false →
      let answers := fun (i : Instr) (code : Nat) => ∃ body, exec i s = .next { s with dev := { s.dev with out := .spdm code body :: s.dev.out } }
      (s.dev.version = true → answers .getCapabilities 0x61 ∧
        ∃ body, exec .negotiateAlgorithms s = .next { s with dev := { s.dev with algs := true, out := .spdm 0x63 body :: s.dev.out } }) ∧
      (s.dev.version = false → answers .getCapabilities 0x7F ∧ answers .negotiateAlgorithms 0x7F) ∧
      (∀ slot nonce, s.dev.version = true → s.dev.algs = true → answers .getDigests 0x01 ∧ answers (.getCertificate slot) 0x02 ∧ answers (.challenge nonce) 0x03) ∧
      (∀ slot nonce, s.dev.algs = false → answers .getDigests 0x7F ∧ answers (.getCertificate slot) 0x7F ∧ answers (.challenge nonce) 0x7F) ∧
      (∀ p index nonce v, s.dev.version = true → s.dev.algs = true → s.part? p = some v → s.boundTo p = true →
        let gives := fun (code : Nat) (l : List Byte) => exec (.getMeasurements { part := p, index := index } nonce) s = .next { s with dev := { s.dev with out := .spdm code l :: s.dev.out } }
        (index = 0 → gives 0x60 [4]) ∧ (∀ l, 1 ≤ index → index ≤ 4 → s.dev.stages[index - 1]? = some l → gives 0x60 l) ∧
        (index = 255 → ∃ x y, gives 0x60 (s.reportBody p nonce v ++ beBytes 48 x ++ beBytes 48 y)) ∧ (4 < index → index ≠ 255 → gives 0x7F [])) ∧
      (∀ p index nonce, s.dev.version = false ∨ s.dev.algs = false ∨ s.boundTo p = false → answers (.getMeasurements { part := p, index := index } nonce) 0x7F) ∧
      (∀ n, s.dev.version = true → s.dev.algs = true →
        let reaches := fun (i : Instr) (code : Nat) (v : Session) =>
          ∃ t, exec i s = .next t ∧ t.dev.sessions = s.dev.sessions.put n v ∧ ∃ body, t.dev.out = .spdm code body :: s.dev.out
        (∀ p q, s.part? p = some q → s.dev.sessions.get? n = none →
          reaches (.keyExchange n (.host p)) 0x64 { part := p, peer := none, open_ := false, keyGen := 0 }) ∧
        (∀ v, s.dev.sessions.get? n = some v → v.peer = none → (v.open_ = false → reaches (.finish n) 0x65 { v with open_ := true }) ∧
          (v.open_ = true → reaches (.keyUpdate n) 0x69 { v with keyGen := v.keyGen + 1 } ∧
            (∀ q, s.part? v.part = some q →
              ∃ t, exec (.keyUpdate n) s = .next t ∧ t.part? v.part = some { q with ide := some (n, v.keyGen + 1) }) ∧
            ∃ t, exec (.endSession n) s = .next t ∧ t.dev.sessions = s.dev.sessions.del n))))) ∧
  (∀ (s : State) (n l : Nat), s.powered = true → l < 64 →
    let keyed := fun (i : Instr) (v : Session) => ∃ t, exec i s = .next t ∧ t.dev.sessions = s.dev.sessions.put n v ∧ t.link l =
      { s.link l with tx := { key := some s.dev.linkKeys, counter := 0, fails := 0 }, rx := { key := some (s.dev.linkKeys + 1), counter := 0, fails := 0 } } ∧
      t.dev.linkKeys = s.dev.linkKeys + 2
    ((s.link l).up = true → s.dev.sessions.get? n = none →
      exec (.keyExchange n (.peer l)) s = .next (s.setSession n { part := 0, peer := some l, open_ := false, keyGen := 0 })) ∧
    (∀ v, s.dev.sessions.get? n = some v → v.peer = some l → (v.open_ = false → keyed (.finish n) { v with open_ := true }) ∧
      (v.open_ = true → keyed (.keyUpdate n) { v with keyGen := v.keyGen + 1 }))) ∧
  (∀ (s : State) (l : Nat), l < 64 → (s.link l).up = true →
    exec (.linkRetrain l) s = .next (s.resendFlow l) ∧ exec (.linkDown l) s = .next ((s.setLink l { s.link l with up := false }).breakLink l) ∧
    ∀ rx, ∃ t, exec (.jxTagFailure { port := l, rx := rx }) s = .next t ∧ (t.link l).dir (!rx) = (s.link l).dir (!rx) ∧
      ((t.link l).dir rx).key = ((s.link l).dir rx).key ∧ ((t.link l).dir rx).counter = ((s.link l).dir rx).counter ∧
      (((s.link l).dir rx).fails < 2 → (t.link l).up = true ∧ 1 ≤ ((t.link l).dir rx).fails ∧ ((t.link l).dir rx).fails ≤ ((s.link l).dir rx).fails + 1) ∧
      ((t.link l).up = false → 2 ≤ ((s.link l).dir rx).fails ∧ ∀ p ∈ s.tdisAcross l, ∀ v, s.part? p = some v → t.tdiIs p .error = true) ∧
      ((t.link l).up = true → 1 ≤ ((t.link l).dir rx).fails ∧ ((t.link l).dir rx).fails ≤ 2)) ∧
  (∀ (s : State) (b : BootImages),
    let zero := List.replicate 48 (0 : Byte)
    let one := fun (i : BootImage) => sha384 (zero ++ i.digest)
    ∃ t, exec (.reset b) s = .next t ∧ t.ctxs = [] ∧ t.pe = State.reset.pe ∧ t.mem = State.reset.mem ∧ t.chans = [] ∧ t.copies = [] ∧ t.sched.cycle = 0 ∧
      t.dev.stages.head? = some (one b.stage1) ∧
      (b.stage1.verifies = false → t.dev.stages = [one b.stage1, zero, zero, zero] ∧ t.dev.bootFailed = true) ∧
      (b.stage1.verifies = true → b.stage2.verifies = true → b.stage3.verifies = true → (∀ i ∈ b.stage4, i.verifies = true) →
        t.dev.stages = [one b.stage1, one b.stage2, one b.stage3, b.stage4.foldl (fun r i => sha384 (r ++ i.digest)) zero] ∧ t.dev.bootFailed = false)) ∧
  (∀ (s : State), s.dev.down = false → s.dev.hostUp = true → s.dev.bootFailed = false → s.hostPosts = false →
    (s.ctxs ≠ [] → ∀ p ∈ [PowerState.d3hot, .d3cold], exec (.powerStateRequest p) s = .next { s with dev := { s.dev with out := .refused 0 :: s.dev.out } }) ∧
    (s.ctxs = [] → s.dev.power = .d0 → exec (.powerStateRequest .d3hot) s = .next { s with dev := { s.dev with power := .d3hot } } ∧
      ∃ t, exec (.powerStateRequest .d3cold) s = .next t ∧ t.dev.power = .d3cold ∧ t.mem = State.reset.mem) ∧
    (s.dev.power = .d3hot → exec (.powerStateRequest .d0) s = .next { s with dev := { s.dev with power := .d0 } }) ∧
    (∀ d, d < 8 → ∃ t, exec (.thermalThrottle d) s = .next t ∧ d ∈ t.dev.throttled) ∧
    ∃ t, exec .thermalShutdown s = .next t ∧ t.dev.down = true ∧ t.ctxs = [] ∧ t.pe = State.reset.pe ∧ t.dev.hostUp = false ∧ ∀ l, l < 64 → (t.link l).up = false)

/-! ### The machine as a whole: encodings, steps, frames, invariants, reset -/

/-- R46 to R58, R63: decoding gives back every well-formed instruction from its words, with every operand at every value its encoding admits, whatever
words follow. -/
def Obligations.DecodeEncode : Prop :=
  ∀ (i : Instr), i.wf = true → i.isEvent = false →
    (∃ r, encode i = some r ∧ decodeRaw r = .ok i) ∧ encodeWords i ≠ [] ∧ ∀ rest, decodeWords (encodeWords i ++ rest) = .ok (i, rest)

/-- R45 to R51, R57, R63, R65: the decoder answers only well-formed instructions, each from the one encoding it has; a predicate code 11, a reserved
target and an opcode that is no instruction are refused, and so is a second word that does not come. -/
def Obligations.DecoderAnswers : Prop :=
  (∀ (r : Raw) (i : Instr), decodeRaw r = .ok i → i.wf = true ∧ i.isEvent = false ∧
    ∃ q, encode i = some q ∧ q.base = r.base ∧ (Raw.hasSecond r.base = true → q.second = r.second)) ∧
  (∀ (r : Raw),
    let op := r.base.toNat / 2 ^ 25
    (op ∈ [0x07, 0x0F, 0x1E, 0x1F, 0x26, 0x27, 0x33, 0x3B, 0x7F] ∨ (0x54 ≤ op ∧ op < 0x70) ∨ (0x73 ≤ op ∧ op < 0x78) → decodeRaw r = .error .reservedOpcode) ∧
    (0x78 ≤ op → op < 0x7F → decodeRaw r = .error (.extension (op - 0x78))) ∧
    (r.base.toNat / 2 ^ 22 % 4 = 3 → ∀ i, decodeRaw r ≠ .ok i) ∧
    (32 < r.base.toNat % 2 ^ 9 → r.base.toNat % 2 ^ 9 < 128 → ∀ i, decodeRaw r ≠ .ok i) ∧
    (32 < r.base.toNat / 2 ^ 9 % 2 ^ 9 → r.base.toNat / 2 ^ 9 % 2 ^ 9 < 128 → ∀ i, decodeRaw r ≠ .ok i)) ∧
  (∀ (b : Word32), b.toNat / 2 ^ 24 % 2 = 1 → decodeWords [b] = .error .truncated) ∧ decodeWords [] = .error .truncated

/-- R44, R46, R50 to R56: words written out from the spec's layouts, one or more of every group of the opcode grid, are read as the instructions they
stand for. -/
def Obligations.DecodedWords : Prop :=
  decodeTableWord 32 0x420681 = some (.mov { pr := .ifTrue, t1 := .slot .b 3, t0 := .slot .a 1 }) ∧
  decodeTableWord 64 0xDEADBEEF03040001 = some (.constZx { pr := .always, t1 := .none, t0 := .write 0 } 0xDEADBEEF) ∧
  decodeTableWord 64 0xFFFFFFFE0B800000 = some (.br { pr := .ifFalse, t1 := .none, t0 := .none } 0xFFFFFFFE) ∧
  decodeTableWord 64 0xC4FFFFF0D000403 = some (.loop { pr := .always, t1 := .write 1, t0 := .write 2 } { k := 3, cin := 9, step := 0x7FFFF }) ∧
  decodeTableWord 32 0x100400FF = some (.sub { pr := .always, t1 := .none, t0 := .slot .a 127 }) ∧
  decodeTableWord 64 0x5117C0182 = some (.xnorImm { pr := .ifTrue, t1 := .none, t0 := .slot .c 2 } 5) ∧
  decodeTableWord 64 0x8000000013140020 = some (.remImm { pr := .always, t1 := .none, t0 := .write 31 } 0x80000000) ∧
  decodeTableWord 32 0x141C0805 = some (.abs_ { pr := .always, t1 := .write 3, t0 := .write 4 }) ∧
  decodeTableWord 32 0x16140187 = some (.cmp { pr := .always, t1 := .none, t0 := .slot .c 7 } .geu) ∧
  decodeTableWord 64 0xF3F19080001 = some (.bfi { pr := .always, t1 := .none, t0 := .write 0 } { sx := false, pos := 60, width := 63 }) ∧
  decodeTableWord 32 0x1A340105 = some (.ffmaS { pr := .always, t1 := .none, t0 := .slot .b 5 }) ∧
  decodeTableWord 32 0x1C2C0181 = some (.fcmpleD { pr := .always, t1 := .none, t0 := .slot .c 1 }) ∧
  decodeTableWord 64 0x9100000021280401 = some (.cvt { pr := .always, t1 := .write 1, t0 := .write 0 } .f32ToElem { mode := .rs, fc := 17 }) ∧
  decodeTableWord 64 0x3810725000001 = some (.fcset { pr := .always, t1 := .none, t0 := .write 0 } { fromA := false, chan := 3, scale := 0x81, fmt := 7 }) ∧
  decodeTableWord 32 0x26040001 = some (.trescale { pr := .always, t1 := .none, t0 := .write 0 }) ∧
  decodeTableWord 32 0x28140082 = some (.tdiv { pr := .always, t1 := .none, t0 := .slot .a 2 }) ∧
  decodeTableWord 32 0x2A200082 = some (.tgelu { pr := .always, t1 := .none, t0 := .slot .a 2 }) ∧
  decodeTableWord 32 0x34180082 = some (.tcmp { pr := .always, t1 := .none, t0 := .slot .a 2 } .un) ∧
  decodeTableWord 64 0x1FF13B000001 = some (.tnew { pr := .always, t1 := .none, t0 := .write 0 } { fc := 31, rows := 15, cols := 1 }) ∧
  decodeTableWord 32 0x42340001 = some (.mmar { pr := .always, t1 := .none, t0 := .write 0 } { init := true, z := 5 }) ∧
  decodeTableWord 64 0x4645100001 = some (.zload { pr := .always, t1 := .none, t0 := .write 0 } { clr := false, mode := true, z := 6 }) ∧
  decodeTableWord 64 0x18974470C0081 = some (.zdrain { pr := .always, t1 := .none, t0 := .slot .a 1 } 3 { fromA := false, ep := true, slot := 2, fc := 9, rows := 7, cols := 4 }) ∧
  decodeTableWord 64 0x4F749000001 = some (.rcfg { pr := .always, t1 := .none, t0 := .write 0 } { unbind := false, fc := 4, depth := 15, ring := 7 }) ∧
  decodeTableWord 64 0x1E4B000001 = some (.epload { pr := .always, t1 := .none, t0 := .write 0 } { slot := 3, group := 6 }) ∧
  decodeTableWord 64 0xFEFFFFFE51140081 = some (.ld { pr := .always, t1 := .none, t0 := .slot .a 1 } { sx := true, width := .half } { lsid := 31, stream := 6, disp := 0xFFFFFE }) ∧
  decodeTableWord 64 0x2100000855080000 = some (.st { pr := .always, t1 := .none, t0 := .none } .word { lsid := 4, stream := 1, disp := 8 }) ∧
  decodeTableWord 64 0x1709F8005D000081 = some (.tgath { pr := .always, t1 := .none, t0 := .slot .a 1 } { lsid := 2, stream := 7, fc := 1, rows := 3, cols := 15 }) ∧
  decodeTableWord 64 0x20661300000 = some (.fenceWord { pr := .always, t1 := .none, t0 := .none } .dom { streams := 0x81, order := 2 }) ∧
  decodeTableWord 32 0x64340001 = some (.tlread { pr := .always, t1 := .none, t0 := .write 0 } .tls) ∧
  decodeTableWord 64 0xFFFC0F286B240001 = some (.atomn { pr := .always, t1 := .none, t0 := .write 0 } .cas { disp := 0xFFFC, order := 3, dbl := true, scope := .dom, stream := 5 }) ∧
  decodeTableWord 64 0xB6F040001 = some (.bararr { pr := .always, t1 := .none, t0 := .write 0 } { nw := true, level := .pkg }) ∧
  decodeTableWord 64 0xD86FFFFF71000401 = some (.chopen { pr := .always, t1 := .write 1, t0 := .write 0 } { tile := true, width := 2, fixed := true, reach := .dom, fc := 6, units := 0xFFFFF }) ∧
  decodeTableWord 64 0xFFFEA0057D000001 = some (.cpyr { pr := .always, t1 := .none, t0 := .write 0 } { count := 255, rows := 15, cols := 14, width := 2, wait := true, ring := 5 }) ∧
  decodeTableWord 32 0x80AC0001 = some (.spawn { pr := .ifFalse, t1 := .none, t0 := .write 0 } { place := 2, prio := 3 }) ∧
  decodeTableWord 32 0x8A080401 = some (.dqsteal { pr := .always, t1 := .write 1, t0 := .write 0 }) ∧
  decodeTableWord 64 0xE91040001 = some (.srw { pr := .always, t1 := .none, t0 := .write 0 } 0x0E) ∧
  decodeTableWord 32 0x98080001 = some (.ctxres { pr := .always, t1 := .none, t0 := .write 0 }) ∧
  decodeTableWord 32 0xA0080001 = some (.tcpre { pr := .always, t1 := .none, t0 := .write 0 }) ∧
  decodeTableWord 64 0x5A7040001 = some (.cntrd { pr := .always, t1 := .none, t0 := .write 0 } 5) ∧
  decodeTableWord 64 0x2FFE1240081 = some (.tmac { pr := .always, t1 := .none, t0 := .slot .a 1 } { init := true, z := 1 } { fromA := false, ep := false, slot := 0, fc := 2, rows := 15, cols := 15 }) ∧
  decodeTableWord 64 0x8000010E30C0401 = some (.ldpair { pr := .always, t1 := .write 1, t0 := .write 0 } { sx := false, width := .double } { lsid := 1, stream := 0, disp := 16 }) ∧
  decodeTableWord 32 0xE4000001 = some (.syncall { pr := .always, t1 := .none, t0 := .write 0 })

/-- R22, R78, R424, R475: what a step is. An instruction that issues is the one its frame's words decode to, and the step is `exec` of it there, with its
issue slot taken unless it waits; an event's step is `exec` of its row, with a group counted on each JX link that it crosses; an input's is `exec` of it as it
leaves the inbox; else time passes, and memory and every context stay. A word that does not decode stops the machine. A placed word is the next to issue. The
model's choices here: that a step is one action, named by a plan or a rotation (DESIGN CHOICE, assumption log 5), and may let several cycles pass where nothing is enabled
(DESIGN CHOICE, assumption log 86); the inbox (DESIGN CHOICE, assumption log 8); that each crossing is a group of its own (DESIGN CHOICE, assumption log 127); the stop at a word that does not decode
(DESIGN CHOICE, assumption log 7); and the placed word (DESIGN CHOICE, assumption log 2). -/
def Obligations.StepRunsTheDecodedInstruction : Prop :=
  (∀ (s : State) (k idx : Nat) (i : Instr), Tab.sorted s.pe.frames = true → s.badWord = none → s.nextAction = some (.issue k idx i) →
    ∃ fr raw, s.frame? k = some fr ∧ fr.isOpen = true ∧ s.issuing fr.ctx = true ∧ fr.cfg.code[idx]? = some raw ∧ decodeRaw raw = .ok i ∧
      (∀ sd ∈ i.required, (fr.operand idx sd).isSome = true) ∧
      ∀ t, exec i (s.popped.focus k idx) = .next t →
        step s = .next (if t.waits k idx then t else t.tookSlot s.popped.contenders { k := k, f := fr, idx := idx, i := i } s.popped)) ∧
  (∀ (s : State) (e : Event), s.badWord = none → s.nextAction = some (.event e) → ∀ i, eventOf i = some e →
    (∀ t, exec i s.popped = .next t → step s = .next ((s.popped.crossed t e).foldl State.grouped t)) ∧
    ((∀ t, exec i s.popped ≠ .next t) → step s = exec i s.popped)) ∧
  (∀ (s : State) (pkg : Nat), ∃ ls, s.grouped pkg = { s with dev := { s.dev with links := ls } } ∧ ∀ l, (s.grouped pkg).link l =
    if l = Config.linkOf pkg then { s.link l with tx := { (s.link l).tx with counter := (s.link l).tx.counter + 1 }
                                                  rx := { (s.link l).rx with counter := (s.link l).rx.counter + 1 } } else s.link l) ∧
  (∀ (i : Instr) (e : Event) (s : State), eventOf i = some e → e.run s = exec i s) ∧
  (∀ (s : State) (i : Instr), s.badWord = none → s.nextAction = some (.input i) →
    step s = exec i { s.popped with sched := { s.popped.sched with inbox := s.sched.inbox.tail } }) ∧
  (∀ (s : State), s.badWord = none → s.nextAction = none →
    ∃ t n, step s = .next t ∧ 1 ≤ n ∧ t.sched.cycle = s.sched.cycle + n ∧ t.mem = s.mem ∧ t.net = s.net ∧ t.pe.tasks = s.pe.tasks ∧
      ∀ c, (t.ctx? c).map Ctx.regs = (s.ctx? c).map Ctx.regs) ∧
  (∀ (s : State) (r : Reject), s.badWord = some r → step s = .refused (.illFormed r)) ∧
  (∀ (nbits w : Nat) (i : Instr), decodeRaw (rawOfWord nbits w) = .ok i →
    (State.reset.withFetchWord nbits w).badWord = none ∧ (State.reset.withFetchWord nbits w).nextAction = some (.issue 0 0 i))

/-- R77 to R80, R84, R112, R226, R345, R410: the frames of instructions. One that only computes changes nothing but its own frame's operands, sends and flags, the
references of tiles, and what it sends; one that loads, stores, orders, branches, loops or uses the matrix engine leaves every byte of memory, every
general register and the registers of every context; one that acts through another unit leaves every register as it was, and every byte of memory but for
the record of HCALL and the slots and header of CPQPOST, unless it meets a page fault that a fault-queue entry reports. -/
def Obligations.InstructionFrames : Prop :=
  (∀ (s t : State) (h : Hdr) (im : Option (BitVec 32)) (w : BitVec 32) (dbl : Bool),
    (∀ o : IntOp, exec (o.instr h im) s = .next t → KeepsUnits s t) ∧ (∀ o : BitOp, exec (o.instr h) s = .next t → KeepsUnits s t) ∧
    (∀ o : FpOp, exec (o.instr dbl h) s = .next t → KeepsUnits s t) ∧ (∀ o : TileOp, exec (o.instr h) s = .next t → KeepsUnits s t) ∧
    (∀ o : UnFn, exec (o.instr h) s = .next t → KeepsUnits s t) ∧
    (∀ k c, exec (.cvt h k c) s = .next t → KeepsUnits s t) ∧ (∀ c, exec (.tcvt h c) s = .next t → KeepsUnits s t) ∧
    (∀ c, exec (.fcget h c) s = .next t → KeepsUnits s t) ∧ (∀ c, exec (.tcmp h c) s = .next t → KeepsUnits s t) ∧
    (∀ c, exec (.tnew h c) s = .next t → KeepsUnits s t) ∧
    ∀ i ∈ [Instr.mov h, .const_ h w, .constZx h w, .consth h w, .null_ h, .sel h, .gate h, .tand h, .tor h, .txor h, .tfma h, .tsplat h, .trowb h, .tcolb h,
        .trsum h, .tcsum h, .trmax h, .tcmax h, .tsum h, .ttrans h, .tmask h, .tsel h, .telget h, .telset h, .trel h, .tcopy h, .tamax h],
      exec i s = .next t → KeepsUnits s t) ∧
  (∀ (s t : State) (h : Hdr) (w : BitVec 32) (x : LoadX) (m : MemW) (g : TmemW),
    (∀ wd, exec (.st h wd m) s = .next t → KeepsMemory s t) ∧ (∀ sc, exec (.fence h sc) s = .next t → KeepsMemory s t) ∧
    (∀ sc v, exec (.fenceWord h sc v) s = .next t → KeepsMemory s t) ∧ (∀ v, exec (.sbar h v) s = .next t → KeepsMemory s t) ∧
    (∀ tl, exec (.tlread h tl) s = .next t → KeepsMemory s t) ∧ (∀ tl, exec (.tlwait h tl) s = .next t → KeepsMemory s t) ∧
    (∀ a, exec (.mma h a) s = .next t → KeepsMemory s t) ∧ (∀ a, exec (.mmar h a) s = .next t → KeepsMemory s t) ∧
    (∀ a d, exec (.tmac h a d) s = .next t → KeepsMemory s t) ∧ (∀ z d, exec (.zdrain h z d) s = .next t → KeepsMemory s t) ∧
    (∀ a : AccW, ∀ i ∈ [Instr.zinit h a, .zclrf h a, .zflags h a, .zscale h a, .zload h a], exec i s = .next t → KeepsMemory s t) ∧
    (∀ r : RingW, ∀ i ∈ [Instr.rcfg h r, .rpush h r, .rpop h r, .rstat h r], exec i s = .next t → KeepsMemory s t) ∧
    (∀ e, exec (.epload h e) s = .next t → KeepsMemory s t) ∧ (∀ e, exec (.eparg h e) s = .next t → KeepsMemory s t) ∧
    (∀ l, exec (.loop h l) s = .next t → KeepsMemory s t) ∧ (∀ c, exec (.fcset h c) s = .next t → KeepsMemory s t) ∧
    ∀ i ∈ [Instr.ld h x m, .ldr h x m, .ldpair h x m, .tld h g, .tldr h g, .tst h g, .tgath h g, .tscat h g, .br h w, .bri h, .call h w, .calli h, .ret h, .iter h,
        .carry h, .lbreak h, .tend h, .trescale h, .srr h w, .srw h w, .trap h w, .ckpt h, .remest h, .remestImm h w, .pwrhint h w, .acfree h, .cpstat h, .yield_ h],
      exec i s = .next t → KeepsMemory s t) ∧
  (∀ (s t : State) (h : Hdr) (op : AtomOp) (at_ : AtomW) (bw : BarW) (cw : ChopenW) (c1 : Cpy1W) (cr : CpyrW) (x : SpawnX) (w : BitVec 32),
    ∀ i ∈ [Instr.atom h op at_, .atomn h op at_, .acbind h, .acexpect h, .acread h, .barinit h bw, .bararr h bw, .bartry h bw, .syncall h, .chopen h cw, .chclose h,
        .chstat h, .chsend h, .chtrys h, .chrecv h, .chtryr h, .cpy h, .cpy1 h c1, .cpyr h cr, .spawn h x, .spawnd h x, .jnew h, .jdec h, .fnew h, .fres h, .freg h,
        .fget h, .dqpush h, .dqpop h, .dqsteal h, .wqput h, .wqget h, .ctxnew h, .ctxhalt h, .ctxres h, .hbeat h, .atinv h, .tcinv h, .tcpin h, .tcpre h, .objload h,
        .trace h, .mark h w, .brk h, .cntrd h w],
      exec i s = .next t → t.mem.entries = s.mem.entries → SameMemory s t ∧ KeepsRegisters s t) ∧
  (∀ (s t : State) (f : Firing) (h : Hdr) (w : BitVec 32), s.firing (.hcall h w) = some f → exec (.hcall h w) s = .next t →
    KeepsRegisters s t ∧ ((∀ q ∈ s.dev.requests, q.2.place ≠ none ∨ q.2.status ≠ 0) →
      ∀ key, (∀ a, s.hostPlace f.fr.ctx = some a → key < a ∨ a + 32 ≤ key) → t.readByte key = s.readByte key)) ∧
  (∀ (s t : State) (f : Firing) (h : Hdr), s.firing (.cpqpost h) = some f → exec (.cpqpost h) s = .next t → t.mem.entries = s.mem.entries →
    KeepsRegisters s t ∧ ∀ key, (∀ qi q, s.queueAt f.fr.ctx f.a.val.toNat = some (qi, q) → (key < q.headerPa ∨ q.headerPa + 8 ≤ key) ∧
      ∀ i, s.read64 q.headerPa ≤ i → i < s.read64 (q.headerPa + 8) + q.slots → key < q.slotPa i ∨ q.slotPa i + 64 ≤ key) → t.readByte key = s.readByte key)

/-- R247, R470, and the model's own form of memory: a step that goes on keeps memory and the device registers in their canonical form, from every
state that has it, whatever runs: each address listed once, in rising order, and no byte listed that is what an unlisted byte reads as (the model's choice,
DESIGN CHOICE, assumption log 3). -/
def Obligations.MemoryKeepsItsForm : Prop :=
  ∀ (s t : State), Memory.wf s.mem.bytes = true → Memory.wf s.dev.regs = true → step s = .next t →
    Memory.wf t.mem.bytes = true ∧ Memory.wf t.dev.regs = true

/-- R247, R470: memory and the device registers have the model's own form at reset (DESIGN CHOICE, assumption log 3): nothing is listed twice, and no byte that is
what an unlisted one reads as. -/
def Obligations.MemoryHasItsFormAtReset : Prop :=
  Memory.wf State.reset.mem.bytes = true ∧ Memory.wf State.reset.dev.regs = true

/-- R157, R391, R472, R478, R482: what reset leaves. The generation of every tile slot is 0, CYCLE and PKGNO are 0, the four stage registers are zero,
no context, task, frame, channel, counter or copy is there and nothing is in flight, power is D0, and no partition is there but partition 0. That the tables are
empty, that power is D0 and that no other partition is there are the model's choices (DESIGN CHOICE, assumption log 1). -/
def Obligations.ResetState : Prop :=
  (∀ pe slot, (State.reset.tileSlot pe slot).gen = 0 ∧ (State.reset.tileSlot pe slot).count = 0) ∧ State.reset.sched.cycle = 0 ∧
    State.reset.devNat 0x100 8 = 0 ∧ State.reset.dev.stages = List.replicate 4 (List.replicate 48 0) ∧ State.reset.ctxs = [] ∧ State.reset.pe.tasks = [] ∧
    State.reset.pe.frames = [] ∧ State.reset.pe.queue = [] ∧ State.reset.chans = [] ∧ State.reset.copies = [] ∧ State.reset.sync.counters = [] ∧ State.reset.net = [] ∧
    State.reset.mem.tlb = [] ∧ State.reset.kiln.objects = [] ∧ State.reset.kiln.entries = [] ∧ State.reset.dev.sessions = [] ∧ State.reset.dev.power = .d0 ∧
    ∀ p v, State.reset.part? p = some v → p = 0
end

