-- ==== Sys2Proof/Laws/State.lean ====
section
/-! SUPPORT. What each update of the state does to each of its fields: one lemma per field per update. -/

set_option Elab.async false

namespace Sys2Proof.Machine

@[simp] theorem bump_pe (s : State) : (s.bump).pe = s.pe := rfl
@[simp] theorem bump_ctxs (s : State) : (s.bump).ctxs = s.ctxs := rfl
@[simp] theorem bump_mem (s : State) : (s.bump).mem = s.mem := rfl
@[simp] theorem bump_sync (s : State) : (s.bump).sync = s.sync := rfl
@[simp] theorem bump_chans (s : State) : (s.bump).chans = s.chans := rfl
@[simp] theorem bump_copies (s : State) : (s.bump).copies = s.copies := rfl
@[simp] theorem bump_task (s : State) : (s.bump).task = s.task := rfl
@[simp] theorem bump_kiln (s : State) : (s.bump).kiln = s.kiln := rfl
@[simp] theorem bump_dev (s : State) : (s.bump).dev = s.dev := rfl
@[simp] theorem bump_net (s : State) : (s.bump).net = s.net := rfl
@[simp] theorem bump_sched_cycle (s : State) : (s.bump).sched.cycle = s.sched.cycle := rfl
@[simp] theorem bump_sched_plan (s : State) : (s.bump).sched.plan = s.sched.plan := rfl
@[simp] theorem bump_sched_turn (s : State) : (s.bump).sched.turn = s.sched.turn := rfl
@[simp] theorem bump_sched_serial (s : State) : (s.bump).sched.serial = s.sched.serial + 1 := rfl
@[simp] theorem bump_sched_free (s : State) : (s.bump).sched.free = s.sched.free := rfl
@[simp] theorem bump_sched_inbox (s : State) : (s.bump).sched.inbox = s.sched.inbox := rfl
@[simp] theorem bump_sched_pe (s : State) : (s.bump).sched.pe = s.sched.pe := rfl
@[simp] theorem bump_sched_frame (s : State) : (s.bump).sched.frame = s.sched.frame := rfl
@[simp] theorem bump_sched_idx (s : State) : (s.bump).sched.idx = s.sched.idx := rfl

@[simp] theorem drawn_pe (s : State) : (s.drawn).pe = s.pe := rfl
@[simp] theorem drawn_ctxs (s : State) : (s.drawn).ctxs = s.ctxs := rfl
@[simp] theorem drawn_mem (s : State) : (s.drawn).mem = s.mem := rfl
@[simp] theorem drawn_sync (s : State) : (s.drawn).sync = s.sync := rfl
@[simp] theorem drawn_chans (s : State) : (s.drawn).chans = s.chans := rfl
@[simp] theorem drawn_copies (s : State) : (s.drawn).copies = s.copies := rfl
@[simp] theorem drawn_task (s : State) : (s.drawn).task = s.task := rfl
@[simp] theorem drawn_kiln (s : State) : (s.drawn).kiln = s.kiln := rfl
@[simp] theorem drawn_dev (s : State) : (s.drawn).dev = s.dev := rfl
@[simp] theorem drawn_net (s : State) : (s.drawn).net = s.net := rfl
@[simp] theorem drawn_sched_cycle (s : State) : (s.drawn).sched.cycle = s.sched.cycle := rfl
@[simp] theorem drawn_sched_plan (s : State) : (s.drawn).sched.plan = s.sched.plan := rfl
@[simp] theorem drawn_sched_turn (s : State) : (s.drawn).sched.turn = s.sched.turn := rfl
@[simp] theorem drawn_sched_serial (s : State) : (s.drawn).sched.serial = s.sched.serial := rfl
@[simp] theorem drawn_sched_free (s : State) : (s.drawn).sched.free = s.sched.free + 1 := rfl
@[simp] theorem drawn_sched_inbox (s : State) : (s.drawn).sched.inbox = s.sched.inbox := rfl
@[simp] theorem drawn_sched_pe (s : State) : (s.drawn).sched.pe = s.sched.pe := rfl
@[simp] theorem drawn_sched_frame (s : State) : (s.drawn).sched.frame = s.sched.frame := rfl
@[simp] theorem drawn_sched_idx (s : State) : (s.drawn).sched.idx = s.sched.idx := rfl

@[simp] theorem popped_pe (s : State) : (s.popped).pe = s.pe := rfl
@[simp] theorem popped_ctxs (s : State) : (s.popped).ctxs = s.ctxs := rfl
@[simp] theorem popped_mem (s : State) : (s.popped).mem = s.mem := rfl
@[simp] theorem popped_sync (s : State) : (s.popped).sync = s.sync := rfl
@[simp] theorem popped_chans (s : State) : (s.popped).chans = s.chans := rfl
@[simp] theorem popped_copies (s : State) : (s.popped).copies = s.copies := rfl
@[simp] theorem popped_task (s : State) : (s.popped).task = s.task := rfl
@[simp] theorem popped_kiln (s : State) : (s.popped).kiln = s.kiln := rfl
@[simp] theorem popped_dev (s : State) : (s.popped).dev = s.dev := rfl
@[simp] theorem popped_net (s : State) : (s.popped).net = s.net := rfl
@[simp] theorem popped_sched_cycle (s : State) : (s.popped).sched.cycle = s.sched.cycle := rfl
@[simp] theorem popped_sched_plan (s : State) : (s.popped).sched.plan = s.sched.plan.tail := rfl
@[simp] theorem popped_sched_turn (s : State) : (s.popped).sched.turn = s.sched.turn + 1 := rfl
@[simp] theorem popped_sched_serial (s : State) : (s.popped).sched.serial = s.sched.serial := rfl
@[simp] theorem popped_sched_free (s : State) : (s.popped).sched.free = s.sched.free := rfl
@[simp] theorem popped_sched_inbox (s : State) : (s.popped).sched.inbox = s.sched.inbox := rfl
@[simp] theorem popped_sched_pe (s : State) : (s.popped).sched.pe = s.sched.pe := rfl
@[simp] theorem popped_sched_frame (s : State) : (s.popped).sched.frame = s.sched.frame := rfl
@[simp] theorem popped_sched_idx (s : State) : (s.popped).sched.idx = s.sched.idx := rfl

@[simp] theorem focus_pe (s : State) (k idx : Nat) : (s.focus k idx).pe = s.pe := rfl
@[simp] theorem focus_ctxs (s : State) (k idx : Nat) : (s.focus k idx).ctxs = s.ctxs := rfl
@[simp] theorem focus_mem (s : State) (k idx : Nat) : (s.focus k idx).mem = s.mem := rfl
@[simp] theorem focus_sync (s : State) (k idx : Nat) : (s.focus k idx).sync = s.sync := rfl
@[simp] theorem focus_chans (s : State) (k idx : Nat) : (s.focus k idx).chans = s.chans := rfl
@[simp] theorem focus_copies (s : State) (k idx : Nat) : (s.focus k idx).copies = s.copies := rfl
@[simp] theorem focus_task (s : State) (k idx : Nat) : (s.focus k idx).task = s.task := rfl
@[simp] theorem focus_kiln (s : State) (k idx : Nat) : (s.focus k idx).kiln = s.kiln := rfl
@[simp] theorem focus_dev (s : State) (k idx : Nat) : (s.focus k idx).dev = s.dev := rfl
@[simp] theorem focus_net (s : State) (k idx : Nat) : (s.focus k idx).net = s.net := rfl
@[simp] theorem focus_sched_cycle (s : State) (k idx : Nat) : (s.focus k idx).sched.cycle = s.sched.cycle := rfl
@[simp] theorem focus_sched_plan (s : State) (k idx : Nat) : (s.focus k idx).sched.plan = s.sched.plan := rfl
@[simp] theorem focus_sched_turn (s : State) (k idx : Nat) : (s.focus k idx).sched.turn = s.sched.turn := rfl
@[simp] theorem focus_sched_serial (s : State) (k idx : Nat) : (s.focus k idx).sched.serial = s.sched.serial := rfl
@[simp] theorem focus_sched_free (s : State) (k idx : Nat) : (s.focus k idx).sched.free = s.sched.free := rfl
@[simp] theorem focus_sched_inbox (s : State) (k idx : Nat) : (s.focus k idx).sched.inbox = s.sched.inbox := rfl
@[simp] theorem focus_sched_pe (s : State) (k idx : Nat) : (s.focus k idx).sched.pe = k / 256 := rfl
@[simp] theorem focus_sched_frame (s : State) (k idx : Nat) : (s.focus k idx).sched.frame = k % 256 := rfl
@[simp] theorem focus_sched_idx (s : State) (k idx : Nat) : (s.focus k idx).sched.idx = idx := rfl

@[simp] theorem setFrame_pe_frames (s : State) (k : Nat) (f : Frame) : (s.setFrame k f).pe.frames = s.pe.frames.put k f := rfl
@[simp] theorem setFrame_pe_spills (s : State) (k : Nat) (f : Frame) : (s.setFrame k f).pe.spills = s.pe.spills := rfl
@[simp] theorem setFrame_pe_queue (s : State) (k : Nat) (f : Frame) : (s.setFrame k f).pe.queue = s.pe.queue := rfl
@[simp] theorem setFrame_pe_tasks (s : State) (k : Nat) (f : Frame) : (s.setFrame k f).pe.tasks = s.pe.tasks := rfl
@[simp] theorem setFrame_pe_tiles (s : State) (k : Nat) (f : Frame) : (s.setFrame k f).pe.tiles = s.pe.tiles := rfl
@[simp] theorem setFrame_pe_accs (s : State) (k : Nat) (f : Frame) : (s.setFrame k f).pe.accs = s.pe.accs := rfl
@[simp] theorem setFrame_pe_rings (s : State) (k : Nat) (f : Frame) : (s.setFrame k f).pe.rings = s.pe.rings := rfl
@[simp] theorem setFrame_pe_pctx (s : State) (k : Nat) (f : Frame) : (s.setFrame k f).pe.pctx = s.pe.pctx := rfl
@[simp] theorem setFrame_pe_windows (s : State) (k : Nat) (f : Frame) : (s.setFrame k f).pe.windows = s.pe.windows := rfl
@[simp] theorem setFrame_pe_endpoints (s : State) (k : Nat) (f : Frame) : (s.setFrame k f).pe.endpoints = s.pe.endpoints := rfl
@[simp] theorem setFrame_pe_regs0 (s : State) (k : Nat) (f : Frame) : (s.setFrame k f).pe.regs0 = s.pe.regs0 := rfl
@[simp] theorem setFrame_pe_issued (s : State) (k : Nat) (f : Frame) : (s.setFrame k f).pe.issued = s.pe.issued := rfl
@[simp] theorem setFrame_pe_divider (s : State) (k : Nat) (f : Frame) : (s.setFrame k f).pe.divider = s.pe.divider := rfl
@[simp] theorem setFrame_ctxs (s : State) (k : Nat) (f : Frame) : (s.setFrame k f).ctxs = s.ctxs := rfl
@[simp] theorem setFrame_mem (s : State) (k : Nat) (f : Frame) : (s.setFrame k f).mem = s.mem := rfl
@[simp] theorem setFrame_sync (s : State) (k : Nat) (f : Frame) : (s.setFrame k f).sync = s.sync := rfl
@[simp] theorem setFrame_chans (s : State) (k : Nat) (f : Frame) : (s.setFrame k f).chans = s.chans := rfl
@[simp] theorem setFrame_copies (s : State) (k : Nat) (f : Frame) : (s.setFrame k f).copies = s.copies := rfl
@[simp] theorem setFrame_task (s : State) (k : Nat) (f : Frame) : (s.setFrame k f).task = s.task := rfl
@[simp] theorem setFrame_kiln (s : State) (k : Nat) (f : Frame) : (s.setFrame k f).kiln = s.kiln := rfl
@[simp] theorem setFrame_dev (s : State) (k : Nat) (f : Frame) : (s.setFrame k f).dev = s.dev := rfl
@[simp] theorem setFrame_net (s : State) (k : Nat) (f : Frame) : (s.setFrame k f).net = s.net := rfl
@[simp] theorem setFrame_sched (s : State) (k : Nat) (f : Frame) : (s.setFrame k f).sched = s.sched := rfl

@[simp] theorem delFrame_pe_frames (s : State) (k : Nat) : (s.delFrame k).pe.frames = s.pe.frames.del k := rfl
@[simp] theorem delFrame_pe_spills (s : State) (k : Nat) : (s.delFrame k).pe.spills = s.pe.spills := rfl
@[simp] theorem delFrame_pe_queue (s : State) (k : Nat) : (s.delFrame k).pe.queue = s.pe.queue := rfl
@[simp] theorem delFrame_pe_tasks (s : State) (k : Nat) : (s.delFrame k).pe.tasks = s.pe.tasks := rfl
@[simp] theorem delFrame_pe_tiles (s : State) (k : Nat) : (s.delFrame k).pe.tiles = s.pe.tiles := rfl
@[simp] theorem delFrame_pe_accs (s : State) (k : Nat) : (s.delFrame k).pe.accs = s.pe.accs := rfl
@[simp] theorem delFrame_pe_rings (s : State) (k : Nat) : (s.delFrame k).pe.rings = s.pe.rings := rfl
@[simp] theorem delFrame_pe_pctx (s : State) (k : Nat) : (s.delFrame k).pe.pctx = s.pe.pctx := rfl
@[simp] theorem delFrame_pe_windows (s : State) (k : Nat) : (s.delFrame k).pe.windows = s.pe.windows := rfl
@[simp] theorem delFrame_pe_endpoints (s : State) (k : Nat) : (s.delFrame k).pe.endpoints = s.pe.endpoints := rfl
@[simp] theorem delFrame_pe_regs0 (s : State) (k : Nat) : (s.delFrame k).pe.regs0 = s.pe.regs0 := rfl
@[simp] theorem delFrame_pe_issued (s : State) (k : Nat) : (s.delFrame k).pe.issued = s.pe.issued := rfl
@[simp] theorem delFrame_pe_divider (s : State) (k : Nat) : (s.delFrame k).pe.divider = s.pe.divider := rfl
@[simp] theorem delFrame_ctxs (s : State) (k : Nat) : (s.delFrame k).ctxs = s.ctxs := rfl
@[simp] theorem delFrame_mem (s : State) (k : Nat) : (s.delFrame k).mem = s.mem := rfl
@[simp] theorem delFrame_sync (s : State) (k : Nat) : (s.delFrame k).sync = s.sync := rfl
@[simp] theorem delFrame_chans (s : State) (k : Nat) : (s.delFrame k).chans = s.chans := rfl
@[simp] theorem delFrame_copies (s : State) (k : Nat) : (s.delFrame k).copies = s.copies := rfl
@[simp] theorem delFrame_task (s : State) (k : Nat) : (s.delFrame k).task = s.task := rfl
@[simp] theorem delFrame_kiln (s : State) (k : Nat) : (s.delFrame k).kiln = s.kiln := rfl
@[simp] theorem delFrame_dev (s : State) (k : Nat) : (s.delFrame k).dev = s.dev := rfl
@[simp] theorem delFrame_net (s : State) (k : Nat) : (s.delFrame k).net = s.net := rfl
@[simp] theorem delFrame_sched (s : State) (k : Nat) : (s.delFrame k).sched = s.sched := rfl

@[simp] theorem setTask_pe_frames (s : State) (p t : Nat) (v : Task) : (s.setTask p t v).pe.frames = s.pe.frames := rfl
@[simp] theorem setTask_pe_spills (s : State) (p t : Nat) (v : Task) : (s.setTask p t v).pe.spills = s.pe.spills := rfl
@[simp] theorem setTask_pe_queue (s : State) (p t : Nat) (v : Task) : (s.setTask p t v).pe.queue = s.pe.queue := rfl
@[simp] theorem setTask_pe_tasks (s : State) (p t : Nat) (v : Task) : (s.setTask p t v).pe.tasks = s.pe.tasks.put (p * 16 + t) v := rfl
@[simp] theorem setTask_pe_tiles (s : State) (p t : Nat) (v : Task) : (s.setTask p t v).pe.tiles = s.pe.tiles := rfl
@[simp] theorem setTask_pe_accs (s : State) (p t : Nat) (v : Task) : (s.setTask p t v).pe.accs = s.pe.accs := rfl
@[simp] theorem setTask_pe_rings (s : State) (p t : Nat) (v : Task) : (s.setTask p t v).pe.rings = s.pe.rings := rfl
@[simp] theorem setTask_pe_pctx (s : State) (p t : Nat) (v : Task) : (s.setTask p t v).pe.pctx = s.pe.pctx := rfl
@[simp] theorem setTask_pe_windows (s : State) (p t : Nat) (v : Task) : (s.setTask p t v).pe.windows = s.pe.windows := rfl
@[simp] theorem setTask_pe_endpoints (s : State) (p t : Nat) (v : Task) : (s.setTask p t v).pe.endpoints = s.pe.endpoints := rfl
@[simp] theorem setTask_pe_regs0 (s : State) (p t : Nat) (v : Task) : (s.setTask p t v).pe.regs0 = s.pe.regs0 := rfl
@[simp] theorem setTask_pe_issued (s : State) (p t : Nat) (v : Task) : (s.setTask p t v).pe.issued = s.pe.issued := rfl
@[simp] theorem setTask_pe_divider (s : State) (p t : Nat) (v : Task) : (s.setTask p t v).pe.divider = s.pe.divider := rfl
@[simp] theorem setTask_ctxs (s : State) (p t : Nat) (v : Task) : (s.setTask p t v).ctxs = s.ctxs := rfl
@[simp] theorem setTask_mem (s : State) (p t : Nat) (v : Task) : (s.setTask p t v).mem = s.mem := rfl
@[simp] theorem setTask_sync (s : State) (p t : Nat) (v : Task) : (s.setTask p t v).sync = s.sync := rfl
@[simp] theorem setTask_chans (s : State) (p t : Nat) (v : Task) : (s.setTask p t v).chans = s.chans := rfl
@[simp] theorem setTask_copies (s : State) (p t : Nat) (v : Task) : (s.setTask p t v).copies = s.copies := rfl
@[simp] theorem setTask_task (s : State) (p t : Nat) (v : Task) : (s.setTask p t v).task = s.task := rfl
@[simp] theorem setTask_kiln (s : State) (p t : Nat) (v : Task) : (s.setTask p t v).kiln = s.kiln := rfl
@[simp] theorem setTask_dev (s : State) (p t : Nat) (v : Task) : (s.setTask p t v).dev = s.dev := rfl
@[simp] theorem setTask_net (s : State) (p t : Nat) (v : Task) : (s.setTask p t v).net = s.net := rfl
@[simp] theorem setTask_sched (s : State) (p t : Nat) (v : Task) : (s.setTask p t v).sched = s.sched := rfl

@[simp] theorem delTask_pe_frames (s : State) (p t : Nat) : (s.delTask p t).pe.frames = s.pe.frames := rfl
@[simp] theorem delTask_pe_spills (s : State) (p t : Nat) : (s.delTask p t).pe.spills = s.pe.spills := rfl
@[simp] theorem delTask_pe_queue (s : State) (p t : Nat) : (s.delTask p t).pe.queue = s.pe.queue := rfl
@[simp] theorem delTask_pe_tasks (s : State) (p t : Nat) : (s.delTask p t).pe.tasks = s.pe.tasks.del (p * 16 + t) := rfl
@[simp] theorem delTask_pe_tiles (s : State) (p t : Nat) : (s.delTask p t).pe.tiles = s.pe.tiles := rfl
@[simp] theorem delTask_pe_accs (s : State) (p t : Nat) : (s.delTask p t).pe.accs = s.pe.accs := rfl
@[simp] theorem delTask_pe_rings (s : State) (p t : Nat) : (s.delTask p t).pe.rings = s.pe.rings := rfl
@[simp] theorem delTask_pe_pctx (s : State) (p t : Nat) : (s.delTask p t).pe.pctx = s.pe.pctx := rfl
@[simp] theorem delTask_pe_windows (s : State) (p t : Nat) : (s.delTask p t).pe.windows = s.pe.windows := rfl
@[simp] theorem delTask_pe_endpoints (s : State) (p t : Nat) : (s.delTask p t).pe.endpoints = s.pe.endpoints := rfl
@[simp] theorem delTask_pe_regs0 (s : State) (p t : Nat) : (s.delTask p t).pe.regs0 = s.pe.regs0 := rfl
@[simp] theorem delTask_pe_issued (s : State) (p t : Nat) : (s.delTask p t).pe.issued = s.pe.issued := rfl
@[simp] theorem delTask_pe_divider (s : State) (p t : Nat) : (s.delTask p t).pe.divider = s.pe.divider := rfl
@[simp] theorem delTask_ctxs (s : State) (p t : Nat) : (s.delTask p t).ctxs = s.ctxs := rfl
@[simp] theorem delTask_mem (s : State) (p t : Nat) : (s.delTask p t).mem = s.mem := rfl
@[simp] theorem delTask_sync (s : State) (p t : Nat) : (s.delTask p t).sync = s.sync := rfl
@[simp] theorem delTask_chans (s : State) (p t : Nat) : (s.delTask p t).chans = s.chans := rfl
@[simp] theorem delTask_copies (s : State) (p t : Nat) : (s.delTask p t).copies = s.copies := rfl
@[simp] theorem delTask_task (s : State) (p t : Nat) : (s.delTask p t).task = s.task := rfl
@[simp] theorem delTask_kiln (s : State) (p t : Nat) : (s.delTask p t).kiln = s.kiln := rfl
@[simp] theorem delTask_dev (s : State) (p t : Nat) : (s.delTask p t).dev = s.dev := rfl
@[simp] theorem delTask_net (s : State) (p t : Nat) : (s.delTask p t).net = s.net := rfl
@[simp] theorem delTask_sched (s : State) (p t : Nat) : (s.delTask p t).sched = s.sched := rfl

@[simp] theorem setTile_pe_frames (s : State) (p n : Nat) (t : TileSlot) : (s.setTile p n t).pe.frames = s.pe.frames := rfl
@[simp] theorem setTile_pe_spills (s : State) (p n : Nat) (t : TileSlot) : (s.setTile p n t).pe.spills = s.pe.spills := rfl
@[simp] theorem setTile_pe_queue (s : State) (p n : Nat) (t : TileSlot) : (s.setTile p n t).pe.queue = s.pe.queue := rfl
@[simp] theorem setTile_pe_tasks (s : State) (p n : Nat) (t : TileSlot) : (s.setTile p n t).pe.tasks = s.pe.tasks := rfl
@[simp] theorem setTile_pe_tiles (s : State) (p n : Nat) (t : TileSlot) : (s.setTile p n t).pe.tiles = s.pe.tiles.put (p * 4096 + n) t := rfl
@[simp] theorem setTile_pe_accs (s : State) (p n : Nat) (t : TileSlot) : (s.setTile p n t).pe.accs = s.pe.accs := rfl
@[simp] theorem setTile_pe_rings (s : State) (p n : Nat) (t : TileSlot) : (s.setTile p n t).pe.rings = s.pe.rings := rfl
@[simp] theorem setTile_pe_pctx (s : State) (p n : Nat) (t : TileSlot) : (s.setTile p n t).pe.pctx = s.pe.pctx := rfl
@[simp] theorem setTile_pe_windows (s : State) (p n : Nat) (t : TileSlot) : (s.setTile p n t).pe.windows = s.pe.windows := rfl
@[simp] theorem setTile_pe_endpoints (s : State) (p n : Nat) (t : TileSlot) : (s.setTile p n t).pe.endpoints = s.pe.endpoints := rfl
@[simp] theorem setTile_pe_regs0 (s : State) (p n : Nat) (t : TileSlot) : (s.setTile p n t).pe.regs0 = s.pe.regs0 := rfl
@[simp] theorem setTile_pe_issued (s : State) (p n : Nat) (t : TileSlot) : (s.setTile p n t).pe.issued = s.pe.issued := rfl
@[simp] theorem setTile_pe_divider (s : State) (p n : Nat) (t : TileSlot) : (s.setTile p n t).pe.divider = s.pe.divider := rfl
@[simp] theorem setTile_ctxs (s : State) (p n : Nat) (t : TileSlot) : (s.setTile p n t).ctxs = s.ctxs := rfl
@[simp] theorem setTile_mem (s : State) (p n : Nat) (t : TileSlot) : (s.setTile p n t).mem = s.mem := rfl
@[simp] theorem setTile_sync (s : State) (p n : Nat) (t : TileSlot) : (s.setTile p n t).sync = s.sync := rfl
@[simp] theorem setTile_chans (s : State) (p n : Nat) (t : TileSlot) : (s.setTile p n t).chans = s.chans := rfl
@[simp] theorem setTile_copies (s : State) (p n : Nat) (t : TileSlot) : (s.setTile p n t).copies = s.copies := rfl
@[simp] theorem setTile_task (s : State) (p n : Nat) (t : TileSlot) : (s.setTile p n t).task = s.task := rfl
@[simp] theorem setTile_kiln (s : State) (p n : Nat) (t : TileSlot) : (s.setTile p n t).kiln = s.kiln := rfl
@[simp] theorem setTile_dev (s : State) (p n : Nat) (t : TileSlot) : (s.setTile p n t).dev = s.dev := rfl
@[simp] theorem setTile_net (s : State) (p n : Nat) (t : TileSlot) : (s.setTile p n t).net = s.net := rfl
@[simp] theorem setTile_sched (s : State) (p n : Nat) (t : TileSlot) : (s.setTile p n t).sched = s.sched := rfl

@[simp] theorem setAcc_pe_frames (s : State) (p z : Nat) (a : Acc) : (s.setAcc p z a).pe.frames = s.pe.frames := rfl
@[simp] theorem setAcc_pe_spills (s : State) (p z : Nat) (a : Acc) : (s.setAcc p z a).pe.spills = s.pe.spills := rfl
@[simp] theorem setAcc_pe_queue (s : State) (p z : Nat) (a : Acc) : (s.setAcc p z a).pe.queue = s.pe.queue := rfl
@[simp] theorem setAcc_pe_tasks (s : State) (p z : Nat) (a : Acc) : (s.setAcc p z a).pe.tasks = s.pe.tasks := rfl
@[simp] theorem setAcc_pe_tiles (s : State) (p z : Nat) (a : Acc) : (s.setAcc p z a).pe.tiles = s.pe.tiles := rfl
@[simp] theorem setAcc_pe_accs (s : State) (p z : Nat) (a : Acc) : (s.setAcc p z a).pe.accs = s.pe.accs.put (p * 8 + z) a := rfl
@[simp] theorem setAcc_pe_rings (s : State) (p z : Nat) (a : Acc) : (s.setAcc p z a).pe.rings = s.pe.rings := rfl
@[simp] theorem setAcc_pe_pctx (s : State) (p z : Nat) (a : Acc) : (s.setAcc p z a).pe.pctx = s.pe.pctx := rfl
@[simp] theorem setAcc_pe_windows (s : State) (p z : Nat) (a : Acc) : (s.setAcc p z a).pe.windows = s.pe.windows := rfl
@[simp] theorem setAcc_pe_endpoints (s : State) (p z : Nat) (a : Acc) : (s.setAcc p z a).pe.endpoints = s.pe.endpoints := rfl
@[simp] theorem setAcc_pe_regs0 (s : State) (p z : Nat) (a : Acc) : (s.setAcc p z a).pe.regs0 = s.pe.regs0 := rfl
@[simp] theorem setAcc_pe_issued (s : State) (p z : Nat) (a : Acc) : (s.setAcc p z a).pe.issued = s.pe.issued := rfl
@[simp] theorem setAcc_pe_divider (s : State) (p z : Nat) (a : Acc) : (s.setAcc p z a).pe.divider = s.pe.divider := rfl
@[simp] theorem setAcc_ctxs (s : State) (p z : Nat) (a : Acc) : (s.setAcc p z a).ctxs = s.ctxs := rfl
@[simp] theorem setAcc_mem (s : State) (p z : Nat) (a : Acc) : (s.setAcc p z a).mem = s.mem := rfl
@[simp] theorem setAcc_sync (s : State) (p z : Nat) (a : Acc) : (s.setAcc p z a).sync = s.sync := rfl
@[simp] theorem setAcc_chans (s : State) (p z : Nat) (a : Acc) : (s.setAcc p z a).chans = s.chans := rfl
@[simp] theorem setAcc_copies (s : State) (p z : Nat) (a : Acc) : (s.setAcc p z a).copies = s.copies := rfl
@[simp] theorem setAcc_task (s : State) (p z : Nat) (a : Acc) : (s.setAcc p z a).task = s.task := rfl
@[simp] theorem setAcc_kiln (s : State) (p z : Nat) (a : Acc) : (s.setAcc p z a).kiln = s.kiln := rfl
@[simp] theorem setAcc_dev (s : State) (p z : Nat) (a : Acc) : (s.setAcc p z a).dev = s.dev := rfl
@[simp] theorem setAcc_net (s : State) (p z : Nat) (a : Acc) : (s.setAcc p z a).net = s.net := rfl
@[simp] theorem setAcc_sched (s : State) (p z : Nat) (a : Acc) : (s.setAcc p z a).sched = s.sched := rfl

@[simp] theorem setRing_pe_frames (s : State) (p q : Nat) (r : Ring) : (s.setRing p q r).pe.frames = s.pe.frames := rfl
@[simp] theorem setRing_pe_spills (s : State) (p q : Nat) (r : Ring) : (s.setRing p q r).pe.spills = s.pe.spills := rfl
@[simp] theorem setRing_pe_queue (s : State) (p q : Nat) (r : Ring) : (s.setRing p q r).pe.queue = s.pe.queue := rfl
@[simp] theorem setRing_pe_tasks (s : State) (p q : Nat) (r : Ring) : (s.setRing p q r).pe.tasks = s.pe.tasks := rfl
@[simp] theorem setRing_pe_tiles (s : State) (p q : Nat) (r : Ring) : (s.setRing p q r).pe.tiles = s.pe.tiles := rfl
@[simp] theorem setRing_pe_accs (s : State) (p q : Nat) (r : Ring) : (s.setRing p q r).pe.accs = s.pe.accs := rfl
@[simp] theorem setRing_pe_rings (s : State) (p q : Nat) (r : Ring) : (s.setRing p q r).pe.rings = s.pe.rings.put (p * 8 + q) r := rfl
@[simp] theorem setRing_pe_pctx (s : State) (p q : Nat) (r : Ring) : (s.setRing p q r).pe.pctx = s.pe.pctx := rfl
@[simp] theorem setRing_pe_windows (s : State) (p q : Nat) (r : Ring) : (s.setRing p q r).pe.windows = s.pe.windows := rfl
@[simp] theorem setRing_pe_endpoints (s : State) (p q : Nat) (r : Ring) : (s.setRing p q r).pe.endpoints = s.pe.endpoints := rfl
@[simp] theorem setRing_pe_regs0 (s : State) (p q : Nat) (r : Ring) : (s.setRing p q r).pe.regs0 = s.pe.regs0 := rfl
@[simp] theorem setRing_pe_issued (s : State) (p q : Nat) (r : Ring) : (s.setRing p q r).pe.issued = s.pe.issued := rfl
@[simp] theorem setRing_pe_divider (s : State) (p q : Nat) (r : Ring) : (s.setRing p q r).pe.divider = s.pe.divider := rfl
@[simp] theorem setRing_ctxs (s : State) (p q : Nat) (r : Ring) : (s.setRing p q r).ctxs = s.ctxs := rfl
@[simp] theorem setRing_mem (s : State) (p q : Nat) (r : Ring) : (s.setRing p q r).mem = s.mem := rfl
@[simp] theorem setRing_sync (s : State) (p q : Nat) (r : Ring) : (s.setRing p q r).sync = s.sync := rfl
@[simp] theorem setRing_chans (s : State) (p q : Nat) (r : Ring) : (s.setRing p q r).chans = s.chans := rfl
@[simp] theorem setRing_copies (s : State) (p q : Nat) (r : Ring) : (s.setRing p q r).copies = s.copies := rfl
@[simp] theorem setRing_task (s : State) (p q : Nat) (r : Ring) : (s.setRing p q r).task = s.task := rfl
@[simp] theorem setRing_kiln (s : State) (p q : Nat) (r : Ring) : (s.setRing p q r).kiln = s.kiln := rfl
@[simp] theorem setRing_dev (s : State) (p q : Nat) (r : Ring) : (s.setRing p q r).dev = s.dev := rfl
@[simp] theorem setRing_net (s : State) (p q : Nat) (r : Ring) : (s.setRing p q r).net = s.net := rfl
@[simp] theorem setRing_sched (s : State) (p q : Nat) (r : Ring) : (s.setRing p q r).sched = s.sched := rfl

@[simp] theorem setPctx_pe_frames (s : State) (c p : Nat) (v : PeCtx) : (s.setPctx c p v).pe.frames = s.pe.frames := rfl
@[simp] theorem setPctx_pe_spills (s : State) (c p : Nat) (v : PeCtx) : (s.setPctx c p v).pe.spills = s.pe.spills := rfl
@[simp] theorem setPctx_pe_queue (s : State) (c p : Nat) (v : PeCtx) : (s.setPctx c p v).pe.queue = s.pe.queue := rfl
@[simp] theorem setPctx_pe_tasks (s : State) (c p : Nat) (v : PeCtx) : (s.setPctx c p v).pe.tasks = s.pe.tasks := rfl
@[simp] theorem setPctx_pe_tiles (s : State) (c p : Nat) (v : PeCtx) : (s.setPctx c p v).pe.tiles = s.pe.tiles := rfl
@[simp] theorem setPctx_pe_accs (s : State) (c p : Nat) (v : PeCtx) : (s.setPctx c p v).pe.accs = s.pe.accs := rfl
@[simp] theorem setPctx_pe_rings (s : State) (c p : Nat) (v : PeCtx) : (s.setPctx c p v).pe.rings = s.pe.rings := rfl
@[simp] theorem setPctx_pe_pctx (s : State) (c p : Nat) (v : PeCtx) : (s.setPctx c p v).pe.pctx = s.pe.pctx.put (c * 2048 + p) v := rfl
@[simp] theorem setPctx_pe_windows (s : State) (c p : Nat) (v : PeCtx) : (s.setPctx c p v).pe.windows = s.pe.windows := rfl
@[simp] theorem setPctx_pe_endpoints (s : State) (c p : Nat) (v : PeCtx) : (s.setPctx c p v).pe.endpoints = s.pe.endpoints := rfl
@[simp] theorem setPctx_pe_regs0 (s : State) (c p : Nat) (v : PeCtx) : (s.setPctx c p v).pe.regs0 = s.pe.regs0 := rfl
@[simp] theorem setPctx_pe_issued (s : State) (c p : Nat) (v : PeCtx) : (s.setPctx c p v).pe.issued = s.pe.issued := rfl
@[simp] theorem setPctx_pe_divider (s : State) (c p : Nat) (v : PeCtx) : (s.setPctx c p v).pe.divider = s.pe.divider := rfl
@[simp] theorem setPctx_ctxs (s : State) (c p : Nat) (v : PeCtx) : (s.setPctx c p v).ctxs = s.ctxs := rfl
@[simp] theorem setPctx_mem (s : State) (c p : Nat) (v : PeCtx) : (s.setPctx c p v).mem = s.mem := rfl
@[simp] theorem setPctx_sync (s : State) (c p : Nat) (v : PeCtx) : (s.setPctx c p v).sync = s.sync := rfl
@[simp] theorem setPctx_chans (s : State) (c p : Nat) (v : PeCtx) : (s.setPctx c p v).chans = s.chans := rfl
@[simp] theorem setPctx_copies (s : State) (c p : Nat) (v : PeCtx) : (s.setPctx c p v).copies = s.copies := rfl
@[simp] theorem setPctx_task (s : State) (c p : Nat) (v : PeCtx) : (s.setPctx c p v).task = s.task := rfl
@[simp] theorem setPctx_kiln (s : State) (c p : Nat) (v : PeCtx) : (s.setPctx c p v).kiln = s.kiln := rfl
@[simp] theorem setPctx_dev (s : State) (c p : Nat) (v : PeCtx) : (s.setPctx c p v).dev = s.dev := rfl
@[simp] theorem setPctx_net (s : State) (c p : Nat) (v : PeCtx) : (s.setPctx c p v).net = s.net := rfl
@[simp] theorem setPctx_sched (s : State) (c p : Nat) (v : PeCtx) : (s.setPctx c p v).sched = s.sched := rfl

@[simp] theorem setWin_pe_frames (s : State) (p : Nat) (l : List WinCfg) : (s.setWin p l).pe.frames = s.pe.frames := rfl
@[simp] theorem setWin_pe_spills (s : State) (p : Nat) (l : List WinCfg) : (s.setWin p l).pe.spills = s.pe.spills := rfl
@[simp] theorem setWin_pe_queue (s : State) (p : Nat) (l : List WinCfg) : (s.setWin p l).pe.queue = s.pe.queue := rfl
@[simp] theorem setWin_pe_tasks (s : State) (p : Nat) (l : List WinCfg) : (s.setWin p l).pe.tasks = s.pe.tasks := rfl
@[simp] theorem setWin_pe_tiles (s : State) (p : Nat) (l : List WinCfg) : (s.setWin p l).pe.tiles = s.pe.tiles := rfl
@[simp] theorem setWin_pe_accs (s : State) (p : Nat) (l : List WinCfg) : (s.setWin p l).pe.accs = s.pe.accs := rfl
@[simp] theorem setWin_pe_rings (s : State) (p : Nat) (l : List WinCfg) : (s.setWin p l).pe.rings = s.pe.rings := rfl
@[simp] theorem setWin_pe_pctx (s : State) (p : Nat) (l : List WinCfg) : (s.setWin p l).pe.pctx = s.pe.pctx := rfl
@[simp] theorem setWin_pe_windows (s : State) (p : Nat) (l : List WinCfg) : (s.setWin p l).pe.windows = s.pe.windows.put p l := rfl
@[simp] theorem setWin_pe_endpoints (s : State) (p : Nat) (l : List WinCfg) : (s.setWin p l).pe.endpoints = s.pe.endpoints := rfl
@[simp] theorem setWin_pe_regs0 (s : State) (p : Nat) (l : List WinCfg) : (s.setWin p l).pe.regs0 = s.pe.regs0 := rfl
@[simp] theorem setWin_pe_issued (s : State) (p : Nat) (l : List WinCfg) : (s.setWin p l).pe.issued = s.pe.issued := rfl
@[simp] theorem setWin_pe_divider (s : State) (p : Nat) (l : List WinCfg) : (s.setWin p l).pe.divider = s.pe.divider := rfl
@[simp] theorem setWin_ctxs (s : State) (p : Nat) (l : List WinCfg) : (s.setWin p l).ctxs = s.ctxs := rfl
@[simp] theorem setWin_mem (s : State) (p : Nat) (l : List WinCfg) : (s.setWin p l).mem = s.mem := rfl
@[simp] theorem setWin_sync (s : State) (p : Nat) (l : List WinCfg) : (s.setWin p l).sync = s.sync := rfl
@[simp] theorem setWin_chans (s : State) (p : Nat) (l : List WinCfg) : (s.setWin p l).chans = s.chans := rfl
@[simp] theorem setWin_copies (s : State) (p : Nat) (l : List WinCfg) : (s.setWin p l).copies = s.copies := rfl
@[simp] theorem setWin_task (s : State) (p : Nat) (l : List WinCfg) : (s.setWin p l).task = s.task := rfl
@[simp] theorem setWin_kiln (s : State) (p : Nat) (l : List WinCfg) : (s.setWin p l).kiln = s.kiln := rfl
@[simp] theorem setWin_dev (s : State) (p : Nat) (l : List WinCfg) : (s.setWin p l).dev = s.dev := rfl
@[simp] theorem setWin_net (s : State) (p : Nat) (l : List WinCfg) : (s.setWin p l).net = s.net := rfl
@[simp] theorem setWin_sched (s : State) (p : Nat) (l : List WinCfg) : (s.setWin p l).sched = s.sched := rfl

@[simp] theorem setCtx_pe (s : State) (c : Nat) (x : Ctx) : (s.setCtx c x).pe = s.pe := rfl
@[simp] theorem setCtx_ctxs (s : State) (c : Nat) (x : Ctx) : (s.setCtx c x).ctxs = s.ctxs.put c x := rfl
@[simp] theorem setCtx_mem (s : State) (c : Nat) (x : Ctx) : (s.setCtx c x).mem = s.mem := rfl
@[simp] theorem setCtx_sync (s : State) (c : Nat) (x : Ctx) : (s.setCtx c x).sync = s.sync := rfl
@[simp] theorem setCtx_chans (s : State) (c : Nat) (x : Ctx) : (s.setCtx c x).chans = s.chans := rfl
@[simp] theorem setCtx_copies (s : State) (c : Nat) (x : Ctx) : (s.setCtx c x).copies = s.copies := rfl
@[simp] theorem setCtx_task (s : State) (c : Nat) (x : Ctx) : (s.setCtx c x).task = s.task := rfl
@[simp] theorem setCtx_kiln (s : State) (c : Nat) (x : Ctx) : (s.setCtx c x).kiln = s.kiln := rfl
@[simp] theorem setCtx_dev (s : State) (c : Nat) (x : Ctx) : (s.setCtx c x).dev = s.dev := rfl
@[simp] theorem setCtx_net (s : State) (c : Nat) (x : Ctx) : (s.setCtx c x).net = s.net := rfl
@[simp] theorem setCtx_sched (s : State) (c : Nat) (x : Ctx) : (s.setCtx c x).sched = s.sched := rfl

@[simp] theorem pokeByte_pe (s : State) (k : Nat) (v : Byte) : (s.pokeByte k v).pe = s.pe := rfl
@[simp] theorem pokeByte_ctxs (s : State) (k : Nat) (v : Byte) : (s.pokeByte k v).ctxs = s.ctxs := rfl
@[simp] theorem pokeByte_mem_bytes (s : State) (k : Nat) (v : Byte) : (s.pokeByte k v).mem.bytes = Memory.write s.mem.bytes k v := rfl
@[simp] theorem pokeByte_mem_poison (s : State) (k : Nat) (v : Byte) : (s.pokeByte k v).mem.poison = s.mem.poison := rfl
@[simp] theorem pokeByte_mem_owner (s : State) (k : Nat) (v : Byte) : (s.pokeByte k v).mem.owner = s.mem.owner := rfl
@[simp] theorem pokeByte_mem_remoteOwner (s : State) (k : Nat) (v : Byte) : (s.pokeByte k v).mem.remoteOwner = s.mem.remoteOwner := rfl
@[simp] theorem pokeByte_mem_tlb (s : State) (k : Nat) (v : Byte) : (s.pokeByte k v).mem.tlb = s.mem.tlb := rfl
@[simp] theorem pokeByte_mem_accesses (s : State) (k : Nat) (v : Byte) : (s.pokeByte k v).mem.accesses = s.mem.accesses := rfl
@[simp] theorem pokeByte_mem_holds (s : State) (k : Nat) (v : Byte) : (s.pokeByte k v).mem.holds = s.mem.holds := rfl
@[simp] theorem pokeByte_mem_entries (s : State) (k : Nat) (v : Byte) : (s.pokeByte k v).mem.entries = s.mem.entries := rfl
@[simp] theorem pokeByte_mem_shadows (s : State) (k : Nat) (v : Byte) : (s.pokeByte k v).mem.shadows = s.mem.shadows := rfl
@[simp] theorem pokeByte_sync (s : State) (k : Nat) (v : Byte) : (s.pokeByte k v).sync = s.sync := rfl
@[simp] theorem pokeByte_chans (s : State) (k : Nat) (v : Byte) : (s.pokeByte k v).chans = s.chans := rfl
@[simp] theorem pokeByte_copies (s : State) (k : Nat) (v : Byte) : (s.pokeByte k v).copies = s.copies := rfl
@[simp] theorem pokeByte_task (s : State) (k : Nat) (v : Byte) : (s.pokeByte k v).task = s.task := rfl
@[simp] theorem pokeByte_kiln (s : State) (k : Nat) (v : Byte) : (s.pokeByte k v).kiln = s.kiln := rfl
@[simp] theorem pokeByte_dev (s : State) (k : Nat) (v : Byte) : (s.pokeByte k v).dev = s.dev := rfl
@[simp] theorem pokeByte_net (s : State) (k : Nat) (v : Byte) : (s.pokeByte k v).net = s.net := rfl
@[simp] theorem pokeByte_sched (s : State) (k : Nat) (v : Byte) : (s.pokeByte k v).sched = s.sched := rfl

@[simp] theorem setAccess_pe (s : State) (n : Nat) (a : Access) : (s.setAccess n a).pe = s.pe := rfl
@[simp] theorem setAccess_ctxs (s : State) (n : Nat) (a : Access) : (s.setAccess n a).ctxs = s.ctxs := rfl
@[simp] theorem setAccess_mem_bytes (s : State) (n : Nat) (a : Access) : (s.setAccess n a).mem.bytes = s.mem.bytes := rfl
@[simp] theorem setAccess_mem_poison (s : State) (n : Nat) (a : Access) : (s.setAccess n a).mem.poison = s.mem.poison := rfl
@[simp] theorem setAccess_mem_owner (s : State) (n : Nat) (a : Access) : (s.setAccess n a).mem.owner = s.mem.owner := rfl
@[simp] theorem setAccess_mem_remoteOwner (s : State) (n : Nat) (a : Access) : (s.setAccess n a).mem.remoteOwner = s.mem.remoteOwner := rfl
@[simp] theorem setAccess_mem_tlb (s : State) (n : Nat) (a : Access) : (s.setAccess n a).mem.tlb = s.mem.tlb := rfl
@[simp] theorem setAccess_mem_accesses (s : State) (n : Nat) (a : Access) : (s.setAccess n a).mem.accesses = s.mem.accesses.put n a := rfl
@[simp] theorem setAccess_mem_holds (s : State) (n : Nat) (a : Access) : (s.setAccess n a).mem.holds = s.mem.holds := rfl
@[simp] theorem setAccess_mem_entries (s : State) (n : Nat) (a : Access) : (s.setAccess n a).mem.entries = s.mem.entries := rfl
@[simp] theorem setAccess_mem_shadows (s : State) (n : Nat) (a : Access) : (s.setAccess n a).mem.shadows = s.mem.shadows := rfl
@[simp] theorem setAccess_sync (s : State) (n : Nat) (a : Access) : (s.setAccess n a).sync = s.sync := rfl
@[simp] theorem setAccess_chans (s : State) (n : Nat) (a : Access) : (s.setAccess n a).chans = s.chans := rfl
@[simp] theorem setAccess_copies (s : State) (n : Nat) (a : Access) : (s.setAccess n a).copies = s.copies := rfl
@[simp] theorem setAccess_task (s : State) (n : Nat) (a : Access) : (s.setAccess n a).task = s.task := rfl
@[simp] theorem setAccess_kiln (s : State) (n : Nat) (a : Access) : (s.setAccess n a).kiln = s.kiln := rfl
@[simp] theorem setAccess_dev (s : State) (n : Nat) (a : Access) : (s.setAccess n a).dev = s.dev := rfl
@[simp] theorem setAccess_net (s : State) (n : Nat) (a : Access) : (s.setAccess n a).net = s.net := rfl
@[simp] theorem setAccess_sched (s : State) (n : Nat) (a : Access) : (s.setAccess n a).sched = s.sched := rfl

@[simp] theorem delAccess_pe (s : State) (n : Nat) : (s.delAccess n).pe = s.pe := rfl
@[simp] theorem delAccess_ctxs (s : State) (n : Nat) : (s.delAccess n).ctxs = s.ctxs := rfl
@[simp] theorem delAccess_mem_bytes (s : State) (n : Nat) : (s.delAccess n).mem.bytes = s.mem.bytes := rfl
@[simp] theorem delAccess_mem_poison (s : State) (n : Nat) : (s.delAccess n).mem.poison = s.mem.poison := rfl
@[simp] theorem delAccess_mem_owner (s : State) (n : Nat) : (s.delAccess n).mem.owner = s.mem.owner := rfl
@[simp] theorem delAccess_mem_remoteOwner (s : State) (n : Nat) : (s.delAccess n).mem.remoteOwner = s.mem.remoteOwner := rfl
@[simp] theorem delAccess_mem_tlb (s : State) (n : Nat) : (s.delAccess n).mem.tlb = s.mem.tlb := rfl
@[simp] theorem delAccess_mem_accesses (s : State) (n : Nat) : (s.delAccess n).mem.accesses = s.mem.accesses.del n := rfl
@[simp] theorem delAccess_mem_holds (s : State) (n : Nat) : (s.delAccess n).mem.holds = s.mem.holds := rfl
@[simp] theorem delAccess_mem_entries (s : State) (n : Nat) : (s.delAccess n).mem.entries = s.mem.entries := rfl
@[simp] theorem delAccess_mem_shadows (s : State) (n : Nat) : (s.delAccess n).mem.shadows = s.mem.shadows := rfl
@[simp] theorem delAccess_sync (s : State) (n : Nat) : (s.delAccess n).sync = s.sync := rfl
@[simp] theorem delAccess_chans (s : State) (n : Nat) : (s.delAccess n).chans = s.chans := rfl
@[simp] theorem delAccess_copies (s : State) (n : Nat) : (s.delAccess n).copies = s.copies := rfl
@[simp] theorem delAccess_task (s : State) (n : Nat) : (s.delAccess n).task = s.task := rfl
@[simp] theorem delAccess_kiln (s : State) (n : Nat) : (s.delAccess n).kiln = s.kiln := rfl
@[simp] theorem delAccess_dev (s : State) (n : Nat) : (s.delAccess n).dev = s.dev := rfl
@[simp] theorem delAccess_net (s : State) (n : Nat) : (s.delAccess n).net = s.net := rfl
@[simp] theorem delAccess_sched (s : State) (n : Nat) : (s.delAccess n).sched = s.sched := rfl

@[simp] theorem addAccess_pe (s : State) (a : Access) : (s.addAccess a).pe = s.pe := rfl
@[simp] theorem addAccess_ctxs (s : State) (a : Access) : (s.addAccess a).ctxs = s.ctxs := rfl
@[simp] theorem addAccess_mem_bytes (s : State) (a : Access) : (s.addAccess a).mem.bytes = s.mem.bytes := rfl
@[simp] theorem addAccess_mem_poison (s : State) (a : Access) : (s.addAccess a).mem.poison = s.mem.poison := rfl
@[simp] theorem addAccess_mem_owner (s : State) (a : Access) : (s.addAccess a).mem.owner = s.mem.owner := rfl
@[simp] theorem addAccess_mem_remoteOwner (s : State) (a : Access) : (s.addAccess a).mem.remoteOwner = s.mem.remoteOwner := rfl
@[simp] theorem addAccess_mem_tlb (s : State) (a : Access) : (s.addAccess a).mem.tlb = s.mem.tlb := rfl
@[simp] theorem addAccess_mem_accesses (s : State) (a : Access) : (s.addAccess a).mem.accesses = s.mem.accesses.put s.sched.serial a := rfl
@[simp] theorem addAccess_mem_holds (s : State) (a : Access) : (s.addAccess a).mem.holds = s.mem.holds := rfl
@[simp] theorem addAccess_mem_entries (s : State) (a : Access) : (s.addAccess a).mem.entries = s.mem.entries := rfl
@[simp] theorem addAccess_mem_shadows (s : State) (a : Access) : (s.addAccess a).mem.shadows = s.mem.shadows := rfl
@[simp] theorem addAccess_sync (s : State) (a : Access) : (s.addAccess a).sync = s.sync := rfl
@[simp] theorem addAccess_chans (s : State) (a : Access) : (s.addAccess a).chans = s.chans := rfl
@[simp] theorem addAccess_copies (s : State) (a : Access) : (s.addAccess a).copies = s.copies := rfl
@[simp] theorem addAccess_task (s : State) (a : Access) : (s.addAccess a).task = s.task := rfl
@[simp] theorem addAccess_kiln (s : State) (a : Access) : (s.addAccess a).kiln = s.kiln := rfl
@[simp] theorem addAccess_dev (s : State) (a : Access) : (s.addAccess a).dev = s.dev := rfl
@[simp] theorem addAccess_net (s : State) (a : Access) : (s.addAccess a).net = s.net := rfl
@[simp] theorem addAccess_sched_cycle (s : State) (a : Access) : (s.addAccess a).sched.cycle = s.sched.cycle := rfl
@[simp] theorem addAccess_sched_plan (s : State) (a : Access) : (s.addAccess a).sched.plan = s.sched.plan := rfl
@[simp] theorem addAccess_sched_turn (s : State) (a : Access) : (s.addAccess a).sched.turn = s.sched.turn := rfl
@[simp] theorem addAccess_sched_serial (s : State) (a : Access) : (s.addAccess a).sched.serial = s.sched.serial + 1 := rfl
@[simp] theorem addAccess_sched_free (s : State) (a : Access) : (s.addAccess a).sched.free = s.sched.free := rfl
@[simp] theorem addAccess_sched_inbox (s : State) (a : Access) : (s.addAccess a).sched.inbox = s.sched.inbox := rfl
@[simp] theorem addAccess_sched_pe (s : State) (a : Access) : (s.addAccess a).sched.pe = s.sched.pe := rfl
@[simp] theorem addAccess_sched_frame (s : State) (a : Access) : (s.addAccess a).sched.frame = s.sched.frame := rfl
@[simp] theorem addAccess_sched_idx (s : State) (a : Access) : (s.addAccess a).sched.idx = s.sched.idx := rfl

@[simp] theorem setEngine_pe (s : State) (q : Nat) (e : Engine) : (s.setEngine q e).pe = s.pe := rfl
@[simp] theorem setEngine_ctxs (s : State) (q : Nat) (e : Engine) : (s.setEngine q e).ctxs = s.ctxs := rfl
@[simp] theorem setEngine_mem (s : State) (q : Nat) (e : Engine) : (s.setEngine q e).mem = s.mem := rfl
@[simp] theorem setEngine_sync_engines (s : State) (q : Nat) (e : Engine) : (s.setEngine q e).sync.engines = s.sync.engines.put q e := rfl
@[simp] theorem setEngine_sync_reqs (s : State) (q : Nat) (e : Engine) : (s.setEngine q e).sync.reqs = s.sync.reqs := rfl
@[simp] theorem setEngine_sync_counters (s : State) (q : Nat) (e : Engine) : (s.setEngine q e).sync.counters = s.sync.counters := rfl
@[simp] theorem setEngine_sync_barriers (s : State) (q : Nat) (e : Engine) : (s.setEngine q e).sync.barriers = s.sync.barriers := rfl
@[simp] theorem setEngine_chans (s : State) (q : Nat) (e : Engine) : (s.setEngine q e).chans = s.chans := rfl
@[simp] theorem setEngine_copies (s : State) (q : Nat) (e : Engine) : (s.setEngine q e).copies = s.copies := rfl
@[simp] theorem setEngine_task (s : State) (q : Nat) (e : Engine) : (s.setEngine q e).task = s.task := rfl
@[simp] theorem setEngine_kiln (s : State) (q : Nat) (e : Engine) : (s.setEngine q e).kiln = s.kiln := rfl
@[simp] theorem setEngine_dev (s : State) (q : Nat) (e : Engine) : (s.setEngine q e).dev = s.dev := rfl
@[simp] theorem setEngine_net (s : State) (q : Nat) (e : Engine) : (s.setEngine q e).net = s.net := rfl
@[simp] theorem setEngine_sched (s : State) (q : Nat) (e : Engine) : (s.setEngine q e).sched = s.sched := rfl

@[simp] theorem delReq_pe (s : State) (n : Nat) : (s.delReq n).pe = s.pe := rfl
@[simp] theorem delReq_ctxs (s : State) (n : Nat) : (s.delReq n).ctxs = s.ctxs := rfl
@[simp] theorem delReq_mem (s : State) (n : Nat) : (s.delReq n).mem = s.mem := rfl
@[simp] theorem delReq_sync_engines (s : State) (n : Nat) : (s.delReq n).sync.engines = s.sync.engines := rfl
@[simp] theorem delReq_sync_reqs (s : State) (n : Nat) : (s.delReq n).sync.reqs = s.sync.reqs.del n := rfl
@[simp] theorem delReq_sync_counters (s : State) (n : Nat) : (s.delReq n).sync.counters = s.sync.counters := rfl
@[simp] theorem delReq_sync_barriers (s : State) (n : Nat) : (s.delReq n).sync.barriers = s.sync.barriers := rfl
@[simp] theorem delReq_chans (s : State) (n : Nat) : (s.delReq n).chans = s.chans := rfl
@[simp] theorem delReq_copies (s : State) (n : Nat) : (s.delReq n).copies = s.copies := rfl
@[simp] theorem delReq_task (s : State) (n : Nat) : (s.delReq n).task = s.task := rfl
@[simp] theorem delReq_kiln (s : State) (n : Nat) : (s.delReq n).kiln = s.kiln := rfl
@[simp] theorem delReq_dev (s : State) (n : Nat) : (s.delReq n).dev = s.dev := rfl
@[simp] theorem delReq_net (s : State) (n : Nat) : (s.delReq n).net = s.net := rfl
@[simp] theorem delReq_sched (s : State) (n : Nat) : (s.delReq n).sched = s.sched := rfl

@[simp] theorem setCounter_pe (s : State) (c : Nat) (v : Counter) : (s.setCounter c v).pe = s.pe := rfl
@[simp] theorem setCounter_ctxs (s : State) (c : Nat) (v : Counter) : (s.setCounter c v).ctxs = s.ctxs := rfl
@[simp] theorem setCounter_mem (s : State) (c : Nat) (v : Counter) : (s.setCounter c v).mem = s.mem := rfl
@[simp] theorem setCounter_sync_engines (s : State) (c : Nat) (v : Counter) : (s.setCounter c v).sync.engines = s.sync.engines := rfl
@[simp] theorem setCounter_sync_reqs (s : State) (c : Nat) (v : Counter) : (s.setCounter c v).sync.reqs = s.sync.reqs := rfl
@[simp] theorem setCounter_sync_counters (s : State) (c : Nat) (v : Counter) : (s.setCounter c v).sync.counters = s.sync.counters.put c v := rfl
@[simp] theorem setCounter_sync_barriers (s : State) (c : Nat) (v : Counter) : (s.setCounter c v).sync.barriers = s.sync.barriers := rfl
@[simp] theorem setCounter_chans (s : State) (c : Nat) (v : Counter) : (s.setCounter c v).chans = s.chans := rfl
@[simp] theorem setCounter_copies (s : State) (c : Nat) (v : Counter) : (s.setCounter c v).copies = s.copies := rfl
@[simp] theorem setCounter_task (s : State) (c : Nat) (v : Counter) : (s.setCounter c v).task = s.task := rfl
@[simp] theorem setCounter_kiln (s : State) (c : Nat) (v : Counter) : (s.setCounter c v).kiln = s.kiln := rfl
@[simp] theorem setCounter_dev (s : State) (c : Nat) (v : Counter) : (s.setCounter c v).dev = s.dev := rfl
@[simp] theorem setCounter_net (s : State) (c : Nat) (v : Counter) : (s.setCounter c v).net = s.net := rfl
@[simp] theorem setCounter_sched (s : State) (c : Nat) (v : Counter) : (s.setCounter c v).sched = s.sched := rfl

@[simp] theorem setBarrier_pe (s : State) (k : Nat) (b : Barrier) : (s.setBarrier k b).pe = s.pe := rfl
@[simp] theorem setBarrier_ctxs (s : State) (k : Nat) (b : Barrier) : (s.setBarrier k b).ctxs = s.ctxs := rfl
@[simp] theorem setBarrier_mem (s : State) (k : Nat) (b : Barrier) : (s.setBarrier k b).mem = s.mem := rfl
@[simp] theorem setBarrier_sync_engines (s : State) (k : Nat) (b : Barrier) : (s.setBarrier k b).sync.engines = s.sync.engines := rfl
@[simp] theorem setBarrier_sync_reqs (s : State) (k : Nat) (b : Barrier) : (s.setBarrier k b).sync.reqs = s.sync.reqs := rfl
@[simp] theorem setBarrier_sync_counters (s : State) (k : Nat) (b : Barrier) : (s.setBarrier k b).sync.counters = s.sync.counters := rfl
@[simp] theorem setBarrier_sync_barriers (s : State) (k : Nat) (b : Barrier) : (s.setBarrier k b).sync.barriers = s.sync.barriers.put k b := rfl
@[simp] theorem setBarrier_chans (s : State) (k : Nat) (b : Barrier) : (s.setBarrier k b).chans = s.chans := rfl
@[simp] theorem setBarrier_copies (s : State) (k : Nat) (b : Barrier) : (s.setBarrier k b).copies = s.copies := rfl
@[simp] theorem setBarrier_task (s : State) (k : Nat) (b : Barrier) : (s.setBarrier k b).task = s.task := rfl
@[simp] theorem setBarrier_kiln (s : State) (k : Nat) (b : Barrier) : (s.setBarrier k b).kiln = s.kiln := rfl
@[simp] theorem setBarrier_dev (s : State) (k : Nat) (b : Barrier) : (s.setBarrier k b).dev = s.dev := rfl
@[simp] theorem setBarrier_net (s : State) (k : Nat) (b : Barrier) : (s.setBarrier k b).net = s.net := rfl
@[simp] theorem setBarrier_sched (s : State) (k : Nat) (b : Barrier) : (s.setBarrier k b).sched = s.sched := rfl

@[simp] theorem setChan_pe (s : State) (ch : Nat) (c : Chan) : (s.setChan ch c).pe = s.pe := rfl
@[simp] theorem setChan_ctxs (s : State) (ch : Nat) (c : Chan) : (s.setChan ch c).ctxs = s.ctxs := rfl
@[simp] theorem setChan_mem (s : State) (ch : Nat) (c : Chan) : (s.setChan ch c).mem = s.mem := rfl
@[simp] theorem setChan_sync (s : State) (ch : Nat) (c : Chan) : (s.setChan ch c).sync = s.sync := rfl
@[simp] theorem setChan_chans (s : State) (ch : Nat) (c : Chan) : (s.setChan ch c).chans = s.chans.put ch c := rfl
@[simp] theorem setChan_copies (s : State) (ch : Nat) (c : Chan) : (s.setChan ch c).copies = s.copies := rfl
@[simp] theorem setChan_task (s : State) (ch : Nat) (c : Chan) : (s.setChan ch c).task = s.task := rfl
@[simp] theorem setChan_kiln (s : State) (ch : Nat) (c : Chan) : (s.setChan ch c).kiln = s.kiln := rfl
@[simp] theorem setChan_dev (s : State) (ch : Nat) (c : Chan) : (s.setChan ch c).dev = s.dev := rfl
@[simp] theorem setChan_net (s : State) (ch : Nat) (c : Chan) : (s.setChan ch c).net = s.net := rfl
@[simp] theorem setChan_sched (s : State) (ch : Nat) (c : Chan) : (s.setChan ch c).sched = s.sched := rfl

@[simp] theorem acceptCopy_pe (s : State) (k : Copy) : (s.acceptCopy k).pe = s.pe := rfl
@[simp] theorem acceptCopy_ctxs (s : State) (k : Copy) : (s.acceptCopy k).ctxs = s.ctxs := rfl
@[simp] theorem acceptCopy_mem (s : State) (k : Copy) : (s.acceptCopy k).mem = s.mem := rfl
@[simp] theorem acceptCopy_sync (s : State) (k : Copy) : (s.acceptCopy k).sync = s.sync := rfl
@[simp] theorem acceptCopy_chans (s : State) (k : Copy) : (s.acceptCopy k).chans = s.chans := rfl
@[simp] theorem acceptCopy_copies (s : State) (k : Copy) : (s.acceptCopy k).copies = s.copies.put s.sched.serial k := rfl
@[simp] theorem acceptCopy_task (s : State) (k : Copy) : (s.acceptCopy k).task = s.task := rfl
@[simp] theorem acceptCopy_kiln (s : State) (k : Copy) : (s.acceptCopy k).kiln = s.kiln := rfl
@[simp] theorem acceptCopy_dev (s : State) (k : Copy) : (s.acceptCopy k).dev = s.dev := rfl
@[simp] theorem acceptCopy_net (s : State) (k : Copy) : (s.acceptCopy k).net = s.net := rfl
@[simp] theorem acceptCopy_sched_cycle (s : State) (k : Copy) : (s.acceptCopy k).sched.cycle = s.sched.cycle := rfl
@[simp] theorem acceptCopy_sched_plan (s : State) (k : Copy) : (s.acceptCopy k).sched.plan = s.sched.plan := rfl
@[simp] theorem acceptCopy_sched_turn (s : State) (k : Copy) : (s.acceptCopy k).sched.turn = s.sched.turn := rfl
@[simp] theorem acceptCopy_sched_serial (s : State) (k : Copy) : (s.acceptCopy k).sched.serial = s.sched.serial + 1 := rfl
@[simp] theorem acceptCopy_sched_free (s : State) (k : Copy) : (s.acceptCopy k).sched.free = s.sched.free := rfl
@[simp] theorem acceptCopy_sched_inbox (s : State) (k : Copy) : (s.acceptCopy k).sched.inbox = s.sched.inbox := rfl
@[simp] theorem acceptCopy_sched_pe (s : State) (k : Copy) : (s.acceptCopy k).sched.pe = s.sched.pe := rfl
@[simp] theorem acceptCopy_sched_frame (s : State) (k : Copy) : (s.acceptCopy k).sched.frame = s.sched.frame := rfl
@[simp] theorem acceptCopy_sched_idx (s : State) (k : Copy) : (s.acceptCopy k).sched.idx = s.sched.idx := rfl

@[simp] theorem toHost_pe (s : State) (o : HostOut) : (s.toHost o).pe = s.pe := by unfold State.toHost; split <;> rfl
@[simp] theorem toHost_ctxs (s : State) (o : HostOut) : (s.toHost o).ctxs = s.ctxs := by unfold State.toHost; split <;> rfl
@[simp] theorem toHost_mem (s : State) (o : HostOut) : (s.toHost o).mem = s.mem := by unfold State.toHost; split <;> rfl
@[simp] theorem toHost_sync (s : State) (o : HostOut) : (s.toHost o).sync = s.sync := by unfold State.toHost; split <;> rfl
@[simp] theorem toHost_chans (s : State) (o : HostOut) : (s.toHost o).chans = s.chans := by unfold State.toHost; split <;> rfl
@[simp] theorem toHost_copies (s : State) (o : HostOut) : (s.toHost o).copies = s.copies := by unfold State.toHost; split <;> rfl
@[simp] theorem toHost_task (s : State) (o : HostOut) : (s.toHost o).task = s.task := by unfold State.toHost; split <;> rfl
@[simp] theorem toHost_kiln (s : State) (o : HostOut) : (s.toHost o).kiln = s.kiln := by unfold State.toHost; split <;> rfl
@[simp] theorem toHost_dev_regs (s : State) (o : HostOut) : (s.toHost o).dev.regs = s.dev.regs := by unfold State.toHost; split <;> rfl
@[simp] theorem toHost_dev_requests (s : State) (o : HostOut) : (s.toHost o).dev.requests = s.dev.requests := by unfold State.toHost; split <;> rfl
@[simp] theorem toHost_dev_hostUp (s : State) (o : HostOut) : (s.toHost o).dev.hostUp = s.dev.hostUp := by unfold State.toHost; split <;> rfl
@[simp] theorem toHost_dev_parts (s : State) (o : HostOut) : (s.toHost o).dev.parts = s.dev.parts := by unfold State.toHost; split <;> rfl
@[simp] theorem toHost_dev_links (s : State) (o : HostOut) : (s.toHost o).dev.links = s.dev.links := by unfold State.toHost; split <;> rfl
@[simp] theorem toHost_dev_sessions (s : State) (o : HostOut) : (s.toHost o).dev.sessions = s.dev.sessions := by unfold State.toHost; split <;> rfl
@[simp] theorem toHost_dev_version (s : State) (o : HostOut) : (s.toHost o).dev.version = s.dev.version := by unfold State.toHost; split <;> rfl
@[simp] theorem toHost_dev_algs (s : State) (o : HostOut) : (s.toHost o).dev.algs = s.dev.algs := by unfold State.toHost; split <;> rfl
@[simp] theorem toHost_dev_stages (s : State) (o : HostOut) : (s.toHost o).dev.stages = s.dev.stages := by unfold State.toHost; split <;> rfl
@[simp] theorem toHost_dev_bootFailed (s : State) (o : HostOut) : (s.toHost o).dev.bootFailed = s.dev.bootFailed := by unfold State.toHost; split <;> rfl
@[simp] theorem toHost_dev_power (s : State) (o : HostOut) : (s.toHost o).dev.power = s.dev.power := by unfold State.toHost; split <;> rfl
@[simp] theorem toHost_dev_down (s : State) (o : HostOut) : (s.toHost o).dev.down = s.dev.down := by unfold State.toHost; split <;> rfl
@[simp] theorem toHost_dev_throttled (s : State) (o : HostOut) : (s.toHost o).dev.throttled = s.dev.throttled := by unfold State.toHost; split <;> rfl
@[simp] theorem toHost_dev_queues (s : State) (o : HostOut) : (s.toHost o).dev.queues = s.dev.queues := by unfold State.toHost; split <;> rfl
@[simp] theorem toHost_dev_out (s : State) (o : HostOut) : (s.toHost o).dev.out = if s.dev.hostUp then o :: s.dev.out else s.dev.out := by
  unfold State.toHost; split <;> rfl
@[simp] theorem toHost_dev_keysDrawn (s : State) (o : HostOut) : (s.toHost o).dev.keysDrawn = s.dev.keysDrawn := by unfold State.toHost; split <;> rfl
@[simp] theorem toHost_dev_linkKeys (s : State) (o : HostOut) : (s.toHost o).dev.linkKeys = s.dev.linkKeys := by unfold State.toHost; split <;> rfl
@[simp] theorem toHost_net (s : State) (o : HostOut) : (s.toHost o).net = s.net := by unfold State.toHost; split <;> rfl
@[simp] theorem toHost_sched (s : State) (o : HostOut) : (s.toHost o).sched = s.sched := by unfold State.toHost; split <;> rfl

@[simp] theorem setPart_pe (s : State) (p : Nat) (v : Part) : (s.setPart p v).pe = s.pe := rfl
@[simp] theorem setPart_ctxs (s : State) (p : Nat) (v : Part) : (s.setPart p v).ctxs = s.ctxs := rfl
@[simp] theorem setPart_mem (s : State) (p : Nat) (v : Part) : (s.setPart p v).mem = s.mem := rfl
@[simp] theorem setPart_sync (s : State) (p : Nat) (v : Part) : (s.setPart p v).sync = s.sync := rfl
@[simp] theorem setPart_chans (s : State) (p : Nat) (v : Part) : (s.setPart p v).chans = s.chans := rfl
@[simp] theorem setPart_copies (s : State) (p : Nat) (v : Part) : (s.setPart p v).copies = s.copies := rfl
@[simp] theorem setPart_task (s : State) (p : Nat) (v : Part) : (s.setPart p v).task = s.task := rfl
@[simp] theorem setPart_kiln (s : State) (p : Nat) (v : Part) : (s.setPart p v).kiln = s.kiln := rfl
@[simp] theorem setPart_dev_regs (s : State) (p : Nat) (v : Part) : (s.setPart p v).dev.regs = s.dev.regs := rfl
@[simp] theorem setPart_dev_requests (s : State) (p : Nat) (v : Part) : (s.setPart p v).dev.requests = s.dev.requests := rfl
@[simp] theorem setPart_dev_hostUp (s : State) (p : Nat) (v : Part) : (s.setPart p v).dev.hostUp = s.dev.hostUp := rfl
@[simp] theorem setPart_dev_parts (s : State) (p : Nat) (v : Part) : (s.setPart p v).dev.parts = s.dev.parts.put p v := rfl
@[simp] theorem setPart_dev_links (s : State) (p : Nat) (v : Part) : (s.setPart p v).dev.links = s.dev.links := rfl
@[simp] theorem setPart_dev_sessions (s : State) (p : Nat) (v : Part) : (s.setPart p v).dev.sessions = s.dev.sessions := rfl
@[simp] theorem setPart_dev_version (s : State) (p : Nat) (v : Part) : (s.setPart p v).dev.version = s.dev.version := rfl
@[simp] theorem setPart_dev_algs (s : State) (p : Nat) (v : Part) : (s.setPart p v).dev.algs = s.dev.algs := rfl
@[simp] theorem setPart_dev_stages (s : State) (p : Nat) (v : Part) : (s.setPart p v).dev.stages = s.dev.stages := rfl
@[simp] theorem setPart_dev_bootFailed (s : State) (p : Nat) (v : Part) : (s.setPart p v).dev.bootFailed = s.dev.bootFailed := rfl
@[simp] theorem setPart_dev_power (s : State) (p : Nat) (v : Part) : (s.setPart p v).dev.power = s.dev.power := rfl
@[simp] theorem setPart_dev_down (s : State) (p : Nat) (v : Part) : (s.setPart p v).dev.down = s.dev.down := rfl
@[simp] theorem setPart_dev_throttled (s : State) (p : Nat) (v : Part) : (s.setPart p v).dev.throttled = s.dev.throttled := rfl
@[simp] theorem setPart_dev_queues (s : State) (p : Nat) (v : Part) : (s.setPart p v).dev.queues = s.dev.queues := rfl
@[simp] theorem setPart_dev_out (s : State) (p : Nat) (v : Part) : (s.setPart p v).dev.out = s.dev.out := rfl
@[simp] theorem setPart_dev_keysDrawn (s : State) (p : Nat) (v : Part) : (s.setPart p v).dev.keysDrawn = s.dev.keysDrawn := rfl
@[simp] theorem setPart_dev_linkKeys (s : State) (p : Nat) (v : Part) : (s.setPart p v).dev.linkKeys = s.dev.linkKeys := rfl
@[simp] theorem setPart_net (s : State) (p : Nat) (v : Part) : (s.setPart p v).net = s.net := rfl
@[simp] theorem setPart_sched (s : State) (p : Nat) (v : Part) : (s.setPart p v).sched = s.sched := rfl

@[simp] theorem setSession_pe (s : State) (n : Nat) (v : Session) : (s.setSession n v).pe = s.pe := rfl
@[simp] theorem setSession_ctxs (s : State) (n : Nat) (v : Session) : (s.setSession n v).ctxs = s.ctxs := rfl
@[simp] theorem setSession_mem (s : State) (n : Nat) (v : Session) : (s.setSession n v).mem = s.mem := rfl
@[simp] theorem setSession_sync (s : State) (n : Nat) (v : Session) : (s.setSession n v).sync = s.sync := rfl
@[simp] theorem setSession_chans (s : State) (n : Nat) (v : Session) : (s.setSession n v).chans = s.chans := rfl
@[simp] theorem setSession_copies (s : State) (n : Nat) (v : Session) : (s.setSession n v).copies = s.copies := rfl
@[simp] theorem setSession_task (s : State) (n : Nat) (v : Session) : (s.setSession n v).task = s.task := rfl
@[simp] theorem setSession_kiln (s : State) (n : Nat) (v : Session) : (s.setSession n v).kiln = s.kiln := rfl
@[simp] theorem setSession_dev_regs (s : State) (n : Nat) (v : Session) : (s.setSession n v).dev.regs = s.dev.regs := rfl
@[simp] theorem setSession_dev_requests (s : State) (n : Nat) (v : Session) : (s.setSession n v).dev.requests = s.dev.requests := rfl
@[simp] theorem setSession_dev_hostUp (s : State) (n : Nat) (v : Session) : (s.setSession n v).dev.hostUp = s.dev.hostUp := rfl
@[simp] theorem setSession_dev_parts (s : State) (n : Nat) (v : Session) : (s.setSession n v).dev.parts = s.dev.parts := rfl
@[simp] theorem setSession_dev_links (s : State) (n : Nat) (v : Session) : (s.setSession n v).dev.links = s.dev.links := rfl
@[simp] theorem setSession_dev_sessions (s : State) (n : Nat) (v : Session) : (s.setSession n v).dev.sessions = s.dev.sessions.put n v := rfl
@[simp] theorem setSession_dev_version (s : State) (n : Nat) (v : Session) : (s.setSession n v).dev.version = s.dev.version := rfl
@[simp] theorem setSession_dev_algs (s : State) (n : Nat) (v : Session) : (s.setSession n v).dev.algs = s.dev.algs := rfl
@[simp] theorem setSession_dev_stages (s : State) (n : Nat) (v : Session) : (s.setSession n v).dev.stages = s.dev.stages := rfl
@[simp] theorem setSession_dev_bootFailed (s : State) (n : Nat) (v : Session) : (s.setSession n v).dev.bootFailed = s.dev.bootFailed := rfl
@[simp] theorem setSession_dev_power (s : State) (n : Nat) (v : Session) : (s.setSession n v).dev.power = s.dev.power := rfl
@[simp] theorem setSession_dev_down (s : State) (n : Nat) (v : Session) : (s.setSession n v).dev.down = s.dev.down := rfl
@[simp] theorem setSession_dev_throttled (s : State) (n : Nat) (v : Session) : (s.setSession n v).dev.throttled = s.dev.throttled := rfl
@[simp] theorem setSession_dev_queues (s : State) (n : Nat) (v : Session) : (s.setSession n v).dev.queues = s.dev.queues := rfl
@[simp] theorem setSession_dev_out (s : State) (n : Nat) (v : Session) : (s.setSession n v).dev.out = s.dev.out := rfl
@[simp] theorem setSession_dev_keysDrawn (s : State) (n : Nat) (v : Session) : (s.setSession n v).dev.keysDrawn = s.dev.keysDrawn := rfl
@[simp] theorem setSession_dev_linkKeys (s : State) (n : Nat) (v : Session) : (s.setSession n v).dev.linkKeys = s.dev.linkKeys := rfl
@[simp] theorem setSession_net (s : State) (n : Nat) (v : Session) : (s.setSession n v).net = s.net := rfl
@[simp] theorem setSession_sched (s : State) (n : Nat) (v : Session) : (s.setSession n v).sched = s.sched := rfl

@[simp] theorem setLink_pe (s : State) (l : Nat) (v : Link) : (s.setLink l v).pe = s.pe := rfl
@[simp] theorem setLink_ctxs (s : State) (l : Nat) (v : Link) : (s.setLink l v).ctxs = s.ctxs := rfl
@[simp] theorem setLink_mem (s : State) (l : Nat) (v : Link) : (s.setLink l v).mem = s.mem := rfl
@[simp] theorem setLink_sync (s : State) (l : Nat) (v : Link) : (s.setLink l v).sync = s.sync := rfl
@[simp] theorem setLink_chans (s : State) (l : Nat) (v : Link) : (s.setLink l v).chans = s.chans := rfl
@[simp] theorem setLink_copies (s : State) (l : Nat) (v : Link) : (s.setLink l v).copies = s.copies := rfl
@[simp] theorem setLink_task (s : State) (l : Nat) (v : Link) : (s.setLink l v).task = s.task := rfl
@[simp] theorem setLink_kiln (s : State) (l : Nat) (v : Link) : (s.setLink l v).kiln = s.kiln := rfl
@[simp] theorem setLink_dev_regs (s : State) (l : Nat) (v : Link) : (s.setLink l v).dev.regs = s.dev.regs := rfl
@[simp] theorem setLink_dev_requests (s : State) (l : Nat) (v : Link) : (s.setLink l v).dev.requests = s.dev.requests := rfl
@[simp] theorem setLink_dev_hostUp (s : State) (l : Nat) (v : Link) : (s.setLink l v).dev.hostUp = s.dev.hostUp := rfl
@[simp] theorem setLink_dev_parts (s : State) (l : Nat) (v : Link) : (s.setLink l v).dev.parts = s.dev.parts := rfl
@[simp] theorem setLink_dev_links (s : State) (l : Nat) (v : Link) : (s.setLink l v).dev.links = s.dev.links.put l v := rfl
@[simp] theorem setLink_dev_sessions (s : State) (l : Nat) (v : Link) : (s.setLink l v).dev.sessions = s.dev.sessions := rfl
@[simp] theorem setLink_dev_version (s : State) (l : Nat) (v : Link) : (s.setLink l v).dev.version = s.dev.version := rfl
@[simp] theorem setLink_dev_algs (s : State) (l : Nat) (v : Link) : (s.setLink l v).dev.algs = s.dev.algs := rfl
@[simp] theorem setLink_dev_stages (s : State) (l : Nat) (v : Link) : (s.setLink l v).dev.stages = s.dev.stages := rfl
@[simp] theorem setLink_dev_bootFailed (s : State) (l : Nat) (v : Link) : (s.setLink l v).dev.bootFailed = s.dev.bootFailed := rfl
@[simp] theorem setLink_dev_power (s : State) (l : Nat) (v : Link) : (s.setLink l v).dev.power = s.dev.power := rfl
@[simp] theorem setLink_dev_down (s : State) (l : Nat) (v : Link) : (s.setLink l v).dev.down = s.dev.down := rfl
@[simp] theorem setLink_dev_throttled (s : State) (l : Nat) (v : Link) : (s.setLink l v).dev.throttled = s.dev.throttled := rfl
@[simp] theorem setLink_dev_queues (s : State) (l : Nat) (v : Link) : (s.setLink l v).dev.queues = s.dev.queues := rfl
@[simp] theorem setLink_dev_out (s : State) (l : Nat) (v : Link) : (s.setLink l v).dev.out = s.dev.out := rfl
@[simp] theorem setLink_dev_keysDrawn (s : State) (l : Nat) (v : Link) : (s.setLink l v).dev.keysDrawn = s.dev.keysDrawn := rfl
@[simp] theorem setLink_dev_linkKeys (s : State) (l : Nat) (v : Link) : (s.setLink l v).dev.linkKeys = s.dev.linkKeys := rfl
@[simp] theorem setLink_net (s : State) (l : Nat) (v : Link) : (s.setLink l v).net = s.net := rfl
@[simp] theorem setLink_sched (s : State) (l : Nat) (v : Link) : (s.setLink l v).sched = s.sched := rfl

@[simp] theorem dropRequest_pe (s : State) (k : Nat) : (s.dropRequest k).pe = s.pe := rfl
@[simp] theorem dropRequest_ctxs (s : State) (k : Nat) : (s.dropRequest k).ctxs = s.ctxs := rfl
@[simp] theorem dropRequest_mem (s : State) (k : Nat) : (s.dropRequest k).mem = s.mem := rfl
@[simp] theorem dropRequest_sync (s : State) (k : Nat) : (s.dropRequest k).sync = s.sync := rfl
@[simp] theorem dropRequest_chans (s : State) (k : Nat) : (s.dropRequest k).chans = s.chans := rfl
@[simp] theorem dropRequest_copies (s : State) (k : Nat) : (s.dropRequest k).copies = s.copies := rfl
@[simp] theorem dropRequest_task (s : State) (k : Nat) : (s.dropRequest k).task = s.task := rfl
@[simp] theorem dropRequest_kiln (s : State) (k : Nat) : (s.dropRequest k).kiln = s.kiln := rfl
@[simp] theorem dropRequest_dev_regs (s : State) (k : Nat) : (s.dropRequest k).dev.regs = s.dev.regs := rfl
@[simp] theorem dropRequest_dev_requests (s : State) (k : Nat) : (s.dropRequest k).dev.requests = s.dev.requests.del k := rfl
@[simp] theorem dropRequest_dev_hostUp (s : State) (k : Nat) : (s.dropRequest k).dev.hostUp = s.dev.hostUp := rfl
@[simp] theorem dropRequest_dev_parts (s : State) (k : Nat) : (s.dropRequest k).dev.parts = s.dev.parts := rfl
@[simp] theorem dropRequest_dev_links (s : State) (k : Nat) : (s.dropRequest k).dev.links = s.dev.links := rfl
@[simp] theorem dropRequest_dev_sessions (s : State) (k : Nat) : (s.dropRequest k).dev.sessions = s.dev.sessions := rfl
@[simp] theorem dropRequest_dev_version (s : State) (k : Nat) : (s.dropRequest k).dev.version = s.dev.version := rfl
@[simp] theorem dropRequest_dev_algs (s : State) (k : Nat) : (s.dropRequest k).dev.algs = s.dev.algs := rfl
@[simp] theorem dropRequest_dev_stages (s : State) (k : Nat) : (s.dropRequest k).dev.stages = s.dev.stages := rfl
@[simp] theorem dropRequest_dev_bootFailed (s : State) (k : Nat) : (s.dropRequest k).dev.bootFailed = s.dev.bootFailed := rfl
@[simp] theorem dropRequest_dev_power (s : State) (k : Nat) : (s.dropRequest k).dev.power = s.dev.power := rfl
@[simp] theorem dropRequest_dev_down (s : State) (k : Nat) : (s.dropRequest k).dev.down = s.dev.down := rfl
@[simp] theorem dropRequest_dev_throttled (s : State) (k : Nat) : (s.dropRequest k).dev.throttled = s.dev.throttled := rfl
@[simp] theorem dropRequest_dev_queues (s : State) (k : Nat) : (s.dropRequest k).dev.queues = s.dev.queues := rfl
@[simp] theorem dropRequest_dev_out (s : State) (k : Nat) : (s.dropRequest k).dev.out = s.dev.out := rfl
@[simp] theorem dropRequest_dev_keysDrawn (s : State) (k : Nat) : (s.dropRequest k).dev.keysDrawn = s.dev.keysDrawn := rfl
@[simp] theorem dropRequest_dev_linkKeys (s : State) (k : Nat) : (s.dropRequest k).dev.linkKeys = s.dev.linkKeys := rfl
@[simp] theorem dropRequest_net (s : State) (k : Nat) : (s.dropRequest k).net = s.net := rfl
@[simp] theorem dropRequest_sched (s : State) (k : Nat) : (s.dropRequest k).sched = s.sched := rfl

@[simp] theorem post_pe (s : State) (a b : Agent) (c : Nat) (m : Msg) : (s.post a b c m).pe = s.pe := rfl
@[simp] theorem post_ctxs (s : State) (a b : Agent) (c : Nat) (m : Msg) : (s.post a b c m).ctxs = s.ctxs := rfl
@[simp] theorem post_mem (s : State) (a b : Agent) (c : Nat) (m : Msg) : (s.post a b c m).mem = s.mem := rfl
@[simp] theorem post_sync (s : State) (a b : Agent) (c : Nat) (m : Msg) : (s.post a b c m).sync = s.sync := rfl
@[simp] theorem post_chans (s : State) (a b : Agent) (c : Nat) (m : Msg) : (s.post a b c m).chans = s.chans := rfl
@[simp] theorem post_copies (s : State) (a b : Agent) (c : Nat) (m : Msg) : (s.post a b c m).copies = s.copies := rfl
@[simp] theorem post_task (s : State) (a b : Agent) (c : Nat) (m : Msg) : (s.post a b c m).task = s.task := rfl
@[simp] theorem post_kiln (s : State) (a b : Agent) (c : Nat) (m : Msg) : (s.post a b c m).kiln = s.kiln := rfl
@[simp] theorem post_dev (s : State) (a b : Agent) (c : Nat) (m : Msg) : (s.post a b c m).dev = s.dev := rfl
@[simp] theorem post_net (s : State) (a b : Agent) (c : Nat) (m : Msg) : (s.post a b c m).net = s.net.put s.sched.serial { src := a, dst := b, cls := c, ctx := s.workOf m, sent := s.sched.cycle, body := m, wire := s.wireOf b c (s.workOf m) m, refusals := 0, refused := false } := rfl
@[simp] theorem post_sched_cycle (s : State) (a b : Agent) (c : Nat) (m : Msg) : (s.post a b c m).sched.cycle = s.sched.cycle := rfl
@[simp] theorem post_sched_plan (s : State) (a b : Agent) (c : Nat) (m : Msg) : (s.post a b c m).sched.plan = s.sched.plan := rfl
@[simp] theorem post_sched_turn (s : State) (a b : Agent) (c : Nat) (m : Msg) : (s.post a b c m).sched.turn = s.sched.turn := rfl
@[simp] theorem post_sched_serial (s : State) (a b : Agent) (c : Nat) (m : Msg) : (s.post a b c m).sched.serial = s.sched.serial + 1 := rfl
@[simp] theorem post_sched_free (s : State) (a b : Agent) (c : Nat) (m : Msg) : (s.post a b c m).sched.free = s.sched.free := rfl
@[simp] theorem post_sched_inbox (s : State) (a b : Agent) (c : Nat) (m : Msg) : (s.post a b c m).sched.inbox = s.sched.inbox := rfl
@[simp] theorem post_sched_pe (s : State) (a b : Agent) (c : Nat) (m : Msg) : (s.post a b c m).sched.pe = s.sched.pe := rfl
@[simp] theorem post_sched_frame (s : State) (a b : Agent) (c : Nat) (m : Msg) : (s.post a b c m).sched.frame = s.sched.frame := rfl
@[simp] theorem post_sched_idx (s : State) (a b : Agent) (c : Nat) (m : Msg) : (s.post a b c m).sched.idx = s.sched.idx := rfl

@[simp] theorem postFor_pe (s : State) (w : Nat) (a b : Agent) (c : Nat) (m : Msg) : (s.postFor w a b c m).pe = s.pe := rfl
@[simp] theorem postFor_ctxs (s : State) (w : Nat) (a b : Agent) (c : Nat) (m : Msg) : (s.postFor w a b c m).ctxs = s.ctxs := rfl
@[simp] theorem postFor_mem (s : State) (w : Nat) (a b : Agent) (c : Nat) (m : Msg) : (s.postFor w a b c m).mem = s.mem := rfl
@[simp] theorem postFor_sync (s : State) (w : Nat) (a b : Agent) (c : Nat) (m : Msg) : (s.postFor w a b c m).sync = s.sync := rfl
@[simp] theorem postFor_chans (s : State) (w : Nat) (a b : Agent) (c : Nat) (m : Msg) : (s.postFor w a b c m).chans = s.chans := rfl
@[simp] theorem postFor_copies (s : State) (w : Nat) (a b : Agent) (c : Nat) (m : Msg) : (s.postFor w a b c m).copies = s.copies := rfl
@[simp] theorem postFor_task (s : State) (w : Nat) (a b : Agent) (c : Nat) (m : Msg) : (s.postFor w a b c m).task = s.task := rfl
@[simp] theorem postFor_kiln (s : State) (w : Nat) (a b : Agent) (c : Nat) (m : Msg) : (s.postFor w a b c m).kiln = s.kiln := rfl
@[simp] theorem postFor_dev (s : State) (w : Nat) (a b : Agent) (c : Nat) (m : Msg) : (s.postFor w a b c m).dev = s.dev := rfl
@[simp] theorem postFor_net (s : State) (w : Nat) (a b : Agent) (c : Nat) (m : Msg) : (s.postFor w a b c m).net = s.net.put s.sched.serial { src := a, dst := b, cls := c, ctx := w, sent := s.sched.cycle, body := m, wire := s.wireOf b c w m, refusals := 0, refused := false } := rfl
@[simp] theorem postFor_sched_cycle (s : State) (w : Nat) (a b : Agent) (c : Nat) (m : Msg) : (s.postFor w a b c m).sched.cycle = s.sched.cycle := rfl
@[simp] theorem postFor_sched_plan (s : State) (w : Nat) (a b : Agent) (c : Nat) (m : Msg) : (s.postFor w a b c m).sched.plan = s.sched.plan := rfl
@[simp] theorem postFor_sched_turn (s : State) (w : Nat) (a b : Agent) (c : Nat) (m : Msg) : (s.postFor w a b c m).sched.turn = s.sched.turn := rfl
@[simp] theorem postFor_sched_serial (s : State) (w : Nat) (a b : Agent) (c : Nat) (m : Msg) : (s.postFor w a b c m).sched.serial = s.sched.serial + 1 := rfl
@[simp] theorem postFor_sched_free (s : State) (w : Nat) (a b : Agent) (c : Nat) (m : Msg) : (s.postFor w a b c m).sched.free = s.sched.free := rfl
@[simp] theorem postFor_sched_inbox (s : State) (w : Nat) (a b : Agent) (c : Nat) (m : Msg) : (s.postFor w a b c m).sched.inbox = s.sched.inbox := rfl
@[simp] theorem postFor_sched_pe (s : State) (w : Nat) (a b : Agent) (c : Nat) (m : Msg) : (s.postFor w a b c m).sched.pe = s.sched.pe := rfl
@[simp] theorem postFor_sched_frame (s : State) (w : Nat) (a b : Agent) (c : Nat) (m : Msg) : (s.postFor w a b c m).sched.frame = s.sched.frame := rfl
@[simp] theorem postFor_sched_idx (s : State) (w : Nat) (a b : Agent) (c : Nat) (m : Msg) : (s.postFor w a b c m).sched.idx = s.sched.idx := rfl

@[simp] theorem taken_pe (s : State) (n : Nat) : (s.taken n).pe = s.pe := rfl
@[simp] theorem taken_ctxs (s : State) (n : Nat) : (s.taken n).ctxs = s.ctxs := rfl
@[simp] theorem taken_mem (s : State) (n : Nat) : (s.taken n).mem = s.mem := rfl
@[simp] theorem taken_sync (s : State) (n : Nat) : (s.taken n).sync = s.sync := rfl
@[simp] theorem taken_chans (s : State) (n : Nat) : (s.taken n).chans = s.chans := rfl
@[simp] theorem taken_copies (s : State) (n : Nat) : (s.taken n).copies = s.copies := rfl
@[simp] theorem taken_task (s : State) (n : Nat) : (s.taken n).task = s.task := rfl
@[simp] theorem taken_kiln (s : State) (n : Nat) : (s.taken n).kiln = s.kiln := rfl
@[simp] theorem taken_dev (s : State) (n : Nat) : (s.taken n).dev = s.dev := rfl
@[simp] theorem taken_net (s : State) (n : Nat) : (s.taken n).net = s.net.del n := rfl
@[simp] theorem taken_sched (s : State) (n : Nat) : (s.taken n).sched = s.sched := rfl

@[simp] theorem setEnv_pe (s : State) (n : Nat) (e : Env) : (s.setEnv n e).pe = s.pe := rfl
@[simp] theorem setEnv_ctxs (s : State) (n : Nat) (e : Env) : (s.setEnv n e).ctxs = s.ctxs := rfl
@[simp] theorem setEnv_mem (s : State) (n : Nat) (e : Env) : (s.setEnv n e).mem = s.mem := rfl
@[simp] theorem setEnv_sync (s : State) (n : Nat) (e : Env) : (s.setEnv n e).sync = s.sync := rfl
@[simp] theorem setEnv_chans (s : State) (n : Nat) (e : Env) : (s.setEnv n e).chans = s.chans := rfl
@[simp] theorem setEnv_copies (s : State) (n : Nat) (e : Env) : (s.setEnv n e).copies = s.copies := rfl
@[simp] theorem setEnv_task (s : State) (n : Nat) (e : Env) : (s.setEnv n e).task = s.task := rfl
@[simp] theorem setEnv_kiln (s : State) (n : Nat) (e : Env) : (s.setEnv n e).kiln = s.kiln := rfl
@[simp] theorem setEnv_dev (s : State) (n : Nat) (e : Env) : (s.setEnv n e).dev = s.dev := rfl
@[simp] theorem setEnv_net (s : State) (n : Nat) (e : Env) : (s.setEnv n e).net = s.net.put n e := rfl
@[simp] theorem setEnv_sched (s : State) (n : Nat) (e : Env) : (s.setEnv n e).sched = s.sched := rfl

end Sys2Proof.Machine
end

