-- ==== Sys2Proof/Laws/Fire.lean ====
section
/-! SUPPORT. What tables, tokens and the end of a firing do: the lemmas that statements about single instructions cite. -/

namespace Sys2Proof

theorem Tab.get?_put_same {α : Type} (k : Nat) (v : α) (t : Tab α) : Tab.get? k (t.put k v) = some v := by
  induction t with
  | nil => simp [Tab.put, Tab.get?]
  | cons p t ih =>
    obtain ⟨j, w⟩ := p
    by_cases h : j = k
    · simp [Tab.put, Tab.get?, h]
    · by_cases h2 : k < j
      · simp [Tab.put, Tab.get?, h, h2]
      · simp [Tab.put, Tab.get?, h, h2, ih]

theorem Tab.get?_put_ne {α : Type} {k j : Nat} (h : j ≠ k) (v : α) (t : Tab α) : Tab.get? j (t.put k v) = Tab.get? j t := by
  induction t with
  | nil => simp [Tab.put, Tab.get?, h.symm]
  | cons p t ih =>
    obtain ⟨i, w⟩ := p
    by_cases hi : i = k
    · subst hi; simp [Tab.put, Tab.get?, h.symm]
    · by_cases h2 : k < i
      · simp [Tab.put, Tab.get?, hi, h2, h.symm]
      · simp [Tab.put, Tab.get?, hi, h2, ih]

namespace Machine

theorem frameKey_div_mod (k : Nat) : frameKey (k / 256) (k % 256) = k := by
  unfold frameKey; omega

@[simp] theorem setFrame_frame?_same (s : State) (k : Nat) (fr : Frame) : (s.setFrame k fr).frame? k = some fr := by
  simp [State.setFrame, State.frame?, Tab.get?_put_same]

theorem setFrame_frame?_ne (s : State) {k j : Nat} (h : j ≠ k) (fr : Frame) : (s.setFrame k fr).frame? j = s.frame? j := by
  simp [State.setFrame, State.frame?, Tab.get?_put_ne h]

theorem modFrame_frame? (s : State) (k : Nat) (g : Frame → Frame) : (s.modFrame k g).frame? k = (s.frame? k).map g := by
  unfold State.modFrame
  cases h : s.frame? k <;> simp [h]

theorem modFrame_of_some {s : State} {k : Nat} {fr : Frame} (h : s.frame? k = some fr) (g : Frame → Frame) :
    s.modFrame k g = s.setFrame k (g fr) := by
  simp [State.modFrame, h]

@[simp] theorem modFrame_ctxs (s : State) (k : Nat) (g : Frame → Frame) : (s.modFrame k g).ctxs = s.ctxs := by
  unfold State.modFrame; split <;> rfl

@[simp] theorem modFrame_mem (s : State) (k : Nat) (g : Frame → Frame) : (s.modFrame k g).mem = s.mem := by
  unfold State.modFrame; split <;> rfl

@[simp] theorem post_frame? (s : State) (a b : Agent) (c : Nat) (m : Msg) (k : Nat) : (s.post a b c m).frame? k = s.frame? k := rfl

/-- What a release of references leaves alone. -/
structure RefsOnly (s t : State) : Prop where
  frames : t.pe.frames = s.pe.frames
  ctxs : t.ctxs = s.ctxs

theorem RefsOnly.refl (s : State) : RefsOnly s s := ⟨rfl, rfl⟩
theorem RefsOnly.trans {s t u : State} (h : RefsOnly s t) (g : RefsOnly t u) : RefsOnly s u :=
  ⟨g.frames.trans h.frames, g.ctxs.trans h.ctxs⟩

theorem dropRef_refs (s : State) (h : Word) : RefsOnly s (s.dropRef h) := by
  unfold State.dropRef; split
  · exact .refl s
  · exact ⟨rfl, rfl⟩

theorem dropTok_refs (s : State) (pe : Nat) (t : Tok) : RefsOnly s (s.dropTok pe t) := by
  unfold State.dropTok; split
  · unfold State.release; split
    · exact dropRef_refs s _
    · exact ⟨rfl, rfl⟩
  · exact .refl s

theorem dropToks_refs (s : State) (pe : Nat) (l : List Tok) : RefsOnly s (s.dropToks pe l) := by
  unfold State.dropToks
  induction l generalizing s with
  | nil => exact .refl s
  | cons t l ih => exact (dropTok_refs s pe t).trans (ih _)

@[simp] theorem dropToks_frame? (s : State) (pe : Nat) (l : List Tok) (k : Nat) : (s.dropToks pe l).frame? k = s.frame? k := by
  simp [State.frame?, (dropToks_refs s pe l).frames]

@[simp] theorem dropToks_ctxs (s : State) (pe : Nat) (l : List Tok) : (s.dropToks pe l).ctxs = s.ctxs := (dropToks_refs s pe l).ctxs

@[simp] theorem dropToks_nil (s : State) (pe : Nat) : s.dropToks pe [] = s := rfl

/-! ### Sends -/

theorem firing_frame {i : Instr} {s : State} {f : Firing} (h : s.firing i = some f) :
    s.frame? f.key = some f.fr ∧ s.ctx? f.fr.ctx = some f.x ∧ f.h = i.hdr := by
  unfold State.firing at h
  simp only at h
  split at h
  · cases h
  · rename_i fr hfr
    split at h
    · cases h
    · rename_i x hx
      split at h
      · cases h; exact ⟨hfr, hx, rfl⟩
      · cases h

theorem slotOf_of_ctxs {s t : State} (h : t.ctxs = s.ctxs) (c : Nat) : t.slotOf c = s.slotOf c := by
  simp [State.slotOf, State.ctx?, h]

theorem slotOf_firing {i : Instr} {s : State} {f : Firing} (h : s.firing i = some f) : s.slotOf f.fr.ctx = f.x.slot := by
  simp [State.slotOf, (firing_frame h).2.1]

/-- One send where the target can take the token. -/
theorem sendTo_arrive (s : State) (f : Firing) (fr : Frame) (tgt : Target) (t : Tok) (hf : s.frame? f.key = some fr)
    (hs : s.slotOf f.fr.ctx = f.x.slot) (hw : ∀ e, tgt = .write e → fr.outs.get? e.toNat = none) :
    s.sendTo f.src tgt t = some (s.arrive f tgt t) := by
  cases tgt with
  | none => rfl
  | slot sd j => simp [State.sendTo, State.arrive, Firing.src, srcOf, hs, Firing.pe]
  | write e =>
    have := hw e rfl
    simp [State.sendTo, State.arrive, Firing.src, srcOf, frameKey_div_mod, hf, this, modFrame_of_some hf]

theorem arrive_frame? (s : State) (f : Firing) (fr : Frame) (tgt : Target) (t : Tok) (hf : s.frame? f.key = some fr) :
    (s.arrive f tgt t).frame? f.key =
      some (match tgt with | .write e => { fr with outs := fr.outs.put e.toNat t } | _ => fr) := by
  cases tgt with
  | none => exact hf
  | slot sd j => exact hf
  | write e => simp [State.arrive, modFrame_of_some hf]

theorem arrive_ctxs (s : State) (f : Firing) (tgt : Target) (t : Tok) : (s.arrive f tgt t).ctxs = s.ctxs := by
  cases tgt with
  | none => rfl
  | slot sd j => rfl
  | write e => simp [State.arrive]

/-- Both sends where the targets are clear. -/
theorem sends_arrive (s : State) (f : Firing) (fr : Frame) (r0 r1 : Option Tok) (hf : s.frame? f.key = some fr)
    (hs : s.slotOf f.fr.ctx = f.x.slot) (ho : fr.outs = f.fr.outs) (hc : f.clear = true) :
    s.sends f r0 r1 = some ((s.arrive? f f.h.t0 r0).arrive? f f.h.t1 r1) := by
  simp only [Firing.clear, Bool.and_eq_true] at hc
  obtain ⟨⟨h0, h1⟩, h2⟩ := hc
  have w0 : ∀ e, f.h.t0 = .write e → fr.outs.get? e.toNat = none := by
    intro e he; simpa [Firing.entryFree, he, ho] using h0
  have w1 : ∀ e, f.h.t1 = .write e → fr.outs.get? e.toNat = none := by
    intro e he; simpa [Firing.entryFree, he, ho] using h1
  unfold State.sends
  cases r0 with
  | none =>
    cases r1 with
    | none => rfl
    | some t1 => exact sendTo_arrive s f fr _ t1 hf hs w1
  | some t0 =>
    simp only [sendTo_arrive s f fr _ t0 hf hs w0, State.arrive?]
    cases r1 with
    | none => rfl
    | some t1 =>
      have hf' := arrive_frame? s f fr f.h.t0 t0 hf
      refine sendTo_arrive _ f _ _ t1 hf' ?_ ?_
      · rw [slotOf_of_ctxs (arrive_ctxs s f _ t0), hs]
      · intro e he
        cases h : f.h.t0 with
        | none => simp [w1 e he]
        | slot sd j => simp [w1 e he]
        | write k =>
          simp only [h, he] at h2
          have hk : e.toNat ≠ k.toNat := by
            intro hh; have : k = e := BitVec.eq_of_toNat_eq hh.symm
            simp [this] at h2
          simp [Tab.get?_put_ne hk, w1 e he]

/-! ### An instruction that performs -/

/-- A body that answers, and sends no handle whose reference is still to be counted: the instruction performs. -/
theorem fire_retire {i : Instr} {s : State} {f : Firing} {body : Body} {d : Done} (h : Fires i s f) (hb : body f s = .ok d)
    (ha : d.again = false) (hn : d.fresh = true ∨ ∀ t ∈ d.t0.toList ++ d.t1.toList, t.kind ≠ .tile)
    (hf : ∃ fr, d.st.frame? f.key = some fr ∧ fr.outs = f.fr.outs) (hs : d.st.ctxs = s.ctxs) (hc : f.clear = true) :
    fire i body s = .next (d.st.retire f (d.keep.foldl (fun l t => l.erase t) (f.handles i)) d.stat d.t0 d.t1) := by
  obtain ⟨h1, h2, h3⟩ := h
  obtain ⟨fr, hfr, ho⟩ := hf
  have hsent : (if d.fresh then [] else (f.sent d.t0 d.t1).filter fun t => t.kind == .tile) = [] := by
    rcases hn with hn | hn
    · simp [hn]
    · split
      · rfl
      · rw [List.filter_eq_nil_iff]
        intro t ht
        have : t ∈ d.t0.toList ++ d.t1.toList := by
          simp only [Firing.sent, List.mem_append] at ht ⊢
          rcases ht with ht | ht <;> split at ht <;> simp_all
        simpa using hn t this
  have hm : (d.st.markAt f.key f.idx d.stat).frame? f.key = some { fr.emptied f.idx with stat := fr.stat.put f.idx d.stat } := by
    simp [State.markAt, modFrame_frame?, hfr]
  simp only [fire, h1, State.issue, h2, h3, hb, State.conclude, State.finish, ha, hsent, State.settle, Bool.false_eq_true, if_false]
  have hsl : ((d.st.markAt f.key f.idx d.stat).dropToks f.pe
      (d.keep.foldl (fun l t => l.erase t) (f.handles i))).slotOf f.fr.ctx = f.x.slot := by
    rw [slotOf_of_ctxs (s := s), slotOf_firing h1]
    simp [State.markAt, hs]
  have := sends_arrive ((d.st.markAt f.key f.idx d.stat).dropToks f.pe
      (d.keep.foldl (fun l t => l.erase t) (f.handles i))) f _ d.t0 d.t1 (by simpa using hm) hsl (by simpa [Frame.emptied] using ho) hc
  simp only [Firing.handles] at this ⊢
  simp only [this]
  rfl

/-- A body that raises a fault. -/
theorem fire_fault {i : Instr} {s : State} {f : Firing} {body : Body} {e : Fail} (h : Fires i s f) (hb : body f s = .error (.fault e)) :
    fire i body s = .next (s.failAt f e) := by
  obtain ⟨h1, h2, h3⟩ := h
  simp [fire, h1, State.issue, h2, h3, hb, State.conclude]

/-- A body that waits. -/
theorem fire_wait {i : Instr} {s : State} {f : Firing} {body : Body} {r : Short} (h : Fires i s f) (hb : body f s = .error (.wait r)) :
    fire i body s = .next (s.waitAt f r) := by
  obtain ⟨h1, h2, h3⟩ := h
  simp [fire, h1, State.issue, h2, h3, hb, State.conclude]

/-- The frame of a firing instruction in its own state. -/
theorem Fires.frame {i : Instr} {s : State} {f : Firing} (h : Fires i s f) : s.frame? f.key = some f.fr := (firing_frame h.1).1

/-- A body that answers with the state it got, but for changes of other fields of the frame. -/
theorem outs_same {s : State} {f : Firing} (h : s.frame? f.key = some f.fr) : ∃ fr, s.frame? f.key = some fr ∧ fr.outs = f.fr.outs :=
  ⟨f.fr, h, rfl⟩

theorem outs_mod {s : State} {f : Firing} {g : Frame → Frame} (h : s.frame? f.key = some f.fr) (hg : (g f.fr).outs = f.fr.outs) :
    ∃ fr, (s.modFrame f.key g).frame? f.key = some fr ∧ fr.outs = f.fr.outs :=
  ⟨g f.fr, by simp [modFrame_frame?, h], hg⟩

end Machine

end Sys2Proof
end

