-- ==== Sys2Proof/Laws/Exec.lean ====
section
/-! SUPPORT. What `exec` of an instruction is, when it answers, and what the shared parts of a firing can change. -/

set_option Elab.async false

namespace Sys2Proof.Machine

/-- Every instruction that is no event, and that R188 does not order, fires a body of its own. -/
theorem exec_fire (i : Instr) (h : i.isEvent = false) (ho : i.ordered = false) : ∃ body, ∀ s, exec i s = fire i body s := by
  cases i <;> first | exact ⟨_, fun s => rfl⟩ | (simp [Instr.isEvent] at h; done) | simp [Instr.ordered] at ho

/-- Every instruction of chapter 7 fires a body of its own in the order of R188, with the accumulator that it names. -/
theorem exec_fireInOrder (i : Instr) (ho : i.ordered = true) : ∃ body, ∀ s, exec i s = fireInOrder i i.accumulator body s := by
  cases i <;> first | (simp [Instr.ordered] at ho; done) | exact ⟨_, fun s => rfl⟩

/-- When an instruction in focus fires (R78, R88). -/
theorem firing_iff (i : Instr) (s : State) : (∃ f, s.firing i = some f) ↔
      ∃ fr x, s.frame? (frameKey s.sched.pe s.sched.frame) = some fr ∧ fr.live = true ∧ s.ctx? fr.ctx = some x ∧
        (x.state = .running ∨ x.state = .checkpointing) ∧
        (∀ st, fr.stat.get? s.sched.idx = some st → st = .faulted ∨ ∃ r, st = .waiting r) ∧
        (∀ sd ∈ i.required, (fr.operand s.sched.idx sd).isSome = true) ∧
        (i.irrevocable = true ∨ i.isHcall = true → fr.settled s.sched.idx = true) := by
  unfold State.firing
  simp only
  cases hf : s.frame? (frameKey s.sched.pe s.sched.frame) with
  | none => simp
  | some fr =>
    simp only
    cases hx : s.ctx? fr.ctx with
    | none => simp [hx]
    | some x =>
      have hst : x.state.issues = true ↔ (x.state = .running ∨ x.state = .checkpointing) := by cases x.state <;> simp [CtxState.issues]
      have hres : fr.resolved s.sched.idx = false ↔ (∀ st, fr.stat.get? s.sched.idx = some st → st = .faulted ∨ ∃ r, st = .waiting r) := by
        unfold Frame.resolved
        cases hs : fr.stat.get? s.sched.idx with
        | none => simp
        | some st => cases st <;> simp
      simp only
      constructor
      · rintro ⟨f, e⟩
        by_cases h : (fr.live && x.state.issues && !fr.resolved s.sched.idx && fr.present s.sched.idx i &&
            (!i.guarded || fr.settled s.sched.idx)) = true
        · simp only [Bool.and_eq_true, Bool.or_eq_true, Bool.not_eq_true', Frame.present, List.all_eq_true, Instr.guarded] at h
          refine ⟨fr, x, rfl, h.1.1.1.1, hx, hst.mp h.1.1.1.2, hres.mp h.1.1.2, h.1.2, fun hg => ?_⟩
          rcases h.2 with h2 | h2
          · rcases hg with hg | hg <;> simp [hg] at h2
          · exact h2
        · rw [if_neg h] at e; cases e
      · rintro ⟨fr', x', e1, h1, e2, h2, h3, h4, h5⟩
        cases e1
        rw [hx] at e2; cases e2
        rw [if_pos]
        · exact ⟨_, rfl⟩
        · simp only [Bool.and_eq_true, Bool.or_eq_true, Bool.not_eq_true', Frame.present, List.all_eq_true, Instr.guarded]
          refine ⟨⟨⟨⟨h1, hst.mpr h2⟩, hres.mpr h3⟩, h4⟩, ?_⟩
          by_cases hg : i.irrevocable = true ∨ i.isHcall = true
          · exact .inr (h5 hg)
          · left; simpa using hg

/-- What a firing can end in: a mismatch, nulls, what its own entry answers, a fault, a wait or a page fault. -/
theorem fire_cases {i : Instr} {body : Body} {s t : State} (h : fire i body s = .next t) :
    ∃ f, s.firing i = some f ∧
      ((predMismatch f.h f.c = true ∧ t = s.mismatch f.key f.idx i (f.consumed i)) ∨
       (predMismatch f.h f.c = false ∧ f.nulled i = true ∧ t = s.fireNull f i) ∨
       (predMismatch f.h f.c = false ∧ f.nulled i = false ∧
         ((∃ d, body f s = .ok d ∧ t = s.finish f i d) ∨ (∃ e, body f s = .error (.fault e) ∧ t = s.failAt f e) ∨
          (∃ r, body f s = .error (.wait r) ∧ t = s.waitAt f r) ∨
          (∃ r l, body f s = .error (.hold r l) ∧ t = s.holdAt f r l) ∨
          ∃ kind va level, body f s = .error (.page kind va level) ∧ t = s.pageAt f kind va level))) := by
  unfold fire at h
  split at h
  · cases h
  · rename_i f hf
    refine ⟨f, hf, ?_⟩
    have ht : t = s.issue f i body := by injection h with h; exact h.symm
    rw [ht]; unfold State.issue
    by_cases h1 : predMismatch f.h f.c = true
    · exact .inl ⟨h1, by simp [h1]⟩
    · have h1' : predMismatch f.h f.c = false := by simpa using h1
      by_cases h2 : f.nulled i = true
      · exact .inr (.inl ⟨h1', h2, by simp [h1', h2]⟩)
      · have h2' : f.nulled i = false := by simpa using h2
        refine .inr (.inr ⟨h1', h2', ?_⟩)
        simp only [h1', h2', Bool.false_eq_true, if_false]
        cases hb : body f s with
        | ok d => exact .inl ⟨d, rfl, rfl⟩
        | error st =>
          cases st with
          | fault e => exact .inr (.inl ⟨e, rfl, rfl⟩)
          | wait r => exact .inr (.inr (.inl ⟨r, rfl, rfl⟩))
          | hold r l => exact .inr (.inr (.inr (.inl ⟨r, l, rfl, rfl⟩)))
          | page k v l => exact .inr (.inr (.inr (.inr ⟨k, v, l, rfl, rfl⟩)))

/-! ### What stays -/

/-- What a change of a frame leaves of it. -/
def Frame.sameLife (f g : Frame) : Prop :=
  g.isOpen = f.isOpen ∧ g.uid = f.uid ∧ g.ctx = f.ctx ∧ g.task = f.task ∧ g.cfg = f.cfg ∧ g.iter = f.iter ∧ g.held = f.held ∧
    g.branch = f.branch ∧ g.satisfied = f.satisfied ∧ g.stores = f.stores ∧ g.performed = f.performed ∧ g.looped = f.looped ∧
    g.outstanding = f.outstanding

theorem Frame.sameLife.refl (f : Frame) : f.sameLife f := ⟨rfl, rfl, rfl, rfl, rfl, rfl, rfl, rfl, rfl, rfl, rfl, rfl, rfl⟩

theorem Frame.sameLife.trans {f g h : Frame} (a : f.sameLife g) (b : g.sameLife h) : f.sameLife h := by
  unfold Frame.sameLife at *
  simp [a, b]

/-- Two states that differ only in messages, the references of tiles, faults recorded, and operands, sends, status and flags of
frame `k`. -/
structure Quiet (k : Nat) (s t : State) : Prop where
  mem : t.mem = s.mem
  sync : t.sync = s.sync
  chans : t.chans = s.chans
  copies : t.copies = s.copies
  task : t.task = s.task
  kiln : t.kiln = s.kiln
  dev : t.dev = s.dev
  cycle : t.sched.cycle = s.sched.cycle
  pe : t.pe = { s.pe with frames := t.pe.frames, tiles := t.pe.tiles }
  ctxs : ∀ c, (t.ctx? c).map Ctx.quiet = (s.ctx? c).map Ctx.quiet
  others : ∀ j, j ≠ k → t.frame? j = s.frame? j
  own : ∀ f, s.frame? k = some f → ∃ g, t.frame? k = some g ∧ f.sameLife g

theorem Quiet.refl (k : Nat) (s : State) : Quiet k s s :=
  ⟨rfl, rfl, rfl, rfl, rfl, rfl, rfl, rfl, rfl, fun _ => rfl, fun _ _ => rfl, fun f h => ⟨f, h, .refl f⟩⟩

theorem Quiet.trans {k : Nat} {s t u : State} (a : Quiet k s t) (b : Quiet k t u) : Quiet k s u where
  mem := b.mem.trans a.mem
  sync := b.sync.trans a.sync
  chans := b.chans.trans a.chans
  copies := b.copies.trans a.copies
  task := b.task.trans a.task
  kiln := b.kiln.trans a.kiln
  dev := b.dev.trans a.dev
  cycle := b.cycle.trans a.cycle
  pe := by rw [b.pe, a.pe]
  ctxs := fun c => (b.ctxs c).trans (a.ctxs c)
  others := fun j h => (b.others j h).trans (a.others j h)
  own := fun f h => by
    obtain ⟨g, hg, h1⟩ := a.own f h
    obtain ⟨g', hg', h2⟩ := b.own g hg
    exact ⟨g', hg', h1.trans h2⟩

theorem Quiet.keepsUnits {s t : State} (h : Quiet (frameKey s.sched.pe s.sched.frame) s t) : KeepsUnits s t := by
  have hp := h.pe
  refine ⟨h.mem, h.sync, h.chans, h.copies, h.task, h.kiln, h.dev, h.cycle, ?_, ?_, ?_, ?_, ?_, ?_, ?_, ?_, ?_, ?_, ?_, h.ctxs, h.others, h.own⟩
  all_goals rw [hp]

theorem readByte_of_same {s t : State} (hm : t.mem = s.mem) (hs : t.sync = s.sync) (key : Nat) : t.readByte key = s.readByte key := by
  unfold State.readByte State.lineOf State.engine
  rw [hm, hs]

theorem Quiet.keepsMemory {k : Nat} {s t : State} (h : Quiet k s t) : KeepsMemory s t := by
  refine ⟨readByte_of_same h.mem h.sync, by rw [h.pe], h.sync, h.chans, h.copies, h.task, h.kiln, h.dev, h.cycle, h.ctxs, fun pe j => ?_⟩
  have ht : t.pe.tasks = s.pe.tasks := by rw [h.pe]
  simp [State.task?, ht]

/-! ### Shared operations -/

theorem modFrame_quiet (s : State) (k : Nat) (g : Frame → Frame) (hg : ∀ f : Frame, f.sameLife (g f)) : Quiet k s (s.modFrame k g) := by
  unfold State.modFrame
  cases h : s.frame? k with
  | none => exact .refl k s
  | some f =>
    refine ⟨rfl, rfl, rfl, rfl, rfl, rfl, rfl, rfl, rfl, fun _ => rfl, fun j hj => setFrame_frame?_ne s hj _, fun f' hf' => ?_⟩
    rw [h] at hf'; cases hf'
    exact ⟨g f, setFrame_frame?_same s k _, hg f⟩

theorem post_quiet (k : Nat) (s : State) (a b : Agent) (c : Nat) (m : Msg) : Quiet k s (s.post a b c m) :=
  ⟨rfl, rfl, rfl, rfl, rfl, rfl, rfl, rfl, rfl, fun _ => rfl, fun _ _ => rfl, fun f h => ⟨f, h, .refl f⟩⟩

theorem setTile_quiet (k : Nat) (s : State) (p n : Nat) (t : TileSlot) : Quiet k s (s.setTile p n t) :=
  ⟨rfl, rfl, rfl, rfl, rfl, rfl, rfl, rfl, rfl, fun _ => rfl, fun _ _ => rfl, fun f h => ⟨f, h, .refl f⟩⟩

theorem ctx?_setCtx_same (s : State) (c : Nat) (x : Ctx) : (s.setCtx c x).ctx? c = some x := by
  simp [State.setCtx, State.ctx?, Tab.get?_put_same]

theorem ctx?_setCtx_ne (s : State) {c d : Nat} (h : d ≠ c) (x : Ctx) : (s.setCtx c x).ctx? d = s.ctx? d := by
  simp [State.setCtx, State.ctx?, Tab.get?_put_ne h]

/-- Raising a fault records it in its context and changes nothing else (R394, R395). -/
theorem raise_quiet (k : Nat) (s : State) (r : FaultRec) : Quiet k s (s.raise r) := by
  unfold State.raise State.modCtx
  cases h : s.ctx? r.src.ctx with
  | none => exact .refl k s
  | some x =>
    refine ⟨rfl, rfl, rfl, rfl, rfl, rfl, rfl, rfl, rfl, fun c => ?_, fun _ _ => rfl, fun f h => ⟨f, h, .refl f⟩⟩
    by_cases hc : c = r.src.ctx
    · subst hc
      simp only [ctx?_setCtx_same, h, Option.map_some]
      split <;> rfl
    · simp only [ctx?_setCtx_ne _ hc]

theorem setFrame_quiet {k : Nat} {s : State} {f : Frame} (h : s.frame? k = some f) (g : Frame) (hg : f.sameLife g) : Quiet k s (s.setFrame k g) := by
  refine ⟨rfl, rfl, rfl, rfl, rfl, rfl, rfl, rfl, rfl, fun _ => rfl, fun j hj => setFrame_frame?_ne s hj _, fun f' hf' => ?_⟩
  rw [h] at hf'; cases hf'
  exact ⟨g, setFrame_frame?_same s k _, hg⟩

theorem frameOf_frame? {s : State} {pe fr uid : Nat} {f : Frame} (h : s.frameOf pe fr uid = some f) : s.frame? (frameKey pe fr) = some f := by
  unfold State.frameOf at h
  split at h
  · split at h
    · cases h; assumption
    · cases h
  · cases h

/-- A fault at an instruction records it and marks its activation, and changes nothing else (R87). -/
theorem raiseAt_quiet (s : State) (src : Src) (e : Fail) : Quiet (frameKey src.pe src.frame) s (s.raiseAt src e) := by
  unfold State.raiseAt
  refine (raise_quiet (frameKey src.pe src.frame) s (s.record src e)).trans ?_
  generalize s.raise (s.record src e) = u
  unfold State.failFrame
  split
  · rename_i f hf
    split
    · exact setFrame_quiet (frameOf_frame? hf) _ (.refl _)
    · exact .refl _ u
  · exact .refl _ u

theorem srcOf_key (k : Nat) (f : Frame) (idx : Nat) : frameKey (srcOf k f idx).pe (srcOf k f idx).frame = k := frameKey_div_mod k

theorem waitAt_quiet (s : State) (f : Firing) (r : Short) : Quiet f.key s (s.waitAt f r) := modFrame_quiet s f.key _ fun _ => .refl _

theorem holdAt_quiet (s : State) (f : Firing) (r : Short) (l : List Byte) : Quiet f.key s (s.holdAt f r l) :=
  modFrame_quiet s f.key _ fun _ => .refl _

theorem markAt_quiet (s : State) (k idx : Nat) (st : IStat) : Quiet k s (s.markAt k idx st) := modFrame_quiet s k _ fun _ => .refl _

theorem orFlags_quiet (s : State) (k : Nat) (fl : BitVec 7) : Quiet k s (s.orFlags k fl) := modFrame_quiet s k _ fun _ => .refl _

theorem dropRef_quiet (k : Nat) (s : State) (h : Word) : Quiet k s (s.dropRef h) := by
  unfold State.dropRef
  split
  · exact .refl k s
  · exact setTile_quiet k s _ _ _

theorem release_quiet (k : Nat) (s : State) (pe : Nat) (h : Word) : Quiet k s (s.release pe h) := by
  unfold State.release
  split
  · exact dropRef_quiet k s h
  · exact post_quiet k s _ _ _ _

theorem dropTok_quiet (k : Nat) (s : State) (pe : Nat) (t : Tok) : Quiet k s (s.dropTok pe t) := by
  unfold State.dropTok
  split
  · exact release_quiet k s pe _
  · exact .refl k s

theorem dropToks_quiet (k : Nat) (s : State) (pe : Nat) (l : List Tok) : Quiet k s (s.dropToks pe l) := by
  unfold State.dropToks
  induction l generalizing s with
  | nil => exact .refl k s
  | cons t l ih => exact (dropTok_quiet k s pe t).trans (ih _)

/-- A fault marks its instruction, is recorded, and releases references where its rule says so. -/
theorem failAt_quiet (s : State) (f : Firing) (e : Fail) : Quiet f.key s (s.failAt f e) := by
  unfold State.failAt
  simp only
  have hr := fun (u : State) (e : Fail) => (frameKey_div_mod f.key ▸ raiseAt_quiet u f.src e : Quiet f.key u (u.raiseAt f.src e))
  have h := fun (l : Frame → List Nat) => modFrame_quiet s f.key
    (fun fr => { fr with stat := fr.stat.put f.idx .faulted, fetched := fr.fetched.del f.idx, lost := l fr }) fun _ => .refl _
  split
  · exact ((h _).trans (hr _ _)).trans (dropToks_quiet _ _ _ _)
  · exact (h _).trans (hr _ _)

theorem addRef_quiet {k : Nat} {s t : State} {h : Word} (e : s.addRef h = some t) : Quiet k s t := by
  unfold State.addRef at e
  split at e
  · cases e; exact .refl k s
  · split at e
    · cases e
    · cases e; exact setTile_quiet k s _ _ _

theorem addRefs_quiet {k : Nat} {l : List Tok} {s t : State} (e : s.addRefs l = some t) : Quiet k s t := by
  induction l generalizing s with
  | nil => cases e; exact .refl k _
  | cons a l ih =>
    unfold State.addRefs at e
    split at e
    · split at e
      · rename_i s' hs; exact (addRef_quiet hs).trans (ih e)
      · cases e
    · exact ih e

theorem settle_quiet {k pe : Nat} {l used : List Tok} {s t : State} (e : s.settle pe used l = some t) : Quiet k s t := by
  induction l generalizing s used with
  | nil => cases e; exact dropToks_quiet k _ pe used
  | cons a l ih =>
    unfold State.settle at e
    split at e
    · exact ih e
    · split at e
      · rename_i s' hs; exact (addRefs_quiet hs).trans (ih e)
      · cases e

theorem sendTo_quiet {s t : State} {src : Src} {tgt : Target} {tok : Tok} (e : s.sendTo src tgt tok = some t) :
    Quiet (frameKey src.pe src.frame) s t := by
  unfold State.sendTo at e
  cases tgt with
  | none => cases e; exact .refl _ s
  | slot sd j => cases e; exact post_quiet _ s _ _ _ _
  | write w =>
    simp only at e
    cases h : s.frame? (frameKey src.pe src.frame) with
    | none => rw [h] at e; cases e; exact .refl _ s
    | some f =>
      simp only [h] at e
      split at e
      · cases e
      · cases e
        have := modFrame_quiet s (frameKey src.pe src.frame) (fun f => { f with outs := f.outs.put w.toNat tok }) fun f => .refl f
        rwa [modFrame_of_some h] at this

theorem sends_quiet {s t : State} {f : Firing} {r0 r1 : Option Tok} (e : s.sends f r0 r1 = some t) : Quiet f.key s t := by
  have hk : frameKey f.src.pe f.src.frame = f.key := frameKey_div_mod f.key
  unfold State.sends at e
  cases r0 with
  | none =>
    cases r1 with
    | none => cases e; exact .refl _ s
    | some b => exact hk ▸ sendTo_quiet e
  | some a =>
    simp only at e
    cases h : s.sendTo f.src f.h.t0 a with
    | none => simp [h] at e
    | some s1 =>
      simp only [h] at e
      refine (hk ▸ sendTo_quiet h : Quiet f.key s s1).trans ?_
      cases r1 with
      | none => cases e; exact .refl _ _
      | some b => exact hk ▸ sendTo_quiet e

/-- The end of a firing changes no more than the entry itself did. -/
theorem finish_quiet {s : State} {f : Firing} {i : Instr} {d : Done} (h : Quiet f.key s d.st) : Quiet f.key s (s.finish f i d) := by
  unfold State.finish
  split
  · exact h.trans (modFrame_quiet _ _ _ fun _ => .refl _)
  · simp only
    split
    · exact failAt_quiet s f _
    · rename_i s1 h1
      split
      · exact failAt_quiet s f _
      · rename_i s2 h2
        exact ((h.trans (markAt_quiet _ _ _ _)).trans (settle_quiet h1)).trans (sends_quiet h2)

theorem branchResolved_quiet (s : State) (k idx : Nat) : Quiet k s (s.branchResolved k idx) := by
  unfold State.branchResolved
  split
  · rename_i f _
    split
    · exact (srcOf_key k f idx ▸ raiseAt_quiet s (srcOf k f idx) _ : Quiet k s _)
    · exact .refl k s
  · exact .refl k s

theorem mismatch_quiet (s : State) (k idx : Nat) (i : Instr) (toks : List Tok) (hs : i.isStore = false) : Quiet k s (s.mismatch k idx i toks) := by
  unfold State.mismatch
  have h := (markAt_quiet s k idx .mismatched).trans (dropToks_quiet k _ (k / 256) toks)
  simp only [hs, Bool.false_eq_true, if_false]
  split
  · exact h.trans (branchResolved_quiet _ k idx)
  · exact h

/-- Nulls through an instruction that neither stores nor carries. -/
theorem fireNull_quiet (s : State) (f : Firing) (i : Instr) (hs : i.isStore = false) (hc : i.isCarry = false) : Quiet f.key s (s.fireNull f i) := by
  unfold State.fireNull
  simp only [hs, hc, Bool.false_and, Bool.false_eq_true, if_false]
  have h1 : Quiet f.key s (if i.branchClass = true then s.modFrame f.key fun fr => { fr with nullBranch := true } else s) := by
    split
    · exact modFrame_quiet _ _ _ fun _ => .refl _
    · exact .refl _ s
  generalize hs1 : (if i.branchClass = true then s.modFrame f.key fun fr => { fr with nullBranch := true } else s) = s1 at h1 ⊢
  have h2 : Quiet f.key s1 (s1.finish f i { st := s1, t0 := some nullTok, t1 := some nullTok }) := finish_quiet (.refl _ _)
  split
  · exact (h1.trans h2).trans (branchResolved_quiet _ _ _)
  · exact h1.trans h2

/-- An instruction whose entry changes nothing but its frame and tiles, and meets no page fault, keeps every unit. -/
theorem fire_quiet {i : Instr} {body : Body} {s t : State} (h : fire i body s = .next t) (hs : i.isStore = false) (hc : i.isCarry = false)
    (hok : ∀ f d, s.firing i = some f → body f s = .ok d → Quiet f.key s d.st)
    (hpage : ∀ f k v l, s.firing i = some f → body f s ≠ .error (.page k v l)) :
    Quiet (frameKey s.sched.pe s.sched.frame) s t := by
  obtain ⟨f, hf, hcase⟩ := fire_cases h
  have hk : f.key = frameKey s.sched.pe s.sched.frame := by
    unfold State.firing at hf
    simp only at hf
    split at hf
    · cases hf
    · split at hf
      · cases hf
      · split at hf
        · cases hf; rfl
        · cases hf
  rw [← hk]
  rcases hcase with ⟨-, rfl⟩ | ⟨-, -, rfl⟩ | ⟨-, -, ⟨d, hb, rfl⟩ | ⟨e, -, rfl⟩ | ⟨r, -, rfl⟩ | ⟨r, l, -, rfl⟩ | ⟨k, v, l, hb, -⟩⟩
  · exact mismatch_quiet _ _ _ _ _ hs
  · exact fireNull_quiet _ _ _ hs hc
  · exact finish_quiet (hok f d hf hb)
  · exact failAt_quiet _ _ _
  · exact waitAt_quiet _ _ _
  · exact holdAt_quiet _ _ _ _
  · exact absurd hb (hpage f k v l hf)

/-- What a step is: a word that decodes to nothing, an action, or the passage of time. -/
theorem step_cases {s t : State} (h : step s = .next t) :
    s.badWord = none ∧ ((∃ a, s.nextAction = some a ∧ s.popped.run a = .next t) ∨
      (s.nextAction = none ∧ t = ((s.popped.clockReady s.idleFor).clockReqs s.idleFor).tick s.idleFor)) := by
  unfold step State.advance at h
  split at h
  · cases h
  · rename_i hb
    refine ⟨hb, ?_⟩
    split at h
    · rename_i a ha; exact .inl ⟨a, ha, h⟩
    · rename_i ha; injection h with h; exact .inr ⟨ha, h.symm⟩

end Sys2Proof.Machine
end

