-- ==== Sys2Proof/Laws/Scalar.lean ====
section
/-! SUPPORT. What the bodies of scalar instructions make of a firing. -/

set_option Elab.async false

namespace Sys2Proof.Machine

theorem Tab.put_put {α : Type} (k : Nat) (v w : α) (t : Tab α) : (t.put k v).put k w = t.put k w := by
  induction t with
  | nil => simp [Tab.put]
  | cons p t ih =>
    obtain ⟨j, x⟩ := p
    by_cases h : j = k
    · simp [Tab.put, h]
    · by_cases h2 : k < j
      · simp [Tab.put, h, h2]
      · simp [Tab.put, h, h2, ih]

theorem modFrame_modFrame (s : State) (k : Nat) (g h : Frame → Frame) : (s.modFrame k g).modFrame k h = s.modFrame k fun f => h (g f) := by
  unfold State.modFrame
  cases hf : s.frame? k with
  | none => simp [hf]
  | some fr => simp only [setFrame_frame?_same]; simp [State.setFrame, Tab.put_put]

/-- Flags of zero change nothing that the end of a firing leaves. -/
theorem retire_noFlags (s : State) (f : Firing) (rel : List Tok) (st : IStat) (r0 r1 : Option Tok) :
    (s.orFlags f.key 0).retire f rel st r0 r1 = s.retire f rel st r0 r1 := by
  simp only [State.retire, State.orFlags, modFrame_modFrame]
  simp [Frame.emptied]

theorem scalar_ok {f : Firing} {t : Tok} (h : (t.kind != .tile || f.dependent) = true) : f.scalar t = .ok t.val := by
  unfold Firing.scalar
  cases hk : t.kind <;> cases hd : f.dependent <;> simp_all

theorem unary_gives {i : Instr} {s : State} {f : Firing} {g : Word → Word} (h : Fires i s f) (hc : f.clear = true)
    (ha : (f.a.kind != .tile || f.dependent) = true) :
    fire i (unary g) s = .next (s.retire f (f.handles i) .fired (some (scalarTok (g f.a.val))) (some (scalarTok (g f.a.val)))) := by
  refine fire_retire h (d := Done.scalar s (g f.a.val)) ?_ rfl (.inr ?_) (outs_same h.frame) rfl hc
  · simp [unary, scalar_ok ha]; rfl
  · simp [Done.scalar, Done.send, scalarTok]

theorem binary_gives {i : Instr} {s : State} {f : Firing} {g : Word → Word → Word} (h : Fires i s f) (hc : f.clear = true)
    (ha : (f.a.kind != .tile || f.dependent) = true) (hb : (f.b.kind != .tile || f.dependent) = true) :
    fire i (binary g) s = .next (s.retire f (f.handles i) .fired (some (scalarTok (g f.a.val f.b.val))) (some (scalarTok (g f.a.val f.b.val)))) := by
  refine fire_retire h (d := Done.scalar s (g f.a.val f.b.val)) ?_ rfl (.inr ?_) (outs_same h.frame) rfl hc
  · simp [binary, scalar_ok ha, scalar_ok hb]; rfl
  · simp [Done.scalar, Done.send, scalarTok]

theorem ternary_gives {i : Instr} {s : State} {f : Firing} {g : Word → Word → Word → Word} (h : Fires i s f) (hc : f.clear = true)
    (ha : (f.a.kind != .tile || f.dependent) = true) (hb : (f.b.kind != .tile || f.dependent) = true)
    (hcc : (f.c.kind != .tile || f.dependent) = true) :
    fire i (ternary g) s = .next (s.retire f (f.handles i) .fired (some (scalarTok (g f.a.val f.b.val f.c.val)))
      (some (scalarTok (g f.a.val f.b.val f.c.val)))) := by
  refine fire_retire h (d := Done.scalar s (g f.a.val f.b.val f.c.val)) ?_ rfl (.inr ?_) (outs_same h.frame) rfl hc
  · simp [ternary, scalar_ok ha, scalar_ok hb, scalar_ok hcc]; rfl
  · simp [Done.scalar, Done.send, scalarTok]

theorem binaryF_gives {i : Instr} {s : State} {f : Firing} {g : Word → Word → Word × Flags} (h : Fires i s f) (hc : f.clear = true)
    (ha : (f.a.kind != .tile || f.dependent) = true) (hb : (f.b.kind != .tile || f.dependent) = true) :
    fire i (binaryF g) s = .next ((s.orFlags f.key (g f.a.val f.b.val).2).retire f (f.handles i) .fired
      (some (scalarTok (g f.a.val f.b.val).1)) (some (scalarTok (g f.a.val f.b.val).1))) := by
  refine fire_retire h (d := f.scalarResult s (g f.a.val f.b.val)) ?_ rfl (.inr ?_) (outs_mod h.frame rfl) ?_ hc
  · simp [binaryF, scalar_ok ha, scalar_ok hb]; rfl
  · simp [Firing.scalarResult, Done.scalar, Done.send, scalarTok]
  · simp [Firing.scalarResult, Done.scalar, Done.send, State.orFlags]

theorem unaryF_gives {i : Instr} {s : State} {f : Firing} {g : Word → Word × Flags} (h : Fires i s f) (hc : f.clear = true)
    (ha : (f.a.kind != .tile || f.dependent) = true) :
    fire i (unaryF g) s = .next ((s.orFlags f.key (g f.a.val).2).retire f (f.handles i) .fired
      (some (scalarTok (g f.a.val).1)) (some (scalarTok (g f.a.val).1))) := by
  refine fire_retire h (d := f.scalarResult s (g f.a.val)) ?_ rfl (.inr ?_) (outs_mod h.frame rfl) ?_ hc
  · simp [unaryF, scalar_ok ha]; rfl
  · simp [Firing.scalarResult, Done.scalar, Done.send, scalarTok]
  · simp [Firing.scalarResult, Done.scalar, Done.send, State.orFlags]

theorem ternaryF_gives {i : Instr} {s : State} {f : Firing} {g : Word → Word → Word → Word × Flags} (h : Fires i s f)
    (hc : f.clear = true) (ha : (f.a.kind != .tile || f.dependent) = true) (hb : (f.b.kind != .tile || f.dependent) = true)
    (hcc : (f.c.kind != .tile || f.dependent) = true) :
    fire i (ternaryF g) s = .next ((s.orFlags f.key (g f.a.val f.b.val f.c.val).2).retire f (f.handles i) .fired
      (some (scalarTok (g f.a.val f.b.val f.c.val).1)) (some (scalarTok (g f.a.val f.b.val f.c.val).1))) := by
  refine fire_retire h (d := f.scalarResult s (g f.a.val f.b.val f.c.val)) ?_ rfl (.inr ?_) (outs_mod h.frame rfl) ?_ hc
  · simp [ternaryF, scalar_ok ha, scalar_ok hb, scalar_ok hcc]; rfl
  · simp [Firing.scalarResult, Done.scalar, Done.send, scalarTok]
  · simp [Firing.scalarResult, Done.scalar, Done.send, State.orFlags]

theorem binaryImmF_gives {i : Instr} {s : State} {f : Firing} {g : Word → Word → Word × Flags} {w : BitVec 32} (h : Fires i s f)
    (hc : f.clear = true) (ha : (f.a.kind != .tile || f.dependent) = true) :
    fire i (binaryImmF g w) s = .next ((s.orFlags f.key (g f.a.val (immWord w)).2).retire f (f.handles i) .fired
      (some (scalarTok (g f.a.val (immWord w)).1)) (some (scalarTok (g f.a.val (immWord w)).1))) := unaryF_gives h hc ha
end Sys2Proof.Machine
end

