-- ==== Sys2Proof/Laws/Integer.lean ====
section
/-! SUPPORT. The integer results of R115 to R124 as the operand values fix them. -/

set_option Elab.async false
namespace Sys2Proof.Machine

theorem r_add (a b : Word) : (a + b).toNat = (a.toNat + b.toNat) % 2 ^ 64 := by simp [BitVec.toNat_add]
theorem r_sub (a b : Word) : a - b = BitVec.ofInt 64 (a.toInt - b.toInt) := by apply BitVec.eq_of_toInt_eq; simp [BitVec.toInt_sub]
theorem r_neg (a : Word) : -a = BitVec.ofInt 64 (-a.toInt) := by apply BitVec.eq_of_toInt_eq; simp [BitVec.toInt_neg]
theorem r_andn (a b : Word) (j : Nat) (hj : j < 64) : (a &&& ~~~b).getLsbD j = (a.getLsbD j && !b.getLsbD j) := by simp [hj]
theorem r_orn (a b : Word) (j : Nat) (hj : j < 64) : (a ||| ~~~b).getLsbD j = (a.getLsbD j || !b.getLsbD j) := by simp [hj]
theorem r_xnor (a b : Word) (j : Nat) (hj : j < 64) : (~~~(a ^^^ b)).getLsbD j = (a.getLsbD j == b.getLsbD j) := by
  simp only [BitVec.getLsbD_not, BitVec.getLsbD_xor, hj, decide_true, Bool.true_and]; cases a.getLsbD j <;> cases b.getLsbD j <;> rfl
theorem r_min (a b : Word) : (aluMin a b).toInt = min a.toInt b.toInt := by
  unfold aluMin; simp only [BitVec.slt_eq_decide, decide_eq_true_eq]; split <;> omega
theorem r_max (a b : Word) : (aluMax a b).toInt = max a.toInt b.toInt := by
  unfold aluMax; simp only [BitVec.slt_eq_decide, decide_eq_true_eq]; split <;> omega
theorem r_minu (a b : Word) : (aluMinu a b).toNat = min a.toNat b.toNat := by
  unfold aluMinu; simp only [BitVec.ult_eq_decide, decide_eq_true_eq]; split <;> omega
theorem r_maxu (a b : Word) : (aluMaxu a b).toNat = max a.toNat b.toNat := by
  unfold aluMaxu; simp only [BitVec.ult_eq_decide, decide_eq_true_eq]; split <;> omega
theorem r_shl (a b : Word) (j : Nat) (hj : j < 64) : (aluShl a b).getLsbD j = (decide (b.toNat % 64 ≤ j) && a.getLsbD (j - b.toNat % 64)) := by
  simp only [aluShl, shiftCount, BitVec.getLsbD_shiftLeft, hj, decide_true, Bool.true_and]
  congr 1
  by_cases h : j < b.toNat % 64
  · have : ¬ (b.toNat % 64 ≤ j) := by omega
    simp [h, this]
  · have : b.toNat % 64 ≤ j := by omega
    simp [h, this]
theorem r_shr (a b : Word) (j : Nat) : (aluShr a b).getLsbD j = a.getLsbD (j + b.toNat % 64) := by
  simp [aluShr, shiftCount, Nat.add_comm]
theorem r_sar (a b : Word) (j : Nat) (hj : j < 64) : (aluSar a b).getLsbD j = a.getLsbD (min (j + b.toNat % 64) 63) := by
  simp only [aluSar, shiftCount, BitVec.getLsbD_sshiftRight]
  by_cases h : b.toNat % 64 + j < 64
  · rw [if_pos h, Nat.min_eq_left (by omega), Nat.add_comm]; simp; omega
  · rw [if_neg h, Nat.min_eq_right (by omega)]; simp [BitVec.msb_eq_getLsbD_last]; omega
theorem r_rotl (a b : Word) (j : Nat) (hj : j < 64) : (aluRotl a b).getLsbD ((j + b.toNat % 64) % 64) = a.getLsbD j := by
  simp only [aluRotl, shiftCount, BitVec.getLsbD_rotateLeft]
  have hn : b.toNat % 64 < 64 := Nat.mod_lt _ (by decide)
  generalize b.toNat % 64 = n at *
  rw [Nat.mod_eq_of_lt hn]
  by_cases h : j + n < 64
  · rw [Nat.mod_eq_of_lt h]
    have h1 : ¬ (j + n < n) := by omega
    simp [h1, h]
  · have : (j + n) % 64 = j + n - 64 := by omega
    have h1 : j + n - 64 < n := by omega
    have h2 : 64 - n + (j + n - 64) = j := by omega
    simp [this, h1, h2]
theorem r_mul (a b : Word) : (aluMul a b).toNat = a.toNat * b.toNat % 2 ^ 64 := by simp [aluMul]
theorem r_mulhu (a b : Word) : (aluMulhu a b).toNat = a.toNat * b.toNat / 2 ^ 64 := by
  unfold aluMulhu
  rw [BitVec.toNat_ofNat, Nat.mod_eq_of_lt]
  have ha := a.isLt; have hb := b.isLt
  rw [Nat.div_lt_iff_lt_mul (by decide)]
  calc a.toNat * b.toNat < 2 ^ 64 * 2 ^ 64 := Nat.mul_lt_mul'' ha hb
    _ = _ := rfl
theorem toInt_ofInt_of {i : Int} (h : -2 ^ 63 ≤ i ∧ i < 2 ^ 63) : (BitVec.ofInt 64 i).toInt = i := by
  rw [BitVec.toInt_ofInt, Int.bmod_eq_of_le] <;> omega
theorem int_bounds (a : Word) : -2 ^ 63 ≤ a.toInt ∧ a.toInt < 2 ^ 63 := by
  have := BitVec.le_toInt a; have := BitVec.toInt_lt (x := a); simp at *; omega
theorem r_mulh (a b : Word) : (aluMulh a b).toInt = a.toInt * b.toInt / 2 ^ 64 := by
  unfold aluMulh
  apply toInt_ofInt_of
  have ha := int_bounds a; have hb := int_bounds b
  have h1 : a.toInt * b.toInt ≤ 2 ^ 126 := by nlinarith [ha.1, ha.2, hb.1, hb.2]
  have h2 : -2 ^ 126 ≤ a.toInt * b.toInt := by nlinarith [ha.1, ha.2, hb.1, hb.2]
  constructor <;> omega
theorem r_div (a b : Word) : if b = 0 then (aluDiv a b).1 = BitVec.allOnes 64 else if a.toInt = -2 ^ 63 ∧ b.toInt = -1 then
    (aluDiv a b).1.toInt = -2 ^ 63 else (aluDiv a b).1.toInt = a.toInt.tdiv b.toInt := by
  unfold aluDiv
  split
  · rfl
  · rename_i hb
    simp only
    have ha := int_bounds a
    have hb0 : b.toInt ≠ 0 := by intro h; apply hb; exact BitVec.eq_of_toInt_eq (by simpa using h)
    split
    · rename_i h; rw [h.1, h.2]; decide
    · rename_i h
      apply toInt_ofInt_of
      have := Int.natAbs_tdiv_le_natAbs a.toInt b.toInt
      have hm : ¬ (a.toInt.tdiv b.toInt = 2 ^ 63) := by
        intro hh
        apply h
        have e := Int.tdiv_mul_add_tmod a.toInt b.toInt
        have hab0 := Int.natAbs_tdiv_le_natAbs a.toInt b.toInt
        have hs : a.toInt.natAbs = 2 ^ 63 := by omega
        have : a.toInt = -2 ^ 63 := by omega
        refine ⟨this, ?_⟩
        have hab : (2 : Nat) ^ 63 = 2 ^ 63 / b.toInt.natAbs := by
          have h0 := Int.natAbs_tdiv a.toInt b.toInt
          rw [hh, this] at h0
          exact h0
        by_contra hne
        have hb2 : b.toInt = 1 ∨ 2 ≤ b.toInt.natAbs := by omega
        rcases hb2 with h1 | h2
        · rw [this, h1] at hh; norm_num at hh
        · have h3 : (2:Nat)^63 / b.toInt.natAbs ≤ 2^63 / 2 := Nat.div_le_div_left h2 (by decide)
          rw [← hab] at h3
          exact absurd h3 (by decide)
      omega
theorem r_divu (a b : Word) : if b = 0 then (aluDivu a b).1 = BitVec.allOnes 64 else (aluDivu a b).1.toNat = a.toNat / b.toNat := by
  unfold aluDivu
  split
  · rfl
  · simp only [BitVec.toNat_ofNat]
    have h1 := Nat.div_le_self a.toNat b.toNat
    have h2 := a.isLt
    exact Nat.mod_eq_of_lt (by omega)
theorem r_rem (a b : Word) : if b = 0 then (aluRem a b).1 = a else if a.toInt = -2 ^ 63 ∧ b.toInt = -1 then
    (aluRem a b).1 = 0 else (aluRem a b).1.toInt = a.toInt - b.toInt * a.toInt.tdiv b.toInt := by
  unfold aluRem
  split
  · rfl
  · simp only
    split
    · rename_i h; rw [h.1, h.2]; decide
    · have e := Int.mul_tdiv_add_tmod a.toInt b.toInt
      have hb0 : b.toInt ≠ 0 := by
        intro h; rename_i hb _; apply hb; exact BitVec.eq_of_toInt_eq (by simpa using h)
      have hb1 := int_bounds b
      have hm : (a.toInt.tmod b.toInt).natAbs < b.toInt.natAbs := by
        rw [Int.natAbs_tmod]; exact Nat.mod_lt _ (by omega)
      have ha := int_bounds a
      rw [toInt_ofInt_of]
      · omega
      · omega
theorem r_remu (a b : Word) : if b = 0 then (aluRemu a b).1 = a else (aluRemu a b).1.toNat = a.toNat - b.toNat * (a.toNat / b.toNat) := by
  unfold aluRemu
  split
  · rfl
  · simp only [BitVec.toNat_ofNat]
    have h := Nat.mod_le a.toNat b.toNat
    have := a.isLt
    rw [Nat.mod_eq_of_lt (by omega), Nat.mod_eq_sub_mul_div]
theorem r_zext (a b : Word) (j : Nat) (hj : j < 64) : (aluZext a b).getLsbD j = (decide (j ≤ b.toNat % 64) && a.getLsbD j) := by
  simp only [aluZext, shiftCount, BitVec.getLsbD_ofNat, Nat.testBit_mod_two_pow, hj, decide_true, Bool.true_and, BitVec.testBit_toNat]
  congr 1; simp

/-- Bits of a signed reading. -/
theorem signed_bit (n v j : Nat) (hn : 0 < n) (hn2 : n ≤ 64) (hj : j < 64) :
    (BitVec.ofInt 64 (signedOf n v)).getLsbD j = v.testBit (min j (n - 1)) := by
  have e : signedOf n v = ((BitVec.ofNat n v).toInt) := by
    rw [BitVec.toInt_eq_toNat_cond, BitVec.toNat_ofNat]
    unfold signedOf
    have h2 : 2 ^ n = 2 * 2 ^ (n - 1) := by rw [← Nat.pow_succ']; congr 1; omega
    simp only
    split <;> split <;> omega
  rw [e]
  show (BitVec.signExtend 64 (BitVec.ofNat n v)).getLsbD j = _
  rw [BitVec.getLsbD_signExtend]
  simp only [hj, decide_true, Bool.true_and]
  split
  · rw [BitVec.getLsbD_ofNat, Nat.min_eq_left (by omega)]; simp; omega
  · rw [BitVec.msb_eq_getLsbD_last, BitVec.getLsbD_ofNat, Nat.min_eq_right (by omega)]; simp; omega
theorem r_sext (a b : Word) (j : Nat) (hj : j < 64) : (aluSext a b).getLsbD j = a.getLsbD (min j (b.toNat % 64)) := by
  simp only [aluSext, shiftCount]
  rw [signed_bit _ _ _ (by omega) (by omega) hj]; simp [BitVec.testBit_toNat]
theorem r_bfx (w : BfW) (a : Word) (hw : w.wfExtract = true) (j : Nat) (hj : j < 64) :
    (aluBfx w a).getLsbD j = if j ≤ w.width.toNat then a.getLsbD (w.pos.toNat + j) else w.sx && a.getLsbD (w.pos.toNat + w.width.toNat) := by
  have hw : w.pos.toNat + w.width.toNat ≤ 63 := by simpa [BfW.wfExtract] using hw
  unfold aluBfx
  simp only
  split
  · rename_i h
    rw [signed_bit _ _ _ (by omega) (by omega) hj]
    simp only [Nat.testBit_div_two_pow, BitVec.testBit_toNat, Nat.add_sub_cancel]
    split
    · rw [Nat.min_eq_left (by omega), Nat.add_comm]
    · rw [Nat.min_eq_right (by omega), Nat.add_comm]; simp [h]
  · rename_i h
    simp only [BitVec.getLsbD_ofNat, Nat.testBit_mod_two_pow, Nat.testBit_div_two_pow, hj, decide_true, Bool.true_and, BitVec.testBit_toNat]
    have hs : w.sx = false := by simpa using h
    split
    · have h3 : j < w.width.toNat + 1 := by omega
      simp [h3, Nat.add_comm w.pos.toNat j]
    · have : ¬ (j < w.width.toNat + 1) := by omega
      simp [hs, this]
theorem r_bfi (w : BfW) (a b c : Word) (j : Nat) (hj : j < 64) :
    (aluBfi w a b c).getLsbD j = if w.pos.toNat + c.toNat % 64 ≤ j ∧ j ≤ w.pos.toNat + c.toNat % 64 + w.width.toNat
      then b.getLsbD (j - (w.pos.toNat + c.toNat % 64)) else a.getLsbD j := by
  unfold aluBfi shiftCount
  simp only [BitVec.getLsbD_or, BitVec.getLsbD_and, BitVec.getLsbD_not, BitVec.getLsbD_ofNat, Nat.testBit_mul_two_pow, hj, decide_true,
    Bool.true_and, Nat.testBit_two_pow_sub_one, BitVec.testBit_toNat]
  generalize w.pos.toNat + c.toNat % 64 = p
  by_cases h1 : p ≤ j
  · by_cases h2 : j ≤ p + w.width.toNat
    · have : j - p < w.width.toNat + 1 := by omega
      simp [h1, h2, this]
    · have : ¬ (j - p < w.width.toNat + 1) := by omega
      simp [h1, h2, this]
  · simp [h1]
theorem r_abs (a : Word) : (aluAbs a).toNat = a.toInt.natAbs := by
  unfold aluAbs
  have hb := int_bounds a
  have := a.isLt
  have hz : a.slt 0 = decide (a.toInt < 0) := by simp [BitVec.slt_eq_decide]
  have hi := BitVec.toInt_eq_toNat_cond a
  by_cases h : a.toInt < 0
  · simp only [hz, h, decide_true, if_true, BitVec.toNat_neg]
    split at hi <;> omega
  · simp only [hz, h, decide_false, Bool.false_eq_true, if_false]
    split at hi <;> omega
theorem r_cmp (cc : Cond) (a b : Word) : (cc.holds a b → aluCmp cc a b = 1) ∧ (¬ cc.holds a b → aluCmp cc a b = 0) := by
  cases cc <;> simp [aluCmp, Cond.holds, BitVec.slt_eq_decide, BitVec.ult_eq_decide] 
theorem r_popc (a : Word) : (aluPopc a).toNat = ((List.range 64).filter fun j => a.getLsbD j).length := by
  unfold aluPopc
  rw [BitVec.toNat_ofNat, Nat.mod_eq_of_lt]
  have := List.length_filter_le (fun j => a.getLsbD j) (List.range 64)
  simp at this; omega
theorem r_lea (a b : Word) : aluLea a b = BitVec.ofInt 64 (a.toInt + 64 * b.toInt) := by
  apply BitVec.eq_of_toInt_eq
  simp [aluLea, BitVec.toInt_add, BitVec.toInt_mul, BitVec.toInt_ofInt]

theorem takeWhile_facts (p : Nat → Bool) (n : Nat) : let l := ((List.range n).takeWhile p).length
    l ≤ n ∧ (∀ j, j < l → p j = true) ∧ (l < n → p l = false) := by
  intro l
  have hpre := List.takeWhile_prefix (l := List.range n) p
  have hle : l ≤ n := by have := hpre.length_le; simpa using this
  refine ⟨hle, ?_, ?_⟩
  · intro j hj
    have hj2 : j < ((List.range n).takeWhile p).length := hj
    have h := List.getElem_mem hj2
    have := List.mem_takeWhile_imp h
    rw [List.IsPrefix.getElem hpre hj2] at this
    simpa using this
  · intro hl
    have h := List.takeWhile_append_dropWhile (p := p) (l := List.range n)
    have hne : (List.range n).dropWhile p ≠ [] := by
      intro h0; rw [h0] at h; have := congrArg List.length h; simp at this; omega
    have hd := List.head_dropWhile_not p hne
    have : (List.range n)[l]'(by simpa using hl) = ((List.range n).dropWhile p).head hne := by
      have h3 : (List.range n)[l]? = some (((List.range n).dropWhile p).head hne) := by
        conv_lhs => rw [← h]
        rw [List.getElem?_append_right (by exact Nat.le_refl _)]
        simp [l, List.head_eq_getElem]
      rw [List.getElem?_eq_getElem (by simpa using hl)] at h3
      simpa using h3
    simp at this
    rw [← this] at hd
    simpa using hd
theorem r_ctz (a : Word) : (aluCtz a).toNat ≤ 64 ∧ (∀ j, j < (aluCtz a).toNat → a.getLsbD j = false) ∧
    ((aluCtz a).toNat < 64 → a.getLsbD (aluCtz a).toNat = true) := by
  have h := takeWhile_facts (fun i => !a.getLsbD i) 64
  have e : (aluCtz a).toNat = ((List.range 64).takeWhile fun i => !a.getLsbD i).length := by
    unfold aluCtz
    rw [BitVec.toNat_ofNat, Nat.mod_eq_of_lt]
    have := h.1
    omega
  rw [e]
  simpa using h
theorem r_clz (a : Word) : (aluClz a).toNat ≤ 64 ∧ (∀ j, 64 ≤ (aluClz a).toNat + j → a.getLsbD j = false) ∧
    ((aluClz a).toNat < 64 → a.getLsbD (63 - (aluClz a).toNat) = true) := by
  unfold aluClz
  split
  · rename_i h; subst h; simp
  · rename_i h
    have hn : a.toNat ≠ 0 := by intro h0; apply h; exact BitVec.eq_of_toNat_eq (by simpa using h0)
    have hl : a.toNat.log2 < 64 := by rw [Nat.log2_lt hn]; exact a.isLt
    have e : (BitVec.ofNat 64 (63 - a.toNat.log2)).toNat = 63 - a.toNat.log2 := by
      rw [BitVec.toNat_ofNat, Nat.mod_eq_of_lt]; omega
    rw [e]
    refine ⟨by omega, ?_, ?_⟩
    · intro j hj
      rw [← BitVec.testBit_toNat]
      apply Nat.testBit_lt_two_pow
      calc a.toNat < 2 ^ (a.toNat.log2 + 1) := Nat.lt_log2_self
        _ ≤ 2 ^ j := Nat.pow_le_pow_right (by decide) (by omega)
    · intro _
      rw [← BitVec.testBit_toNat]
      have : 63 - (63 - a.toNat.log2) = a.toNat.log2 := by omega
      rw [this]
      exact Nat.testBit_log2 hn
end Sys2Proof.Machine
end

