-- ==== Sys2Proof/Laws/Memory.lean ====
section
/-! SUPPORT. Memory: reads after writes, what a write leaves alone, and the canonical form that every operation on memory keeps. -/

set_option Elab.async false

namespace Sys2Proof

/-! ### Tables -/

theorem Tab.get?_del_ne {α : Type} {k j : Nat} (h : j ≠ k) (t : Tab α) : Tab.get? j (t.del k) = Tab.get? j t := by
  induction t with
  | nil => rfl
  | cons p t ih =>
    obtain ⟨i, w⟩ := p
    by_cases hi : i = k
    · subst hi; simp [Tab.del, Tab.get?, h.symm]
    · simp [Tab.del, Tab.get?, hi, ih]

/-- Every key of a table is above a bound. -/
def Tab.above {α : Type} (b : Nat) (t : Tab α) : Prop := ∀ p ∈ t, b < p.1

theorem Tab.sorted_cons {α : Type} (p : Nat × α) (t : Tab α) : Tab.sorted (p :: t) = true ↔ t.above p.1 ∧ t.sorted = true := by
  induction t generalizing p with
  | nil => simp [Tab.sorted, Tab.above]
  | cons q t ih =>
    obtain ⟨i, v⟩ := p
    obtain ⟨j, w⟩ := q
    have hq := ih (j, w)
    constructor
    · intro h
      simp only [Tab.sorted, Bool.and_eq_true, decide_eq_true_eq] at h
      refine ⟨fun r hr => ?_, h.2⟩
      rcases List.mem_cons.mp hr with rfl | hr
      · exact h.1
      · exact Nat.lt_trans h.1 ((hq.mp h.2).1 r hr)
    · intro h
      simp only [Tab.sorted, Bool.and_eq_true, decide_eq_true_eq]
      exact ⟨h.1 (j, w) (by simp), h.2⟩

theorem Tab.get?_above {α : Type} {k b : Nat} {t : Tab α} (h : t.above b) (hk : k ≤ b) : Tab.get? k t = none := by
  induction t with
  | nil => rfl
  | cons p t ih =>
    have := h p (by simp)
    simp only [Tab.get?]
    rw [if_neg (by omega)]
    exact ih fun q hq => h q (by simp [hq])

theorem Tab.mem_put {α : Type} {k : Nat} {v : α} {t : Tab α} {p : Nat × α} (h : p ∈ t.put k v) : p = (k, v) ∨ p ∈ t := by
  induction t with
  | nil => simpa [Tab.put] using h
  | cons q t ih =>
    simp only [Tab.put] at h
    split at h
    · rcases List.mem_cons.mp h with h | h
      · exact .inl h
      · exact .inr (by simp [h])
    · split at h
      · rcases List.mem_cons.mp h with h | h
        · exact .inl h
        · exact .inr h
      · rcases List.mem_cons.mp h with h | h
        · exact .inr (by simp [h])
        · rcases ih h with h | h
          · exact .inl h
          · exact .inr (by simp [h])

theorem Tab.mem_del {α : Type} {k : Nat} {t : Tab α} {p : Nat × α} (h : p ∈ t.del k) : p ∈ t := by
  induction t with
  | nil => exact h
  | cons q t ih =>
    simp only [Tab.del] at h
    split at h
    · simp [h]
    · rcases List.mem_cons.mp h with h | h
      · simp [h]
      · simp [ih h]

theorem Tab.put_sorted {α : Type} (k : Nat) (v : α) {t : Tab α} (h : t.sorted = true) : (t.put k v).sorted = true := by
  induction t with
  | nil => rfl
  | cons q t ih =>
    obtain ⟨j, w⟩ := q
    have ⟨h1, h2⟩ := (Tab.sorted_cons _ _).mp h
    simp only [Tab.put]
    split
    · subst_vars; exact (Tab.sorted_cons _ _).mpr ⟨h1, h2⟩
    · split
      · rename_i hk
        refine (Tab.sorted_cons _ _).mpr ⟨fun p hp => ?_, h⟩
        rcases List.mem_cons.mp hp with rfl | hp
        · exact hk
        · exact Nat.lt_trans hk (h1 p hp)
      · refine (Tab.sorted_cons _ _).mpr ⟨fun p hp => ?_, ih h2⟩
        rcases Tab.mem_put hp with rfl | hp
        · simp only; omega
        · exact h1 p hp

theorem Tab.del_sorted {α : Type} (k : Nat) {t : Tab α} (h : t.sorted = true) : (t.del k).sorted = true := by
  induction t with
  | nil => rfl
  | cons q t ih =>
    have ⟨h1, h2⟩ := (Tab.sorted_cons _ _).mp h
    simp only [Tab.del]
    split
    · exact h2
    · exact (Tab.sorted_cons _ _).mpr ⟨fun p hp => h1 p (Tab.mem_del hp), ih h2⟩

theorem Tab.filter_sorted {α : Type} (g : Nat × α → Bool) {t : Tab α} (h : t.sorted = true) : Tab.sorted (t.filter g) = true := by
  induction t with
  | nil => rfl
  | cons q t ih =>
    have ⟨h1, h2⟩ := (Tab.sorted_cons _ _).mp h
    rw [List.filter_cons]
    split
    · exact (Tab.sorted_cons _ _).mpr ⟨fun p hp => h1 p (List.mem_filter.mp hp).1, ih h2⟩
    · exact ih h2

theorem Tab.get?_del_same {α : Type} (k : Nat) {t : Tab α} (h : t.sorted = true) : Tab.get? k (t.del k) = none := by
  induction t with
  | nil => rfl
  | cons q t ih =>
    have ⟨h1, h2⟩ := (Tab.sorted_cons _ _).mp h
    simp only [Tab.del]
    split
    · rename_i hk; exact Tab.get?_above (h1) (by simp [hk])
    · rename_i hk; simp [Tab.get?, hk, ih h2]

namespace Machine

/-! ### Cells -/

theorem Memory.wf_iff (m : List Host.Cell) : Memory.wf m = true ↔ Tab.sorted m = true ∧ ∀ c ∈ m, c.2 ≠ Memory.default := by
  simp [Memory.wf]

theorem Memory.write_wf {m : List Host.Cell} (h : Memory.wf m = true) (a : Nat) (v : Byte) : Memory.wf (Memory.write m a v) = true := by
  have ⟨h1, h2⟩ := (Memory.wf_iff m).mp h
  rw [Memory.wf_iff]
  unfold Memory.write
  split
  · exact ⟨Tab.del_sorted a h1, fun c hc => h2 c (Tab.mem_del hc)⟩
  · rename_i hv
    refine ⟨Tab.put_sorted a v h1, fun c hc => ?_⟩
    rcases Tab.mem_put hc with rfl | hc
    · exact hv
    · exact h2 c hc

theorem Memory.filter_wf {m : List Host.Cell} (h : Memory.wf m = true) (g : Host.Cell → Bool) : Memory.wf (m.filter g) = true := by
  have ⟨h1, h2⟩ := (Memory.wf_iff m).mp h
  exact (Memory.wf_iff _).mpr ⟨Tab.filter_sorted g h1, fun c hc => h2 c (List.mem_filter.mp hc).1⟩

/-- A read after a write to the same place gives the value written. -/
theorem Memory.read_write_same {m : List Host.Cell} (h : Memory.wf m = true) (a : Nat) (v : Byte) :
    Memory.read (Memory.write m a v) a = v := by
  have ⟨h1, _⟩ := (Memory.wf_iff m).mp h
  unfold Memory.read Memory.write
  split
  · rename_i hv; rw [Tab.get?_del_same a h1, hv]; rfl
  · rw [Tab.get?_put_same]; rfl

/-- A write leaves every other place alone. -/
theorem Memory.read_write_ne {a b : Nat} (h : b ≠ a) (m : List Host.Cell) (v : Byte) :
    Memory.read (Memory.write m a v) b = Memory.read m b := by
  unfold Memory.read Memory.write
  split
  · rw [Tab.get?_del_ne h]
  · rw [Tab.get?_put_ne h]

/-! ### Every operation that writes memory keeps the form -/

/-- Memory and the device registers have their canonical form. -/
def State.formed (s : State) : Prop := Memory.wf s.mem.bytes = true ∧ Memory.wf s.dev.regs = true

theorem reset_formed : State.reset.formed := ⟨rfl, rfl⟩

theorem pokeByte_formed {s : State} (h : s.formed) (k : Nat) (v : Byte) : (s.pokeByte k v).formed := ⟨Memory.write_wf h.1 k v, h.2⟩

theorem foldl_formed {α : Type} (g : State → α → State) (hg : ∀ s a, s.formed → (g s a).formed) (l : List α) {s : State} (h : s.formed) :
    (l.foldl g s).formed := by
  induction l generalizing s with
  | nil => exact h
  | cons a l ih => exact ih (hg s a h)

theorem setEngine_formed {s : State} (h : s.formed) (q : Nat) (e : Engine) : (s.setEngine q e).formed := h

theorem writeByte_formed {s : State} (h : s.formed) (k : Nat) (v : Byte) : (s.writeByte k v).formed := by
  unfold State.writeByte
  split
  · exact h
  · exact pokeByte_formed h k v

theorem writeBytes_formed {s : State} (h : s.formed) (k : Nat) (l : List Byte) : (s.writeBytes k l).formed := by
  induction l generalizing s k with
  | nil => exact h
  | cons b l ih => exact ih (writeByte_formed h k b) (k + 1)

theorem write64_formed {s : State} (h : s.formed) (k v : Nat) : (s.write64 k v).formed := writeBytes_formed h k _

theorem writeRuns_formed {s : State} (h : s.formed) (ks : List (Nat × Nat)) (l : List Byte) : (s.writeRuns ks l).formed := by
  induction ks generalizing s l with
  | nil => exact h
  | cons r t ih => exact ih (writeBytes_formed h r.1 _) _

theorem setPoison_formed {s : State} (h : s.formed) (k : Nat) (p : Bool) : (s.setPoison k p).formed := h

/-- The bytes of a line return to memory. -/
theorem pokes_formed {s : State} (h : s.formed) (k : Nat) (b : List Byte) (l : List Nat) :
    (l.foldl (fun s i => s.pokeByte (k + i) (nthD b i 0)) s).formed :=
  foldl_formed _ (fun _ _ hs => pokeByte_formed hs _ _) l h

theorem dropLine_formed {s : State} (h : s.formed) (q : Nat) (l : Line) : (s.dropLine q l).formed := by
  unfold State.dropLine
  generalize List.range 64 = r
  simp only
  have h1 : ∀ e, State.formed (if l.dirty = true then
      r.foldl (fun s i => s.pokeByte (l.pa + i) (nthD l.bytes i 0)) (s.setEngine q e) else s.setEngine q e) := by
    intro e
    split
    · exact pokes_formed (setEngine_formed h q e) _ _ _
    · exact setEngine_formed h q e
  split
  · exact setPoison_formed (h1 _) _ _
  · exact h1 _

theorem recall_formed {s : State} (h : s.formed) (k : Nat) : (s.recall k).formed := by
  unfold State.recall
  split
  · exact dropLine_formed h _ _
  · exact h

theorem devPut_formed {s : State} (h : s.formed) (off : Nat) (data : List Byte) : (s.devPut off data).formed := by
  refine ⟨h.1, ?_⟩
  have : ∀ (l : List (Byte × Nat)) (m : List Host.Cell), Memory.wf m = true →
      Memory.wf (l.foldl (fun m b => Memory.write m (off + b.2) (b.1 &&& devMask (off + b.2))) m) = true := by
    intro l
    induction l with
    | nil => exact fun _ h => h
    | cons b l ih => exact fun m hm => ih _ (Memory.write_wf hm _ _)
  exact this _ _ h.2

theorem zeroRange_formed {s : State} (h : s.formed) (lo n : Nat) : (s.zeroRange lo n).formed := ⟨Memory.filter_wf h.1 _, h.2⟩

theorem modCtx_formed {s : State} (h : s.formed) (c : Nat) (g : Ctx → Ctx) : (s.modCtx c g).formed := by
  unfold State.modCtx
  split
  · exact h
  · exact h

theorem dropShadow_formed {s : State} (h : s.formed) (c : Nat) (r : Rename) : (s.dropShadow c r).formed := by
  unfold State.dropShadow
  split
  · exact h
  · refine modCtx_formed ?_ _ _
    exact ⟨Memory.filter_wf h.1 _, h.2⟩

/-! ### What a write of memory leaves alone -/

/-- Two states that differ in memory bytes, poison and the lines of engines alone. -/
def State.sameButBytes (s t : State) : Prop :=
  t = { s with mem := { s.mem with bytes := t.mem.bytes, poison := t.mem.poison }, sync := { s.sync with engines := t.sync.engines } }

theorem State.sameButBytes.refl (s : State) : s.sameButBytes s := rfl

theorem State.sameButBytes.trans {s t u : State} (h : s.sameButBytes t) (g : t.sameButBytes u) : s.sameButBytes u := by
  unfold State.sameButBytes at *
  rw [g, h]

theorem writeByte_only (s : State) (k : Nat) (v : Byte) : s.sameButBytes (s.writeByte k v) := by
  unfold State.writeByte
  split <;> rfl

theorem writeBytes_only (s : State) (k : Nat) (l : List Byte) : s.sameButBytes (s.writeBytes k l) := by
  induction l generalizing s k with
  | nil => rfl
  | cons b l ih => exact (writeByte_only s k b).trans (ih _ _)

theorem write64_only (s : State) (k v : Nat) : s.sameButBytes (s.write64 k v) := writeBytes_only s k _

theorem writeRuns_only (s : State) (ks : List (Nat × Nat)) (l : List Byte) : s.sameButBytes (s.writeRuns ks l) := by
  induction ks generalizing s l with
  | nil => rfl
  | cons r t ih => exact (writeBytes_only s r.1 _).trans (ih _ _)

theorem foldl_only {α : Type} (g : State → α → State) (hg : ∀ (s : State) a, s.sameButBytes (g s a)) (l : List α) (s : State) :
    s.sameButBytes (l.foldl g s) := by
  induction l generalizing s with
  | nil => rfl
  | cons a l ih => exact (hg s a).trans (ih _)

theorem setEngine_only (s : State) (q : Nat) (e : Engine) : s.sameButBytes (s.setEngine q e) := rfl
theorem setPoison_only (s : State) (k : Nat) (p : Bool) : s.sameButBytes (s.setPoison k p) := rfl
theorem pokeByte_only (s : State) (k : Nat) (v : Byte) : s.sameButBytes (s.pokeByte k v) := rfl

theorem pokes_only (s : State) (k : Nat) (b : List Byte) (l : List Nat) :
    s.sameButBytes (l.foldl (fun s i => s.pokeByte (k + i) (nthD b i 0)) s) := foldl_only _ (fun _ _ => pokeByte_only _ _ _) l s

theorem dropLine_only (s : State) (q : Nat) (l : Line) : s.sameButBytes (s.dropLine q l) := by
  unfold State.dropLine
  generalize List.range 64 = r
  simp only
  have h1 : ∀ e, s.sameButBytes (if l.dirty = true then
      r.foldl (fun s i => s.pokeByte (l.pa + i) (nthD l.bytes i 0)) (s.setEngine q e) else s.setEngine q e) := by
    intro e
    split
    · exact (setEngine_only s q e).trans (pokes_only _ _ _ _)
    · exact setEngine_only s q e
  split
  · exact (h1 _).trans (setPoison_only _ _ _)
  · exact h1 _

theorem recall_only (s : State) (k : Nat) : s.sameButBytes (s.recall k) := by
  unfold State.recall
  split
  · exact dropLine_only s _ _
  · rfl

end Machine

end Sys2Proof
end

