-- ==== Sys2Proof/Laws/PerInstr.lean ====
section
/-! SUPPORT. Facts about every instruction as syntax, one lemma for each constructor. -/

set_option Elab.async false

namespace Sys2Proof.Laws.Words

open Sys2Proof

/-- An instruction has words, and an event has none. -/
def Statement (i : Instr) : Prop := (encode i).isNone = i.isEvent

theorem mov (h : Hdr) : Statement (.mov h) := rfl
theorem const_ (h : Hdr) (w : BitVec 32) : Statement (.const_ h w) := rfl
theorem constZx (h : Hdr) (w : BitVec 32) : Statement (.constZx h w) := rfl
theorem consth (h : Hdr) (w : BitVec 32) : Statement (.consth h w) := rfl
theorem null_ (h : Hdr) : Statement (.null_ h) := rfl
theorem sel (h : Hdr) : Statement (.sel h) := rfl
theorem gate (h : Hdr) : Statement (.gate h) := rfl
theorem br (h : Hdr) (w : BitVec 32) : Statement (.br h w) := rfl
theorem bri (h : Hdr) : Statement (.bri h) := rfl
theorem call (h : Hdr) (w : BitVec 32) : Statement (.call h w) := rfl
theorem calli (h : Hdr) : Statement (.calli h) := rfl
theorem ret (h : Hdr) : Statement (.ret h) := rfl
theorem loop (h : Hdr) (w : LoopW) : Statement (.loop h w) := rfl
theorem iter (h : Hdr) : Statement (.iter h) := rfl
theorem carry (h : Hdr) : Statement (.carry h) := rfl
theorem lbreak (h : Hdr) : Statement (.lbreak h) := rfl
theorem add (h : Hdr) : Statement (.add h) := rfl
theorem addImm (h : Hdr) (w : BitVec 32) : Statement (.addImm h w) := rfl
theorem sub (h : Hdr) : Statement (.sub h) := rfl
theorem subImm (h : Hdr) (w : BitVec 32) : Statement (.subImm h w) := rfl
theorem and_ (h : Hdr) : Statement (.and_ h) := rfl
theorem andImm (h : Hdr) (w : BitVec 32) : Statement (.andImm h w) := rfl
theorem or_ (h : Hdr) : Statement (.or_ h) := rfl
theorem orImm (h : Hdr) (w : BitVec 32) : Statement (.orImm h w) := rfl
theorem xor_ (h : Hdr) : Statement (.xor_ h) := rfl
theorem xorImm (h : Hdr) (w : BitVec 32) : Statement (.xorImm h w) := rfl
theorem shl (h : Hdr) : Statement (.shl h) := rfl
theorem shlImm (h : Hdr) (w : BitVec 32) : Statement (.shlImm h w) := rfl
theorem shr (h : Hdr) : Statement (.shr h) := rfl
theorem shrImm (h : Hdr) (w : BitVec 32) : Statement (.shrImm h w) := rfl
theorem sar (h : Hdr) : Statement (.sar h) := rfl
theorem sarImm (h : Hdr) (w : BitVec 32) : Statement (.sarImm h w) := rfl
theorem min_ (h : Hdr) : Statement (.min_ h) := rfl
theorem minImm (h : Hdr) (w : BitVec 32) : Statement (.minImm h w) := rfl
theorem max_ (h : Hdr) : Statement (.max_ h) := rfl
theorem maxImm (h : Hdr) (w : BitVec 32) : Statement (.maxImm h w) := rfl
theorem minu (h : Hdr) : Statement (.minu h) := rfl
theorem minuImm (h : Hdr) (w : BitVec 32) : Statement (.minuImm h w) := rfl
theorem maxu (h : Hdr) : Statement (.maxu h) := rfl
theorem maxuImm (h : Hdr) (w : BitVec 32) : Statement (.maxuImm h w) := rfl
theorem rotl (h : Hdr) : Statement (.rotl h) := rfl
theorem rotlImm (h : Hdr) (w : BitVec 32) : Statement (.rotlImm h w) := rfl
theorem andn (h : Hdr) : Statement (.andn h) := rfl
theorem andnImm (h : Hdr) (w : BitVec 32) : Statement (.andnImm h w) := rfl
theorem orn (h : Hdr) : Statement (.orn h) := rfl
theorem ornImm (h : Hdr) (w : BitVec 32) : Statement (.ornImm h w) := rfl
theorem xnor (h : Hdr) : Statement (.xnor h) := rfl
theorem xnorImm (h : Hdr) (w : BitVec 32) : Statement (.xnorImm h w) := rfl
theorem mul (h : Hdr) : Statement (.mul h) := rfl
theorem mulImm (h : Hdr) (w : BitVec 32) : Statement (.mulImm h w) := rfl
theorem mulh (h : Hdr) : Statement (.mulh h) := rfl
theorem mulhImm (h : Hdr) (w : BitVec 32) : Statement (.mulhImm h w) := rfl
theorem mulhu (h : Hdr) : Statement (.mulhu h) := rfl
theorem mulhuImm (h : Hdr) (w : BitVec 32) : Statement (.mulhuImm h w) := rfl
theorem div (h : Hdr) : Statement (.div h) := rfl
theorem divImm (h : Hdr) (w : BitVec 32) : Statement (.divImm h w) := rfl
theorem divu (h : Hdr) : Statement (.divu h) := rfl
theorem divuImm (h : Hdr) (w : BitVec 32) : Statement (.divuImm h w) := rfl
theorem rem_ (h : Hdr) : Statement (.rem_ h) := rfl
theorem remImm (h : Hdr) (w : BitVec 32) : Statement (.remImm h w) := rfl
theorem remu (h : Hdr) : Statement (.remu h) := rfl
theorem remuImm (h : Hdr) (w : BitVec 32) : Statement (.remuImm h w) := rfl
theorem clz (h : Hdr) : Statement (.clz h) := rfl
theorem ctz (h : Hdr) : Statement (.ctz h) := rfl
theorem popc (h : Hdr) : Statement (.popc h) := rfl
theorem sext (h : Hdr) : Statement (.sext h) := rfl
theorem zext (h : Hdr) : Statement (.zext h) := rfl
theorem neg (h : Hdr) : Statement (.neg h) := rfl
theorem not_ (h : Hdr) : Statement (.not_ h) := rfl
theorem abs_ (h : Hdr) : Statement (.abs_ h) := rfl
theorem cmp (h : Hdr) (cc : Cond) : Statement (.cmp h cc) := rfl
theorem cmpImm (h : Hdr) (cc : Cond) (w : BitVec 32) : Statement (.cmpImm h cc w) := rfl
theorem lea (h : Hdr) : Statement (.lea h) := rfl
theorem leaImm (h : Hdr) (w : BitVec 32) : Statement (.leaImm h w) := rfl
theorem bfx (h : Hdr) (w : BfW) : Statement (.bfx h w) := rfl
theorem bfi (h : Hdr) (w : BfW) : Statement (.bfi h w) := rfl
theorem faddS (h : Hdr) : Statement (.faddS h) := rfl
theorem fsubS (h : Hdr) : Statement (.fsubS h) := rfl
theorem fmulS (h : Hdr) : Statement (.fmulS h) := rfl
theorem fdivS (h : Hdr) : Statement (.fdivS h) := rfl
theorem fminS (h : Hdr) : Statement (.fminS h) := rfl
theorem fmaxS (h : Hdr) : Statement (.fmaxS h) := rfl
theorem fsqrtS (h : Hdr) : Statement (.fsqrtS h) := rfl
theorem fabsS (h : Hdr) : Statement (.fabsS h) := rfl
theorem fnegS (h : Hdr) : Statement (.fnegS h) := rfl
theorem fcmpeqS (h : Hdr) : Statement (.fcmpeqS h) := rfl
theorem fcmpltS (h : Hdr) : Statement (.fcmpltS h) := rfl
theorem fcmpleS (h : Hdr) : Statement (.fcmpleS h) := rfl
theorem fcmpunS (h : Hdr) : Statement (.fcmpunS h) := rfl
theorem ffmaS (h : Hdr) : Statement (.ffmaS h) := rfl
theorem faddD (h : Hdr) : Statement (.faddD h) := rfl
theorem fsubD (h : Hdr) : Statement (.fsubD h) := rfl
theorem fmulD (h : Hdr) : Statement (.fmulD h) := rfl
theorem fdivD (h : Hdr) : Statement (.fdivD h) := rfl
theorem fminD (h : Hdr) : Statement (.fminD h) := rfl
theorem fmaxD (h : Hdr) : Statement (.fmaxD h) := rfl
theorem fsqrtD (h : Hdr) : Statement (.fsqrtD h) := rfl
theorem fabsD (h : Hdr) : Statement (.fabsD h) := rfl
theorem fnegD (h : Hdr) : Statement (.fnegD h) := rfl
theorem fcmpeqD (h : Hdr) : Statement (.fcmpeqD h) := rfl
theorem fcmpltD (h : Hdr) : Statement (.fcmpltD h) := rfl
theorem fcmpleD (h : Hdr) : Statement (.fcmpleD h) := rfl
theorem fcmpunD (h : Hdr) : Statement (.fcmpunD h) := rfl
theorem ffmaD (h : Hdr) : Statement (.ffmaD h) := rfl
theorem cvt (h : Hdr) (k : CvtKind) (w : ConvW) : Statement (.cvt h k w) := rfl
theorem tcvt (h : Hdr) (w : ConvW) : Statement (.tcvt h w) := rfl
theorem fcset (h : Hdr) (w : FcsetW) : Statement (.fcset h w) := rfl
theorem fcget (h : Hdr) (w : FcgetW) : Statement (.fcget h w) := rfl
theorem tamax (h : Hdr) : Statement (.tamax h) := rfl
theorem trescale (h : Hdr) : Statement (.trescale h) := rfl
theorem tadd (h : Hdr) : Statement (.tadd h) := rfl
theorem tsub (h : Hdr) : Statement (.tsub h) := rfl
theorem tmul (h : Hdr) : Statement (.tmul h) := rfl
theorem tmax (h : Hdr) : Statement (.tmax h) := rfl
theorem tmin (h : Hdr) : Statement (.tmin h) := rfl
theorem tdiv (h : Hdr) : Statement (.tdiv h) := rfl
theorem tand (h : Hdr) : Statement (.tand h) := rfl
theorem tor (h : Hdr) : Statement (.tor h) := rfl
theorem txor (h : Hdr) : Statement (.txor h) := rfl
theorem tneg (h : Hdr) : Statement (.tneg h) := rfl
theorem tabs (h : Hdr) : Statement (.tabs h) := rfl
theorem texp (h : Hdr) : Statement (.texp h) := rfl
theorem tlog (h : Hdr) : Statement (.tlog h) := rfl
theorem trsqrt (h : Hdr) : Statement (.trsqrt h) := rfl
theorem trecip (h : Hdr) : Statement (.trecip h) := rfl
theorem ttanh (h : Hdr) : Statement (.ttanh h) := rfl
theorem tsigm (h : Hdr) : Statement (.tsigm h) := rfl
theorem tgelu (h : Hdr) : Statement (.tgelu h) := rfl
theorem tfma (h : Hdr) : Statement (.tfma h) := rfl
theorem tsplat (h : Hdr) : Statement (.tsplat h) := rfl
theorem trowb (h : Hdr) : Statement (.trowb h) := rfl
theorem tcolb (h : Hdr) : Statement (.tcolb h) := rfl
theorem trsum (h : Hdr) : Statement (.trsum h) := rfl
theorem tcsum (h : Hdr) : Statement (.tcsum h) := rfl
theorem trmax (h : Hdr) : Statement (.trmax h) := rfl
theorem tcmax (h : Hdr) : Statement (.tcmax h) := rfl
theorem tsum (h : Hdr) : Statement (.tsum h) := rfl
theorem ttrans (h : Hdr) : Statement (.ttrans h) := rfl
theorem tmask (h : Hdr) : Statement (.tmask h) := rfl
theorem tcmp (h : Hdr) (cc : TCond) : Statement (.tcmp h cc) := rfl
theorem tsel (h : Hdr) : Statement (.tsel h) := rfl
theorem telget (h : Hdr) : Statement (.telget h) := rfl
theorem telset (h : Hdr) : Statement (.telset h) := rfl
theorem tnew (h : Hdr) (w : TnewW) : Statement (.tnew h w) := rfl
theorem trel (h : Hdr) : Statement (.trel h) := rfl
theorem tcopy (h : Hdr) : Statement (.tcopy h) := rfl
theorem mma (h : Hdr) (x : AccX) : Statement (.mma h x) := rfl
theorem mmar (h : Hdr) (x : AccX) : Statement (.mmar h x) := rfl
theorem zinit (h : Hdr) (w : AccW) : Statement (.zinit h w) := rfl
theorem zclrf (h : Hdr) (w : AccW) : Statement (.zclrf h w) := rfl
theorem zflags (h : Hdr) (w : AccW) : Statement (.zflags h w) := rfl
theorem zscale (h : Hdr) (w : AccW) : Statement (.zscale h w) := rfl
theorem zload (h : Hdr) (w : AccW) : Statement (.zload h w) := rfl
theorem zdrain (h : Hdr) (z : BitVec 3) (w : DrainW) : Statement (.zdrain h z w) := rfl
theorem tmac (h : Hdr) (x : AccX) (w : DrainW) : Statement (.tmac h x w) := rfl
theorem rcfg (h : Hdr) (w : RingW) : Statement (.rcfg h w) := rfl
theorem rpush (h : Hdr) (w : RingW) : Statement (.rpush h w) := rfl
theorem rpop (h : Hdr) (w : RingW) : Statement (.rpop h w) := rfl
theorem rstat (h : Hdr) (w : RingW) : Statement (.rstat h w) := rfl
theorem epload (h : Hdr) (w : EploadW) : Statement (.epload h w) := rfl
theorem eparg (h : Hdr) (w : EpargW) : Statement (.eparg h w) := rfl
theorem ld (h : Hdr) (x : LoadX) (w : MemW) : Statement (.ld h x w) := rfl
theorem ldr (h : Hdr) (x : LoadX) (w : MemW) : Statement (.ldr h x w) := rfl
theorem st (h : Hdr) (x : Width) (w : MemW) : Statement (.st h x w) := rfl
theorem ldpair (h : Hdr) (x : LoadX) (w : MemW) : Statement (.ldpair h x w) := rfl
theorem tld (h : Hdr) (w : TmemW) : Statement (.tld h w) := rfl
theorem tldr (h : Hdr) (w : TmemW) : Statement (.tldr h w) := rfl
theorem tst (h : Hdr) (w : TmemW) : Statement (.tst h w) := rfl
theorem tgath (h : Hdr) (w : TmemW) : Statement (.tgath h w) := rfl
theorem tscat (h : Hdr) (w : TmemW) : Statement (.tscat h w) := rfl
theorem fence (h : Hdr) (sc : Scope) : Statement (.fence h sc) := rfl
theorem fenceWord (h : Hdr) (sc : Scope) (w : FenceW) : Statement (.fenceWord h sc w) := rfl
theorem sbar (h : Hdr) (w : SbarW) : Statement (.sbar h w) := rfl
theorem tlwait (h : Hdr) (tl : Timeline) : Statement (.tlwait h tl) := rfl
theorem tlread (h : Hdr) (tl : Timeline) : Statement (.tlread h tl) := rfl
theorem atom (h : Hdr) (op : AtomOp) (w : AtomW) : Statement (.atom h op w) := rfl
theorem atomn (h : Hdr) (op : AtomOp) (w : AtomW) : Statement (.atomn h op w) := rfl
theorem acbind (h : Hdr) : Statement (.acbind h) := rfl
theorem acexpect (h : Hdr) : Statement (.acexpect h) := rfl
theorem acread (h : Hdr) : Statement (.acread h) := rfl
theorem acfree (h : Hdr) : Statement (.acfree h) := rfl
theorem barinit (h : Hdr) (w : BarW) : Statement (.barinit h w) := rfl
theorem bararr (h : Hdr) (w : BarW) : Statement (.bararr h w) := rfl
theorem bartry (h : Hdr) (w : BarW) : Statement (.bartry h w) := rfl
theorem syncall (h : Hdr) : Statement (.syncall h) := rfl
theorem chopen (h : Hdr) (w : ChopenW) : Statement (.chopen h w) := rfl
theorem chclose (h : Hdr) : Statement (.chclose h) := rfl
theorem chstat (h : Hdr) : Statement (.chstat h) := rfl
theorem chsend (h : Hdr) : Statement (.chsend h) := rfl
theorem chtrys (h : Hdr) : Statement (.chtrys h) := rfl
theorem chrecv (h : Hdr) : Statement (.chrecv h) := rfl
theorem chtryr (h : Hdr) : Statement (.chtryr h) := rfl
theorem cpy (h : Hdr) : Statement (.cpy h) := rfl
theorem cpy1 (h : Hdr) (w : Cpy1W) : Statement (.cpy1 h w) := rfl
theorem cpyr (h : Hdr) (w : CpyrW) : Statement (.cpyr h w) := rfl
theorem cpqpost (h : Hdr) : Statement (.cpqpost h) := rfl
theorem cpstat (h : Hdr) : Statement (.cpstat h) := rfl
theorem spawn (h : Hdr) (x : SpawnX) : Statement (.spawn h x) := rfl
theorem spawnd (h : Hdr) (x : SpawnX) : Statement (.spawnd h x) := rfl
theorem jnew (h : Hdr) : Statement (.jnew h) := rfl
theorem jdec (h : Hdr) : Statement (.jdec h) := rfl
theorem tend (h : Hdr) : Statement (.tend h) := rfl
theorem fnew (h : Hdr) : Statement (.fnew h) := rfl
theorem fres (h : Hdr) : Statement (.fres h) := rfl
theorem freg (h : Hdr) : Statement (.freg h) := rfl
theorem fget (h : Hdr) : Statement (.fget h) := rfl
theorem dqpush (h : Hdr) : Statement (.dqpush h) := rfl
theorem dqpop (h : Hdr) : Statement (.dqpop h) := rfl
theorem dqsteal (h : Hdr) : Statement (.dqsteal h) := rfl
theorem wqput (h : Hdr) : Statement (.wqput h) := rfl
theorem wqget (h : Hdr) : Statement (.wqget h) := rfl
theorem yield_ (h : Hdr) : Statement (.yield_ h) := rfl
theorem srr (h : Hdr) (w : BitVec 32) : Statement (.srr h w) := rfl
theorem srw (h : Hdr) (w : BitVec 32) : Statement (.srw h w) := rfl
theorem trap (h : Hdr) (w : BitVec 32) : Statement (.trap h w) := rfl
theorem hcall (h : Hdr) (w : BitVec 32) : Statement (.hcall h w) := rfl
theorem ckpt (h : Hdr) : Statement (.ckpt h) := rfl
theorem remest (h : Hdr) : Statement (.remest h) := rfl
theorem remestImm (h : Hdr) (w : BitVec 32) : Statement (.remestImm h w) := rfl
theorem ctxnew (h : Hdr) : Statement (.ctxnew h) := rfl
theorem ctxhalt (h : Hdr) : Statement (.ctxhalt h) := rfl
theorem ctxres (h : Hdr) : Statement (.ctxres h) := rfl
theorem hbeat (h : Hdr) : Statement (.hbeat h) := rfl
theorem atinv (h : Hdr) : Statement (.atinv h) := rfl
theorem pwrhint (h : Hdr) (w : BitVec 32) : Statement (.pwrhint h w) := rfl
theorem tcinv (h : Hdr) : Statement (.tcinv h) := rfl
theorem tcpin (h : Hdr) : Statement (.tcpin h) := rfl
theorem tcpre (h : Hdr) : Statement (.tcpre h) := rfl
theorem objload (h : Hdr) : Statement (.objload h) := rfl
theorem trace (h : Hdr) : Statement (.trace h) := rfl
theorem mark (h : Hdr) (w : BitVec 32) : Statement (.mark h w) := rfl
theorem brk (h : Hdr) : Statement (.brk h) := rfl
theorem cntrd (h : Hdr) (w : BitVec 32) : Statement (.cntrd h w) := rfl
theorem tokenDelivery (n : Nat) : Statement (.tokenDelivery n) := rfl
theorem tokenResend (n : Nat) : Statement (.tokenResend n) := rfl
theorem tokenParity (n : Nat) : Statement (.tokenParity n) := rfl
theorem splitPhaseReply (n : Nat) : Statement (.splitPhaseReply n) := rfl
theorem tileRelease (n : Nat) : Statement (.tileRelease n) := rfl
theorem frameGrant (pe : Nat) : Statement (.frameGrant pe) := rfl
theorem blockCommit (pe : Nat) (f : Nat) : Statement (.blockCommit pe f) := rfl
theorem frameFree (pe : Nat) (f : Nat) : Statement (.frameFree pe f) := rfl
theorem loopIterationStart (pe : Nat) (t : Nat) : Statement (.loopIterationStart pe t) := rfl
theorem memoryAccessAtHome (n : Nat) (p : Nat) : Statement (.memoryAccessAtHome n p) := rfl
theorem translationWalk (n : Nat) : Statement (.translationWalk n) := rfl
theorem faultQueueDoorbell (n : Nat) : Statement (.faultQueueDoorbell n) := rfl
theorem atomicEngineRequest (q : Nat) (b : Nat) : Statement (.atomicEngineRequest q b) := rfl
theorem atomicLineFill (q : Nat) (line : Nat) : Statement (.atomicLineFill q line) := rfl
theorem countMessage (n : Nat) : Statement (.countMessage n) := rfl
theorem counterFire (c : Nat) : Statement (.counterFire c) := rfl
theorem barrierArrival (n : Nat) : Statement (.barrierArrival n) := rfl
theorem barrierPhaseComplete (rec : Nat) : Statement (.barrierPhaseComplete rec) := rfl
theorem barrierRelease (n : Nat) : Statement (.barrierRelease n) := rfl
theorem channelBindRequest (n : Nat) : Statement (.channelBindRequest n) := rfl
theorem channelElement (n : Nat) : Statement (.channelElement n) := rfl
theorem channelReceiveRequest (n : Nat) : Statement (.channelReceiveRequest n) := rfl
theorem spillReadback (ch : Nat) : Statement (.spillReadback ch) := rfl
theorem endpointRelease (n : Nat) : Statement (.endpointRelease n) := rfl
theorem channelCloseMessage (n : Nat) : Statement (.channelCloseMessage n) := rfl
theorem xoff (n : Nat) : Statement (.xoff n) := rfl
theorem xon (n : Nat) : Statement (.xon n) := rfl
theorem monitorExtend (d : Nat) : Statement (.monitorExtend d) := rfl
theorem probationExpiry (d : Nat) : Statement (.probationExpiry d) := rfl
theorem linkRetrain (link : Nat) : Statement (.linkRetrain link) := rfl
theorem linkDown (link : Nat) : Statement (.linkDown link) := rfl
theorem jxTagFailure (link : LinkSide) : Statement (.jxTagFailure link) := rfl
theorem copyStart (n : Nat) : Statement (.copyStart n) := rfl
theorem copyComplete (n : Nat) : Statement (.copyComplete n) := rfl
theorem copyQueueDoorbell (n : Nat) : Statement (.copyQueueDoorbell n) := rfl
theorem copyQueueRegistration (n : Nat) : Statement (.copyQueueRegistration n) := rfl
theorem ringHeadUpdate (n : Nat) : Statement (.ringHeadUpdate n) := rfl
theorem matrixOperandPacket (n : Nat) : Statement (.matrixOperandPacket n) := rfl
theorem accumulatorSpill (pe : Nat) (z : Nat) : Statement (.accumulatorSpill pe z) := rfl
theorem taskPop (pe : Nat) : Statement (.taskPop pe) := rfl
theorem taskEnd (pe : Nat) (t : Nat) : Statement (.taskEnd pe t) := rfl
theorem joinDecrement (n : Nat) : Statement (.joinDecrement n) := rfl
theorem futureOperation (n : Nat) : Statement (.futureOperation n) := rfl
theorem futurePoison (n : Nat) : Statement (.futurePoison n) := rfl
theorem dequeOperation (n : Nat) : Statement (.dequeOperation n) := rfl
theorem workQueueOperation (n : Nat) : Statement (.workQueueOperation n) := rfl
theorem dependenceSubmit (n : Nat) : Statement (.dependenceSubmit n) := rfl
theorem dependenceRelease (d : Nat) (e : Nat) : Statement (.dependenceRelease d e) := rfl
theorem copyBack (d : Nat) (e : Nat) : Statement (.copyBack d e) := rfl
theorem costReport (d : Nat) : Statement (.costReport d) := rfl
theorem quadGate (q : Nat) : Statement (.quadGate q) := rfl
theorem quadWake (q : Nat) : Statement (.quadWake q) := rfl
theorem preempt (q : Nat) : Statement (.preempt q) := rfl
theorem haltLine (c : Nat) : Statement (.haltLine c) := rfl
theorem haltComplete (c : Nat) : Statement (.haltComplete c) := rfl
theorem watchdog (c : Nat) : Statement (.watchdog c) := rfl
theorem create (n : Nat) : Statement (.create n) := rfl
theorem hostReply (k : Nat) (status : Nat) (reply : Word) : Statement (.hostReply k status reply) := rfl
theorem kilnTranslate (d : Nat) : Statement (.kilnTranslate d) := rfl
theorem configLoad (pe : Nat) (addr : Nat) : Statement (.configLoad pe addr) := rfl
theorem invalidationEffect (n : Nat) : Statement (.invalidationEffect n) := rfl
theorem traceSample (c : Nat) (pe : Nat) : Statement (.traceSample c pe) := rfl
theorem apertureSizeWrite (n : Nat) : Statement (.apertureSizeWrite n) := rfl
theorem pkgnoWrite (n : Nat) : Statement (.pkgnoWrite n) := rfl
theorem deviceRegisterWrite (n : Nat) : Statement (.deviceRegisterWrite n) := rfl
theorem hostBarAccess (acc : HostAccess) : Statement (.hostBarAccess acc) := rfl
theorem bridgeLinkLoss : Statement (.bridgeLinkLoss) := rfl
theorem ownershipChange (page : Nat) (owner : Nat) : Statement (.ownershipChange page owner) := rfl
theorem lockInterfaceRequest (p : Nat) : Statement (.lockInterfaceRequest p) := rfl
theorem startInterfaceRequest (p : Nat) : Statement (.startInterfaceRequest p) := rfl
theorem stopInterface (p : Nat) : Statement (.stopInterface p) := rfl
theorem getVersion : Statement (.getVersion) := rfl
theorem getCapabilities : Statement (.getCapabilities) := rfl
theorem negotiateAlgorithms : Statement (.negotiateAlgorithms) := rfl
theorem getDigests : Statement (.getDigests) := rfl
theorem getCertificate (slot : Nat) : Statement (.getCertificate slot) := rfl
theorem challenge (nonce : Nat) : Statement (.challenge nonce) := rfl
theorem getMeasurements (p : MeasureAsk) (nonce : Nat) : Statement (.getMeasurements p nonce) := rfl
theorem keyExchange (sess : Nat) (p : SessionEnd) : Statement (.keyExchange sess p) := rfl
theorem finish (sess : Nat) : Statement (.finish sess) := rfl
theorem keyUpdate (sess : Nat) : Statement (.keyUpdate sess) := rfl
theorem endSession (sess : Nat) : Statement (.endSession sess) := rfl
theorem reset (boot : BootImages) : Statement (.reset boot) := rfl
theorem powerStateRequest (st : PowerState) : Statement (.powerStateRequest st) := rfl
theorem thermalThrottle (d : Nat) : Statement (.thermalThrottle d) := rfl
theorem thermalShutdown : Statement (.thermalShutdown) := rfl
theorem ideIntegrityFailure (p : Nat) : Statement (.ideIntegrityFailure p) := rfl
theorem bridgeLinkReturn : Statement (.bridgeLinkReturn) := rfl
theorem partitionCreation (p : Nat) (noDebug : Bool) : Statement (.partitionCreation p noDebug) := rfl
theorem verificationKeyInstall (p : Nat) (key : VerifyKey) : Statement (.verificationKeyInstall p key) := rfl

end Sys2Proof.Laws.Words
end

