-- ==== Sys2Proof/Tests/Setup.lean ====
section
/-! SUPPORT. Small states that tests and witnesses run in: one instruction, or one message, in a machine that is otherwise as reset. -/

set_option Elab.async false

namespace Sys2Proof.Tests

open Sys2Proof.Machine

/-- The words of an instruction as one number. -/
def wordsNat (i : Instr) : Nat :=
  match encode i with
  | some r => r.base.toNat + r.second.toNat * 2 ^ 32
  | none => 0

/-- A scalar operand. -/
def sc (n : Nat) : Tok := scalarTok (BitVec.ofNat 64 n)

/-- Headers: no target, T0 the first write entry, both targets write entries, T0 a slot. -/
def h0 : Hdr := { pr := .always, t1 := .none, t0 := .none }
def h1 : Hdr := { pr := .always, t1 := .none, t0 := .write 0 }
def h2 : Hdr := { pr := .always, t1 := .write 1, t0 := .write 0 }
def hs : Hdr := { pr := .always, t1 := .none, t0 := .slot .a 0 }

/-- The machine with the instruction as the next to issue, with operands a, b and c. -/
def ready (i : Instr) (a b c : Tok) : State :=
  (State.reset.withFetchWord 64 (wordsNat i)).modFrame 0 fun fr =>
    { fr with slots := i.required.foldl (fun t sd => t.put (sideNum sd) (match sd with | .a => a | .b => b | .c => c)) [] }

/-- The machine with the instruction as the next to issue, with scalar operands. -/
def rd (i : Instr) (a b c : Nat) : State := ready i (sc a) (sc b) (sc c)

/-- The firing of the instruction in focus. -/
def shot (i : Instr) (s : State) : Firing :=
  match s.firing i with
  | some f => f
  | none => { key := 0, idx := 0, fr := wordFrame (wordCfg { base := 0, second := 0 }) 0 0, x := wordCtx 0, h := i.hdr, a := zeroTok, b := zeroTok, c := zeroTok }

/-- The instruction in focus fires. -/
def fires (i : Instr) (s : State) : Bool := (s.firing i).isSome && !predMismatch (shot i s).h (shot i s).c && !(shot i s).nulled i

theorem fires_spec {i : Instr} {s : State} (h : fires i s = true) : Fires i s (shot i s) := by
  unfold fires at h
  unfold Fires
  cases hf : s.firing i with
  | none => simp [hf] at h
  | some f =>
    have : shot i s = f := by simp [shot, hf]
    simp [hf, this] at h ⊢
    exact h

/-- A witness of a clause about a firing instruction: it fires, and its premises hold. -/
theorem wit {i : Instr} {s : State} {p : Firing → Prop} (h : fires i s = true) (hp : p (shot i s)) : ∃ f, Fires i s f ∧ p f :=
  ⟨shot i s, fires_spec h, hp⟩

/-- Witnesses over a list of instructions. -/
theorem wits {α : Type} {l : List α} {i : α → Instr} {s : α → State} {p : α → Firing → Prop}
    (h : ∀ a ∈ l, fires (i a) (s a) = true ∧ p a (shot (i a) (s a))) : ∀ a ∈ l, ∃ f, Fires (i a) (s a) f ∧ p a f :=
  fun a ha => ⟨_, fires_spec (h a ha).1, (h a ha).2⟩

/-- An outcome is a next state. -/
def goes : Host.Outcome State Fault Refusal → Bool
  | .next _ => true
  | _ => false

theorem goes_spec {o : Host.Outcome State Fault Refusal} (h : goes o = true) : ∃ t, o = .next t := by
  cases o with
  | next t => exact ⟨t, rfl⟩
  | _ => cases h

/-- A firing that resolves without performing. -/
def hasFiring (i : Instr) (s : State) (p : Firing → Bool) : Bool := (s.firing i).isSome && p (shot i s)

theorem firing_of {i : Instr} {s : State} (h : (s.firing i).isSome = true) : s.firing i = some (shot i s) := by
  cases hf : s.firing i with
  | none => simp [hf] at h
  | some f => simp [shot, hf]

theorem hasFiring_spec {i : Instr} {s : State} {p : Firing → Bool} (h : hasFiring i s p = true) : ∃ f, s.firing i = some f ∧ p f = true := by
  simp only [hasFiring, Bool.and_eq_true] at h
  exact ⟨_, firing_of h.1, h.2⟩


/-- A live tile in its slot: `count` references, of context slot 0, with elements of a width code. -/
def tile (w count : Nat) (codes : List Nat) : TileSlot :=
  { gen := 5, count := count, owner := 0, width := w, nonfinite := false, granules := widthGranules w, codes := codes ++ List.replicate (256 - codes.length) 0 }

/-- Format channels: fc0 to fc7 hold the format of their number with scale 0, the others FP32. -/
def fcs : List (BitVec 16) := (List.range 32).map fun i => BitVec.ofNat 16 (if i < 8 then i else 0)

/-- A handle of PE 0, of generation 5. -/
def hn (slot fc rows cols : Nat) : Tok := { kind := .tile, val := handleOf 0 slot fc rows cols 5 }

/-- The format channels, and tiles in the first slots of PE 0: two of FP32, one of INT8, one of E4M3 and one of INT32. -/
def withTiles (s : State) : State :=
  let s := s.modCtx 1 fun x => { x with fc := fcs }
  { s with pe := { s.pe with tiles := [(0, tile 2 1 [0x3F800000, 0x40000000, 0x40400000]), (1, tile 2 2 [0xBF800000, 0x7FC00000, 0]), (2, tile 0 1 [1, 2, 0xFF]),
                                      (3, tile 0 1 [0x38, 0x7F]), (4, tile 2 1 [7, 0xFFFFFFFF])] } }

/-- The machine with tiles and an instruction that is next. -/
def rt (i : Instr) (a b c : Tok) : State := withTiles (ready i a b c)

/-- An operand as the tile instructions find it. -/
def tin (s : State) (t : Tok) : TileIn :=
  { h := t.val, slot := s.tileSlot (hPe t.val) (hSlot t.val)
    ch := (chanOf (nthD fcs (hFc t.val) 0)).getD { fmt := .int 8, scale := 0 } }

/-- A loaded object of context 1 with blocks of the types given, from address 0, one every 64 bytes. -/
def withBlocks (types : List Nat) (s : State) : State :=
  { s with kiln := { s.kiln with objects := [(1,
      { ctx := 1, base := 0, codeVa := 0, codeSize := 64 * types.length, dataVa := 0, blocks := (List.range types.length).map (64 * ·), types := types
        features := 0, rev := 0, entry := 0, digest := 0, images := [], nodes := [], actors := [], edges := [], committed := true })] } }

/-- A leaf entry that maps a page to an address with an attribute, readable, writable and executable (R221). -/
def leafAt (pa attr : Nat) : Nat := pa + 2 ^ 54 + 2 ^ 55 + 2 ^ 56 + attr * 2 ^ 58

/-- Cached translations of ASID 0 for PE 0 and its die: the first GiB is normal memory, the second channel memory, the third counted memory. -/
def paged (s : State) : State :=
  { s with mem := { s.mem with tlb := [0, 2048].flatMap fun u => (List.range 3).map fun k =>
      { unit := u, asid := 0, va := k * 2 ^ 30, size := 2 ^ 30, pte := leafAt (k * 2 ^ 30) k } } }

/-- Bytes in memory from an address. -/
def poke (a : Nat) (l : List Nat) (s : State) : State :=
  { s with mem := { s.mem with bytes := l.zipIdx.foldl (fun m p => Memory.write m (a + p.2) (BitVec.ofNat 8 p.1)) s.mem.bytes } }

/-- A little-endian field of n bytes. -/
def le (n v : Nat) : List Nat := (List.range n).map fun i => v / 2 ^ (8 * i) % 256

/-- The first GiB, by a table at 1 MiB. -/
def tabled (s : State) : State :=
  (poke (2 ^ 20 + 8192) (le 8 (leafAt 0 0 + 3)) (poke (2 ^ 20 + 4096) (le 8 (2 ^ 20 + 8192 + 1)) (poke (2 ^ 20) (le 8 (2 ^ 20 + 4096 + 1)) s))).modCtx 1
    fun x => { x with root := 2 ^ 20 }

/-- Context 1 with a task and an Open frame on PE 0, and nothing else. -/
def base : State := rd (.mov h1) 0 0 0

/-- A message alone in the mortar, from PE 0, as its sender made it; one whose bits are given. -/
def envOf (m : Msg) (dst : Agent) (cls : Nat) : Env :=
  { src := .pe 0, dst := dst, cls := cls, ctx := base.workOf m, sent := 0, body := m, wire := base.wireOf dst cls (base.workOf m) m, refusals := 0, refused := false }
def mail (m : Msg) (dst : Agent) (cls : Nat) (s : State) : State := { s with net := [(7, envOf m dst cls)] }

/-- A message of the device itself, or of an instruction of context 1, task 0 on PE 0, block 0, index 0. -/
def src1 : Src := { Src.none with ctx := 1, uid := 1, idx := 0 }

end Sys2Proof.Tests
end

