-- ==== Sys2Proof/Tests/Firing.lean ====
section
/-! SUPPORT. Witnesses that the hypotheses of the statements about firing, scalar instructions, branches and loops can be met together. -/

set_option Elab.async false

namespace Sys2Proof.Tests

open Sys2Proof.Machine

/-! ### Firing -/

/-- An add whose second operand has not come, and one that waits for tiles: the first does not fire, the second does. -/
def lacking : State := (rd (.add h1) 1 2 0).modFrame 0 fun fr => { fr with slots := [(0, sc 1)] }
def tried : State := (rd (.add h1) 1 2 0).modFrame 0 fun fr => { fr with stat := [(0, .waiting .tiles)] }

theorem test_witness_FiringConditions :
    (∃ t, exec (.add h1) tried = .next t) ∧ (lacking.firing (.add h1) = none) ∧
      (∃ t, exec (.hbeat h1) (rd (.hbeat h1) 0 0 0) = .next t) ∧
      ((rd (.atom h1 .add { disp := 0, order := 0, dbl := false, scope := .pkg, stream := 0 }) 0 0 0).firing
        (.atom h1 .add { disp := 0, order := 0, dbl := false, scope := .pkg, stream := 0 })).isSome = true :=
  ⟨goes_spec (by decide +kernel), by decide +kernel, goes_spec (by decide +kernel), by decide +kernel⟩

/-- Predicates that match and that do not, and a null one. -/
def hT : Hdr := { pr := .ifTrue, t1 := .none, t0 := .write 0 }
def hF : Hdr := { pr := .ifFalse, t1 := .none, t0 := .write 0 }
def hT0 : Hdr := { pr := .ifTrue, t1 := .none, t0 := .none }

def stX : MemW := { lsid := 31, stream := 6, disp := 0 }

theorem test_witness_MismatchAndNulls_1 :
    (∃ f, (rd (.add hT) 1 2 6).firing (.add hT) = some f ∧ (f.c.kind != .null && !f.c.val.getLsbD 0) = true) ∧
    (∃ f, (rd (.add hF) 1 2 7).firing (.add hF) = some f ∧ (f.c.kind != .null && f.c.val.getLsbD 0) = true) :=
  ⟨hasFiring_spec (by decide +kernel), hasFiring_spec (by decide +kernel)⟩

theorem test_witness_MismatchAndNulls_2 :
    (∃ f, (ready (.add hT) (sc 1) (sc 2) nullTok).firing (.add hT) = some f ∧ (!predMismatch f.h f.c && f.c.kind == .null && f.clear) = true) ∧
    (∃ f, (ready (.add h2) (sc 1) nullTok nullTok).firing (.add h2) = some f ∧
      (!predMismatch f.h f.c && (Instr.nullSides (.add h2)).any (fun sd => (f.get sd).kind == .null) && f.clear) = true) ∧
    (∃ f, (ready (.st h0 .byte stX) (sc 1) nullTok nullTok).firing (.st h0 .byte stX) = some f ∧
      (!predMismatch f.h f.c && (Instr.nullSides (.st h0 .byte stX)).any (fun sd => (f.get sd).kind == .null) && f.clear &&
        !f.fr.satisfied.contains 31) = true) ∧
    (∃ f, (ready (.bri h0) nullTok (sc 0) nullTok).firing (.bri h0) = some f ∧
      (!predMismatch f.h f.c && (Instr.nullSides (.bri h0)).any (fun sd => (f.get sd).kind == .null) && f.clear) = true) :=
  ⟨hasFiring_spec (by decide +kernel), hasFiring_spec (by decide +kernel), hasFiring_spec (by decide +kernel), hasFiring_spec (by decide +kernel)⟩

/-! ### Scalar instructions -/

def intOps : List IntOp :=
  [.add, .sub, .and, .or, .xor, .shl, .shr, .sar, .min, .max, .minu, .maxu, .rotl, .andn, .orn, .xnor, .mul, .mulh, .mulhu, .div, .divu, .rem, .remu, .lea,
    .cmp .eq, .cmp .ne, .cmp .lt, .cmp .ge, .cmp .ltu, .cmp .geu]

theorem test_witness_IntegerResults_slot :
    ∀ o ∈ intOps, ∃ f, Fires (o.instr h2 none) (rd (o.instr h2 none) (2 ^ 63) (2 ^ 64 - 1) 0) f ∧
      f.clear = true ∧ f.takesScalars (o.instr h2 none) = true :=
  wits (by decide +kernel)

theorem test_witness_IntegerResults_imm :
    ∀ o ∈ intOps, ∃ f, Fires (o.instr h2 (some 0x80000000)) (rd (o.instr h2 (some 0x80000000)) (2 ^ 63) 0 0) f ∧
      f.clear = true ∧ f.takesScalars (o.instr h2 (some 0x80000000)) = true :=
  wits (by decide +kernel)

def bitOps : List BitOp :=
  [.clz, .ctz, .popc, .sext, .zext, .neg, .not, .abs, .bfx { sx := true, pos := 0, width := 63 }, .bfx { sx := false, pos := 63, width := 0 },
    .bfi { sx := false, pos := 63, width := 0 }]

theorem test_witness_BitResults :
    ∀ o ∈ bitOps, ∃ f, Fires (o.instr h2) (rd (o.instr h2) (2 ^ 63) 63 0) f ∧
      (o.instr h2).wf = true ∧ f.clear = true ∧ f.takesScalars (o.instr h2) = true :=
  wits (by decide +kernel)

def fpOps : List FpOp := [.add, .sub, .mul, .div, .min, .max, .sqrt, .abs, .neg, .cmpeq, .cmplt, .cmple, .cmpun, .fma]

theorem test_witness_FloatingPointResults :
    ∀ p ∈ fpOps.flatMap fun o => [(o, false), (o, true)],
      ∃ f, Fires (p.1.instr p.2 h2) (rd (p.1.instr p.2 h2) 0x7F800001 0x3F800000 0) f ∧
        f.clear = true ∧ f.takesScalars (p.1.instr p.2 h2) = true :=
  wits (by decide +kernel)

/-- NaN, infinity, zero, a negative number and a finite value of both precisions (R126, R132). -/
theorem test_witness_FloatingPointValues :
    (fpVal false 0x7FC00000).isNan = true ∧ (fpVal true 0x7FF8000000000000).isNan = true ∧ (fpVal false 0xFF800000).isInf = true ∧
      (fpVal true 0x7FF0000000000000).isInf = true ∧ (fpVal false 0x80000000).isZero = true ∧ (fpVal true 0).isZero = true ∧
      (fpVal false 0xFF800000).sign ≠ (fpVal false 0x7F800000).sign ∧ (fpVal false 0x7F800000).sign = (fpVal false 0x7F800000).sign ∧
      (∃ n d, fpVal false 0xBF800000 = .fin true n d ∧ n ≠ 0) ∧ (∃ sg n d, fpVal true 0x3FF0000000000000 = .fin sg n d ∧ n ≠ 0) ∧
      (fpVal false 0xFF800000 = .inf true ∧ (fpVal true 0x7FF0000000000000).sign ≠ ((fpVal true 0x3FF0000000000000).sign != (fpVal true 0x8000000000000000).sign)) ∧
      (fpOf false).maxCode ≤ (fpOf false).maxCode := by
  refine ⟨by decide, by decide, by decide, by decide, by decide, by decide, by decide, rfl, ?_, ?_, by decide, Nat.le_refl _⟩
  · exact ⟨_, _, rfl, by decide⟩
  · exact ⟨_, _, _, rfl, by decide⟩

/-! ### Handles -/

def cvtW : ConvW := { mode := .rs, fc := 6 }

/-- What the tile instructions take as their first operand. -/
def tilePairs : List Instr := [.tadd h1, .tsub h1, .tmul h1, .tmax h1, .tmin h1, .tdiv h1, .tand h1, .tor h1, .txor h1, .tcmp h1 .un, .tsel h1]
def tileFirsts : List Instr := tilePairs ++
  [.tfma h1, .tneg h1, .tabs h1, .texp h1, .tlog h1, .trsqrt h1, .trecip h1, .ttanh h1, .tsigm h1, .tgelu h1, .trsum h1, .tcsum h1, .trmax h1, .tcmax h1,
    .tsum h1, .ttrans h1, .trel h1, .tcopy h1, .tcvt h1 cvtW, .tamax h1]

/-- A handle among scalar operands. -/
theorem test_witness_HandleFaults_scalar :
    (∀ o ∈ intOps, ∃ f, Fires (o.instr h1 none) (ready (o.instr h1 none) (sc 1) (hn 0 0 0 0) (sc 0)) f ∧
      f.dependent = false ∧ ∃ sd ∈ (o.instr h1 none).data, (f.get sd).kind = .tile) ∧
    (∀ o ∈ intOps, ∃ f, Fires (o.instr h1 (some 1)) (ready (o.instr h1 (some 1)) (hn 0 0 0 0) (sc 0) (sc 0)) f ∧
      f.dependent = false ∧ ∃ sd ∈ (o.instr h1 (some 1)).data, (f.get sd).kind = .tile) ∧
    (∀ o ∈ bitOps, ∃ f, Fires (o.instr h1) (ready (o.instr h1) (hn 0 0 0 0) (sc 1) (sc 0)) f ∧
      f.dependent = false ∧ ∃ sd ∈ (o.instr h1).data, (f.get sd).kind = .tile) ∧
    (∀ p ∈ fpOps.flatMap fun o => [(o, false), (o, true)],
      ∃ f, Fires (p.1.instr p.2 h1) (ready (p.1.instr p.2 h1) (hn 0 0 0 0) (sc 1) (sc 0)) f ∧
        f.dependent = false ∧ ∃ sd ∈ (p.1.instr p.2 h1).data, (f.get sd).kind = .tile) :=
  ⟨wits (by decide +kernel), wits (by decide +kernel), wits (by decide +kernel), wits (by decide +kernel)⟩

/-- A scalar, a stale handle, and a handle whose channel has another width, as the first operand. -/
theorem test_witness_HandleFaults_first :
    (∀ i ∈ tileFirsts, ∃ f, Fires i (rt i (sc 0) (hn 1 0 15 15) (hn 1 0 15 15)) f ∧ f.a.kind = .scalar) ∧
    (∀ i ∈ tileFirsts, ∃ f, Fires i (rt i (hn 9 0 15 15) (hn 1 0 15 15) (hn 1 0 15 15)) f ∧ f.a.kind = .tile ∧
      ((rt i (hn 9 0 15 15) (hn 1 0 15 15) (hn 1 0 15 15)).tileSlot (hPe f.a.val) (hSlot f.a.val)).count = 0) ∧
    (∀ i ∈ tileFirsts, ∃ f, Fires i (rt i (hn 0 3 15 15) (hn 1 0 15 15) (hn 1 0 15 15)) f ∧ f.a.kind = .tile ∧ hPe f.a.val = f.pe ∧
      ((rt i (hn 0 3 15 15) (hn 1 0 15 15) (hn 1 0 15 15)).tileSlot (hPe f.a.val) (hSlot f.a.val)).count = 1 ∧
      chanOf (f.x.chan (hFc f.a.val)) = some { fmt := .fp e4m3, scale := 0 } ∧
      (Fmt.fp e4m3).width ≠ ((rt i (hn 0 3 15 15) (hn 1 0 15 15) (hn 1 0 15 15)).tileSlot (hPe f.a.val) (hSlot f.a.val)).width) :=
  ⟨wits (by decide +kernel), wits (by decide +kernel), wits (by decide +kernel)⟩

/-- The second operand after a good first, unequal shapes, and a handle where a number belongs. -/
theorem test_witness_HandleFaults_second :
    (∀ i ∈ tilePairs ++ [.tfma h1], ∃ f, Fires i (rt i (hn 0 0 15 0) (sc 0) (hn 1 0 15 0)) f ∧
      f.holds (rt i (hn 0 0 15 0) (sc 0) (hn 1 0 15 0)) f.a (tin (rt i (hn 0 0 15 0) (sc 0) (hn 1 0 15 0)) (hn 0 0 15 0)) ∧ f.b.kind = .scalar) ∧
    (∀ i ∈ tilePairs, ∃ f, Fires i (rt i (hn 0 0 15 0) (hn 1 0 0 0) (sc 0)) f ∧
      f.holds (rt i (hn 0 0 15 0) (hn 1 0 0 0) (sc 0)) f.a (tin (rt i (hn 0 0 15 0) (hn 1 0 0 0) (sc 0)) (hn 0 0 15 0)) ∧
      f.holds (rt i (hn 0 0 15 0) (hn 1 0 0 0) (sc 0)) f.b (tin (rt i (hn 0 0 15 0) (hn 1 0 0 0) (sc 0)) (hn 1 0 0 0)) ∧
      (tin (rt i (hn 0 0 15 0) (hn 1 0 0 0) (sc 0)) (hn 0 0 15 0)).rows ≠ (tin (rt i (hn 0 0 15 0) (hn 1 0 0 0) (sc 0)) (hn 1 0 0 0)).rows) ∧
    (∀ i ∈ [Instr.telget h1, .telset h1, .tmask h1, .trowb h1, .tcolb h1], ∃ f, Fires i (rt i (hn 0 0 0 0) (hn 1 0 0 0) (sc 0)) f ∧ f.b.kind = .tile) := by
  refine ⟨wits ?_, wits ?_, wits ?_⟩
  · unfold Firing.holds; decide +kernel
  · unfold Firing.holds; decide +kernel
  · decide +kernel

/-- TFMA's third operand: no handle, a stale one, and one of another shape. -/
theorem test_witness_HandleFaults_third :
    (∀ t ∈ [sc 0, hn 9 0 15 0], ∃ f, Fires (.tfma h1) (rt (.tfma h1) (hn 0 0 15 0) (hn 1 0 15 0) t) f ∧
      f.holds (rt (.tfma h1) (hn 0 0 15 0) (hn 1 0 15 0) t) f.a (tin (rt (.tfma h1) (hn 0 0 15 0) (hn 1 0 15 0) t) (hn 0 0 15 0)) ∧
      f.holds (rt (.tfma h1) (hn 0 0 15 0) (hn 1 0 15 0) t) f.b (tin (rt (.tfma h1) (hn 0 0 15 0) (hn 1 0 15 0) t) (hn 1 0 15 0)) ∧ f.c = t) ∧
    (∃ f, Fires (.tfma h1) (rt (.tfma h1) (hn 0 0 15 0) (hn 1 0 15 0) (hn 1 0 0 0)) f ∧
      f.holds (rt (.tfma h1) (hn 0 0 15 0) (hn 1 0 15 0) (hn 1 0 0 0)) f.c (tin (rt (.tfma h1) (hn 0 0 15 0) (hn 1 0 15 0) (hn 1 0 0 0)) (hn 1 0 0 0)) ∧
      (tin (rt (.tfma h1) (hn 0 0 15 0) (hn 1 0 15 0) (hn 1 0 0 0)) (hn 0 0 15 0)).rows ≠
        (tin (rt (.tfma h1) (hn 0 0 15 0) (hn 1 0 15 0) (hn 1 0 0 0)) (hn 1 0 0 0)).rows) := by
  refine ⟨wits ?_, wit ?_ ?_⟩ <;> (try unfold Firing.holds) <;> decide +kernel

/-! ### Format instructions -/

def cvtKinds : List CvtKind := [.sToF32, .sToF64, .uToF32, .uToF64, .f32ToS, .f64ToS, .f32ToU, .f64ToU, .f32ToF64, .f64ToF32, .f32ToElem, .elemToF32]

theorem test_witness_FormatInstructions_cvt :
    ∀ k ∈ cvtKinds, ∃ f, Fires (.cvt h2 k cvtW) (rt (.cvt h2 k cvtW) (sc 0x7F800000) (sc 0) (sc 0)) f ∧
      f.clear = true ∧ f.takesScalars (.cvt h2 k cvtW) = true ∧ chanOf (f.x.chan cvtW.fc.toNat) = some { fmt := .int 8, scale := 0 } :=
  wits (by decide +kernel)

def fcsetA : FcsetW := { fromA := true, chan := 31, scale := 0, fmt := 0 }
def fcsetW : FcsetW := { fromA := false, chan := 0, scale := 0x80, fmt := 7 }

/-- The greatest image from an operand, the least scale from the word, and TRESCALE of channel 31 by the least and the greatest delta. -/
theorem test_witness_FormatInstructions_set :
    (∃ f, Fires (.fcget h1 { chan := 31 }) (rt (.fcget h1 { chan := 31 }) (sc 0) (sc 0) (sc 0)) f ∧ f.clear = true) ∧
    (∃ f, Fires (.fcset h1 fcsetA) (rt (.fcset h1 fcsetA) (sc 0xFF07) (sc 0) (sc 0)) f ∧ f.clear = true ∧
      f.fr.writesChan fcsetA.chan.toNat = false ∧ f.a.kind = .scalar ∧ f.a.val = BitVec.ofNat 64 0xFF07) ∧
    (∃ f, Fires (.fcset h1 fcsetW) (rt (.fcset h1 fcsetW) (sc 0) (sc 0) (sc 0)) f ∧ f.clear = true ∧
      f.fr.writesChan fcsetW.chan.toNat = false ∧ fcsetW.fromA = false ∧ fcsetW.scale.toNat * 256 + fcsetW.fmt.toNat = 0x8007) ∧
    (∀ n ∈ [2 ^ 63, 2 ^ 63 - 1, 5], ∃ f, Fires (.trescale h1) (rt (.trescale h1) (sc 31) (sc n) (sc 0)) f ∧ f.clear = true ∧
      f.a.kind = .scalar ∧ f.b.kind = .scalar ∧ f.a.val.toNat < 32 ∧ f.fr.writesChan f.a.val.toNat = false) :=
  ⟨wit (by decide +kernel) (by decide +kernel), wit (by decide +kernel) (by decide +kernel), wit (by decide +kernel) (by decide +kernel),
    wits (by decide +kernel)⟩

/-! ### Steering, branches and loops -/

theorem test_witness_SteeringResults :
    (∃ f, Fires (.const_ h1 0x80000000) (rd (.const_ h1 0x80000000) 0 0 0) f ∧ f.clear = true) ∧
    (∃ f, Fires (.constZx h1 0x80000000) (rd (.constZx h1 0x80000000) 0 0 0) f ∧ f.clear = true) ∧
    (∃ f, Fires (.consth h1 0x80000000) (rd (.consth h1 0x80000000) (2 ^ 64 - 1) 0 0) f ∧ f.clear = true) ∧
    (∃ f, Fires (.null_ h1) (rd (.null_ h1) 0 0 0) f ∧ f.clear = true) ∧
    (∀ t ∈ [sc 7, hn 0 0 15 15], ∃ f, Fires (.mov h2) (rt (.mov h2) t (sc 0) (sc 0)) f ∧ f.clear = true) ∧
    (∃ f, Fires (.gate h2) (rt (.gate h2) (hn 0 0 15 15) nullTok (sc 0)) f ∧ f.clear = true) ∧
    (∃ f, Fires (.sel h2) (rt (.sel h2) (hn 0 0 15 15) (sc 1) (sc 0)) f ∧ f.clear = true ∧ f.b.val.getLsbD 0 = true) ∧
    (∃ f, Fires (.sel h2) (rt (.sel h2) (sc 5) (sc 2) (sc 0)) f ∧ f.clear = true ∧ f.b.val.getLsbD 0 = false) :=
  ⟨wit (by decide +kernel) (by decide +kernel), wit (by decide +kernel) (by decide +kernel), wit (by decide +kernel) (by decide +kernel),
    wit (by decide +kernel) (by decide +kernel), wits (by decide +kernel), wit (by decide +kernel) (by decide +kernel),
    wit (by decide +kernel) (by decide +kernel), wit (by decide +kernel) (by decide +kernel)⟩

/-- A branch-class instruction in the first of three blocks, with a return on the stack. -/
def rb (i : Instr) (a : Nat) : State := (withBlocks [0, 0, 0] (rd i a 0 0)).modTask 0 0 fun t => { t with stack := [64] }

theorem test_witness_BranchEffects :
    (∃ f, Fires (.br h0 2) (rb (.br h0 2) 0) f ∧ f.clear = true ∧ f.fr.branch = none ∧
      (rb (.br h0 2) 0).checkBlock f.die f.fr.ctx f.fr.cfg.addr (BitVec.ofInt 64 ((f.fr.cfg.addr : Int) + 64 * (2 : BitVec 32).toInt)).toNat f.fr.cfg.ty = true) ∧
    (∃ f, Fires (.bri h0) (rb (.bri h0) 128) f ∧ f.clear = true ∧ f.fr.branch = none ∧
      (rb (.bri h0) 128).checkBlock f.die f.fr.ctx f.fr.cfg.addr f.a.val.toNat f.fr.cfg.ty = true) ∧
    (∃ f, Fires (.call h0 1) (rb (.call h0 1) 0) f ∧ f.clear = true ∧ f.fr.branch = none ∧ (rb (.call h0 1) 0).nextBlock f.fr.ctx f.fr.cfg.addr = some 64 ∧
      (rb (.call h0 1) 0).checkBlock f.die f.fr.ctx f.fr.cfg.addr 64 .code = true ∧ (f.stack (rb (.call h0 1) 0)).length ≠ 32) ∧
    (∃ f, Fires (.calli h0) (rb (.calli h0) 0) f ∧ f.clear = true ∧ f.fr.branch = none ∧ (rb (.calli h0) 0).nextBlock f.fr.ctx f.fr.cfg.addr = some 64 ∧
      (rb (.calli h0) 0).checkBlock f.die f.fr.ctx f.fr.cfg.addr f.a.val.toNat .code = true ∧
      (rb (.calli h0) 0).checkBlock f.die f.fr.ctx f.fr.cfg.addr 64 .code = true ∧ (f.stack (rb (.calli h0) 0)).length ≠ 32) ∧
    (∃ f, Fires (.ret h0) (rb (.ret h0) 0) f ∧ f.clear = true ∧ f.fr.branch = none ∧ f.stack (rb (.ret h0) 0) = [64] ∧
      (rb (.ret h0) 0).checkBlock f.die f.fr.ctx f.fr.cfg.addr 64 .code = true) ∧
    (∀ i ∈ [Instr.tend h0, .iter h0, .lbreak h0], ∃ f, Fires i (rb i 0) f ∧ f.clear = true ∧ f.fr.branch = none) :=
  ⟨wit (by decide +kernel) (by decide +kernel), wit (by decide +kernel) (by decide +kernel), wit (by decide +kernel) (by decide +kernel),
    wit (by decide +kernel) (by decide +kernel), wit (by decide +kernel) (by decide +kernel), wits (by decide +kernel)⟩

/-- A second branch of an activation, targets that are no block, an empty stack and a full one. -/
theorem test_witness_BranchFaults :
    (∀ i ∈ [Instr.tend h0, .iter h0, .lbreak h0], ∃ f, Fires i ((rb i 0).modFrame 0 fun fr => { fr with branch := some (.goto 0) }) f ∧
      f.fr.branch.isSome = true) ∧
    (∀ a ∈ [32, 192], ∃ f, Fires (.bri h0) (rb (.bri h0) a) f ∧
      (rb (.bri h0) a).checkBlock f.die f.fr.ctx f.fr.cfg.addr f.a.val.toNat f.fr.cfg.ty = false) ∧
    (∀ a ∈ [32, 192], ∃ f, Fires (.calli h0) (rb (.calli h0) a) f ∧
      (rb (.calli h0) a).checkBlock f.die f.fr.ctx f.fr.cfg.addr f.a.val.toNat .code = false) ∧
    (∃ f, Fires (.ret h0) (rd (.ret h0) 0 0 0) f ∧ f.stack (rd (.ret h0) 0 0 0) = []) ∧
    (∃ f, Fires (.calli h0) ((rb (.calli h0) 0).modTask 0 0 fun t => { t with stack := List.replicate 32 64 }) f ∧
      ((rb (.calli h0) 0).modTask 0 0 fun t => { t with stack := List.replicate 32 64 }).checkBlock f.die f.fr.ctx f.fr.cfg.addr f.a.val.toNat .code = true ∧
      ((rb (.calli h0) 0).modTask 0 0 fun t => { t with stack := List.replicate 32 64 }).nextBlock f.fr.ctx f.fr.cfg.addr = some 64 ∧
      ((rb (.calli h0) 0).modTask 0 0 fun t => { t with stack := List.replicate 32 64 }).checkBlock f.die f.fr.ctx f.fr.cfg.addr 64 .code = true ∧
      (f.stack ((rb (.calli h0) 0).modTask 0 0 fun t => { t with stack := List.replicate 32 64 })).length = 32) :=
  ⟨wits (by decide +kernel), wits (by decide +kernel), wits (by decide +kernel), wit (by decide +kernel) (by decide +kernel),
    wit (by decide +kernel) (by decide +kernel)⟩

/-- A second branch of each kind whose target is sound; direct targets that are no block, and a return to none; CALL with a full stack, and from the last block. -/
def again (i : Instr) (a : Nat) : State := (rb i a).modFrame 0 fun fr => { fr with branch := some (.goto 0) }
def fullStack (s : State) : State := s.modTask 0 0 fun t => { t with stack := List.replicate 32 64 }

theorem test_witness_BranchFaults_again :
    (∀ p ∈ [(Instr.br h0 2, 0), (.bri h0, 128), (.call h0 1, 0), (.calli h0, 0), (.ret h0, 0)], ∃ f, Fires p.1 (again p.1 p.2) f ∧ f.fr.branch.isSome = true ∧
      (again p.1 p.2).checkBlock f.die f.fr.ctx f.fr.cfg.addr 128 f.fr.cfg.ty = true ∧ (again p.1 p.2).checkBlock f.die f.fr.ctx f.fr.cfg.addr 64 .code = true ∧
      (again p.1 p.2).nextBlock f.fr.ctx f.fr.cfg.addr = some 64 ∧ f.stack (again p.1 p.2) = [64]) ∧
    (∀ p ∈ [(Instr.br h0 3, (3 : Int)), (.call h0 3, 3), (.br h0 0xFFFFFFFF, -1), (.call h0 0xFFFFFFFF, -1)], fires p.1 (rb p.1 0) = true ∧
      (shot p.1 (rb p.1 0)).fr.cfg.hasIrrevocable = false ∧
      (rb p.1 0).checkBlock (shot p.1 (rb p.1 0)).die 1 0 (BitVec.ofInt 64 (64 * p.2)).toNat .code = false) ∧
    (∃ f, Fires (.ret h0) ((rb (.ret h0) 0).modTask 0 0 fun t => { t with stack := [32, 64] }) f ∧
      f.stack ((rb (.ret h0) 0).modTask 0 0 fun t => { t with stack := [32, 64] }) = [32, 64] ∧
      ((rb (.ret h0) 0).modTask 0 0 fun t => { t with stack := [32, 64] }).checkBlock f.die f.fr.ctx f.fr.cfg.addr 32 .code = false) ∧
    (∃ f, Fires (.call h0 1) (fullStack (rb (.call h0 1) 0)) f ∧ f.fr.cfg.hasIrrevocable = false ∧ (f.stack (fullStack (rb (.call h0 1) 0))).length = 32 ∧
      (fullStack (rb (.call h0 1) 0)).checkBlock f.die f.fr.ctx f.fr.cfg.addr 64 .code = true) ∧
    (∀ i ∈ [Instr.call h0 0, .calli h0], ∃ f, Fires i (withBlocks [0, 3] (rd i 0 0 0)) f ∧ (f.stack (withBlocks [0, 3] (rd i 0 0 0))).length ≠ 32 ∧
      (withBlocks [0, 3] (rd i 0 0 0)).checkBlock f.die f.fr.ctx f.fr.cfg.addr 0 .code = true ∧
      (withBlocks [0, 3] (rd i 0 0 0)).nextBlock f.fr.ctx f.fr.cfg.addr = some 64 ∧
      (withBlocks [0, 3] (rd i 0 0 0)).checkBlock f.die f.fr.ctx f.fr.cfg.addr 64 .code = false) := by
  refine ⟨wits ?_, ?_, wit ?_ ?_, wit ?_ ?_, wits ?_⟩ <;> decide +kernel

/-- LOOP before a loop block: word, start and stop. -/
def rl (w : LoopW) (a b : Nat) : State := withBlocks [0, 3] (rd (.loop h2 w) a b 0)

/-- A step of 0, a carry register at the task's count, no iteration either way, and one iteration either way. -/
theorem test_witness_LoopsAndCarries_loop :
    (∀ p ∈ [(({ k := 63, cin := 0, step := 0 } : LoopW), 0, 1), ({ k := 0, cin := 1, step := 1 }, 0, 1), ({ k := 0, cin := 127, step := 1 }, 1, 1),
        ({ k := 0, cin := 1, step := 0x7FFFF }, 1, 1), ({ k := 0, cin := 0, step := 1 }, 0, 1), ({ k := 0, cin := 127, step := 0x7FFFF }, 1, 0)],
      ∃ f, Fires (.loop h2 p.1) (rl p.1 p.2.1 p.2.2) f ∧ f.clear = true ∧ ((rl p.1 p.2.1 p.2.2).task? f.pe f.fr.task).isSome = true ∧
        (rl p.1 p.2.1 p.2.2).nextBlock f.fr.ctx f.fr.cfg.addr = some 64 ∧ (rl p.1 p.2.1 p.2.2).typeAt f.die f.fr.ctx 64 = some .loop) ∧
    (∃ t, (rl { k := 0, cin := 1, step := 1 } 0 1).task? 0 0 = some t ∧ (1 : BitVec 7).toNat < t.nregs ∧
      ((rl { k := 0, cin := 1, step := 1 } 0 1).addRefs [t.regs.getD 1 (scalarTok 0)]).isSome = true) ∧
    (∃ f, Fires (.loop h2 { k := 0, cin := 1, step := 1 }) ((rl { k := 0, cin := 1, step := 1 } 0 1).modTask 0 0 fun t => { t with nregs := 1 }) f ∧
      ∃ t, ((rl { k := 0, cin := 1, step := 1 } 0 1).modTask 0 0 fun t => { t with nregs := 1 }).task? f.pe f.fr.task = some t ∧ t.nregs ≤ 1) :=
  ⟨wits (by decide +kernel), ⟨_, rfl, by decide +kernel, by decide +kernel⟩,
    wit (p := fun f => ∃ t, ((rl { k := 0, cin := 1, step := 1 } 0 1).modTask 0 0 fun t => { t with nregs := 1 }).task? f.pe f.fr.task = some t ∧ t.nregs ≤ 1)
      (by decide +kernel) ⟨_, rfl, by decide +kernel⟩⟩

/-- CARRY of a scalar and of a handle in an iteration whose successor has no frame. -/
theorem test_witness_LoopsAndCarries_carry :
    ∀ a ∈ [sc 9, hn 0 0 15 15], ∃ f, Fires (.carry h0) (rt (.carry h0) a (sc 0) (sc 0)) f ∧ f.clear = true ∧ f.fr.iter = some 0 ∧
      ((rt (.carry h0) a (sc 0) (sc 0)).task? f.pe f.fr.task).bind (fun t => t.loop.map fun l => (l.sent.contains 0 || (l.carryIn 0).isNone, l.step)) = some (true, 1) ∧
      (rt (.carry h0) a (sc 0) (sc 0)).iterFrame f.pe f.fr.task 1 = none :=
  wits (by decide +kernel)

/-- The next iteration's frame is Open: it is the same block's, and its CARRY names slot a. -/
def carrying (a : Tok) : State :=
  let s := rt (.carry hs) a (sc 0) (sc 0)
  match s.frame? 0 with
  | some fr => s.setFrame 1 { fr with iter := some 1, uid := 9, slots := [] }
  | none => s

/-- The sequencer of a task is at iteration 0 of a loop of step 1, with no carry kept, and holds one more carry without a reference of its own. -/
def seqAtFirst (s : State) (pe t : Nat) (a : Tok) : Bool :=
  match s.task? pe t with
  | some tk => match tk.loop with
    | some l => (l.sent.contains 0 || (l.carryIn 0).isNone) && l.step == 1 && l.first == 0 && l.carries.isEmpty && !l.sent.contains 1 &&
        ((s.setTask pe t { tk with loop := some { l with carries := l.carries ++ [(0, a)] } }).addRefs (List.replicate 0 a)).isSome
    | none => false
  | none => false

theorem test_witness_LoopsAndCarries_open :
    ∀ a ∈ [sc 9, hn 0 0 15 15], ∃ f, Fires (.carry hs) (carrying a) f ∧ f.clear = true ∧ f.fr.iter = some 0 ∧
      seqAtFirst (carrying a) f.pe f.fr.task f.a = true ∧
      ((carrying a).iterFrame f.pe f.fr.task 1).map (fun p => (p.1, p.2.cfg.carryTargets)) = some (1, some [.slot .a 0]) :=
  wits (by decide +kernel)

/-- LOOP before a block that is no loop block, and before none. -/
theorem test_witness_LoopsAndCarries_noncode :
    ∀ l ∈ [[0, 0], [0]], ∃ f, Fires (.loop h2 { k := 0, cin := 1, step := 1 }) (withBlocks l (rd (.loop h2 { k := 0, cin := 1, step := 1 }) 0 1 0)) f ∧
      (((withBlocks l (rd (.loop h2 { k := 0, cin := 1, step := 1 }) 0 1 0)).nextBlock f.fr.ctx f.fr.cfg.addr).bind fun b =>
        (withBlocks l (rd (.loop h2 { k := 0, cin := 1, step := 1 }) 0 1 0)).typeAt f.die f.fr.ctx b) ≠ some .loop ∧
      ((withBlocks l (rd (.loop h2 { k := 0, cin := 1, step := 1 }) 0 1 0)).task? f.pe f.fr.task).isSome = true :=
  wits (by decide +kernel)

end Sys2Proof.Tests
end

