-- ==== Sys2Proof/Tests/Memory.lean ====
section
/-! SUPPORT. Witnesses that the hypotheses of the statements about memory, ordering, atomics, counters and barriers can be met together. -/

set_option Elab.async false

namespace Sys2Proof.Tests

open Sys2Proof.Machine

def lx (sx : Bool) (w : Width) : LoadX := { sx := sx, width := w }
def mw (disp : BitVec 24) : MemW := { lsid := 31, stream := 7, disp := disp }
def tw (fc : BitVec 5) (rows cols : BitVec 4) : TmemW := { lsid := 0, stream := 0, fc := fc, rows := rows, cols := cols }

theorem routes_spec {f : Firing} {s : State} {w : Word} {d : Dest}
    (h : (match s.frame? (frameKey f.pe (w.toNat / 2 ^ 9 % 2 ^ 8)) with
      | some fr => fr.isOpen && !fr.failed && fr.ctx == f.fr.ctx && decide (w.toNat < 2 ^ 17) && d.pe == f.pe && d.frame == w.toNat / 2 ^ 9 % 2 ^ 8 && d.uid == fr.uid &&
          (match d.tgt with
            | .slot sd j => sideNum sd == w.toNat / 2 ^ 7 % 4 && j.toNat == w.toNat % 2 ^ 7
            | _ => false)
      | none => false) = true) : f.routes s w d := by
  cases hf : s.frame? (frameKey f.pe (w.toNat / 2 ^ 9 % 2 ^ 8)) with
  | none => rw [hf] at h; cases h
  | some fr =>
    simp only [hf, Bool.and_eq_true, Bool.not_eq_true', beq_iff_eq, decide_eq_true_eq] at h
    obtain ⟨⟨⟨⟨⟨⟨⟨h1, h0⟩, h2⟩, h3⟩, h4⟩, h5⟩, h6⟩, h7⟩ := h
    cases ht : d.tgt with
    | none => simp [ht] at h7
    | write e => simp [ht] at h7
    | slot sd j =>
      simp only [ht, Bool.and_eq_true, beq_iff_eq] at h7
      refine ⟨fr, hf, h1, h0, h2, h3, ?_, h4, h5, h6, sd, j, ht, h7.1, h7.2⟩
      rw [← h7.1]; cases sd <;> simp [sideNum]

/-- The least and greatest addresses of both halves, for an extent of n bytes (R218). -/
def edges (n : Nat) : List Nat := [0, 2 ^ 56 - n, 2 ^ 64 - 2 ^ 56, 2 ^ 64 - n]

/-- Slot b of instruction 127 of frame 0, and slot a of instruction 0. -/
def routed (w : Nat) : Dest := { pe := 0, frame := 0, uid := 1, tgt := if w = 0 then .slot .a 0 else .slot .b 127 }

theorem test_witness_LoadsIssue_ld :
    (∀ p ∈ (edges 8).map (fun a => (lx false .double, 0, a)) ++ [(lx true .byte, 0xFFFFFF, 1), (lx true .half, 2, 0)],
      ∃ f, Fires (.ld h1 p.1 (mw (BitVec.ofNat 24 p.2.1))) (rd (.ld h1 p.1 (mw (BitVec.ofNat 24 p.2.1))) p.2.2 0 0) f ∧ f.a.kind = .scalar ∧
        (rd (.ld h1 p.1 (mw (BitVec.ofNat 24 p.2.1))) p.2.2 0 0).inflight f.pe < 511 ∧
        reachable (f.a.val + (BitVec.ofNat 24 p.2.1).signExtend 64).toNat p.1.width.bytes ∧
        (f.a.val + (BitVec.ofNat 24 p.2.1).signExtend 64).toNat % p.1.width.bytes = 0) ∧
    (∀ w ∈ [0, 255], ∃ f, Fires (.ldr h1 (lx true .word) (mw 4)) (rd (.ldr h1 (lx true .word) (mw 4)) 0 w 0) f ∧ f.a.kind = .scalar ∧
      f.b.kind = .scalar ∧ f.routes (rd (.ldr h1 (lx true .word) (mw 4)) 0 w 0) f.b.val (routed w)) ∧
    (∀ a ∈ [0, 2 ^ 56 - 8, 2 ^ 64 - 8], ∃ f, Fires (.ldpair h2 (lx true .word) (mw 0)) (rd (.ldpair h2 (lx true .word) (mw 0)) a 0 0) f ∧
      f.a.kind = .scalar ∧ reachable f.a.val.toNat 4 ∧ reachable (f.a.val + 4).toNat 4 ∧ f.a.val.toNat % 4 = 0) := by
  refine ⟨wits ?_, ?_, wits ?_⟩
  · unfold reachable; decide +kernel
  · have h : ∀ w ∈ [0, 255], fires (.ldr h1 (lx true .word) (mw 4)) (rd (.ldr h1 (lx true .word) (mw 4)) 0 w 0) = true := by decide +kernel
    intro w hw
    refine wit (h w hw) ⟨?_, ?_, ?_⟩
    all_goals (simp only [List.mem_cons, List.not_mem_nil, or_false] at hw; rcases hw with rfl | rfl)
    all_goals first | exact routes_spec (by decide +kernel) | decide +kernel
  · unfold reachable; decide +kernel

theorem test_witness_LoadsIssue_tile :
    (∀ a ∈ [0, 2 ^ 56 - 1024, 2 ^ 64 - 1024], ∃ f, Fires (.tld h1 (tw 0 15 15)) (rt (.tld h1 (tw 0 15 15)) (sc a) (sc 0) (sc 0)) f ∧ f.a.kind = .scalar ∧
      chanOf (f.x.chan 0) = some { fmt := .fp fp32, scale := 0 } ∧ (rt (.tld h1 (tw 0 15 15)) (sc a) (sc 0) (sc 0)).tileRoom f.pe 2 = true ∧
      (rt (.tld h1 (tw 0 15 15)) (sc a) (sc 0) (sc 0)).olderWaits f .tiles = false ∧ reachable f.a.val.toNat 1024 ∧ f.a.val.toNat % 4 = 0) ∧
    (∃ f, Fires (.tldr h1 (tw 3 0 0)) (rt (.tldr h1 (tw 3 0 0)) (sc 7) (sc 255) (sc 0)) f ∧ f.a.kind = .scalar ∧ f.b.kind = .scalar ∧
      chanOf (f.x.chan 3) = some { fmt := .fp e4m3, scale := 0 } ∧ f.routes (rt (.tldr h1 (tw 3 0 0)) (sc 7) (sc 255) (sc 0)) f.b.val (routed 255)) ∧
    (∀ a ∈ [0, 2 ^ 56 - 72, 2 ^ 64 - 72], ∃ f, Fires (.tgath h1 (tw 1 15 0)) (rt (.tgath h1 (tw 1 15 0)) (sc a) (sc 0) (sc 0)) f ∧ f.a.kind = .scalar ∧
      chanOf (f.x.chan 1) = some { fmt := .fp bf16, scale := 0 } ∧ reachable f.a.val.toNat (8 + 4 * 16) ∧ f.a.val.toNat % 8 = 0) := by
  refine ⟨wits ?_, wit ?_ ⟨?_, ?_, ?_, routes_spec ?_⟩, wits ?_⟩ <;> (try unfold reachable) <;> decide +kernel

/-- A store, a tile store and a scatter, at the edges of the address space. -/
theorem test_witness_StoresHold :
    (∀ p ∈ (edges 8).map (fun a => (Width.double, a)) ++ [(.byte, 1), (.half, 2), (.word, 4)],
      ∃ f, Fires (.st h0 p.1 (mw 0)) (rd (.st h0 p.1 (mw 0)) p.2 (2 ^ 64 - 1) 0) f ∧ f.a.kind = .scalar ∧ f.b.kind = .scalar ∧ f.h.t0 = .none ∧ f.h.t1 = .none ∧
        f.fr.satisfied.contains 31 = false ∧ reachable (f.a.val + (0 : BitVec 24).signExtend 64).toNat p.1.bytes ∧
        (f.a.val + (0 : BitVec 24).signExtend 64).toNat % p.1.bytes = 0 ∧ f.fr.stores = []) ∧
    (∀ a ∈ [0, 2 ^ 56 - 1024, 2 ^ 64 - 1024], ∃ f, Fires (.tst h0 (tw 0 15 15)) (rt (.tst h0 (tw 0 15 15)) (sc a) (hn 0 0 15 15) (sc 0)) f ∧ f.a.kind = .scalar ∧
      chanOf (f.x.chan 0) = some { fmt := .fp fp32, scale := 0 } ∧ f.holds (rt (.tst h0 (tw 0 15 15)) (sc a) (hn 0 0 15 15) (sc 0)) f.b
        (tin (rt (.tst h0 (tw 0 15 15)) (sc a) (hn 0 0 15 15) (sc 0)) (hn 0 0 15 15)) ∧ f.h.t0 = .none ∧ f.h.t1 = .none ∧
      f.fr.satisfied.contains 0 = false ∧ reachable f.a.val.toNat 1024 ∧ f.a.val.toNat % 4 = 0 ∧ f.fr.stores = []) ∧
    (∀ a ∈ [0, 2 ^ 56 - 72, 2 ^ 64 - 72], ∃ f, Fires (.tscat h0 (tw 3 15 0)) (rt (.tscat h0 (tw 3 15 0)) (sc a) (hn 3 3 15 15) (sc 0)) f ∧ f.a.kind = .scalar ∧
      f.holds (rt (.tscat h0 (tw 3 15 0)) (sc a) (hn 3 3 15 15) (sc 0)) f.b (tin (rt (.tscat h0 (tw 3 15 0)) (sc a) (hn 3 3 15 15) (sc 0)) (hn 3 3 15 15)) ∧
      (rt (.tscat h0 (tw 3 15 0)) (sc a) (hn 3 3 15 15) (sc 0)).inflight f.pe < 512 ∧ reachable f.a.val.toNat (8 + 4 * 16) ∧ f.a.val.toNat % 8 = 0) := by
  refine ⟨wits ?_, wits ?_, wits ?_⟩ <;> unfold reachable <;> (try unfold Firing.holds) <;> decide +kernel

/-- 512 loads of PE 0 in flight. -/
def busy (s : State) : State :=
  { s with mem := { s.mem with accesses := (List.range 512).map fun n => (n + 1000,
      { src := { Src.none with ctx := 1 }, stream := 0, lsid := 0, write := false, released := false, cells := [], buf := [], pieces := [], dests := []
        extra := [], purpose := .scalar 1 false, state := .walk, refused := [], step := none, issued := 0, prior := [], fwd := [] }) } }

/-- A handle as the address; the least addresses out of range; a misaligned address; too many requests; a second store. -/
theorem test_witness_MemoryFaults :
    (∀ i ∈ [Instr.ld h1 (lx true .half) (mw 0), .ldr h1 (lx true .half) (mw 0), .st h0 .half (mw 0)], ∃ f, Fires i (rt i (hn 0 0 0 0) (sc 0) (sc 0)) f ∧
      f.a.kind = .tile) ∧
    (∀ a ∈ [2 ^ 56 - 1, 2 ^ 56, 2 ^ 64 - 2 ^ 56 - 1, 2 ^ 64 - 1], ∃ f, Fires (.ld h1 (lx true .half) (mw 0)) (rd (.ld h1 (lx true .half) (mw 0)) a 0 0) f ∧
      f.a.kind = .scalar ∧ ¬ reachable (f.a.val + (0 : BitVec 24).signExtend 64).toNat 2) ∧
    (∀ a ∈ [1, 2 ^ 56 - 3], ∃ f, Fires (.ld h1 (lx true .half) (mw 0)) (rd (.ld h1 (lx true .half) (mw 0)) a 0 0) f ∧ f.a.kind = .scalar ∧
      reachable (f.a.val + (0 : BitVec 24).signExtend 64).toNat 2 ∧ (f.a.val + (0 : BitVec 24).signExtend 64).toNat % 2 ≠ 0) ∧
    (∃ f, Fires (.ld h1 (lx true .half) (mw 0)) (busy (rd (.ld h1 (lx true .half) (mw 0)) 0 0 0)) f ∧ f.a.kind = .scalar ∧
      512 ≤ (busy (rd (.ld h1 (lx true .half) (mw 0)) 0 0 0)).inflight f.pe) ∧
    (∀ a ∈ [2 ^ 56 - 1, 2 ^ 56, 2 ^ 64 - 2 ^ 56 - 1, 2 ^ 64 - 1], ∃ f, Fires (.st h0 .half (mw 0)) (rd (.st h0 .half (mw 0)) a 0 0) f ∧ f.a.kind = .scalar ∧
      f.b.kind = .scalar ∧ ¬ reachable (f.a.val + (0 : BitVec 24).signExtend 64).toNat 2) ∧
    (∀ a ∈ [1, 2 ^ 56 - 3], ∃ f, Fires (.st h0 .half (mw 0)) (rd (.st h0 .half (mw 0)) a 0 0) f ∧ f.a.kind = .scalar ∧ f.b.kind = .scalar ∧
      reachable (f.a.val + (0 : BitVec 24).signExtend 64).toNat 2 ∧ (f.a.val + (0 : BitVec 24).signExtend 64).toNat % 2 ≠ 0) ∧
    (∃ f, Fires (.st h0 .half (mw 0)) ((rd (.st h0 .half (mw 0)) 0 0 0).modFrame 0 fun fr => { fr with satisfied := [31] }) f ∧ f.a.kind = .scalar ∧
      f.b.kind = .scalar ∧ f.fr.satisfied.contains 31 = true) := by
  refine ⟨wits ?_, wits ?_, wits ?_, wit ?_ ?_, wits ?_, wits ?_, wit ?_ ?_⟩ <;> (try unfold reachable) <;> decide +kernel

/-- LDPAIR: a handle, both halves at the ends of the address space, a misaligned address, and too many requests. -/
theorem test_witness_MemoryFaults_pair :
    (∃ f, Fires (.ldpair h2 (lx false .word) (mw 0)) (rt (.ldpair h2 (lx false .word) (mw 0)) (hn 0 0 0 0) (sc 0) (sc 0)) f ∧ f.a.kind = .tile) ∧
    (∀ p ∈ [(2 ^ 56, 0), (2 ^ 64 - 2, 0), (2, 1), (2 ^ 56 - 4, 2)], ∃ f, Fires (.ldpair h2 (lx false .word) (mw 0)) (rd (.ldpair h2 (lx false .word) (mw 0)) p.1 0 0) f ∧
      f.a.kind = .scalar ∧
      (if p.2 = 0 then ¬ reachable (f.a.val + (0 : BitVec 24).signExtend 64).toNat 4
        else if p.2 = 1 then reachable (f.a.val + (0 : BitVec 24).signExtend 64).toNat 4 ∧ (f.a.val + (0 : BitVec 24).signExtend 64).toNat % 4 ≠ 0
        else reachable (f.a.val + (0 : BitVec 24).signExtend 64).toNat 4 ∧ (f.a.val + (0 : BitVec 24).signExtend 64).toNat % 4 = 0 ∧
          ¬ reachable (f.a.val + (0 : BitVec 24).signExtend 64 + BitVec.ofNat 64 4).toNat 4)) ∧
    (∃ f, Fires (.ldpair h2 (lx false .word) (mw 0)) (busy (rd (.ldpair h2 (lx false .word) (mw 0)) 0 0 0)) f ∧ f.a.kind = .scalar ∧
      reachable (f.a.val + (0 : BitVec 24).signExtend 64 + BitVec.ofNat 64 4).toNat 4 ∧
      512 ≤ (busy (rd (.ldpair h2 (lx false .word) (mw 0)) 0 0 0)).inflight f.pe) ∧
    (∃ f, Fires (.ldr h1 (lx false .word) (mw 0)) (rt (.ldr h1 (lx false .word) (mw 0)) (sc 0) (hn 0 0 0 0) (sc 0)) f ∧ f.a.kind = .scalar ∧ f.b.kind = .tile) ∧
    (∃ f, Fires (.st h0 .word (mw 0)) (rt (.st h0 .word (mw 0)) (sc 0) (hn 0 0 0 0) (sc 0)) f ∧ f.a.kind = .scalar ∧ f.b.kind = .tile ∧ f.dependent = false) := by
  refine ⟨wit ?_ ?_, wits ?_, wit ?_ ?_, wit ?_ ?_, wit ?_ ?_⟩ <;> (try unfold reachable) <;> decide +kernel

/-- A second frame of PE 0, of context c, open or not, and discarded by a fault or not. -/
def second (c : Nat) (isOpen failed : Bool) (s : State) : State :=
  match s.frame? 0 with
  | some fr => s.setFrame 1 { fr with ctx := c, isOpen := isOpen, failed := failed }
  | none => s

/-- Routing words: no frame; a frame of another context; a bit above 16, a side of 3, a frame that is not Open, and one that a fault discards. -/
theorem test_witness_MemoryFaults_route :
    ∀ x ∈ [(512 * 5, 1, true, false, 0), (512, 2, true, false, 1), (2 ^ 17 + 512, 1, true, false, 2), (512 + 384, 1, true, false, 2), (512, 1, false, false, 2),
        (512, 1, true, true, 2)], ∃ f, Fires (.ldr h1 (lx true .word) (mw 4)) (second x.2.1 x.2.2.1 x.2.2.2.1 (rd (.ldr h1 (lx true .word) (mw 4)) 0 x.1 0)) f ∧
      f.a.kind = .scalar ∧ f.b.kind = .scalar ∧ reachable (f.a.val + (4 : BitVec 24).signExtend 64).toNat 4 ∧
      (match (second x.2.1 x.2.2.1 x.2.2.2.1 (rd (.ldr h1 (lx true .word) (mw 4)) 0 x.1 0)).frame? (frameKey f.pe (f.b.val.toNat / 2 ^ 9 % 2 ^ 8)) with
        | none => decide (x.2.2.2.2 = 0)
        | some fr => decide ((x.2.2.2.2 = 1 ∧ fr.ctx ≠ f.fr.ctx) ∨ (x.2.2.2.2 = 2 ∧ fr.ctx = f.fr.ctx ∧
            (2 ^ 17 ≤ f.b.val.toNat ∨ f.b.val.toNat / 2 ^ 7 % 4 = 3 ∨ fr.isOpen = false ∨ fr.failed = true)))) = true := by
  refine wits ?_
  unfold reachable
  decide +kernel

/-- The tile instructions: a handle as the address or the routing word, a scalar as the value; addresses out of range and misaligned. -/
theorem test_witness_MemoryFaults_tile :
    (∀ i ∈ [Instr.tld h1 (tw 0 15 15), .tldr h1 (tw 0 15 15), .tst h0 (tw 0 15 15), .tgath h1 (tw 0 15 15), .tscat h0 (tw 0 15 15)],
      ∃ f, Fires i (rt i (hn 0 0 15 15) (hn 0 0 15 15) (sc 0)) f ∧ f.a.kind = .tile) ∧
    (∃ f, Fires (.tldr h1 (tw 0 15 15)) (rt (.tldr h1 (tw 0 15 15)) (sc 0) (hn 0 0 15 15) (sc 0)) f ∧ f.a.kind = .scalar ∧ f.b.kind = .tile) ∧
    (∀ i ∈ [Instr.tst h0 (tw 0 15 15), .tscat h0 (tw 0 15 15)], ∃ f, Fires i (rt i (sc 0) (sc 0) (sc 0)) f ∧ f.a.kind = .scalar ∧ f.b.kind = .scalar) ∧
    (∀ p ∈ [2, 2 ^ 56 - 1020, 2 ^ 64 - 1020].flatMap fun a => [(Instr.tld h1 (tw 0 15 15), a), (.tldr h1 (tw 0 15 15), a)],
      ∃ f, Fires p.1 (rt p.1 (sc p.2) (sc 0) (sc 0)) f ∧ f.a.kind = .scalar ∧
      chanOf (f.x.chan 0) = some { fmt := .fp fp32, scale := 0 } ∧ (f.a.val.toNat % 4 ≠ 0 ∨ f.a.val.toNat % 4 = 0 ∧ ¬ reachable f.a.val.toNat 1024)) ∧
    (∀ a ∈ [2, 2 ^ 56 - 1022], ∃ f, Fires (.tst h0 (tw 0 15 15)) (rt (.tst h0 (tw 0 15 15)) (sc a) (hn 0 0 15 15) (sc 0)) f ∧ f.a.kind = .scalar ∧ f.b.kind = .tile ∧
      (¬ reachable f.a.val.toNat 1024 ∨ reachable f.a.val.toNat 1024 ∧ f.a.val.toNat % 4 ≠ 0)) ∧
    (∀ p ∈ [4, 2 ^ 56 - 68].flatMap fun a => [(Instr.tgath h1 (tw 0 15 15), a), (.tscat h0 (tw 0 15 15), a)],
      ∃ f, Fires p.1 (rt p.1 (sc p.2) (hn 0 0 15 15) (sc 0)) f ∧ f.a.kind = .scalar ∧
      (p.1.isStore = true → f.b.kind = .tile) ∧ (¬ reachable f.a.val.toNat 72 ∨ reachable f.a.val.toNat 72 ∧ f.a.val.toNat % 8 ≠ 0)) := by
  refine ⟨wits ?_, wit ?_ ?_, wits ?_, wits ?_, wits ?_, wits ?_⟩ <;> (try unfold reachable) <;> decide +kernel

/-- Every granule of PE 0's tile store is taken. -/
def noRoom (s : State) : State := { s with pe := { s.pe with tiles := [(7, { tile 2 1 [] with granules := 8192 })] } }

/-- A TLD that finds no room, TGATH at the request limit, TST of a tile that has gone, of another width, and a second time. -/
theorem test_witness_MemoryFaults_value :
    (∃ f, Fires (.tld h1 (tw 0 15 15)) (noRoom (rt (.tld h1 (tw 0 15 15)) (sc 0) (sc 0) (sc 0))) f ∧
      (noRoom (rt (.tld h1 (tw 0 15 15)) (sc 0) (sc 0) (sc 0))).tileRoom f.pe 2 = false) ∧
    (∃ f, Fires (.tgath h1 (tw 0 15 15)) (busy (rt (.tgath h1 (tw 0 15 15)) (sc 0) (sc 0) (sc 0))) f ∧
      (busy (rt (.tgath h1 (tw 0 15 15)) (sc 0) (sc 0) (sc 0))).tileRoom f.pe 2 = true ∧
      (busy (rt (.tgath h1 (tw 0 15 15)) (sc 0) (sc 0) (sc 0))).olderWaits f .tiles = false ∧
      512 ≤ (busy (rt (.tgath h1 (tw 0 15 15)) (sc 0) (sc 0) (sc 0))).inflight f.pe) ∧
    (∃ f, Fires (.tst h0 (tw 0 15 15)) (rt (.tst h0 (tw 0 15 15)) (sc 0) (hn 9 0 15 15) (sc 0)) f ∧
      ((rt (.tst h0 (tw 0 15 15)) (sc 0) (hn 9 0 15 15) (sc 0)).tileSlot (hPe f.b.val) (hSlot f.b.val)).count = 0) ∧
    (∃ f, Fires (.tst h0 (tw 0 15 15)) (rt (.tst h0 (tw 0 15 15)) (sc 0) (hn 3 3 15 15) (sc 0)) f ∧
      f.holds (rt (.tst h0 (tw 0 15 15)) (sc 0) (hn 3 3 15 15) (sc 0)) f.b (tin (rt (.tst h0 (tw 0 15 15)) (sc 0) (hn 3 3 15 15) (sc 0)) (hn 3 3 15 15)) ∧
      (2 : Nat) ≠ (tin (rt (.tst h0 (tw 0 15 15)) (sc 0) (hn 3 3 15 15) (sc 0)) (hn 3 3 15 15)).slot.width) ∧
    (∃ f, Fires (.tst h0 (tw 0 15 15)) ((rt (.tst h0 (tw 0 15 15)) (sc 0) (hn 0 0 15 15) (sc 0)).modFrame 0 fun fr => { fr with satisfied := [0] }) f ∧
      f.holds ((rt (.tst h0 (tw 0 15 15)) (sc 0) (hn 0 0 15 15) (sc 0)).modFrame 0 fun fr => { fr with satisfied := [0] }) f.b
        (tin (rt (.tst h0 (tw 0 15 15)) (sc 0) (hn 0 0 15 15) (sc 0)) (hn 0 0 15 15)) ∧ f.fr.satisfied.contains 0 = true) := by
  refine ⟨wit ?_ ?_, wit ?_ ?_, wit ?_ ?_, wit ?_ ?_, wit ?_ ?_⟩ <;> (try unfold Firing.holds) <;> decide +kernel

def tls4 : List Timeline := [.tlc, .tlm, .tla, .tls]

theorem test_witness_OrderingInstructions :
    (∀ c ∈ [Scope.pe, .quad, .die, .pkg, .dom], ∃ f, Fires (.fence h0 c) (rd (.fence h0 c) 0 0 0) f ∧ f.a = zeroTok) ∧
    (∀ w ∈ [({ streams := 0xFF, order := 3 } : FenceW), { streams := 1, order := 1 }, { streams := 0x80, order := 2 }],
      ∃ f, Fires (.fenceWord h0 .dom w) (rd (.fenceWord h0 .dom w) 0 0 0) f ∧ f.a = zeroTok) ∧
    (∃ f, Fires (.sbar h0 { src := 0x80, dst := 0xFF }) (rd (.sbar h0 { src := 0x80, dst := 0xFF }) 0 0 0) f ∧ f.a = zeroTok) ∧
    (∀ t ∈ tls4, ∃ f, Fires (.tlread h2 t) (rd (.tlread h2 t) 0 0 0) f ∧ f.clear = true) ∧
    (∀ t ∈ tls4, ∃ f, Fires (.tlwait h2 t) (rd (.tlwait h2 t) 0 0 0) f ∧ f.a.kind = .scalar ∧
      f.a.val.toNat ≤ (((rd (.tlwait h2 t) 0 0 0).pctx f.fr.ctx f.pe).timeline t).done) ∧
    (∀ t ∈ tls4, ∃ f, Fires (.tlwait h2 t) (rd (.tlwait h2 t) 1 0 0) f ∧ f.a.kind = .scalar ∧
      (((rd (.tlwait h2 t) 1 0 0).pctx f.fr.ctx f.pe).timeline t).done < f.a.val.toNat) :=
  ⟨wits (by decide +kernel), wits (by decide +kernel), wit (by decide +kernel) (by decide +kernel), wits (by decide +kernel), wits (by decide +kernel),
    wits (by decide +kernel)⟩

/-- An access of context 1 with two pieces: one of two bytes of granule 0, one of a byte of granule 1. -/
def acc0 (write : Bool) (p : AccFor) : Access :=
  { src := src1, stream := 0, lsid := 0, write := write, released := true, cells := [(62, 0), (63, 1), (64, 2)], buf := [1, 2, 3]
    pieces := [{ cells := [(62, 0), (63, 1)], done := false }, { cells := [(64, 2)], done := false }], dests := [], extra := [], purpose := p
    state := .active, refused := [], step := none, issued := 0, prior := [], fwd := [] }
def withAccess (a : Access) (s : State) : State := { s with mem := { s.mem with accesses := [(7, a)] } }
def p0 : Piece := { cells := [(62, 0), (63, 1)], done := false }

theorem test_witness_AccessAtHome :
    ∀ x ∈ [(acc0 true (.store none), withAccess (acc0 true (.store none)) base), (acc0 false (.scalar 4 false), withAccess (acc0 false (.scalar 4 false)) base)],
      x.2.mem.accesses.get? 7 = some x.1 ∧ x.1.pieces[0]? = some p0 ∧ x.2.pieceReady 7 x.1 p0 = true ∧ Tab.sorted x.2.mem.accesses = true ∧ x.2.refuses x.1 p0 = false ∧ x.1.purpose.traces = false ∧ p0.cells.head? = some (62, 0) ∧
        (∀ c ∈ p0.cells, c.1 / 64 = 62 / 64) ∧ p0.home ≠ .io ∧ x.2.lineOf 62 = none ∧ Memory.wf x.2.mem.bytes = true ∧
        (∃ r ∈ x.1.pieces.eraseIdx 0, r.done = false) ∧ (∀ c ∈ p0.cells, c.2 < x.1.buf.length) ∧ (p0.cells.map Prod.fst).Nodup ∧
        (p0.cells.map Prod.snd).Nodup ∧ x.2.poisoned 62 = false := by decide +kernel

/-- The last piece of a load and of a store, at a line that an engine holds as memory is. -/
def lastPiece (a : Access) : Access := { a with cells := [(62, 0), (63, 1)], buf := [1, 2], pieces := [p0] }
def lineZero : Line := { pa := 0, bytes := List.replicate 64 0, dirty := false, poisoned := false, used := 0 }
def atLine (a : Access) : State :=
  { withAccess (lastPiece a) base with sync := { base.sync with engines := [(0, { lines := [lineZero], fills := [], last := [] })] } }

theorem test_witness_AccessAtHome_last :
    ∀ a ∈ [acc0 true (.store none), acc0 false (.scalar 2 true)],
      (atLine a).mem.accesses.get? 7 = some (lastPiece a) ∧ (lastPiece a).pieces[0]? = some p0 ∧ (atLine a).pieceReady 7 (lastPiece a) p0 = true ∧
        (atLine a).refuses (lastPiece a) p0 = false ∧ ((lastPiece a).pieces.eraseIdx 0) = [] ∧
        (∀ i, i < 64 → (List.replicate 64 (0 : Byte))[i]? = some (Memory.read (atLine a).mem.bytes i)) ∧
        ((atLine a).lineOf 62).map (fun p => (p.1, p.2.pa, p.2.bytes.length, p.2.dirty, p.2.poisoned)) = some (0, 0, 64, false, false) ∧
        (∀ c ∈ p0.cells, c.2 < (lastPiece a).buf.length) ∧ (atLine a).mem.poison = [] := by decide +kernel

/-- The same read of a poisoned granule. -/
def poisonedRead : State := { withAccess (acc0 false (.scalar 4 false)) base with mem := { (withAccess (acc0 false (.scalar 4 false)) base).mem with poison := [0] } }

theorem test_witness_AccessAtHome_poison :
    poisonedRead.mem.accesses.get? 7 = some (acc0 false (.scalar 4 false)) ∧ poisonedRead.pieceReady 7 (acc0 false (.scalar 4 false)) p0 = true ∧
      poisonedRead.lineOf 62 = none ∧ poisonedRead.poisoned 62 = true ∧ (poisonedRead.ctx? 1).map (fun x => x.state) = some .running := by decide +kernel

/-- A load and the address of a held store that wait for their translation, in a frame with a held store of a byte. -/
def walked (p : AccFor) (st : AccState) : Access :=
  { acc0 p.isCheck p with cells := [(0, 0), (1, 1)], buf := [0, 0], pieces := [], state := st, lsid := 1 }
def held0 : StoreRec :=
  { idx := 0, lsid := 0, stream := 0, cells := [(0, 0)], data := some [9], phys := [], translated := false, dropped := false, refused := [], holder := none }
def walking (a : Access) : State :=
  (withAccess a (paged (rd (.st h0 .byte { lsid := 0, stream := 0, disp := 0 }) 0 0 0))).modFrame 0 fun fr => { fr with stores := [held0] }
/-- The same load of an activation that has gone, with the stores it took along. -/
def orphan : Access := { walked (.scalar 2 false) .lsid with src := { src1 with uid := 77 }, fwd := [held0] }

theorem test_witness_WalkAndForwarding :
    (∀ a ∈ [walked (.check true) .walk, walked (.check false) .walk, walked (.scalar 2 false) .lsid, orphan],
      (walking a).mem.accesses.get? 7 = some a ∧ Tab.sorted (walking a).mem.accesses = true ∧ (walking a).copyHeld a = false ∧ a.purpose.isCtx = false ∧
        a.extra = [] ∧ (walking a).xlCells 1 0 a.need a.cells = .ok [(0, 0), (1, 1)] []) ∧
    (∃ fr, (walking (walked (.scalar 2 false) .lsid)).frameOf 0 0 1 = some fr ∧ fr.isOpen = true ∧
      (walking (walked (.scalar 2 false) .lsid)).storesKnown fr 1 = true ∧ fr.stores = [held0]) ∧
    (walking orphan).frameOf 0 0 77 = none ∧ forwardAll [held0] 1 [0, 0] [(0, 0), (1, 1)] = some ([9, 0], [(1, 1)]) ∧
      forward [held0] 1 0 = .byte 9 ∧ forward [held0] 1 1 = .memory := by
  refine ⟨by decide +kernel, ⟨_, rfl, ?_⟩, ?_⟩ <;> decide +kernel

def aw (order : BitVec 2) (dbl : Bool) : AtomW := { disp := 0xFFF8, order := order, dbl := dbl, scope := .dom, stream := 7 }
def atomOps : List AtomOp := [.add, .and, .or, .xor, .min, .max, .minu, .maxu, .swap, .cas]

theorem test_witness_AtomicsFire :
    (∀ o ∈ atomOps, ∃ f, Fires (.atom h1 o (aw 3 true)) (paged (rd (.atom h1 o (aw 3 true)) 16 5 0)) f ∧ f.a.kind ≠ .tile ∧ f.b.kind ≠ .tile ∧ f.c.kind ≠ .tile ∧
      (paged (rd (.atom h1 o (aw 3 true)) 16 5 0)).inflight f.pe < 512 ∧ reachable (f.a.val + (0xFFF8 : BitVec 16).signExtend 64).toNat 8 ∧
      (f.a.val + (0xFFF8 : BitVec 16).signExtend 64).toNat % 8 = 0 ∧
      (paged (rd (.atom h1 o (aw 3 true)) 16 5 0)).check1 f.fr.ctx [f.pe, 2048 + f.pe / 256] .atomic 8 = .ok 8 0 false ∧ homeQuad 8 = some 0) ∧
    (∀ o ∈ atomOps, ∃ f, Fires (.atomn h1 o (aw 0 false)) (paged (rd (.atomn h1 o (aw 0 false)) 12 5 0)) f ∧ f.clear = true ∧
      reachable (f.a.val + (0xFFF8 : BitVec 16).signExtend 64).toNat 4 ∧ (f.a.val + (0xFFF8 : BitVec 16).signExtend 64).toNat % 4 = 0 ∧
      (paged (rd (.atomn h1 o (aw 0 false)) 12 5 0)).check1 f.fr.ctx [f.pe, 2048 + f.pe / 256] .atomic 4 = .ok 4 0 false ∧ homeQuad 4 = some 0) := by
  refine ⟨wits ?_, wits ?_⟩ <;> unfold reachable <;> decide +kernel

theorem test_witness_AtomicResults :
    (255 < 2 ^ (8 * 4)) ∧ signedOf 32 (2 ^ 32 - 1) < signedOf 32 0 ∧ (2 ^ 64 - 1 < 2 ^ (8 * 8)) ∧ signedOf 64 (2 ^ 63) < signedOf 64 (2 ^ 63 - 1) ∧
      (5 = (5 + 2 ^ 32) % 2 ^ (8 * 4)) := by decide

/-- An add of 1 to a word at address 4 at quad 0's engine, with its line held and with none, and a fill of line 0. -/
def req0 : AtomReq :=
  { src := src1, bank := 0, arrival := 0, near := true, va := 4, pa := 4, size := 4, op := .add, b := 1, c := 0, release := false, stream := 0
    dests := [routed 0], tla := 1, accepted := none, purpose := .instr true, refused := false }
def line0 : Line := { pa := 0, bytes := List.replicate 64 0, dirty := false, poisoned := false, used := 0 }
def engined (l : List Line) (fills : List Nat) (reqs : Tab AtomReq) : State :=
  { base with sync := { base.sync with engines := [(0, { lines := l, fills := fills, last := [] })], reqs := reqs } }

/-- Requests of the local PEs 0 and 1 and of a remote agent, that arrived at the cycles given. -/
def reqsAt (t0 t1 t2 : Nat) : Tab AtomReq :=
  [(7, { req0 with arrival := t0 }), (8, { req0 with arrival := t1, src := { src1 with pe := 1, task := 1 } }),
    (9, { req0 with arrival := t2, near := false, src := { src1 with pe := 900, task := 2 } })]
def atCycle (c : Nat) (s : State) : State := { s with sched := { s.sched with cycle := c } }
/-- Two requests wait for a line that came; one waits for it. -/
def onlyReq : AtomReq := { req0 with accepted := some 3 }

theorem mayTake_spec {s : State} {n : Nat} {r : AtomReq}
    (h : (s.sync.reqs.contains (n, r) && r.engine == 0 && r.bank == 0 && s.reqReady n r) = true) : s.mayTake 0 0 n r := by
  simp only [Bool.and_eq_true, List.contains_iff_mem, beq_iff_eq] at h
  exact ⟨h.1.1.1, h.1.1.2, h.1.2, h.2⟩

/-- All three requests may be taken: with each waited 8 cycles, with none of them, and a remote one alone. -/
theorem test_witness_AtomicEngine_pick :
    (∀ p ∈ reqsAt 5 0 0, (atCycle 13 (engined [line0] [] (reqsAt 5 0 0))).mayTake 0 0 p.1 p.2) ∧
      (∀ p ∈ reqsAt 5 0 0, (atCycle 7 (engined [line0] [] (reqsAt 5 0 0))).mayTake 0 0 p.1 p.2) ∧
      (∀ p ∈ (reqsAt 5 0 0).drop 2, (atCycle 7 (engined [line0] [] ((reqsAt 5 0 0).drop 2))).mayTake 0 0 p.1 p.2) :=
  ⟨fun p h => mayTake_spec (by revert p; decide +kernel), fun p h => mayTake_spec (by revert p; decide +kernel),
    fun p h => mayTake_spec (by revert p; decide +kernel)⟩

/-- The bank takes the local one of the two that arrived first; before 8 cycles, the local one next in rotation; else the remote one (R269). -/
theorem test_engine_picks :
    ((atCycle 13 (engined [line0] [] (reqsAt 5 0 0))).bankPick 0 0).map Prod.fst = some 8 ∧
      ((atCycle 7 (engined [line0] [] (reqsAt 5 0 0))).bankPick 0 0).map Prod.fst = some 7 ∧
      ((atCycle 7 (engined [line0] [] ((reqsAt 5 0 0).drop 2))).bankPick 0 0).map Prod.fst = some 9 := by decide +kernel

theorem test_witness_AtomicEngine :
    ((engined [line0] [] [(7, req0)]).bankPick 0 0 = some (7, req0) ∧ req0.refused = false ∧ ((engined [line0] [] [(7, req0)]).engine 0).lines = [line0] ∧
      line0.pa = req0.line ∧ line0.poisoned = false ∧ line0.bytes.length = 64 ∧ req0.pa % 64 + req0.size ≤ 64 ∧
      Tab.sorted (engined [line0] [] [(7, req0)]).sync.reqs = true) ∧
    ((engined [] [] [(7, req0)]).bankPick 0 0 = some (7, req0) ∧ (((engined [] [] [(7, req0)]).engine 0).lines.any fun l => l.pa == req0.line) = false ∧
      ((engined [] [] [(7, req0)]).engine 0).fills.contains req0.line = false) ∧
    (((engined [] [0] []).engine 0).fills.contains 0 = true ∧ ((engined [] [0] []).engine 0).lines = [] ∧
      ((engined [] [0] []).sync.reqs.any fun p => p.2.accepted.isSome) = false) ∧
    (((engined [] [0] [(7, onlyReq)]).engine 0).fills.contains 0 = true ∧
      ((engined [] [0] [(7, onlyReq)]).sync.reqs.filter fun p => p.2.accepted.isSome && p.2.engine == 0 && p.2.line == 0) = [(7, onlyReq)]) := by decide +kernel

/-- A descriptor at address 0 for 64 counted bytes at 2 GiB, and counters of the first stack. -/
def descState (i : Instr) (b : Nat) : State := poke 0 (le 8 (2 ^ 31) ++ le 8 64) (paged (rd i 0 b 0))
def counter0 : Counter :=
  { ctx := 1, bound := true, desc := 0, descPa := 0, segs := [(2 ^ 31, 64)], armed := false, isDone := false, error := false, cyclic := false, cycle := 0
    count := 0, firing := 0 }
def withCounters (t : Tab Counter) (s : State) : State := { s with sync := { s.sync with counters := t } }
/-- Every counter of PE 0. -/
def allTaken : Tab Counter := (List.range 64).map fun n => (2 ^ 23 + n, counter0)

/-- Tables with no counter, with one whose range clashes, and with every counter of PE 0. -/
def tables : List (Tab Counter) := [[], [(5, counter0)], allTaken]
def binding (t : Tab Counter) : State := withCounters t (descState (.acbind h2) (2 ^ 23))

theorem test_witness_CounterInstructions_acbind :
    ∀ t ∈ tables, ∃ f, Fires (.acbind h2) (binding t) f ∧ f.a.kind ≠ .tile ∧ f.b.kind ≠ .tile ∧ reachable f.a.val.toNat 64 ∧ f.a.val.toNat % 64 = 0 ∧
      (binding t).checkRange f.fr.ctx f.pe .normalRead f.a.val.toNat 64 = .ok [(0, 64)] ∧ (binding t).runsPoisoned [(0, 64)] = none ∧
      idBad f.b.val.toNat = false ∧ f.b.val.toNat % 2 ^ 10 = 0 ∧ descGood ((binding t).readRuns [(0, 64)]) = true ∧
      (descOf ((binding t).readRuns [(0, 64)])).base = 2 ^ 31 ∧ (descOf ((binding t).readRuns [(0, 64)])).len = 64 ∧ reachable (2 ^ 31) 64 ∧
      (binding t).checkRange f.fr.ctx f.pe .counted (2 ^ 31) 64 = .ok [(2 ^ 31, 64)] := by
  refine wits (l := tables) ?_
  unfold reachable
  decide +kernel

theorem test_witness_CounterInstructions_acbind_cases :
    (binding []).freeCounterAt (2 ^ 23) = some (2 ^ 23) ∧ (binding [(5, counter0)]).freeCounterAt (2 ^ 23) = some (2 ^ 23) ∧
      (binding allTaken).freeCounterAt (2 ^ 23) = none ∧ (binding []).segsFull [(2 ^ 31, 64)] = false ∧
      (binding [(5, { counter0 with segs := List.replicate 2048 (2 ^ 31 + 4096, 64) })]).segsFull [(2 ^ 31, 64)] = true := by decide +kernel

theorem test_witness_CounterInstructions_use :
    (∀ x ∈ [(counter0, 1), ({ counter0 with armed := true }, 2 ^ 47), ({ counter0 with isDone := true }, 1)], ∃ f,
      Fires (.acexpect h2) (withCounters [(0, x.1)] (rd (.acexpect h2) (3 * 2 ^ 32) x.2 0)) f ∧ f.a.kind ≠ .tile ∧ f.b.kind ≠ .tile ∧
      idBad (f.a.val.toNat % 2 ^ 24) = false ∧ f.a.val.toNat / 2 ^ 24 % 2 ^ 8 = 0 ∧ 1 ≤ f.b.val.toNat ∧ f.b.val.toNat ≤ 2 ^ 47 ∧
      (withCounters [(0, x.1)] (rd (.acexpect h2) (3 * 2 ^ 32) x.2 0)).counter? (f.a.val.toNat % 2 ^ 24) = some x.1 ∧ x.1.ctx = f.fr.ctx ∧ x.1.bound = true ∧
      (withCounters [(0, x.1)] (rd (.acexpect h2) (3 * 2 ^ 32) x.2 0)).before f.src 0xFF = false) ∧
    (∃ f, Fires (.acread h2) (rd (.acread h2) 0 0 0) f ∧ f.a.kind ≠ .tile) ∧
    (∃ f, Fires (.acfree h0) (rd (.acfree h0) 0 0 0) f ∧ f.a.kind ≠ .tile) :=
  ⟨wits (by decide +kernel), wit (by decide +kernel) (by decide +kernel), wit (by decide +kernel) (by decide +kernel)⟩

/-- A release that waits: an earlier activation's store is still to be performed. -/
def waiting1 (s : State) : State := withAccess { acc0 true (.store none) with src := { src1 with uid := 77, seq := 0 } } (s.modFrame 0 fun fr => { fr with seq := 9 })

theorem test_witness_CounterInstructions_wait :
    ∃ f, Fires (.acexpect h2) (waiting1 (withCounters [(0, counter0)] (rd (.acexpect h2) 0 1 0))) f ∧
      (waiting1 (withCounters [(0, counter0)] (rd (.acexpect h2) 0 1 0))).before f.src 0xFF = true ∧
      (waiting1 (withCounters [(0, counter0)] (rd (.acexpect h2) 0 1 0))).counter? 0 = some counter0 :=
  wit (by decide +kernel) (by decide +kernel)

theorem test_witness_CounterCounts :
    ((mail (.count 0 3) (.stack 0) 4 (withCounters [(0, counter0)] base)).msg? 7 = some (envOf (.count 0 3) (.stack 0) 4) ∧
      (mail (.count 0 3) (.stack 0) 4 (withCounters [(0, counter0)] base)).first 7 (envOf (.count 0 3) (.stack 0) 4) = true ∧
      (mail (.count 0 3) (.stack 0) 4 (withCounters [(0, counter0)] base)).counter? 0 = some counter0 ∧
      (mail (.count 0 3) (.stack 0) 4 base).counter? 0 = none) ∧
    ({ counter0 with armed := true, count := -1 }.isDone = false ∧ 0 ≤ ({ counter0 with armed := true, count := -1 } : Counter).count + 1) ∧
    ((withCounters [(0, { counter0 with firing := 1 })] base).counter? 0 = some { counter0 with firing := 1 } ∧
      ((withCounters [(0, { counter0 with firing := 1 })] base).ctx? 1).map (fun x => x.state) = some .running) := by decide +kernel

/-- An ACREAD at its counter: bound to its context, bound to another, and named by a malformed id. -/
def reading (cid : Nat) (t : Tab Counter) : State := mail (.acread cid [routed 0] src1) (counterHome cid) 7 (withCounters t base)

theorem test_witness_CounterCounts_read :
    (∀ x ∈ [(0, [(0, counter0)]), (0, [(0, { counter0 with ctx := 2 })]), (0, []), (2 ^ 25, [])],
      (reading x.1 x.2).msg? 7 = some (envOf (.acread x.1 [routed 0] src1) (counterHome x.1) 7) ∧
        (reading x.1 x.2).first 7 (envOf (.acread x.1 [routed 0] src1) (counterHome x.1) 7) = true) ∧
    idBad 0 = false ∧ idBad (2 ^ 25) = true ∧ counter0.ctx = src1.ctx := by decide +kernel

/-- The descriptor of a counter that acts at its event: action, target, quad, token and value (R277). -/
def descBytes (action target : Nat) (token : Nat) : List Nat :=
  le 8 (2 ^ 31) ++ le 8 64 ++ le 8 action ++ le 8 target ++ le 8 token ++ le 8 (if action = 2 then 9 else 0) ++ le 16 0
def fired0 : Counter := { counter0 with firing := 1 }
def acting (l : List Nat) : State := poke 0 l (tabled (withCounters [(0, fired0)] base))
/-- The same after the event is taken. -/
def acted (l : List Nat) : State := (acting l).setCounter 0 counter0

/-- Each action, a descriptor whose action is none, and one whose target is out of range. -/
theorem test_witness_CounterCounts_fire :
    (∀ x ∈ [(0, 64, 0), (1, 64, 0), (2, 0, 5), (3, 0, 0), (0, 2 ^ 60, 0)],
      (acting (descBytes x.1 x.2.1 x.2.2)).counter? 0 = some fired0 ∧ ((acting (descBytes x.1 x.2.1 x.2.2)).ctx? 1).map (fun x => x.state) = some .running ∧
        (acting (descBytes x.1 x.2.1 x.2.2)).poisoned 0 = false ∧
        (descOf ((acting (descBytes x.1 x.2.1 x.2.2)).readBytes 0 64)).action = x.1) ∧
    (∀ x ∈ [(0, 64, 0), (1, 64, 0), (2, 0, 5)], actionGood ((acting (descBytes x.1 x.2.1 x.2.2)).readBytes 0 64) = true) ∧
    actionGood ((acting (descBytes 3 0 0)).readBytes 0 64) = false ∧ canonicalSpan (2 ^ 60) 64 = false ∧ canonicalSpan 64 64 = true ∧
    (acted (descBytes 0 64 0)).checkRuns 1 [] (.store false) (pageRuns 64 64) = .ok [(64, 64)] ∧
    ((acted (descBytes 1 64 0)).hwRead 1 .reader 64 64).isSome = true := by decide +kernel

def bw (nw : Bool) (l : Scope) : BarW := { nw := nw, level := l }

theorem test_witness_BarrierInstructions :
    (∀ l ∈ [Scope.quad, .die, .pkg, .dom], ∀ n ∈ [1, 2 ^ 32 - 1], ∃ f, Fires (.barinit h1 (bw false l)) (paged (rd (.barinit h1 (bw false l)) 64 n 0)) f ∧
      f.clear = true ∧ f.a.kind ≠ .tile ∧ f.b.kind ≠ .tile ∧ reachable f.a.val.toNat 64 ∧ f.a.val.toNat % 64 = 0 ∧ f.fr.held = [] ∧
      1 ≤ f.b.val.toNat ∧ f.b.val.toNat < 2 ^ 32 ∧
      (paged (rd (.barinit h1 (bw false l)) 64 n 0)).checkHome f.fr.ctx f.pe (.store false) f.a.val.toNat 64 = .ok [(64, 64)]) ∧
    (∀ i ∈ [Instr.bararr h1 (bw true .pkg), .syncall h1], ∃ f, Fires i (paged (rd i 64 0 0)) f ∧ f.clear = true ∧ f.fr.held = [] ∧
      (paged (rd i 64 0 0)).checkHome f.fr.ctx f.pe (.store false) f.a.val.toNat 64 = .ok [(64, 64)]) ∧
    (∀ i ∈ [Instr.bararr h1 (bw true .pkg), .barinit h1 (bw true .pkg), .syncall h1], ∃ f, Fires i ((paged (rd i 64 1 0)).hold 0 (.barinit 64 64 3 1)) f ∧
      f.fr.held = [.barinit 64 64 3 1] ∧ f.b.kind ≠ .tile ∧
      ((paged (rd i 64 1 0)).hold 0 (.barinit 64 64 3 1)).checkHome f.fr.ctx f.pe (.store false) f.a.val.toNat 64 = .ok [(64, 64)]) ∧
    (∀ n ∈ [0, 2 ^ 32], ∃ f, Fires (.barinit h1 (bw true .pkg)) (paged (rd (.barinit h1 (bw true .pkg)) 64 n 0)) f ∧ f.b.kind ≠ .tile ∧
      (f.b.val.toNat = 0 ∨ 2 ^ 32 ≤ f.b.val.toNat)) ∧
    (∃ f, Fires (.bartry h1 (bw false .die)) (paged (rd (.bartry h1 (bw false .die)) 64 0 0)) f ∧ f.b.kind ≠ .tile ∧
      (paged (rd (.bartry h1 (bw false .die)) 64 0 0)).checkRange f.fr.ctx f.pe (.load false) f.a.val.toNat 64 = .ok [(64, 64)] ∧
      (paged (rd (.bartry h1 (bw false .die)) 64 0 0)).rangePoisoned 64 16 = false) := by
  refine ⟨?_, wits ?_, wits ?_, wits ?_, wit ?_ ?_⟩
  · have h : ∀ l ∈ [Scope.quad, .die, .pkg, .dom], ∀ n ∈ [1, 2 ^ 32 - 1], fires (.barinit h1 (bw false l)) (paged (rd (.barinit h1 (bw false l)) 64 n 0)) = true := by
      decide +kernel
    intro l hl n hn
    refine wit (h l hl n hn) ?_
    unfold reachable
    revert l n
    decide +kernel
  all_goals decide +kernel

end Sys2Proof.Tests
end

