-- ==== Sys2Proof/Tests/Units.lean ====
section
/-! SUPPORT. Witnesses that the hypotheses of the statements about matrix packets, barriers, channels and copies can be met together. -/

set_option Elab.async false

namespace Sys2Proof.Tests

open Sys2Proof.Machine

/-! ### Matrix packets and spills -/

/-- A packet for ring 0 of PE 0 from context slot 0, with a sequence and a beat. -/
def packetOdd (seq beat low : Nat) : BitVec 128 := withParity (seq * 2 ^ 32 + 15 * 2 ^ 28 + 15 * 2 ^ 24 + beat * 2 ^ 6 + low) (6 * 2 ^ 34)
def packet (seq beat : Nat) : BitVec 128 := packetOdd seq beat 0
def ring0 : Ring :=
  { bound := some (1, 0), fc := 6, width := 0, depth := 16, error := false, head := 2 ^ 32 - 1
    complete := [{ rows := 15, cols := 15, nonfinite := false, codes := List.replicate 256 1 }], ready := [], pushed := [], marks := []
    arriving := [], undo := none }
def packeted (raw : BitVec 128) (rings : Tab Ring) : State :=
  let s := mail (.packet raw [] 0) (.pe 0) 6 base
  { s with pe := { s.pe with rings := rings } }

/-- A packet for no ring; packets one past the ring's depth, of a beat that its width has not, and of a bad field; the first and the last that fit. -/
theorem test_witness_MatrixEvents_packet :
    (∀ p ∈ [(packet 0 0, ([] : Tab Ring)), (packet 15 0, [(0, ring0)]), (packet 0 4, [(0, ring0)]), (packetOdd 0 0 1, [(0, ring0)]), (packet 0 3, [(0, ring0)]),
        (packet 14 0, [(0, ring0)])],
      (packeted p.1 p.2).msg? 7 = some (envOf (.packet p.1 [] 0) (.pe 0) 6) ∧ (packeted p.1 p.2).first 7 (envOf (.packet p.1 [] 0) (.pe 0) 6) = true ∧
        p.1.toNat / 2 ^ 81 % 2 ^ 11 = 0 ∧ p.1.toNat / 2 ^ 64 % 8 = 0 ∧ (packeted p.1 p.2).slotOf 1 = p.1.toNat / 2 ^ 92 % 16) ∧
    ((packeted (packet 0 0) []).ring 0 0).bound = none ∧ packetGood (packetOdd 0 0 1) = false ∧
      (∀ q ∈ [((15, 0), true), ((14, 0), false), ((0, 3), false)], packetGood (packet q.1.1 q.1.2) = true ∧
        (q.2 = decide (16 ≤ 1 + ((packet q.1.1 q.1.2).toNat / 2 ^ 32 % 2 ^ 32 + 2 ^ 32 - (2 ^ 32 - 1 + 1) % 2 ^ 32) % 2 ^ 32))) := by decide +kernel

/-- The tail's entry with three of its four beats, and the packet of the fourth. -/
def almost : Ring := { ring0 with arriving := [{ seq := 0, rows := 15, cols := 15, beats := (List.range 3).map fun b => (b, List.replicate 64 1) }] }

theorem test_witness_MatrixEvents_lastBeat :
    (packeted (packet 0 3) [(0, almost)]).first 7 (envOf (.packet (packet 0 3) [] 0) (.pe 0) 6) = true ∧
      ((packeted (packet 0 3) [(0, almost)]).ring 0 0) = almost ∧ packetGood (packet 0 3) = true ∧ (packet 0 3).toNat / 2 ^ 6 % 16 = 3 ∧
      (packet 0 3).toNat / 2 ^ 32 % 2 ^ 32 = 0 ∧ (almost.head + almost.complete.length) % 2 ^ 32 = 0 ∧ almost.complete.length < almost.depth := by decide +kernel

/-- An urgent context whose MMA waits for accumulator 0, which the task of a normal context claims. -/
def spilling : State :=
  let i : Instr := .zinit h1 { clr := true, mode := true, z := 0 }
  let s := (rd i 0 0 0).modFrame 0 fun fr => { fr with stat := [(0, .waiting .accumulator)] }
  let x := wordCtx 0
  { s with ctxs := [(1, { x with urgent := true }), (2, { x with slot := 1 })]
           pe := { s.pe with accs := [(0, { Acc.reset with claim := some (2, 0), last := some 2 })] } }

theorem test_witness_MatrixEvents_spill :
    spilling.urgentFor 0 0 = some (0, 0) ∧ (spilling.frame? 0).isSome = true ∧ (spilling.acc 0 0).claim = some (2, 0) ∧ (spilling.acc 0 0).spill = none ∧
      (spilling.acc 0 0).shadow = none ∧ Memory.wf spilling.pe.spills = true ∧
      (spilling.acc 0 0).val.elems.length = 256 ∧ (spilling.ctx? 2).map (fun x => x.urgent) = some false := by decide +kernel

/-! ### Barriers -/

/-- A record of the die's barrier at address 64, for n arrivals, in its last phase. -/
def barRec (n : Nat) (s : State) : State := poke 64 (le 8 (n + (2 ^ 24 - 1) * 2 ^ 32 + 2 * 2 ^ 61)) s
def arr0 : BarArr := { src := src1, va := 64, level := 2, nw := false, counter := none, step := none }
def arriving : State := mail (.barArrive 64 (barRoot 2 0) [arr0] none) .io 5 (barRec 2 base)
def completing : State := (barRec 1 base).setBarrier 64 { counted := [arr0], nodes := [], held := [] }
def releasing : State := mail (.barRelease 64 0 [arr0]) .io 5 base

theorem test_witness_BarrierEvents :
    (arriving.msg? 7 = some (envOf (.barArrive 64 (barRoot 2 0) [arr0] none) .io 5) ∧ arriving.first 7 (envOf (.barArrive 64 (barRoot 2 0) [arr0] none) .io 5) = true ∧
      arriving.barComplete 64 = false ∧ arriving.barLive 64 = true ∧ isRefused 64 = false ∧ barRoot 2 0 = arriving.barRootOf 64 ∧ arriving.arrivalGood 64 arr0 = true) ∧
    (completing.barComplete 64 = true ∧ completing.lineOf 64 = none ∧ Memory.wf completing.mem.bytes = true ∧ completing.barPhase 64 = 2 ^ 24 - 1) ∧
    (releasing.msg? 7 = some (envOf (.barRelease 64 0 [arr0]) .io 5) ∧ releasing.first 7 (envOf (.barRelease 64 0 [arr0]) .io 5) = true ∧
      (releasing.ctx? 1).map (fun x => x.state) = some .running ∧ (releasing.task? 0 0).map (fun t => t.ctx) = some 1) := by decide +kernel

/-- An arrival of another level at the root, an arrival at the quad node below it, a release at the die node, and one for a halted context. -/
def arriveOdd : State := mail (.barArrive 64 (barRoot 2 0) [{ arr0 with level := 1 }] none) .io 5 (barRec 2 base)
def below : State := mail (.barArrive 64 0 [arr0] none) (.quad 0) 5 (barRec 2 base)
def passing : State := mail (.barRelease 64 512 [arr0]) (.die 0) 5 base
def refusing : State := mail (.barArrive (refusedKey (2 ^ 52 + 64)) 512 [arr0] none) .io 5 base
def stopped : State := releasing.modCtx 1 fun x => { x with state := .halted }

theorem test_witness_BarrierEvents_rest :
    (arriveOdd.first 7 (envOf (.barArrive 64 (barRoot 2 0) [{ arr0 with level := 1 }] none) .io 5) = true ∧ arriveOdd.barComplete 64 = false ∧
      arriveOdd.barLive 64 = true ∧ arriveOdd.barLevel 64 = 2) ∧
    (below.first 7 (envOf (.barArrive 64 0 [arr0] none) (.quad 0) 5) = true ∧ below.barComplete 64 = false ∧ below.barLive 64 = true ∧
      below.barRootOf 64 = 512 ∧ (below.barrier 64).node 0 = { pend := [], inflight := false }) ∧
    (refusing.first 7 (envOf (.barArrive (refusedKey (2 ^ 52 + 64)) 512 [arr0] none) .io 5) = true ∧ refusing.barComplete (refusedKey (2 ^ 52 + 64)) = false ∧
      isRefused (refusedKey (2 ^ 52 + 64)) = true ∧ arr0.counter = none) ∧
    (512 ≤ completing.barRootOf 64 ∧ arr0 ∈ (completing.barrier 64).counted) ∧
    passing.first 7 (envOf (.barRelease 64 512 [arr0]) (.die 0) 5) = true ∧
    (stopped.first 7 (envOf (.barRelease 64 0 [arr0]) .io 5) = true ∧ (stopped.ctx? 1).map (fun x => x.state) = some .halted ∧
      (stopped.task? 0 0).map (fun t => t.ctx) = some 1) := by decide +kernel

/-! ### Channels -/

/-- The base of a channel in the second GiB. -/
def cbase : Nat := 2 ^ 30
def chan0 : Chan :=
  { base := cbase, pa := cbase, pages := [(cbase, 65536)], die := 0, remote := none, opener := 1, part := 0, tile := false, width := 0, fc := 0, fixed := true
    reach := 2, nring := 16, off := 8, on := 4, state := .opened, writer := none, reader := none, ring := [], segs := [], lent := [], sendSeq := 0, recvSeq := 0, reqs := []
    xoff := false, quota := none, segAsked := false, ext := 0, probation := none, reported := false }
def withChan (c : Chan) (s : State) : State := { s with chans := [(cbase, c)] }
def withEnd (writer xoff : Bool) (s : State) : State :=
  { s with pe := { s.pe with endpoints := [{ pe := 0, task := 0, ch := cbase, writer := writer, bound := true, xoff := xoff, closed := false }] } }
def rch (i : Instr) (b : Tok) : State := withTiles (paged (ready i (sc cbase) b (sc 0)))

/-- The base passes its checks. -/
def baseOk (i : Instr) (s : State) : Bool :=
  (shot i s).a.kind == .scalar && decide ((shot i s).a.val.toNat = cbase) &&
    s.checkRange (shot i s).fr.ctx (shot i s).pe .chan cbase 64 == .ok [(cbase, 64)]

def chw (tile fixed : Bool) (units : BitVec 20) : ChopenW := { tile := tile, width := 2, fixed := fixed, reach := .pkg, fc := 0, units := units }

/-- CHOPEN of the least space for scalars and for tiles of 32 bits, and of the greatest. -/
theorem test_witness_ChannelInstructions_chopen :
    ∀ w ∈ [chw false true 5, chw true false 21, chw false true 0xFFFFF], ∃ f, Fires (.chopen h2 w) (rch (.chopen h2 w) (sc 0)) f ∧
      baseOk (.chopen h2 w) (rch (.chopen h2 w) (sc 0)) = true ∧ 256 + (if !w.tile then 8 else 1088) ≤ 64 * w.units.toNat ∧
      reachable cbase (64 * w.units.toNat) ∧
      (∃ ks, ks.head? = some (cbase, min (64 * w.units.toNat) 65536) ∧ (∀ r ∈ ks, chanDie r.1 = some (0, none)) ∧
        (rch (.chopen h2 w) (sc 0)).checkRange f.fr.ctx f.pe .chan cbase (64 * w.units.toNat) = .ok ks) ∧
      (rch (.chopen h2 w) (sc 0)).chans = [] := by
  have h : ∀ w ∈ [chw false true 5, chw true false 21, chw false true 0xFFFFF], fires (.chopen h2 w) (rch (.chopen h2 w) (sc 0)) = true ∧
      baseOk (.chopen h2 w) (rch (.chopen h2 w) (sc 0)) = true ∧ 256 + (if !w.tile then 8 else 1088) ≤ 64 * w.units.toNat ∧
      reachable cbase (64 * w.units.toNat) ∧
      (pageRuns cbase (64 * w.units.toNat)).head? = some (cbase, min (64 * w.units.toNat) 65536) ∧
      (∀ r ∈ pageRuns cbase (64 * w.units.toNat), chanDie r.1 = some (0, none)) ∧
      (rch (.chopen h2 w) (sc 0)).checkRange (shot (.chopen h2 w) (rch (.chopen h2 w) (sc 0))).fr.ctx (shot (.chopen h2 w) (rch (.chopen h2 w) (sc 0))).pe .chan
        cbase (64 * w.units.toNat) = .ok (pageRuns cbase (64 * w.units.toNat)) := by
    unfold reachable; decide +kernel
  intro w hw
  obtain ⟨a, b, c, d, e, f, g⟩ := h w hw
  exact wit a ⟨b, c, d, ⟨_, e, f, g⟩, rfl⟩

/-- CHOPEN where a channel has its page, where the die's table is full, and of a broken channel. -/
def opened (l : Tab Chan) : State := { rch (.chopen h2 (chw false true 5)) (sc 0) with chans := l }
def elsewhere (n : Nat) : Nat × Chan := (cbase + (n + 1) * 65536, { chan0 with pages := [(cbase + (n + 1) * 65536, 65536)] })

theorem test_witness_ChannelInstructions_chopen_cases :
    (∀ l ∈ [[(cbase + 256, { chan0 with pages := [(cbase + 256, 320)] })], [(cbase, chan0)], [(cbase, { chan0 with state := .broken })], (List.range 2048).map elsewhere],
      fires (.chopen h2 (chw false true 5)) (opened l) = true ∧ baseOk (.chopen h2 (chw false true 5)) (opened l) = true) ∧
    (opened [(cbase, { chan0 with state := .broken })]).chan? cbase = some { chan0 with state := .broken } ∧
    ((opened ((List.range 2048).map elsewhere)).chans.filter fun p => p.2.die == 0 && p.2.remote == none).length = 2048 ∧
    ((opened ((List.range 2048).map elsewhere)).chans.any fun p => p.2.pages.any fun g => overlaps g (cbase, 65536)) = false ∧
    ((opened [(cbase, chan0)]).chans.any fun p => p.2.pages.any fun g => overlaps g (cbase, 65536)) = true := by decide +kernel

/-- CHCLOSE in both modes, CHSTAT of no channel and of one. -/
theorem test_witness_ChannelInstructions_close :
    (∀ m ∈ [0, 1], ∃ f, Fires (.chclose h0) (withChan chan0 (rch (.chclose h0) (sc m))) f ∧
      baseOk (.chclose h0) (withChan chan0 (rch (.chclose h0) (sc m))) = true ∧ (withChan chan0 (rch (.chclose h0) (sc m))).chan? cbase = some chan0 ∧
      f.b.kind ≠ .tile ∧ f.b.val.toNat < 2) ∧
    (∃ f, Fires (.chclose h0) (withChan { chan0 with state := .broken } (rch (.chclose h0) (sc 1))) f ∧ f.b.val.toNat = 1) ∧
    (∃ f, Fires (.chstat h2) (rch (.chstat h2) (sc 0)) f ∧ baseOk (.chstat h2) (rch (.chstat h2) (sc 0)) = true ∧ (rch (.chstat h2) (sc 0)).chan? cbase = none) ∧
    (∃ f, Fires (.chstat h2) (withChan chan0 (rch (.chstat h2) (sc 0))) f ∧ (withChan chan0 (rch (.chstat h2) (sc 0))).chan? cbase = some chan0 ∧
      f.a.kind ≠ .tile) :=
  ⟨wits (by decide +kernel), wit (by decide +kernel) (by decide +kernel), wit (by decide +kernel) (by decide +kernel), wit (by decide +kernel) (by decide +kernel)⟩

/-- Sends of a scalar and of a tile, under XON and under XOFF, with the quota spent and not. -/
theorem test_witness_ChannelInstructions_send :
    ∀ i ∈ [Instr.chsend h2, .chtrys h2], ∀ x ∈ [(false, chan0), (true, chan0), (true, { chan0 with quota := some 0 }), (false, { chan0 with tile := true, width := 2 })],
      ∃ f, Fires i (withEnd true x.1 (withChan x.2 (rch i (if x.2.tile then hn 0 0 15 15 else sc 9)))) f ∧
        baseOk i (withEnd true x.1 (withChan x.2 (rch i (if x.2.tile then hn 0 0 15 15 else sc 9)))) = true ∧ f.clear = true ∧
        (withEnd true x.1 (withChan x.2 (rch i (if x.2.tile then hn 0 0 15 15 else sc 9)))).before f.src 0xFF = false ∧
        (withEnd true x.1 (withChan x.2 (rch i (if x.2.tile then hn 0 0 15 15 else sc 9)))).endpoint? f.pe f.fr.task cbase true =
          some { pe := 0, task := 0, ch := cbase, writer := true, bound := true, xoff := x.1, closed := false } ∧
        (x.2.tile = true → f.holds (withEnd true x.1 (withChan x.2 (rch i (hn 0 0 15 15)))) f.b (tin (withEnd true x.1 (withChan x.2 (rch i (hn 0 0 15 15)))) (hn 0 0 15 15)) ∧
          (tin (withEnd true x.1 (withChan x.2 (rch i (hn 0 0 15 15)))) (hn 0 0 15 15)).slot.width = x.2.width) := by
  have h : ∀ i ∈ [Instr.chsend h2, .chtrys h2], ∀ x ∈ [(false, chan0), (true, chan0), (true, { chan0 with quota := some 0 }), (false, { chan0 with tile := true, width := 2 })],
      fires i (withEnd true x.1 (withChan x.2 (rch i (if x.2.tile then hn 0 0 15 15 else sc 9)))) = true := by decide +kernel
  intro i hi x hx
  refine wit (h i hi x hx) ?_
  revert i x
  unfold Firing.holds
  decide +kernel

/-- Receives of a bound reader, and the four instructions of a task with no endpoint. -/
theorem test_witness_ChannelInstructions_receive :
    (∀ i ∈ [Instr.chrecv h2, .chtryr h2], ∃ f, Fires i (withEnd false false (withChan chan0 (rch i (sc 0)))) f ∧
      baseOk i (withEnd false false (withChan chan0 (rch i (sc 0)))) = true ∧
      (withEnd false false (withChan chan0 (rch i (sc 0)))).endpoint? f.pe f.fr.task cbase false =
        some { pe := 0, task := 0, ch := cbase, writer := false, bound := true, xoff := false, closed := false }) ∧
    (∀ i ∈ [Instr.chsend h2, .chtrys h2, .chrecv h2, .chtryr h2], ∃ f, Fires i (withChan chan0 (rch i (sc 0))) f ∧
      baseOk i (withChan chan0 (rch i (sc 0))) = true ∧ (∀ w, (withChan chan0 (rch i (sc 0))).endpoint? f.pe f.fr.task cbase w = none) ∧
      ((withChan chan0 (rch i (sc 0))).pe.endpoints.filter fun e => e.pe == f.pe).length < 64) :=
  ⟨wits (by decide +kernel), wits (by decide +kernel)⟩

/-- The channel instructions that a base alone stops. -/
def chanAll : List Instr := [.chclose h2, .chstat h2, .chsend h2, .chtrys h2, .chrecv h2, .chtryr h2]

theorem test_witness_ChannelFaults :
    (∀ i ∈ chanAll, ∃ f, Fires i (rt i (hn 0 0 0 0) (sc 0) (sc 0)) f ∧ f.a.kind = .tile) ∧
    (∀ i ∈ chanAll, ∃ f, Fires i (rd i (2 ^ 56) 0 0) f ∧ f.a.kind = .scalar ∧ ¬ reachable f.a.val.toNat 1) ∧
    (∀ i ∈ chanAll, ∃ f, Fires i (rd i (2 ^ 56 - 1) 0 0) f ∧ f.a.kind = .scalar ∧ reachable f.a.val.toNat 1 ∧ f.a.val.toNat % 65536 ≠ 0) ∧
    (∀ i ∈ chanAll, ∃ f, Fires i (rch i (sc 1)) f ∧ baseOk i (rch i (sc 1)) = true ∧ (rch i (sc 1)).chan? cbase = none ∧
      (i = .chclose h2 → f.b.kind = .scalar ∧ f.b.val.toNat < 2) ∧ (rch i (sc 1)).readerCut f.pe f.fr.task cbase = false) := by
  refine ⟨wits ?_, wits ?_, wits ?_, wits ?_⟩ <;> (try unfold reachable) <;> decide +kernel

/-- The instructions of a channel that is broken or only reserved, and of CHCLOSE with a handle or a bad mode. -/
theorem test_witness_ChannelFaults_state :
    (∀ p ∈ chanAll.flatMap fun i => [(i, ChanState.broken), (i, .reserved)], ∃ f, Fires p.1 (withChan { chan0 with state := p.2 } (rch p.1 (sc 0))) f ∧
      baseOk p.1 (withChan { chan0 with state := p.2 } (rch p.1 (sc 0))) = true ∧
      (withChan { chan0 with state := p.2 } (rch p.1 (sc 0))).chan? cbase = some { chan0 with state := p.2 } ∧
      (p.1 = .chclose h2 → f.b.kind = .scalar ∧ f.b.val.toNat = 0) ∧
      (withChan { chan0 with state := p.2 } (rch p.1 (sc 0))).readerCut f.pe f.fr.task cbase = false) ∧
    (∃ f, Fires (.chclose h0) (rch (.chclose h0) (hn 0 0 0 0)) f ∧ baseOk (.chclose h0) (rch (.chclose h0) (hn 0 0 0 0)) = true ∧ f.b.kind = .tile) ∧
    (∃ f, Fires (.chclose h0) (rch (.chclose h0) (sc 2)) f ∧ baseOk (.chclose h0) (rch (.chclose h0) (sc 2)) = true ∧ f.b.kind = .scalar ∧ 2 ≤ f.b.val.toNat) := by
  refine ⟨wits ?_, wit ?_ ?_, wit ?_ ?_⟩ <;> decide +kernel

/-- CHOPEN: a handle; bases out of range and misaligned; too little space, and space that runs past the end of the lower half. -/
def chopenAt (units : BitVec 20) (a : Tok) : State := withTiles (paged (ready (.chopen h2 (chw false true units)) a (sc 0) (sc 0)))

theorem test_witness_ChannelFaults_chopen :
    (∀ x ∈ [(5, hn 0 0 0 0, 0), (5, sc (2 ^ 56), 1), (5, sc 8, 2), (4, sc cbase, 3), (0xFFFFF, sc (2 ^ 56 - 65536), 4)],
      ∃ f, Fires (.chopen h2 (chw false true (BitVec.ofNat 20 x.1))) (chopenAt (BitVec.ofNat 20 x.1) x.2.1) f ∧
        (if x.2.2 = 0 then f.a.kind = .tile else f.a.kind = .scalar) ∧ (x.2.2 = 1 → ¬ reachable f.a.val.toNat 1) ∧
        (x.2.2 = 2 → reachable f.a.val.toNat 1 ∧ f.a.val.toNat % 65536 ≠ 0) ∧
        (3 ≤ x.2.2 → reachable f.a.val.toNat 1 ∧ f.a.val.toNat % 65536 = 0) ∧ (x.2.2 = 3 → 64 * x.1 < 256 + 8) ∧
        (x.2.2 = 4 → 256 + 8 ≤ 64 * x.1 ∧ ¬ reachable f.a.val.toNat (64 * x.1))) ∧
    -- normal memory is no channel's (R311)
    (∃ f, Fires (.chopen h2 (chw false true 5)) (chopenAt 5 (sc 65536)) f ∧ f.a.kind = .scalar ∧ f.a.val.toNat % 65536 = 0 ∧
      (chopenAt 5 (sc 65536)).checkRange f.fr.ctx f.pe .chan f.a.val.toNat (64 * 5) = .prot 65536) := by
  refine ⟨wits ?_, wit ?_ ?_⟩ <;> (try unfold reachable) <;> decide +kernel

/-! ### Channel controllers -/

/-- A message alone in the mortar that a channel's controller or a PE may take. -/
def firstMail (m : Msg) (dst : Agent) (cls : Nat) (s : State) : Bool :=
  s.msg? 7 == some (envOf m dst cls) && s.firstOn 7 (envOf m dst cls) && s.first 7 (envOf m dst cls)

def elem0 (v : Nat) : Elem := { val := BitVec.ofNat 64 v, rows := 0, cols := 0, nonfinite := false, codes := [] }
def dest0 (e : BitVec 5) : Dest := { pe := 0, frame := 0, uid := 1, tgt := .write e }
def rreq (t : Bool) : RecvReq := { src := src1, dests := [dest0 0], sdests := [dest0 1], isTry := t }
def chanMail (m : Msg) (dst : Agent) (c : Chan) : State := mail m dst 2 (withChan c base)

/-- Elements that meet an empty and an almost full ring and a parked request; requests that meet an element, nothing, and nothing in a CHTRYR. -/
theorem test_witness_ChannelController :
    (∀ c ∈ [chan0, { chan0 with ring := List.replicate 15 (elem0 1) }, { chan0 with ring := List.replicate 7 (elem0 1) }, { chan0 with reqs := [rreq false] }],
      firstMail (.element cbase (elem0 9) src1 1 none) (.die 0) 2 (chanMail (.element cbase (elem0 9) src1 1 none) (.die 0) c) = true ∧
        (chanMail (.element cbase (elem0 9) src1 1 none) (.die 0) c).chan? cbase = some c ∧ c.state = .opened ∧ c.segs = [] ∧ c.ring.length < c.nring ∧
        c.on < c.off ∧ c.fixed = true ∧ c.xoff = false ∧ (chanMail (.element cbase (elem0 9) src1 1 none) (.die 0) c).reqLive (rreq false) = true) ∧
    (∀ x ∈ [(false, { chan0 with ring := [elem0 3] }), (false, chan0), (true, chan0)],
      firstMail (.recvReq cbase (rreq x.1)) (.die 0) 2 (chanMail (.recvReq cbase (rreq x.1)) (.die 0) x.2) = true ∧
        (chanMail (.recvReq cbase (rreq x.1)) (.die 0) x.2).chan? cbase = some x.2 ∧ x.2.state = .opened ∧ x.2.reqs = [] ∧ x.2.segs = [] ∧
        (chanMail (.recvReq cbase (rreq x.1)) (.die 0) x.2).reqLive (rreq x.1) = true) ∧
    (∀ c ∈ [{ chan0 with segs := [[elem0 1]] }, { chan0 with fixed := false, segs := [[elem0 1], []], ring := List.replicate 15 (elem0 2) }],
      (withChan c base).chan? cbase = some c ∧ c.state = .opened ∧ c.ring.length < c.nring ∧ c.reqs = [] ∧ c.segs.head? = some [elem0 1]) := by decide +kernel

/-- An instruction of the frame in focus that is parked. -/
def parked (w : Wait) (s : State) : State := s.modFrame 0 fun fr => { fr with stat := [(3, .parked w)] }
def owned : Chan := { chan0 with writer := some (0, 0, 1) }

theorem test_witness_ChannelMessages_bind :
    ∀ w ∈ [true, false], ∀ c ∈ [chan0, { chan0 with writer := some (1, 0, 1), reader := some (1, 0, 1) }],
      let m : Msg := .bind cbase w src1
      let s := parked (.bind cbase w) (chanMail m (.die 0) c)
      firstMail m (.die 0) 2 s = true ∧ Tab.sorted s.chans = true ∧ s.chan? cbase = some c ∧ c.state = .opened ∧ (s.ctx? 1).map (fun x => x.part) = some c.part ∧
        c.reaches src1.pe = true ∧ s.parkedOn (fun k f => k / 256 == src1.pe && f.task == src1.task) (.bind cbase w) = [(0, 3)] := by decide +kernel

theorem test_witness_ChannelMessages_flow :
    (
      let c := { chan0 with reader := some (0, 0, 1) }
      firstMail (.epRelease cbase false 0 0) (.die 0) 2 (chanMail (.epRelease cbase false 0 0) (.die 0) c) = true ∧
        (chanMail (.epRelease cbase false 0 0) (.die 0) c).chan? cbase = some c ∧ c.state = .opened ∧ c.reqs = []) ∧
    (
      let m : Msg := .epRelease cbase true 0 0
      firstMail m (.die 0) 2 (chanMail m (.die 0) owned) = true ∧ (chanMail m (.die 0) owned).chan? cbase = some owned ∧ owned.writer = some (0, 0, 1)) ∧
    (firstMail (.xoff cbase 0) (.pe 0) 2 (withEnd true false (chanMail (.xoff cbase 0) (.pe 0) owned)) = true) ∧
    (
      let s := withEnd true true (parked (.xoff cbase) (chanMail (.xon cbase 0) (.pe 0) owned))
      firstMail (.xon cbase 0) (.pe 0) 2 s = true ∧ s.parkedOn (fun k _ => k / 256 == 0) (.xoff cbase) = [(0, 3)]) ∧
    (∀ x ∈ [(1, chan0), (0, { chan0 with ring := [elem0 1] }), (0, chan0)],
      let m : Msg := .chClose cbase cbase x.1 src1
      let s := chanMail m (.die 0) x.2
      firstMail m (.die 0) 2 s = true ∧ s.chan? cbase = some x.2 ∧ x.2.state = .opened ∧ x.2.writer = none ∧ x.2.opener = src1.ctx ∧ s.parkedSends cbase = [] ∧
        x.2.reqs = [] ∧ x.2.segs = [] ∧ x.2.reader = none) := by decide +kernel

/-- A channel whose writer is parked under XOFF, in a context silent for its window. -/
def silent (spillq : Nat) (c : Chan) : State :=
  let s := parked (.xoff cbase) (withChan c base)
  s.modCtx 1 fun x => { x with silence := 38000, lastActive := 5, regs := { x.regs with spillq := spillq } }

theorem test_witness_QuiescenceMonitor :
    (∀ q ∈ [0, 1],
      let c := { owned with xoff := true }
      let s := silent q c
      s.chans = [(cbase, c)] ∧ c.probation = none ∧ s.candidate 0 (cbase, c) = true ∧ s.deadlockByHost c.opener = false ∧ s.segmentLeft c.opener = (q == 1) ∧
        s.parkedSends cbase = [(0, 3)] ∧ (s.frame? 0).map (fun f => f.ctx) = some 1 ∧ (s.ctx? 1).map (fun x => x.state) = some .running) ∧
    (
      let c := { owned with xoff := true, probation := some (4, 0) }
      (silent 0 c).chans = [(cbase, c)] ∧ c.probation = some (4, 0) ∧ 0 ≤ (silent 0 c).sched.cycle ∧ ((silent 0 c).ctx? c.judged.1).map (fun x => x.lastActive) = some 5) ∧
    (
      let c := { owned with xoff := true, probation := some (5, 0) }
      (silent 0 c).chans = [(cbase, c)] ∧ 0 ≤ (silent 0 c).sched.cycle ∧ ((silent 0 c).ctx? c.judged.1).map (fun x => x.lastActive) = some 5 ∧
        ((silent 0 c).ctx? c.judged.2).map (fun x => x.lastActive) = some 5 ∧ (silent 0 c).parkedSends cbase = [(0, 3)] ∧
        (silent 0 c).frame? 0 ≠ none ∧ ((silent 0 c).ctx? 1).map (fun x => x.state) = some .running) := by
  decide +kernel

/-! ### Copies -/

/-- A base packet: source, destination, length, one count and its strides, Signal, Wait. -/
def cpPacket (src dst len count : Nat) (signal : Nat) (wait : Nat) : List Nat :=
  le 8 src ++ le 8 dst ++ le 4 len ++ le 4 count ++ le 8 64 ++ le 8 32 ++ le 8 signal ++ List.replicate 13 0 ++ [wait, 0, 1]

/-- A machine with the packet at 4096 of normal memory, and an instruction that reads it. -/
def cpRun (i : Instr) (a b : Nat) (l : List Nat) : State := poke 4096 l (paged (rd i a b 0))
def copyK (p : Packet) (r : Option RingRoute) (ph : CopyPhase) : Copy :=
  { src := src1, poster := 1, queue := none, qslot := 0, packet := p, route := r, tlc := some 1, phase := ph, buf := List.replicate p.bytes 7, beat := 0, head := none
    aborted := false }
def smallPacket : Packet := { source := 4096, dest := 8192, len0 := 40, dims := [(2, 64, 32)], signal := 0, wait := false, ext := 0 }

/-- The group that a state holds at 4096. -/
def groupOk (i : Instr) (s : State) : Bool := match (shot i s).readGroup s 4096 with | .ok _ => true | _ => false

theorem group_of {i : Instr} {s : State} (h : groupOk i s = true) : ∃ p l, (shot i s).readGroup s 4096 = .ok (p, l) := by
  unfold groupOk at h
  cases hr : (shot i s).readGroup s 4096 with
  | ok q => exact ⟨q.1, q.2, rfl⟩
  | error e => simp [hr] at h

/-- CPY while the unit has room, while it is full, and while an earlier store holds a copy back. -/
def cpyAt (x : Nat × Bool) : State :=
  let s := cpRun (.cpy h2) 4096 0 (cpPacket 0 8192 40 2 0 0)
  let s := { s with copies := (List.range x.1).map fun n => (n, copyK smallPacket none .accepted) }
  if x.2 then waiting1 s else s

theorem test_witness_CopyInstructions_cpy :
    ∀ x ∈ [(511, false), (512, false), (0, true)], ∃ f, Fires (.cpy h2) (cpyAt x) f ∧ f.a.kind ≠ .tile ∧ f.a.val.toNat % 64 = 0 ∧ f.a.val.toNat = 4096 ∧
      (∃ p l, f.readGroup (cpyAt x) 4096 = .ok (p, l)) ∧ (cpyAt x).copiesOn f.pe = x.1 ∧ (cpyAt x).before f.src 0xFF = x.2 := by
  have h : ∀ x ∈ [(511, false), (512, false), (0, true)], fires (.cpy h2) (cpyAt x) = true ∧ (shot (.cpy h2) (cpyAt x)).a.kind ≠ .tile ∧
      (shot (.cpy h2) (cpyAt x)).a.val.toNat % 64 = 0 ∧ (shot (.cpy h2) (cpyAt x)).a.val.toNat = 4096 ∧ groupOk (.cpy h2) (cpyAt x) = true ∧
      (cpyAt x).copiesOn (shot (.cpy h2) (cpyAt x)).pe = x.1 ∧ (cpyAt x).before (shot (.cpy h2) (cpyAt x)).src 0xFF = x.2 := by decide +kernel
  intro x hx
  obtain ⟨a, b, c, d, e, g, i⟩ := h x hx
  exact wit a ⟨b, c, d, group_of e, g, i⟩

def cpy1W (n : BitVec 31) : Cpy1W := { wait := true, len := n }

/-- CPY1 of no byte, of the longest length, and out of reach at its source and its destination. -/
theorem test_witness_CopyInstructions_cpy1 :
    (∀ x ∈ [(0, 2 ^ 56, 2 ^ 57), (2 ^ 31 - 1, 0, 2 ^ 56 - (2 ^ 31 - 1)), (1, 2 ^ 56 - 1, 2 ^ 64 - 1)],
      let i : Instr := .cpy1 h2 (cpy1W (BitVec.ofNat 31 x.1))
      ∃ f, Fires i (rd i x.2.1 x.2.2 0) f ∧ f.a.kind ≠ .tile ∧ f.b.kind ≠ .tile ∧
        ((BitVec.ofNat 31 x.1).toNat = 0 ∨ (reachable f.a.val.toNat (BitVec.ofNat 31 x.1).toNat ∧ reachable f.b.val.toNat (BitVec.ofNat 31 x.1).toNat)) ∧
        (rd i x.2.1 x.2.2 0).before f.src 0xFF = false ∧ (rd i x.2.1 x.2.2 0).copiesOn f.pe < 512) ∧
    (∃ f, Fires (.cpy1 h2 (cpy1W 1)) (rd (.cpy1 h2 (cpy1W 1)) (2 ^ 56) 0 0) f ∧ f.a.kind ≠ .tile ∧ f.b.kind ≠ .tile ∧ ¬ reachable f.a.val.toNat 1) ∧
    (∃ f, Fires (.cpy1 h2 (cpy1W 2)) (rd (.cpy1 h2 (cpy1W 2)) 0 (2 ^ 56 - 1) 0) f ∧ f.a.kind ≠ .tile ∧ f.b.kind ≠ .tile ∧ reachable f.a.val.toNat 2 ∧
      ¬ reachable f.b.val.toNat 2) := by
  refine ⟨wits ?_, wit ?_ ?_, wit ?_ ?_⟩ <;> (try unfold reachable) <;> decide +kernel

def cpyrW (x : Nat × Nat) : CpyrW :=
  { ring := 7, count := BitVec.ofNat 8 x.1, wait := false, rows := 15, cols := 15, width := BitVec.ofNat 2 x.2 }

/-- CPYR of one entry of the least width to the last PE, and of two of the greatest. -/
def cpyrAt (x : Nat × Nat) : State := cpRun (.cpyr h2 (cpyrW x)) 4096 (2 ^ 43 - 1) (cpPacket 0 0 64 ((x.1 + 1) * 4 * 2 ^ x.2) 0 0)

theorem test_witness_CopyInstructions_cpyr :
    ∀ x ∈ [(0, 0), (1, 2)], ∃ f, Fires (.cpyr h2 (cpyrW x)) (cpyrAt x) f ∧ f.a.kind ≠ .tile ∧ f.b.kind ≠ .tile ∧
      f.a.val.toNat = 4096 ∧ f.b.val.toNat < 2 ^ 43 ∧ (cpyrAt x).before f.src 0xFF = false ∧ (cpyrAt x).copiesOn f.pe < 512 ∧
      ∃ p l, f.readGroup (cpyrAt x) 4096 = .ok (p, l) ∧ p.dest = 0 ∧ p.bytes = ((cpyrW x).count.toNat + 1) * 256 * 2 ^ (cpyrW x).width.toNat := by
  have h : ∀ x ∈ [(0, 0), (1, 2)], fires (.cpyr h2 (cpyrW x)) (cpyrAt x) = true ∧
      let f := shot (.cpyr h2 (cpyrW x)) (cpyrAt x)
      f.a.kind ≠ .tile ∧ f.b.kind ≠ .tile ∧ f.a.val.toNat = 4096 ∧ f.b.val.toNat < 2 ^ 43 ∧ (cpyrAt x).before f.src 0xFF = false ∧
        (cpyrAt x).copiesOn f.pe < 512 ∧ (match f.readGroup (cpyrAt x) 4096 with
          | .ok q => q.1.dest == 0 && q.1.bytes == ((cpyrW x).count.toNat + 1) * 256 * 2 ^ (cpyrW x).width.toNat
          | _ => false) = true := by decide +kernel
  intro x hx
  obtain ⟨a, b, c, d, e, g, j, k⟩ := h x hx
  refine wit a ⟨b, c, d, e, g, j, ?_⟩
  revert k
  cases hr : (shot (.cpyr h2 (cpyrW x)) (cpyrAt x)).readGroup (cpyrAt x) 4096 with
  | ok q => intro k; simp only [Bool.and_eq_true, beq_iff_eq] at k; exact ⟨q.1, q.2, rfl, k.1, k.2⟩
  | error e => intro k; cases k

/-- A registered queue of 16 slots at 32768. -/
def queue0 (door : Nat) : CopyQueue :=
  { ctx := 1, pe := 0, header := 32768, headerPa := 32768, pages := [(32768, 1088)], slots := 16, door := door, valid := true }
def withQueue (q : CopyQueue) (s : State) : State := { s with dev := { s.dev with queues := [(5, q)] } }

/-- CPQPOST with the last slot free, and with none. -/
def postAt (n : Nat) : State := poke 32768 (le 8 n) (withQueue (queue0 0) (cpRun (.cpqpost h2) 32768 4096 (cpPacket 0 8192 40 2 0 0)))

theorem test_witness_CopyInstructions_queue :
    ∀ n ∈ [15, 16], ∃ f, Fires (.cpqpost h2) (postAt n) f ∧ f.a.kind ≠ .tile ∧ f.b.kind ≠ .tile ∧ f.a.val.toNat = 32768 ∧ f.b.val.toNat = 4096 ∧
      (postAt n).queueAt f.fr.ctx 32768 = some (5, queue0 0) ∧ (homeQuad (queue0 0).headerPa).isSome = true ∧ (postAt n).before f.src 0xFF = false ∧
      f.entryFree f.h.t1 = true ∧ (postAt n).read64 32768 = n ∧ ∃ p l, f.readGroup (postAt n) 4096 = .ok (p, l) ∧ p.ext = 0 := by
  have h : ∀ n ∈ [15, 16], fires (.cpqpost h2) (postAt n) = true ∧
      let f := shot (.cpqpost h2) (postAt n)
      f.a.kind ≠ .tile ∧ f.b.kind ≠ .tile ∧ f.a.val.toNat = 32768 ∧ f.b.val.toNat = 4096 ∧
        (postAt n).queueAt f.fr.ctx 32768 = some (5, queue0 0) ∧ (homeQuad (queue0 0).headerPa).isSome = true ∧ (postAt n).before f.src 0xFF = false ∧
        f.entryFree f.h.t1 = true ∧ (postAt n).read64 32768 = n ∧ (match f.readGroup (postAt n) 4096 with | .ok q => q.1.ext == 0 | _ => false) = true := by
    decide +kernel
  intro n hn
  obtain ⟨a, b, c, d, e, g, i, j, k, l, m⟩ := h n hn
  refine wit a ⟨b, c, d, e, g, i, j, k, l, ?_⟩
  revert m
  cases hr : (shot (.cpqpost h2) (postAt n)).readGroup (postAt n) 4096 with
  | ok q => intro m; simp only [beq_iff_eq] at m; exact ⟨q.1, q.2, rfl, m⟩
  | error e => intro m; cases m

/-- CPQPOST behind an earlier store. -/
theorem test_witness_CopyInstructions_queue_before :
    fires (.cpqpost h2) (waiting1 (postAt 0)) = true ∧ (waiting1 (postAt 0)).before (shot (.cpqpost h2) (waiting1 (postAt 0))).src 0xFF = true ∧
      groupOk (.cpqpost h2) (waiting1 (postAt 0)) = true ∧ (waiting1 (postAt 0)).queueAt 1 32768 = some (5, queue0 0) := by decide +kernel

/-- CPSTAT of a number not taken, of one that has completed, and of copies that wait, run and are parked. -/
def statAt (a : Nat) (l : List Copy) : State :=
  let s := rd (.cpstat h2) a 0 0
  { s with copies := l.zipIdx.map fun p => (p.2, p.1), pe := { s.pe with pctx := [(2048, { PeCtx.reset with tlc := { taken := 1, done := 0, early := [] } })] } }

theorem test_witness_CopyInstructions_cpstat :
    (∃ f, Fires (.cpstat h2) (statAt 2 []) f ∧ f.a.kind ≠ .tile ∧ ((statAt 2 []).pctx f.fr.ctx f.pe).tlc.taken < f.a.val.toNat) ∧
    (∀ l ∈ [[], [copyK smallPacket none .accepted], [copyK smallPacket none .running], [copyK smallPacket none (.parked 1)]],
      ∃ f, Fires (.cpstat h2) (statAt 1 l) f ∧ f.a.kind ≠ .tile ∧ f.a.val.toNat ≤ ((statAt 1 l).pctx f.fr.ctx f.pe).tlc.taken ∧ f.clear = true ∧
        ((statAt 1 l).copies.filter fun p => p.2.src.ctx == f.fr.ctx && p.2.src.pe == f.pe).length = l.length) := by
  refine ⟨wit ?_ ?_, wits ?_⟩ <;> decide +kernel

/-! ### The copy unit -/

/-- The machine with copies 3 and 4. -/
def withCopies (l : List (Nat × Copy)) : State := { paged base with copies := l }
def route0 : RingRoute := { pe := 0, ring := 0, first := 2 ^ 32 - 1, count := 1, rows := 15, cols := 15, width := 0 }
def ringPacket : Packet := { source := 0, dest := 0, len0 := 256, dims := [(1, 0, 0)], signal := 0, wait := true, ext := 0 }

theorem test_witness_CopyEvents_start :
    (∀ k ∈ [copyK smallPacket none .accepted, copyK ringPacket (some route0) .accepted, copyK { smallPacket with wait := true } none .accepted],
      (withCopies [(4, k)]).copies.get? 4 = some k ∧ k.phase = .accepted ∧ (withCopies [(4, k)]).copyLive k = true ∧
        (∀ p ∈ (withCopies [(4, k)]).copies, p.1 < 4 → p.2.samePoster k = false)) ∧
    (
      let k := copyK { smallPacket with wait := true } none .accepted
      let s := withCopies [(3, copyK smallPacket none .running), (4, k)]
      s.copies.get? 4 = some k ∧ k.packet.wait = true ∧ ∃ q, s.copies.get? 3 = some q ∧ q.queue = k.queue ∧ q.poster = k.poster) :=
  ⟨by decide +kernel, by decide +kernel, by decide +kernel, ⟨_, rfl, rfl, rfl⟩⟩

/-- The pieces of a copy whose runs overlap. -/
theorem test_witness_CopyEvents_pieces :
    smallPacket.runs[1]? = some (4160, 8224) ∧ 39 < smallPacket.len0 := by decide +kernel

theorem test_witness_CopyEvents_complete :
    (∀ k ∈ [copyK smallPacket none .running, { copyK smallPacket none .running with tlc := none, queue := some 5 }, { copyK smallPacket none .running with aborted := true },
        { copyK ringPacket (some route0) .running with beat := 4 }, copyK { smallPacket with signal := 2 ^ 56 - 8 } none .running],
      let s := withQueue (queue0 0) (withCopies [(4, k)])
      s.copies.get? 4 = some k ∧ k.phase = .running ∧ s.copyBusy 4 = false ∧ s.packetsOut 4 = false ∧ s.dev.queues.get? 5 = some (queue0 0) ∧
        (k.aborted = true ∨ k.route = none ∨ k.packet.bytes ≤ 64 * k.beat)) ∧
    (
      let k := copyK { smallPacket with signal := 2 ^ 30 - 8 } none .running
      (withCopies [(4, k)]).check1 k.src.ctx [k.src.pe, 2048 + k.src.pe / 256] .atomic k.packet.signal = .ok (2 ^ 30 - 8) 0 false ∧ k.aborted = false ∧
        k.packet.signal ≠ 0 ∧ reachable k.packet.signal 8 ∧ (homeQuad (2 ^ 30 - 8)).isSome = true) := by unfold reachable; decide +kernel

theorem test_witness_CopyEvents_ring :
    ∀ head ∈ [2 ^ 32 - 1, 0],
      let k := copyK ringPacket (some route0) .running
      let s := mail (.headUpdate 4 head 16) (.pe 0) 7 (withCopies [(4, k)])
      firstMail (.headUpdate 4 head 16) (.pe 0) 7 s = true ∧ s.copies.get? 4 = some k ∧ k.route = some route0 ∧ k.aborted = false ∧ route0.rows < 16 ∧
        route0.cols < 16 ∧ route0.width < 3 := by decide +kernel

def bell (door read : Nat) : State :=
  mail (.devWrite (0x03000000 + 64 * 5) ((le 8 door).map (BitVec.ofNat 8)) (some 0) none) .io 0
    (poke (32768 + 64) (cpPacket 0 8192 40 2 0 0) (poke (32768 + 8) (le 8 read) (withQueue (queue0 0) base)))

theorem test_witness_CopyEvents_doorbell :
    ∀ x ∈ [(1, 0), (0, 0), (2 ^ 40, 16)],
      let s := bell x.1 x.2
      let b := s.readBytes ((queue0 0).slotPa (s.read64 ((queue0 0).headerPa + 8))) 64
      firstMail (.devWrite (0x03000000 + 64 * 5) ((le 8 x.1).map (BitVec.ofNat 8)) (some 0) none) .io 0 s = true ∧ s.dev.queues.get? 5 = some (queue0 0) ∧
        (queue0 0).valid = true ∧ s.issuing 1 = true ∧ s.read64 ((queue0 0).headerPa + 8) = x.2 ∧ fieldAt b 63 1 = 1 ∧ fieldAt b 62 1 = 0 ∧
        s.poisoned ((queue0 0).slotPa x.2) = false ∧ s.copiesOn 0 < 512 ∧ (packetOf b).isSome = true := by decide +kernel

theorem test_witness_CopyEvents_registration :
    ∀ off ∈ [0x02000000, 0x02000000 + 32 * 32768 - 8],
      let s := mail (.devWrite off ((le 8 1).map (BitVec.ofNat 8)) (some 1) none) .io 0 base
      firstMail (.devWrite off ((le 8 1).map (BitVec.ofNat 8)) (some 1) none) .io 0 s = true ∧ devKind off = .registration ∧ s.frozenBy off = none := by decide +kernel

/-- A write that sets Valid (or not) in registration 5, whose header, at an address of normal memory, gives a number of slots. -/
def registering (valid slots : Nat) : State :=
  let s := poke 32768 (le 24 0 ++ le 8 slots) (paged base)
  mail (.devWrite (0x02000000 + 32 * 5 + 8) ((le 8 (1 + valid * 2 ^ 16)).map (BitVec.ofNat 8)) (some 0) none) .io 0
    (s.devPut (0x02000000 + 32 * 5) ((le 8 32768).map (BitVec.ofNat 8)))
/-- The registers after that write. -/
def written (valid slots : Nat) : State :=
  ((registering valid slots).taken 7).devPut (0x02000000 + 32 * 5 + 8) ((le 8 (1 + valid * 2 ^ 16)).map (BitVec.ofNat 8))

/-- A sound header, one of too few slots, and the write that clears Valid of a queue. -/
theorem test_witness_CopyEvents_registers :
    (∀ x ∈ [(1, 16), (1, 8), (0, 16)],
      ((registering x.1 x.2).devMsg 7).isSome = true ∧ (written x.1 x.2).regValid 5 = (x.1 == 1) ∧
        (written x.1 x.2).devNat (0x02000000 + 32 * 5 + 8) 2 = 1 ∧ (written x.1 x.2).devNat (0x02000000 + 32 * 5) 8 = 32768 ∧
        ((written x.1 x.2).ctx? 1).map (fun x => x.part) = some 0) ∧
    ((written 1 16).newQueue 5 1 32768).isSome = true ∧ (written 1 8).newQueue 5 1 32768 = none ∧
      (withQueue (queue0 0) (written 0 16)).dev.queues.get? 5 = some (queue0 0) ∧ (registering 0 16).copies = [] := by decide +kernel

end Sys2Proof.Tests
end

