-- ==== Sys2Proof/Tests/Tasks.lean ====
section
/-! SUPPORT. Witnesses that the hypotheses of the statements about tasks, joins, futures, deques, work queues and the quads can be met together. -/

set_option Elab.async false

namespace Sys2Proof.Tests

open Sys2Proof.Machine

/-! ### The task instructions -/

/-- A continuation record: code, join, Flags and five arguments. -/
def recBytes (flags : Nat) : List Nat := le 8 0 ++ le 8 0 ++ le 8 flags ++ (List.range 5).flatMap fun i => le 8 (i + 1)

/-- A dependence descriptor of one read and one write range. -/
def depBytes : List Nat := [1, 1] ++ List.replicate 14 0 ++ le 8 8192 ++ le 8 64 ++ le 8 8192 ++ le 8 128

def tkRun (i : Instr) (a b : Nat) : State := poke 8192 depBytes (poke 4096 (recBytes (9 * 2 ^ 16)) (paged (rd i a b 0)))
def spx (place : Nat) : SpawnX := { prio := 3, place := BitVec.ofNat 2 place }

/-- A check that answers, with an answer that has a property. -/
def okAnd {α ε : Type} (e : Except ε α) (p : α → Bool) : Bool :=
  match e with
  | .ok a => p a
  | .error _ => false

theorem except_of {α ε : Type} {e : Except ε α} {p : α → Bool} (h : okAnd e p = true) : ∃ a, e = .ok a ∧ p a = true := by
  cases e with
  | ok a => exact ⟨a, rfl, h⟩
  | error _ => cases h

/-- What SPAWND reads. -/
def spawndOk (f : Firing) (s : State) (l : List Byte) : Bool :=
  match recOfBytes l with
  | none => false
  | some r => okAnd (f.fetchObject s f.b 16) fun d0 => okAnd (f.fetchObject s f.b (16 + 16 * (min 8 (fieldAt d0 0 1) + min 8 (fieldAt d0 1 1)))) fun d =>
      descRanges d r.regs == some ([(8192, 64)], [(8192, 128)])

theorem test_witness_TaskInstructions_spawn :
    (∀ p ∈ [0, 3], ∃ f, Fires (.spawn h2 (spx p)) (tkRun (.spawn h2 (spx p)) 4096 7) f ∧ f.a.kind ≠ .tile ∧ f.b.kind ≠ .tile ∧
      (tkRun (.spawn h2 (spx p)) 4096 7).before f.src 0xFF = false ∧ (∃ l, f.fetchObject (tkRun (.spawn h2 (spx p)) 4096 7) f.a 64 = .ok l ∧ (recOfBytes l).isSome = true) ∧
      (tkRun (.spawn h2 (spx p)) 4096 7).queueRoom ((tkRun (.spawn h2 (spx p)) 4096 7).placeQuad f.x (spx p).place.toNat (quadOfPe f.pe)) 3 = true) ∧
    (∃ f, Fires (.spawnd h2 (spx 1)) (tkRun (.spawnd h2 (spx 1)) 4096 8192) f ∧ f.a.kind ≠ .tile ∧ f.b.kind ≠ .tile ∧
      ∃ l, f.fetchObject (tkRun (.spawnd h2 (spx 1)) 4096 8192) f.a 64 = .ok l ∧ spawndOk f (tkRun (.spawnd h2 (spx 1)) 4096 8192) l = true) := by
  constructor
  · have h : ∀ p ∈ [0, 3], let i : Instr := .spawn h2 (spx p)
        let s := tkRun i 4096 7
        let f := shot i s
        fires i s = true ∧ f.a.kind ≠ .tile ∧ f.b.kind ≠ .tile ∧ s.before f.src 0xFF = false ∧
          okAnd (f.fetchObject s f.a 64) (fun l => (recOfBytes l).isSome) = true ∧
          s.queueRoom (s.placeQuad f.x (spx p).place.toNat (quadOfPe f.pe)) 3 = true := by decide +kernel
    intro p hp
    obtain ⟨a, b, c, d, e, g⟩ := h p hp
    exact wit a ⟨b, c, d, except_of e, g⟩
  · have h : okAnd ((shot (.spawnd h2 (spx 1)) (tkRun (.spawnd h2 (spx 1)) 4096 8192)).fetchObject (tkRun (.spawnd h2 (spx 1)) 4096 8192)
        (shot (.spawnd h2 (spx 1)) (tkRun (.spawnd h2 (spx 1)) 4096 8192)).a 64)
        (spawndOk (shot (.spawnd h2 (spx 1)) (tkRun (.spawnd h2 (spx 1)) 4096 8192)) (tkRun (.spawnd h2 (spx 1)) 4096 8192)) = true := by decide +kernel
    exact wit (by decide +kernel) ⟨by decide +kernel, by decide +kernel, except_of h⟩

/-- SPAWN and SPAWND that read their record before, as they wait behind an earlier store, and with no place. -/
def waited (i : Instr) : State := (waiting1 (tkRun i 4096 8192)).modFrame 0 fun fr => { fr with fetched := [(0, (recBytes (9 * 2 ^ 16) ++ depBytes).map (BitVec.ofNat 8))] }
def crowdedUnit (i : Instr) : State :=
  let s := tkRun i 4096 8192
  { s with task := { s.task with queues := (List.range 4096).map fun n =>
      { num := n, ctx := 1, record := { code := 0, join := 0, regs := 9, fa := false, place := 0, prio := 3, dep := none, args := [0, 0, 0, 0, 0], g5 := none }
        tag := none, quad := 0, image := none, since := 0, backed := false } } }

theorem test_witness_TaskInstructions_waits :
    (∀ i ∈ [Instr.spawn h2 (spx 0), .spawnd h2 (spx 1)], fires i (waited i) = true ∧ (waited i).before (shot i (waited i)).src 0xFF = true ∧
      (shot i (waited i)).fr.fetched.get? (shot i (waited i)).idx = some ((recBytes (9 * 2 ^ 16) ++ depBytes).map (BitVec.ofNat 8)) ∧
      (recOfBytes (((recBytes (9 * 2 ^ 16) ++ depBytes).map (BitVec.ofNat 8)).take 64)).isSome = true ∧
      descRanges (((recBytes (9 * 2 ^ 16) ++ depBytes).map (BitVec.ofNat 8)).drop 64) 9 = some ([(8192, 64)], [(8192, 128)])) ∧
    (∀ x ∈ [Instr.spawn h2 (spx 0)], fires x (crowdedUnit x) = true ∧ (crowdedUnit x).before (shot x (crowdedUnit x)).src 0xFF = false ∧
      (crowdedUnit x).queueRoom 0 3 = false) := by decide +kernel

/-- An object that an instruction may use: its checks give one run. -/
def objOk (i : Instr) (s : State) (len : Nat) (need : Need) (kind : Nat) : Bool :=
  match (shot i s).object s (shot i s).a len need kind with
  | .ok ks => ks == [(4096, len)]
  | _ => false

theorem obj_of {i : Instr} {s : State} {len kind : Nat} {need : Need} (h : objOk i s len need kind = true) :
    (shot i s).object s (shot i s).a len need kind = .ok [(4096, len)] := by
  unfold objOk at h
  revert h
  cases hr : (shot i s).object s (shot i s).a len need kind with
  | ok q => intro h; simp only [beq_iff_eq] at h; rw [h]
  | error e => intro h; cases h

def joinTable : List (Instr × Nat × Nat) :=
  [(.jnew h2, 1, 128), (.jnew h2, 2 ^ 32 - 1, 128), (.jnew h2, 0, 128), (.jnew h2, 2 ^ 32, 128), (.jdec h2, 0, 128), (.fnew h2, 0, 512)]

theorem test_witness_TaskInstructions_held :
    ∀ p ∈ joinTable, ∃ f, Fires p.1 (tkRun p.1 4096 p.2.1) f ∧ f.a.kind ≠ .tile ∧ (.b ∈ p.1.data → f.b.kind ≠ .tile ∧ f.b.val.toNat = p.2.1) ∧ f.clear = true ∧
      f.object (tkRun p.1 4096 p.2.1) f.a p.2.2 .object 1 = .ok [(4096, p.2.2)] := by
  have h : ∀ p ∈ joinTable, fires p.1 (tkRun p.1 4096 p.2.1) = true ∧ (shot p.1 (tkRun p.1 4096 p.2.1)).a.kind ≠ .tile ∧
      (.b ∈ p.1.data → (shot p.1 (tkRun p.1 4096 p.2.1)).b.kind ≠ .tile ∧ (shot p.1 (tkRun p.1 4096 p.2.1)).b.val.toNat = p.2.1) ∧
      (shot p.1 (tkRun p.1 4096 p.2.1)).clear = true ∧ objOk p.1 (tkRun p.1 4096 p.2.1) p.2.2 .object 1 = true := by decide +kernel
  intro p hp
  obtain ⟨a, b, c, d, e⟩ := h p hp
  exact wit a ⟨b, c, d, obj_of e⟩

def homeTable : List (Instr × Nat × Nat) :=
  [(.fres h2, 2 ^ 56 - 1, 512), (.fres h2, 2 ^ 56, 512), (.freg h2, 8192, 512), (.dqpush h2, 9, 64), (.dqpop h2, 0, 64), (.dqsteal h2, 0, 64), (.wqput h2, 9, 64), (.wqget h2, 0, 64)]

theorem test_witness_TaskInstructions_home :
    (∀ p ∈ homeTable, ∃ f, Fires p.1 (tkRun p.1 4096 p.2.1) f ∧ f.a.kind ≠ .tile ∧ (.b ∈ p.1.data → f.b.kind ≠ .tile ∧ f.b.val.toNat = p.2.1) ∧
      (tkRun p.1 4096 p.2.1).before f.src 0xFF = false ∧ f.object (tkRun p.1 4096 p.2.1) f.a p.2.2 .object 1 = .ok [(4096, p.2.2)]) ∧
    (∃ f ns, Fires (.freg h2) (tkRun (.freg h2) 4096 8192) f ∧ f.object (tkRun (.freg h2) 4096 8192) f.b 128 .object 1 = .ok ns) ∧
    (∃ f, Fires (.fget h2) (tkRun (.fget h2) 4096 0) f ∧ f.a.kind ≠ .tile ∧ f.object (tkRun (.fget h2) 4096 0) f.a 512 .normalRead 0 = .ok [(4096, 512)]) ∧
    (∃ f, Fires (.yield_ h2) (tkRun (.yield_ h2) 0 0) f ∧ f.clear = true) := by
  have h : ∀ p ∈ homeTable, fires p.1 (tkRun p.1 4096 p.2.1) = true ∧ (shot p.1 (tkRun p.1 4096 p.2.1)).a.kind ≠ .tile ∧
      (.b ∈ p.1.data → (shot p.1 (tkRun p.1 4096 p.2.1)).b.kind ≠ .tile ∧ (shot p.1 (tkRun p.1 4096 p.2.1)).b.val.toNat = p.2.1) ∧
      (tkRun p.1 4096 p.2.1).before (shot p.1 (tkRun p.1 4096 p.2.1)).src 0xFF = false ∧ objOk p.1 (tkRun p.1 4096 p.2.1) p.2.2 .object 1 = true := by decide +kernel
  refine ⟨?_, ?_, wit (by decide +kernel) ⟨by decide +kernel, obj_of (by decide +kernel)⟩, wit (by decide +kernel) (by decide +kernel)⟩
  · intro p hp
    obtain ⟨a, b, c, d, e⟩ := h p hp
    exact wit a ⟨b, c, d, obj_of e⟩
  · have g : okAnd ((shot (.freg h2) (tkRun (.freg h2) 4096 8192)).object (tkRun (.freg h2) 4096 8192) (shot (.freg h2) (tkRun (.freg h2) 4096 8192)).b 128
        .object 1) (fun _ => true) = true := by decide +kernel
    obtain ⟨ks, hk, -⟩ := except_of g
    exact ⟨_, ks, fires_spec (by decide +kernel), hk⟩

/-- PE 0 owns the deque at 16384, which is homed in its quad, and not that at 4096. -/
theorem test_witness_TaskInstructions_owner : homeQuad 16384 = some (quadOfPe 0) ∧ homeQuad 4096 ≠ some (quadOfPe 0) := by decide +kernel

def faultTable : List (Instr × Nat) :=
  [(Instr.jnew h2, 128), (.jdec h2, 128), (.fnew h2, 512), (.fres h2, 512), (.freg h2, 512), (.fget h2, 512), (.dqpush h2, 64), (.dqpop h2, 64),
    (.dqsteal h2, 64), (.wqput h2, 64), (.wqget h2, 64), (.spawn h2 (spx 0), 64), (.spawnd h2 (spx 0), 64)]

theorem test_witness_TaskInstructions_faults :
    (∀ p ∈ faultTable, ∃ f, Fires p.1 (rt p.1 (hn 0 0 0 0) (sc 0) (sc 0)) f ∧ f.a.kind = .tile) ∧
    (∀ p ∈ faultTable, ∃ f, Fires p.1 (rd p.1 (2 ^ 56 - p.2 + 1) 0 0) f ∧ f.a.kind ≠ .tile ∧ f.b.kind ≠ .tile ∧ ¬ reachable f.a.val.toNat p.2) ∧
    (∀ p ∈ faultTable, ∃ f, Fires p.1 (rd p.1 (2 ^ 56 - p.2 - 1) 0 0) f ∧ f.a.kind ≠ .tile ∧ f.b.kind ≠ .tile ∧ reachable f.a.val.toNat p.2 ∧ f.a.val.toNat % 64 ≠ 0) := by
  refine ⟨wits (l := faultTable) ?_, wits (l := faultTable) ?_, wits (l := faultTable) ?_⟩ <;> (try unfold reachable) <;> decide +kernel

/-- Records of SPAWN and SPAWND: out of range at an aligned address, and misaligned, in and out of range. -/
theorem test_witness_TaskInstructions_records :
    ∀ i ∈ [Instr.spawn h2 (spx 0), .spawnd h2 (spx 0)], fires i (rd i (2 ^ 56) 0 0) = true ∧ fires i (rd i (2 ^ 56 + 8) 0 0) = true ∧ fires i (rd i 8 0 0) = true ∧
      (shot i (rd i 8 0 0)).fr.fetched.get? (shot i (rd i 8 0 0)).idx = none ∧ (shot i (rd i (2 ^ 56) 0 0)).a.val.toNat % 64 = 0 ∧
      (shot i (rd i (2 ^ 56 + 8) 0 0)).a.val.toNat % 64 ≠ 0 ∧ .b ∈ i.data ∧ (shot i (rd i 8 0 0)).b.kind ≠ .tile := by decide +kernel

/-! ### Objects at their homes -/

/-- A message of context 1's task that a home may take. -/
def homeMail (m : Msg) (s : State) : Bool :=
  s.msg? 7 == some (envOf m (.quad 16) 7) && s.firstOf 7 (envOf m (.quad 16) 7) src1
def atHome (m : Msg) (l : List Nat) : State := mail m (.quad 16) 7 (poke 4096 l base)
def runs1 : List (Nat × Nat) := [(4096, 512)]

/-- A join of 2 tasks and of the greatest count, of the last, and one that none is left of; a new one at a count of 0 and of 1. -/
theorem test_witness_ObjectHomes_join :
    (∀ w ∈ [2, 2 ^ 32 - 1, 1, 0, 2 + 7 * 2 ^ 56],
      let m : Msg := .join 4096 runs1 none 9 src1
      let s := atHome m (List.replicate 64 0 ++ le 8 w)
      homeMail m s = true ∧ (s.taken 7).objPoison runs1 64 64 = none ∧ (s.taken 7).objPoison runs1 0 64 = none ∧
        leNat ((s.taken 7).objBytes runs1 64 8) = w ∧ w / 2 ^ 32 % 2 ^ 24 = 0) ∧
    (∀ w ∈ [0, 1],
      let m : Msg := .join 4096 runs1 (some 3) 0 src1
      let s := atHome m (List.replicate 64 0 ++ le 8 w)
      homeMail m s = true ∧ s.objectReady 7 src1 (runAt runs1 64) = true ∧ (s.taken 7).objPoison runs1 64 64 = none ∧
        leNat ((s.taken 7).objBytes runs1 64 8) % 2 ^ 32 = w) := by decide +kernel

/-- A future's words: empty, with 1 and with 63 waiters, resolved, poisoned; and one that is no legal state. -/
def futures : List Nat := [0, 2 ^ 62 + 2 ^ 56, 2 ^ 62 + 63 * 2 ^ 56 + 4096, 2 ^ 63 + 5, 2 ^ 63 + 2 ^ 62 + 19]
def futOps : List FutOp := [.fnew, .fget, .fres 5, .freg 8192 8192]

theorem test_witness_ObjectHomes_future :
    (∀ w ∈ futures, ∀ op ∈ futOps,
      let m : Msg := .future 4096 runs1 op [dest0 0] [dest0 1] src1
      let s := atHome m (le 8 w)
      homeMail m s = true ∧ (s.taken 7).objPoison runs1 0 64 = none ∧ leNat ((s.taken 7).objBytes runs1 0 8) = w ∧
        (w / 2 ^ 62 % 4 = 1 ↔ w / 2 ^ 56 % 64 ≠ 0) ∧ s.objectReady 7 src1 (runAt runs1 0) = true ∧ (s.taken 7).futurePoison runs1 w = none ∧
        (s.taken 7).rangePoisoned 8192 64 = false ∧ (s.taken 7).rangePoisoned (8192 + 64) 64 = false ∧
        (w / 2 ^ 62 % 4 < 2 → (s.taken 7).futurePoison runs1 (w + 2 ^ 56) = none)) ∧
    (let m : Msg := .future 4096 runs1 (.fres 1) [] [] src1
     homeMail m (atHome m (le 8 (2 ^ 62))) = true ∧ leNat (((atHome m (le 8 (2 ^ 62))).taken 7).objBytes runs1 0 8) = 2 ^ 62) ∧
    (∀ w ∈ futures,
      let m : Msg := .poison 4096 runs1 19 src1
      homeMail m (atHome m (le 8 w)) = true ∧ ((atHome m (le 8 w)).taken 7).objPoison runs1 0 64 = none ∧
        leNat (((atHome m (le 8 w)).taken 7).objBytes runs1 0 8) = w) := by decide +kernel

/-- Objects beyond a JX window that refuses them: a join, a future that is resolved, registered with and poisoned, a node, a deque and a work queue. -/
def beyond : Nat := refusedKey (2 ^ 52)

theorem test_witness_ObjectHomes_refused :
    (∀ m ∈ [Msg.join 4096 [(beyond, 128)] none 9 src1, .join 4096 [(beyond, 128)] (some 3) 0 src1],
      homeMail m (atHome m []) = true ∧ (atHome m []).objectReady 7 src1 (runAt [(beyond, 128)] 64) = true) ∧
    (∀ m ∈ [Msg.future 4096 [(beyond, 512)] (.fres 5) [dest0 0] [] src1, .future 4096 [(beyond, 512)] (.freg 8192 8192) [dest0 0] [] src1,
        .poison 4096 [(beyond, 512)] 9 src1], homeMail m (atHome m []) = true) ∧
    isRefused beyond = true ∧
    homeMail (.future 4096 runs1 (.freg 8192 beyond) [dest0 0] [] src1) (atHome (.future 4096 runs1 (.freg 8192 beyond) [dest0 0] [] src1) []) = true ∧
    (∀ r ∈ runs1, isRefused r.1 = false) ∧
    (∀ m ∈ [Msg.deque 4096 beyond .steal [dest0 0] [dest0 1] src1, .wqueue 4096 beyond .pop [dest0 0] [dest0 1] src1],
      homeMail m (atHome m []) = true ∧ (atHome m []).task.dqLast = []) := by decide +kernel

/-- A header of two indices and a capacity. -/
def header (lo hi cap : Nat) : List Nat := le 8 lo ++ le 8 hi ++ le 4 cap
def quAt (m : Msg) (lo hi cap : Nat) : State := tabled (atHome m (header lo hi cap))

/-- Deques and work queues, empty, with one entry, full and wrapped, of the least and the greatest capacity; and headers of no capacity. -/
def headers : List (Nat × Nat × Nat) := [(0, 0, 16), (2 ^ 64 - 1, 0, 16), (3, 19, 16), (0, 2 ^ 20, 2 ^ 20)]

theorem test_witness_ObjectHomes_queues :
    (∀ h ∈ headers, ∀ op ∈ [QueOp.push 5, .pop, .steal], ∀ m ∈ [Msg.deque 4096 4096 op [dest0 0] [dest0 1] src1, .wqueue 4096 4096 op [dest0 0] [dest0 1] src1],
      let s := quAt m h.1 h.2.1 h.2.2
      homeMail m s = true ∧ s.task.dqLast = [] ∧ (s.taken 7).poisoned 4096 = false ∧ fieldAt ((s.taken 7).readBytes 4096 64) 20 44 = 0 ∧
        fieldAt ((s.taken 7).readBytes 4096 64) 0 8 = h.1 ∧ fieldAt ((s.taken 7).readBytes 4096 64) 8 8 = h.2.1 ∧
        fieldAt ((s.taken 7).readBytes 4096 64) 16 4 = h.2.2 ∧ (h.2.1 + 2 ^ 64 - h.1) % 2 ^ 64 ≤ h.2.2 ∧
        okAnd ((s.taken 7).entryAt src1.ctx 4096 h.2.1 h.2.2) (fun _ => true) = true ∧
        okAnd ((s.taken 7).entryAt src1.ctx 4096 ((h.2.1 + 2 ^ 64 - 1) % 2 ^ 64) h.2.2) (fun _ => true) = true ∧
        okAnd ((s.taken 7).entryAt src1.ctx 4096 h.1 h.2.2) (fun _ => true) = true) ∧
    (∀ h ∈ [(0, 0, 15), (0, 0, 2 ^ 20 + 1), (0, 17, 16)],
      let m : Msg := .wqueue 4096 4096 .pop [] [] src1
      homeMail m (quAt m h.1 h.2.1 h.2.2) = true ∧ fieldAt (((quAt m h.1 h.2.1 h.2.2).taken 7).readBytes 4096 64) 16 4 = h.2.2) := by decide +kernel

/-- A steal and a push in a cycle in which a pop of PE 1 was taken, and a push in the next: the home quad's PEs follow PE 1 in rotation. -/
def turning (op : QueOp) (cycle : Nat) : State :=
  let s := atCycle cycle (quAt (.deque 16384 16384 op [] [] src1) 0 3 16)
  { s with task := { s.task with dqLast := [(16384, { cycle := 5, rank := 16 + 2, kind := 1, winner := some 1, base := none })] } }

theorem test_witness_ObjectHomes_turns :
    (∀ x ∈ [(QueOp.steal, 5), (QueOp.push 5, 5), (QueOp.push 5, 6)], homeMail (.deque 16384 16384 x.1 [] [] src1) (turning x.1 x.2) = true ∧
      ((turning x.1 x.2).task.dqLast.get? 16384).isSome = true ∧ (turning x.1 x.2).sched.cycle = x.2) ∧
    homeQuad 16384 = some (quadOfPe src1.pe) ∧
    (DqTurn.next ((turning .steal 5).task.dqLast.get? 16384) 16384 0 .steal 5).rank = 2 * 16 + 2 ∧
    (DqTurn.next ((turning (.push 5) 5).task.dqLast.get? 16384) 16384 0 (.push 5) 5).rank < 18 := by decide +kernel

/-! ### Tasks in the quads -/

def rec0 (prio : Nat) : Rec :=
  { code := 0, join := 0, regs := 9, fa := false, place := 0, prio := prio, dep := none, args := [1, 2, 3, 4, 5], g5 := none }
def entry0 (n prio : Nat) : QEntry := { num := n, ctx := 1, record := rec0 prio, tag := none, quad := 0, image := none, since := 0, backed := false }
def queued (l : List QEntry) (s : State) : State := { s with task := { s.task with queues := l } }

/-- Records of which the second is the oldest of the highest priority, and PE 0 pops it. -/
theorem test_witness_TaskScheduling_pop :
    (base.firstRecord [entry0 1 0, entry0 2 3, entry0 3 3] = some (entry0 2 3)) ∧
    (let s := queued [entry0 1 0, entry0 2 3, entry0 3 3] base
     s.mayPop 0 = true ∧ (s.popOrder (quadOfPe 0)).find? s.mayPop = some 0 ∧ s.nextRecord 0 = some (none, entry0 2 3) ∧ s.task.waiting = [] ∧
       (entry0 2 3).record.args.length = 5 ∧ (entry0 2 3).image = none ∧ (entry0 2 3).record.dep = none) := by decide +kernel

/-- A task that has ended, with no join and with one at 4096. -/
def ended (join : Nat) : State :=
  let s := paged base
  { s with pe := { s.pe with frames := [], tasks := s.pe.tasks.map fun p => (p.1, { p.2 with ending := some src1, record := { p.2.record with join := join } }) } }

theorem test_witness_TaskScheduling_end :
    (∀ j ∈ [0, 4096], ∃ tk, (ended j).task? 0 0 = some tk ∧ tk.ending = some src1 ∧ tk.endEntry = none ∧ (ended j).issuing tk.ctx = true ∧
      (ended j).taskBusy tk.ctx 0 0 = false ∧ tk.record.dep = none ∧ tk.abnormal = none ∧ tk.record.join = j) ∧
    ((ended 4096).releaseTask 0 0).checkRange src1.ctx 0 .object 4096 128 = .ok [(4096, 128)] ∧ reachable 4096 128 ∧
    ((ended 4096).releaseTask 0 0).objPoison [(4096, 128)] 64 64 = none := by
  refine ⟨?_, by decide +kernel, by unfold reachable; decide, by decide +kernel⟩
  intro j hj
  simp only [List.mem_cons, List.not_mem_nil, or_false] at hj
  rcases hj with rfl | rfl <;> exact ⟨_, rfl, rfl, rfl, by decide +kernel, by decide +kernel, rfl, rfl, rfl⟩

/-- An entry of die 0 that reads and writes the last bytes of the entry before it; the same apart from it; entries that wait, and do not. -/
def dep0 (order base_ : Nat) : Dep :=
  { ctx := 1, order := order, reads := [(base_, 64)], writes := [(base_, 64)], record := rec0 1, place := 1, pe := 0, waits := [], renames := []
    released := false, ended := false }
def depped (m : Option Dep) (l : List (Nat × Dep)) : State :=
  let s := { base with task := { base.task with deps := l } }
  match m with
  | some d => mail (.depSubmit 0 d src1 [dest0 0]) (.die 0) 5 s
  | none => s

theorem test_witness_TaskScheduling_dependences :
    (∀ b ∈ [64, 0, 127],
      let d := dep0 0 b
      let s := depped (some d) [(0, dep0 0 64)]
      firstMail (.depSubmit 0 d src1 [dest0 0]) (.die 0) 5 s = true ∧ s.task.deps.get? 1 = none ∧ (∀ p ∈ s.task.deps, p.2.order < s.sched.serial) ∧
        rangesMeet d.reads (dep0 0 64).writes = (b != 0)) ∧
    (∀ d ∈ [dep0 0 64, { dep0 0 64 with waits := [1] }],
      (depped none [(0, d)]).task.deps.get? 0 = some d ∧ (depped none [(0, d)]).ctx? 1 = some (wordCtx 0) ∧ d.released = false ∧
        (depped none [(0, d)]).queueRoom ((depped none [(0, d)]).placeQuad (wordCtx 0) d.place (quadOfPe d.pe)) d.record.prio = true) ∧
    (let r : Rename := { j := 0, base := 64, len := 64, shadow := 2 ^ 60, back := false }
     let d := { dep0 0 64 with ended := true, renames := [r] }
     let s := depped none [(0, d), (1, { dep0 3 64 with waits := [0] })]
     s.task.deps.get? 0 = some d ∧ Tab.sorted s.task.deps = true ∧ (∀ p ∈ s.task.deps, p.2.ctx = d.ctx → d.order ≤ p.2.order) ∧ d.ended = true) := by
  decide +kernel

/-- A cycle that calls for reports, a quad idle for 19000 cycles, and one that wakes. -/
def gatedQuad : State :=
  { atCycle 4750 base with task := { base.task with power := [(511, { idleSince := 0, gated := true, waking := some 0 })] } }

theorem test_witness_TaskScheduling_quads :
    ((atCycle 64 base).sched.cycle % 64 = 0 ∧ (atCycle 64 base).task.costs.get? 7 = none) ∧
    (((atCycle 19000 base).quadPower 511).gated = false ∧ (atCycle 19000 base).quadBusy 511 = false ∧ (atCycle 19000 base).holdsHalted 511 = false ∧
      ((atCycle 19000 base).quadPower 511).idleSince + 19000 ≤ (atCycle 19000 base).sched.cycle) ∧
    ((gatedQuad.quadPower 511).gated = true ∧ (gatedQuad.quadPower 511).waking = some 0 ∧ 0 + 4750 ≤ gatedQuad.sched.cycle) := by decide +kernel

/-- The four PEs of quad 0 full of tasks of context 2, whose one token is less than context 1's two; a record of context 1 waits. -/
def fullQuad (est : Nat) (steps timg : Nat) (frames : Bool) : State :=
  let t : Task := { wordTask (wordCfg { base := 0, second := 0 }) 0 with ctx := 2, estWord := BitVec.ofNat 64 est, steps := steps }
  let s := queued [entry0 9 3] (atCycle 2048 base)
  let x := wordCtx 0
  let f := wordFrame (wordCfg { base := 0, second := 0 }) 1 0
  { s with ctxs := [(1, { x with regs := { x.regs with prio := 2 } }), (2, { x with slot := 1, regs := { x.regs with timg := BitVec.ofNat 64 timg } })]
           pe := { s.pe with frames := if frames then [(0, { f with ctx := 2, isOpen := false })] else []
                             tasks := [0, 1, 16, 17].flatMap fun pe => (List.range 16).map fun k => (pe * 16 + k, t) }
           task := { s.task with blockedSince := [(9, 0)] } }

def shortEnough (s : State) : Bool :=
  match s.victimFor 0 (entry0 9 3) with
  | some (k, tk) => k == 0 && s.pe.tasks.get? k == some tk && tk.ctx == 2 && (s.ctx? 2).isSome
  | none => false

/-- Estimates just within and just past 40000 cycles, unknown, and with and without the bit that permits a kill, a step and an image. -/
theorem test_witness_TaskScheduling_preempt :
    ∀ p ∈ [(42048, 0, 0), (42049, 1, 2048), (0x7FFFFFFF, 0, 0), (42049, 1, 0), (0xFFFFFFFF, 0, 0)],
      let s := fullQuad p.1 p.2.1 p.2.2 true
      s.task.blockedSince.get? 9 = some 0 ∧ s.blockedRecords 0 = [entry0 9 3] ∧ 0 + 2048 ≤ s.sched.cycle ∧ s.task.victim.get? 0 = none ∧
        shortEnough s = true ∧ (∃ p ∈ s.pe.frames, p.1 / 256 = 0 / 16 ∧ p.2.task = 0 % 16) ∧
        (∀ p ∈ s.pe.frames, p.1 / 256 = 0 / 16 → p.2.task = 0 % 16 → p.2.isOpen = false) := by decide +kernel

end Sys2Proof.Tests
end

