-- ==== Sys2Proof/Tests/System.lean ====
section
/-! SUPPORT. Witnesses that the hypotheses of the statements about system, debug and Kiln instructions, tokens, frames, halts, the Kilns, the device and
the machine as a whole can be met together. -/

set_option Elab.async false

namespace Sys2Proof.Tests

open Sys2Proof.Machine

/-! ### System instructions -/

/-- Context 1 is no manager. -/
def commoner (s : State) : State := s.modCtx 1 fun x => { x with mgr := false }

def srrTable : List Nat := (List.range 22).filter fun n => n != 0x12

theorem test_witness_SystemInstructions_srr :
    (∀ n ∈ srrTable, ∃ f, Fires (.srr h2 (BitVec.ofNat 32 n)) (rd (.srr h2 (BitVec.ofNat 32 n)) 0 0 0) f ∧ f.clear = true ∧ (BitVec.ofNat 32 n).toNat = n) ∧
    (∃ f, Fires (.srr h2 0x12) (rd (.srr h2 0x12) 0 0 0) f ∧ f.clear = true ∧ ((rd (.srr h2 0x12) 0 0 0).task? f.pe f.fr.task).isSome = true) :=
  ⟨wits (l := srrTable) (by decide +kernel), wit (by decide +kernel) (by decide +kernel)⟩

/-- SRW: register, value, whether the value is legal, and whether a manager alone may write it; the bounds of each. -/
def srwTable : List (Nat × Nat × Bool × Bool) :=
  [(0x03, 0, false, false), (0x03, 1, true, false), (0x03, 64, true, true), (0x03, 65, false, true), (0x05, 31, true, true), (0x05, 32, false, true), (0x06, 1, true, false),
    (0x06, 2, false, false), (0x07, 2 ^ 64 - 1, true, false), (0x08, 0, true, true), (0x08, 1, true, false), (0x09, 0, true, false), (0x0A, 2 ^ 32 - 1, true, true),
    (0x0A, 2 ^ 32, false, true), (0x0B, 256, true, false), (0x0B, 257, false, false), (0x0E, 127, true, false), (0x0E, 128, false, false), (0x13, 2 ^ 56 - 64, true, true),
    (0x13, 2 ^ 56, false, true), (0x15, 2048, true, true), (0x15, 1024, false, true)]

def srwLegal (n a : Nat) : Prop :=
  (n = 0x03 → 1 ≤ a ∧ a ≤ 64) ∧ (n = 0x05 → a < 32) ∧ (n = 0x06 → a < 2) ∧ (n = 0x0A → a < 2 ^ 32) ∧ (n = 0x0B → a ≤ 256) ∧ (n = 0x0E → a < 128) ∧
    (n = 0x13 → (a + 1 ≤ 2 ^ 56 ∨ (2 ^ 64 - 2 ^ 56 ≤ a ∧ a + 1 ≤ 2 ^ 64)) ∧ a % 64 = 0) ∧
    (n = 0x15 → (a + 1 ≤ 2 ^ 56 ∨ (2 ^ 64 - 2 ^ 56 ≤ a ∧ a + 1 ≤ 2 ^ 64)) ∧ a % 2048 = 0)

theorem test_witness_SystemInstructions_srw :
    (∀ p ∈ srwTable, ∃ f, Fires (.srw h2 (BitVec.ofNat 32 p.1)) (rd (.srw h2 (BitVec.ofNat 32 p.1)) p.2.1 0 0) f ∧ f.a.kind = .scalar ∧ f.clear = true ∧
      f.a.val.toNat = p.2.1 ∧ f.x.mgr = true ∧ (p.2.2.1 = true ↔ srwLegal p.1 f.a.val.toNat) ∧
      (p.2.2.2 = true ↔ p.1 ∈ [0x05, 0x0A, 0x13, 0x15] ∨ (p.1 = 0x03 ∧ f.x.regs.prio < f.a.val.toNat) ∨ (p.1 = 0x08 ∧ f.a.val.toNat = 0))) ∧
    (∀ p ∈ srwTable, ∃ f, Fires (.srw h2 (BitVec.ofNat 32 p.1)) (commoner (rd (.srw h2 (BitVec.ofNat 32 p.1)) p.2.1 0 0)) f ∧ f.a.kind = .scalar ∧ f.x.mgr = false) := by
  refine ⟨wits (l := srwTable) ?_, wits (l := srwTable) (by decide +kernel)⟩
  unfold srwLegal; decide +kernel

/-- A handle as the operand of SRW, where a manager alone may write and where any may; and a second write of one register in an activation. -/
theorem test_witness_SystemInstructions_srw_refused :
    (∀ n ∈ [0x05, 0x07], ∀ m ∈ [true, false],
      ∃ f, Fires (.srw h2 (BitVec.ofNat 32 n)) ((rt (.srw h2 (BitVec.ofNat 32 n)) (hn 0 0 0 0) (sc 0) (sc 0)).modCtx 1 fun x => { x with mgr := m }) f ∧
        f.a.kind = .tile ∧ f.x.mgr = m) ∧
    (∃ f, Fires (.srw h2 7) ((rd (.srw h2 7) 5 0 0).hold 0 (.srw 7 9)) f ∧ f.a.kind = .scalar ∧ Effect.srw 7 9 ∈ f.fr.held) := by
  have h : ∀ n ∈ [0x05, 0x07], ∀ m ∈ [true, false], fires (.srw h2 (BitVec.ofNat 32 n))
      ((rt (.srw h2 (BitVec.ofNat 32 n)) (hn 0 0 0 0) (sc 0) (sc 0)).modCtx 1 fun x => { x with mgr := m }) = true := by decide +kernel
  refine ⟨fun n hn m hm => wit (h n hn m hm) ?_, wit (by decide +kernel) (by decide +kernel)⟩
  revert n m
  decide +kernel

theorem test_witness_SystemInstructions_rest :
    (∀ i ∈ [Instr.trap h2 0xFFFFFFFF, .hcall h2 7, .remestImm h2 0x80000000, .remest h2, .hbeat h2, .pwrhint h2 3, .ckpt h0],
      ∃ f, Fires i (rd i 5 6 0) f ∧ f.a.kind ≠ .tile ∧ f.b.kind ≠ .tile ∧ f.clear = true) ∧
    (∃ tk, (rd (.ckpt h0) 0 0 0).task? 0 0 = some tk ∧ tk.stack = [] ∧ ∀ t ∈ tk.regs.take tk.nregs, t.kind ≠ .tile) ∧
    (∃ f, Fires (.ckpt h0) ((rd (.ckpt h0) 0 0 0).modTask 0 0 fun t => { t with stack := [64] }) f ∧ f.pe = 0 ∧ f.fr.task = 0) ∧
    (∀ i ∈ [Instr.ctxnew h2, .ctxhalt h2, .ctxres h2], ∃ f, Fires i (commoner (rd i 0 0 0)) f ∧ f.x.mgr = false) :=
  ⟨wits (by decide +kernel), ⟨_, rfl, rfl, by decide +kernel⟩, wit (by decide +kernel) (by decide +kernel), wits (by decide +kernel)⟩

theorem test_witness_SystemInstructions_contexts :
    (∃ f, Fires (.ctxnew h2) (tkRun (.ctxnew h2) 4096 0) f ∧ f.x.mgr = true ∧ f.clear = true ∧ f.object (tkRun (.ctxnew h2) 4096 0) f.a 64 .object 1 = .ok [(4096, 64)]) ∧
    (∀ p ∈ [(Instr.ctxhalt h2, 0), (.ctxhalt h2, 1), (.ctxhalt h2, 2), (.ctxres h2, 3), (.ctxres h2, 4)], ∃ f, Fires p.1 (rd p.1 1 p.2 0) f ∧ f.x.mgr = true ∧
      f.a.kind ≠ .tile ∧ f.b.kind ≠ .tile ∧ f.clear = true ∧ f.b.val.toNat = p.2) :=
  ⟨wit (by decide +kernel) ⟨by decide +kernel, by decide +kernel, obj_of (by decide +kernel)⟩, wits (by decide +kernel)⟩

/-- A store of another activation that is on its way. -/
def usedBy : Access := { acc0 true (.store none) with src := { src1 with uid := 77 } }

/-- ATINV words: die and package, each size, of this address space and of another; one that an access still uses, and one that a manager alone may name. -/
theorem test_witness_SystemInstructions_atinv :
    (∀ b ∈ [2, 3 + 2 * 2 ^ 6, 3 + 3 * 2 ^ 6, 2 + 2 ^ 5 + 9 * 2 ^ 32], ∃ f, Fires (.atinv h2) (paged (rd (.atinv h2) (2 ^ 56 - 1) b 0)) f ∧ f.a.kind ≠ .tile ∧
      f.b.kind ≠ .tile ∧ f.b.val.toNat = b ∧ f.x.mgr = true ∧ (f.a.val.toNat + 1 ≤ 2 ^ 56) ∧ b / 2 ^ 48 = 0 ∧ b / 2 ^ 8 % 2 ^ 24 = 0 ∧ b / 2 ^ 3 % 4 = 0 ∧
      (b % 8 = 2 ∨ b % 8 = 3) ∧ (∀ p ∈ (paged (rd (.atinv h2) (2 ^ 56 - 1) b 0)).ctxs, p.2.asid = b / 2 ^ 32 % 2 ^ 16 → p.2.part = f.x.part) ∧
      (paged (rd (.atinv h2) (2 ^ 56 - 1) b 0)).usesSpan f.src (f.pe / 256) (b % 8) (if b / 2 ^ 5 % 2 = 1 then b / 2 ^ 32 % 2 ^ 16 else f.x.asid) none = false) ∧
    (∃ f, Fires (.atinv h2) (withAccess usedBy (paged (rd (.atinv h2) 0 2 0))) f ∧
      (withAccess usedBy (paged (rd (.atinv h2) 0 2 0))).usesSpan f.src (f.pe / 256) 2 f.x.asid (some (0, 2 ^ 16)) = true) ∧
    (∃ f, Fires (.atinv h2) (commoner (rd (.atinv h2) 0 (2 + 2 ^ 5) 0)) f ∧ f.a.kind ≠ .tile ∧ f.b.val.toNat / 2 ^ 5 % 2 = 1 ∧ f.x.mgr = false) :=
  ⟨wits (by decide +kernel), wit (by decide +kernel) (by decide +kernel), wit (by decide +kernel) (by decide +kernel)⟩

/-! ### Kiln and debug instructions -/

/-- An object of one block at 64 of context 1, translated on die 0. -/
def kilned (i : Instr) (a b : Nat) : State :=
  let s := withBlocks [0, 3] (paged (rd i a b 0))
  let g := { wordCfg { base := 0, second := 0 } with num := 9, addr := 0, obj := 1 }
  { s with kiln := { s.kiln with entries := [{ die := 0, cfg := g, ctx := 1, asid := 0, native := false, pinned := true, rev := 0, stale := false, used := 0 }] } }

def tcTable : List (Instr × Nat) :=
  [(.tcinv h2, 2), (.tcinv h2, 3 + 2 ^ 6), (.tcinv h2, 2 + 2 * 2 ^ 5 + 2 ^ 7), (.tcpin h2, 2 + 2 ^ 5), (.tcpin h2, 3 + 2 ^ 7), (.tcpre h2, 2)]

theorem test_witness_DebugAndKilnInstructions_tc :
    ∀ p ∈ tcTable, ∃ f dies names, Fires p.1 (kilned p.1 0 p.2) f ∧ f.tcNames (kilned p.1 0 p.2) (p.1 == .tcpre h2) = .ok (dies, names) ∧ dies ≠ [] ∧ names ≠ [] ∧
      (kilned p.1 0 p.2).before f.src 0xFF = false ∧ f.b.val.toNat = p.2 := by
  have h : ∀ p ∈ tcTable, fires p.1 (kilned p.1 0 p.2) = true ∧
      okAnd ((shot p.1 (kilned p.1 0 p.2)).tcNames (kilned p.1 0 p.2) (p.1 == .tcpre h2)) (fun q => !q.1.isEmpty && !q.2.isEmpty) = true ∧
      (kilned p.1 0 p.2).before (shot p.1 (kilned p.1 0 p.2)).src 0xFF = false ∧ (shot p.1 (kilned p.1 0 p.2)).b.val.toNat = p.2 := by decide +kernel
  intro p hp
  obtain ⟨a, b, c, d⟩ := h p hp
  obtain ⟨q, hq, hn⟩ := except_of b
  simp only [Bool.and_eq_true, Bool.not_eq_true', List.isEmpty_eq_false_iff] at hn
  exact ⟨_, q.1, q.2, fires_spec a, hq, hn.1, hn.2, c, d⟩

/-- The head of a code object, its section table, and its code section: one block (R29 to R40). -/
def objHead : List Nat :=
  le 4 0x5A574F42 ++ le 2 1 ++ le 1 1 ++ le 1 1 ++ le 4 0 ++ le 4 2 ++ le 8 384 ++ [83, 57] ++ List.replicate 30 0 ++ le 8 0 ++
    le 8 128 ++ le 4 128 ++ le 2 1 ++ le 2 0 ++ le 8 256 ++ le 4 128 ++ le 2 6 ++ le 2 0 ++ List.replicate 32 0
def objCode : List Nat := le 4 1 ++ le 4 0 ++ le 4 64 ++ le 4 0 ++ List.replicate 48 0 ++ le 4 (0x5B * 2 ^ 24) ++ List.replicate 60 0

/-- Its signature: the two numbers of a signature that OpenSSL 3.0.13 made of the 256 bytes before it, and the key's identifier. -/
def objSig : List Nat :=
  [31, 167, 223, 132, 153, 164, 76, 255, 120, 43, 168, 84, 26, 83, 21, 52, 152, 148, 9, 104, 175, 223, 19, 144, 217, 240, 51, 183, 188, 49, 181, 151,
    180, 173, 244, 88, 138, 195, 41, 128, 204, 174, 215, 180, 124, 49, 187, 194, 136, 48, 51, 92, 118, 120, 228, 39, 44, 170, 133, 218, 66, 100, 64, 137,
    235, 127, 254, 100, 119, 170, 224, 6, 195, 223, 68, 144, 11, 105, 92, 95, 25, 133, 157, 190, 73, 105, 155, 158, 211, 79, 43, 144, 123, 124, 19, 67] ++ le 8 0x123456789abcdef ++ List.replicate 24 0

/-- The public key of OpenSSL's signature. -/
def sslKey : VerifyKey :=
  { ident := 0x123456789abcdef
    x := 0x73b9697016657e42db05ef0fe0efa60a7341329548e47e711f28be1f3a609e7a12f8d265e13cc9d84bbc559b5c4d6e1d
    y := 0x741ab1994fedb4dc2e50fe7cc7958558bc9a0d27d93284d506df6404abc9a91efa87ba4b4a1157ac79952ed57bf2520b }

def objBytes0 : List Byte := (objHead ++ objCode ++ objSig).map (BitVec.ofNat 8)
def loading (b : Nat) : State :=
  let s := poke 4096 (objHead ++ objCode ++ objSig) (poke 8192 (le 8 0 ++ le 8 0) (paged (rd (.objload h2) 4096 b 0)))
  { s with dev := { s.dev with parts := [(0, { tdi := .run, key := some 0, ide := none, noDebug := false, keys := [sslKey] })] } }

def objParts : Parts := (partsOf objBytes0).getD { code := { ty := 0, off := 0, size := 0, reserved := false }, data := none, codeBytes := [], offs := [], types := [], recs := [], nodes := [], images := [], sig := { ty := 0, off := 0, size := 0, reserved := false }, entry := 0 }

theorem parts_of_object : partsOf objBytes0 = some objParts := by
  have h : (partsOf objBytes0).isSome = true := by decide +kernel
  cases hp : partsOf objBytes0 with
  | none => simp [hp] at h
  | some p => simp [objParts, hp]

/-- The signature that OpenSSL made verifies, and that of one byte less does not. -/
theorem test_signature : (loading 0).signed 0 objBytes0 objParts = true := by decide +kernel

theorem test_witness_DebugAndKilnInstructions_objload :
    (∃ f, Fires (.objload h2) (paged (rd (.objload h2) 4096 0 0)) f ∧ okAnd (f.readSpan (paged (rd (.objload h2) 4096 0 0)) 4096 64) (fun hd => !headGood hd 4096) = true) ∧
    (∀ b ∈ [0, 8192], ∃ f, Fires (.objload h2) (loading b) f ∧ f.a.kind ≠ .tile ∧ f.b.kind ≠ .tile ∧ f.a.val.toNat = 4096 ∧ f.b.val.toNat = b ∧
      (loading b).before f.src 0xFF = false ∧
      (∃ hd, f.readSpan (loading b) 4096 64 = .ok hd ∧ (headGood hd 4096 && fieldAt hd 16 8 == 384 && fieldAt hd 12 4 == 2) = true) ∧
      (∃ l, f.readObject (loading b) 4096 384 2 = .ok l ∧ (l == objBytes0) = true) ∧ containerGood objBytes0 objParts = true ∧
      f.stepFive (loading b) (objParts.obj objBytes0 4096 f.fr.ctx []) objParts = true ∧
      repVector (gEdges objParts.recs) (ofKind objParts.recs 1).length = some [] ∧
      (b ≠ 0 → ∃ q, f.graphStart (loading b) b (objParts.obj objBytes0 4096 f.fr.ctx []) = .ok q ∧ true = true) ∧
      lowestFree (Config.maxObjects + 1) (0 :: (loading b).kiln.objects.map Prod.fst) = some 1) := by
  have h : ∀ b ∈ [0, 8192], let f := shot (.objload h2) (loading b)
      fires (.objload h2) (loading b) = true ∧ f.a.kind ≠ .tile ∧ f.b.kind ≠ .tile ∧ f.a.val.toNat = 4096 ∧ f.b.val.toNat = b ∧
      (loading b).before f.src 0xFF = false ∧ okAnd (f.readSpan (loading b) 4096 64) (fun hd => headGood hd 4096 && fieldAt hd 16 8 == 384 && fieldAt hd 12 4 == 2) = true ∧
      okAnd (f.readObject (loading b) 4096 384 2) (fun l => l == objBytes0) = true ∧ containerGood objBytes0 objParts = true ∧
      f.stepFive (loading b) (objParts.obj objBytes0 4096 f.fr.ctx []) objParts = true ∧
      repVector (gEdges objParts.recs) (ofKind objParts.recs 1).length = some [] ∧
      (b ≠ 0 → okAnd (f.graphStart (loading b) b (objParts.obj objBytes0 4096 f.fr.ctx [])) (fun _ => true) = true) ∧
      lowestFree (Config.maxObjects + 1) (0 :: (loading b).kiln.objects.map Prod.fst) = some 1 := by decide +kernel
  refine ⟨wit (by decide +kernel) (by decide +kernel), ?_⟩
  intro b hb
  obtain ⟨a, c, d, e, g, i, j, k, l, m, n, o, p⟩ := h b hb
  exact wit a ⟨c, d, e, g, i, except_of j, except_of k, l, m, n, fun hb0 => except_of (o hb0), p⟩

/-- A trace header of 16 slots at 4096, and a block at 64. -/
def tracing (i : Instr) (a b : Nat) : State := poke (4096 + 24) (le 4 16) (kilned i a b)

/-- Words that name the context itself, by 0 and by its number. -/
theorem test_witness_DebugAndKilnInstructions_trace :
    (∀ b ∈ [0, 1], ∃ f, Fires (.trace h2) (tracing (.trace h2) 4096 b) f ∧ f.a.kind ≠ .tile ∧ f.b.kind ≠ .tile ∧ f.b.val.toNat = b ∧ f.fr.ctx = 1 ∧ f.x.dbgen = true ∧
      (tracing (.trace h2) 4096 b).ctx? 1 = some f.x) ∧
    (∀ k ∈ [0, 8, 24], ∃ f, Fires (.trace h2) (tracing (.trace h2) 4096 (2 ^ 24 + k * 2 ^ 16)) f ∧ f.object (tracing (.trace h2) 4096 (2 ^ 24 + k * 2 ^ 16)) f.a 64 .object 1 = .ok [(4096, 64)] ∧
      (tracing (.trace h2) 4096 (2 ^ 24 + k * 2 ^ 16)).poisoned 4096 = false ∧ leNat ((tracing (.trace h2) 4096 (2 ^ 24 + k * 2 ^ 16)).readBytes (4096 + 24) 4) = 16 ∧
      (tracing (.trace h2) 4096 (2 ^ 24 + k * 2 ^ 16)).checkRange f.fr.ctx f.pe .object (4096 + 64) (64 * 16) = .ok [(4160, 1024)]) := by
  have h : ∀ k ∈ [0, 8, 24], fires (.trace h2) (tracing (.trace h2) 4096 (2 ^ 24 + k * 2 ^ 16)) = true ∧
      objOk (.trace h2) (tracing (.trace h2) 4096 (2 ^ 24 + k * 2 ^ 16)) 64 .object 1 = true ∧
      (tracing (.trace h2) 4096 (2 ^ 24 + k * 2 ^ 16)).poisoned 4096 = false ∧ leNat ((tracing (.trace h2) 4096 (2 ^ 24 + k * 2 ^ 16)).readBytes (4096 + 24) 4) = 16 ∧
      (tracing (.trace h2) 4096 (2 ^ 24 + k * 2 ^ 16)).checkRange (shot (.trace h2) (tracing (.trace h2) 4096 (2 ^ 24 + k * 2 ^ 16))).fr.ctx
        (shot (.trace h2) (tracing (.trace h2) 4096 (2 ^ 24 + k * 2 ^ 16))).pe .object (4096 + 64) (64 * 16) = .ok [(4160, 1024)] := by decide +kernel
  refine ⟨wits (by decide +kernel), fun k hk => ?_⟩
  obtain ⟨a, b, c, d, e⟩ := h k hk
  exact wit a ⟨obj_of b, c, d, e⟩

/-- A breakpoint where there is one, where there are 8 others, and cleared; a counter of the greatest word. -/
def broken (l : List Brk) (i : Instr) (a b : Nat) : State := (kilned i a b).modCtx 1 fun x => { x with breaks := l }
def eight : List Brk := (List.range 8).map fun n => { addr := 128 + 64 * n, count := 0 }

theorem test_witness_DebugAndKilnInstructions_debug :
    (∀ p ∈ [(2 ^ 32 - 2 ^ 24, [{ addr := 0, count := 3 }]), (0, eight), (0, []), (2 ^ 16, eight), (2 ^ 16, [{ addr := 0, count := 3 }])],
      ∃ f, Fires (.brk h2) (broken p.2 (.brk h2) 0 p.1) f ∧ f.a.kind ≠ .tile ∧ f.b.kind ≠ .tile ∧ f.b.val.toNat = p.1 ∧ p.1 / 2 ^ 32 = 0 ∧ p.1 / 2 ^ 17 % 2 ^ 7 = 0 ∧
        (broken p.2 (.brk h2) 0 p.1).typeAt 0 1 f.a.val.toNat = some .code ∧ f.x.breaks = p.2) ∧
    (∀ a ∈ [0, 1, 1 + 255 * 2 ^ 32], ∃ f, Fires (.cntrd h2 7) (rd (.cntrd h2 7) a 0 0) f ∧ f.a.kind ≠ .tile ∧ f.a.val.toNat = a ∧ a / 2 ^ 16 % 2 ^ 16 = 0 ∧ a / 2 ^ 43 = 0 ∧
      f.x.onDie ((if a % 2 ^ 16 = 0 then f.pe else a / 2 ^ 32) / 256) = true) ∧
    (∀ m ∈ [none, some true, some false], ∃ f, Fires (.mark h2 1)
      ((rd (.mark h2 1) 5 0 0).modCtx 1 fun x => { x with trace := m.map fun b => { header := 0, headerPa := 0, slots := 16, pages := [(64, 1024)], omitIdle := false, configs := false, marks := b, k := 0, samples := [] } }) f ∧
      f.a.kind ≠ .tile ∧ (f.x.trace.map fun t => t.marks) = m) :=
  ⟨wits (by decide +kernel), wits (by decide +kernel), wits (by decide +kernel)⟩

/-- Another context, of the same partition and of another, debuggable and not. -/
def twoCtx (mgr : Bool) (part : Nat) (db : Bool) (i : Instr) : State :=
  let s := rd i 0 2 0
  { s with ctxs := [(1, { wordCtx 0 with mgr := mgr }), (2, { wordCtx 0 with slot := 1, part := part, dbgen := db })] }

theorem test_witness_DebugAndKilnInstructions_other :
    ∀ i ∈ [Instr.trace h2, .brk h2], ∀ p ∈ [(false, 0, true), (true, 1, true), (true, 0, false)],
      ∃ f, Fires i (twoCtx p.1 p.2.1 p.2.2 i) f ∧ f.a.kind ≠ .tile ∧ f.b.kind ≠ .tile ∧ f.b.val.toNat = 2 ∧ f.fr.ctx = 1 ∧ f.x.mgr = p.1 ∧ f.x.part = 0 ∧
        ((twoCtx p.1 p.2.1 p.2.2 i).ctx? 2).map (fun x => (x.part, x.dbgen)) = some p.2 := by
  have h : ∀ i ∈ [Instr.trace h2, .brk h2], ∀ p ∈ [(false, 0, true), (true, 1, true), (true, 0, false)],
      fires i (twoCtx p.1 p.2.1 p.2.2 i) = true ∧
        let f := shot i (twoCtx p.1 p.2.1 p.2.2 i)
        f.a.kind ≠ .tile ∧ f.b.kind ≠ .tile ∧ f.b.val.toNat = 2 ∧ f.fr.ctx = 1 ∧ f.x.mgr = p.1 ∧ f.x.part = 0 ∧
          ((twoCtx p.1 p.2.1 p.2.2 i).ctx? 2).map (fun x => (x.part, x.dbgen)) = some p.2 := by decide +kernel
  intro i hi p hp
  exact wit (h i hi p hp).1 (h i hi p hp).2

end Sys2Proof.Tests
end

