-- ==== Sys2Proof/Tests/Machine.lean ====
section
/-! SUPPORT. Witnesses that the hypotheses of the statements about tokens, frames, halts, the Kilns, the device and the machine as a whole can be met
together. -/

set_option Elab.async false

namespace Sys2Proof.Tests

open Sys2Proof.Machine

/-! ### Tokens -/

/-- A token for side and instruction of frame 0 of PE 0, and a frame of SEL that lacks its operands. -/
def tokRaw (t : Tok) (side idx : Nat) : BitVec 128 := tokenRaw 0 t 0 0 0 side idx
def selI : Instr := .sel { pr := .ifTrue, t1 := .none, t0 := .write 0 }
def emptied (s : State) : State := s.modFrame 0 fun f => { f with slots := [] }
def tokAt (raw : BitVec 128) : State := mail (.token raw 1 src1) (.pe 0) 0 (emptied (rd selI 0 0 0))
/-- The same token, refused a number of times. -/
def refusedAt (n : Nat) : State :=
  let s := tokAt (tokRaw (sc 1) 0 0)
  { s with net := [(7, { envOf (.token (tokRaw (sc 1) 0 0) 1 src1) (.pe 0) 0 with wire := tokRaw (sc 1) 0 0 + 2, refused := true, refusals := n })] }

/-- A token that parks, one of a slot that SEL has not, a predicate that does not match, and a null; tokens of a bad parity, of side 3 and of kind 3; one
refused 1, 7 and 8 times. -/
theorem test_witness_TokensArrive_token :
    (∀ p ∈ [(sc 9, 0), (sc 9, 1), (sc 1, 2), (sc 0, 2), (nullTok, 0)],
      firstMail (.token (tokRaw p.1 p.2 0) 1 src1) (.pe 0) 0 (tokAt (tokRaw p.1 p.2 0)) = true ∧
        rawField (tokRaw p.1 p.2 0) 96 2 < 3 ∧ rawField (tokRaw p.1 p.2 0) 71 2 = p.2 ∧ rawTok (tokRaw p.1 p.2 0) = p.1 ∧
        (match (tokAt (tokRaw p.1 p.2 0)).frame? 0 with
          | some f => f.uid == 1 && f.isOpen && f.cfg.instr (rawField (tokRaw p.1 p.2 0) 64 7) == some selI && (f.stat.get? 0).isNone &&
              (f.operand 0 .a).isNone && (f.operand 0 .c).isNone
          | none => false) = true) ∧
    (predMismatch selI.hdr (sc 0) = true ∧ predMismatch selI.hdr (sc 1) = false) ∧
    ((tokAt (tokRaw (sc 1) 0 0 + 2)).ahead 7 (envOf (.token (tokRaw (sc 1) 0 0 + 2) 1 src1) (.pe 0) 0) = true ∧ tokenGood (tokRaw (sc 1) 0 0 + 2) = false) ∧
    (∀ p ∈ [(3, 0), (0, 3)],
      let r := withParity 9 (p.1 * 2 ^ 7 + p.2 * 2 ^ 32)
      firstMail (.token r 1 src1) (.pe 0) 0 (tokAt r) = true ∧ (rawField r 96 2 = 3 ∨ rawField r 71 2 = 3) ∧
        firstMail (.inject r 0) (.pe 0) 4 (mail (.inject r 0) (.pe 0) 4 (withCounters [(0, counter0)] base)) = true) ∧
    (∀ n ∈ [1, 7, 8], ((refusedAt n).msg? 7).map (fun e => (e.refused, e.refusals, e.body.owner)) = some (true, n, some src1) ∧
      ((refusedAt n).ctx? 1).map (fun x => x.state) = some .running) := by
  refine ⟨?_, ?_, ?_, ?_, ?_⟩ <;> decide +kernel

/-- A slot whose instruction has fired or is parked, and is empty; an activation that a fault discards; a message with no source that was refused 8 times. -/
def firedAt (st : IStat) (failed : Bool) : State := (tokAt (tokRaw (sc 1) 0 0)).modFrame 0 fun f => { f with stat := [(0, st)], failed := failed }
def released8 : State :=
  { base with net := [(7, { envOf (.release (hn 0 0 0 0).val) (.pe 0) 7 with src := .die 0, ctx := 1, refused := true, refusals := 8 })] }

theorem test_witness_TokensArrive_fired :
    ∀ x ∈ [(IStat.fired, false), (.parked (.home 3), false), (.fired, true)],
      firstMail (.token (tokRaw (sc 1) 0 0) 1 src1) (.pe 0) 0 (firedAt x.1 x.2) = true ∧
        (match (firedAt x.1 x.2).frame? 0 with
          | some f => f.uid == 1 && f.live == !x.2 && (f.operand 0 .a).isNone && decide (f.stat.get? 0 = some x.1) && f.cfg.instr 0 == some selI
          | none => false) = true := by decide +kernel

theorem test_witness_TokensArrive_released :
    (released8.msg? 7).any (fun e => e.refused && e.refusals == 8 && e.body.owner.isNone && e.ctx == 1) = true ∧
    (released8.ctx? 1).map (fun x => x.state) = some .running := by decide +kernel

/-- A counter's token of context 1 at a PE with no frame of that number, with its counter still context 1's, bound anew by context 2, and gone. -/
def injected (l : Tab Counter) : State :=
  { withCounters l base with net := [(7, { envOf (.inject (tokenRaw 4 (sc 1) 0 0 9 0 0) 0) (.pe 0) 4 with ctx := 1, wire := tokenRaw 4 (sc 1) 0 0 9 0 0 })] }

theorem test_witness_TokensArrive_inject :
    ∀ l ∈ [[(0, counter0)], [(0, { counter0 with ctx := 2 })], []],
      ((injected l).msg? 7).map (fun e => ((injected l).first 7 e, e.ctx, rawField e.wire 96 2, rawField e.wire 71 2, rawField e.wire 73 8)) = some (true, 1, 0, 0, 9) ∧
        (injected l).frame? 9 = none ∧ (injected l).counter? 0 = (l.head?).map Prod.snd := by decide +kernel

/-- A reply of a TRACE whose setting is to come into force. -/
theorem test_witness_TokensArrive_setting :
    let s := (mail (.reply (dest0 0) (sc 1) src1) (.pe 0) 1 base).modCtx 1 fun x => { x with settings := [(src1, .brk 64 0 false), (Src.none, .trace none)] }
    (s.msg? 7).any (fun e => s.firstReply 7 e) = true ∧ ((s.ctx? 1).map fun x => (x.settings.filter fun q => q.1 == src1).length) = some 1 ∧
      (s.frameOf 0 0 1).map (fun f => f.live) = some true := by decide +kernel

/-- What else arrives: a counter's token for a context that is gone, a reply, a reply withheld, an element that is a tile, and releases of a last and of
another reference. -/
theorem test_witness_TokensArrive_rest :
    (firstMail (.inject (tokRaw (sc 1) 0 0) 0) (.stack 0) 0 (mail (.inject (tokRaw (sc 1) 0 0) 0) (.stack 0) 0 (withCounters [(0, { counter0 with ctx := 2 })] base)) = true) ∧
    (∀ m ∈ [Msg.reply (dest0 0) (sc 3) src1, .withheld (dest0 0), .elemReply [dest0 0] { elem0 0 with codes := List.replicate 256 1 } 31 0 src1],
      firstMail m (.pe 0) 1 (mail m (.pe 0) 1 base) = true ∧ ((mail m (.pe 0) 1 base).frameOf 0 0 1).isSome = true ∧ (mail m (.pe 0) 1 base).tileRoom 0 0 = true) ∧
    (∀ n ∈ [0, 1],
      let m : Msg := .release (hn n 0 0 0).val
      firstMail m (.pe 0) 1 (mail m (.pe 0) 1 (withTiles base)) = true ∧ ((withTiles base).tileOf (hn n 0 0 0).val).map (fun t => t.count) = some (n + 1)) := by
  decide +kernel

/-! ### Frames -/

/-- An activation that waits for a frame, of a block that reads g[1] into a slot and g[2] into a write entry. -/
def gcfg : Cfg :=
  { wordCfg (rawOfWord 64 (wordsNat (.mov h1))) with reads := [{ g := 1, t1 := .none, t0 := .slot .a 0 }, { g := 2, t1 := .none, t0 := .write 0 }], writes := [3] }
def granting : State :=
  let a := { Activation.fresh 0 1 0 64 0 none with cfg := some gcfg }
  { base with pe := { base.pe with frames := [], queue := [a] } }

theorem test_witness_FrameLife_grant :
    ∃ a, granting.nextGrant 0 = some a ∧ a.cfg = some gcfg ∧ (granting.ctx? a.ctx).map (fun x => (x.breaks, x.skip)) = some ([], none) ∧
      (granting.framePlace 0 gcfg).isSome = true ∧ ((granting.task? 0 a.task).map fun t => gcfg.badRegs t) = some false ∧ gcfg.hasIrrevocable = false ∧ a.iter = none ∧
      ((granting.task? 0 a.task).map fun t => gcfg.reads.all fun r => (t.reg r.g).kind != .tile) = some true ∧
      ((gcfg.reads.flatMap fun r => [r.t0, r.t1]).filter fun w => match w with | .write _ => true | _ => false).Nodup :=
  ⟨_, by rfl, by decide +kernel, by decide +kernel, by decide +kernel, by decide +kernel, by decide +kernel, by decide +kernel, by decide +kernel, by decide +kernel⟩

/-- A frame ready to commit: it wrote g[3], holds a store, and goes on as given. -/
def stRec : StoreRec :=
  { idx := 0, lsid := 0, stream := 0, cells := [(4096, 0)], data := some [7], phys := [(4096, 0)], translated := true, dropped := false, refused := [], holder := none }
def committing (b : Branch) (held : List Effect) : State :=
  let g : Cfg := { gcfg with storeMask := 1 }
  (paged base).modFrame 0 fun f =>
    { f with cfg := g, outs := [(0, sc 8)], stores := [stRec], satisfied := [0], branch := some b, held := held, stat := [(0, .fired)] }

def effects : List (List Effect) :=
  [[], [.fcset 31 0xFFFF], [.srw 0x15 2048], [.remest 5], [.ckpt], [.remest 5, .fcset 31 0xFF, .trescale 31 9, .pwrhint 3, .remest 6, .srw 7 1, .srw 0x0E 4]]
def branches : List Branch := [.goto 64, .call 64 128, .ret 64, .tend 0]

theorem test_witness_FrameLife_commit :
    ∀ h ∈ effects, ∀ b ∈ branches,
      (committing b h).frame? 0 ≠ none ∧ (match (committing b h).frame? 0 with
        | some f => (committing b h).committable 0 f && ((committing b h).ckptDue 0 f).isNone && f.iter.isNone && decide (f.cfg.writes.Nodup) && f.held == h &&
            (match (committing b h).task? 0 f.task with | some k => k.preempt != .killing && k.regs.all (fun v => v.kind != .tile) | none => false)
        | none => false) = true := by decide +kernel

/-- Iteration 1 of a loop is ready to commit: iteration 2 runs, iteration 2 is still to start, or it is the last; frame 1 holds the LOOP. -/
def iterating (started : List Int) (next : Int) (carries : List (Int × Tok)) : State :=
  let s := committing .iter [.remest 5]
  let l : Loop := { frame := 1, uid := 5, idx := 0, body := 64, first := 0, sent := [], next := next, stop := 3, step := 1, k := 2, started := started
                    committed := 1, carry := sc 4, carries := carries, brk := none, limit := 0, paused := [], fin := false }
  let c := wordCfg (rawOfWord 64 (wordsNat (.loop h2 { k := 1, cin := 0, step := 1 })))
  ((s.modFrame 0 fun f => { f with iter := some 1 }).setFrame 1 (wordFrame c 5 0)).modTask 0 0 fun t => { t with loop := some l }

theorem test_witness_FrameLife_iteration :
    ∀ x ∈ [([1, 2], 3, false), ([1], 2, false), ([1], 3, true)], let s := iterating x.1 x.2.1 []
      (match s.frame? 0, s.task? 0 0 with
        | some f, some k => s.committable 0 f && (s.ckptDue 0 f).isNone && f.iter == some 1 && f.cfg.carryTargets.isNone &&
            (match k.loop with
              | some l => l.uid != f.uid && !l.started.contains l.next && decide ((1 : Int) = l.first + l.committed * l.step) && (l.brk.isNone) &&
                  (x.2.2 == (((l.started.filter fun i => i != 1) == []) && !decide (l.next < l.stop))) && l.carry.kind != .tile &&
                  (match s.frameOf 0 l.frame l.uid with
                    | some p => (p.cfg.instr l.idx == some (.loop h2 { k := 1, cin := 0, step := 1 })) && p.outs.isEmpty
                    | none => false)
              | none => false)
        | _, _ => false) = true := by decide +kernel

/-- A draining frame with no reply to come; a loop of step 1 and of step −1 with its last iteration to start. -/
def looping (step : Int) : State :=
  let l : Loop := { frame := 1, uid := 0, idx := 0, body := 64, first := 0, sent := [], next := 2 * step, stop := 3 * step, step := step, k := 2, started := [step]
                    committed := 1, carry := zeroTok, carries := [], brk := none, limit := 0, paused := [], fin := false }
  base.modTask 0 0 fun t => { t with loop := some l }

theorem test_witness_FrameLife_rest :
    (let s := base.modFrame 0 fun f => { f with isOpen := false }
     (s.frame? 0).map (fun f => (f.isOpen, f.outstanding)) = some (false, 0) ∧ Tab.sorted s.pe.frames = true ∧ (s.task? 0 0).map (fun k => k.preempt) = some .running) ∧
    (∀ n ∈ [(1 : Nat), 2], let step : Int := if n = 1 then 1 else -1
      ((looping step).task? 0 0).map (fun k => k.loop.isSome) = some true ∧ (if 0 < step then 2 * step < 3 * step else step < 0 ∧ 3 * step < 2 * step) ∧
        (looping step).issuing 1 = true ∧ (looping step).pe.queue = []) := by decide +kernel

/-! ### Faults, halts and the host -/

theorem test_witness_FaultsAndHalts_fault :
    ∃ f, Fires (.trap h2 0) (rd (.trap h2 0) 5 0 0) f ∧ ((rd (.trap h2 0) 5 0 0).frame? f.key).isSome = true ∧
      ((rd (.trap h2 0) 5 0 0).ctx? f.fr.ctx).map (fun x => x.state) = some .running := wit (by decide +kernel) (by decide +kernel)

def fault0 (stamp : Nat) (code : Code) : FaultRec :=
  { code := code, stamp := stamp, detail := 1, aux := 2, src := src1, header := false, noInstr := false, step := none, access := none, frameValid := true, afterCommit := false
    kept := false }
def stopping (st : CtxState) (req : Option (Nat × Nat)) (l : List FaultRec) (performed : Bool) : State :=
  (base.modCtx 1 fun x => { x with state := st, haltReq := req, faults := l, reason := 1 }).modFrame 0 fun f => { f with performed := performed }

theorem test_witness_FaultsAndHalts_halt :
    ∀ b ∈ [true, false], let s := stopping .running (some (0, 1)) [fault0 0 .trap] b
      (s.ctx? 1).map (fun x => (x.state.issues, x.haltReq)) = some (true, some (0, 1)) ∧ (s.pe.tasks.all fun p => p.2.loop.isNone) = true ∧ Tab.sorted s.pe.frames = true ∧
        (s.frame? 0).map (fun f => (f.isOpen, f.iter, f.performed)) = some (true, none, b) := by decide +kernel

def watched (n : Nat) : State :=
  base.modCtx 1 fun x => let r : SysRegs := { x.regs with wdog := BitVec.ofNat 64 n }; { x with wdCount := 0, regs := r }

theorem test_witness_FaultsAndHalts_end :
    ((causeOf [fault0 3 .trap, fault0 2 .align, fault0 2 .page]).isSome = true) ∧
    ((stopping .halting none [fault0 0 .trap] false).ctx? 1).map (fun x => (x.state, x.reason, x.hostMade)) = some (.halting, 1, true) ∧
    (∀ n ∈ [1, 190000], ((watched n).ctx? 1).map (fun x => (x.state, x.wdCount, x.haltReq, x.regs.wdog.toNat)) = some (.running, 0, none, n)) := by decide +kernel

/-- A fault entry whose Status says retry, fail, and neither; a context descriptor of partition 1 at 4096; a reply for each kind of request. -/
def doored (st : Nat) : State :=
  let s := mail (.devWrite (doorbellOff 0) ((le 8 1).map (BitVec.ofNat 8)) (some 0) none) .io 0 (poke 4111 [st] base)
  { s with mem := { s.mem with entries := [(3, { ctx := 1, pe := 0, kind := 0, page := 64, va := 64, pa := 4096, die := 0, index := 0, restart := [] })] } }
def descr (part : Nat) : List Nat := le 8 0 ++ le 8 (9 + part * 2 ^ 16 + 2 ^ 26 + 2 ^ 28) ++ le 8 (2 ^ 40) ++ List.replicate 40 0
def creating (tdi : Tdi) : State :=
  let s := mail (.devWrite (0x18000 + 0x10000) ((le 8 4096).map (BitVec.ofNat 8)) (some 1) none) .io 0 (poke 4096 (descr 1) State.reset)
  { s with dev := { s.dev with parts := [(1, { tdi := tdi, key := some 1, ide := none, noDebug := false, keys := [] })] }, mem := { s.mem with owner := [(0, 1)] } }
def asked (kind : Nat) (st : CtxState) : State :=
  let s := base.modCtx 1 fun x => { x with state := st }
  let r : HostReq := { die := 0, kind := kind, ctx := 1, addr := 0, arg := 0, status := 0, reply := 0, dests := [dest0 0], sdests := [], src := src1
                       place := some 8192 }
  { s with dev := { s.dev with requests := [(9, r)] } }

theorem test_witness_FaultsAndHalts_host :
    (∀ n ∈ [0, 1, 2, 3], firstMail (.devWrite (doorbellOff 0) ((le 8 1).map (BitVec.ofNat 8)) (some 0) none) .io 0 (doored n) = true ∧ isFaultDoorbell (doorbellOff 0) = true ∧
      (doored n).mem.entries.length = 1 ∧ ((doored n).readByte 4111).toNat = n) ∧
    (∀ t ∈ [Tdi.run, .locked], firstMail (.devWrite (0x18000 + 0x10000) ((le 8 4096).map (BitVec.ofNat 8)) (some 1) none) .io 0 (creating t) = true ∧
      (creating t).tdiIs 1 .run = (t == .run) ∧ (creating t).ownerOf 4096 = 1 ∧ (creating t).poisoned 4096 = false ∧ (creating t).powered = true ∧
      (t = .run → ((creating t).taken 7).createCheck (ctxDescOf (((creating t).taken 7).readBytes 4096 64)) 1 true = .ok (1, 0))) ∧
    (∀ k ∈ [1, 2, 3, 4, 5, 6], ∀ st ∈ [CtxState.running, .halted], ((asked k st).dev.requests.get? 9).map (fun r => (r.kind, r.status)) = some (k, 0) ∧
      (asked k st).dev.hostUp = true ∧ (asked k st).powered = true ∧ (asked k st).lineOf 8192 = none ∧ Memory.wf (asked k st).mem.bytes = true ∧
      (((asked k st).dev.requests.get? 9).map fun r => r.place) = some (some 8192) ∧ (asked k st).dev.requests.length = 1 ∧
      (((((asked k st).hostWrite 8216 (leBytes 8 7)).hostWrite 8194 (leBytes 1 2)).readByte 8194).toNat = 2) ∧
      (asked k st).issuing 1 = (st == .running)) := by decide +kernel

/-! ### Kilns and traces -/

/-- PE 0 wants the block at 0: with no object, with a translation, and with none. -/
def wanting0 (objs ents : Bool) : State :=
  let s := if objs then kilned (.mov h1) 0 0 else base
  { s with pe := { s.pe with frames := [], queue := [Activation.fresh 0 1 0 0 0 none] }, kiln := { s.kiln with entries := if ents then s.kiln.entries else [] } }

theorem test_witness_KilnEvents_load :
    ∀ p ∈ [(false, false), (true, true), (true, false)], let s := wanting0 p.1 p.2
      s.unloaded 0 0 = none ∧ s.wanting 0 0 = some (Activation.fresh 0 1 0 0 0 none) ∧ (s.objectOf 1 0).isSome = p.1 ∧ (s.entryOf 0 1 0).isSome = p.2 ∧
        (s.ctx? 1).map (fun x => (x.state, x.regs.fmode % 2)) = some (.running, 0) ∧ s.kiln.reqs = [] := by decide +kernel

/-- An Open frame whose configuration has left the window, while its die holds the entry. -/
def evicted : State :=
  let s := base.modFrame 0 fun f => { f with cfg := gcfg }
  let e : TcEntry := { die := 0, cfg := gcfg, ctx := 1, asid := 0, native := false, pinned := false, rev := 0, stale := false, used := 0 }
  { s with pe := { s.pe with windows := [] }, kiln := { s.kiln with entries := [e] } }

theorem test_witness_KilnEvents_reload :
    (evicted.unloaded 0 gcfg.addr).map (fun p => p.1) = some 0 ∧ (evicted.unloaded 0 gcfg.addr).map (fun p => p.2.cfg.num) = some gcfg.num ∧
      (evicted.kiln.entries.find? fun e => e.die == 0 / 256 && e.cfg.num == gcfg.num).map (fun e => e.cfg.num) = some gcfg.num := by decide +kernel

/-- A Kiln with a request for a block that is cached, one that parses, and one that does not: the words of a block of type 0 with one MOV, and of one with
a reserved opcode. -/
def kreq : KReq := { die := 0, ctx := 1, obj := 1, addr := 0, whom := .demand 0 0, pin := false, entry := none, read := [], host := none, native := none, stale := false }
def blockOf (w : Nat) : List Nat := le 4 (0x5B * 2 ^ 24) ++ le 4 0 ++ le 4 w
def translating (ents : Bool) (w : Nat) : State :=
  let s := tabled (poke 0 (blockOf w) (kilned (.mov h1) 0 0))
  { s with kiln := { s.kiln with reqs := [{ kreq with whom := .background 1, addr := 64 }, kreq], entries := if ents then s.kiln.entries else [] } }

theorem test_witness_KilnEvents_translate :
    ∀ p ∈ [(true, 0), (false, 2248146944), (false, 0x3FC00000)], let s := translating p.1 p.2
      s.nextTranslation 0 = some kreq ∧ (s.entryOf 0 1 0).isSome = p.1 ∧ (match s.kiln.objects.get? 1 with
        | some o => (match s.parseAt 1 1 o 0 [] with | .ok _ => p.2 == 2248146944 | .fault _ => p.2 != 2248146944 | _ => false)
        | none => false) = true := by decide +kernel

def invalidating (left : Nat) : State :=
  let s := mail (.inval 0 [0] 1 5) (.die 0) 7 (kilned (.mov h1) 0 0)
  { s with kiln := { s.kiln with jobs := [(5, { src := src1, dests := [dest0 0], sdests := [], left := left, count := 0, unpinned := false, failed := false })] } }
def sampled0 : List Sample := [{ pe := 0, cycle := 0, cls := 4, detail := 0, src := none }, { pe := 255, cycle := 0, cls := 1, detail := 0, src := some src1 }]
def sampling (k : Nat) : State :=
  (atCycle 0 base).modCtx 1 fun x => { x with trace := some { header := 4096, headerPa := 4096, slots := 16, pages := [(4160, 1024)], omitIdle := true, configs := false, marks := false, k := k, samples := sampled0 } }

theorem test_witness_KilnEvents_rest :
    (∀ n ∈ [1, 2], firstMail (.inval 0 [0] 1 5) (.die 0) 7 (invalidating n) = true ∧ ((invalidating n).kiln.jobs.get? 5).map (fun j => j.left) = some n ∧
      (invalidating n).kiln.entries.length = 1) ∧
    (∀ k ∈ [8, 24], (∀ pe ∈ [0, 255], ((sampling k).sampleDue 1 pe).isSome = true) ∧
      ((sampling k).ctx? 1).map (fun x => (x.trace.map fun w => (w.k, w.samples.any fun q => q.pe == 5), x.onDie 0)) = some (some (k, false), true) ∧
      (sampling k).sched.cycle % 2 ^ k = 0) := by decide +kernel

/-! ### The device -/

def devAt (off v : Nat) (s : State) : State := mail (.devWrite off ((le 8 v).map (BitVec.ofNat 8)) (some 0) none) .io 0 s
def lockedOne (s : State) : State := { s with dev := { s.dev with parts := s.dev.parts.put 1 { tdi := .locked, key := some 1, ide := none, noDebug := false, keys := [] } } }

/-- The aperture of PE 2047, of 32 and of 33 units; PKGNO of 2^15 − 1 and 2^15; a plain register; window entry 2047, which partition 1 holds locked. -/
theorem test_witness_DeviceRegisters_writes :
    (∀ v ∈ [32, 33], ∀ s ∈ [State.reset, base], let off := 0x01170000 + 0x1000 + 8 * 255
      firstMail (.devWrite off ((le 8 v).map (BitVec.ofNat 8)) (some 0) none) .io 0 (devAt off v s) = true ∧ devKind off = .aperture 2047 ∧
        (((devAt off v s).taken 7).devPut off ((le 8 v).map (BitVec.ofNat 8))).devNat (off / 8 * 8) 8 = v ∧ (devAt off v State.reset).residentOn 2047 = false) ∧
    ((devAt (0x01100000 + 0x1000) 1 base).residentOn 0 = true ∧ devKind (0x01100000 + 0x1000) = .aperture 0) ∧
    (∀ v ∈ [2 ^ 15 - 1, 2 ^ 15], firstMail (.devWrite 0x100 ((le 8 v).map (BitVec.ofNat 8)) (some 0) none) .io 0 (devAt 0x100 v State.reset) = true ∧ devKind 0x100 = .pkgno ∧
      (((devAt 0x100 v State.reset).taken 7).devPut 0x100 ((le 8 v).map (BitVec.ofNat 8))).devNat 0x100 8 = v) ∧
    (let off := 0x10000 + 16 * 2047
     let s := devAt off 1 (lockedOne State.reset)
     devKind off = .plain ∧ readOnly off = false ∧ s.frozenBy off = none ∧ s.task.waiting = [] ∧ (s.devMsg 7).isSome = true ∧ s.dev.parts.length = 2) := by decide +kernel

/-- The registers that partition 1's lock freezes: a window entry and a copy-queue registration of it. -/
def frozenAt (l : List Host.Cell) : State := let s := lockedOne base; { s with dev := { s.dev with regs := l } }

theorem test_witness_DeviceRegisters_frozen :
    ((frozenAt [(0x10002, 1)]).frozenBy 0x10000 = some 1) ∧
    (let s := (frozenAt [(0x02000008, 1), (0x0200000A, 1)]).modCtx 1 fun x => { x with part := 1 }
     s.frozenBy 0x02000000 = some 1 ∧ devKind 0x02000000 = .registration ∧ devKind 0x10000 = .plain) := by
  decide +kernel

/-- Accesses of functions 0 and 1, to registers and to memory that is theirs and is not. -/
def acc (fn : Nat) (bar0 : Bool) (off len : Nat) (data : List Byte) : HostAccess := { fn := fn, bar0 := bar0, offset := off, len := len, data := data }

theorem test_witness_DeviceRegisters_host :
    (State.reset.dev.hostUp = true ∧ State.reset.dev.power = .d0 ∧ State.reset.dev.down = false ∧ State.reset.dev.bootFailed = false ∧ State.reset.postedBy 0 = false) ∧
    (regOff (acc 0 true 0x100 8 []) = some 0x100 ∧ State.reset.ownsRegs 0x100 8 0 = true) ∧
    (regOff (acc 1 true 0xFFF8 8 []) = some (0x18000 + 0x10000 + 0xFFF8) ∧ State.reset.ownsRegs (0x18000 + 0x10000) 8 2 = false) ∧
    (State.reset.ownsRange 0 (2 ^ 40 - 8) 8 = true ∧ State.reset.ownsRange 1 0 8 = false ∧ State.reset.rangePoisoned (2 ^ 40 - 8) 8 = false) ∧
    (let s : State := { State.reset with dev := { State.reset.dev with hostUp := false } }
     s.dev.hostUp = false ∧ s.dev.down = false) ∧
    (∀ l ∈ [[], [(2 ^ 24 - 1, 1)]], let s : State := { lockedOne State.reset with mem := { State.reset.mem with owner := l } }
      (s.part? 0).map (fun v => v.tdi) = some .run ∧ (s.tdiIs (s.ownerOf (5 * 65536)) .locked) = false ∧ Tab.sorted s.mem.owner = true) := by decide +kernel

/-- A link that is down with a request that waits; accesses past the end of their BAR; a write of two registers; a page with a store on its way, and none. -/
theorem test_witness_DeviceRegisters_more :
    (let r : HostReq := { die := 0, kind := 4, ctx := 1, addr := 0, arg := 0, status := 0, reply := 0, dests := [], sdests := [], src := src1, place := some 8192 }
     let s : State := { State.reset with dev := { State.reset.dev with hostUp := false, requests := [(9, r)] } }
     s.dev.hostUp = false ∧ s.dev.down = false ∧ s.dev.power = .d0) ∧
    -- accesses past the end of their BAR, and one over two registers
    (∀ a ∈ [acc 256 true 0 8 [], acc 1 true 0xFFFC 8 [], acc 0 true (2 ^ 32 - 4) 8 []], (256 ≤ a.fn ∨ (0 < a.fn ∧ 0x10000 < a.offset + a.len) ∨
      (a.fn = 0 ∧ 2 ^ 32 < a.offset + a.len))) ∧
    (regOff (acc 0 true 0x10 0 (List.replicate 16 1)) = some 0x10 ∧ State.reset.ownsRegs 0x10 16 0 = true) ∧
    (State.reset.inFlight (5 * 65536) 65536 = false ∧ State.reset.sync.engines = [] ∧
      (withAccess { acc0 true (.store none) with pieces := [{ cells := [(5 * 65536, 0)], done := false }] } base).inFlight (5 * 65536) 65536 = true) := by decide +kernel

def tdiAt (t : Tdi) : State := { State.reset with dev := { State.reset.dev with parts := [(1, { tdi := t, key := some 1, ide := none, noDebug := false, keys := [] })] } }
def spdmAt (version algs : Bool) (l : Tab Session) : State := { State.reset with dev := { State.reset.dev with version := version, algs := algs, sessions := l } }
def linkAt (n : Nat) (up : Bool) : State :=
  { State.reset with dev := { State.reset.dev with links := [(63, { Link.reset with up := up, rx := { Link.reset.rx with fails := n } })] } }
def peered (o : Bool) : State := { State.reset with dev := { State.reset.dev with sessions := [(4, { part := 0, peer := some 63, open_ := o, keyGen := 0 })] } }
def image (v : Bool) : BootImage := { digest := [1], verifies := v }

theorem test_witness_SecurityAndPower :
    (∀ v ∈ [Tdi.unlocked, .locked, .run, .error], ((tdiAt v).part? 1).map (fun q => (q.tdi, q.keys.length)) = some (v, 0)) ∧
    ((tdiAt .run).part? 255 = none) ∧
    (∀ v ∈ [true, false], ∀ a ∈ [true, false], (spdmAt v a []).dev.power = .d0 ∧ (spdmAt v a []).dev.version = v ∧ (spdmAt v a []).dev.algs = a ∧
      (spdmAt v a []).boundTo 0 = true) ∧
    (∀ o ∈ [true, false], (spdmAt true true [(4, { part := 0, peer := none, open_ := o, keyGen := 0 })]).dev.sessions.get? 4 = some { part := 0, peer := none, open_ := o, keyGen := 0 }) ∧
    (∀ n ∈ [0, 1, 2], ((linkAt n true).link 63).rx.fails = n ∧ ((linkAt n true).link 63).up = true ∧ (linkAt n true).powered = true ∧
      (linkAt n true).dev.sessions.get? 4 = none) ∧
    (∀ o ∈ [true, false], (peered o).dev.sessions.get? 4 = some { part := 0, peer := some 63, open_ := o, keyGen := 0 } ∧ (peered o).powered = true) ∧
    (∀ x ∈ [(0, 4), (255, 4), (5, 4)], (spdmAt true true [(x.2, { part := x.1, peer := none, open_ := true, keyGen := 0 })]).boundTo x.1 = true) ∧
    (spdmAt true true []).boundTo 1 = false := by decide +kernel

theorem test_witness_SecurityAndPower_rest :
    (tdiAt .unlocked).part? 2 = none ∧ State.reset.hostPosts = false ∧ State.reset.dev.stages.length = 4 ∧
    (∀ v ∈ [true, false], ((BootImages.mk (image v) (image true) (image true) [image true]).stage1.verifies = v)) ∧
    (base.ctxs ≠ [] ∧ base.dev.down = false ∧ State.reset.ctxs = []) ∧
    (({ State.reset with dev := { State.reset.dev with power := .d3hot } } : State).dev.power = .d3hot) := by decide +kernel

/-! ### The machine as a whole -/

theorem test_witness_DecodeEncode :
    (Instr.mov h1).wf = true ∧ (Instr.mov h1).isEvent = false ∧ (Instr.addImm h1 0xFFFFFFFF).wf = true ∧ (Instr.addImm h1 0xFFFFFFFF).isEvent = false ∧
      (Instr.cpyr h2 (cpyrW (255, 2))).wf = true ∧ (Instr.loop h0 { k := 63, cin := 127, step := 0x7FFFF }).wf = true := by decide +kernel

/-- Words at the edges of what the decoder refuses, and one that it reads. -/
theorem test_witness_DecoderAnswers :
    (∃ i, decodeRaw { base := 0, second := 0 } = .ok i) ∧
    (∀ op ∈ [0x07, 0x54, 0x6F, 0x73, 0x77, 0x7F], (BitVec.ofNat 32 (op * 2 ^ 25)).toNat / 2 ^ 25 = op) ∧
    (∀ op ∈ [0x78, 0x7E], (BitVec.ofNat 32 (op * 2 ^ 25)).toNat / 2 ^ 25 = op) ∧
    ((BitVec.ofNat 32 (3 * 2 ^ 22)).toNat / 2 ^ 22 % 4 = 3) ∧ ((33 : BitVec 32).toNat % 2 ^ 9 = 33 ∧ (127 : BitVec 32).toNat % 2 ^ 9 = 127) ∧
    ((BitVec.ofNat 32 (2 ^ 24)).toNat / 2 ^ 24 % 2 = 1) := by
  refine ⟨⟨.mov h0, ?_⟩, ?_⟩
  · rfl
  · decide +kernel

/-- A machine whose plan picks an event, an input, and the passage of time; one with a word that is no instruction. -/
def evented : State := { queued [entry0 2 3] base with sched := { base.sched with plan := [{ k := 1, dt := 0 }] } }
def idle : State := { State.reset with sched := { State.reset.sched with plan := [{ k := 0, dt := 1 }] } }
def inputted : State := { State.reset with sched := { State.reset.sched with plan := [{ k := 8, dt := 0 }], inbox := [.bridgeLinkLoss] } }

theorem test_witness_StepRunsTheDecodedInstruction :
    (Tab.sorted base.pe.frames = true ∧ base.badWord = none ∧ base.nextAction = some (.issue 0 0 (.mov h1))) ∧
    (∃ e, evented.nextAction = some (.event e)) ∧
    (inputted.badWord = none ∧ inputted.nextAction = some (.input .bridgeLinkLoss)) ∧
    (idle.badWord = none ∧ idle.nextAction = none) ∧
    (State.reset.withFetchWord 32 0x3FC00000).badWord.isSome = true ∧ (decodeRaw (rawOfWord 32 0)).isOk = true := by
  refine ⟨by decide +kernel, ?_, by decide +kernel, by decide +kernel, by decide +kernel, by decide +kernel⟩
  have h : (match evented.nextAction with | some (.event _) => true | _ => false) = true := by decide +kernel
  revert h
  cases evented.nextAction with
  | none => intro h; cases h
  | some a => cases a with
    | event e => intro _; exact ⟨e, rfl⟩
    | issue _ _ _ => intro h; cases h
    | input _ => intro h; cases h

def computing : List Instr :=
  [.add h1, .addImm h1 7, .popc h1, .faddD h1, .faddS h1, .tadd h1, .texp h1, .cvt h1 .sToF64 ⟨.rne, 0⟩, .tcvt h1 ⟨.rne, 0⟩, .fcget h1 ⟨0⟩, .tcmp h1 .eq, .tnew h1 ⟨0, 0, 0⟩,
    .mov h1, .const_ h1 1, .constZx h1 1, .consth h1 1, .null_ h1, .sel h1, .gate h1, .tand h1, .tor h1, .txor h1, .tfma h1, .tsplat h1, .trowb h1, .tcolb h1, .trsum h1,
    .tcsum h1, .trmax h1, .tcmax h1, .tsum h1, .ttrans h1, .tmask h1, .tsel h1, .telget h1, .telset h1, .trel h0, .tcopy h1, .tamax h1]

def issuing0 : List Instr :=
  let m : MemW := ⟨0, 0, 0⟩
  let x : LoadX := ⟨false, .word⟩
  let g : TmemW := ⟨0, 0, 0, 0, 0⟩
  let a : AccW := ⟨false, false, 0⟩
  let r : RingW := ⟨false, 0, 0, 0⟩
  [.st h0 .word m, .fence h1 .die, .fenceWord h1 .pkg ⟨1, 1⟩, .sbar h1 ⟨1, 1⟩, .tlread h1 .tlm, .tlwait h1 .tlm, .mma h1 ⟨true, 0⟩, .mmar h1 ⟨true, 0⟩,
    .tmac h1 ⟨true, 0⟩ ⟨false, false, 0, 0, 0, 0⟩, .zdrain h1 0 ⟨false, false, 0, 0, 0, 0⟩, .zinit h1 a, .zclrf h1 a, .zflags h1 a, .zscale h1 a, .zload h1 a, .rcfg h1 r, .rpush h1 r,
    .rpop h1 r, .rstat h1 r, .epload h1 ⟨0, 0⟩, .eparg h1 ⟨0⟩, .loop h1 ⟨1, 0, 1⟩, .fcset h1 ⟨false, 0, 0, 0⟩, .ld h1 x m, .ldr h1 x m, .ldpair h1 x m, .tld h1 g, .tldr h1 g,
    .tst h0 g, .tgath h1 g, .tscat h0 g, .br h0 1, .bri h0, .call h0 1, .calli h0, .ret h0, .iter h0, .carry h0, .lbreak h0, .tend h0, .trescale h1, .srr h1 0, .srw h1 3, .trap h0 0,
    .ckpt h0, .remest h1, .remestImm h1 0, .pwrhint h1 0, .acfree h1, .cpstat h1, .yield_ h1]

/-- Each goes on, if only to the halt that its fault asks for. -/
theorem test_witness_InstructionFrames_units : ∀ i ∈ computing, goes (exec i (rd i 0 0 0)) = true := by decide +kernel
theorem test_witness_InstructionFrames_memory : ∀ i ∈ issuing0, goes (exec i (rd i 0 0 0)) = true := by decide +kernel

theorem test_witness_MemoryKeepsItsForm :
    Memory.wf base.mem.bytes = true ∧ Memory.wf base.dev.regs = true ∧ Memory.wf (poke 4096 [1, 2] base).mem.bytes = true ∧ ∃ t, step base = .next t := by
  refine ⟨by decide +kernel, by decide +kernel, by decide +kernel, goes_spec (by decide +kernel)⟩

end Sys2Proof.Tests
end

