-- ==== Sys2Proof/Tests/Slice0.lean ====
section
/-! SUPPORT. The model's own tests: ill-formed instructions are refused, words written out from the encoding tables are read as their instructions, and
the worked examples come out as they stand there. -/

set_option Elab.async false

namespace Sys2Proof.Tests

open Sys2Proof.Machine

/-! ### Well-formedness -/

/-- A header with a predicate. -/
def hp : Hdr := { pr := .ifTrue, t1 := .none, t0 := .none }

/-- One term for each check: none is well formed, none has an encoding. -/
def illFormed : List Instr :=
  [.br h1 0, .bri h1, .call h1 0, .calli h1, .ret h1, .iter h1, .lbreak h1, .bfx h1 ⟨false, 1, 63⟩, .bfi hp ⟨false, 0, 0⟩, .bfi h1 ⟨true, 0, 0⟩,
    .ffmaS hp, .ffmaD hp, .tfma hp, .fcset h1 ⟨true, 0, 1, 0⟩, .fcset h1 ⟨true, 0, 0, 1⟩, .fcset h1 ⟨false, 0, 0, 8⟩, .zclrf h1 ⟨true, false, 0⟩,
    .zclrf h1 ⟨false, true, 0⟩, .zflags h1 ⟨true, false, 0⟩, .zscale h1 ⟨false, true, 0⟩, .zload h1 ⟨true, false, 0⟩,
    .zdrain h1 0 ⟨false, false, 1, 0, 0, 0⟩, .zdrain h1 0 ⟨true, false, 0, 1, 0, 0⟩, .zdrain h1 0 ⟨true, false, 0, 0, 1, 0⟩,
    .zdrain h1 0 ⟨true, false, 0, 0, 0, 1⟩, .tmac h1 ⟨false, 0⟩ ⟨true, false, 0, 0, 0, 0⟩, .tmac h1 ⟨false, 0⟩ ⟨false, false, 1, 0, 0, 0⟩,
    .rcfg h1 ⟨true, 1, 0, 0⟩, .rcfg h1 ⟨true, 0, 1, 0⟩, .rpush h1 ⟨true, 0, 0, 0⟩, .rpop h1 ⟨false, 1, 0, 0⟩, .rstat h1 ⟨false, 0, 1, 0⟩,
    .ld h1 ⟨true, .double⟩ ⟨0, 0, 0⟩, .ldr h1 ⟨true, .double⟩ ⟨0, 0, 0⟩, .ldpair h1 ⟨true, .double⟩ ⟨0, 0, 0⟩, .st h1 .byte ⟨0, 0, 0⟩,
    .tst h1 ⟨0, 0, 0, 0, 0⟩, .tscat h1 ⟨0, 0, 0, 0, 0⟩, .fence h1 .die, .fenceWord h1 .die ⟨1, 1⟩, .fenceWord h0 .die ⟨0, 1⟩, .fenceWord h0 .die ⟨1, 0⟩,
    .sbar h1 ⟨1, 1⟩, .sbar h0 ⟨0, 1⟩, .sbar h0 ⟨1, 0⟩, .atom hp .cas ⟨0, 0, false, .die, 0⟩, .atomn hp .cas ⟨0, 0, false, .die, 0⟩, .acfree h1,
    .barinit h1 ⟨false, .pe⟩, .barinit h1 ⟨true, .die⟩, .bararr h1 ⟨false, .pe⟩, .bartry h1 ⟨true, .die⟩, .bartry h1 ⟨false, .pe⟩,
    .chopen h1 ⟨true, 3, false, .die, 0, 1⟩, .chopen h1 ⟨true, 0, false, .pe, 0, 1⟩, .chopen h1 ⟨true, 0, false, .quad, 0, 1⟩,
    .chopen h1 ⟨true, 0, false, .die, 0, 0⟩, .chopen h1 ⟨false, 1, false, .die, 0, 1⟩, .chopen h1 ⟨false, 0, false, .die, 1, 1⟩, .chclose h1,
    .cpyr h1 ⟨0, 0, 0, 3, false, 0⟩, .cvt h1 .sToF64 ⟨.rne, 1⟩, .tend h1, .srr h1 0x16, .srw h1 0x00, .srw h1 0x0C, .trap h1 0, .ckpt h1, .pwrhint h1 0, .pwrhint h0 0x100,
    .pwrhint h0 0x40, .mark h1 0, .cntrd h1 6]

theorem test_illFormed : ∀ i ∈ illFormed, i.wf = false := by decide +kernel

/-- A reserved opcode, an extension, a reserved X, a predicate code 3, a reserved target and a second word that an opcode does not take are refused by
name (R47, R57, R63, R65). -/
theorem test_rejected :
    decodeRaw { base := 0x0E000000, second := 0 } = .error .reservedOpcode ∧ decodeRaw { base := 0xF0000000, second := 0 } = .error (.extension 0) ∧
      (∀ b ∈ [0x103C0000 + 2 ^ 24 * 0x10, 0x14200000, 0x00C00000, 0x00000021, 0x0000FE00, 0x01000000, 0x02000000],
        (decodeRaw { base := BitVec.ofNat 32 b, second := 0 }).isOk = false) := by decide +kernel

/-! ### Words -/

/-- MOV to LBREAK: opcodes 0x00 to 0x06 (R55). -/
theorem test_decode_moves :
    ∀ p ∈ ([(32, 0x80, .mov hs), (64, 0x703000001, .const_ h1 7), (64, 0x703040001, .constZx h1 7), (64, 0xFFFFFFFF03080001, .consth h1 0xFFFFFFFF),
        (32, 0x4000401, .null_ h2), (32, 0x6000401, .sel h2), (32, 0x8000001, .gate h1), (64, 0x30B000000, .br h0 3), (32, 0xA040000, .bri h0),
        (64, 0x30B080000, .call h0 3), (32, 0xA0C0000, .calli h0), (32, 0xA100000, .ret h0), (64, 0xFC2800010D000401, .loop h2 ⟨63, 5, 1⟩),
        (32, 0xC040000, .iter h0), (32, 0xC080000, .carry h0), (32, 0xC0C0000, .lbreak h0)] : List (Nat × Nat × Instr)), decodeTableWord p.1 p.2.1 = some p.2.2 := by decide +kernel

/-- Integer instructions: opcodes 0x08 to 0x0C (R55). -/
theorem test_decode_integer_1 :
    ∀ p ∈ ([(32, 0x10000001, .add h1), (64, 0x911000001, .addImm h1 9), (32, 0x10040001, .sub h1), (64, 0x911040001, .subImm h1 9),
        (32, 0x10080001, .and_ h1), (64, 0x911080001, .andImm h1 9), (32, 0x100C0001, .or_ h1), (64, 0x9110C0001, .orImm h1 9),
        (32, 0x10100001, .xor_ h1), (64, 0x911100001, .xorImm h1 9), (32, 0x10140001, .shl h1), (64, 0x911140001, .shlImm h1 9),
        (32, 0x10180001, .shr h1), (64, 0x911180001, .shrImm h1 9), (32, 0x101C0001, .sar h1), (64, 0x9111C0001, .sarImm h1 9),
        (32, 0x10200001, .min_ h1), (64, 0x911200001, .minImm h1 9), (32, 0x10240001, .max_ h1), (64, 0x911240001, .maxImm h1 9),
        (32, 0x10280001, .minu h1), (64, 0x911280001, .minuImm h1 9), (32, 0x102C0001, .maxu h1), (64, 0x9112C0001, .maxuImm h1 9),
        (32, 0x10300001, .rotl h1), (64, 0x911300001, .rotlImm h1 9), (32, 0x10340001, .andn h1), (64, 0x911340001, .andnImm h1 9),
        (32, 0x10380001, .orn h1), (64, 0x911380001, .ornImm h1 9), (32, 0x103C0001, .xnor h1), (64, 0x9113C0001, .xnorImm h1 9),
        (32, 0x12000001, .mul h1), (64, 0x913000001, .mulImm h1 9), (32, 0x12040001, .mulh h1), (64, 0x913040001, .mulhImm h1 9),
        (32, 0x12080001, .mulhu h1), (64, 0x913080001, .mulhuImm h1 9), (32, 0x120C0001, .div h1), (64, 0x9130C0001, .divImm h1 9)] : List (Nat × Nat × Instr)), decodeTableWord p.1 p.2.1 = some p.2.2 := by decide +kernel

/-- Integer instructions: opcodes 0x08 to 0x0C (R55). -/
theorem test_decode_integer_2 :
    ∀ p ∈ ([(32, 0x12100001, .divu h1), (64, 0x913100001, .divuImm h1 9), (32, 0x12140001, .rem_ h1), (64, 0x913140001, .remImm h1 9),
        (32, 0x12180001, .remu h1), (64, 0x913180001, .remuImm h1 9), (32, 0x14000001, .clz h1), (32, 0x14040001, .ctz h1),
        (32, 0x14080001, .popc h1), (32, 0x140C0001, .sext h1), (32, 0x14100001, .zext h1), (32, 0x14140001, .neg h1), (32, 0x14180001, .not_ h1),
        (32, 0x141C0001, .abs_ h1), (32, 0x16000001, .cmp h1 .eq), (32, 0x16040001, .cmp h1 .ne), (32, 0x16080001, .cmp h1 .lt),
        (32, 0x160C0001, .cmp h1 .ge), (32, 0x16100001, .cmp h1 .ltu), (32, 0x16140001, .cmp h1 .geu), (64, 0x917080001, .cmpImm h1 .lt 9),
        (32, 0x18000001, .lea h1), (64, 0x919000001, .leaImm h1 9), (64, 0x11C819040001, .bfx h1 ⟨true, 7, 8⟩),
        (64, 0x1C819080001, .bfi h1 ⟨false, 7, 8⟩)] : List (Nat × Nat × Instr)), decodeTableWord p.1 p.2.1 = some p.2.2 := by decide +kernel

/-- Floating point: opcodes 0x0D and 0x0E (R55). -/
theorem test_decode_float :
    ∀ p ∈ ([(32, 0x1A000001, .faddS h1), (32, 0x1A040001, .fsubS h1), (32, 0x1A080001, .fmulS h1), (32, 0x1A0C0001, .fdivS h1),
        (32, 0x1A100001, .fminS h1), (32, 0x1A140001, .fmaxS h1), (32, 0x1A180001, .fsqrtS h1), (32, 0x1A1C0001, .fabsS h1),
        (32, 0x1A200001, .fnegS h1), (32, 0x1A240001, .fcmpeqS h1), (32, 0x1A280001, .fcmpltS h1), (32, 0x1A2C0001, .fcmpleS h1),
        (32, 0x1A300001, .fcmpunS h1), (32, 0x1A340001, .ffmaS h1), (32, 0x1C000001, .faddD h1), (32, 0x1C040001, .fsubD h1),
        (32, 0x1C080001, .fmulD h1), (32, 0x1C0C0001, .fdivD h1), (32, 0x1C100001, .fminD h1), (32, 0x1C140001, .fmaxD h1),
        (32, 0x1C180001, .fsqrtD h1), (32, 0x1C1C0001, .fabsD h1), (32, 0x1C200001, .fnegD h1), (32, 0x1C240001, .fcmpeqD h1),
        (32, 0x1C280001, .fcmpltD h1), (32, 0x1C2C0001, .fcmpleD h1), (32, 0x1C300001, .fcmpunD h1), (32, 0x1C340001, .ffmaD h1)] : List (Nat × Nat × Instr)), decodeTableWord p.1 p.2.1 = some p.2.2 := by decide +kernel

/-- Conversions and formats: opcodes 0x10 to 0x13 (R55). -/
theorem test_decode_conversion :
    ∀ p ∈ ([(64, 0x4000000021000001, .cvt h1 .sToF32 ⟨.ru, 0⟩), (64, 0x4000000021040001, .cvt h1 .sToF64 ⟨.ru, 0⟩),
        (64, 0x4000000021080001, .cvt h1 .uToF32 ⟨.ru, 0⟩), (64, 0x40000000210C0001, .cvt h1 .uToF64 ⟨.ru, 0⟩),
        (64, 0x4000000021100001, .cvt h1 .f32ToS ⟨.ru, 0⟩), (64, 0x4000000021140001, .cvt h1 .f64ToS ⟨.ru, 0⟩),
        (64, 0x4000000021180001, .cvt h1 .f32ToU ⟨.ru, 0⟩), (64, 0x40000000211C0001, .cvt h1 .f64ToU ⟨.ru, 0⟩),
        (64, 0x4000000021200001, .cvt h1 .f32ToF64 ⟨.ru, 0⟩), (64, 0x4000000021240001, .cvt h1 .f64ToF32 ⟨.ru, 0⟩),
        (64, 0x2300000021280001, .cvt h1 .f32ToElem ⟨.rz, 3⟩), (64, 0x63000000212C0001, .cvt h1 .elemToF32 ⟨.rd, 3⟩),
        (64, 0x9F00000023000001, .tcvt h1 ⟨.rs, 31⟩), (64, 0x26000025000001, .fcset h1 ⟨true, 6, 0, 0⟩), (64, 0x625040001, .fcget h1 ⟨6⟩),
        (32, 0x26000001, .tamax h1), (32, 0x26040001, .trescale h1)] : List (Nat × Nat × Instr)), decodeTableWord p.1 p.2.1 = some p.2.2 := by decide +kernel

/-- Tile instructions: opcodes 0x14 to 0x1D (R55). -/
theorem test_decode_tile_1 :
    ∀ p ∈ ([(32, 0x28000001, .tadd h1), (32, 0x28040001, .tsub h1), (32, 0x28080001, .tmul h1), (32, 0x280C0001, .tmax h1), (32, 0x28100001, .tmin h1),
        (32, 0x28140001, .tdiv h1), (32, 0x28180001, .tand h1), (32, 0x281C0001, .tor h1), (32, 0x28200001, .txor h1), (32, 0x2A000001, .tneg h1),
        (32, 0x2A040001, .tabs h1), (32, 0x2A080001, .texp h1), (32, 0x2A0C0001, .tlog h1), (32, 0x2A100001, .trsqrt h1),
        (32, 0x2A140001, .trecip h1), (32, 0x2A180001, .ttanh h1), (32, 0x2A1C0001, .tsigm h1), (32, 0x2A200001, .tgelu h1),
        (32, 0x2C000001, .tfma h1), (32, 0x2E000001, .tsplat h1), (32, 0x2E040001, .trowb h1), (32, 0x2E080001, .tcolb h1),
        (32, 0x30000001, .trsum h1), (32, 0x30040001, .tcsum h1), (32, 0x30080001, .trmax h1), (32, 0x300C0001, .tcmax h1),
        (32, 0x30100001, .tsum h1), (32, 0x32000001, .ttrans h1), (32, 0x32040001, .tmask h1), (32, 0x34000001, .tcmp h1 .eq),
        (32, 0x34040001, .tcmp h1 .ne), (32, 0x34080001, .tcmp h1 .lt), (32, 0x340C0001, .tcmp h1 .ge), (32, 0x34100001, .tcmp h1 .le),
        (32, 0x34140001, .tcmp h1 .gt), (32, 0x34180001, .tcmp h1 .un), (32, 0x36000001, .tsel h1), (32, 0x38000001, .telget h1),
        (32, 0x38040001, .telset h1), (64, 0x92F3B000001, .tnew h1 ⟨9, 2, 15⟩)] : List (Nat × Nat × Instr)), decodeTableWord p.1 p.2.1 = some p.2.2 := by decide +kernel

/-- Tile instructions: opcodes 0x14 to 0x1D (R55). -/
theorem test_decode_tile_2 :
    ∀ p ∈ ([(32, 0x3A040001, .trel h1), (32, 0x3A080001, .tcopy h1)] : List (Nat × Nat × Instr)), decodeTableWord p.1 p.2.1 = some p.2.2 := by decide +kernel

/-- Matrix instructions: opcodes 0x20 to 0x25 and 0x70 (R55). -/
theorem test_decode_matrix :
    ∀ p ∈ ([(32, 0x40240001, .mma h1 ⟨true, 1⟩), (32, 0x42080001, .mmar h1 ⟨false, 2⟩), (64, 0xC545000001, .zinit h1 ⟨true, true, 5⟩),
        (64, 0x545040001, .zclrf h1 ⟨false, false, 5⟩), (64, 0x545080001, .zflags h1 ⟨false, false, 5⟩),
        (64, 0x5450C0001, .zscale h1 ⟨false, false, 5⟩), (64, 0x4545100001, .zload h1 ⟨false, true, 5⟩),
        (64, 0x123471C0001, .zdrain h1 7 ⟨false, false, 0, 1, 2, 3⟩), (64, 0x1C123E13C0001, .tmac h1 ⟨true, 7⟩ ⟨false, true, 3, 1, 2, 3⟩),
        (64, 0x200649000001, .rcfg h1 ⟨true, 0, 0, 6⟩), (64, 0x649040001, .rpush h1 ⟨false, 0, 0, 6⟩),
        (64, 0x649080001, .rpop h1 ⟨false, 0, 0, 6⟩), (64, 0x6490C0001, .rstat h1 ⟨false, 0, 0, 6⟩), (64, 0x154B000001, .epload h1 ⟨2, 5⟩),
        (64, 0x54B040001, .eparg h1 ⟨5⟩)] : List (Nat × Nat × Instr)), decodeTableWord p.1 p.2.1 = some p.2.2 := by decide +kernel

/-- Memory and ordering: opcodes 0x28 to 0x32 and 0x71 (R55). -/
theorem test_decode_memory :
    ∀ p ∈ ([(64, 0xA00000351000001, .ld h1 ⟨false, .byte⟩ ⟨1, 2, 3⟩), (64, 0xA00000351040001, .ld h1 ⟨false, .half⟩ ⟨1, 2, 3⟩),
        (64, 0xA00000351080001, .ld h1 ⟨false, .word⟩ ⟨1, 2, 3⟩), (64, 0xA000003510C0001, .ld h1 ⟨false, .double⟩ ⟨1, 2, 3⟩),
        (64, 0xA00000351100001, .ld h1 ⟨true, .byte⟩ ⟨1, 2, 3⟩), (64, 0xA00000351140001, .ld h1 ⟨true, .half⟩ ⟨1, 2, 3⟩),
        (64, 0xA00000351180001, .ld h1 ⟨true, .word⟩ ⟨1, 2, 3⟩), (64, 0xA00000353180001, .ldr h1 ⟨true, .word⟩ ⟨1, 2, 3⟩),
        (64, 0xA000003E30C0401, .ldpair h2 ⟨false, .double⟩ ⟨1, 2, 3⟩), (64, 0xA00000355000000, .st h0 .byte ⟨1, 2, 3⟩),
        (64, 0xA00000355040000, .st h0 .half ⟨1, 2, 3⟩), (64, 0xA00000355080000, .st h0 .word ⟨1, 2, 3⟩),
        (64, 0xA000003550C0000, .st h0 .double ⟨1, 2, 3⟩), (64, 0xA1A280057000001, .tld h1 ⟨1, 2, 3, 4, 5⟩),
        (64, 0xA1A280059000001, .tldr h1 ⟨1, 2, 3, 4, 5⟩), (64, 0xA1A28005B000000, .tst h0 ⟨1, 2, 3, 4, 5⟩),
        (64, 0xA1A28005D000001, .tgath h1 ⟨1, 2, 3, 4, 5⟩), (64, 0xA1A28005F000000, .tscat h0 ⟨1, 2, 3, 4, 5⟩), (32, 0x60000000, .fence h0 .pe),
        (32, 0x60040000, .fence h0 .quad), (32, 0x60080000, .fence h0 .die), (32, 0x600C0000, .fence h0 .pkg), (32, 0x60100000, .fence h0 .dom),
        (64, 0x20161280000, .fenceWord h0 .die ⟨0x80, 1⟩), (64, 0x814263000000, .sbar h0 ⟨0x81, 0x42⟩), (32, 0x64000001, .tlwait h1 .tlc),
        (32, 0x64040001, .tlread h1 .tlc), (32, 0x64100001, .tlwait h1 .tlm), (32, 0x64140001, .tlread h1 .tlm), (32, 0x64200001, .tlwait h1 .tla),
        (32, 0x64240001, .tlread h1 .tla), (32, 0x64300001, .tlwait h1 .tls), (32, 0x64340001, .tlread h1 .tls)] : List (Nat × Nat × Instr)), decodeTableWord p.1 p.2.1 = some p.2.2 := by decide +kernel

/-- Atomics, counters and barriers: opcodes 0x34 to 0x37 and 0x72 (R55). -/
theorem test_decode_sync :
    ∀ p ∈ ([(64, 0x8008869000001, .atom h1 .add ⟨8, 0, false, .die, 1⟩), (64, 0x80AC86B000001, .atomn h1 .add ⟨8, 2, true, .pkg, 1⟩),
        (64, 0x8008869040001, .atom h1 .and ⟨8, 0, false, .die, 1⟩), (64, 0x80AC86B040001, .atomn h1 .and ⟨8, 2, true, .pkg, 1⟩),
        (64, 0x8008869080001, .atom h1 .or ⟨8, 0, false, .die, 1⟩), (64, 0x80AC86B080001, .atomn h1 .or ⟨8, 2, true, .pkg, 1⟩),
        (64, 0x80088690C0001, .atom h1 .xor ⟨8, 0, false, .die, 1⟩), (64, 0x80AC86B0C0001, .atomn h1 .xor ⟨8, 2, true, .pkg, 1⟩),
        (64, 0x8008869100001, .atom h1 .min ⟨8, 0, false, .die, 1⟩), (64, 0x80AC86B100001, .atomn h1 .min ⟨8, 2, true, .pkg, 1⟩),
        (64, 0x8008869140001, .atom h1 .max ⟨8, 0, false, .die, 1⟩), (64, 0x80AC86B140001, .atomn h1 .max ⟨8, 2, true, .pkg, 1⟩),
        (64, 0x8008869180001, .atom h1 .minu ⟨8, 0, false, .die, 1⟩), (64, 0x80AC86B180001, .atomn h1 .minu ⟨8, 2, true, .pkg, 1⟩),
        (64, 0x80088691C0001, .atom h1 .maxu ⟨8, 0, false, .die, 1⟩), (64, 0x80AC86B1C0001, .atomn h1 .maxu ⟨8, 2, true, .pkg, 1⟩),
        (64, 0x8008869200001, .atom h1 .swap ⟨8, 0, false, .die, 1⟩), (64, 0x80AC86B200001, .atomn h1 .swap ⟨8, 2, true, .pkg, 1⟩),
        (64, 0x8008869240001, .atom h1 .cas ⟨8, 0, false, .die, 1⟩), (64, 0x80AC86B240001, .atomn h1 .cas ⟨8, 2, true, .pkg, 1⟩),
        (32, 0x6C000001, .acbind h1), (32, 0x6C040401, .acexpect h2), (32, 0x6C080401, .acread h2), (32, 0x6C0C0000, .acfree h0),
        (64, 0x26F000001, .barinit h1 ⟨false, .die⟩), (64, 0xC6F040001, .bararr h1 ⟨true, .dom⟩), (64, 0x16F080001, .bartry h1 ⟨false, .quad⟩),
        (32, 0xE4000001, .syncall h1)] : List (Nat × Nat × Instr)), decodeTableWord p.1 p.2.1 = some p.2.2 := by decide +kernel

/-- Channels and copies: opcodes 0x38 to 0x3F (R55). -/
theorem test_decode_channel :
    ∀ p ∈ ([(64, 0x400000571000001, .chopen h1 ⟨false, 0, false, .die, 0, 5⟩), (32, 0x70040000, .chclose h0), (32, 0x70080401, .chstat h2),
        (32, 0x72000001, .chsend h1), (32, 0x72040001, .chtrys h1), (32, 0x74000401, .chrecv h2), (32, 0x74040401, .chtryr h2),
        (32, 0x78000001, .cpy h1), (64, 0x800000407B000001, .cpy1 h1 ⟨true, 64⟩), (64, 0x12340047D000001, .cpyr h1 ⟨1, 2, 3, 1, false, 4⟩),
        (32, 0x7E000401, .cpqpost h2), (32, 0x7E040001, .cpstat h1)] : List (Nat × Nat × Instr)), decodeTableWord p.1 p.2.1 = some p.2.2 := by decide +kernel

/-- Tasks, joins, futures and queues: opcodes 0x40 to 0x47 (R55). -/
theorem test_decode_task :
    ∀ p ∈ ([(32, 0x80380001, .spawn h1 ⟨3, 2⟩), (32, 0x82100001, .spawnd h1 ⟨1, 0⟩), (32, 0x84000001, .jnew h1), (32, 0x84040001, .jdec h1),
        (32, 0x86000000, .tend h0), (32, 0x88000001, .fnew h1), (32, 0x88040001, .fres h1), (32, 0x88080001, .freg h1), (32, 0x880C0001, .fget h1),
        (32, 0x8A000401, .dqpush h2), (32, 0x8A040401, .dqpop h2), (32, 0x8A080401, .dqsteal h2), (32, 0x8C000401, .wqput h2),
        (32, 0x8C040401, .wqget h2), (32, 0x8E000001, .yield_ h1)] : List (Nat × Nat × Instr)), decodeTableWord p.1 p.2.1 = some p.2.2 := by decide +kernel

/-- System, Kiln and debug: opcodes 0x48 to 0x53 (R55). -/
theorem test_decode_system :
    ∀ p ∈ ([(64, 0x1591000001, .srr h1 0x15), (64, 0x391040001, .srw h1 3), (64, 0x593000000, .trap h0 5), (64, 0x593040401, .hcall h2 5),
        (32, 0x94000000, .ckpt h0), (32, 0x96000001, .remest h1), (64, 0x597000001, .remestImm h1 5), (32, 0x98000001, .ctxnew h1),
        (32, 0x98040001, .ctxhalt h1), (32, 0x98080001, .ctxres h1), (32, 0x9A000001, .hbeat h1), (32, 0x9C000001, .atinv h1),
        (64, 0x339F000000, .pwrhint h0 0x33), (32, 0xA0000001, .tcinv h1), (32, 0xA0040001, .tcpin h1), (32, 0xA0080001, .tcpre h1),
        (32, 0xA2000001, .objload h1), (32, 0xA4000001, .trace h1), (64, 0x5A5040000, .mark h0 5), (32, 0xA6000001, .brk h1),
        (64, 0x5A7040001, .cntrd h1 5)] : List (Nat × Nat × Instr)), decodeTableWord p.1 p.2.1 = some p.2.2 := by decide +kernel

/-! ### Results -/

/-- What an instruction sends to its first write entry. -/
def sends (i : Instr) (s : State) : Option Tok :=
  match exec i s with
  | .next t => (t.frame? 0).bind fun f => f.outs.get? 0
  | _ => none

/-- The flags it leaves in its frame. -/
def flagsOf (i : Instr) (s : State) : Nat :=
  match exec i s with
  | .next t => ((t.frame? 0).map fun f => f.flags.toNat).getD 0
  | _ => 999

def gives (i : Instr) (a b c v : Nat) : Bool := sends i (rd i a b c) == some (sc v)

def m1 : Nat := 2 ^ 64 - 1

/-- R118: "DIV of −7 by 2 gives −3 and REM gives −1. DIVU of 7 by 0 gives 0xFFFF_FFFF_FFFF_FFFF and sets ID." -/
theorem test_divide :
    gives (.div h1) (2 ^ 64 - 7) 2 0 (2 ^ 64 - 3) = true ∧ gives (.rem_ h1) (2 ^ 64 - 7) 2 0 m1 = true ∧ gives (.divu h1) 7 0 0 m1 = true ∧
      flagsOf (.divu h1) (rd (.divu h1) 7 0 0) = 2 ^ 6 ∧ gives (.remu h1) 7 0 0 7 = true ∧ flagsOf (.remu h1) (rd (.remu h1) 7 0 0) = 2 ^ 6 := by decide +kernel

/-- R120: SEXT and ZEXT of a field, CLZ and CTZ of 0, NEG and ABS of −2^63. -/
theorem test_unary :
    gives (.sext h1) 0x80 7 0 0xFFFFFFFFFFFFFF80 = true ∧ gives (.zext h1) m1 7 0 0xFF = true ∧ gives (.sext h1) m1 63 0 m1 = true ∧ gives (.clz h1) 0 0 0 64 = true ∧
      gives (.ctz h1) 0 0 0 64 = true ∧ gives (.popc h1) m1 0 0 64 = true ∧ gives (.neg h1) (2 ^ 63) 0 0 (2 ^ 63) = true ∧ gives (.abs_ h1) (2 ^ 63) 0 0 (2 ^ 63) = true ∧
      gives (.not_ h1) 0 0 0 m1 = true := by decide +kernel

/-- R115, R116: wrapping sums, shifts by the low six bits, signed and unsigned extremes, and the sign-extended immediate. -/
theorem test_integer :
    gives (.add h1) m1 1 0 0 = true ∧ gives (.sub h1) 0 1 0 m1 = true ∧ gives (.subImm h1 0xFFFFFFFF) 5 0 0 6 = true ∧ gives (.shl h1) 1 63 0 (2 ^ 63) = true ∧
      gives (.sar h1) (2 ^ 63) 63 0 m1 = true ∧ gives (.shr h1) (2 ^ 63) 63 0 1 = true ∧ gives (.rotl h1) (2 ^ 63) 1 0 1 = true ∧ gives (.min_ h1) m1 1 0 m1 = true ∧
      gives (.minu h1) m1 1 0 1 = true ∧ gives (.max_ h1) m1 1 0 1 = true ∧ gives (.maxu h1) m1 1 0 m1 = true ∧ gives (.andn h1) 7 2 0 5 = true ∧
      gives (.orn h1) 0 m1 0 0 = true ∧ gives (.xnor h1) 5 5 0 m1 = true ∧ gives (.mulhu h1) m1 m1 0 (2 ^ 64 - 2) = true ∧ gives (.mulh h1) m1 m1 0 0 = true ∧
      gives (.mul h1) m1 m1 0 1 = true := by decide +kernel

/-- R121 to R124: the unsigned compare with −1, a unit back, and the bit-field examples. -/
theorem test_compare_and_fields :
    gives (.cmpImm h1 .ltu 0xFFFFFFFF) 5 0 0 1 = true ∧ gives (.cmpImm h1 .ltu 0xFFFFFFFF) m1 0 0 0 = true ∧ gives (.cmp h1 .lt) m1 0 0 1 = true ∧
      gives (.lea h1) 0 m1 0 (2 ^ 64 - 64) = true ∧ gives (.bfx h1 ⟨false, 8, 7⟩) 0xA53C00 0 0 0x3C = true ∧
      gives (.bfx h1 ⟨true, 16, 7⟩) 0xA53C00 0 0 0xFFFFFFFFFFFFFFA5 = true ∧ gives (.bfi h1 ⟨false, 60, 7⟩) m1 0 0 0x0FFFFFFFFFFFFFFF = true := by decide +kernel

/-- R99 to R102: MOV, the constants, NULL, and SEL of an odd selector, which sends T1's target the value and T0's a null. -/
theorem test_moves :
    gives (.mov h1) 9 0 0 9 = true ∧ gives (.const_ h1 0xFFFFFFFF) 0 0 0 m1 = true ∧ gives (.constZx h1 0xFFFFFFFF) 0 0 0 0xFFFFFFFF = true ∧
      gives (.consth h1 1) 0xF00000002 0 0 0x100000002 = true ∧ sends (.null_ h1) (rd (.null_ h1) 0 0 0) = some nullTok := by decide +kernel

/-- R130: FFMA of 1 + 2^−12, itself and −(1 + 2^−11) is 2^−24 with no flag; FMUL then FADD gives 0. -/
theorem test_fma :
    gives (.ffmaS h1) 0x3F800800 0x3F800800 0xBF801000 0x33800000 = true ∧ flagsOf (.ffmaS h1) (rd (.ffmaS h1) 0x3F800800 0x3F800800 0xBF801000) = 0 ∧
      gives (.fmulS h1) 0x3F800800 0x3F800800 0 0x3F801000 = true ∧ gives (.faddS h1) 0x3F801000 0xBF801000 0 0 = true := by decide +kernel

/-- R126 to R129: 1/3 rounds to nearest, 0/0 is the canonical NaN with NV, 1/0 an infinity with DZ, and −0 is less than +0. -/
theorem test_float :
    gives (.fdivS h1) 0x3F800000 0x40400000 0 0x3EAAAAAB = true ∧ gives (.fdivD h1) 0 0 0 0x7FF8000000000000 = true ∧ flagsOf (.fdivD h1) (rd (.fdivD h1) 0 0 0) = 1 ∧
      gives (.fdivD h1) 0x3FF0000000000000 0 0 0x7FF0000000000000 = true ∧ flagsOf (.fdivD h1) (rd (.fdivD h1) 0x3FF0000000000000 0 0) = 2 ^ 5 ∧
      gives (.fminS h1) 0 0x80000000 0 0x80000000 = true ∧ gives (.fsqrtD h1) 0x4000000000000000 0 0 0x3FF6A09E667F3BCD = true ∧
      gives (.fcmpunS h1) 0x7FC00000 0 0 1 = true := by decide +kernel

/-- R151: "CVT.k4.rz of 0xC0B0_0000 (−5.5) gives 0xFFFF_FFFF_FFFF_FFFB" with NX; "CVT.k4.rne of 0x5F00_0000 (2^63) saturates" with SV. -/
theorem test_convert :
    gives (.cvt h1 .f32ToS ⟨.rz, 0⟩) 0xC0B00000 0 0 0xFFFFFFFFFFFFFFFB = true ∧
      flagsOf (.cvt h1 .f32ToS ⟨.rz, 0⟩) (rd (.cvt h1 .f32ToS ⟨.rz, 0⟩) 0xC0B00000 0 0) = 2 ^ 3 ∧ gives (.cvt h1 .f32ToS ⟨.rne, 0⟩) 0x5F000000 0 0 (2 ^ 63 - 1) = true ∧
      flagsOf (.cvt h1 .f32ToS ⟨.rne, 0⟩) (rd (.cvt h1 .f32ToS ⟨.rne, 0⟩) 0x5F000000 0 0) = 2 ^ 4 := by decide +kernel

/-- The quantisation pass of chapter 5: 3.0, −0.03, 2,000,000 and 7 × 10^−7 through fc5, which is DM8 with scale 0, and with scale 1. -/
def toDm8 (scale v : Nat) : Option Tok :=
  let i : Instr := .cvt h1 .f32ToElem ⟨.rne, 5⟩
  sends i ((rd i v 0 0).modCtx 1 fun x => { x with fc := setAt 5 (BitVec.ofNat 16 (5 + 256 * scale)) fcs })

theorem test_quantise :
    toDm8 0 0x40400000 = some (sc 0x47) ∧ toDm8 0 0xBCF5C28F = some (sc 0x94) ∧ toDm8 0 0x49F42400 = some (sc 0x7F) ∧ toDm8 0 0x353BE7A2 = some (sc 0x01) ∧
      toDm8 1 0x40400000 = some (sc 0x27) ∧ toDm8 1 0xBCF5C28F = some (sc 0x8A) ∧ toDm8 1 0x49F42400 = some (sc 0x7E) ∧ toDm8 1 0x353BE7A2 = some (sc 0x00) := by
  decide +kernel

/-- The token of chapter 1: a scalar 5 for operand b of instruction 9 in frame 17 of context slot 2 on PE 305. -/
theorem test_token : tokenRaw 0 (sc 5) 2 305 17 1 9 = 0x22622289 * 2 ^ 64 + 5 := by decide +kernel

/-- The block `step` of chapter 2, and that with the store's LSID 2, whose first activation raises ENCODING at the header. -/
def stepWords (mem : Nat) : List Word32 :=
  ([0x5B010408, 1, 0x02010280, 0x04000100, 0x83, 0, 0x10020201, 0x550C0000, mem, 0x0B000000, 1] : List Nat).map (BitVec.ofNat 32)

theorem test_block :
    (match parseBlock 0 1 64 0 (fun _ => 0) (stepWords 0x10) with
      | .ok c => c.writes == [3] && c.reads == [⟨1, .slot .a 1, .slot .a 0⟩, ⟨2, .none, .slot .b 0⟩] && c.storeMask == 1 &&
          c.instrs.map Prod.snd == [.add ⟨.always, .slot .b 1, .write 0⟩, .st ⟨.always, .none, .none⟩ .double ⟨0, 0, 16⟩, .br ⟨.always, .none, .none⟩ 1]
      | _ => false) = true ∧
    (match parseBlock 0 1 64 0 (fun _ => 0) (stepWords 0x10000010) with
      | .fault f => f.code == .encoding && f.idx.isNone
      | _ => false) = true := by decide +kernel

/-- The future of chapter 13 in both orders. -/
def futWord (s : State) : Nat := s.read64 4096
def futDo (op : FutOp) (s : State) : State := s.futureOp 4096 [(4096, 512)] op [] [] src1

theorem test_future :
    futWord (futDo (.freg 0x60000 0x60000) base) = 0x4100000000000000 ∧ (futDo (.freg 0x60000 0x60000) base).read64 4104 = 0x60000 ∧
      futWord (futDo (.fres 42) (futDo (.freg 0x60000 0x60000) base)) = 0x800000000000002A ∧ futWord (futDo (.fres 42) base) = 0x800000000000002A ∧
      futWord (futDo (.freg 0x60000 0x60000) (futDo (.fres 42) base)) = 0x800000000000002A ∧ futWord (futDo (.fres 7) (futDo (.fres 42) base)) = 0x800000000000002A ∧
      (((futDo (.fres 7) (futDo (.fres 42) base)).ctx? 1).map fun x => x.faults.map fun r => r.code) = some [.doubleResolve] := by decide +kernel

/-- The last entry of a deque of chapter 13: Top 5, Bottom 6, entry 5 is 99. -/
def lastEntry (op : QueOp) : State := poke (4096 + 64 + 40) (le 8 99) (quAt (.deque 4096 4096 op [dest0 0] [] src1) 5 6 16)
def after (op : QueOp) : Option (Nat × Nat × List Tok) :=
  match execDequeOperation 7 (lastEntry op) with
  | .next t => some (t.read64 4096, t.read64 4104, t.net.filterMap fun p => match p.2.body with | .reply _ v _ => some v | _ => none)
  | _ => none

theorem test_deque : after .pop = some (5, 5, [sc 99]) ∧ after .steal = some (6, 6, [sc 99]) := by decide +kernel

/-- The graph of chapter 15: rates 2 to 3 and 1 to 2 give 3, 2, 1 and channels of 384 and 320 bytes; a third edge has no solution; a tile edge of 32 bits needs 13,312. -/
def edge0 (period : Nat) : Edge := { producer := 0, consumer := 1, fixed := true, period := period, base := 0, capacity := 4096 }

theorem test_graph :
    repVector [⟨0, 1, 2, 3⟩, ⟨1, 2, 1, 2⟩] 3 = some [3, 2, 1] ∧ repVector [⟨0, 1, 2, 3⟩, ⟨1, 2, 1, 2⟩, ⟨0, 2, 1, 1⟩] 3 = none ∧
      repVector [⟨0, 1, 2, 3⟩, ⟨1, 2, 1, 2⟩, ⟨0, 2, 1, 0⟩] 3 = some [3, 2, 1] ∧ (edge0 6).need 0 = 384 ∧ (edge0 2).need 0 = 320 ∧ (edge0 6).need 3 = 13312 := by
  decide +kernel

/-- The copy packet of chapter 12 parses, and copies four runs of 8 bytes of pitch 32 to a dense destination. -/
theorem test_packet :
    (match packetOf (((([0x100000, 0x200000, 0x0000000400000008, 0x20, 8, 0, 0, 0x0100000000000000] : List Nat).flatMap (le 8)).map (BitVec.ofNat 8))) with
      | some p => p.runs == [(0x100000, 0x200000), (0x100020, 0x200008), (0x100040, 0x200010), (0x100060, 0x200018)] && p.len0 == 8 && p.bytes == 32
      | none => false) = true := by decide +kernel

/-- The digest of no bytes is the standard's. -/
theorem test_hash : beNat (sha384 []) = 0x38B060A751AC96384CD9327EB1B1E36A21FDB71114BE07434C0CC7BF63F6E1DA274EDEBFE76F65FBD51AD2F14898B95B := by decide +kernel

end Sys2Proof.Tests
end

