-- ==== Sys2Proof/Tests/Tiles.lean ====
section
/-! SUPPORT. Witnesses that the hypotheses of the statements about tiles and the matrix engine can be met together. -/

set_option Elab.async false

namespace Sys2Proof.Tests

open Sys2Proof.Machine

/-- Operands a, b and c of FP32, of full size, and what the instructions find. -/
def ta : Tok := hn 0 0 15 15
def tb : Tok := hn 1 0 15 15
def full (i : Instr) : State := rt i ta tb tb

def tileOps : List TileOp := [.add, .sub, .mul, .max, .min, .div]
def unFns : List UnFn := [.neg, .abs, .exp, .log, .rsqrt, .recip, .tanh, .sigm, .gelu]

theorem test_witness_TileElementwise :
    (∀ o ∈ tileOps, ∃ f, Fires (o.instr h1) (full (o.instr h1)) f ∧ f.clear = true ∧ f.holds (full (o.instr h1)) f.a (tin (full (o.instr h1)) ta) ∧
      f.holds (full (o.instr h1)) f.b (tin (full (o.instr h1)) tb) ∧ (tin (full (o.instr h1)) ta).rows = (tin (full (o.instr h1)) tb).rows ∧
      (tin (full (o.instr h1)) ta).cols = (tin (full (o.instr h1)) tb).cols) ∧
    (∀ i ∈ [Instr.tand h1, .tor h1, .txor h1], ∃ f, Fires i (full i) f ∧ f.clear = true ∧ f.holds (full i) f.a (tin (full i) ta) ∧
      f.holds (full i) f.b (tin (full i) tb) ∧ (tin (full i) ta).ch.fmt.width = (tin (full i) tb).ch.fmt.width) ∧
    (∀ o ∈ unFns, ∃ f, Fires (o.instr h1) (full (o.instr h1)) f ∧ f.clear = true ∧ f.holds (full (o.instr h1)) f.a (tin (full (o.instr h1)) ta)) ∧
    (∃ f, Fires (.tfma h1) (full (.tfma h1)) f ∧ f.clear = true ∧ f.holds (full (.tfma h1)) f.a (tin (full (.tfma h1)) ta) ∧
      f.holds (full (.tfma h1)) f.b (tin (full (.tfma h1)) tb) ∧ f.holds (full (.tfma h1)) f.c (tin (full (.tfma h1)) tb)) := by
  refine ⟨wits ?_, wits ?_, wits ?_, wit ?_ ?_⟩ <;> (try unfold Firing.holds) <;> decide +kernel

/-- Room for a new tile, and none: all 8,192 granules are taken. -/
def fullStore (i : Instr) : State :=
  let s := rt i tb tb tb
  { s with pe := { s.pe with tiles := s.pe.tiles ++ [(9, { tile 2 1 [] with granules := 8192 })] } }

theorem test_witness_SendsTile_room :
    (∃ f, Fires (.tneg h1) (full (.tneg h1)) f ∧ f.room (full (.tneg h1)) 2 [f.a] = true) ∧
    (∃ f, Fires (.tneg h1) (fullStore (.tneg h1)) f ∧ f.room (fullStore (.tneg h1)) 2 [f.a] = false) :=
  ⟨wit (by decide +kernel) (by decide +kernel), wit (by decide +kernel) (by decide +kernel)⟩

/-- The reductions on one row, one column, a whole tile and one element, of FP32 and of INT32. -/
theorem test_witness_TileReductions :
    ∀ i ∈ [Instr.trsum h1, .tcsum h1, .trmax h1, .tcmax h1, .tsum h1], ∀ t ∈ [hn 0 0 0 15, hn 0 0 15 0, hn 0 0 15 15, hn 4 7 0 0],
      ∃ f, Fires i (rt i t tb tb) f ∧ f.clear = true ∧ f.holds (rt i t tb tb) f.a (tin (rt i t tb tb) t) := by
  intro i hi t ht
  have h : ∀ i ∈ [Instr.trsum h1, .tcsum h1, .trmax h1, .tcmax h1, .tsum h1], ∀ t ∈ [hn 0 0 0 15, hn 0 0 15 0, hn 0 0 15 15, hn 4 7 0 0],
      fires i (rt i t tb tb) = true ∧ (shot i (rt i t tb tb)).clear = true ∧ (shot i (rt i t tb tb)).holds (rt i t tb tb) (shot i (rt i t tb tb)).a (tin (rt i t tb tb) t) := by
    unfold Firing.holds; decide +kernel
  exact wit (h i hi t ht).1 (h i hi t ht).2

def tnewW : TnewW := { fc := 31, rows := 15, cols := 0 }

theorem test_witness_TileMoves_1 :
    (∃ f, Fires (.tsplat h1) (rt (.tsplat h1) (sc 0x7FF0000000000001) (sc 0x7FF) (sc 0)) f ∧ f.clear = true ∧ f.a.kind ≠ .tile ∧ f.b.kind ≠ .tile ∧
      f.b.val.toNat < 2 ^ 13 ∧ chanOf (f.x.chan (f.b.val.toNat / 2 ^ 8)) = some { fmt := .int 32, scale := 0 }) ∧
    (∀ n ∈ [1, 16], ∃ f, Fires (.trowb h1) (rt (.trowb h1) (hn 0 0 0 15) (sc n) (sc 0)) f ∧ f.clear = true ∧ f.b.kind ≠ .tile ∧
      f.holds (rt (.trowb h1) (hn 0 0 0 15) (sc n) (sc 0)) f.a (tin (rt (.trowb h1) (hn 0 0 0 15) (sc n) (sc 0)) (hn 0 0 0 15)) ∧
      1 ≤ f.b.val.toNat ∧ f.b.val.toNat ≤ 16) ∧
    (∀ n ∈ [1, 16], ∃ f, Fires (.tcolb h1) (rt (.tcolb h1) (hn 0 0 15 0) (sc n) (sc 0)) f ∧ f.clear = true ∧ f.b.kind ≠ .tile ∧
      f.holds (rt (.tcolb h1) (hn 0 0 15 0) (sc n) (sc 0)) f.a (tin (rt (.tcolb h1) (hn 0 0 15 0) (sc n) (sc 0)) (hn 0 0 15 0)) ∧
      1 ≤ f.b.val.toNat ∧ f.b.val.toNat ≤ 16) ∧
    (∃ f, Fires (.tmask h1) (rt (.tmask h1) ta (sc 255) (sc 0)) f ∧ f.clear = true ∧ f.b.kind ≠ .tile ∧
      f.holds (rt (.tmask h1) ta (sc 255) (sc 0)) f.a (tin (rt (.tmask h1) ta (sc 255) (sc 0)) ta) ∧ f.b.val.toNat < 2 ^ 8) ∧
    (∃ f, Fires (.telset h1) (rt (.telset h1) ta (sc (2 ^ 40 - 1)) (sc 0)) f ∧ f.clear = true ∧ f.b.kind ≠ .tile ∧
      f.holds (rt (.telset h1) ta (sc (2 ^ 40 - 1)) (sc 0)) f.a (tin (rt (.telset h1) ta (sc (2 ^ 40 - 1)) (sc 0)) ta) ∧
      f.b.val.toNat < 2 ^ 40 ∧ f.b.val.toNat % 2 ^ 32 < 2 ^ (tin (rt (.telset h1) ta (sc (2 ^ 40 - 1)) (sc 0)) ta).ch.fmt.bits) ∧
    (∃ f, Fires (.tnew h1 tnewW) (rt (.tnew h1 tnewW) ta tb tb) f ∧ f.clear = true ∧
      chanOf (f.x.chan tnewW.fc.toNat) = some { fmt := .fp fp32, scale := 0 }) := by
  refine ⟨wit ?_ ?_, wits ?_, wits ?_, wit ?_ ?_, wit ?_ ?_, wit ?_ ?_⟩ <;> (try unfold Firing.holds) <;> decide +kernel

theorem test_witness_TileMoves_2 :
    (∀ c ∈ [TCond.eq, .ne, .lt, .le, .gt, .ge, .un], ∃ f, Fires (.tcmp h1 c) (full (.tcmp h1 c)) f ∧ f.clear = true ∧
      f.holds (full (.tcmp h1 c)) f.a (tin (full (.tcmp h1 c)) ta) ∧ f.holds (full (.tcmp h1 c)) f.b (tin (full (.tcmp h1 c)) tb)) ∧
    (∀ i ∈ [Instr.tsel h1], ∃ f, Fires i (full i) f ∧ f.clear = true ∧ f.holds (full i) f.a (tin (full i) ta) ∧ f.holds (full i) f.b (tin (full i) tb)) ∧
    (∀ i ∈ [Instr.ttrans h1, .tcopy h1], ∃ f, Fires i (full i) f ∧ f.clear = true ∧ f.holds (full i) f.a (tin (full i) ta)) := by
  refine ⟨wits ?_, wits ?_, wits ?_⟩ <;> unfold Firing.holds <;> decide +kernel

/-- TAMAX of a tile with a NaN, of one with an infinity and no NaN, and of finite elements: the three cases by the first elements. -/
def am (codes : List Nat) : State :=
  let s := full (.tamax h1)
  { s with pe := { s.pe with tiles := [(0, tile 2 1 codes)] } }

theorem test_witness_TileReadings :
    (∀ n ∈ [0, 255], ∃ f, Fires (.telget h1) (rt (.telget h1) ta (sc n) (sc 0)) f ∧ f.clear = true ∧ f.b.kind ≠ .tile ∧
      f.holds (rt (.telget h1) ta (sc n) (sc 0)) f.a (tin (rt (.telget h1) ta (sc n) (sc 0)) ta) ∧ f.b.val.toNat < 256) ∧
    (∃ f, Fires (.trel h1) (full (.trel h1)) f ∧ f.clear = true ∧ f.holds (full (.trel h1)) f.a (tin (full (.trel h1)) ta)) ∧
    (∀ l ∈ [[1, 0x7FC00000, 0x7F800000], [1, 0xFF800000, 2], [0x3F800000, 0xC0000000, 0x40000000]], ∃ f, Fires (.tamax h1) (am l) f ∧ f.clear = true ∧
      f.holds (am l) f.a (tin (am l) ta)) ∧
    (∃ f, Fires (.tcvt h2 { mode := .rz, fc := 6 }) (full (.tcvt h2 { mode := .rz, fc := 6 })) f ∧ f.clear = true ∧
      f.holds (full (.tcvt h2 { mode := .rz, fc := 6 })) f.a (tin (full (.tcvt h2 { mode := .rz, fc := 6 })) ta) ∧
      chanOf (f.x.chan 6) = some { fmt := .int 8, scale := 0 } ∧ f.room (full (.tcvt h2 { mode := .rz, fc := 6 })) (Fmt.int 8).width [f.a] = true) ∧
    (tin (am [1, 0x7FC00000]) ta).val 1 = .nan false ∧ ((tin (am [1, 0xFF800000, 2]) ta).val 1).isInf = true := by
  refine ⟨wits ?_, wit ?_ ?_, wits ?_, wit ?_ ?_, ?_, ?_⟩ <;> (try unfold Firing.holds) <;> decide +kernel

/-! ### The matrix engine -/

def zw (z : BitVec 3) : AccW := { clr := true, mode := true, z := z }

/-- The order of R188 holds and no task claims the accumulator. -/
def free (i : Instr) (s : State) (z : Nat) : Bool := (shot i s).inOrder s i && (s.acc (shot i s).pe z).claim == none

theorem free_spec {i : Instr} {s : State} {w : BitVec 3} (h : free i s w.toNat = true) : (shot i s).mayUse s i (some w) := by
  simp only [free, Bool.and_eq_true, beq_iff_eq] at h
  exact ⟨h.1, fun n hn => by cases hn; exact .inl h.2⟩

theorem inOrder_spec {i : Instr} {s : State} (h : (shot i s).inOrder s i = true) : (shot i s).mayUse s i none := ⟨h, fun n hn => by cases hn⟩

/-- A witness that also may use its accumulator. -/
theorem zwits {α : Type} {l : List α} {i : α → Instr} {s : α → State} {z : α → BitVec 3} {p : α → Firing → Prop}
    (h : ∀ a ∈ l, fires (i a) (s a) = true ∧ free (i a) (s a) (z a).toNat = true ∧ p a (shot (i a) (s a))) :
    ∀ a ∈ l, ∃ f, Fires (i a) (s a) f ∧ f.mayUse (s a) (i a) (some (z a)) ∧ p a f :=
  fun a ha => ⟨_, fires_spec (h a ha).1, free_spec (h a ha).2.1, (h a ha).2.2⟩

/-- A witness of an instruction that uses no accumulator. -/
theorem qwits {α : Type} {l : List α} {i : α → Instr} {s : α → State} {p : α → Firing → Prop}
    (h : ∀ a ∈ l, fires (i a) (s a) = true ∧ (shot (i a) (s a)).inOrder (s a) (i a) = true ∧ p a (shot (i a) (s a))) :
    ∀ a ∈ l, ∃ f, Fires (i a) (s a) f ∧ f.mayUse (s a) (i a) none ∧ p a f :=
  fun a ha => ⟨_, fires_spec (h a ha).1, inOrder_spec (h a ha).2.1, (h a ha).2.2⟩

theorem test_witness_AccumulatorInstructions :
    (∀ p ∈ [(Instr.zinit h1 (zw 7), (7 : BitVec 3)), (.zclrf h1 (zw 0), 0), (.zflags h1 (zw 7), 7)], ∃ f, Fires p.1 (full p.1) f ∧
      f.mayUse (full p.1) p.1 (some p.2) ∧ f.clear = true) ∧
    (∀ n ∈ [0x40000000, 0x7F800001], ∃ f, Fires (.zscale h1 (zw 7)) (rt (.zscale h1 (zw 7)) (sc n) (sc 0) (sc 0)) f ∧
      f.mayUse (rt (.zscale h1 (zw 7)) (sc n) (sc 0) (sc 0)) (.zscale h1 (zw 7)) (some 7) ∧ f.clear = true ∧ f.a.kind = .scalar ∧
      (f.accValue (rt (.zscale h1 (zw 7)) (sc n) (sc 0) (sc 0)) 7).int = false) ∧
    (∀ p ∈ [(({ clr := false, mode := false, z := 0 } : AccW), ta), (zw 7, hn 4 7 15 15), (zw 7, hn 2 6 0 0)],
      ∃ f, Fires (.zload h1 p.1) (rt (.zload h1 p.1) p.2 (sc 0) (sc 0)) f ∧
        f.mayUse (rt (.zload h1 p.1) p.2 (sc 0) (sc 0)) (.zload h1 p.1) (some p.1.z) ∧ f.clear = true ∧
        f.holds (rt (.zload h1 p.1) p.2 (sc 0) (sc 0)) f.a (tin (rt (.zload h1 p.1) p.2 (sc 0) (sc 0)) p.2) ∧
        (p.1.mode = true → ((tin (rt (.zload h1 p.1) p.2 (sc 0) (sc 0)) p.2).ch.fmt = .int 8 ∨
          (tin (rt (.zload h1 p.1) p.2 (sc 0) (sc 0)) p.2).ch.fmt = .int 32) ∧ (tin (rt (.zload h1 p.1) p.2 (sc 0) (sc 0)) p.2).ch.scale = 0)) := by
  refine ⟨zwits ?_, zwits ?_, zwits ?_⟩ <;> (try unfold Firing.holds) <;> decide +kernel

/-- Accumulator 7 of PE 0 in INT32 mode, claimed by another task, and the instruction behind one of lower index that names accumulator 7 and has not fired. -/
def intAcc (i : Instr) : State := (rt i (sc 1) (sc 0) (sc 0)).setAcc 0 7 { Acc.reset with val := { AccVal.reset with int := true }, last := some 1 }
def claimed7 (i : Instr) : State := (full i).setAcc 0 7 { Acc.reset with claim := some (1, 3) }
def secondStep (i : Instr) (a : Tok) : State :=
  ((rt i a tb tb).modFrame 0 fun fr =>
    { fr with cfg := { fr.cfg with code := rawOfWord 64 (wordsNat (.zinit h1 (zw 7))) :: fr.cfg.code }
              slots := fr.slots.map fun p => (p.1 + 4, p.2) }).focus 0 1

theorem test_witness_AccumulatorInstructions_waits :
    (∀ i ∈ [Instr.zscale h1 (zw 7)], ∃ f, Fires i (intAcc i) f ∧ f.mayUse (intAcc i) i (some 7) ∧ f.clear = true ∧ f.a.kind = .scalar ∧
      (f.accValue (intAcc i) 7).int = true) ∧
    (∀ i ∈ [Instr.zinit h1 (zw 7), .zclrf h1 (zw 7), .zflags h1 (zw 7), .zscale h1 (zw 7), .zload h1 (zw 7)], ∃ f, Fires i (secondStep i ta) f ∧ f.clear = true ∧
      f.inOrder (secondStep i ta) i = false) ∧
    (∀ i ∈ [Instr.zinit h1 (zw 7), .zclrf h1 (zw 7), .zflags h1 (zw 7), .zscale h1 (zw 7), .zload h1 (zw 7)], ∃ f, Fires i (claimed7 i) f ∧
      f.inOrder (claimed7 i) i = true ∧ ((claimed7 i).acc f.pe 7).claim = some (1, 3) ∧ (1, 3) ≠ (f.fr.ctx, f.fr.task)) :=
  ⟨zwits (by decide +kernel), wits (by decide +kernel), wits (by decide +kernel)⟩

/-- A null operand of an instruction of the matrix slot: where it may claim, where it comes out of order, and where another task has the accumulator. -/
theorem test_witness_MismatchAndNulls_matrix :
    ∀ s ∈ [rt (.zscale h1 (zw 7)) nullTok tb tb, secondStep (.zscale h1 (zw 7)) nullTok, (rt (.zscale h1 (zw 7)) nullTok tb tb).setAcc 0 7 { Acc.reset with claim := some (1, 3) }],
      ∃ f, s.firing (.zscale h1 (zw 7)) = some f ∧ (!predMismatch f.h f.c && (Instr.nullSides (.zscale h1 (zw 7))).any (fun sd => (f.get sd).kind == .null) && f.clear) = true := by
  intro s hs
  have h : ∀ s ∈ [rt (.zscale h1 (zw 7)) nullTok tb tb, secondStep (.zscale h1 (zw 7)) nullTok, (rt (.zscale h1 (zw 7)) nullTok tb tb).setAcc 0 7 { Acc.reset with claim := some (1, 3) }],
      hasFiring (.zscale h1 (zw 7)) s (fun f => !predMismatch f.h f.c && (Instr.nullSides (.zscale h1 (zw 7))).any (fun sd => (f.get sd).kind == .null) && f.clear) = true := by
    decide +kernel
  exact hasFiring_spec (h s hs)

/-- An accumulator of any mode and elements. -/
theorem isOf_exists (old : AccVal) (int : Bool) (g : Nat → Nat × Flags) : ∃ n : AccVal, n.isOf old int g := by
  have key : ∀ (l : List Nat) (a : BitVec 5) (j : Nat), j < 5 →
      ((l.foldl (fun (m : BitVec 5) i => m ||| (g i).2.truncate 5) a).getLsbD j = true ↔ a.getLsbD j = true ∨ ∃ i ∈ l, (g i).2.getLsbD j = true) := by
    intro l
    induction l with
    | nil => intro a j _; simp
    | cons x l ih =>
      intro a j hj
      rw [List.foldl_cons, ih _ j hj]
      simp only [BitVec.getLsbD_or, BitVec.truncate_eq_setWidth, BitVec.getLsbD_setWidth, hj, decide_true, Bool.true_and, Bool.or_eq_true, List.mem_cons,
        exists_eq_or_imp, or_assoc]
  refine ⟨{ elems := (List.range 256).map fun i => (g i).1, int := int, flags := (List.range 256).foldl (fun m i => m ||| (g i).2.truncate 5) old.flags },
    rfl, by simp, ?_, ?_⟩
  · intro i hi; simp [hi]
  · intro j hj; simp only [key _ _ _ hj, List.mem_range]

def mx (z : BitVec 3) : AccX := { init := true, z := z }

/-- Two entries of 8-bit integers in each of rings 0 and 7. -/
def ring (n : Nat) : Ring :=
  { bound := some (1, 0), fc := 6, width := 0, depth := 16, error := false, head := 0
    complete := List.replicate n { rows := 15, cols := 15, nonfinite := false, codes := List.replicate 256 1 }, ready := [], pushed := [], marks := []
    arriving := [], undo := none }
def withRings (n : Nat) (s : State) : State := { s with pe := { s.pe with rings := [(0, ring n), (7, ring n)] } }

theorem test_witness_MatrixProducts_mma :
    ∀ p ∈ [(hn 3 3 15 15, hn 3 4 0 15, false), (hn 2 6 0 0, hn 2 6 15 15, true), (hn 3 5 15 0, hn 3 5 15 15, false)],
      ∃ f, Fires (.mma h1 (mx 7)) (rt (.mma h1 (mx 7)) p.1 p.2.1 (sc 0)) f ∧
        f.mayUse (rt (.mma h1 (mx 7)) p.1 p.2.1 (sc 0)) (.mma h1 (mx 7)) (some 7) ∧ f.clear = true ∧
        f.holds (rt (.mma h1 (mx 7)) p.1 p.2.1 (sc 0)) f.a (tin (rt (.mma h1 (mx 7)) p.1 p.2.1 (sc 0)) p.1) ∧
        f.holds (rt (.mma h1 (mx 7)) p.1 p.2.1 (sc 0)) f.b (tin (rt (.mma h1 (mx 7)) p.1 p.2.1 (sc 0)) p.2.1) ∧
        pairMode (tin (rt (.mma h1 (mx 7)) p.1 p.2.1 (sc 0)) p.1).ch (tin (rt (.mma h1 (mx 7)) p.1 p.2.1 (sc 0)) p.2.1).ch = some p.2.2 := by
  refine zwits ?_; unfold Firing.holds; decide +kernel

/-- Selectors of rings 0 and 7 that pop both, and that keep both. -/
theorem test_witness_MatrixProducts_mmar :
    ∀ n ∈ [0x70, 0xF8], ∃ f, Fires (.mmar h1 (mx 0)) (withRings 1 (rt (.mmar h1 (mx 0)) (sc n) (sc 0) (sc 0))) f ∧
      f.mayUse (withRings 1 (rt (.mmar h1 (mx 0)) (sc n) (sc 0) (sc 0))) (.mmar h1 (mx 0)) (some 0) ∧ f.clear = true ∧ f.a.kind = .scalar ∧
      f.a.val.toNat < 2 ^ 8 ∧ f.a.val.toNat % 8 = 0 ∧ f.a.val.toNat / 16 % 8 = 7 ∧
      (∀ q ∈ [0, 7], f.ringEntry (withRings 1 (rt (.mmar h1 (mx 0)) (sc n) (sc 0) (sc 0))) q { fmt := .int 8, scale := 0 }
        { rows := 15, cols := 15, nonfinite := false, codes := List.replicate 256 1 }) ∧
      pairMode { fmt := .int 8, scale := 0 } { fmt := .int 8, scale := 0 } = some true := by
  refine zwits ?_; unfold Firing.ringEntry; decide +kernel

def dw (fromA ep : Bool) : DrainW := { fromA := fromA, ep := ep, slot := 3, fc := 1, rows := 15, cols := 15 }

/-- Program slot 3 of context 1 on PE 0 holds ESTORE and the end. -/
def withProgram (s : State) : State :=
  s.setPctx 1 0 { PeCtx.reset with progs := List.replicate 96 0 ++ [0xE000, 0xF000] ++ List.replicate 30 0 }

/-- A program passes its checks. -/
def runsTo (s : State) (f : Firing) (slot : Nat) (ops : List EpOp) : Bool :=
  match f.program s slot with
  | .ok l => l == ops
  | .error _ => false

theorem runsTo_spec {s : State} {f : Firing} {slot : Nat} {ops : List EpOp} (h : runsTo s f slot ops = true) : f.program s slot = .ok ops := by
  unfold runsTo at h
  cases hp : f.program s slot with
  | ok l => simp only [hp, beq_iff_eq] at h; rw [h]
  | error e => simp [hp] at h

/-- Drains into a fresh tile and over operand a's, with the program and with none. -/
theorem test_witness_Drains_zdrain :
    (∃ f, Fires (.zdrain h1 7 (dw false true)) (withProgram (full (.zdrain h1 7 (dw false true)))) f ∧
      f.mayUse (withProgram (full (.zdrain h1 7 (dw false true)))) (.zdrain h1 7 (dw false true)) (some 7) ∧ f.clear = true ∧
      chanOf (f.x.chan 1) = some { fmt := .fp bf16, scale := 0 } ∧
      f.program (withProgram (full (.zdrain h1 7 (dw false true)))) 3 = .ok [.store] ∧ (lastChannel [.store] 1 { fmt := .fp bf16, scale := 0 }).2.fmt.width = 1) ∧
    (∃ f, Fires (.zdrain h1 7 (dw true false)) (full (.zdrain h1 7 (dw true false))) f ∧
      f.mayUse (full (.zdrain h1 7 (dw true false))) (.zdrain h1 7 (dw true false)) (some 7) ∧ f.clear = true ∧
      f.holds (full (.zdrain h1 7 (dw true false))) f.a (tin (full (.zdrain h1 7 (dw true false))) ta)) := by
  refine ⟨wit ?_ ⟨free_spec ?_, ?_, ?_, runsTo_spec ?_, ?_⟩, wit ?_ ⟨free_spec ?_, ?_, ?_⟩⟩ <;> (try unfold Firing.holds) <;> decide +kernel

/-- TMAC of two INT8 tiles with init, and of two FP8 tiles onto what the accumulator holds. -/
theorem test_witness_Drains_tmac :
    ∀ p ∈ [(mx 7, hn 2 6 0 0, hn 2 6 15 15, true), (({ init := false, z := 0 } : AccX), hn 3 3 15 15, hn 3 4 0 15, false)],
      ∃ f, Fires (.tmac h1 p.1 (dw false false)) (rt (.tmac h1 p.1 (dw false false)) p.2.1 p.2.2.1 (sc 0)) f ∧
        f.mayUse (rt (.tmac h1 p.1 (dw false false)) p.2.1 p.2.2.1 (sc 0)) (.tmac h1 p.1 (dw false false)) (some p.1.z) ∧ f.clear = true ∧
        f.holds (rt (.tmac h1 p.1 (dw false false)) p.2.1 p.2.2.1 (sc 0)) f.a (tin (rt (.tmac h1 p.1 (dw false false)) p.2.1 p.2.2.1 (sc 0)) p.2.1) ∧
        f.holds (rt (.tmac h1 p.1 (dw false false)) p.2.1 p.2.2.1 (sc 0)) f.b (tin (rt (.tmac h1 p.1 (dw false false)) p.2.1 p.2.2.1 (sc 0)) p.2.2.1) ∧
        f.idx ∉ f.fr.stepped ∧ pairMode (tin (rt (.tmac h1 p.1 (dw false false)) p.2.1 p.2.2.1 (sc 0)) p.2.1).ch (tin (rt (.tmac h1 p.1 (dw false false)) p.2.1 p.2.2.1 (sc 0)) p.2.2.1).ch
          = some p.2.2.2 ∧
        (p.1.init = true ∨ (f.accValue (rt (.tmac h1 p.1 (dw false false)) p.2.1 p.2.2.1 (sc 0)) p.1.z).int = p.2.2.2) := by
  refine zwits ?_; unfold Firing.holds; decide +kernel

def rw_ (unbind : Bool) (ring : BitVec 3) : RingW := { unbind := unbind, fc := 6, depth := 15, ring := ring }

/-- TMAC after its step 0, with room for its tile. -/
def stepped1 (i : Instr) : State := (full i).modFrame 0 fun fr => { fr with stepped := [0] }

theorem test_witness_Drains_tmac_step :
    ∀ i ∈ [Instr.tmac h1 (mx 7) (dw false false)], ∃ f, Fires i (stepped1 i) f ∧ f.mayUse (stepped1 i) i (some 7) ∧ f.clear = true ∧ f.idx ∈ f.fr.stepped ∧
      chanOf (f.x.chan 1) = some { fmt := .fp bf16, scale := 0 } ∧ (lastChannel [] 1 { fmt := .fp bf16, scale := 0 }).2.fmt.width = 1 :=
  zwits (by decide +kernel)

/-- RCFG of an unbound ring with room and without, and of a bound one. -/
theorem test_witness_RingsAndEpilogue_rcfg :
    (∀ i ∈ [Instr.rcfg h1 (rw_ false 7)], ∃ f, Fires i (full i) f ∧ f.mayUse (full i) i none ∧ f.clear = true ∧ ((full i).ring f.pe 7).bound = none ∧
      chanOf (f.x.chan 6) = some { fmt := .int 8, scale := 0 } ∧ 16 * widthGranules 0 ≤ (full i).granulesFree f.pe ∧ (full i).olderWaits f .tiles = false) ∧
    (∀ i ∈ [Instr.rcfg h1 (rw_ false 7)], ∃ f, Fires i (fullStore i) f ∧ f.mayUse (fullStore i) i none ∧ f.clear = true ∧ ((fullStore i).ring f.pe 7).bound = none ∧
      (fullStore i).granulesFree f.pe < 16 * widthGranules 0) ∧
    (∀ i ∈ [Instr.rcfg h1 (rw_ true 7)], ∃ f, Fires i (withRings 1 (full i)) f ∧ f.mayUse (withRings 1 (full i)) i none ∧ f.clear = true ∧
      ((withRings 1 (full i)).ring f.pe 7).bound = some (f.fr.ctx, f.fr.task)) :=
  ⟨qwits (by decide +kernel), qwits (by decide +kernel), qwits (by decide +kernel)⟩

/-- RCFG of a ring that is bound already, and one that unbinds a ring bound to none. -/
theorem test_witness_RingsAndEpilogue_rcfg_bad :
    (∀ i ∈ [Instr.rcfg h1 (rw_ false 7)], ∃ f, Fires i (withRings 1 (full i)) f ∧ f.mayUse (withRings 1 (full i)) i none ∧
      ((withRings 1 (full i)).ring f.pe 7).bound ≠ none) ∧
    (∀ i ∈ [Instr.rcfg h1 (rw_ true 7)], ∃ f, Fires i (full i) f ∧ f.mayUse (full i) i none ∧ ((full i).ring f.pe 7).bound = none) :=
  ⟨qwits (by decide +kernel), qwits (by decide +kernel)⟩

/-- Ring 0 with 13 entries, a pending push of number 13 and a copy's entry 14 arriving: the next free number is 15. -/
def crowded (s : State) : State :=
  { s with pe := { s.pe with rings := [(0, { ring 13 with
      pushed := [(1, 13, { rows := 0, cols := 0, nonfinite := false, codes := [] })], arriving := [{ seq := 14, rows := 0, cols := 0, beats := [] }] })] } }

theorem test_witness_RingsAndEpilogue_crowded :
    ∀ i ∈ [Instr.rpush h1 (rw_ false 0)], ∃ f, Fires i (crowded (rt i (hn 2 6 15 15) (sc 0) (sc 0))) f ∧ f.mayUse (crowded (rt i (hn 2 6 15 15) (sc 0) (sc 0))) i none ∧
      (let r := (crowded (rt i (hn 2 6 15 15) (sc 0) (sc 0))).ring f.pe 0
       r.complete.length + r.ready.length + r.pushed.length + r.arriving.length < r.depth ∧ (∃ p ∈ r.pushed, p.2.1 = 13) ∧ (∃ a ∈ r.arriving, a.seq = 14) ∧
         (∀ p ∈ r.pushed, p.2.1 ≠ 15) ∧ (∀ p ∈ r.ready, p.1 ≠ 15) ∧ ∀ a ∈ r.arriving, a.seq ≠ 15) :=
  qwits (by decide +kernel)

/-- RPUSH to a ring with room and to a full one, RPOP of an entry and of none, and RSTAT. -/
theorem test_witness_RingsAndEpilogue_ring :
    (∀ n ∈ [15, 16], ∃ f, Fires (.rpush h1 (rw_ false 0)) (withRings n (rt (.rpush h1 (rw_ false 0)) (hn 2 6 15 15) (sc 0) (sc 0))) f ∧
      f.mayUse (withRings n (rt (.rpush h1 (rw_ false 0)) (hn 2 6 15 15) (sc 0) (sc 0))) (.rpush h1 (rw_ false 0)) none ∧ f.clear = true ∧
      ((withRings n (rt (.rpush h1 (rw_ false 0)) (hn 2 6 15 15) (sc 0) (sc 0))).ring f.pe 0).bound = some (f.fr.ctx, f.fr.task) ∧
      f.holds (withRings n (rt (.rpush h1 (rw_ false 0)) (hn 2 6 15 15) (sc 0) (sc 0))) f.a
        (tin (withRings n (rt (.rpush h1 (rw_ false 0)) (hn 2 6 15 15) (sc 0) (sc 0))) (hn 2 6 15 15)) ∧ hFc f.a.val = 6) ∧
    (∀ n ∈ [0, 1], ∃ f, Fires (.rpop h1 (rw_ false 7)) (withRings n (full (.rpop h1 (rw_ false 7)))) f ∧
      f.mayUse (withRings n (full (.rpop h1 (rw_ false 7)))) (.rpop h1 (rw_ false 7)) none ∧ f.clear = true ∧
      ((withRings n (full (.rpop h1 (rw_ false 7)))).ring f.pe 7).bound = some (f.fr.ctx, f.fr.task) ∧
      ((withRings n (full (.rpop h1 (rw_ false 7)))).ring f.pe 7).error = false) ∧
    (∀ i ∈ [Instr.rstat h1 (rw_ false 7)], ∃ f, Fires i (withRings 16 (full i)) f ∧ f.mayUse (withRings 16 (full i)) i none ∧ f.clear = true ∧
      ((withRings 16 (full i)).ring f.pe 7).bound = some (f.fr.ctx, f.fr.task) ∧ ((withRings 16 (full i)).ring f.pe 7).error = false) := by
  refine ⟨qwits ?_, qwits ?_, qwits ?_⟩ <;> (try unfold Firing.holds) <;> decide +kernel

theorem test_witness_RingsAndEpilogue_ep :
    (∀ e ∈ [({ slot := 3, group := 7 } : EploadW), { slot := 0, group := 0 }], ∃ f, Fires (.epload h1 e) (rd (.epload h1 e) (2 ^ 64 - 1) 0 0) f ∧
      f.mayUse (rd (.epload h1 e) (2 ^ 64 - 1) 0 0) (.epload h1 e) none ∧ f.clear = true ∧ f.a.kind = .scalar) ∧
    (∀ a ∈ [sc 5, ta], ∃ f, Fires (.eparg h1 { arg := 7 }) (rt (.eparg h1 { arg := 7 }) a (sc 0) (sc 0)) f ∧
      f.mayUse (rt (.eparg h1 { arg := 7 }) a (sc 0) (sc 0)) (.eparg h1 { arg := 7 }) none ∧ f.clear = true) :=
  ⟨qwits (by decide +kernel), qwits (by decide +kernel)⟩

end Sys2Proof.Tests
end

/-! ## What a step is (O56) -/

namespace Sys2Proof

theorem Tab.mem_of_get? {α : Type} {k : Nat} {v : α} {t : Tab α} (h : Tab.get? k t = some v) : (k, v) ∈ t := by
  induction t with
  | nil => cases h
  | cons p t ih =>
    obtain ⟨j, w⟩ := p
    by_cases hj : j = k
    · subst hj
      simp only [Tab.get?, if_true, Option.some.injEq] at h
      simp [h]
    · simp only [Tab.get?, if_neg hj] at h
      exact List.mem_cons_of_mem _ (ih h)

theorem Tab.get?_of_mem {α : Type} {k : Nat} {v : α} {t : Tab α} (hs : t.sorted = true) (h : (k, v) ∈ t) : Tab.get? k t = some v := by
  induction t with
  | nil => cases h
  | cons p t ih =>
    obtain ⟨habove, htail⟩ := (Tab.sorted_cons p t).mp hs
    rcases List.mem_cons.mp h with rfl | h
    · simp [Tab.get?]
    · have hlt := habove _ h
      simp [Tab.get?, Nat.ne_of_lt hlt, ih htail h]

theorem Tab.get?_map {α β : Type} (g : Nat × α → β) (k : Nat) (t : Tab α) :
    Tab.get? k (t.map fun p => (p.1, g p)) = (Tab.get? k t).map fun v => g (k, v) := by
  induction t with
  | nil => rfl
  | cons p t ih =>
    obtain ⟨j, w⟩ := p
    by_cases hj : j = k
    · subst hj; simp [Tab.get?]
    · simp [Tab.get?, hj, ih]

namespace Machine

/-! ### What a step does -/

theorem Cfg.instr_eq_some {c : Cfg} {n : Nat} {i : Instr} (h : c.instr n = some i) : ∃ raw, c.code[n]? = some raw ∧ decodeRaw raw = .ok i := by
  unfold Cfg.instr at h
  split at h
  · cases h
  · rename_i raw hraw
    split at h
    · rename_i j hj; cases h; exact ⟨raw, hraw, hj⟩
    · cases h

theorem Cfg.instr_of_mem_instrs {c : Cfg} {n : Nat} {i : Instr} (h : (n, i) ∈ c.instrs) : c.instr n = some i := by
  simp only [Cfg.instrs, List.mem_filterMap, Option.map_eq_some_iff, Prod.mk.injEq] at h
  obtain ⟨m, -, j, hj, rfl, rfl⟩ := h
  exact hj

/-- A contender is an instruction of a live frame of a context that issues, with its operands. -/
theorem contenders_spec {s : State} {x : Contender} (h : x ∈ s.contenders) :
    (x.k, x.f) ∈ s.pe.frames ∧ x.f.live = true ∧ s.issuing x.f.ctx = true ∧ x.f.cfg.instr x.idx = some x.i ∧ x.f.present x.idx x.i = true := by
  simp only [State.contenders, List.mem_flatMap] at h
  obtain ⟨⟨k, f⟩, hp, hx⟩ := h
  split at hx
  · rename_i hc
    simp only [Bool.and_eq_true] at hc
    obtain ⟨⟨⟨hlive, hissue⟩, -⟩, -⟩ := hc
    simp only [List.mem_map, List.mem_filter] at hx
    obtain ⟨⟨idx, i⟩, ⟨hmem, hcomp⟩, rfl⟩ := hx
    simp only [State.competes, Bool.and_eq_true] at hcomp
    exact ⟨hp, hlive, hissue, Cfg.instr_of_mem_instrs hmem, hcomp.1.1.1⟩
  · cases hx

theorem mem_of_choose {l : List Action} {k : Nat} {planned : Bool} {a : Action} (h : choose l k planned = some a) : a ∈ l := by
  unfold choose at h
  split at h
  · split at h
    · rename_i b hb; cases h; exact List.mem_of_getElem? hb
    · exact List.mem_of_head? h
  · exact List.mem_of_getElem? h

theorem nextAction_mem {s : State} {a : Action} (h : s.nextAction = some a) : a ∈ s.due ∨ a ∈ s.actions := by
  unfold State.nextAction at h
  simp only at h
  split at h
  · split at h
    · exact .inr (mem_of_choose h)
    · cases h
  · exact .inl (mem_of_choose h)

/-- An instruction that a step issues is a contender of its slot. -/
theorem contender_of_issue {s : State} {k idx : Nat} {i : Instr} (h : s.nextAction = some (.issue k idx i)) :
    ∃ x ∈ s.contenders, x.k = k ∧ x.idx = idx ∧ x.i = i := by
  have hiss : ∃ x ∈ s.issuable, x.k = k ∧ x.idx = idx ∧ x.i = i := by
    rcases nextAction_mem h with h | h
    · unfold State.due at h
      split at h
      · simp at h
      · simp only [List.mem_append, List.mem_map, List.mem_filter, Action.issue.injEq, reduceCtorEq, and_false, exists_false, or_false] at h
        obtain ⟨x, ⟨hx, -⟩, hk⟩ := h
        exact ⟨x, hx, hk⟩
    · unfold State.actions at h
      rcases List.mem_append.mp h with h | h
      · simp only [List.mem_append, List.mem_map, Action.issue.injEq, reduceCtorEq, and_false, exists_false, or_false] at h
        exact h
      · split at h
        · cases h
        · split at h <;> simp at h
  obtain ⟨x, hx, hk⟩ := hiss
  exact ⟨x, (List.mem_filter.mp hx).1, hk⟩

theorem step_of_action {s : State} {a : Action} (hb : s.badWord = none) (h : s.nextAction = some a) : step s = s.popped.run a := by
  simp [step, State.advance, hb, h]

/-- The step of an instruction that issues (R22, R78). -/
theorem step_issue {s : State} {k idx : Nat} {i : Instr} (hs : Tab.sorted s.pe.frames = true) (hb : s.badWord = none)
    (h : s.nextAction = some (.issue k idx i)) :
    ∃ fr raw, s.frame? k = some fr ∧ fr.isOpen = true ∧ s.issuing fr.ctx = true ∧ fr.cfg.code[idx]? = some raw ∧ decodeRaw raw = .ok i ∧
      (∀ sd ∈ i.required, (fr.operand idx sd).isSome = true) ∧
      ∀ t, exec i (s.popped.focus k idx) = .next t →
        step s = .next (if t.waits k idx then t else t.tookSlot s.popped.contenders { k := k, f := fr, idx := idx, i := i } s.popped) := by
  obtain ⟨x, hx, rfl, rfl, rfl⟩ := contender_of_issue h
  obtain ⟨hmem, hlive, hissue, hinstr, hpresent⟩ := contenders_spec hx
  obtain ⟨raw, hraw, hdec⟩ := Cfg.instr_eq_some hinstr
  have hframe : s.frame? x.k = some x.f := Tab.get?_of_mem hs hmem
  simp only [Frame.live, Bool.and_eq_true] at hlive
  refine ⟨x.f, raw, hframe, hlive.1, hissue, hraw, hdec, List.all_eq_true.mp hpresent, fun t ht => ?_⟩
  have hpop : s.popped.frame? x.k = some x.f := hframe
  rw [step_of_action hb h]
  simp only [State.run, State.runIssue, ht, hpop]
  split <;> rfl

theorem exec_eventOf {i : Instr} {e : Event} (h : eventOf i = some e) (s : State) : e.run s = exec i s := by
  cases i <;> cases h <;> rfl

/-- The step of an event (R424, R475). -/
theorem step_event {s : State} {e : Event} {i : Instr} (hb : s.badWord = none) (h : s.nextAction = some (.event e)) (hi : eventOf i = some e) :
    (∀ t, exec i s.popped = .next t → step s = .next ((s.popped.crossed t e).foldl State.grouped t)) ∧
      ((∀ t, exec i s.popped ≠ .next t) → step s = exec i s.popped) := by
  rw [step_of_action hb h]
  simp only [State.run, exec_eventOf hi]
  constructor
  · intro t ht; rw [ht]
  · intro hn
    cases he : exec i s.popped with
    | next t => exact absurd he (hn t)
    | fault r => rfl
    | refused r => rfl

theorem grouped_link (s : State) (pkg l : Nat) : (s.grouped pkg).link l =
    if l = Config.linkOf pkg then { s.link l with tx := { (s.link l).tx with counter := (s.link l).tx.counter + 1 }
                                                  rx := { (s.link l).rx with counter := (s.link l).rx.counter + 1 } } else s.link l := by
  by_cases h : l = Config.linkOf pkg
  · subst h; simp [State.grouped, State.link, Tab.getD, Tab.get?_put_same]
  · simp [State.grouped, State.link, Tab.getD, Tab.get?_put_ne h, h]

end Machine
end Sys2Proof

namespace Sys2Proof.Machine

/-! ### The passage of time -/

/-- What the passage of time leaves alone, besides the count of cycles. -/
structure Idles (s t : State) : Prop where
  mem : t.mem = s.mem
  net : t.net = s.net
  tasks : t.pe.tasks = s.pe.tasks
  cycle : t.sched.cycle = s.sched.cycle
  regs : ∀ c, (t.ctx? c).map Ctx.regs = (s.ctx? c).map Ctx.regs

theorem Idles.refl (s : State) : Idles s s := ⟨rfl, rfl, rfl, rfl, fun _ => rfl⟩

theorem Idles.trans {s t u : State} (a : Idles s t) (b : Idles t u) : Idles s u :=
  ⟨b.mem.trans a.mem, b.net.trans a.net, b.tasks.trans a.tasks, b.cycle.trans a.cycle, fun c => (b.regs c).trans (a.regs c)⟩

theorem foldl_idles {α : Type} (g : State → α → State) (hg : ∀ s a, Idles s (g s a)) (l : List α) (s : State) : Idles s (l.foldl g s) := by
  induction l generalizing s with
  | nil => exact .refl s
  | cons a l ih => exact (hg s a).trans (ih _)

theorem modCtx_idles (s : State) (c : Nat) {g : Ctx → Ctx} (hg : ∀ x, (g x).regs = x.regs) : Idles s (s.modCtx c g) := by
  unfold State.modCtx
  cases hx : s.ctx? c with
  | none => exact .refl s
  | some x =>
    refine ⟨rfl, rfl, rfl, rfl, fun d => ?_⟩
    by_cases hd : d = c
    · subst hd; simp [ctx?_setCtx_same, hx, hg]
    · simp [ctx?_setCtx_ne _ hd]

theorem setPctx_idles (s : State) (c pe : Nat) (v : PeCtx) : Idles s (s.setPctx c pe v) := ⟨rfl, rfl, rfl, rfl, fun _ => rfl⟩
theorem modWin_idles (s : State) (pe num : Nat) (g : WinCfg → WinCfg) : Idles s (s.modWin pe num g) := ⟨rfl, rfl, rfl, rfl, fun _ => rfl⟩
theorem setLoadCount_idles (s : State) (pe num n : Nat) : Idles s (s.setLoadCount pe num n) := ⟨rfl, rfl, rfl, rfl, fun _ => rfl⟩

theorem addClass_idles (s : State) (c pe n : Nat) (k : Classed) : Idles s (s.addClass c pe n k) := by
  unfold State.addClass
  split
  · exact modWin_idles _ _ _ _
  · exact (setPctx_idles _ _ _ _).trans (setLoadCount_idles _ _ _ _)
  · exact (setPctx_idles _ _ _ _).trans (modWin_idles _ _ _ _)
  · exact (setPctx_idles _ _ _ _).trans (modWin_idles _ _ _ _)
  · exact .refl s

theorem countClass_idles (s : State) (c pe n : Nat) : Idles s (s.countClass c pe n) := by
  unfold State.countClass
  split
  · exact .refl s
  · split
    · exact addClass_idles _ _ _ _ _
    · exact (addClass_idles _ _ _ _ _).trans (addClass_idles _ _ _ _ _)

theorem takeSamples_idles (s : State) (c : Nat) : Idles s (s.takeSamples c) := by
  refine modCtx_idles s c fun x => ?_
  split
  · rfl
  · split <;> rfl

theorem countCtx_idles (s : State) (c n : Nat) : Idles s (s.countCtx c n) :=
  ((takeSamples_idles s c).trans (modCtx_idles _ c (g := fun x => { x with runCycles := x.runCycles + n }) fun _ => rfl)).trans
    (foldl_idles (fun s pe => s.countClass c pe n) (fun s pe => countClass_idles s c pe n) _ _)

theorem countCycles_idles (s : State) (n : Nat) : Idles s (s.countCycles n) := by
  refine foldl_idles _ (fun s p => ?_) _ s
  split
  · exact .refl s
  · split
    · split
      · exact .refl s
      · exact countCtx_idles _ _ _
    · exact countCtx_idles _ _ _

theorem clockCtxs_idles (s : State) (n : Nat) : Idles s (s.clockCtxs n) := by
  refine ⟨rfl, rfl, rfl, rfl, fun c => ?_⟩
  simp only [State.clockCtxs, State.ctx?, Tab.get?_map, Option.map_map]
  rfl

theorem clockQuads_idles (s : State) (n : Nat) : Idles s (s.clockQuads n) := by
  unfold State.clockQuads
  refine foldl_idles _ (fun _ _ => ?_) _ s
  exact ⟨rfl, rfl, rfl, rfl, fun _ => rfl⟩

theorem clockBlocked_idles (s : State) : Idles s s.clockBlocked := ⟨rfl, rfl, rfl, rfl, fun _ => rfl⟩
theorem clockReady_idles (s : State) (n : Nat) : Idles s (s.clockReady n) := ⟨rfl, rfl, rfl, rfl, fun _ => rfl⟩
theorem clockReqs_idles (s : State) (n : Nat) : Idles s (s.clockReqs n) := ⟨rfl, rfl, rfl, rfl, fun _ => rfl⟩
theorem popped_idles (s : State) : Idles s s.popped := ⟨rfl, rfl, rfl, rfl, fun _ => rfl⟩

/-- The state in which a tick of n cycles ends, before CYCLE is advanced. -/
theorem tick_idles (s : State) (n : Nat) : ∃ u, Idles s u ∧ s.tick n = { u with sched := { u.sched with cycle := u.sched.cycle + n } } :=
  ⟨_, (((countCycles_idles s n).trans (clockCtxs_idles _ n)).trans (clockQuads_idles _ n)).trans (clockBlocked_idles _), rfl⟩

theorem foldl_pos {α : Type} {g : Nat → α → Nat} (hg : ∀ n a, 1 ≤ n → 1 ≤ g n a) (l : List α) {n : Nat} (h : 1 ≤ n) : 1 ≤ l.foldl g n := by
  induction l generalizing n with
  | nil => exact h
  | cons a l ih => exact ih (hg n a h)

theorem horizon_pos (s : State) : 1 ≤ s.horizon := by
  unfold State.horizon
  refine foldl_pos (fun n p hn => ?_) _ (by omega)
  have hw : 1 ≤ (if p.2.wdCount = 0 then n else min n p.2.wdCount) := by split <;> omega
  simp only
  split
  · exact Nat.le_min.mpr ⟨hw, Nat.le_max_left _ _⟩
  · exact hw

theorem idleFor_pos (s : State) : 1 ≤ s.idleFor := by
  have hz := horizon_pos s
  unfold State.idleFor
  simp only
  split
  · exact Nat.le_refl 1
  · split <;> omega

/-- The step in which nothing happens. -/
theorem step_idle {s : State} (hb : s.badWord = none) (h : s.nextAction = none) :
    ∃ t n, step s = .next t ∧ 1 ≤ n ∧ t.sched.cycle = s.sched.cycle + n ∧ t.mem = s.mem ∧ t.net = s.net ∧ t.pe.tasks = s.pe.tasks ∧
      ∀ c, (t.ctx? c).map Ctx.regs = (s.ctx? c).map Ctx.regs := by
  obtain ⟨u, hu, htick⟩ := tick_idles ((s.popped.clockReady s.idleFor).clockReqs s.idleFor) s.idleFor
  have hi : Idles s u := (((popped_idles s).trans (clockReady_idles _ _)).trans (clockReqs_idles _ _)).trans hu
  refine ⟨_, s.idleFor, by simp only [step, State.advance, hb, h]; rfl, idleFor_pos s, ?_⟩
  rw [htick]
  exact ⟨congrArg (· + s.idleFor) hi.cycle, hi.mem, hi.net, hi.tasks, hi.regs⟩

theorem step_badWord {s : State} {r : Reject} (h : s.badWord = some r) : step s = .refused (.illFormed r) := by
  simp [step, State.advance, h]

/-! ### The placed word -/

theorem wordCfg_code (r : Raw) : (wordCfg r).code = [r] := by
  unfold wordCfg
  simp only
  split
  · rfl
  · rfl
  · rfl
  · split <;> rfl
  · rfl

theorem wordCfg_num (r : Raw) : (wordCfg r).num = 0 := by
  unfold wordCfg
  simp only
  split
  · rfl
  · rfl
  · rfl
  · split <;> rfl
  · rfl

theorem wordCfg_instr {r : Raw} {i : Instr} (h : decodeRaw r = .ok i) : (wordCfg r).instr 0 = some i := by
  simp [Cfg.instr, wordCfg_code, h]

theorem wordCfg_instrs {r : Raw} {i : Instr} (h : decodeRaw r = .ok i) : (wordCfg r).instrs = [(0, i)] := by
  simp [Cfg.instrs, wordCfg_code, wordCfg_instr h, List.range_succ]

/-- A block whose instruction is no store has no store to wait for. -/
theorem wordCfg_storeMask {r : Raw} {i : Instr} (h : decodeRaw r = .ok i) (hs : i.isStore = false) : (wordCfg r).storeMask = 0 := by
  unfold wordCfg
  have hi : ({ num := 0, addr := 0, obj := 0, ty := .code, code := [r], reads := [], writes := [], storeMask := 0, nodes := [] } : Cfg).instr 0 = some i := by
    simp [Cfg.instr, h]
  simp only [hi]
  split
  · rfl
  · rfl
  · rfl
  · rename_i j _ _ _ hj; cases hj; simp [hs]
  · rfl

theorem guarded_isStore {i : Instr} (h : i.guarded = true) : i.isStore = false := by
  unfold Instr.isStore
  split
  · cases h
  · cases h
  · cases h
  · rfl

theorem get?_foldl_put {α : Type} {l : List (Nat × α)} {k : Nat} (t : Tab α) (h : (∃ v, (k, v) ∈ l) ∨ (Tab.get? k t).isSome = true) :
    (Tab.get? k (l.foldl (fun t p => t.put p.1 p.2) t)).isSome = true := by
  induction l generalizing t with
  | nil => simpa using h
  | cons p l ih =>
    refine ih _ ?_
    by_cases hk : k = p.1
    · right; rw [hk, Tab.get?_put_same]; rfl
    · rw [Tab.get?_put_ne hk]
      rcases h with ⟨v, hv⟩ | h
      · rcases List.mem_cons.mp hv with rfl | hv
        · exact absurd rfl hk
        · exact .inl ⟨v, hv⟩
      · exact .inr h

theorem wordSlots_operand {c : Cfg} {i : Instr} (h : c.instr 0 = some i) {sd : Side} (hsd : sd ∈ i.required) :
    (Tab.get? (0 * 4 + sideNum sd) (wordSlots c)).isSome = true := by
  rw [Nat.zero_mul, Nat.zero_add]
  simp only [wordSlots, h]
  exact get?_foldl_put _ (.inl ⟨_, List.mem_map_of_mem hsd⟩)

/-- The state with a word placed after reset. -/
abbrev placed (nbits w : Nat) : State := State.reset.withFetchWord nbits w

/-- The frame that holds the placed word. -/
def placedFrame (nbits w : Nat) : Frame := wordFrame (wordCfg (rawOfWord nbits w)) 1 0

/-- The one contender there. -/
def placedContender (nbits w : Nat) (i : Instr) : Contender := { k := 0, f := placedFrame nbits w, idx := 0, i := i }

theorem placed_frames (nbits w : Nat) : (placed nbits w).pe.frames = [(0, placedFrame nbits w)] := rfl

theorem placedFrame_cfg (nbits w : Nat) : (placedFrame nbits w).cfg = wordCfg (rawOfWord nbits w) := rfl

section
variable {nbits w : Nat} {i : Instr} (h : decodeRaw (rawOfWord nbits w) = .ok i)
include h

theorem placed_badWord : (placed nbits w).badWord = none := by
  simp [State.badWord, placed_frames, placedFrame_cfg, wordCfg_code, h]

theorem placedFrame_present : (placedFrame nbits w).present 0 i = true :=
  List.all_eq_true.mpr fun _ hsd => wordSlots_operand (wordCfg_instr h) hsd

/-- The block's one instruction waits for no other and for no store (R88). -/
theorem placedFrame_settled (hg : i.guarded = true) : (placedFrame nbits w).settled 0 = true := by
  simp [Frame.settled, placedFrame_cfg, wordCfg_code, wordCfg_storeMask h (guarded_isStore hg), maskBits, bitAt]

theorem placed_competes : (placed nbits w).competes 0 (placedFrame nbits w) 0 i = true := by
  have hsettled : (!i.guarded || (placedFrame nbits w).settled 0) = true := by
    cases hg : i.guarded with
    | false => rfl
    | true => simp [placedFrame_settled h hg]
  have hdivider : (placed nbits w).dividerHeld (0 / 256) = false := rfl
  have hstat : (placedFrame nbits w).stat.get? 0 = none := rfl
  simp only [State.competes, placedFrame_present h, hsettled, hdivider, hstat, Bool.and_false, Bool.not_false, Bool.and_self]

theorem placed_contenders : (placed nbits w).contenders = [placedContender nbits w i] := by
  have hwindow : (placed nbits w).inWindow 0 (wordCfg (rawOfWord nbits w)).num = true := by
    rw [wordCfg_num]; rfl
  have hlive : (placedFrame nbits w).live = true := rfl
  have hissue : (placed nbits w).issuing (placedFrame nbits w).ctx = true := rfl
  have hslow : (placed nbits w).slowed (0 / 256) = false := rfl
  simp [State.contenders, placed_frames, hlive, hissue, hwindow, hslow, placedFrame_cfg, wordCfg_instrs h, placed_competes h, placedContender]

end

theorem slotCap_pos (x : IssueSlot) : 1 ≤ slotCap x := by cases x <;> decide

/-- A contender that is alone and has just become ready has its whole bound before it (R25). -/
theorem placed_pressed (nbits w : Nat) (i : Instr) {l : List Contender} (h : l = [placedContender nbits w i] ∨ l = []) :
    (placed nbits w).pressed l = false := by
  rcases h with rfl | rfl
  · have hdead : (placed nbits w).deadline (placedContender nbits w i) = 2048 := rfl
    have hcap := slotCap_pos i.slot
    have hcycle : (placed nbits w).sched.cycle = 0 := rfl
    have hi : (placedContender nbits w i).i = i := rfl
    simp only [State.pressed, List.any_cons, List.any_nil, Bool.or_false, hdead, hcycle, hi, decide_eq_false_iff_not, Nat.not_lt]
    refine (List.length_filter_le _ _).trans ?_
    simp only [List.length_singleton]
    omega
  · rfl

theorem placed_rivals (nbits w : Nat) (i : Instr) : rivals [placedContender nbits w i] (placedContender nbits w i) = [placedContender nbits w i] := by
  simp [rivals]

theorem placed_chosen (nbits w : Nat) (i : Instr) :
    (placed nbits w).chosen [placedContender nbits w i] (placedContender nbits w i) = true := by
  have hurgent : (placed nbits w).isUrgent (placedContender nbits w i).f.ctx = false := rfl
  have huse : (placed nbits w).slotUse (placedContender nbits w i).pe (placedContender nbits w i).slot = { cycle := 0, count := 0, urgent := false } := rfl
  have hturn : (placed nbits w).nextCtx (placedContender nbits w i).pe (placedContender nbits w i).slot
      (([placedContender nbits w i].map fun y => y.f.ctx).eraseDups) = some (placedContender nbits w i).f.ctx := rfl
  have hcap := slotCap_pos (placedContender nbits w i).i.slot
  simp only [State.chosen, placed_rivals, placed_pressed nbits w i (.inl rfl), hturn, huse]
  simp [hurgent]
  omega

section
variable {nbits w : Nat} {i : Instr} (h : decodeRaw (rawOfWord nbits w) = .ok i)
include h

theorem placed_issuable : (placed nbits w).issuable = [placedContender nbits w i] := by
  simp [State.issuable, placed_contenders h, placed_chosen]

theorem placed_due : (placed nbits w).due = [] := by
  have hsamples : (placed nbits w).sampleEvents = [] := rfl
  have hhalt : ((placed nbits w).ctxs.filter fun p => haltDue (placed nbits w).sched.cycle p.2) = [] := rfl
  have hclock : ((placed nbits w).clockEvents.filter fun e => isNext (e.run (placed nbits w))) = [] := rfl
  have hurgent : (placed nbits w).isUrgent (placedContender nbits w i).f.ctx = false := rfl
  have hover : (placed nbits w).overdue [placedContender nbits w i] (placedContender nbits w i) = false := by
    simp [State.overdue, placed_rivals, hurgent, placed_pressed nbits w i (.inl rfl), placed_pressed nbits w i (.inr rfl)]
  simp only [State.due, hsamples, hhalt, hclock, placed_issuable h, placed_contenders h]
  simp [hover]

/-- A placed word is the next to issue. -/
theorem placed_next : (placed nbits w).badWord = none ∧ (placed nbits w).nextAction = some (.issue 0 0 i) := by
  refine ⟨placed_badWord h, ?_⟩
  have hpick : (placed nbits w).pick = { k := 0, dt := 0 } := rfl
  have hplan : (!(placed nbits w).sched.plan.isEmpty) = true := rfl
  simp only [State.nextAction, placed_due h, hpick, hplan, State.actions, placed_issuable h, choose, if_true]
  rfl

end

end Sys2Proof.Machine

section
open Sys2Proof Sys2Proof.Machine

/-- Settles O56: what each kind of action makes of a step, one lemma for each. -/
theorem stepRunsTheDecodedInstruction : Obligations.StepRunsTheDecodedInstruction := by
  unfold Obligations.StepRunsTheDecodedInstruction
  refine ⟨fun s k idx i hs hb h => step_issue hs hb h, fun s e hb h i hi => step_event hb h hi, fun s pkg => ⟨_, rfl, grouped_link s pkg⟩,
    fun i e s hi => exec_eventOf hi s, fun s i hb h => step_of_action hb h, fun s hb h => step_idle hb h, fun s r hb => step_badWord hb,
    fun nbits w i h => placed_next h⟩

end

/-! ## What arrives at a PE (O47) -/

namespace Sys2Proof.Machine

/-! ### Which operations leave the table of contexts alone -/

theorem foldl_ctxs {α : Type} (g : State → α → State) (hg : ∀ s a, (g s a).ctxs = s.ctxs) (l : List α) (s : State) : (l.foldl g s).ctxs = s.ctxs := by
  induction l generalizing s with
  | nil => rfl
  | cons a l ih => exact (ih _).trans (hg s a)

theorem ite_ctxs {c : Prop} [Decidable c] {a b s : State} (ha : a.ctxs = s.ctxs) (hb : b.ctxs = s.ctxs) : (if c then a else b).ctxs = s.ctxs := by
  split
  · exact ha
  · exact hb

theorem State.sameButBytes.ctxs {s t : State} (h : s.sameButBytes t) : t.ctxs = s.ctxs := by rw [h]

@[simp] theorem writeByte_ctxs (s : State) (k : Nat) (v : Byte) : (s.writeByte k v).ctxs = s.ctxs := (writeByte_only s k v).ctxs
@[simp] theorem writeBytes_ctxs (s : State) (k : Nat) (l : List Byte) : (s.writeBytes k l).ctxs = s.ctxs := (writeBytes_only s k l).ctxs
@[simp] theorem write64_ctxs (s : State) (k v : Nat) : (s.write64 k v).ctxs = s.ctxs := (write64_only s k v).ctxs
@[simp] theorem writeRuns_ctxs (s : State) (ks : List (Nat × Nat)) (l : List Byte) : (s.writeRuns ks l).ctxs = s.ctxs := (writeRuns_only s ks l).ctxs
@[simp] theorem modTask_ctxs (s : State) (pe t : Nat) (g : Task → Task) : (s.modTask pe t g).ctxs = s.ctxs := by
  unfold State.modTask; split <;> rfl

@[simp] theorem markAt_ctxs (s : State) (k idx : Nat) (st : IStat) : (s.markAt k idx st).ctxs = s.ctxs := modFrame_ctxs _ _ _
@[simp] theorem setStat_ctxs (s : State) (k idx : Nat) (st : IStat) : (s.setStat k idx st).ctxs = s.ctxs := modFrame_ctxs _ _ _

@[simp] theorem countWrite_ctxs (s : State) (home : Agent) (keys : List Nat) : (s.countWrite home keys).ctxs = s.ctxs := by
  unfold State.countWrite
  refine foldl_ctxs _ (fun s p => ?_) _ s
  simp only
  split <;> rfl

@[simp] theorem storeRuns_ctxs (s : State) (ks : List (Nat × Nat)) (l : List Byte) : (s.storeRuns ks l).ctxs = s.ctxs := by
  unfold State.storeRuns
  exact (foldl_ctxs _ (fun _ _ => countWrite_ctxs _ _ _) _ _).trans (writeRuns_ctxs s ks l)

@[simp] theorem clearCovered_ctxs (s : State) (ks : List (Nat × Nat)) : (s.clearCovered ks).ctxs = s.ctxs := by
  unfold State.clearCovered
  refine foldl_ctxs _ (fun s r => foldl_ctxs _ (fun s i => ?_) _ s) _ s
  simp only
  split <;> rfl

theorem stopWrite_ctxs {s t : State} {c off : Nat} {l : List Byte} (h : s.stopWrite c off l = some t) : t.ctxs = s.ctxs := by
  unfold State.stopWrite at h
  split at h
  · cases h
  · split at h
    · split at h
      · cases h
      · cases h; simp
    · cases h

@[simp] theorem dropRef_ctxs (s : State) (h : Word) : (s.dropRef h).ctxs = s.ctxs := (dropRef_refs s h).ctxs
@[simp] theorem dropTok_ctxs (s : State) (pe : Nat) (t : Tok) : (s.dropTok pe t).ctxs = s.ctxs := (dropTok_refs s pe t).ctxs

@[simp] theorem release_ctxs (s : State) (pe : Nat) (h : Word) : (s.release pe h).ctxs = s.ctxs := by
  unfold State.release
  split <;> simp

theorem addRef_ctxs {s t : State} {h : Word} (e : s.addRef h = some t) : t.ctxs = s.ctxs := by
  unfold State.addRef at e
  split at e
  · cases e; rfl
  · split at e
    · cases e
    · cases e; rfl

theorem addRefs_ctxs {l : List Tok} {s t : State} (e : s.addRefs l = some t) : t.ctxs = s.ctxs := by
  induction l generalizing s with
  | nil => cases e; rfl
  | cons a l ih =>
    unfold State.addRefs at e
    split at e
    · split at e
      · rename_i s' hs; exact (ih e).trans (addRef_ctxs hs)
      · cases e
    · exact ih e

@[simp] theorem regain_ctxs (s : State) (c : Nat) : (s.regain c).ctxs = s.ctxs := by
  unfold State.regain
  refine foldl_ctxs _ (fun s p => ?_) _ s
  split
  · refine foldl_ctxs _ (fun s t => ?_) _ s
    cases h : s.addRefs [t] with
    | none => rfl
    | some u => exact addRefs_ctxs h
  · rfl

@[simp] theorem failFrame_ctxs (s : State) (src : Src) : (s.failFrame src).ctxs = s.ctxs := by
  unfold State.failFrame
  split
  · split <;> rfl
  · rfl

@[simp] theorem reply_ctxs (s : State) (a : Agent) (cls : Nat) (ds : List Dest) (t : Tok) (src : Src) : (s.reply a cls ds t src).ctxs = s.ctxs :=
  foldl_ctxs _ (fun _ _ => post_ctxs _ _ _ _ _) ds s

@[simp] theorem unexpect_ctxs (s : State) (d : Dest) : (s.unexpect d).ctxs = s.ctxs := by
  unfold State.unexpect
  split <;> rfl

@[simp] theorem dropReplies_ctxs (s : State) (a : Access) : (s.dropReplies a).ctxs = s.ctxs := by
  have hdests : (a.dests.foldl (fun s d => s.unexpect d) s).ctxs = s.ctxs := foldl_ctxs _ unexpect_ctxs _ s
  unfold State.dropReplies
  simp only
  split
  · exact (foldl_ctxs _ (fun _ _ => dropRef_ctxs _ _) _ _).trans hdests
  · exact (foldl_ctxs _ (fun _ _ => dropRef_ctxs _ _) _ _).trans hdests
  · exact hdests

@[simp] theorem dropAccesses_ctxs (s : State) (uid : Nat) : (s.dropAccesses uid).ctxs = s.ctxs := by
  unfold State.dropAccesses
  refine foldl_ctxs _ (fun s p => ?_) _ s
  split <;> simp

@[simp] theorem dropRequests_ctxs (s : State) (uid : Nat) : (s.dropRequests uid).ctxs = s.ctxs := by
  unfold State.dropRequests
  exact foldl_ctxs _ unexpect_ctxs _ _

@[simp] theorem tellHeads_ctxs (s : State) (pe q : Nat) : (s.tellHeads pe q).ctxs = s.ctxs := by
  unfold State.tellHeads
  refine foldl_ctxs _ (fun s p => ?_) _ s
  split
  · split <;> rfl
  · rfl

@[simp] theorem dropRings_ctxs (s : State) (pe uid : Nat) : (s.dropRings pe uid).ctxs = s.ctxs := rfl
@[simp] theorem revertAccs_ctxs (s : State) (pe uid : Nat) : (s.revertAccs pe uid).ctxs = s.ctxs := rfl

@[simp] theorem unreserve_ctxs (s : State) (pe uid : Nat) (e : Effect) : (s.unreserve pe uid e).ctxs = s.ctxs := by
  unfold State.unreserve
  split
  · simp only
    split <;> simp
  · rfl
  · rfl
  · rfl
  · rfl

@[simp] theorem discardFrame_ctxs (s : State) (k : Nat) : (s.discardFrame k).ctxs = s.ctxs := by
  unfold State.discardFrame
  split
  · rfl
  · refine (foldl_ctxs _ (fun _ _ => unreserve_ctxs _ _ _ _) _ _).trans ?_
    simp

@[simp] theorem voidStore_ctxs (s : State) (k idx : Nat) : (s.voidStore k idx).ctxs = s.ctxs := by
  unfold State.voidStore
  split <;> rfl

@[simp] theorem queueError_ctxs (s : State) (qi slot code : Nat) : (s.queueError qi slot code).ctxs = s.ctxs := by
  unfold State.queueError
  split
  · rfl
  · simp only
    split <;> simp

@[simp] theorem markFaulted_ctxs (s : State) (src : Src) : (s.markFaulted src).ctxs = s.ctxs := by
  unfold State.markFaulted
  split
  · split <;> rfl
  · rfl

@[simp] theorem noteStore_ctxs (s : State) (src : Src) (lsid stream : Nat) (cells : List (Nat × Nat)) (scalar : Bool) (data : Option (List Byte))
    (holder : Option Word) : (s.noteStore src lsid stream cells scalar data holder).ctxs = s.ctxs := by
  unfold State.noteStore
  simp only
  split
  · rfl
  · split <;> rfl

@[simp] theorem sweepHolds_ctxs (s : State) : s.sweepHolds.ctxs = s.ctxs := rfl

@[simp] theorem setSpillBytes_ctxs (s : State) (key : Nat) (l : List Byte) : (s.setSpillBytes key l).ctxs = s.ctxs := rfl

@[simp] theorem setSpill_ctxs (s : State) (pe z : Nat) (v : AccVal) (held : Bool) (slot task : Nat) :
    (s.setSpill pe z v held slot task).ctxs = s.ctxs := by
  simp [State.setSpill]

@[simp] theorem restoreAcc_ctxs (s : State) (pe z : Nat) : (s.restoreAcc pe z).ctxs = s.ctxs := by
  unfold State.restoreAcc
  simp only
  split <;> simp

@[simp] theorem freeCounter_ctxs (s : State) (cid : Nat) : (s.freeCounter cid).ctxs = s.ctxs := rfl

@[simp] theorem traceReq_ctxs (s : State) (src : Src) (part pa : Nat) (p : AtomFor) : (s.traceReq src part pa p).ctxs = s.ctxs := by
  unfold State.traceReq
  split <;> rfl

@[simp] theorem answered_ctxs (s : State) (src : Src) : (s.answered src).ctxs = s.ctxs := by
  unfold State.answered
  split <;> simp

@[simp] theorem barRelease1_ctxs (s : State) (rec_ : Nat) (a : BarArr) : (s.barRelease1 rec_ a).ctxs = s.ctxs := by
  unfold State.barRelease1
  split
  · rfl
  · split <;> simp

@[simp] theorem barAdopt_ctxs (s : State) (rec_ : Nat) : (s.barAdopt rec_).ctxs = s.ctxs := by
  unfold State.barAdopt State.barReleaseAll State.barReleaseAt
  simp only
  split
  · exact foldl_ctxs _ (fun _ _ => barRelease1_ctxs _ _ _) _ _
  · exact foldl_ctxs _ (fun _ _ => post_ctxs _ _ _ _ _) _ _

@[simp] theorem barResume_ctxs (s : State) (c : Nat) : (s.barResume c).ctxs = s.ctxs := by
  unfold State.barResume
  refine foldl_ctxs _ (fun s p => ?_) _ s
  exact foldl_ctxs _ (fun _ _ => barRelease1_ctxs _ _ _) _ _

@[simp] theorem tellWriter_ctxs (s : State) (ch : Nat) (c : Chan) (off : Bool) : (s.tellWriter ch c off).ctxs = s.ctxs := by
  unfold State.tellWriter
  split <;> rfl

@[simp] theorem maybeXon_ctxs (s : State) (ch : Nat) : (s.maybeXon ch).ctxs = s.ctxs := by
  unfold State.maybeXon
  split
  · split <;> simp
  · rfl

@[simp] theorem answerNone_ctxs (s : State) (c : Chan) (r : RecvReq) (v : Word) : (s.answerNone c r v).ctxs = s.ctxs := by
  simp [State.answerNone]

@[simp] theorem answer_ctxs (s : State) (c : Chan) (r : RecvReq) (e : Elem) : (s.answer c r e).ctxs = s.ctxs := by
  unfold State.answer
  simp only [reply_ctxs]
  split
  · exact foldl_ctxs _ (fun _ _ => post_ctxs _ _ _ _ _) _ s
  · simp

@[simp] theorem serveChan_ctxs (s : State) (ch n : Nat) : (s.serveChan ch n).ctxs = s.ctxs := by
  induction n generalizing s with
  | zero => rfl
  | succ n ih =>
    unfold State.serveChan
    split
    · rfl
    · split
      · rfl
      · split
        · rfl
        · split
          · simp [ih]
          · split
            · rfl
            · split
              · simp [ih]
              · split
                · simp [ih]
                · rfl

@[simp] theorem serveAll_ctxs (s : State) (ch : Nat) : (s.serveAll ch).ctxs = s.ctxs := by
  unfold State.serveAll
  exact ite_ctxs (by simp) (by simp)

@[simp] theorem releaseEndpoints_ctxs (s : State) (pe task : Nat) : (s.releaseEndpoints pe task).ctxs = s.ctxs := by
  unfold State.releaseEndpoints State.dropEndpoints
  refine foldl_ctxs _ (fun s e => ?_) _ s
  split <;> rfl

@[simp] theorem pump_ctxs (s : State) (n fuel : Nat) : (s.pump n fuel).ctxs = s.ctxs := by
  induction fuel generalizing s with
  | zero => rfl
  | succ fuel ih =>
    unfold State.pump
    split
    · rfl
    · split
      · simp only
        split
        · rfl
        · simp [ih]
      · rfl

@[simp] theorem pumpAll_ctxs (s : State) (n : Nat) : (s.pumpAll n).ctxs = s.ctxs := by
  unfold State.pumpAll
  split <;> simp

@[simp] theorem takeGroup_ctxs (s : State) (q : CopyQueue) (k m : Nat) : (s.takeGroup q k m).ctxs = s.ctxs := by
  unfold State.takeGroup
  simp only [write64_ctxs]
  exact foldl_ctxs _ (fun _ _ => writeByte_ctxs _ _ _) _ s

@[simp] theorem countCompleted_ctxs (s : State) (q : CopyQueue) : (s.countCompleted q).ctxs = s.ctxs := write64_ctxs _ _ _

/-- What every functional of a structural recursion over fuel keeps, the recursion keeps. -/
theorem brecOn_of_step {α : Type} {F : (n : Nat) → Nat.below (motive := fun _ => α) n → α} {p : α → Prop} (h0 : p (F 0 ⟨⟩))
    (hs : ∀ n x, p x.1 → p (F (n + 1) x)) (n : Nat) : p (Nat.brecOn (motive := fun _ => α) n F) := by
  induction n with
  | zero => exact h0
  | succ n ih => exact hs n _ ih

/-- The unit's loop is stated through the functional of its recursion: Lean finds no equation of the loop itself in reasonable time. -/
theorem serveQueue_f_ctxs (qi n : Nat) (x : Nat.below (motive := fun _ => State → State) (n + 1)) (hx : ∀ u : State, (x.1 u).ctxs = u.ctxs) (s : State) :
    (State.serveQueue._f qi (n + 1) x s).ctxs = s.ctxs := by
  unfold State.serveQueue._f
  simp only
  split
  · rfl
  · refine ite_ctxs ?_ (ite_ctxs ?_ ?_)
    · rfl
    · simp [hx]
    · split
      · simp [hx]
      · exact (hx _).trans (ite_ctxs (by simp) (by simp))

@[simp] theorem serveQueue_ctxs (s : State) (qi fuel : Nat) : (s.serveQueue qi (fuel)).ctxs = s.ctxs := by
  have hloop := brecOn_of_step (F := State.serveQueue._f qi) (p := fun g => ∀ u : State, (g u).ctxs = u.ctxs) (fun _ => rfl)
    (fun n x hx => serveQueue_f_ctxs qi n x hx) fuel
  delta State.serveQueue
  exact hloop s
@[simp] theorem serve_ctxs (s : State) (qi : Nat) : (s.serve qi).ctxs = s.ctxs := by
  unfold State.serve
  split <;> simp

@[simp] theorem servePe_ctxs (s : State) (pe : Nat) : (s.servePe pe).ctxs = s.ctxs := foldl_ctxs _ (fun _ _ => serve_ctxs _ _) _ s

@[simp] theorem copyResume_ctxs (s : State) (c : Nat) : (s.copyResume c).ctxs = s.ctxs := by
  unfold State.copyResume
  refine foldl_ctxs _ (fun s p => ?_) _ s
  split <;> simp

@[simp] theorem putRecord_ctxs (s : State) (c : Nat) (r : Rec) (quad : Nat) (tag : Option Nat) (image : Option (List Tok × Nat)) :
    (s.putRecord c r quad tag image).ctxs = s.ctxs := rfl
@[simp] theorem waitRoom_ctxs (s : State) (c : Nat) (r : Rec) (quad : Nat) (tag : Option Nat) (image : Option (List Tok × Nat)) :
    (s.waitRoom c r quad tag image).ctxs = s.ctxs := rfl

@[simp] theorem requeue_ctxs (s : State) (c : Nat) (r : Rec) (quad : Nat) (image : Option (List Tok × Nat)) :
    (s.requeue c r quad image).ctxs = s.ctxs := by
  unfold State.requeue
  split <;> simp

@[simp] theorem hwEnqueue_ctxs (s : State) (c : Nat) (r : Rec) (quad : Nat) (named : Bool) : (s.hwEnqueue c r quad named).ctxs = s.ctxs := by
  unfold State.hwEnqueue
  split
  · rfl
  · exact ite_ctxs rfl rfl

@[simp] theorem enqueueHeld_ctxs (s : State) : s.enqueueHeld.ctxs = s.ctxs := by
  unfold State.enqueueHeld
  refine foldl_ctxs _ (fun s w => ?_) _ s
  split <;> simp

@[simp] theorem endDep_ctxs (s : State) (key : Nat) : (s.endDep key).ctxs = s.ctxs := by
  unfold State.endDep
  split
  · rfl
  · split <;> rfl

@[simp] theorem releaseRings_ctxs (s : State) (c pe t : Nat) : (s.releaseRings c pe t).ctxs = s.ctxs := by
  unfold State.releaseRings
  refine foldl_ctxs _ (fun s q => ?_) _ s
  split <;> simp

@[simp] theorem dropLoop_ctxs (s : State) (pe t : Nat) : (s.dropLoop pe t).ctxs = s.ctxs := by
  unfold State.dropLoop
  split
  · rfl
  · split <;> simp

@[simp] theorem lastSend_ctxs (s : State) (pe t : Nat) (tk : Task) (code : Nat) : (s.lastSend pe t tk code).ctxs = s.ctxs := by
  have hsend : ∀ (u : State) (va len at_ : Nat) (m : List (Nat × Nat) → Msg), (if !canonicalSpan va len then u
      else match u.checkHome tk.ctx pe .object va len with
        | .ok ks => u.post (.pe pe) (engineAgent (runAt ks at_)) 7 (m ks)
        | _ => u).ctxs = u.ctxs := by
    intro u va len at_ m
    refine ite_ctxs rfl ?_
    split <;> rfl
  have hpoison : ∀ {c : Prop} [Decidable c] (u : State), u.ctxs = s.ctxs → (if c then u else s).ctxs = s.ctxs := fun u hu => ite_ctxs hu rfl
  unfold State.lastSend
  exact ite_ctxs (hpoison _ (hsend s _ _ _ _)) ((hsend _ _ _ _ _).trans (hpoison _ (hsend s _ _ _ _)))

@[simp] theorem deliverCalls_ctxs (s : State) (c : Nat) : (s.deliverCalls c).ctxs = s.ctxs := by
  unfold State.deliverCalls
  refine foldl_ctxs _ (fun s p => ?_) _ s
  split <;> simp

@[simp] theorem fillTile_ctxs (s : State) (slot : Nat) (h : Word) (img : BitVec 16) (buf : List Byte) : (s.fillTile slot h img buf).ctxs = s.ctxs := by
  unfold State.fillTile
  split <;> rfl

end Sys2Proof.Machine

namespace Sys2Proof.Machine

/-! ### Contexts that are not halted stay so while a device write completes

A context is destroyed only as it is HALTED, and no access that completes halts one: what is left of the contexts that are not HALTED is
followed through all that a completed access can do (R391, R394, R19). -/

/-- Every context that is not HALTED in the first table is in the second and not HALTED there. -/
def Wakes (l m : Tab Ctx) : Prop := ∀ c x, l.get? c = some x → x.state ≠ .halted → ∃ y, m.get? c = some y ∧ y.state ≠ .halted

theorem Wakes.refl (l : Tab Ctx) : Wakes l l := fun _ x hx hs => ⟨x, hx, hs⟩

theorem Wakes.of_eq {l m : Tab Ctx} (h : m = l) : Wakes l m := h ▸ Wakes.refl l

theorem Wakes.trans {l m n : Tab Ctx} (a : Wakes l m) (b : Wakes m n) : Wakes l n := fun c x hx hs =>
  let ⟨y, hy, hys⟩ := a c x hx hs
  b c y hy hys

theorem Wakes.ite {c : Prop} [Decidable c] {l : Tab Ctx} {a b : State} (ha : c → Wakes l a.ctxs) (hb : ¬ c → Wakes l b.ctxs) :
    Wakes l (if c then a else b).ctxs := by
  split
  · exact ha ‹_›
  · exact hb ‹_›

theorem foldl_wakes {α : Type} {g : State → α → State} (hg : ∀ s a, Wakes s.ctxs (g s a).ctxs) (l : List α) (s : State) :
    Wakes s.ctxs (l.foldl g s).ctxs := by
  induction l generalizing s with
  | nil => exact .refl _
  | cons a l ih => exact (hg s a).trans (ih _)

theorem setCtx_wakes (s : State) (c : Nat) {x : Ctx} (hx : x.state ≠ .halted) : Wakes s.ctxs (s.setCtx c x).ctxs := by
  intro d y hy hs
  by_cases hd : d = c
  · subst hd; exact ⟨x, Tab.get?_put_same .., hx⟩
  · exact ⟨y, by simpa [State.setCtx, Tab.get?_put_ne hd] using hy, hs⟩

theorem modCtx_wakes (s : State) (c : Nat) (g : Ctx → Ctx) (hg : ∀ x, (g x).state = x.state := by intro _; rfl) : Wakes s.ctxs (s.modCtx c g).ctxs := by
  unfold State.modCtx
  split
  · rename_i x hx
    intro d y hy hs
    by_cases hd : d = c
    · subst hd; cases hx.symm.trans hy
      exact ⟨_, Tab.get?_put_same .., (hg x).symm ▸ hs⟩
    · exact ⟨y, by simpa [State.setCtx, Tab.get?_put_ne hd] using hy, hs⟩
  · exact .refl _

/-- A context that is HALTED may go. -/
theorem Wakes.del {l : Tab Ctx} {c : Nat} {x : Ctx} (h : l.get? c = some x) (hx : x.state = .halted) {m : Tab Ctx} (hm : Wakes l m) : Wakes l (m.del c) := by
  intro d y hy hs
  by_cases hd : d = c
  · subst hd; cases h.symm.trans hy; exact absurd hx hs
  · rw [Tab.get?_del_ne hd]; exact hm d y hy hs

theorem raise_wakes (s : State) (r : FaultRec) : Wakes s.ctxs (s.raise r).ctxs :=
  modCtx_wakes s _ _ fun x => by split <;> simp [*]

theorem raiseAt_wakes (s : State) (src : Src) (e : Fail) : Wakes s.ctxs (s.raiseAt src e).ctxs := by
  unfold State.raiseAt
  rw [failFrame_ctxs]
  exact raise_wakes s _

theorem raiseHeader_wakes (s : State) (src : Src) (e : Fail) : Wakes s.ctxs (s.raiseHeader src e).ctxs := raise_wakes s _
theorem raiseHeld_wakes (s : State) (r : FaultRec) : Wakes s.ctxs (s.raiseHeld r).ctxs := raise_wakes s _

theorem hwEnqueueAt_wakes (s : State) (c va quad : Nat) (g1 : Option Word) : Wakes s.ctxs (s.hwEnqueueAt c va quad g1).ctxs := by
  unfold State.hwEnqueueAt
  split
  · exact raiseHeader_wakes s _ _
  · split
    · exact raiseHeader_wakes s _ _
    · exact .of_eq (hwEnqueue_ctxs _ _ _ _ _)

theorem branchResolved_wakes (s : State) (key idx : Nat) : Wakes s.ctxs (s.branchResolved key idx).ctxs := by
  unfold State.branchResolved
  split
  · exact .ite (fun _ => raiseAt_wakes s _ _) fun _ => .refl _
  · exact .refl _

theorem mismatch_wakes (s : State) (key idx : Nat) (i : Instr) (toks : List Tok) : Wakes s.ctxs (s.mismatch key idx i toks).ctxs := by
  have hvoid : (if i.isStore then s.voidStore key idx else s).ctxs = s.ctxs := ite_ctxs (voidStore_ctxs _ _ _) rfl
  have hmark : Wakes s.ctxs (((if i.isStore then s.voidStore key idx else s).markAt key idx .mismatched).dropToks (key / 256) toks).ctxs :=
    .of_eq (by rw [dropToks_ctxs, markAt_ctxs, hvoid])
  unfold State.mismatch
  exact .ite (fun _ => hmark.trans (branchResolved_wakes _ _ _)) fun _ => hmark

theorem abortCopy_wakes (s : State) (c : Nat) (e : Fail) : Wakes s.ctxs (s.abortCopy c e).ctxs := by
  unfold State.abortCopy
  split
  · exact .refl _
  · refine .ite (fun _ => .refl _) fun _ => ?_
    simp only
    split
    · exact raiseAt_wakes s _ e
    · exact .of_eq (queueError_ctxs _ _ _ _)

theorem accessFault_wakes (s : State) (n : Nat) (a : Access) (e : Fail) : Wakes s.ctxs (s.accessFault n a e).ctxs := by
  have hdrop : ∀ u : State, (((u.markFaulted a.src).delAccess n).dropReplies a).ctxs = u.ctxs := fun u => by simp [State.delAccess]
  unfold State.accessFault
  split
  · exact abortCopy_wakes s _ e
  · exact abortCopy_wakes s _ e
  · refine .ite (fun _ => raiseAt_wakes s _ _) fun _ => ?_
    rw [hdrop]
    exact raiseAt_wakes s _ _

/-! #### Channels and tasks -/

theorem faultParked_wakes (s : State) (code : Code) (p : Nat × Nat) : Wakes s.ctxs (s.faultParked code p).ctxs := by
  unfold State.faultParked
  split
  · exact .refl _
  · exact (Wakes.of_eq (setStat_ctxs _ _ _ _)).trans (raiseAt_wakes _ _ _)

theorem freeChan_wakes (s : State) (ch : Nat) : Wakes s.ctxs (s.freeChan ch).ctxs := by
  unfold State.freeChan
  split
  · exact modCtx_wakes s _ _
  · exact .refl _

theorem freeIfDone_wakes (s : State) (ch : Nat) : Wakes s.ctxs (s.freeIfDone ch).ctxs := by
  unfold State.freeIfDone
  split
  · exact .ite (fun _ => freeChan_wakes s ch) fun _ => .refl _
  · exact .refl _

theorem settleChan_wakes (s : State) (ch : Nat) : Wakes s.ctxs (s.settleChan ch).ctxs :=
  (Wakes.of_eq (serveAll_ctxs s ch)).trans (freeIfDone_wakes _ ch)

theorem destroyChan_wakes (s : State) (ch : Nat) : Wakes s.ctxs (s.destroyChan ch).ctxs := by
  unfold State.destroyChan
  split
  · exact .refl _
  · rename_i c _
    have hnone : (c.reqs.foldl (fun s r => s.answerNone c r 2) s).ctxs = s.ctxs := foldl_ctxs _ (fun _ _ => answerNone_ctxs _ _ _ _) _ s
    extract_lets s1 s2
    have hsends : Wakes s1.ctxs s2.ctxs := foldl_wakes (fun s p => faultParked_wakes s .channelState p) _ s1
    exact ((Wakes.of_eq hnone).trans hsends).trans (freeChan_wakes (s2.modEndpoints _ _) ch)

theorem destroyChansOf_wakes (s : State) (c : Nat) : Wakes s.ctxs (s.destroyChansOf c).ctxs := by
  unfold State.destroyChansOf
  exact foldl_wakes (fun s p => .ite (fun _ => destroyChan_wakes s p.1) fun _ => .refl _) _ s

theorem settleChans_wakes (s : State) (l : List (Nat × Chan)) : Wakes s.ctxs (l.foldl (fun s p => s.settleChan p.1) s).ctxs :=
  foldl_wakes (fun s p => settleChan_wakes s p.1) l s

theorem releaseAccs_wakes (s : State) (c pe t : Nat) : Wakes s.ctxs (s.releaseAccs c pe t).ctxs := by
  unfold State.releaseAccs
  refine foldl_wakes (fun s z => ?_) _ s
  simp only
  refine .ite (fun _ => ?_) fun _ => ?_
  · rw [restoreAcc_ctxs]
    exact modCtx_wakes s c _
  · split
    · exact .ite (fun _ => modCtx_wakes s c _) fun _ => .refl _
    · exact .refl _

theorem releaseTask_wakes (s : State) (pe t : Nat) : Wakes s.ctxs (s.releaseTask pe t).ctxs := by
  unfold State.releaseTask
  split
  · exact .refl _
  · refine Wakes.trans ?_ (releaseAccs_wakes _ _ _ _)
    simp only [releaseEndpoints_ctxs, releaseRings_ctxs, dropLoop_ctxs, setTask_ctxs, dropToks_ctxs]
    exact modCtx_wakes s _ _

theorem destroyTask_wakes (s : State) (pe t code : Nat) : Wakes s.ctxs (s.destroyTask pe t code).ctxs := by
  unfold State.destroyTask
  split
  · exact .refl _
  · simp only [delTask_ctxs, lastSend_ctxs]
    split
    · rw [endDep_ctxs]; exact releaseTask_wakes s pe t
    · exact releaseTask_wakes s pe t

theorem abandon_wakes (s : State) (c pe t code : Nat) : Wakes s.ctxs (s.abandon c pe t code).ctxs := by
  unfold State.abandon
  split
  · exact .refl _
  · refine .ite (fun _ => .refl _) fun _ => ?_
    simp only [modTask_ctxs]
    refine Wakes.trans ?_ (modCtx_wakes _ c _)
    exact .of_eq (foldl_ctxs _ (fun _ _ => discardFrame_ctxs _ _) _ s)

theorem skipCause_wakes (s : State) (c : Nat) (r : FaultRec) : Wakes s.ctxs (s.skipCause c r).ctxs := by
  unfold State.skipCause
  split
  · refine .ite (fun _ => ?_) fun _ => modCtx_wakes s c _
    split
    · exact mismatch_wakes s _ _ _ _
    · exact .refl _
  · exact modCtx_wakes s c _

/-! #### Contexts that resume, are destroyed, or are made -/

theorem queueImages_wakes (s : State) (c : Nat) : Wakes s.ctxs (s.queueImages c).ctxs := by
  unfold State.queueImages
  split
  · exact .refl _
  · refine (modCtx_wakes s c fun x => { x with images := [] }).trans (foldl_wakes (fun s p => ?_) _ _)
    split
    · exact raiseHeader_wakes s _ _
    · exact .of_eq (requeue_ctxs _ _ _ _ _)

theorem resumeShared_wakes (s : State) (c : Nat) : Wakes s.ctxs (s.resumeShared c).ctxs := by
  unfold State.resumeShared
  split
  · exact .refl _
  · extract_lets s1 frames queue pe2 mem2 s2 s3 held raised pe4 s4
    have h1 : Wakes s.ctxs s1.ctxs := (Wakes.of_eq (regain_ctxs s c)).trans (setCtx_wakes _ c nofun)
    have h3 : Wakes s2.ctxs s3.ctxs := by
      simp only [s3, copyResume_ctxs, barResume_ctxs]
      exact (queueImages_wakes s2 c).trans (settleChans_wakes _ _)
    exact (h1.trans h3).trans (foldl_wakes raiseHeld_wakes held s4)

theorem stopWrite_getD_ctxs (s : State) (c off : Nat) (l : List Byte) : ((s.stopWrite c off l).getD s).ctxs = s.ctxs := by
  cases h : s.stopWrite c off l with
  | none => rfl
  | some t => exact stopWrite_ctxs h

theorem destroyContext_wakes (s : State) (c : Nat) (h : ∀ x, s.ctx? c = some x → x.state = .halted) : Wakes s.ctxs (s.destroyContext c).ctxs := by
  unfold State.destroyContext
  split
  · exact .refl _
  · rename_i x hx
    extract_lets code s0 s1 s2 s3 s4 s5 s6 s7 pes
    have h0 : s0.ctxs = s.ctxs := stopWrite_getD_ctxs s c 0 _
    have h1 : s1.ctxs = s0.ctxs := foldl_ctxs _ (fun _ _ => ite_ctxs (discardFrame_ctxs _ _) rfl) _ s0
    have h2 : Wakes s1.ctxs s2.ctxs := foldl_wakes (fun s p => .ite (fun _ => destroyTask_wakes s _ _ _) fun _ => .refl _) _ s1
    have h4 : s4.ctxs = s3.ctxs := foldl_ctxs _ (fun _ _ => ite_ctxs (freeCounter_ctxs _ _) rfl) _ s3
    have h5 : Wakes s.ctxs s5.ctxs := ((Wakes.of_eq (h1.trans h0)).trans h2).trans ((destroyChansOf_wakes s2 c).trans (.of_eq h4))
    have h7 : Wakes s.ctxs s7.ctxs := (h5.del hx (h x hx)).trans (settleChans_wakes s6 _)
    refine h7.trans (.of_eq ?_)
    rw [enqueueHeld_ctxs]
    exact foldl_ctxs _ (fun _ _ => servePe_ctxs _ _) pes s7

theorem resumeContext_wakes (s : State) (c mode : Nat) (src : Src) : Wakes s.ctxs (s.resumeContext c mode src).ctxs := by
  have hshared : ∀ u : State, Wakes s.ctxs u.ctxs → Wakes s.ctxs ((u.resumeShared c).deliverCalls c).ctxs := fun u hu => by
    rw [deliverCalls_ctxs]; exact hu.trans (resumeShared_wakes u c)
  unfold State.resumeContext
  split
  · exact .refl _
  · rename_i x hx
    refine .ite (fun _ => .refl _) fun hs => .ite (fun _ => ?_) fun _ => .ite (fun _ => .refl _) fun _ => ?_
    · exact destroyContext_wakes s c fun y hy => by cases hx.symm.trans hy; exact not_not.mp hs
    · refine .ite (fun _ => ?_) fun _ => .ite (fun _ => ?_) fun _ => hshared s (.refl _)
      · split
        · exact .ite (fun _ => hshared _ (skipCause_wakes s c _)) fun _ => raiseAt_wakes s _ _
        · exact raiseAt_wakes s _ _
      · exact hshared _ (foldl_wakes (fun s r => .ite (fun _ => abandon_wakes s _ _ _ _) fun _ => .refl _) _ s)

theorem haltRequest_wakes (s : State) (c mode : Nat) : Wakes s.ctxs (s.haltRequest c mode).ctxs := by
  unfold State.haltRequest
  split
  · exact .refl _
  · rename_i x hx
    refine .ite (fun _ => .refl _) fun hi => .ite (fun _ => setCtx_wakes s c ?_) fun _ => .ite (fun _ => .refl _) fun _ => setCtx_wakes s c nofun
    intro hh
    simp only at hh
    exact hi (by rw [hh]; rfl)

theorem createContext_wakes (s : State) (l : List Byte) (pa creator part fltq quad : Nat) (host : Bool) :
    Wakes s.ctxs (s.createContext l pa creator part fltq quad host).1.ctxs := by
  unfold State.createContext
  extract_lets d
  split
  · exact .of_eq (write64_ctxs _ _ _)
  · rename_i c slot _
    extract_lets x s1 s2
    have h1 : Wakes s.ctxs s1.ctxs := setCtx_wakes (s.freshNumber c) c (by simp [x, CtxDesc.ctx])
    have h2 : Wakes s.ctxs s2.ctxs := h1.trans (.of_eq (write64_ctxs _ _ _))
    exact .ite (fun _ => h2) fun _ => h2.trans (hwEnqueueAt_wakes _ _ _ _ _)

theorem contextOp_wakes (s : State) (op : CtxOp) (src : Src) (buf : List Byte) (pa : Nat) : Wakes s.ctxs (s.contextOp op src buf pa).ctxs := by
  have htarget : ∀ (c : Nat) (k : State), Wakes s.ctxs k.ctxs → Wakes s.ctxs (match s.ctx? c with
      | none => s.raiseAt src { code := .operand }
      | some y =>
        if c = src.ctx then s.raiseAt src { code := .operand }
        else if y.part ≠ s.partOf src.ctx then s.raiseAt src { code := .protection }
        else k).ctxs := by
    intro c k hk
    split
    · exact raiseAt_wakes s _ _
    · exact .ite (fun _ => raiseAt_wakes s _ _) fun _ => .ite (fun _ => raiseAt_wakes s _ _) fun _ => hk
  cases op with
  | new d =>
    simp only [State.contextOp]
    split
    · exact .refl _
    · exact createContext_wakes s _ _ _ _ _ _ _
  | halt c mode => exact htarget c _ (haltRequest_wakes s c mode)
  | resume c mode => exact htarget c _ (resumeContext_wakes s c mode src)

theorem completeAccess_wakes (s : State) (n : Nat) (a : Access) (home : Agent) : Wakes s.ctxs (s.completeAccess n a home).ctxs := by
  unfold State.completeAccess
  extract_lets s1
  split
  · exact .of_eq (reply_ctxs _ _ _ _ _ _)
  · exact .of_eq ((reply_ctxs _ _ _ _ _ _).trans (fillTile_ctxs _ _ _ _ _))
  · extract_lets w
    split
    · exact accessFault_wakes s _ _ _
    · exact .refl _
  · extract_lets w
    split
    · exact accessFault_wakes s _ _ _
    · exact .of_eq (noteStore_ctxs _ _ _ _ _ _ _ _)
  · exact .refl _
  · split
    · exact .of_eq (release_ctxs _ _ _)
    · exact .refl _
  · split
    · exact .of_eq (pumpAll_ctxs _ _)
    · exact .refl _
  · exact .refl _
  · exact contextOp_wakes s1 _ _ _ _
  · exact .of_eq (traceReq_ctxs _ _ _ _ _)
  · exact .ite (fun _ => .of_eq (barAdopt_ctxs _ _)) fun _ => .refl _

theorem performed_wakes (s : State) (acc : Option (Nat × Nat)) : Wakes s.ctxs (s.performed acc).ctxs := by
  have hsettle : ∀ (u : State) (n : Nat) (home : Agent), Wakes u.ctxs (u.settleAccess n home).ctxs := fun u n home => by
    unfold State.settleAccess
    split
    · refine .ite (fun _ => ?_) fun _ => .refl _
      rw [sweepHolds_ctxs]
      exact completeAccess_wakes u n _ home
    · exact .refl _
  unfold State.performed
  split
  · exact .refl _
  · split
    · exact hsettle (s.setAccess _ _) _ .io
    · exact .refl _

theorem giveUp_wakes (s : State) (e : Env) : Wakes s.ctxs (s.giveUp e).ctxs := by
  unfold State.giveUp
  split
  · exact .of_eq (dropTok_ctxs _ _ _)
  · exact .of_eq ((dropTok_ctxs _ _ _).trans (unexpect_ctxs _ _))
  · exact .of_eq (unexpect_ctxs _ _)
  · exact .of_eq (foldl_ctxs _ unexpect_ctxs _ s)
  · exact performed_wakes s _
  · exact .refl _

/-- A fault that a context which is not HALTED raises is in its record (R386, R398). -/
theorem raise_recorded {s : State} {r : FaultRec} {x : Ctx} (h : s.ctx? r.src.ctx = some x) (hx : x.state ≠ .halted) :
    (s.raise r).recorded r.src.ctx r.code r.src.idx := by
  unfold State.raise State.modCtx
  rw [h]
  refine ⟨_, ctx?_setCtx_same .., r, ?_, rfl, rfl⟩
  cases hs : x.state with
  | halted => exact absurd hs hx
  | running => simp [hs]
  | checkpointing => simp [hs]
  | halting => simp [hs]

theorem raiseHome_recorded {s : State} {src : Src} {e : Fail} {x : Ctx} (h : s.ctx? src.ctx = some x) (hx : x.state ≠ .halted) :
    (s.raiseHome src e).recorded src.ctx e.code src.idx := by
  unfold State.raiseHome
  split
  · exact raise_recorded (r := { s.record src e with header := true, frameValid := false, afterCommit := false, kept := false }) h hx
  · obtain ⟨y, hy, hr⟩ := raise_recorded (r := s.record src e) h hx
    exact ⟨y, (congrArg (Tab.get? src.ctx) (failFrame_ctxs _ src)).trans hy, hr⟩

end Sys2Proof.Machine

namespace Sys2Proof.Machine

/-! ### A frame that a fault, a mismatch or a token reaches -/

@[simp] theorem modCtx_frame? (s : State) (c : Nat) (g : Ctx → Ctx) (k : Nat) : (s.modCtx c g).frame? k = s.frame? k := by
  unfold State.modCtx
  split <;> rfl

@[simp] theorem raise_frame? (s : State) (r : FaultRec) (k : Nat) : (s.raise r).frame? k = s.frame? k := modCtx_frame? s _ _ k

@[simp] theorem dropTok_frame? (s : State) (pe : Nat) (t : Tok) (k : Nat) : (s.dropTok pe t).frame? k = s.frame? k := by
  simp [State.frame?, (dropTok_refs s pe t).frames]

/-- A fault at an instruction leaves each frame as it is, but for the mark that it is to be discarded (R87). -/
theorem raiseAt_frame? {s : State} {k : Nat} {f : Frame} (h : s.frame? k = some f) (src : Src) (e : Fail) :
    ∃ b, (s.raiseAt src e).frame? k = some { f with failed := b } := by
  have hraise : (s.raise (s.record src e)).frame? k = some f := (raise_frame? s _ k).trans h
  unfold State.raiseAt State.failFrame
  split
  · rename_i g hg
    split
    · by_cases hk : frameKey src.pe src.frame = k
      · have hg' := frameOf_frame? hg
        rw [hk, hraise] at hg'
        cases hg'
        exact ⟨true, hk ▸ setFrame_frame?_same _ _ _⟩
      · exact ⟨f.failed, (setFrame_frame?_ne _ (Ne.symm hk) _).trans hraise⟩
    · exact ⟨f.failed, hraise⟩
  · exact ⟨f.failed, hraise⟩

theorem branchResolved_frame? {s : State} {k : Nat} {f : Frame} (h : s.frame? k = some f) (idx : Nat) :
    ∃ b, (s.branchResolved k idx).frame? k = some { f with failed := b } := by
  unfold State.branchResolved
  rw [h]
  simp only
  split
  · exact raiseAt_frame? h _ _
  · exact ⟨f.failed, h⟩

theorem voidStore_frame? {s : State} {k : Nat} {f : Frame} (h : s.frame? k = some f) (idx : Nat) :
    ∃ l, (s.voidStore k idx).frame? k = some { f with stores := l } := by
  unfold State.voidStore
  rw [h]
  exact ⟨_, setFrame_frame?_same _ k _⟩

/-- A predicate that does not match resolves its instruction, and the frame's count and its being Open stay (R79). -/
theorem mismatch_frame? {s : State} {k : Nat} {f : Frame} (h : s.frame? k = some f) (idx : Nat) (i : Instr) (toks : List Tok) :
    ∃ g, (s.mismatch k idx i toks).frame? k = some g ∧ g.stat = f.stat.put idx .mismatched ∧ g.outstanding = f.outstanding ∧ g.isOpen = f.isOpen := by
  have hvoid : ∃ l, (if i.isStore then s.voidStore k idx else s).frame? k = some { f with stores := l } := by
    split
    · exact voidStore_frame? h idx
    · exact ⟨f.stores, h⟩
  obtain ⟨l, hl⟩ := hvoid
  have hmark : (((if i.isStore then s.voidStore k idx else s).markAt k idx .mismatched).dropToks (k / 256) toks).frame? k =
      some { ({ f with stores := l } : Frame).emptied idx with stat := f.stat.put idx .mismatched } := by
    rw [dropToks_frame?, State.markAt, modFrame_frame?, hl]
    rfl
  unfold State.mismatch
  simp only
  split
  · obtain ⟨b, hb⟩ := branchResolved_frame? hmark idx
    exact ⟨_, hb, rfl, rfl, rfl⟩
  · exact ⟨_, hmark, rfl, rfl, rfl⟩

/-! ### A token at a slot (R78, R79) -/

section
variable {s : State} {k idx : Nat} {f : Frame} {sd : Side} {i : Instr} {t : Tok}

/-- A slot that its instruction does not require, or that is taken, or whose instruction has fired, refuses a token. -/
theorem deliverSlot_refuses (hi : f.cfg.instr idx = some i)
    (h : sd ∉ i.required ∨ f.stat.get? idx = some .fired ∨ (∃ p, f.stat.get? idx = some (.parked p)) ∨
      (f.stat.get? idx ≠ some .mismatched ∧ (f.operand idx sd).isSome = true)) :
    s.deliverSlot k f idx sd t = s.refuseTok k f idx t := by
  by_cases hreq : sd ∈ i.required
  · have hc : i.required.contains sd = true := by simpa using hreq
    simp only [State.deliverSlot, hi, hc, Bool.not_true, Bool.false_eq_true, if_false]
    rcases h with h | h | ⟨p, h⟩ | ⟨h, ho⟩
    · exact absurd hreq h
    · rw [h]
    · rw [h]
    · split
      · contradiction
      · rfl
      · rfl
      · rw [if_pos ho]
  · have hc : (!i.required.contains sd) = true := by simpa using hreq
    simp only [State.deliverSlot, hi, hc, if_true]

/-- An instruction that its predicate has resolved discards what comes for it. -/
theorem deliverSlot_discards (hi : f.cfg.instr idx = some i) (hreq : sd ∈ i.required) (h : f.stat.get? idx = some .mismatched) :
    s.deliverSlot k f idx sd t = s.dropTok (k / 256) t := by
  simp [State.deliverSlot, hi, hreq, h]

/-- An empty slot that its instruction requires takes a token. -/
theorem deliverSlot_takes (hi : f.cfg.instr idx = some i) (hreq : sd ∈ i.required) (hst : f.stat.get? idx = none) (ho : f.operand idx sd = none) :
    s.deliverSlot k f idx sd t = s.parkTok k f idx sd i t := by
  simp [State.deliverSlot, hi, hreq, hst, ho]

theorem parkTok_parks (hp : sd = .c → predMismatch i.hdr t = false) (hs : i.isStore = true → sd ≠ .a) :
    s.parkTok k f idx sd i t = s.setFrame k (f.parked idx sd i t s.sched.cycle) := by
  have hp' : (sd == .c && predMismatch i.hdr t) = false := by
    cases sd with
    | a => rfl
    | b => rfl
    | c => simpa using hp rfl
  have hs' : (i.isStore && sd == .a) = false := by
    cases hi : i.isStore with
    | false => rfl
    | true => simpa using hs hi
  simp [State.parkTok, hp', hs']

theorem parkTok_mismatches (hp : predMismatch i.hdr t = true) :
    s.parkTok k f idx .c i t = (s.setFrame k (f.parked idx .c i t s.sched.cycle)).mismatch k idx i ((f.parked idx .c i t s.sched.cycle).heldAt idx) := by
  simp [State.parkTok, hp]

end

/-- Parking puts the token in its slot and keeps the cycles that R24 and R452 need. -/
theorem parked_eq (f : Frame) (idx : Nat) (sd : Side) (i : Instr) (t : Tok) (now : Nat) :
    ∃ r z, f.parked idx sd i t now = { f with slots := f.slots.put (idx * 4 + sideNum sd) t, ready := r, since := z } := by
  unfold Frame.parked
  extract_lets first f1
  split
  · exact ⟨_, f.since, rfl⟩
  · exact ⟨_, _, rfl⟩

theorem parked_slots (f : Frame) (idx : Nat) (sd : Side) (i : Instr) (t : Tok) (now : Nat) :
    (f.parked idx sd i t now).slots = f.slots.put (idx * 4 + sideNum sd) t := by
  obtain ⟨r, z, h⟩ := parked_eq f idx sd i t now
  rw [h]

theorem parked_operand_same (f : Frame) (idx : Nat) (sd : Side) (i : Instr) (t : Tok) (now : Nat) :
    (f.parked idx sd i t now).operand idx sd = some t := by
  rw [Frame.operand, parked_slots, Tab.get?_put_same]

theorem sideNum_lt (sd : Side) : sideNum sd < 4 := by cases sd <;> decide

theorem sideOf_sideNum (sd : Side) : sideOf (sideNum sd) = sd := by cases sd <;> rfl

theorem sideNum_injective : Function.Injective sideNum := Function.LeftInverse.injective sideOf_sideNum

theorem parked_operand_ne {f : Frame} {idx j : Nat} {sd sd' : Side} (h : j ≠ idx ∨ sd' ≠ sd) (i : Instr) (t : Tok) (now : Nat) :
    (f.parked idx sd i t now).operand j sd' = f.operand j sd' := by
  have hne : j * 4 + sideNum sd' ≠ idx * 4 + sideNum sd := by
    intro he
    have h1 := sideNum_lt sd
    have h2 := sideNum_lt sd'
    rcases h with h | h
    · omega
    · exact h (sideNum_injective (by omega))
  rw [Frame.operand, Frame.operand, parked_slots, Tab.get?_put_ne hne]

end Sys2Proof.Machine

namespace Sys2Proof.Machine

/-! ### The five events by which messages arrive -/

theorem exec_tokenDelivery (n : Nat) (s : State) : exec (.tokenDelivery n) s = event "TOKEN_DELIVERY" (tokenEvent n s) := rfl
theorem exec_tokenResend (n : Nat) (s : State) : exec (.tokenResend n) s = event "TOKEN_RESEND" (resendEvent n s) := rfl
theorem exec_tokenParity (n : Nat) (s : State) : exec (.tokenParity n) s = event "TOKEN_PARITY" (parityEvent n s) := rfl
theorem exec_splitPhaseReply (n : Nat) (s : State) : exec (.splitPhaseReply n) s = event "SPLIT_PHASE_REPLY" (replyEvent n s) := rfl
theorem exec_tileRelease (n : Nat) (s : State) : exec (.tileRelease n) s = event "TILE_RELEASE" (releaseEvent n s) := rfl

/-! ### Messages that are refused, sent again or given up (R19) -/

/-- The context whose work a given-up message carries is still there as the fault is raised. -/
theorem giveUp_ctx? {s : State} {c : Nat} {x : Ctx} (n : Nat) (e : Env) (hx : s.ctx? c = some x) (hs : x.state = .running) :
    ∃ y, ((s.taken n).giveUp e).ctx? c = some y ∧ y.state ≠ .halted :=
  giveUp_wakes (s.taken n) e c x hx (by simp [hs])

section
variable {s : State} {n : Nat} {e : Env} (hmsg : s.msg? n = some e)
include hmsg

theorem tokenEvent_refuses (ha : s.ahead n e = true) (hr : e.refused = false) (hg : tokenGood e.wire = false) :
    exec (.tokenDelivery n) s = .next (s.setEnv n { e with refused := true, refusals := e.refusals + 1 }) := by
  simp [exec_tokenDelivery, tokenEvent, hmsg, ha, hr, hg, event]

theorem resendEvent_spec (hr : e.refused = true) (h8 : e.refusals < 8) :
    ∃ t w, exec (.tokenResend n) s = .next t ∧ t.msg? n = some { e with refused := false, wire := w } ∧
      (w = s.wireOf e.dst e.cls e.ctx e.body ∨ w = e.wire) := by
  let w := if s.freeChoice 2 = 0 then s.wireOf e.dst e.cls e.ctx e.body else e.wire
  refine ⟨s.drawn.setEnv n { e with refused := false, wire := w }, w, ?_, Tab.get?_put_same .., ?_⟩
  · simp [exec_tokenResend, resendEvent, hmsg, hr, h8, event, w]
  · unfold w
    split
    · exact .inl rfl
    · exact .inr rfl

/-- A token of a PE that is given up has its fault at the instruction that made it. -/
theorem parityEvent_owner {p : Nat} {src : Src} {x : Ctx} (hr : e.refused = true) (h8 : 8 ≤ e.refusals) (hp : e.src = .pe p)
    (ho : e.body.owner = some src) (hx : s.ctx? src.ctx = some x) (hs : x.state = .running) :
    ∃ t, exec (.tokenParity n) s = .next t ∧ t.recorded src.ctx .tokenParity src.idx := by
  obtain ⟨y, hy, hys⟩ := giveUp_ctx? n e hx hs
  refine ⟨((s.taken n).giveUp e).raiseHome src { code := .tokenParity, detail := wordOf (rawField e.wire 64 64) }, ?_, ?_⟩
  · simp [exec_tokenParity, parityEvent, hmsg, hr, h8, hp, ho, event]
  · exact raiseHome_recorded hy hys

theorem parityEvent_none {x : Ctx} (hr : e.refused = true) (h8 : 8 ≤ e.refusals) (h : (∀ p, e.src ≠ .pe p) ∨ e.body.owner = none)
    (hx : s.ctx? e.ctx = some x) (hs : x.state = .running) :
    ∃ t i, exec (.tokenParity n) s = .next t ∧ t.recorded e.ctx .tokenParity i := by
  obtain ⟨y, hy, hys⟩ := giveUp_ctx? n e hx hs
  refine ⟨((s.taken n).giveUp e).raiseNone (Src.ofCtx e.ctx) { code := .tokenParity, detail := wordOf (rawField e.wire 64 64) }, _, ?_,
    raise_recorded hy hys⟩
  simp only [exec_tokenParity, parityEvent, hmsg, hr, h8, and_self, if_true, event]
  split
  · rename_i p src hp ho
    rcases h with h | h
    · exact absurd hp (h p)
    · cases ho.symm.trans h
  · rfl

end

/-! ### Tokens and counters' tokens that arrive -/

/-- A token of kind 3 or side 3 (R20). -/
abbrev RawOdd (raw : BitVec 128) : Prop := rawField raw 96 2 = 3 ∨ rawField raw 71 2 = 3

theorem tokenOdd_iff (r : BitVec 128) : tokenOdd r = true ↔ RawOdd r := by
  simp [tokenOdd, RawOdd]

theorem tokenOdd_false {r : BitVec 128} (h : ¬ RawOdd r) : tokenOdd r = false := by
  rw [← Bool.not_eq_true, tokenOdd_iff]; exact h

theorem frameKey_div (pe f : Nat) (h : f < 256) : frameKey pe f / 256 = pe := by
  unfold frameKey; omega

theorem rawField_frame_lt (r : BitVec 128) : rawField r 73 8 < 256 := Nat.mod_lt _ (by decide)

theorem first_spec {s : State} {n : Nat} {e : Env} (h : s.first n e = true) : s.ahead n e = true ∧ e.refused = false ∧ tokenGood e.wire = true := by
  simp only [State.first, Env.sound, Bool.and_eq_true, Bool.not_eq_true'] at h
  obtain ⟨⟨⟨ha, hr, hg⟩, -⟩, -⟩ := h
  exact ⟨ha, hr, hg⟩

section
variable {s : State} {n : Nat} {e : Env} (hmsg : s.msg? n = some e) (hfirst : s.first n e = true)
include hmsg hfirst

theorem tokenEvent_token {r : BitVec 128} {uid : Nat} {src : Src} (hb : e.body = .token r uid src) :
    exec (.tokenDelivery n) s = .next ((s.taken n).deliverToken e.wire uid src) := by
  obtain ⟨ha, hr, hg⟩ := first_spec hfirst
  simp [exec_tokenDelivery, tokenEvent, hmsg, ha, hr, hg, hb, event]

theorem tokenEvent_inject {r : BitVec 128} {cid : Nat} (hb : e.body = .inject r cid) :
    exec (.tokenDelivery n) s = .next ((s.taken n).injectToken e.wire cid e.ctx) := by
  obtain ⟨ha, hr, hg⟩ := first_spec hfirst
  simp [exec_tokenDelivery, tokenEvent, hmsg, ha, hr, hg, hb, event]

theorem releaseEvent_release {h : Word} (hb : e.body = .release h) : exec (.tileRelease n) s = .next ((s.taken n).dropRef h) := by
  simp [exec_tileRelease, releaseEvent, hmsg, hfirst, hb, event]

end

/-- The frame that a token's word names. -/
abbrev rawKey (raw : BitVec 128) : Nat := frameKey (rawField raw 81 11) (rawField raw 73 8)

theorem rawKey_div (raw : BitVec 128) : rawKey raw / 256 = rawField raw 81 11 := frameKey_div _ _ (rawField_frame_lt raw)

section
variable {s : State} {raw : BitVec 128} {uid : Nat} {src : Src}

theorem deliverToken_odd (h : RawOdd raw) :
    s.deliverToken raw uid src = (s.raiseNone { Src.ofCtx src.ctx with pe := rawField raw 81 11 } { code := .tokenKind }).dropTok (rawField raw 81 11) (rawTok raw) := by
  simp only [State.deliverToken, (tokenOdd_iff raw).mpr h, if_true, State.oddToken]

/-- A token whose activation is gone, or is discarded by its fault, is discarded (R85). -/
theorem deliverToken_closed (ho : ¬ RawOdd raw) (h : ∀ f, s.frame? (rawKey raw) = some f → f.uid ≠ uid ∨ f.live = false) :
    s.deliverToken raw uid src = s.dropTok (rawField raw 81 11) (rawTok raw) := by
  simp only [State.deliverToken, tokenOdd_false ho, Bool.false_eq_true, if_false]
  split
  · rfl
  · rename_i f hf
    refine if_neg fun hc => ?_
    obtain ⟨hu, hl⟩ := hc
    rcases h f hf with h | h
    · exact h hu
    · simp [hl] at h

theorem deliverToken_open {f : Frame} (ho : ¬ RawOdd raw) (hf : s.frame? (rawKey raw) = some f)
    (hu : f.uid = uid) (hl : f.live = true) :
    s.deliverToken raw uid src = s.deliverSlot (rawKey raw) f (rawField raw 64 7) (sideOf (rawField raw 71 2)) (rawTok raw) := by
  simp only [State.deliverToken, tokenOdd_false ho, Bool.false_eq_true, if_false, hf, hu, hl, and_self, if_true]

variable {cid ctx : Nat}

theorem injectToken_odd (h : RawOdd raw) :
    s.injectToken raw cid ctx = (s.raiseNone { Src.ofCtx ctx with pe := rawField raw 81 11 } { code := .tokenKind }).dropTok (rawField raw 81 11) (rawTok raw) := by
  simp only [State.injectToken, (tokenOdd_iff raw).mpr h, if_true, State.oddToken]

/-- A counter's token that finds no Open frame of its context marks its counter, if the counter is still its context's (R281). -/
theorem injectToken_lost (ho : ¬ RawOdd raw)
    (h : ∀ f, s.frame? (rawKey raw) = some f → f.live = false ∨ f.ctx ≠ ctx ∨ rawField raw 92 4 ≠ s.slotOf ctx) :
    s.injectToken raw cid ctx = if (s.counter? cid).any fun c => c.ctx == ctx then s.counterError cid else s := by
  simp only [State.injectToken, tokenOdd_false ho, Bool.false_eq_true, if_false]
  split
  · rename_i f hf
    refine if_neg fun hc => ?_
    obtain ⟨hl, hctx, hslot⟩ := hc
    rcases h f hf with h | h | h
    · simp [hl] at h
    · exact h hctx
    · exact h hslot
  · rfl

theorem injectToken_error {c : Counter} (ho : ¬ RawOdd raw)
    (h : ∀ f, s.frame? (rawKey raw) = some f → f.live = false ∨ f.ctx ≠ ctx ∨ rawField raw 92 4 ≠ s.slotOf ctx)
    (hc : s.counter? cid = some c) (hctx : c.ctx = ctx) : s.injectToken raw cid ctx = s.setCounter cid { c with error := true } := by
  rw [injectToken_lost ho h, hc]
  simp [hctx, State.counterError, hc]

theorem injectToken_stale (ho : ¬ RawOdd raw)
    (h : ∀ f, s.frame? (rawKey raw) = some f → f.live = false ∨ f.ctx ≠ ctx ∨ rawField raw 92 4 ≠ s.slotOf ctx)
    (hc : ∀ c, s.counter? cid = some c → c.ctx ≠ ctx) : s.injectToken raw cid ctx = s := by
  rw [injectToken_lost ho h]
  cases hcid : s.counter? cid with
  | none => rfl
  | some c => simp [hc c hcid]

end

end Sys2Proof.Machine

namespace Sys2Proof

theorem Tab.any_of_get? {α : Type} {t : Tab α} {k : Nat} {v : α} {p : Nat × α → Bool} (h : Tab.get? k t = some v) (hp : p (k, v) = true) : t.any p = true :=
  List.any_eq_true.mpr ⟨_, Tab.mem_of_get? h, hp⟩

namespace Machine

/-! ### Settings that a reply brings into force (R460, R463) -/

/-- What TRACE and BRK set in a context, and what they are yet to set. -/
def Ctx.debug (x : Ctx) : List (Src × Setting) × List Brk × Option TraceCfg := (x.settings, x.breaks, x.trace)

/-- Each context of s is in t with the same TRACE and BRK settings. -/
def SameDebug (s t : State) : Prop := ∀ c, (t.ctx? c).map Ctx.debug = (s.ctx? c).map Ctx.debug

theorem SameDebug.of_ctxs {s t : State} (h : t.ctxs = s.ctxs) : SameDebug s t := fun c => by simp [State.ctx?, h]

theorem SameDebug.trans {s t u : State} (a : SameDebug s t) (b : SameDebug t u) : SameDebug s u := fun c => (b c).trans (a c)

theorem Quiet.sameDebug {k : Nat} {s t : State} (h : Quiet k s t) : SameDebug s t := fun c => by
  have hq := congrArg (Option.map Ctx.debug) (h.ctxs c)
  rw [Option.map_map, Option.map_map] at hq
  exact hq

theorem active_sameDebug (s : State) (c : Nat) : SameDebug s (s.active c) := by
  intro d
  unfold State.active State.modCtx
  cases hx : s.ctx? c with
  | none => rfl
  | some x =>
    by_cases hd : d = c
    · subst hd; simp only [ctx?_setCtx_same, hx]; rfl
    · simp only [ctx?_setCtx_ne _ hd]

theorem mismatch_sameDebug (s : State) (k idx : Nat) (i : Instr) (toks : List Tok) : SameDebug s (s.mismatch k idx i toks) := by
  have hvoid : (if i.isStore then s.voidStore k idx else s).ctxs = s.ctxs := ite_ctxs (voidStore_ctxs _ _ _) rfl
  have hmark : SameDebug s (((if i.isStore then s.voidStore k idx else s).markAt k idx .mismatched).dropToks (k / 256) toks) :=
    .of_ctxs (by rw [dropToks_ctxs, markAt_ctxs, hvoid])
  unfold State.mismatch
  simp only
  split
  · exact hmark.trans (branchResolved_quiet _ k idx).sameDebug
  · exact hmark

@[simp] theorem storeAddress_ctxs (s : State) (src : Src) (i : Instr) (t : Tok) : (s.storeAddress src i t).ctxs = s.ctxs := by
  unfold State.storeAddress
  split
  · refine ite_ctxs rfl ?_
    split
    · exact noteStore_ctxs _ _ _ _ _ _ _ _
    · rfl
  · rfl

theorem refuseTok_sameDebug (s : State) (k : Nat) (f : Frame) (idx : Nat) (t : Tok) : SameDebug s (s.refuseTok k f idx t) :=
  (raiseAt_quiet s _ _).sameDebug.trans (.of_ctxs (dropTok_ctxs _ _ _))

theorem parkTok_sameDebug (s : State) (k : Nat) (f : Frame) (idx : Nat) (sd : Side) (i : Instr) (t : Tok) : SameDebug s (s.parkTok k f idx sd i t) := by
  unfold State.parkTok
  extract_lets f1 s1
  have h1 : SameDebug s s1 := .of_ctxs rfl
  split
  · exact h1.trans (mismatch_sameDebug _ _ _ _ _)
  · split
    · exact h1.trans (.of_ctxs (storeAddress_ctxs _ _ _ _))
    · exact h1

theorem deliverSlot_sameDebug (s : State) (k : Nat) (f : Frame) (idx : Nat) (sd : Side) (t : Tok) : SameDebug s (s.deliverSlot k f idx sd t) := by
  unfold State.deliverSlot
  split
  · exact refuseTok_sameDebug _ _ _ _ _
  · split
    · exact refuseTok_sameDebug _ _ _ _ _
    · split
      · exact .of_ctxs (dropTok_ctxs _ _ _)
      · exact refuseTok_sameDebug _ _ _ _ _
      · exact refuseTok_sameDebug _ _ _ _ _
      · split
        · exact refuseTok_sameDebug _ _ _ _ _
        · exact parkTok_sameDebug _ _ _ _ _ _ _

theorem deliverReply_sameDebug (s : State) (d : Dest) (t : Tok) (src : Src) : SameDebug s (s.deliverReply d t src) := by
  unfold State.deliverReply
  split
  · exact .of_ctxs (dropTok_ctxs _ _ _)
  · rename_i f _
    extract_lets k f1 s1
    have h1 : SameDebug s s1 := (SameDebug.of_ctxs (s := s) (t := s.setFrame k f1) rfl).trans (active_sameDebug _ _)
    have hdrop : SameDebug s (s1.dropTok d.pe t) := h1.trans (.of_ctxs (dropTok_ctxs _ _ _))
    split
    · exact hdrop
    · split
      · exact hdrop
      · exact h1.trans (deliverSlot_sameDebug _ _ _ _ _ _)
      · split
        · exact (h1.trans (raiseAt_quiet _ _ _).sameDebug).trans (.of_ctxs (dropTok_ctxs _ _ _))
        · exact h1.trans (.of_ctxs rfl)

/-- What an instruction set comes into force apart from what is yet to be set. -/
theorem foldl_apply_settings (l : List Setting) (x : Ctx) (q : List (Src × Setting)) :
    l.foldl Ctx.apply { x with settings := q } = { l.foldl Ctx.apply x with settings := q } := by
  induction l generalizing x with
  | nil => rfl
  | cons a l ih =>
    have ha : Ctx.apply { x with settings := q } a = { x.apply a with settings := q } := by cases a <;> rfl
    rw [List.foldl_cons, List.foldl_cons, ha, ih]

theorem inForce_ctx? {s : State} {c : Nat} {x : Ctx} (src : Src) (h : s.ctx? c = some x) :
    (s.inForce src).ctx? c =
      some { ((x.settings.filter fun q => q.1 == src).map Prod.snd).foldl Ctx.apply x with settings := x.settings.filter fun q => q.1 != src } := by
  unfold State.inForce
  split
  · rw [← foldl_apply_settings]
    simp only [State.ctx?, Tab.get?_map]
    rw [show Tab.get? c s.ctxs = some x from h]
    rfl
  · rename_i hnone
    have hsrc : ∀ q ∈ x.settings, (q.1 == src) = false := by
      intro q hq
      by_contra hc
      exact hnone (Tab.any_of_get? h (List.any_eq_true.mpr ⟨q, hq, by simpa using hc⟩))
    have hmine : (x.settings.filter fun q => q.1 == src) = [] := List.filter_eq_nil_iff.mpr fun q hq => by simp [hsrc q hq]
    have hrest : (x.settings.filter fun q => q.1 != src) = x.settings := List.filter_eq_self.mpr fun q hq => by simp [bne, hsrc q hq]
    rw [h, hmine, hrest]
    rfl

theorem inForce_pe (s : State) (src : Src) : (s.inForce src).pe = s.pe := by
  unfold State.inForce
  split <;> rfl

/-! ### Replies at a frame (R77) -/

/-- A frame that awaits one reply less. -/
abbrev Frame.lessOne (f : Frame) : Frame := { f with outstanding := f.outstanding - 1 }

/-- The state in which a reply is delivered: its frame awaits one reply less and its context's silence has ended. -/
abbrev State.replied (s : State) (d : Dest) (f : Frame) : State := (s.setFrame (frameKey d.pe d.frame) f.lessOne).active f.ctx

theorem replied_frame? (s : State) (d : Dest) (f : Frame) : (s.replied d f).frame? (frameKey d.pe d.frame) = some f.lessOne :=
  (modCtx_frame? _ _ _ _).trans (setFrame_frame?_same _ _ _)

section
variable {s : State} {d : Dest} {f : Frame} (hf : s.frameOf d.pe d.frame d.uid = some f)
include hf

theorem deliverReply_closed (hl : f.live = false) (t : Tok) (src : Src) : s.deliverReply d t src = (s.replied d f).dropTok d.pe t := by
  simp [State.deliverReply, hf, hl]

theorem deliverReply_none (ht : d.tgt = .none) (t : Tok) (src : Src) : s.deliverReply d t src = (s.replied d f).dropTok d.pe t := by
  simp [State.deliverReply, hf, ht]

theorem deliverReply_slot (hl : f.live = true) {sd : Side} {j : BitVec 7} (ht : d.tgt = .slot sd j) (t : Tok) (src : Src) :
    s.deliverReply d t src = (s.replied d f).deliverSlot (frameKey d.pe d.frame) f.lessOne j.toNat sd t := by
  simp [State.deliverReply, hf, hl, ht]

theorem deliverReply_write (hl : f.live = true) {x : BitVec 5} (ht : d.tgt = .write x) (hx : f.outs.get? x.toNat = none) (t : Tok) (src : Src) :
    s.deliverReply d t src = (s.replied d f).setFrame (frameKey d.pe d.frame) { f.lessOne with outs := f.outs.put x.toNat t } := by
  simp [State.deliverReply, hf, hl, ht, hx]

/-- A write entry that has its token already refuses a reply. -/
theorem deliverReply_taken (hl : f.live = true) {x : BitVec 5} (ht : d.tgt = .write x) (hx : (f.outs.get? x.toNat).isSome = true) (t : Tok) (src : Src) :
    ∃ e, s.deliverReply d t src = ((s.replied d f).raiseAt src e).dropTok d.pe t := by
  simp only [State.deliverReply, hf, hl, ht, hx, Bool.not_true, Bool.false_eq_true, if_true, if_false]
  exact ⟨_, rfl⟩

end

theorem refuseTok_frame? {s : State} {k : Nat} {f : Frame} (h : s.frame? k = some f) (g : Frame) (idx : Nat) (t : Tok) :
    ∃ b, (s.refuseTok k g idx t).frame? k = some { f with failed := b } := by
  obtain ⟨b, hb⟩ := raiseAt_frame? h (srcOf k g idx) { code := .operand }
  exact ⟨b, (dropTok_frame? _ _ _ _).trans hb⟩

/-- Whatever becomes of a token at a slot, its frame still awaits as many replies and is as Open as before. -/
theorem deliverSlot_frame? {s : State} {k : Nat} {f : Frame} (h : s.frame? k = some f) (idx : Nat) (sd : Side) (t : Tok)
    (hst : ∀ i, f.cfg.instr idx = some i → i.isStore = false) :
    ∃ g, (s.deliverSlot k f idx sd t).frame? k = some g ∧ g.outstanding = f.outstanding ∧ g.isOpen = f.isOpen := by
  have hrefuse : ∃ g, (s.refuseTok k f idx t).frame? k = some g ∧ g.outstanding = f.outstanding ∧ g.isOpen = f.isOpen :=
    let ⟨_, hb⟩ := refuseTok_frame? h f idx t
    ⟨_, hb, rfl, rfl⟩
  unfold State.deliverSlot
  split
  · exact hrefuse
  · rename_i i hi
    split
    · exact hrefuse
    · split
      · exact ⟨f, (dropTok_frame? _ _ _ _).trans h, rfl, rfl⟩
      · exact hrefuse
      · exact hrefuse
      · split
        · exact hrefuse
        · obtain ⟨r, z, hpark⟩ := parked_eq f idx sd i t s.sched.cycle
          have hset := setFrame_frame?_same s k (f.parked idx sd i t s.sched.cycle)
          unfold State.parkTok
          extract_lets f1 s1
          split
          · obtain ⟨g, hg, -, hout, hopen⟩ := mismatch_frame? hset idx i (f1.heldAt idx)
            rw [hpark] at hout hopen
            exact ⟨g, hg, hout, hopen⟩
          · rw [hst i hi, Bool.false_and]
            refine ⟨_, hset, ?_⟩
            rw [hpark]
            exact ⟨rfl, rfl⟩

/-- A reply that is delivered counts down its frame, which stays as Open as it was. -/
theorem deliverReply_frame? {s : State} {d : Dest} {f : Frame} (hf : s.frameOf d.pe d.frame d.uid = some f) (t : Tok) (src : Src)
    (hst : ∀ sd j i, d.tgt = .slot sd j → f.cfg.instr j.toNat = some i → i.isStore = false) :
    ∃ g, (s.deliverReply d t src).frame? (frameKey d.pe d.frame) = some g ∧ g.outstanding = f.outstanding - 1 ∧ g.isOpen = f.isOpen := by
  have h1 := replied_frame? s d f
  have hdrop : ((s.replied d f).dropTok d.pe t).frame? (frameKey d.pe d.frame) = some f.lessOne := (dropTok_frame? _ _ _ _).trans h1
  cases hl : f.live with
  | false => exact ⟨_, (congrArg (State.frame? · _) (deliverReply_closed hf hl t src)).trans hdrop, rfl, rfl⟩
  | true =>
    cases ht : d.tgt with
    | none => exact ⟨_, (congrArg (State.frame? · _) (deliverReply_none hf ht t src)).trans hdrop, rfl, rfl⟩
    | slot sd j =>
      rw [deliverReply_slot hf hl ht]
      exact deliverSlot_frame? h1 j.toNat sd t fun i hi => hst sd j i ht hi
    | write x =>
      cases hx : f.outs.get? x.toNat with
      | none =>
        rw [deliverReply_write hf hl ht hx]
        exact ⟨_, setFrame_frame?_same _ _ _, rfl, rfl⟩
      | some u =>
        obtain ⟨e, he⟩ := deliverReply_taken hf hl ht (Option.isSome_of_eq_some hx) t src
        obtain ⟨b, hb⟩ := raiseAt_frame? h1 src e
        rw [he, dropTok_frame?]
        exact ⟨_, hb, rfl, rfl⟩

theorem frameOf_of_pe {s t : State} (h : t.pe = s.pe) (pe fr uid : Nat) : t.frameOf pe fr uid = s.frameOf pe fr uid := by
  simp [State.frameOf, State.frame?, h]

section
variable {s : State} {n : Nat} {e : Env} (hmsg : s.msg? n = some e) (hfirst : s.firstReply n e = true)
include hmsg hfirst

theorem replyEvent_reply {d : Dest} {w : Tok} {src : Src} (hb : e.body = .reply d w src) (ho : tokenOdd e.wire = false) :
    exec (.splitPhaseReply n) s = .next (((s.taken n).inForce src).deliverReply d (rawTok e.wire) src) := by
  simp [exec_splitPhaseReply, replyEvent, hmsg, hfirst, hb, ho, event]

theorem replyEvent_withheld {d : Dest} (hb : e.body = .withheld d) : exec (.splitPhaseReply n) s = .next ((s.taken n).unexpect d) := by
  simp [exec_splitPhaseReply, replyEvent, hmsg, hfirst, hb, event]

theorem replyEvent_elem {d : Dest} {el : Elem} {fc w : Nat} {src : Src} {t : State} (hb : e.body = .elemReply [d] el fc w src)
    (ht : (s.taken n).deliverElem d el fc w src = some t) : exec (.splitPhaseReply n) s = .next t := by
  simp [exec_splitPhaseReply, replyEvent, hmsg, hfirst, hb, ht, event]

end

/-! ### Tile elements and releases (R162, R170) -/

theorem pickSlot_lt (s : State) (pe : Nat) : s.pickSlot pe < 4096 := by
  simp only [State.pickSlot, nthD]
  cases hl : (s.slotsFree pe)[s.freeChoice (s.slotsFree pe).length]? with
  | none => decide
  | some i =>
    have hmem := List.mem_of_getElem? hl
    simp only [State.slotsFree, List.mem_filter, List.mem_range] at hmem
    exact hmem.1

theorem hSlot_handleOf {pe slot fc rows cols : Nat} (gen : Nat) (hs : slot < 4096) (hf : fc < 32) (hr : rows < 16) (hc : cols < 16) :
    hSlot (handleOf pe slot fc rows cols gen) = slot := by
  simp only [hSlot, handleOf, wordOf, bitsAt, BitVec.toNat_ofNat]
  omega

theorem setTile_tileSlot_same (s : State) (pe slot : Nat) (t : TileSlot) : (s.setTile pe slot t).tileSlot pe slot = t := by
  simp [State.setTile, State.tileSlot, Tab.getD, Tab.get?_put_same]

/-- A slot that is filled for one receiver holds the element's codes under one reference. -/
theorem fillSlot_one (s : State) (pe slot owner w : Nat) (nf : Bool) (codes : List Nat) :
    ((s.fillSlot pe slot owner 1 w nf codes).tileSlot pe slot).codes = codes ∧ ((s.fillSlot pe slot owner 1 w nf codes).tileSlot pe slot).count = 1 := by
  simp only [State.fillSlot, setTile_tileSlot_same]
  exact ⟨rfl, rfl⟩

theorem tileSlot_of_pe {s t : State} (h : t.pe.tiles = s.pe.tiles) (pe slot : Nat) : t.tileSlot pe slot = s.tileSlot pe slot := by
  simp [State.tileSlot, h]

theorem modCtx_pe (s : State) (c : Nat) (g : Ctx → Ctx) : (s.modCtx c g).pe = s.pe := by
  unfold State.modCtx
  split <;> rfl

/-- An element that finds room becomes a tile of one reference, whose handle its write entry holds. -/
theorem deliverElem_write {s : State} {d : Dest} {f : Frame} {el : Elem} {fc w : Nat} {x : BitVec 5} (src : Src) (hf : s.frameOf d.pe d.frame d.uid = some f)
    (hl : f.live = true) (hroom : s.tileRoom d.pe w = true) (hfc : fc < 32) (hr : el.rows < 16) (hc : el.cols < 16)
    (ht : d.tgt = .write x) (hx : f.outs.get? x.toNat = none) :
    ∃ t g h, s.deliverElem d el fc w src = some t ∧ t.frame? (frameKey d.pe d.frame) = some g ∧ g.outs = f.outs.put x.toNat { kind := .tile, val := h } ∧
      (t.tileSlot d.pe (hSlot h)).codes = el.codes ∧ (t.tileSlot d.pe (hSlot h)).count = 1 := by
  let slot := s.pickSlot d.pe
  let h := handleOf d.pe slot fc el.rows el.cols (s.tileSlot d.pe slot).gen
  let u := s.drawn.fillSlot d.pe slot (s.slotOf src.ctx) 1 w el.nonfinite el.codes
  have hu : u.frameOf d.pe d.frame d.uid = some f := hf
  have hdeliver := deliverReply_write hu hl ht hx { kind := .tile, val := h } src
  have hslot : hSlot h = slot := hSlot_handleOf _ (pickSlot_lt s d.pe) hfc hr hc
  have hfill : (u.tileSlot d.pe slot).codes = el.codes ∧ (u.tileSlot d.pe slot).count = 1 := fillSlot_one s.drawn d.pe slot _ w _ _
  have htile : (u.deliverReply d { kind := .tile, val := h } src).tileSlot d.pe slot = u.tileSlot d.pe slot := by
    rw [hdeliver]
    exact tileSlot_of_pe (congrArg PeStore.tiles (modCtx_pe (u.setFrame _ _) _ _)) _ _
  rw [← htile, ← hslot] at hfill
  refine ⟨u.deliverReply d { kind := .tile, val := h } src, { f.lessOne with outs := f.outs.put x.toNat { kind := .tile, val := h } }, h, ?_, ?_, rfl, hfill⟩
  · simp only [State.deliverElem, hf, hl, hroom, Bool.not_true, Bool.false_eq_true, if_false]
    rfl
  · rw [hdeliver, setFrame_frame?_same]

theorem dropRef_tileSlot {s : State} {h : Word} {p : TileSlot} (hp : s.tileOf h = some p) :
    (s.dropRef h).tileSlot (hPe h) (hSlot h) = if p.count = 1 then p.freed else { p with count := p.count - 1 } := by
  simp only [State.dropRef, hp, setTile_tileSlot_same]

end Machine
end Sys2Proof

namespace Sys2Proof.Machine

/-! ### What a message that arrives does -/

section
variable {s : State} {n : Nat} {e : Env} (hmsg : s.msg? n = some e)
include hmsg

/-- A sound token at its frame (R78, R79, R85). -/
theorem tokenArrives {r : BitVec 128} {uid : Nat} {src : Src} (hb : e.body = .token r uid src) (hfirst : s.first n e = true)
    (ho : ¬ RawOdd e.wire) {f : Frame} {sd : Side} (hf : s.frame? (rawKey e.wire) = some f)
    (hu : f.uid = uid) (hl : f.live = true) (hsd : sideNum sd = rawField e.wire 71 2) :
    exec (.tokenDelivery n) s = .next ((s.taken n).deliverSlot (rawKey e.wire) f (rawField e.wire 64 7) sd (rawTok e.wire)) := by
  rw [tokenEvent_token hmsg hfirst hb, deliverToken_open (s := s.taken n) ho hf hu hl, ← hsd, sideOf_sideNum]

/-- A reply, or word that none will come, at its frame (R77, R225). -/
theorem replyArrives {d : Dest} {w : Tok} {src : Src} {f : Frame} (hb : e.body = .reply d w src ∨ e.body = .withheld d)
    (ho : ¬ RawOdd e.wire) (hfirst : s.firstReply n e = true) (hf : s.frameOf d.pe d.frame d.uid = some f)
    (hst : ∀ sd j i, d.tgt = .slot sd j → f.cfg.instr j.toNat = some i → i.isStore = false) :
    ∃ t g, exec (.splitPhaseReply n) s = .next t ∧ t.frame? (frameKey d.pe d.frame) = some g ∧ g.outstanding = f.outstanding - 1 ∧ g.isOpen = f.isOpen ∧
      (e.body = .withheld d ∨ f.live = false → g.slots = f.slots ∧ g.outs = f.outs ∧ g.stat = f.stat) ∧
      (e.body = .reply d w src → f.live = true → ∀ x, d.tgt = .write x → f.outs.get? x.toNat = none → g.outs = f.outs.put x.toNat (rawTok e.wire)) ∧
      (e.body = .reply d w src → f.live = true → ∀ sd j i, d.tgt = .slot sd j → f.cfg.instr j.toNat = some i → sd ∈ i.required →
        f.stat.get? j.toNat = none → f.operand j.toNat sd = none → (sd = .c → predMismatch i.hdr (rawTok e.wire) = false) →
          g.operand j.toNat sd = some (rawTok e.wire)) ∧
      (∀ c x, e.body = .reply d w src → s.ctx? c = some x →
        let z := ((x.settings.filter fun q => q.1 == src).map Prod.snd).foldl Ctx.apply x
        ∃ y, t.ctx? c = some y ∧ y.settings = (x.settings.filter fun q => q.1 != src) ∧ y.breaks = z.breaks ∧ y.trace = z.trace) := by
  rcases hb with hb | hb
  · have hf' : ((s.taken n).inForce src).frameOf d.pe d.frame d.uid = some f := (frameOf_of_pe (inForce_pe (s.taken n) src) _ _ _).trans hf
    obtain ⟨g, hg, hout, hopen⟩ := deliverReply_frame? hf' (rawTok e.wire) src hst
    refine ⟨_, g, replyEvent_reply hmsg hfirst hb (tokenOdd_false ho), hg, hout, hopen, ?_, ?_, ?_, ?_⟩
    · rintro (h | h)
      · cases hb.symm.trans h
      · rw [deliverReply_closed hf' h, dropTok_frame?, replied_frame?] at hg
        cases hg
        exact ⟨rfl, rfl, rfl⟩
    · intro _ hl x ht hx
      rw [deliverReply_write hf' hl ht hx, setFrame_frame?_same] at hg
      cases hg
      rfl
    · intro _ hl sd j i ht hi hreq hstat hop hp
      have hs := hst sd j i ht hi
      rw [deliverReply_slot hf' hl ht, deliverSlot_takes (f := f.lessOne) hi hreq hstat hop, parkTok_parks hp (by simp [hs]), setFrame_frame?_same] at hg
      cases hg
      exact parked_operand_same _ _ _ _ _ _
    · intro c x _ hx
      have hforce : ((s.taken n).inForce src).ctx? c = _ := inForce_ctx? src hx
      have hsame := deliverReply_sameDebug ((s.taken n).inForce src) d (rawTok e.wire) src c
      rw [hforce] at hsame
      obtain ⟨y, hy, hyd⟩ := Option.map_eq_some_iff.mp hsame
      simp only [Ctx.debug, Prod.mk.injEq] at hyd
      exact ⟨y, hy, hyd⟩
  · have hset : ((s.taken n).unexpect d).frame? (frameKey d.pe d.frame) = some f.lessOne := by
      have hf' : (s.taken n).frameOf d.pe d.frame d.uid = some f := hf
      rw [State.unexpect, hf']
      exact setFrame_frame?_same _ _ _
    refine ⟨_, f.lessOne, replyEvent_withheld hmsg hfirst hb, hset, rfl, rfl, fun _ => ⟨rfl, rfl, rfl⟩, fun h => ?_, fun h => ?_, fun _ _ h => ?_⟩
    · cases hb.symm.trans h
    · cases hb.symm.trans h
    · cases hb.symm.trans h

/-- A release lowers its tile's count, and frees the slot at 0 (R162). -/
theorem releaseArrives {h : Word} (hb : e.body = .release h) (hfirst : s.first n e = true) :
    ∃ t, exec (.tileRelease n) s = .next t ∧ ∀ p, s.tileOf h = some p →
      let q := t.tileSlot (hPe h) (hSlot h)
      (1 < p.count → q = { p with count := p.count - 1 }) ∧ (p.count = 1 → q.count = 0 ∧ q.gen = (p.gen + 1) % 2 ^ 28) := by
  refine ⟨_, releaseEvent_release hmsg hfirst hb, fun p hp => ?_⟩
  have hslot := dropRef_tileSlot (s := s.taken n) (h := h) hp
  refine ⟨fun h1 => ?_, fun h1 => ?_⟩
  · exact hslot.trans (if_neg (by omega))
  · rw [hslot, if_pos h1]
    exact ⟨rfl, rfl⟩

end

end Sys2Proof.Machine

section
open Sys2Proof Sys2Proof.Machine

/-- Settles O47: what each kind of message does as it arrives, one lemma for each. -/
theorem tokensArrive : Obligations.TokensArrive := by
  intro s n e hmsg raw pe k idx odd v u
  have hpe : k / 256 = pe := rawKey_div raw
  refine ⟨tokenEvent_refuses hmsg, fun hr => ⟨resendEvent_spec hmsg hr, fun h8 => ⟨fun p src x hp ho hx hs => parityEvent_owner hmsg hr h8 hp ho hx hs,
    fun x h hx hs => parityEvent_none hmsg hr h8 h hx hs⟩⟩, ?_, ?_, fun d w src f hb ho hfirst hf hst => replyArrives hmsg hb ho hfirst hf hst, ?_,
    fun h hb hfirst => releaseArrives hmsg hb hfirst⟩
  · intro r uid src hb hfirst
    refine ⟨fun ho => ?_, fun ho => ⟨fun h => ?_, fun f sd i hf hu hl hsd hi => ?_⟩⟩
    · rw [tokenEvent_token hmsg hfirst hb, deliverToken_odd ho]
    · rw [tokenEvent_token hmsg hfirst hb, deliverToken_closed (s := u) ho h]
    · rw [tokenArrives hmsg hb hfirst ho hf hu hl hsd]
      refine ⟨fun h => ?_, fun hreq hst => ?_, fun hreq hst hop hp hs => ?_, fun hc hreq hst hop hp => ?_⟩
      · rw [deliverSlot_refuses hi h, State.refuseTok, hpe]
      · rw [deliverSlot_discards hi hreq hst, hpe]
      · rw [deliverSlot_takes hi hreq hst hop, parkTok_parks hp hs]
        refine ⟨_, _, rfl, setFrame_frame?_same _ _ _, parked_operand_same _ _ _ _ _ _, ?_, ?_, fun j sd' h => parked_operand_ne h _ _ _⟩
        all_goals
          obtain ⟨r, z, h⟩ := parked_eq f idx sd i v u.sched.cycle
          rw [h]
      · subst hc
        rw [deliverSlot_takes hi (by simpa using hreq) hst hop, parkTok_mismatches hp]
        obtain ⟨g, hg, hstat, -, -⟩ := mismatch_frame? (setFrame_frame?_same u k (f.parked idx .c i v u.sched.cycle)) idx i
          ((f.parked idx .c i v u.sched.cycle).heldAt idx)
        exact ⟨_, g, rfl, hg, by rw [hstat, Tab.get?_put_same]⟩
  · intro r cid hb hfirst
    rw [tokenEvent_inject hmsg hfirst hb]
    refine ⟨fun ho => ?_, fun ho h => ⟨fun c hc hctx => ?_, fun hc => ?_⟩⟩
    · rw [injectToken_odd ho]
    · rw [injectToken_error (s := u) ho h hc hctx]
    · rw [injectToken_stale (s := u) ho h hc]
  · intro d el fc w src f hb hfirst hf hl hroom hp hfc hr hc x ht hx
    obtain ⟨t, g, h, htile, hrest⟩ := deliverElem_write (s := s.taken n) src hf hl hroom hfc hr hc ht hx
    exact ⟨t, g, h, replyEvent_elem hmsg hfirst hb htile, hrest⟩

end

/-! ## Encodings (O53, O54, O55) -/

namespace Sys2Proof

/-! ### Fields and their codes (R46 to R48, R56) -/

/-- A decoder and an encoder of one field of `bound` codes agree: a code is read as the value that has it, and as no other. -/
structure Codes {α : Type} (bound : Nat) (dec : Nat → Option α) (enc : α → Nat) : Prop where
  lt : ∀ v, enc v < bound
  iff : ∀ n v, n < bound → (dec n = some v ↔ enc v = n)

theorem Codes.dec_enc {α : Type} {bound : Nat} {dec : Nat → Option α} {enc : α → Nat} (c : Codes bound dec enc) (v : α) : dec (enc v) = some v :=
  (c.iff _ v (c.lt v)).mpr rfl

theorem bit_lt (b : Bool) : bit b < 2 := by cases b <;> decide

theorem flagOf_eq_iff (w lo : Nat) (b : Bool) : flagOf w lo = b ↔ w / 2 ^ lo % 2 = bit b := by
  cases b <;> simp [flagOf, bit]

theorem Pred.codes : Codes 4 Pred.ofCode Pred.code where
  lt v := by cases v <;> decide
  iff n v hn := by interval_cases n <;> cases v <;> decide

theorem Cond.codes : Codes 16 Cond.ofCode Cond.code where
  lt v := by cases v <;> decide
  iff n v hn := by interval_cases n <;> cases v <;> decide

theorem TCond.codes : Codes 16 TCond.ofCode TCond.code where
  lt v := by cases v <;> decide
  iff n v hn := by interval_cases n <;> cases v <;> decide

theorem Scope.codes : Codes 8 Scope.ofCode Scope.code where
  lt v := by cases v <;> decide
  iff n v hn := by interval_cases n <;> cases v <;> decide

theorem Width.codes : Codes 16 Width.ofCode Width.code where
  lt v := by cases v <;> decide
  iff n v hn := by interval_cases n <;> cases v <;> decide

theorem Timeline.codes : Codes 4 Timeline.ofCode Timeline.code where
  lt v := by cases v <;> decide
  iff n v hn := by interval_cases n <;> cases v <;> decide

theorem AtomOp.codes : Codes 16 AtomOp.ofCode AtomOp.code where
  lt v := by cases v <;> decide
  iff n v hn := by interval_cases n <;> cases v <;> decide

theorem CvtKind.codes : Codes 16 CvtKind.ofCode CvtKind.code where
  lt v := by cases v <;> decide
  iff n v hn := by interval_cases n <;> cases v <;> decide

theorem RMode.codes : Codes 8 RMode.ofCode RMode.code where
  lt v := by cases v <;> decide
  iff n v hn := by interval_cases n <;> cases v <;> decide

theorem Target.codes : Codes 512 Target.ofCode Target.code where
  lt v := by rcases v with _ | k | ⟨_ | _ | _, j⟩ <;> simp only [Target.code] <;> omega
  iff n v hn := by
    rcases v with _ | k | ⟨_ | _ | _, j⟩ <;>
      simp only [Target.ofCode, Target.code] <;> split_ifs <;>
      simp [BitVec.toNat_eq] <;> omega

theorem AccX.codes : Codes 16 (fun n => some (AccX.ofCode n)) AccX.code where
  lt v := by have := bit_lt v.init; simp only [AccX.code]; omega
  iff n v hn := by
    obtain ⟨i, z⟩ := v
    have := bit_lt i
    simp only [AccX.ofCode, AccX.code, Option.some.injEq, AccX.mk.injEq, flagOf_eq_iff, BitVec.toNat_eq, BitVec.toNat_ofNat]
    omega

theorem SpawnX.codes : Codes 16 (fun n => some (SpawnX.ofCode n)) SpawnX.code where
  lt v := by simp only [SpawnX.code]; omega
  iff n v hn := by
    obtain ⟨p, q⟩ := v
    simp only [SpawnX.ofCode, SpawnX.code, Option.some.injEq, SpawnX.mk.injEq, BitVec.toNat_eq, BitVec.toNat_ofNat]
    omega

/-! ### Second words -/

theorem LoopW.codes : Codes (2 ^ 32) LoopW.ofNat LoopW.toNat where
  lt v := by simp only [LoopW.toNat]; omega
  iff n v hn := by
    obtain ⟨k, c, t⟩ := v
    simp only [LoopW.ofNat, LoopW.toNat, Option.some.injEq, LoopW.mk.injEq, BitVec.toNat_eq, BitVec.toNat_ofNat]
    omega

theorem BfW.codes : Codes (2 ^ 32) BfW.ofNat BfW.toNat where
  lt v := by have := bit_lt v.sx; simp only [BfW.toNat]; omega
  iff n v hn := by
    obtain ⟨x, p, q⟩ := v
    have := bit_lt x
    simp only [BfW.ofNat, BfW.toNat, fieldOf, Option.ite_none_right_eq_some, beq_iff_eq,
      Option.some.injEq, BfW.mk.injEq, flagOf_eq_iff, BitVec.toNat_eq, BitVec.toNat_ofNat]
    omega

theorem FcsetW.codes : Codes (2 ^ 32) FcsetW.ofNat FcsetW.toNat where
  lt v := by have := bit_lt v.fromA; simp only [FcsetW.toNat]; omega
  iff n v hn := by
    obtain ⟨a, c, s, m⟩ := v
    have := bit_lt a
    simp only [FcsetW.ofNat, FcsetW.toNat, fieldOf, Option.ite_none_right_eq_some, Bool.and_eq_true, beq_iff_eq,
      Option.some.injEq, FcsetW.mk.injEq, flagOf_eq_iff, BitVec.toNat_eq, BitVec.toNat_ofNat]
    omega

theorem FcgetW.codes : Codes (2 ^ 32) FcgetW.ofNat FcgetW.toNat where
  lt v := by simp only [FcgetW.toNat]; omega
  iff n v hn := by
    obtain ⟨c⟩ := v
    simp only [FcgetW.ofNat, FcgetW.toNat, fieldOf, Option.ite_none_right_eq_some, beq_iff_eq,
      Option.some.injEq, FcgetW.mk.injEq, BitVec.toNat_eq, BitVec.toNat_ofNat]
    omega

theorem TnewW.codes : Codes (2 ^ 32) TnewW.ofNat TnewW.toNat where
  lt v := by simp only [TnewW.toNat]; omega
  iff n v hn := by
    obtain ⟨c, r, q⟩ := v
    simp only [TnewW.ofNat, TnewW.toNat, fieldOf, Option.ite_none_right_eq_some, beq_iff_eq,
      Option.some.injEq, TnewW.mk.injEq, BitVec.toNat_eq, BitVec.toNat_ofNat]
    omega

theorem AccW.codes : Codes (2 ^ 32) AccW.ofNat AccW.toNat where
  lt v := by have := bit_lt v.clr; have := bit_lt v.mode; simp only [AccW.toNat]; omega
  iff n v hn := by
    obtain ⟨c, m, z⟩ := v
    have := bit_lt c
    have := bit_lt m
    simp only [AccW.ofNat, AccW.toNat, fieldOf, Option.ite_none_right_eq_some, Bool.and_eq_true, beq_iff_eq,
      Option.some.injEq, AccW.mk.injEq, flagOf_eq_iff, BitVec.toNat_eq, BitVec.toNat_ofNat]
    omega

theorem DrainW.codes : Codes (2 ^ 32) DrainW.ofNat DrainW.toNat where
  lt v := by have := bit_lt v.fromA; have := bit_lt v.ep; simp only [DrainW.toNat]; omega
  iff n v hn := by
    obtain ⟨a, e, s, c, r, q⟩ := v
    have := bit_lt a
    have := bit_lt e
    simp only [DrainW.ofNat, DrainW.toNat, fieldOf, Option.ite_none_right_eq_some, Bool.and_eq_true, beq_iff_eq,
      Option.some.injEq, DrainW.mk.injEq, flagOf_eq_iff, BitVec.toNat_eq, BitVec.toNat_ofNat]
    omega

theorem RingW.codes : Codes (2 ^ 32) RingW.ofNat RingW.toNat where
  lt v := by have := bit_lt v.unbind; simp only [RingW.toNat]; omega
  iff n v hn := by
    obtain ⟨u, c, d, q⟩ := v
    have := bit_lt u
    simp only [RingW.ofNat, RingW.toNat, fieldOf, Option.ite_none_right_eq_some, Bool.and_eq_true, beq_iff_eq,
      Option.some.injEq, RingW.mk.injEq, flagOf_eq_iff, BitVec.toNat_eq, BitVec.toNat_ofNat]
    omega

theorem EploadW.codes : Codes (2 ^ 32) EploadW.ofNat EploadW.toNat where
  lt v := by simp only [EploadW.toNat]; omega
  iff n v hn := by
    obtain ⟨s, g⟩ := v
    simp only [EploadW.ofNat, EploadW.toNat, fieldOf, Option.ite_none_right_eq_some, beq_iff_eq,
      Option.some.injEq, EploadW.mk.injEq, BitVec.toNat_eq, BitVec.toNat_ofNat]
    omega

theorem EpargW.codes : Codes (2 ^ 32) EpargW.ofNat EpargW.toNat where
  lt v := by simp only [EpargW.toNat]; omega
  iff n v hn := by
    obtain ⟨a⟩ := v
    simp only [EpargW.ofNat, EpargW.toNat, fieldOf, Option.ite_none_right_eq_some, beq_iff_eq,
      Option.some.injEq, EpargW.mk.injEq, BitVec.toNat_eq, BitVec.toNat_ofNat]
    omega

theorem MemW.codes : Codes (2 ^ 32) MemW.ofNat MemW.toNat where
  lt v := by simp only [MemW.toNat]; omega
  iff n v hn := by
    obtain ⟨l, t, d⟩ := v
    simp only [MemW.ofNat, MemW.toNat, Option.some.injEq, MemW.mk.injEq, BitVec.toNat_eq, BitVec.toNat_ofNat]
    omega

theorem TmemW.codes : Codes (2 ^ 32) TmemW.ofNat TmemW.toNat where
  lt v := by simp only [TmemW.toNat]; omega
  iff n v hn := by
    obtain ⟨l, t, c, r, q⟩ := v
    simp only [TmemW.ofNat, TmemW.toNat, fieldOf, Option.ite_none_right_eq_some, beq_iff_eq,
      Option.some.injEq, TmemW.mk.injEq, BitVec.toNat_eq, BitVec.toNat_ofNat]
    omega

theorem FenceW.codes : Codes (2 ^ 32) FenceW.ofNat FenceW.toNat where
  lt v := by simp only [FenceW.toNat]; omega
  iff n v hn := by
    obtain ⟨t, o⟩ := v
    simp only [FenceW.ofNat, FenceW.toNat, fieldOf, Option.ite_none_right_eq_some, beq_iff_eq,
      Option.some.injEq, FenceW.mk.injEq, BitVec.toNat_eq, BitVec.toNat_ofNat]
    omega

theorem SbarW.codes : Codes (2 ^ 32) SbarW.ofNat SbarW.toNat where
  lt v := by simp only [SbarW.toNat]; omega
  iff n v hn := by
    obtain ⟨p, q⟩ := v
    simp only [SbarW.ofNat, SbarW.toNat, fieldOf, Option.ite_none_right_eq_some, beq_iff_eq,
      Option.some.injEq, SbarW.mk.injEq, BitVec.toNat_eq, BitVec.toNat_ofNat]
    omega

theorem Cpy1W.codes : Codes (2 ^ 32) Cpy1W.ofNat Cpy1W.toNat where
  lt v := by have := bit_lt v.wait; simp only [Cpy1W.toNat]; omega
  iff n v hn := by
    obtain ⟨w, l⟩ := v
    have := bit_lt w
    simp only [Cpy1W.ofNat, Cpy1W.toNat, Option.some.injEq, Cpy1W.mk.injEq, flagOf_eq_iff, BitVec.toNat_eq, BitVec.toNat_ofNat]
    omega

theorem CpyrW.codes : Codes (2 ^ 32) CpyrW.ofNat CpyrW.toNat where
  lt v := by have := bit_lt v.wait; simp only [CpyrW.toNat]; omega
  iff n v hn := by
    obtain ⟨c, r, q, d, w, g⟩ := v
    have := bit_lt w
    simp only [CpyrW.ofNat, CpyrW.toNat, fieldOf, Option.ite_none_right_eq_some, beq_iff_eq,
      Option.some.injEq, CpyrW.mk.injEq, flagOf_eq_iff, BitVec.toNat_eq, BitVec.toNat_ofNat]
    omega

theorem ConvW.codes : Codes (2 ^ 32) ConvW.ofNat ConvW.toNat where
  lt v := by have := RMode.codes.lt v.mode; simp only [ConvW.toNat]; omega
  iff n v hn := by
    obtain ⟨m, f⟩ := v
    have hm := RMode.codes.iff (n / 2 ^ 29 % 2 ^ 3) m (by omega)
    have := RMode.codes.lt m
    simp only [ConvW.ofNat, ConvW.toNat, fieldOf, Option.ite_none_right_eq_some, beq_iff_eq, Option.map_eq_some_iff, ConvW.mk.injEq,
      existsAndEq, true_and, hm, BitVec.toNat_eq, BitVec.toNat_ofNat]
    omega

theorem AtomW.codes : Codes (2 ^ 32) AtomW.ofNat AtomW.toNat where
  lt v := by have := Scope.codes.lt v.scope; have := bit_lt v.dbl; simp only [AtomW.toNat]; omega
  iff n v hn := by
    obtain ⟨di, o, d, c, t⟩ := v
    have := Scope.codes.lt c
    have := bit_lt d
    have hc := Scope.codes.iff (n / 2 ^ 6 % 2 ^ 3) c (by omega)
    simp only [AtomW.ofNat, AtomW.toNat, fieldOf, Option.ite_none_right_eq_some, Bool.and_eq_true, beq_iff_eq, Option.map_eq_some_iff, AtomW.mk.injEq, 
      existsAndEq, true_and, hc, flagOf_eq_iff, BitVec.toNat_eq, BitVec.toNat_ofNat]
    omega

theorem BarW.codes : Codes (2 ^ 32) BarW.ofNat BarW.toNat where
  lt v := by have := Scope.codes.lt v.level; have := bit_lt v.nw; simp only [BarW.toNat]; omega
  iff n v hn := by
    obtain ⟨w, c⟩ := v
    have := Scope.codes.lt c
    have := bit_lt w
    have hc := Scope.codes.iff (n / 2 ^ 0 % 2 ^ 3) c (by omega)
    simp only [BarW.ofNat, BarW.toNat, fieldOf, Option.ite_none_right_eq_some, beq_iff_eq, Option.map_eq_some_iff, BarW.mk.injEq,
      existsAndEq, and_true, hc, flagOf_eq_iff]
    omega

theorem ChopenW.codes : Codes (2 ^ 32) ChopenW.ofNat ChopenW.toNat where
  lt v := by have := Scope.codes.lt v.reach; have := bit_lt v.tile; have := bit_lt v.fixed; simp only [ChopenW.toNat]; omega
  iff n v hn := by
    obtain ⟨t, d, x, c, m, u⟩ := v
    have := Scope.codes.lt c
    have := bit_lt t
    have := bit_lt x
    have hc := Scope.codes.iff (n / 2 ^ 25 % 2 ^ 3) c (by omega)
    simp only [ChopenW.ofNat, ChopenW.toNat, fieldOf, Option.map_eq_some_iff, ChopenW.mk.injEq,
      existsAndEq, true_and, hc, flagOf_eq_iff, BitVec.toNat_eq, BitVec.toNat_ofNat]
    omega

/-! ### The base word (R46 to R48) -/

theorem fieldOf_lt (w lo len : Nat) : fieldOf w lo len < 2 ^ len := Nat.mod_lt _ (Nat.two_pow_pos _)

/-- The base word of `Raw.make` as a number, where its fields fit. -/
theorem make_base_toNat {op b x : Nat} (hop : op < 128) (hb : b < 2) (hx : x < 16) (h : Hdr) (s : Nat) :
    (Raw.make op b x h s).base.toNat = op * 2 ^ 25 + b * 2 ^ 24 + h.pr.code * 2 ^ 22 + x * 2 ^ 18 + h.t1.code * 2 ^ 9 + h.t0.code := by
  have := Pred.codes.lt h.pr
  have := Target.codes.lt h.t1
  have := Target.codes.lt h.t0
  simp only [Raw.make, BitVec.toNat_ofNat]
  omega

/-- The fields of a base word: the opcode, the I bit, X and the header's codes. -/
theorem make_fields {op b x : Nat} (hop : op < 128) (hb : b < 2) (hx : x < 16) (h : Hdr) (s : Nat) :
    let w := (Raw.make op b x h s).base.toNat
    fieldOf w 25 7 = op ∧ fieldOf w 24 1 = b ∧ fieldOf w 18 4 = x ∧ fieldOf w 22 2 = h.pr.code ∧ fieldOf w 9 9 = h.t1.code ∧ fieldOf w 0 9 = h.t0.code := by
  have := Pred.codes.lt h.pr
  have := Target.codes.lt h.t1
  have := Target.codes.lt h.t0
  simp only [make_base_toNat hop hb hx, fieldOf]
  omega

theorem decodeHdr_iff (w : Nat) (h : Hdr) :
    decodeHdr w = .ok h ↔ fieldOf w 22 2 = h.pr.code ∧ fieldOf w 9 9 = h.t1.code ∧ fieldOf w 0 9 = h.t0.code := by
  obtain ⟨p, u, t⟩ := h
  have hp := Pred.codes.iff _ p (fieldOf_lt w 22 2)
  have hu := Target.codes.iff _ u (fieldOf_lt w 9 9)
  have ht := Target.codes.iff _ t (fieldOf_lt w 0 9)
  simp only [eq_comm (b := Pred.code _), eq_comm (b := Target.code _), ← hp, ← hu, ← ht, decodeHdr]
  cases Pred.ofCode (fieldOf w 22 2) with
  | none => simp
  | some p' => cases Target.ofCode (fieldOf w 9 9) <;> cases Target.ofCode (fieldOf w 0 9) <;> simp

/-- What the decoder answers: the header's codes, the opcode's instruction and its checks all hold. -/
theorem decodeRaw_iff (r : Raw) (i : Instr) :
    decodeRaw r = .ok i ↔ ∃ h, decodeHdr r.base.toNat = .ok h ∧
      decodeOp (fieldOf r.base.toNat 25 7) (fieldOf r.base.toNat 24 1) (fieldOf r.base.toNat 18 4) r.second.toNat h = .ok i ∧ i.wf = true := by
  simp only [decodeRaw]
  cases decodeHdr r.base.toNat with
  | error e =>
    simp only [reduceCtorEq, false_and, exists_false, iff_false]
    split <;> simp
  | ok h =>
    simp only [Except.ok.injEq, exists_eq_left']
    cases decodeOp (fieldOf r.base.toNat 25 7) (fieldOf r.base.toNat 24 1) (fieldOf r.base.toNat 18 4) r.second.toNat h with
    | error e => simp
    | ok j =>
      simp only [Except.ok.injEq]
      constructor
      · intro h
        split at h
        · next hj => cases h; exact ⟨rfl, hj⟩
        · cases h
      · rintro ⟨rfl, hj⟩
        exact if_pos hj

/-- An opcode that is no instruction is refused as such whatever header stands beside it (R49, R65). -/
theorem decodeRaw_of_reserved {r : Raw} {e : Reject} (he : e = .reservedOpcode ∨ ∃ n, e = .extension n)
    (h : ∀ hd, decodeOp (fieldOf r.base.toNat 25 7) (fieldOf r.base.toNat 24 1) (fieldOf r.base.toNat 18 4) r.second.toNat hd = .error e) :
    decodeRaw r = .error e := by
  simp only [decodeRaw]
  rcases he with rfl | ⟨n, rfl⟩ <;> cases decodeHdr r.base.toNat <;> simp only [h]

theorem make_decodeRaw {op b x s : Nat} (hop : op < 128) (hb : b < 2) (hx : x < 16) (hs : s < 2 ^ 32) {h : Hdr} {i : Instr}
    (hi : decodeOp op b x s h = .ok i) (hwf : i.wf = true) : decodeRaw (Raw.make op b x h s) = .ok i := by
  obtain ⟨f1, f2, f3, f4, f5, f6⟩ := make_fields hop hb hx h s
  refine (decodeRaw_iff _ i).mpr ⟨h, (decodeHdr_iff _ h).mpr ⟨f4, f5, f6⟩, ?_, hwf⟩
  rw [f1, f2, f3]
  rwa [Raw.make, BitVec.toNat_ofNat, Nat.mod_eq_of_lt hs]

theorem make_hasSecond {op b x : Nat} (hop : op < 128) (hb : b < 2) (hx : x < 16) (h : Hdr) (s : Nat) :
    Raw.hasSecond (Raw.make op b x h s).base = (b == 1) := by
  obtain ⟨-, hfield, -⟩ := make_fields hop hb hx h s
  exact congrArg (· == 1) hfield

/-- A base word is that of its own fields. -/
theorem base_eq_make {w : Word32} {h : Hdr} (hh : decodeHdr w.toNat = .ok h) (s : Nat) :
    (Raw.make (fieldOf w.toNat 25 7) (fieldOf w.toNat 24 1) (fieldOf w.toNat 18 4) h s).base = w := by
  obtain ⟨hp, hu, ht⟩ := (decodeHdr_iff _ _).mp hh
  refine BitVec.eq_of_toNat_eq ?_
  rw [make_base_toNat (fieldOf_lt _ 25 7) (fieldOf_lt _ 24 1) (fieldOf_lt _ 18 4), ← hp, ← hu, ← ht]
  simp only [fieldOf]
  omega

/-! ### What an encoded instruction is read as -/

/-- A load's X is read as what it stands for, but for the reserved sign-extended doubleword (R56). -/
theorem LoadX.ofCode_code {x : LoadX} (h : x.wf = true) : LoadX.ofCode x.code = some x := by
  obtain ⟨sx, w⟩ := x
  revert h
  cases sx <;> cases w <;> decide

theorem LoadX.code_lt (x : LoadX) : x.code < 16 := by
  obtain ⟨sx, w⟩ := x
  cases sx <;> cases w <;> decide

theorem LoadX.code_of_ofCode {n : Nat} {x : LoadX} (h : LoadX.ofCode n = some x) : x.code = n := by
  have hn : n < 7 := by
    by_contra hn
    simp [LoadX.ofCode, hn] at h
  interval_cases n <;> cases h <;> rfl

theorem AccX.code_ofCode {x : Nat} (hx : x < 16) : (AccX.ofCode x).code = x := (AccX.codes.iff x _ hx).mp rfl

theorem SpawnX.code_ofCode {x : Nat} (hx : x < 16) : (SpawnX.ofCode x).code = x := (SpawnX.codes.iff x _ hx).mp rfl

theorem AccX.ofCode_code (x : AccX) : AccX.ofCode x.code = x := Option.some.inj (AccX.codes.dec_enc x)

theorem SpawnX.ofCode_code (x : SpawnX) : SpawnX.ofCode x.code = x := Option.some.inj (SpawnX.codes.dec_enc x)

theorem Codes.reads {α : Type} {bound : Nat} {dec : Nat → Option α} {enc : α → Nat} (c : Codes bound dec enc) {n : Nat} (hn : n < bound) :
    ∀ v, dec n = some v → enc v = n := fun v => (c.iff n v hn).mp

/-- The encoder gives the instruction words that the opcode grid reads as it, and no second word without the I bit. -/
def Reads (i : Instr) : Prop :=
  ∃ op b x s h, encode i = some (Raw.make op b x h s) ∧ op < 128 ∧ b < 2 ∧ x < 16 ∧ s < 2 ^ 32 ∧ (b = 0 → s = 0) ∧ decodeOp op b x s h = .ok i

theorem reads_bare {i : Instr} {op x : Nat} {h : Hdr} (he : encode i = some (Raw.make op 0 x h 0)) (hop : op < 128) (hx : x < 16)
    (hd : decodeOp op 0 x 0 h = .ok i) : Reads i :=
  ⟨op, 0, x, 0, h, he, hop, by decide, hx, by decide, fun _ => rfl, hd⟩

theorem reads_second {i : Instr} {op x s : Nat} {h : Hdr} (he : encode i = some (Raw.make op 1 x h s)) (hop : op < 128) (hx : x < 16)
    (hs : s < 2 ^ 32) (hd : decodeOp op 1 x s h = .ok i) : Reads i :=
  ⟨op, 1, x, s, h, he, hop, by decide, hx, hs, fun h => absurd h (by decide), hd⟩

/-- An instruction whose second word is an immediate (R50, R51). -/
theorem reads_imm {k : BitVec 32 → Instr} {w : BitVec 32} {op x : Nat} {h : Hdr} (he : encode (k w) = some (Raw.make op 1 x h w.toNat))
    (hop : op < 128) (hx : x < 16) (hd : ∀ s, decodeOp op 1 x s h = .ok (k (BitVec.ofNat 32 s))) : Reads (k w) :=
  reads_second he hop hx (by omega) (by rw [hd, BitVec.ofNat_toNat, BitVec.setWidth_eq])

/-- An instruction with a second word of its own form (R52 to R54, R56). -/
theorem reads_own {α : Type} {dec : Nat → Option α} {enc : α → Nat} (c : Codes (2 ^ 32) dec enc) {k : α → Instr} {w : α} {op x : Nat} {h : Hdr}
    (he : encode (k w) = some (Raw.make op 1 x h (enc w))) (hop : op < 128) (hx : x < 16)
    (hd : ∀ s, decodeOp op 1 x s h = withWord 1 (dec s) k) : Reads (k w) :=
  reads_second he hop hx (c.lt w) (by rw [hd, c.dec_enc]; rfl)

theorem minorField_some {α : Type} {o : Option α} {v : α} (h : o = some v) (k : α → Except Reject Instr) : minorField o k = k v := by
  rw [h]; rfl

/-- Every well-formed instruction is read from its own words: without a second word, with an immediate, with a word of its own form, and with a field in X. -/
theorem reads_of_wf {i : Instr} (hwf : i.wf = true) (he : i.isEvent = false) : Reads i := by
  cases i
  case mov h | null_ h | sel h | gate h | bri h | calli h | ret h | iter h | carry h | lbreak h | add h | sub h | and_ h | or_ h | xor_ h | shl h |
      shr h | sar h | min_ h | max_ h | minu h | maxu h | rotl h | andn h | orn h | xnor h | mul h | mulh h | mulhu h | div h | divu h | rem_ h | remu
      h | clz h | ctz h | popc h | sext h | zext h | neg h | not_ h | abs_ h | lea h | faddS h | fsubS h | fmulS h | fdivS h | fminS h | fmaxS h |
      fsqrtS h | fabsS h | fnegS h | fcmpeqS h | fcmpltS h | fcmpleS h | fcmpunS h | ffmaS h | faddD h | fsubD h | fmulD h | fdivD h | fminD h | fmaxD
      h | fsqrtD h | fabsD h | fnegD h | fcmpeqD h | fcmpltD h | fcmpleD h | fcmpunD h | ffmaD h | tamax h | trescale h | tadd h | tsub h | tmul h |
      tmax h | tmin h | tdiv h | tand h | tor h | txor h | tneg h | tabs h | texp h | tlog h | trsqrt h | trecip h | ttanh h | tsigm h | tgelu h |
      tfma h | tsplat h | trowb h | tcolb h | trsum h | tcsum h | trmax h | tcmax h | tsum h | ttrans h | tmask h | tsel h | telget h | telset h |
      trel h | tcopy h | acbind h | acexpect h | acread h | acfree h | syncall h | chclose h | chstat h | chsend h | chtrys h | chrecv h | chtryr h |
      cpy h | cpqpost h | cpstat h | jnew h | jdec h | tend h | fnew h | fres h | freg h | fget h | dqpush h | dqpop h | dqsteal h | wqput h | wqget h
      | yield_ h | ckpt h | remest h | ctxnew h | ctxhalt h | ctxres h | hbeat h | atinv h | tcinv h | tcpin h | tcpre h | objload h | trace h | brk h =>
    exact reads_bare rfl (by decide) (by decide) rfl
  case const_ h w | constZx h w | consth h w | br h w | call h w | addImm h w | subImm h w | andImm h w | orImm h w | xorImm h w | shlImm h w | shrImm
      h w | sarImm h w | minImm h w | maxImm h w | minuImm h w | maxuImm h w | rotlImm h w | andnImm h w | ornImm h w | xnorImm h w | mulImm h w |
      mulhImm h w | mulhuImm h w | divImm h w | divuImm h w | remImm h w | remuImm h w | leaImm h w | srr h w | srw h w | trap h w | hcall h w |
      remestImm h w | pwrhint h w | mark h w | cntrd h w =>
    exact reads_imm rfl (by decide) (by decide) fun _ => rfl
  case loop h w =>
    exact reads_own LoopW.codes rfl (by decide) (by decide) fun _ => rfl
  case bfx h w | bfi h w =>
    exact reads_own BfW.codes rfl (by decide) (by decide) fun _ => rfl
  case tcvt h w =>
    exact reads_own ConvW.codes rfl (by decide) (by decide) fun _ => rfl
  case fcset h w =>
    exact reads_own FcsetW.codes rfl (by decide) (by decide) fun _ => rfl
  case fcget h w =>
    exact reads_own FcgetW.codes rfl (by decide) (by decide) fun _ => rfl
  case tnew h w =>
    exact reads_own TnewW.codes rfl (by decide) (by decide) fun _ => rfl
  case zinit h w | zclrf h w | zflags h w | zscale h w | zload h w =>
    exact reads_own AccW.codes rfl (by decide) (by decide) fun _ => rfl
  case rcfg h w | rpush h w | rpop h w | rstat h w =>
    exact reads_own RingW.codes rfl (by decide) (by decide) fun _ => rfl
  case epload h w =>
    exact reads_own EploadW.codes rfl (by decide) (by decide) fun _ => rfl
  case eparg h w =>
    exact reads_own EpargW.codes rfl (by decide) (by decide) fun _ => rfl
  case tld h w | tldr h w | tst h w | tgath h w | tscat h w =>
    exact reads_own TmemW.codes rfl (by decide) (by decide) fun _ => rfl
  case sbar h w =>
    exact reads_own SbarW.codes rfl (by decide) (by decide) fun _ => rfl
  case barinit h w | bararr h w | bartry h w =>
    exact reads_own BarW.codes rfl (by decide) (by decide) fun _ => rfl
  case chopen h w =>
    exact reads_own ChopenW.codes rfl (by decide) (by decide) fun _ => rfl
  case cpy1 h w =>
    exact reads_own Cpy1W.codes rfl (by decide) (by decide) fun _ => rfl
  case cpyr h w =>
    exact reads_own CpyrW.codes rfl (by decide) (by decide) fun _ => rfl
  case cmp h cc => exact reads_bare rfl (by decide) (Cond.codes.lt cc) (minorField_some (Cond.codes.dec_enc cc) _)
  case cmpImm h cc w =>
    exact reads_imm rfl (by decide) (Cond.codes.lt cc) fun _ => minorField_some (Cond.codes.dec_enc cc) _
  case tcmp h cc => exact reads_bare rfl (by decide) (TCond.codes.lt cc) (minorField_some (TCond.codes.dec_enc cc) _)
  case cvt h k w =>
    exact reads_own ConvW.codes rfl (by decide) (CvtKind.codes.lt k) fun _ => minorField_some (CvtKind.codes.dec_enc k) _
  case mma h x | mmar h x => exact reads_bare rfl (by decide) (AccX.codes.lt x) (congrArg _ (congrArg _ x.ofCode_code))
  case spawn h x | spawnd h x =>
    exact reads_bare rfl (by decide) (SpawnX.codes.lt x) (congrArg _ (congrArg _ x.ofCode_code))
  case zdrain h z w =>
    refine reads_own DrainW.codes rfl (by decide) (by omega) fun s => (if_pos (by omega : z.toNat < 8)).trans ?_
    rw [BitVec.ofNat_toNat, BitVec.setWidth_eq]
  case tmac h x w =>
    exact reads_own DrainW.codes rfl (by decide) (AccX.codes.lt x) fun s => congrArg (fun y => withWord 1 (DrainW.ofNat s) (.tmac h y)) x.ofCode_code
  case ld h x w | ldr h x w | ldpair h x w =>
    exact reads_own MemW.codes rfl (by decide) (LoadX.code_lt x) fun _ => minorField_some (LoadX.ofCode_code hwf) _
  case st h x w =>
    exact reads_own MemW.codes rfl (by decide) (Width.codes.lt x) fun _ => minorField_some (Width.codes.dec_enc x) _
  case fence h sc => 
    cases sc <;> exact reads_bare rfl (by decide) (by decide) rfl
  case fenceWord h sc w =>
    cases sc <;> exact reads_own FenceW.codes rfl (by decide) (by decide) fun _ => rfl
  case tlwait h tl | tlread h tl => 
    cases tl <;> exact reads_bare rfl (by decide) (by decide) rfl
  case atom h op w | atomn h op w =>
    exact reads_own AtomW.codes rfl (by decide) (AtomOp.codes.lt op) fun _ => minorField_some (AtomOp.codes.dec_enc op) _
  all_goals cases he

/-! ### What the opcode grid answers -/

theorem ofNat_toNat_of_lt {s : Nat} (h : s < 2 ^ 32) : (BitVec.ofNat 32 s).toNat = s := by rw [BitVec.toNat_ofNat, Nat.mod_eq_of_lt h]

/-- Whatever instruction the answer is, its own words have this opcode, I bit, X, header and, with the I bit, this second word. -/
def ReadsBack (op b x s : Nat) (h : Hdr) (e : Except Reject Instr) : Prop :=
  ∀ i, e = .ok i → ∃ s', encode i = some (Raw.make op b x h s') ∧ (b = 1 → s' = s)

namespace ReadsBack

variable {op b x s : Nat} {h : Hdr}

theorem error (r : Reject) : ReadsBack op b x s h (.error r) := fun _ e => by cases e

theorem onOp {n : Nat} {e f : Except Reject Instr} (he : ReadsBack n b x s h e) (hf : ReadsBack op b x s h f) :
    ReadsBack op b x s h (if op = n then e else f) := by
  split
  · next heq => exact heq ▸ he
  · exact hf

theorem onX {n : Nat} {e f : Except Reject Instr} (he : ReadsBack op b n s h e) (hf : ReadsBack op b x s h f) :
    ReadsBack op b x s h (if x = n then e else f) := by
  split
  · next heq => exact heq ▸ he
  · exact hf

theorem ite {c : Prop} [Decidable c] {e f : Except Reject Instr} (he : c → ReadsBack op b x s h e) (hf : ¬ c → ReadsBack op b x s h f) :
    ReadsBack op b x s h (if c then e else f) := by
  split
  · next hc => exact he hc
  · next hc => exact hf hc

/-- X written as the code of what it was read as. -/
theorem ofCode {y : Nat} {e : Except Reject Instr} (hy : y = x) (he : ReadsBack op b y s h e) : ReadsBack op b x s h e := hy ▸ he

theorem bare {i : Instr} (hi : encode i = some (Raw.make op 0 x h 0)) : ReadsBack op b x s h (Sys2Proof.bare b i) := by
  intro j hj
  simp only [Sys2Proof.bare] at hj
  split at hj
  · next hb =>
    subst hb
    cases hj
    exact ⟨0, hi, fun h1 => absurd h1 (by decide)⟩
  · cases hj

theorem withImm {k : BitVec 32 → Instr} (hs : s < 2 ^ 32) (hk : ∀ w, encode (k w) = some (Raw.make op 1 x h w.toNat)) :
    ReadsBack op b x s h (Sys2Proof.withImm b s k) := by
  intro j hj
  simp only [Sys2Proof.withImm] at hj
  split at hj
  · next hb =>
    subst hb
    cases hj
    exact ⟨(BitVec.ofNat 32 s).toNat, hk _, fun _ => ofNat_toNat_of_lt hs⟩
  · cases hj

theorem optImm {i : Instr} {k : BitVec 32 → Instr} (hb : b < 2) (hs : s < 2 ^ 32) (hi : encode i = some (Raw.make op 0 x h 0))
    (hk : ∀ w, encode (k w) = some (Raw.make op 1 x h w.toNat)) : ReadsBack op b x s h (Sys2Proof.optImm b s i k) := by
  intro j hj
  simp only [Sys2Proof.optImm] at hj
  split at hj
  · next hb =>
    subst hb
    cases hj
    exact ⟨0, hi, fun h1 => absurd h1 (by decide)⟩
  · next hb' =>
    obtain rfl : b = 1 := by omega
    cases hj
    exact ⟨(BitVec.ofNat 32 s).toNat, hk _, fun _ => ofNat_toNat_of_lt hs⟩

theorem withWord {α : Type} {dec : Nat → Option α} {enc : α → Nat} (c : Codes (2 ^ 32) dec enc) {k : α → Instr} (hs : s < 2 ^ 32)
    (hk : ∀ w, encode (k w) = some (Raw.make op 1 x h (enc w))) : ReadsBack op b x s h (Sys2Proof.withWord b (dec s) k) := by
  intro j hj
  simp only [Sys2Proof.withWord] at hj
  split at hj
  · next hb =>
    cases hw : dec s with
    | none => simp [hw] at hj
    | some w =>
      rw [hw] at hj
      cases hj
      subst hb
      exact ⟨_, hk w, fun _ => (c.iff s w hs).mp hw⟩
  · cases hj

theorem onField {α : Type} {o : Option α} {k : α → Except Reject Instr} (hk : ∀ v, o = some v → ReadsBack op b x s h (k v)) :
    ReadsBack op b x s h (Sys2Proof.minorField o k) := by
  cases o with
  | none => exact error _
  | some v => exact hk v rfl

/-- A field that fills X: a value that it is read as has it as its code. -/
theorem minorField {α : Type} {o : Option α} {enc : α → Nat} {k : α → Except Reject Instr} (ho : ∀ v, o = some v → enc v = x)
    (hk : ∀ v, ReadsBack op b (enc v) s h (k v)) : ReadsBack op b x s h (Sys2Proof.minorField o k) :=
  onField fun v hv => .ofCode (ho v hv) (hk v)

end ReadsBack

section
variable {op b x s : Nat} (hb : b < 2) (hx : x < 16) (hs : s < 2 ^ 32) (h : Hdr)

include hb hx hs in
theorem decodeScalar_readsBack : ReadsBack op b x s h (decodeScalar op b x s h) := by
  unfold decodeScalar
  repeat' with_reducible first
    | apply ReadsBack.onOp | apply ReadsBack.onX | apply ReadsBack.error | apply ReadsBack.bare | apply ReadsBack.withImm hs
    | apply ReadsBack.optImm hb hs | apply ReadsBack.withWord LoopW.codes hs | apply ReadsBack.withWord BfW.codes hs
    | apply ReadsBack.minorField (Cond.codes.reads hx) | intro
  all_goals rfl

include hx hs in
theorem decodeTile_readsBack : ReadsBack op b x s h (decodeTile op b x s h) := by
  unfold decodeTile
  repeat' with_reducible first
    | apply ReadsBack.onOp | apply ReadsBack.onX | apply ReadsBack.error | apply ReadsBack.bare
    | apply ReadsBack.withWord ConvW.codes hs | apply ReadsBack.withWord FcsetW.codes hs | apply ReadsBack.withWord FcgetW.codes hs
    | apply ReadsBack.withWord TnewW.codes hs | apply ReadsBack.minorField (CvtKind.codes.reads hx)
    | apply ReadsBack.minorField (TCond.codes.reads hx) | intro
  all_goals rfl

include hx hs in
theorem decodeMatrix_readsBack : ReadsBack op b x s h (decodeMatrix op b x s h) := by
  have hacc := AccX.code_ofCode hx
  unfold decodeMatrix
  refine .onOp (.ofCode hacc (.bare rfl)) (.onOp (.ofCode hacc (.bare rfl)) (.onOp ?_ (.onOp (.ite (fun hz => ?_) fun _ => .error _) ?_)))
  case refine_2 => exact .ofCode (by rw [BitVec.toNat_ofNat]; omega) (.withWord DrainW.codes hs fun _ => rfl)
  all_goals repeat' with_reducible first
    | apply ReadsBack.onOp | apply ReadsBack.onX | apply ReadsBack.error | apply ReadsBack.withWord AccW.codes hs
    | apply ReadsBack.withWord RingW.codes hs | apply ReadsBack.withWord EploadW.codes hs | apply ReadsBack.withWord EpargW.codes hs | intro
  all_goals rfl

include hx hs in
theorem decodeMemory_readsBack : ReadsBack op b x s h (decodeMemory op b x s h) := by
  unfold decodeMemory
  repeat' with_reducible first
    | apply ReadsBack.onOp | apply ReadsBack.onX | apply ReadsBack.error | apply ReadsBack.withWord MemW.codes hs
    | apply ReadsBack.withWord TmemW.codes hs | apply ReadsBack.minorField (fun _ => LoadX.code_of_ofCode)
    | apply ReadsBack.minorField (Width.codes.reads hx) | intro
  all_goals rfl

include hx hs in
theorem decodeSync_readsBack : ReadsBack op b x s h (decodeSync op b x s h) := by
  unfold decodeSync
  refine .onOp (.ite (fun h8 => ?_) fun h8 => ?_) (.onOp ?_ (.onOp (.ite (fun h0 => ?_) fun _ => .ite (fun h1 => ?_) fun _ => .error _) ?_))
  case refine_1 => exact .minorField (Scope.codes.reads h8) fun _ => .bare rfl
  case refine_2 =>
    refine .onField fun v hv => .ofCode (y := v.code + 8) ?_ (.withWord FenceW.codes hs fun _ => rfl)
    have := Scope.codes.reads (by omega) v hv
    omega
  case refine_4 =>
    refine .onField fun v hv => .ofCode (y := v.code * 4) ?_ (.bare rfl)
    have := Timeline.codes.reads (by omega) v hv
    omega
  case refine_5 =>
    refine .onField fun v hv => .ofCode (y := v.code * 4 + 1) ?_ (.bare rfl)
    have := Timeline.codes.reads (by omega) v hv
    omega
  all_goals repeat' with_reducible first
    | apply ReadsBack.onOp | apply ReadsBack.onX | apply ReadsBack.error | apply ReadsBack.bare | apply ReadsBack.withWord SbarW.codes hs
    | apply ReadsBack.withWord AtomW.codes hs | apply ReadsBack.withWord BarW.codes hs | apply ReadsBack.minorField (AtomOp.codes.reads hx) | intro
  all_goals rfl

include hs in
theorem decodeChan_readsBack : ReadsBack op b x s h (decodeChan op b x s h) := by
  unfold decodeChan
  repeat' with_reducible first
    | apply ReadsBack.onOp | apply ReadsBack.onX | apply ReadsBack.error | apply ReadsBack.bare | apply ReadsBack.withWord ChopenW.codes hs
    | apply ReadsBack.withWord Cpy1W.codes hs | apply ReadsBack.withWord CpyrW.codes hs | intro
  all_goals rfl

include hx in
theorem decodeTask_readsBack : ReadsBack op b x s h (decodeTask op b x s h) := by
  have hspawn := SpawnX.code_ofCode hx
  unfold decodeTask
  refine .onOp (.ofCode hspawn (.bare rfl)) (.onOp (.ofCode hspawn (.bare rfl)) ?_)
  repeat' with_reducible first
    | apply ReadsBack.onOp | apply ReadsBack.onX | apply ReadsBack.error | apply ReadsBack.bare
  all_goals rfl

include hb hs in
theorem decodeSystem_readsBack : ReadsBack op b x s h (decodeSystem op b x s h) := by
  unfold decodeSystem
  repeat' with_reducible first
    | apply ReadsBack.onOp | apply ReadsBack.onX | apply ReadsBack.error | apply ReadsBack.bare | apply ReadsBack.withImm hs
    | apply ReadsBack.optImm hb hs | intro
  all_goals rfl

include hx hs in
theorem decodeOld_readsBack : ReadsBack op b x s h (decodeOld op b x s h) := by
  unfold decodeOld
  exact .onOp (.ofCode (AccX.code_ofCode hx) (.withWord DrainW.codes hs fun _ => rfl))
    (.onOp (.minorField (fun _ => LoadX.code_of_ofCode) fun _ => .withWord MemW.codes hs fun _ => rfl)
      (.onOp (.onX (.bare rfl) (.error _)) (.error _)))

include hb hx hs in
/-- An instruction that the grid answers has the words it was read from. -/
theorem decodeOp_readsBack : ReadsBack op b x s h (decodeOp op b x s h) :=
  .ite (fun _ => decodeScalar_readsBack hb hx hs h) fun _ =>
  .ite (fun _ => decodeTile_readsBack hx hs h) fun _ =>
  .ite (fun _ => decodeMatrix_readsBack hx hs h) fun _ =>
  .ite (fun _ => decodeMemory_readsBack hx hs h) fun _ =>
  .ite (fun _ => decodeSync_readsBack hx hs h) fun _ =>
  .ite (fun _ => decodeChan_readsBack hs h) fun _ =>
  .ite (fun _ => decodeTask_readsBack hx h) fun _ =>
  .ite (fun _ => decodeSystem_readsBack hb hs h) fun _ =>
  .ite (fun _ => .error _) fun _ =>
  .ite (fun _ => decodeOld_readsBack hx hs h) fun _ =>
  .ite (fun _ => .error _) fun _ => .error _

end

theorem isEvent_of_encode {i : Instr} {r : Raw} (h : encode i = some r) : i.isEvent = false := by
  have hnone : (encode i).isNone = i.isEvent := by cases i <;> rfl
  rw [← hnone, h]
  rfl

/-- An instruction that the decoder answers, and the encoding that it has. -/
theorem encode_of_decodeRaw {r : Raw} {i : Instr} (hi : decodeRaw r = .ok i) :
    ∃ q, encode i = some q ∧ q.base = r.base ∧ (Raw.hasSecond r.base = true → q.second = r.second) := by
  obtain ⟨h, hh, hop, -⟩ := (decodeRaw_iff r i).mp hi
  have hs : r.second.toNat < 2 ^ 32 := by omega
  obtain ⟨s, he, hsec⟩ := decodeOp_readsBack (fieldOf_lt _ 24 1) (fieldOf_lt _ 18 4) hs h i hop
  refine ⟨_, he, base_eq_make hh s, fun h1 => ?_⟩
  have hb : fieldOf r.base.toNat 24 1 = 1 := by simpa [Raw.hasSecond, flagOf, fieldOf] using h1
  rw [hsec hb]
  exact (BitVec.ofNat_toNat 32 r.second).trans (BitVec.setWidth_eq r.second)

/-- The words of an encoding that the decoder reads are read as its instruction, whatever follows (R44). -/
theorem decodeWords_of_decodeRaw {r : Raw} {i : Instr} (hr : decodeRaw r = .ok i) (h0 : Raw.hasSecond r.base = false → r.second = 0) (rest : List Word32) :
    decodeWords ((if Raw.hasSecond r.base then [r.base, r.second] else [r.base]) ++ rest) = .ok (i, rest) := by
  obtain ⟨b, s⟩ := r
  cases hb : Raw.hasSecond b with
  | true => simp [decodeWords, hb, hr, Except.map]
  | false =>
    obtain rfl : s = 0 := h0 hb
    simp only [decodeWords, hb, Bool.false_eq_true, if_false, List.cons_append, List.nil_append, hr, Except.map]

/-- No target has a code of kind 00 with index 33 to 127 (R48). -/
theorem Target.code_ne_reserved (t : Target) (h1 : 32 < t.code) (h2 : t.code < 128) : False := by
  rcases t with _ | k | ⟨_ | _ | _, j⟩ <;> simp only [Target.code] at h1 h2 <;> omega

/-! ### Opcodes that are no instruction (R49, R65) -/

theorem decodeOp_reserved {op : Nat} (hop : op ∈ [0x07, 0x0F, 0x1E, 0x1F, 0x26, 0x27, 0x33, 0x3B, 0x7F] ∨ (0x54 ≤ op ∧ op < 0x70) ∨ (0x73 ≤ op ∧ op < 0x78))
    (b x s : Nat) (h : Hdr) : decodeOp op b x s h = .error .reservedOpcode := by
  rcases hop with hop | ⟨h1, h2⟩ | ⟨h1, h2⟩
  · simp only [List.mem_cons, List.not_mem_nil, or_false] at hop
    rcases hop with rfl | rfl | rfl | rfl | rfl | rfl | rfl | rfl | rfl <;> rfl
  · interval_cases op <;> rfl
  · interval_cases op <;> rfl

theorem decodeOp_extension {op : Nat} (h1 : 0x78 ≤ op) (h2 : op < 0x7F) (b x s : Nat) (h : Hdr) :
    decodeOp op b x s h = .error (.extension (op - 0x78)) := by
  interval_cases op <;> rfl

/-- The opcode of a base word is its top seven bits. -/
theorem opcode_eq (w : Word32) : fieldOf w.toNat 25 7 = w.toNat / 2 ^ 25 := by
  simp only [fieldOf]
  omega

end Sys2Proof

section
open Sys2Proof

/-- Settles O53: every instruction is read from its own words. -/
theorem decodeEncode : Obligations.DecodeEncode := by
  intro i hwf hev
  obtain ⟨op, b, x, s, h, he, hop, hb, hx, hs, h0, hd⟩ := reads_of_wf hwf hev
  have hraw := make_decodeRaw hop hb hx hs hd hwf
  have hwords : encodeWords i = if Raw.hasSecond (Raw.make op b x h s).base then [(Raw.make op b x h s).base, (Raw.make op b x h s).second]
      else [(Raw.make op b x h s).base] := by rw [encodeWords, he]
  refine ⟨⟨_, he, hraw⟩, ?_, fun rest => ?_⟩
  · rw [hwords]
    split <;> exact List.cons_ne_nil _ _
  · rw [hwords]
    refine decodeWords_of_decodeRaw hraw (fun hsecond => ?_) rest
    rw [make_hasSecond hop hb hx h s, beq_eq_false_iff_ne] at hsecond
    rw [h0 (by omega)]
    rfl

/-- Settles O54: the decoder answers an instruction only with its own words, and refuses what no encoding gives. -/
theorem decoderAnswers : Obligations.DecoderAnswers := by
  refine ⟨fun r i hi => ?_, fun r => ?_, fun b hb => ?_, rfl⟩
  · obtain ⟨h, -, -, hwf⟩ := (decodeRaw_iff r i).mp hi
    obtain ⟨q, he, hq⟩ := encode_of_decodeRaw hi
    exact ⟨hwf, isEvent_of_encode he, q, he, hq⟩
  · have hdr : ∀ i, decodeRaw r = .ok i → ∃ h, decodeHdr r.base.toNat = .ok h := fun i hi =>
      let ⟨h, hh, _⟩ := (decodeRaw_iff r i).mp hi
      ⟨h, hh⟩
    refine ⟨fun hop => ?_, fun h1 h2 => ?_, fun hp i hi => ?_, fun h1 h2 i hi => ?_, fun h1 h2 i hi => ?_⟩
    · exact decodeRaw_of_reserved (.inl rfl) fun h => decodeOp_reserved (opcode_eq r.base ▸ hop) _ _ _ h
    · refine decodeRaw_of_reserved (.inr ⟨_, rfl⟩) fun h => ?_
      rw [opcode_eq]
      exact decodeOp_extension h1 h2 _ _ _ h
    all_goals
      obtain ⟨h, hh⟩ := hdr i hi
      obtain ⟨hpr, ht1, ht0⟩ := (decodeHdr_iff _ h).mp hh
      simp only [fieldOf] at hpr ht1 ht0
    · have hlt : h.pr.code ≠ 3 := by cases h.pr <;> decide
      omega
    · exact h.t0.code_ne_reserved (by omega) (by omega)
    · exact h.t1.code_ne_reserved (by omega) (by omega)
  · have hsecond : Raw.hasSecond b = true := by rw [Raw.hasSecond, flagOf, hb]; rfl
    simp [decodeWords, hsecond]

/-- Settles O55: the decoder evaluated on each word. -/
theorem decodedWords : Obligations.DecodedWords := by
  unfold Obligations.DecodedWords
  decide +kernel

end

/-! ## Branches (O10) -/

namespace Sys2Proof.Machine

/-- LBREAK without targets (R107). -/
def lbreakHdr : Hdr := { pr := .always, t1 := .none, t0 := .none }

/-- A loop of step 0 in which iteration 0 broke: no LOOP starts one (R106), but nothing in a state forbids it. -/
def stillLoop : Loop :=
  { frame := 0, uid := 0, idx := 0, body := 0, first := 0, sent := [], next := 2, stop := 2, step := 0, k := 2, started := [0, 1], committed := 0
    carry := zeroTok, carries := [], brk := some 0, limit := 2, paused := [], fin := false }

/-- LBREAK about to fire in iteration 1 of that loop. -/
def stillBreak : State :=
  ((State.reset.withFetchWord 32 0x0C0C0000).modFrame 0 fun fr => { fr with iter := some 1 }).modTask 0 0 fun t => { t with loop := some stillLoop }

/-- The iteration that a step's next state has as the one that broke. -/
def brokenAt : Host.Outcome State Fault Refusal → Option Int
  | .next t => ((t.task? 0 0).bind Task.loop).bind Loop.brk
  | _ => none

/-- Its firing. -/
def stillFiring : Firing := (stillBreak.firing (.lbreak lbreakHdr)).get (by decide +kernel)

theorem stillBreak_fires : Fires (.lbreak lbreakHdr) stillBreak stillFiring :=
  ⟨(Option.some_get _).symm, by decide +kernel, by decide +kernel⟩

/-- The machine takes iteration 1 for the earlier one. -/
theorem stillBreak_brokenAt : brokenAt (exec (.lbreak lbreakHdr) stillBreak) = some 1 := by decide +kernel

end Sys2Proof.Machine

section
open Sys2Proof Sys2Proof.Machine
/-- Refutes O10: where the loop's step is 0, which is neither case of the statement's order, an LBREAK of iteration 1 takes the place of that of iteration 0. -/
theorem not_branchEffects : ¬ Obligations.BranchEffects := by
  intro h
  obtain ⟨-, -, -, -, -, -, -, hbreak⟩ := h stillBreak stillFiring (by decide +kernel) (by decide +kernel)
  have hgives := congrArg brokenAt (hbreak lbreakHdr stillBreak_fires)
  rw [stillBreak_brokenAt] at hgives
  revert hgives
  decide +kernel
end

/-! ## Drains (O19) -/

namespace Sys2Proof.Machine

/-! ### An instruction of the matrix slot that performs or waits (R187, R188) -/

theorem claimFree_of_mayUse {f : Firing} {s : State} {i : Instr} {z : Option (BitVec 3)} (h : f.mayUse s i z) : f.claimFree s z = true := by
  cases z with
  | none => rfl
  | some n => rcases h.2 n rfl with hn | hn <;> simp [Firing.claimFree, hn]

theorem claimed_firing (f : Firing) (s : State) (z : Option (BitVec 3)) (i : Instr) : (f.claimed s z).firing i = s.firing i := by
  cases z <;> rfl

theorem claimed_ctxs (f : Firing) (s : State) (z : Option (BitVec 3)) : (f.claimed s z).ctxs = s.ctxs := by
  cases z <;> rfl

section
variable {i : Instr} {s : State} {f : Firing} {z : Option (BitVec 3)} {body : Body} (h : Fires i s f) (hu : f.mayUse s i z)
include h hu

theorem fireInOrder_ok {d : Done} (hb : body f s = .ok d) : fireInOrder i z body s = .next ((f.claimed s z).finish f i d) := by
  obtain ⟨hfire, hmis, hnull⟩ := h
  simp [fireInOrder, hfire, State.issueInOrder, hmis, hnull, hu.1, hb, claimFree_of_mayUse hu, State.conclude]

theorem fireInOrder_wait {r : Short} (hb : body f s = .error (.wait r)) : fireInOrder i z body s = .next (s.waitAt f r) := by
  obtain ⟨hfire, hmis, hnull⟩ := h
  simp [fireInOrder, hfire, State.issueInOrder, hmis, hnull, hu.1, hb]

/-- A body that answers, as `fire_retire` has it without the order. -/
theorem fireInOrder_retire {d : Done} (hb : body f s = .ok d)
    (ha : d.again = false) (hn : d.fresh = true ∨ ∀ t ∈ d.t0.toList ++ d.t1.toList, t.kind ≠ .tile)
    (hf : ∃ fr, d.st.frame? f.key = some fr ∧ fr.outs = f.fr.outs) (hs : d.st.ctxs = s.ctxs) (hc : f.clear = true) :
    fireInOrder i z body s = .next (d.st.retire f (d.keep.foldl (fun l t => l.erase t) (f.handles i)) d.stat d.t0 d.t1) := by
  have hfires : Fires i (f.claimed s z) f := ⟨(claimed_firing f s z i).trans h.1, h.2⟩
  rw [fireInOrder_ok h hu hb, ← fire_retire (body := fun _ _ => .ok d) hfires rfl ha hn hf (hs.trans (claimed_ctxs f s z).symm) hc]
  obtain ⟨hfire, hmis, hnull⟩ := hfires
  simp [fire, hfire, State.issue, hmis, hnull, State.conclude]

end

/-! ### What a step leaves of sends and contexts -/

/-- The contexts are as they were, and so is what each frame has sent to its write entries. -/
structure KeepsOuts (s t : State) : Prop where
  ctxs : t.ctxs = s.ctxs
  outs : ∀ k, (t.frame? k).map Frame.outs = (s.frame? k).map Frame.outs

namespace KeepsOuts

theorem refl (s : State) : KeepsOuts s s := ⟨rfl, fun _ => rfl⟩

theorem trans {s t u : State} (h : KeepsOuts s t) (g : KeepsOuts t u) : KeepsOuts s u :=
  ⟨g.ctxs.trans h.ctxs, fun k => (g.outs k).trans (h.outs k)⟩

theorem foldl {α : Type} {g : State → α → State} (hg : ∀ s a, KeepsOuts s (g s a)) (l : List α) (s : State) : KeepsOuts s (l.foldl g s) := by
  induction l generalizing s with
  | nil => exact refl s
  | cons a l ih => exact (hg s a).trans (ih _)

theorem modFrame (s : State) (k : Nat) {g : Frame → Frame} (hg : ∀ f, (g f).outs = f.outs) : KeepsOuts s (s.modFrame k g) := by
  refine ⟨modFrame_ctxs s k g, fun j => ?_⟩
  cases hf : s.frame? k with
  | none => simp [State.modFrame, hf]
  | some f =>
    rw [modFrame_of_some hf]
    by_cases hj : j = k
    · subst hj; simp [hf, hg]
    · rw [setFrame_frame?_ne s hj]

theorem dropToks (s : State) (pe : Nat) (l : List Tok) : KeepsOuts s (s.dropToks pe l) :=
  ⟨dropToks_ctxs s pe l, fun k => by rw [dropToks_frame?]⟩

theorem reply (s : State) (a : Agent) (cls : Nat) (ds : List Dest) (t : Tok) (src : Src) : KeepsOuts s (s.reply a cls ds t src) :=
  foldl (g := fun (s : State) (d : Dest) => s.post a (.pe d.pe) cls (.reply d t src)) (fun _ _ => ⟨rfl, fun _ => rfl⟩) ds s

theorem setStat (s : State) (k i : Nat) (x : IStat) : KeepsOuts s (s.setStat k i x) :=
  modFrame s k (g := fun f => { f with stat := f.stat.put i x }) fun _ => rfl

theorem orFlags (s : State) (k : Nat) (fl : Flags) : KeepsOuts s (s.orFlags k fl) :=
  modFrame s k (g := fun f => { f with flags := f.flags ||| fl }) fun _ => rfl

theorem fillDrawn (s : State) (pe slot owner m w : Nat) (nf : Bool) (codes : List Nat) :
    KeepsOuts s (s.drawn.fillSlot pe slot owner m w nf codes) := ⟨rfl, fun _ => rfl⟩

theorem wakeWaits (s : State) (c pe : Nat) (t : Timeline) : KeepsOuts s (s.wakeWaits c pe t) := by
  refine foldl (fun s p => ?_) _ s
  split
  · refine foldl (fun s q => ?_) _ s
    split
    · split
      · exact (setStat s p.1 q.1 .fired).trans (reply _ _ _ _ _ _)
      · exact refl s
    · exact refl s
  · exact refl s

theorem completeNumber (s : State) (c pe : Nat) (t : Timeline) (n : Nat) : KeepsOuts s (s.completeNumber c pe t n) :=
  (⟨rfl, fun _ => rfl⟩ : KeepsOuts s (s.setPctx c pe ((s.pctx c pe).setTimeline t (((s.pctx c pe).timeline t).complete n)))).trans (wakeWaits _ c pe t)

theorem numbered (s : State) (c pe : Nat) (t : Timeline) (n : Nat) : KeepsOuts s ((s.takeNumber c pe t).1.completeNumber c pe t n) :=
  (⟨rfl, fun _ => rfl⟩ : KeepsOuts s (s.takeNumber c pe t).1).trans (.completeNumber _ c pe t n)

theorem frame {s t : State} (h : KeepsOuts s t) {k : Nat} {f : Frame} (hf : s.frame? k = some f) : ∃ g, t.frame? k = some g ∧ g.outs = f.outs := by
  have houts := h.outs k
  rw [hf] at houts
  exact Option.map_eq_some_iff.mp houts

end KeepsOuts

/-! ### New tiles (R161, R170) -/

theorem sendTile_of_room {f : Firing} {s : State} {used : List Tok} {n : NewTile} (h : f.room s n.width used = true) :
    f.sendTile s used n =
      let v := s.dropToks f.pe used
      let slot := v.pickSlot f.pe
      let t : Tok := { kind := .tile, val := handleOf f.pe slot n.fc n.rows n.cols (v.tileSlot f.pe slot).gen }
      .ok { st := (v.drawn.fillSlot f.pe slot f.x.slot f.fan n.width n.nf n.codes).orFlags f.key n.flags, t0 := some t, t1 := some t, fresh := true
            keep := used } := by
  simp only [Firing.sendTile, h, Bool.not_true, Bool.false_eq_true, if_false, Done.send]

theorem sendTile_of_noRoom {f : Firing} {s : State} {used : List Tok} {n : NewTile} (h : f.room s n.width used = false) :
    f.sendTile s used n = .error (.wait .tiles) := by
  simp only [Firing.sendTile, h, Bool.not_false, if_true]

/-- A body that ends in the send of a new tile sends it, or waits for room. -/
theorem sendsTileFrom_inOrder {i : Instr} {s u : State} {f : Firing} {z : Option (BitVec 3)} {body : Body} {used : List Tok} {n : NewTile}
    (hexec : exec i s = fireInOrder i z body s) (h : Fires i s f) (hu : f.mayUse s i z) (hc : f.clear = true) (hk : KeepsOuts s u)
    (hb : body f s = f.sendTile u used n) : SendsTileFrom i s f u used n := by
  refine ⟨fun hroom => ?_, fun hroom => ?_⟩
  · have hkeep : KeepsOuts s (((u.dropToks f.pe used).drawn.fillSlot f.pe ((u.dropToks f.pe used).pickSlot f.pe) f.x.slot f.fan n.width n.nf n.codes).orFlags
        f.key n.flags) :=
      ((hk.trans (.dropToks u f.pe used)).trans (.fillDrawn ..)).trans (.orFlags ..)
    exact hexec.trans (fireInOrder_retire h hu (hb.trans (sendTile_of_room hroom)) rfl (.inl rfl) (hkeep.frame h.frame) hkeep.ctxs hc)
  · exact hexec.trans (fireInOrder_wait h hu (hb.trans (sendTile_of_noRoom hroom)))

/-! ### Accumulators (R187, R189) -/

theorem setAcc_setAcc (s : State) (pe z : Nat) (a b : Acc) : (s.setAcc pe z a).setAcc pe z b = s.setAcc pe z b := by
  simp [State.setAcc, Tab.put_put]

theorem setAcc_acc_same (s : State) (pe z : Nat) (a : Acc) : (s.setAcc pe z a).acc pe z = a := by
  simp [State.setAcc, State.acc, Tab.getD, Tab.get?_put_same]

theorem claim_val (f : Firing) (s : State) (z : BitVec 3) : ((f.claim s z).acc f.pe z.toNat).val = f.accValue s z := by
  simp only [Firing.claim, setAcc_acc_same, Firing.accValue]

theorem writeAcc_claim (f : Firing) (s : State) (z : BitVec 3) (v : AccVal) : f.writeAcc (f.claim s z) z v = f.accSet s z v := by
  simp only [Firing.writeAcc, Firing.claim, setAcc_setAcc, setAcc_acc_same, Firing.accSet, Firing.shadowed, Firing.accValue]
  cases hsh : (s.acc f.pe z.toNat).shadow with
  | none => rfl
  | some p =>
    obtain ⟨u, w⟩ := p
    simp only
    split <;> simp_all

theorem accSet_keepsOuts (f : Firing) (s : State) (z : BitVec 3) (v : AccVal) : KeepsOuts s (f.accSet s z v) := ⟨rfl, fun _ => rfl⟩

/-! ### Drains (R213) -/

theorem tile_of_holds {f : Firing} {s : State} {t : Tok} {a : TileIn} (h : f.holds s t a) : f.tile s t = .ok a := by
  obtain ⟨hk, hh, hslot, hpe, hcount, howner, hgen, hch, hw⟩ := h
  obtain ⟨ah, aslot, ach⟩ := a
  simp only at hh hslot hch hw hcount howner hgen
  subst hh hslot
  rw [hpe] at hcount howner hgen hw
  simp [Firing.tile, hk, hpe, hcount, howner, hgen, hch, hw]

/-- The program of a drain, or none. -/
theorem drainTo_sends {f : Firing} {s : State} {z : BitVec 3} {w : DrainW} {ops : List EpOp} {d : DrainTo} {used : List Tok}
    (hruns : (w.ep = true → f.program s w.slot.toNat = .ok ops) ∧ (w.ep = false → ops = []))
    (hfits : (lastChannel ops d.fc d.ch).2.fmt.width = d.ch.fmt.width) :
    f.drainTo s z w d used =
      let out := lastChannel ops d.fc d.ch
      let v := f.accValue s z
      let r := f.drain v ops d out.2
      let u := f.accSet s z { v with flags := v.flags ||| accFlags r.2 }
      let n := (u.pctx f.fr.ctx f.pe).tlm.taken + 1
      f.sendTile ((u.takeNumber f.fr.ctx f.pe .tlm).1.completeNumber f.fr.ctx f.pe .tlm n) used
        { fc := out.1, rows := d.rows, cols := d.cols, width := out.2.fmt.width
          nf := regionNonfinite out.2.fmt d.rows d.cols r.1, codes := r.1, flags := 0 } := by
  obtain ⟨hep, hnone⟩ := hruns
  cases he : w.ep with
  | true =>
    simp only [Firing.drainTo, he, hep he, bind, Except.bind, if_true, hfits, ne_eq, not_true, if_false, claim_val, writeAcc_claim]
    rfl
  | false =>
    obtain rfl := hnone he
    simp only [Firing.drainTo, he, bind, Except.bind, Bool.false_eq_true, if_false, hfits, ne_eq, not_true, claim_val, writeAcc_claim]
    rfl

theorem freshDest_eq {f : Firing} {w : DrainW} {ch : ChanFmt} (h : chanOf (f.x.chan w.fc.toNat) = some ch) :
    f.freshDest w = .ok { fc := w.fc.toNat, ch := ch, rows := w.rows.toNat, cols := w.cols.toNat, codes := List.replicate 256 0 } := by
  simp only [Firing.freshDest, Ctx.chanFmt, h, bind, Except.bind]

/-- A wait is no fault of a step. -/
theorem stepOf_sendTile (k : Nat) (f : Firing) (s : State) (used : List Tok) (n : NewTile) : stepOf k (f.sendTile s used n) = f.sendTile s used n := by
  cases h : f.room s n.width used with
  | true => rw [sendTile_of_room h]; rfl
  | false => rw [sendTile_of_noRoom h]; rfl

/-- An instruction whose body is a drain of what its program and destination give. -/
theorem drainsTo {i : Instr} {s : State} {f : Firing} {z : BitVec 3} {w : DrainW} {ops : List EpOp} {d : DrainTo} {used : List Tok} {body : Body}
    (hexec : exec i s = fireInOrder i (some z) body s) (h : Fires i s f) (hu : f.mayUse s i z) (hc : f.clear = true)
    (hb : body f s = f.drainTo s z w d used ∨ ∃ k, body f s = stepOf k (f.drainTo s z w d used))
    (hruns : (w.ep = true → f.program s w.slot.toNat = .ok ops) ∧ (w.ep = false → ops = []))
    (hfits : (lastChannel ops d.fc d.ch).2.fmt.width = d.ch.fmt.width) : DrainsTo i s f s z ops d used := by
  refine sendsTileFrom_inOrder hexec h hu hc ((accSet_keepsOuts f s z _).trans (.numbered ..)) ?_
  rcases hb with hb | ⟨k, hb⟩
  · exact hb.trans (drainTo_sends hruns hfits)
  · rw [hb, drainTo_sends hruns hfits]
    exact stepOf_sendTile k f _ used _

/-! ### The value of a product (R191) -/

/-- A number without a fraction. -/
def Num.whole (m : Num) (v : Int) : Prop := ∃ neg n, m = .fin neg n 1 ∧ signedNum neg n = v

theorem signedNum_ofInt (v : Int) : signedNum (decide (v < 0)) v.natAbs = v := by
  by_cases h : v < 0
  · simp only [signedNum, h, decide_true, if_true]
    omega
  · simp only [signedNum, h, decide_false, Bool.false_eq_true, if_false]
    omega

theorem whole_ofInt (v : Int) : (Num.ofInt v).whole v := ⟨_, _, rfl, signedNum_ofInt v⟩

theorem whole_mul {m n : Num} {v w : Int} (hm : m.whole v) (hn : n.whole w) : (m.mul n).1.whole (v * w) := by
  obtain ⟨a, x, rfl, rfl⟩ := hm
  obtain ⟨b, y, rfl, rfl⟩ := hn
  refine ⟨xor a b, x * y, rfl, ?_⟩
  cases a <;> cases b <;> simp [signedNum]

theorem whole_add {m n : Num} {v w : Int} (hm : m.whole v) (hn : n.whole w) : (m.add n).1.lowest.whole (v + w) := by
  obtain ⟨a, x, rfl, rfl⟩ := hm
  obtain ⟨b, y, rfl, rfl⟩ := hn
  by_cases h : signedNum a x + signedNum b y = 0
  · exact ⟨a && b, 0, by simp [Num.add, addFin, h, Num.lowest], by cases a <;> cases b <;> simp_all [signedNum]⟩
  · exact ⟨_, _, by simp [Num.add, addFin, h, Num.lowest], signedNum_ofInt _⟩

/-- The sum of whole numbers is the whole sum, and none of the special cases of R191. -/
theorem whole_foldl_add {α : Type} (g : α → NumF) (w : α → Int) (hg : ∀ k, (g k).1.whole (w k)) (l : List α) {m : Num} {v : Int} (hm : m.whole v) :
    ((l.map g).foldl (fun m t => (m.add t.1).1.lowest) m).whole (l.foldl (fun t k => t + w k) v) := by
  induction l generalizing m v with
  | nil => exact hm
  | cons k l ih => exact ih (whole_add hm (hg k))

theorem sumTerms_whole {l : List NumF} (h : ∀ t ∈ l, ∃ v, t.1.whole v) : (sumTerms l).1 = l.foldl (fun m t => (m.add t.1).1.lowest) .zero := by
  have hinf : ∀ neg, l.any (fun t => t.1 == .inf neg) = false := fun neg => by
    refine List.any_eq_false.mpr fun t ht => ?_
    obtain ⟨v, a, n, hn, -⟩ := h t ht
    simp [hn]
  have hnan : l.any (fun t => t.1.isNan) = false := by
    refine List.any_eq_false.mpr fun t ht => ?_
    obtain ⟨v, a, n, hn, -⟩ := h t ht
    simp [hn, Num.isNan]
  simp [sumTerms, hinf, hnan]

theorem decode_plainInt8 {ch : ChanFmt} (h : isPlainInt8 ch = true) (c : Nat) : (ch.decode c).whole (signedOf 8 c) := by
  obtain ⟨hf, hs⟩ : ch.fmt = .int 8 ∧ ch.scale = 0 := by simpa [isPlainInt8] using h
  refine ⟨_, (signedOf 8 c).natAbs, ?_, signedNum_ofInt _⟩
  simp [ChanFmt.decode, hf, hs, Fmt.decode, Num.ofInt, Num.scaleBy, scaled2]

theorem pairMode_int {a b : ChanFmt} (h : pairMode a b = some true) : isPlainInt8 a = true ∧ isPlainInt8 b = true := by
  unfold pairMode at h
  split at h
  · exact absurd h (by simp)
  · simpa using h

/-- The start of an INT32 sum. -/
theorem whole_zero : Num.zero.whole 0 := ⟨false, 0, rfl, rfl⟩

/-- A new element of an INT32 accumulator is the whole sum modulo 2^32. -/
theorem mmaElem_int {old : Num} {v : Int} (hold : old.whole v) {a b : MatIn} (hp : pairMode a.ch b.ch = some true) (i : Nat) :
    mmaElem old true a b i =
      let sum := (List.range (min a.cols b.rows + 1)).foldl
        (fun (t : Int) k => t + signedOf 8 (nthD a.codes (i / 16 * 16 + k) 0) * signedOf 8 (nthD b.codes (k * 16 + i % 16) 0)) v
      ((sum % 2 ^ 32).toNat, if sum < -2 ^ 31 ∨ 2 ^ 31 ≤ sum then flagOF else 0) := by
  obtain ⟨ha, hb⟩ := pairMode_int hp
  have hprod : ∀ k, _ := fun k => whole_mul (decode_plainInt8 ha (nthD a.codes (i / 16 * 16 + k) 0)) (decode_plainInt8 hb (nthD b.codes (k * 16 + i % 16) 0))
  have hterms := sumTerms_whole (l := oldTerm old :: (List.range (min a.cols b.rows + 1)).map
      fun k => (a.ch.decode (nthD a.codes (i / 16 * 16 + k) 0)).mul (b.ch.decode (nthD b.codes (k * 16 + i % 16) 0))) (by
    simp only [List.mem_cons, List.mem_map]
    rintro t (rfl | ⟨k, -, rfl⟩)
    · exact ⟨v, hold⟩
    · exact ⟨_, hprod k⟩)
  obtain ⟨neg, n, hfin, hsum⟩ := whole_foldl_add _ _ hprod (List.range (min a.cols b.rows + 1)) (whole_add whole_zero hold)
  have hres : (sumTerms (oldTerm old :: (List.range (min a.cols b.rows + 1)).map
      fun k => (a.ch.decode (nthD a.codes (i / 16 * 16 + k) 0)).mul (b.ch.decode (nthD b.codes (k * 16 + i % 16) 0)))).1 = .fin neg n 1 := hterms.trans hfin
  simp only [mmaElem, if_true, hres, Nat.div_one, hsum, zero_add, wrapNat, flagIf, decide_eq_true_eq]
  norm_num

theorem num_whole_of_int {v : AccVal} (h : v.int = true) (i : Nat) : (v.num i).whole (signedOf 32 (nthD v.elems i 0)) := by
  simp only [AccVal.num, h, if_true]
  exact whole_ofInt _

/-- The element that MMA gives is the product of R191. -/
theorem product_eq {v : AccVal} {init int : Bool} {a b : MatIn} (hp : pairMode a.ch b.ch = some int) (hmode : init = true ∨ v.int = int) (i : Nat) :
    v.product init int a b i =
      if inRegion a.rows b.cols i then mmaElem (if init then .zero else v.num i) int a b i else (if v.int != int then 0 else nthD v.elems i 0, 0) := by
  by_cases hreg : i / 16 ≤ a.rows ∧ i % 16 ≤ b.cols
  · have hin : inRegion a.rows b.cols i = true := by simpa [inRegion] using hreg
    simp only [AccVal.product, hreg, hin, and_self, if_true]
    cases int with
    | false => rfl
    | true =>
      have hold : (if init then Num.zero else v.num i).whole (if init then 0 else if v.int then signedOf 32 (nthD v.elems i 0) else 0) := by
        cases init with
        | true => exact whole_zero
        | false =>
          have hv : v.int = true := by simpa using hmode
          simpa [hv] using num_whole_of_int hv i
      rw [mmaElem_int hold hp]
      rfl
  · have hin : inRegion a.rows b.cols i = false := by simpa [inRegion] using hreg
    simp only [AccVal.product, hreg, hin, if_false, Bool.false_eq_true, AccVal.left]
    cases v.int <;> cases int <;> rfl

theorem getLsbD_foldl_or {α : Type} {w : Nat} (g : α → BitVec w) (l : List α) (x : BitVec w) (j : Nat) :
    (l.foldl (fun m p => m ||| g p) x).getLsbD j = true ↔ x.getLsbD j = true ∨ ∃ a ∈ l, (g a).getLsbD j = true := by
  induction l generalizing x with
  | nil => simp
  | cons a l ih => simp [ih, or_assoc]

theorem accVal_ext {v w : AccVal} (helems : v.elems = w.elems) (hint : v.int = w.int) (hflags : v.flags = w.flags) : v = w := by
  cases v
  cases w
  simp_all

/-- An accumulator value is what its elements say. -/
theorem eq_of_isOf {n v : AccVal} {int : Bool} {g : Nat → Nat × Flags} (h : n.isOf v int g) :
    n = { elems := ((List.range 256).map g).map Prod.fst, int := int
          flags := v.flags ||| accFlags (((List.range 256).map g).foldl (fun m p => m ||| p.2) 0) } := by
  obtain ⟨hint, hlen, helems, hflags⟩ := h
  refine accVal_ext ?_ hint ?_
  · refine List.ext_getElem? fun i => ?_
    by_cases hi : i < 256
    · simp [helems i hi, hi]
    · rw [List.getElem?_eq_none (by omega), List.getElem?_eq_none (by simp; omega)]
  · refine BitVec.eq_of_getLsbD_eq fun j hj => Bool.eq_iff_iff.mpr ?_
    rw [hflags j hj]
    simp [accFlags, hj, getLsbD_foldl_or]

theorem eq_mma {n v : AccVal} {init int : Bool} {a b : MatIn} (hp : pairMode a.ch b.ch = some int) (hmode : init = true ∨ v.int = int)
    (h : n.isOf v int fun i => v.product init int a b i) : n = v.mma init int a b := by
  rw [eq_of_isOf h, funext (product_eq hp hmode)]
  rfl

theorem multiply_eq {f : Firing} {s : State} {x : AccX} {a b : MatIn} {int : Bool} {n : AccVal} (hp : pairMode a.ch b.ch = some int)
    (hmode : x.init = true ∨ (f.accValue s x.z).int = int) (h : n.isOf (f.accValue s x.z) int fun i => (f.accValue s x.z).product x.init int a b i) :
    f.multiply s x a b = .ok (f.accSet s x.z n) := by
  have hbad : (!x.init && (f.accValue s x.z).int != int) = false := by rcases hmode with hm | hm <;> simp [hm]
  simp only [Firing.multiply, hp, claim_val, hbad, Bool.false_eq_true, if_false, writeAcc_claim, eq_mma hp hmode h]

/-- Settles O19: ZDRAIN and TMAC's second step end in a drain; TMAC's first writes the product and is ready again. -/
theorem drains : Obligations.Drains := by
  intro s f h z w ops hc
  refine ⟨fun ch hf hu hA hch hruns hfits => ?_, fun a hf hu hA ha hruns hfits => ?_, fun x a b int n hf hu hstep ha hb hp hmode hn => ?_,
    fun x ch hf hu hstep hch hfits hruns => ?_⟩
  · refine drainsTo (body := zdrainBody z w) rfl hf hu hc (.inl ?_) hruns hfits
    simp only [zdrainBody, hA, Bool.false_eq_true, if_false, freshDest_eq hch, bind, Except.bind]
  · refine drainsTo (body := zdrainBody z w) rfl hf hu hc (.inl ?_) hruns hfits
    simp only [zdrainBody, hA, if_true, tile_of_holds ha, bind, Except.bind]
  · have hbody : tmacBody x w f s = .ok { st := f.step (((f.accSet s x.z n).takeNumber f.fr.ctx f.pe .tlm).1.completeNumber f.fr.ctx f.pe .tlm
        ((f.accSet s x.z n).takeNumber f.fr.ctx f.pe .tlm).2), again := true } := by
      simp only [tmacBody, List.contains_iff_mem, hstep, if_false, tile_of_holds ha, tile_of_holds hb, multiply_eq hp hmode hn, bind, Except.bind, stepOf]
    exact fireInOrder_ok hf hu hbody
  · refine drainsTo (body := tmacBody x w) rfl hf hu hc (.inr ⟨1, ?_⟩) hruns hfits
    simp only [tmacBody, List.contains_iff_mem, hstep, if_true, freshDest_eq hch, bind, Except.bind]

end Sys2Proof.Machine

/-! ## Barriers (O33) -/

namespace Sys2Proof.Machine

/-! ### Addresses that a translation starts from (R218) -/

/-- The model's test of an extent is the one of R218. -/
theorem canonicalSpan_iff {va n : Nat} (hn : 0 < n) : canonicalSpan va n = true ↔ reachable va n := by
  have h0 : n ≠ 0 := Nat.ne_of_gt hn
  simp only [canonicalSpan, canonical, reachable, Bool.and_eq_true, Bool.or_eq_true, beq_iff_eq, h0, false_or, decide_eq_true_eq]
  omega

theorem canonicalSpan_of_not_reachable {va n : Nat} (hn : 0 < n) (h : ¬ reachable va n) : canonicalSpan va n = false :=
  Bool.eq_false_iff.mpr fun hc => h ((canonicalSpan_iff hn).mp hc)

theorem wantScalar_of_ne {t : Tok} (h : t.kind ≠ .tile) : wantScalar t = .ok t.val := if_neg h

theorem wantScalar_of_tile {t : Tok} (h : t.kind = .tile) : wantScalar t = failWith .tokenKind := if_pos h

/-! ### The record of a barrier (R290) -/

section
variable {f : Firing} {s : State} {ks : List (Nat × Nat)} {pa : Nat} (ha : f.a.kind ≠ .tile) (hr : reachable f.a.val.toNat 64)
  (hal : f.a.val.toNat % 64 = 0) (hks : ks.head? = some (pa, 64))
include ha hr hal hks

theorem record_store (kind : Nat) (h : s.checkHome f.fr.ctx f.pe (.store false) f.a.val.toNat 64 = .ok ks) :
    f.record s (.store false) kind = .ok pa := by
  simp [Firing.record, wantScalar_of_ne ha, (canonicalSpan_iff (by decide)).mpr hr, hal, Need.writes, h, rangeOrStop, hks, bind, Except.bind]

theorem record_load (kind : Nat) (h : s.checkRange f.fr.ctx f.pe (.load false) f.a.val.toNat 64 = .ok ks) :
    f.record s (.load false) kind = .ok pa := by
  simp [Firing.record, wantScalar_of_ne ha, (canonicalSpan_iff (by decide)).mpr hr, hal, Need.writes, h, rangeOrStop, hks, bind, Except.bind]

end

/-- An effect that holds the block's barrier. -/
def isBarrier : Effect → Prop
  | .barinit _ _ _ _ => True
  | .bararr _ _ _ _ _ _ => True
  | _ => False

theorem hasBarrier_iff (fr : Frame) : fr.hasBarrier = true ↔ ∃ e ∈ fr.held, isBarrier e := by
  rw [Frame.hasBarrier, List.any_eq_true]
  refine exists_congr fun e => and_congr_right fun _ => ?_
  cases e <;> simp [isBarrier]

theorem hasBarrier_false {fr : Frame} (h : ∀ e ∈ fr.held, ¬ isBarrier e) : fr.hasBarrier = false :=
  Bool.eq_false_iff.mpr fun hb => let ⟨e, he, hbar⟩ := (hasBarrier_iff fr).mp hb; h e he hbar

/-- An instruction that holds an effect for the commit and sends 0. -/
theorem givesScalar_hold {i : Instr} {s : State} {f : Firing} {body : Body} {e : Effect} {v : Word} (hexec : exec i s = fire i body s) (h : Fires i s f)
    (hc : f.clear = true) (hb : body f s = .ok (Done.scalar (s.hold f.key e) v)) : GivesScalar i s f (s.hold f.key e) (f.handles i) v :=
  hexec.trans (fire_retire h hb rfl (.inr (by simp [Done.scalar, Done.send, scalarTok])) (outs_mod h.frame rfl) (modFrame_ctxs ..) hc)

theorem raises_of_fault {i : Instr} {s : State} {f : Firing} {body : Body} {c : Code} {d : Word} (hexec : exec i s = fire i body s) (h : Fires i s f)
    (hb : body f s = failWith c d) : Raises i s f c d :=
  hexec.trans (fire_fault h hb)

/-- A body that answers and sends nothing itself, whatever the targets hold. -/
theorem fire_retire_silent {i : Instr} {s u : State} {f : Firing} {body : Body} (h : Fires i s f) (hb : body f s = .ok { st := u }) :
    fire i body s = .next (u.retire f (f.handles i) .fired none none) := by
  obtain ⟨hfire, hmis, hnull⟩ := h
  have hsent : f.sent none none = [] := by simp [Firing.sent]
  simp [fire, hfire, State.issue, hmis, hnull, hb, State.conclude, State.finish, hsent, State.settle, State.sends]
  rfl

/-- What a node answers to BARTRY (R291): the difference of the phases in 24 bits. -/
theorem phaseDone_iff (w b : Nat) :
    (bitsAt w 32 24 + 2 ^ 24 - 1 + 2 ^ 24 - b % 2 ^ 24) % 2 ^ 24 < 2 ^ 23 ↔
      ((Int.ofNat (w / 2 ^ 32 % 2 ^ 24) : Int) - 1 - b) % 2 ^ 24 < 2 ^ 23 := by
  have hp : bitsAt w 32 24 < 2 ^ 24 := Nat.mod_lt _ (by decide)
  rw [show w / 2 ^ 32 % 2 ^ 24 = bitsAt w 32 24 from rfl]
  generalize bitsAt w 32 24 = p at hp
  simp only [Int.ofNat_eq_natCast]
  omega

section
variable {s : State} {f : Firing} {ks : List (Nat × Nat)} {pa : Nat} (ha : f.a.kind ≠ .tile) (hr : reachable f.a.val.toNat 64)
  (hal : f.a.val.toNat % 64 = 0) (hks : ks.head? = some (pa, 64))
include ha hr hal hks

section
variable (hhome : s.checkHome f.fr.ctx f.pe (.store false) f.a.val.toNat 64 = .ok ks)
include hhome

theorem barinitBody_eq {w : BarW} (hb : f.b.kind ≠ .tile) :
    barinitBody w f s =
      if f.b.val.toNat = 0 ∨ 2 ^ 32 ≤ f.b.val.toNat ∨ f.fr.hasBarrier then failWith .operand
      else .ok (Done.scalar (s.hold f.key (.barinit f.a.val.toNat pa w.level.code f.b.val.toNat)) 0) := by
  simp only [barinitBody, wantScalar_of_ne hb, record_store ha hr hal hks 1 hhome, bind, Except.bind]

theorem bararrBody_eq (level : Nat) (nw : Bool) (step : Option Nat) :
    bararrBody level nw step f s =
      if f.fr.hasBarrier then .error (.fault { code := .operand, step := step })
      else .ok (Done.scalar (s.hold f.key (.bararr f.a.val.toNat pa level nw f.src step)) 0) := by
  cases hh : f.fr.hasBarrier <;> cases step <;>
    simp only [bararrBody, record_store ha hr hal hks 1 hhome, bind, Except.bind, hh, Bool.false_eq_true, if_true, if_false] <;> rfl

end

theorem bartryBody_eq (hrange : s.checkRange f.fr.ctx f.pe (.load false) f.a.val.toNat 64 = .ok ks) (hb : f.b.kind ≠ .tile)
    (hp : s.rangePoisoned pa 16 = false) :
    bartryBody f s = .ok { st := f.replyBoth s (nodeAgent (s.barRootOf pa)) (scalarTok (if
      ((Int.ofNat (s.read64 pa / 2 ^ 32 % 2 ^ 24) : Int) - 1 - f.b.val.toNat) % 2 ^ 24 < 2 ^ 23 then 1 else 0)) } := by
  simp only [bartryBody, wantScalar_of_ne hb, record_load ha hr hal hks 0 hrange, bind, Except.bind, hp, Bool.false_eq_true, if_false, State.barPhase,
    phaseDone_iff]

end

/-- Settles O33: each body is its record's check, then the block's one barrier, then what it holds or sends. -/
theorem barrierInstructions : Obligations.BarrierInstructions := by
  intro s f h w ks pa ha hr hal hks barrier none_
  refine ⟨fun hhome => ⟨fun hc hno hf hb h1 h2 => ?_, fun hc hno hf => ?_, fun hc hno hf => ?_, fun hbar hf => ?_, fun hbar hf hb => ?_,
    fun hbar hf => ?_, fun hf hb hn => ?_⟩, fun hrange hf hb hp => ?_⟩
  · have hok : ¬ (f.b.val.toNat = 0 ∨ 2 ^ 32 ≤ f.b.val.toNat ∨ f.fr.hasBarrier = true) := by
      simp only [hasBarrier_false hno, Bool.false_eq_true, or_false]
      omega
    exact givesScalar_hold rfl hf hc ((barinitBody_eq ha hr hal hks hhome hb).trans (if_neg hok))
  · exact givesScalar_hold rfl hf hc ((bararrBody_eq ha hr hal hks hhome ..).trans (by rw [hasBarrier_false hno]; rfl))
  · exact givesScalar_hold rfl hf hc ((bararrBody_eq ha hr hal hks hhome ..).trans (by rw [hasBarrier_false hno]; rfl))
  · exact raises_of_fault rfl hf ((bararrBody_eq ha hr hal hks hhome ..).trans (if_pos ((hasBarrier_iff _).mpr hbar)))
  · exact raises_of_fault rfl hf ((barinitBody_eq ha hr hal hks hhome hb).trans (if_pos (.inr (.inr ((hasBarrier_iff _).mpr hbar)))))
  · exact fire_fault hf ((bararrBody_eq ha hr hal hks hhome ..).trans (if_pos ((hasBarrier_iff _).mpr hbar)))
  · exact raises_of_fault rfl hf ((barinitBody_eq ha hr hal hks hhome hb).trans (if_pos (hn.imp_right .inl)))
  · exact fire_retire_silent hf (bartryBody_eq ha hr hal hks hrange hb hp)

end Sys2Proof.Machine

/-! ## What the memory instructions refuse (O24) -/

namespace Sys2Proof.Machine

/-! ### Operands and addresses (R218, R225) -/

theorem ne_tile_of_scalar {t : Tok} (h : t.kind = .scalar) : t.kind ≠ .tile := by simp [h]

theorem bytes_pos (x : Width) : 0 < x.bytes := by cases x <;> decide

section
variable {a va : Word} {d : Int} {n : Nat} (hv : a + wordOfInt d = va) (hn : 0 < n)
include hv hn

theorem scalarAddr_out (h : ¬ reachable va.toNat n) : scalarAddr a d n = failWith .protection va := by
  subst hv
  simp only [scalarAddr, effective, canonicalSpan_of_not_reachable hn h, Bool.not_false, if_true, wordOf, BitVec.ofNat_toNat, BitVec.setWidth_eq]

theorem scalarAddr_misaligned (h : reachable va.toNat n) (hal : va.toNat % n ≠ 0) : scalarAddr a d n = failWith .align va := by
  subst hv
  simp only [scalarAddr, effective, (canonicalSpan_iff hn).mpr h, Bool.not_true, Bool.false_eq_true, if_false, ne_eq, hal, not_false_iff, if_true,
    wordOf, BitVec.ofNat_toNat, BitVec.setWidth_eq]

theorem scalarAddr_ok (h : reachable va.toNat n) (hal : va.toNat % n = 0) : scalarAddr a d n = .ok va.toNat := by
  subst hv
  simp only [scalarAddr, effective, (canonicalSpan_iff hn).mpr h, Bool.not_true, Bool.false_eq_true, if_false, ne_eq, hal, not_true]

end

/-- The second address of LDPAIR. -/
theorem pair_addr (a : Word) (d : BitVec 24) (n : Nat) : a + wordOfInt (d.toInt + n) = a + d.signExtend 64 + BitVec.ofNat 64 n := by
  rw [wordOfInt, BitVec.ofInt_add, BitVec.ofInt_natCast, ← BitVec.add_assoc]
  rfl

/-- An access width divides 2^64. -/
theorem pair_aligned {a : Word} {x : Width} (h : a.toNat % x.bytes = 0) : (a + BitVec.ofNat 64 x.bytes).toNat % x.bytes = 0 := by
  cases x <;> simp only [Width.bytes, BitVec.toNat_add, BitVec.toNat_ofNat] at h ⊢ <;> omega

/-! ### Requests and routes (R233, R234) -/

theorem issueLoad_wait {f : Firing} {s : State} (h : 512 ≤ s.inflight f.pe) (lsid stream : Nat) (cells : List (Nat × Nat)) (size : Nat)
    (dests extra : List Dest) (purpose : AccFor) (step : Option Nat) :
    f.issueLoad s lsid stream cells size dests extra purpose step = .error (.wait .requests) := if_pos h

section
variable {f : Firing} {s : State} {w : Word}

theorem route_closed (h : s.frame? (frameKey f.pe (w.toNat / 2 ^ 9 % 2 ^ 8)) = none) : f.route s w = failWith .operand := by
  simp only [Firing.route, bitsAt, h]

theorem route_foreign {fr : Frame} (h : s.frame? (frameKey f.pe (w.toNat / 2 ^ 9 % 2 ^ 8)) = some fr) (hc : fr.ctx ≠ f.fr.ctx) :
    f.route s w = failWith .protection := by
  simp only [Firing.route, bitsAt, h]
  exact if_pos hc

theorem route_bad {fr : Frame} (h : s.frame? (frameKey f.pe (w.toNat / 2 ^ 9 % 2 ^ 8)) = some fr) (hc : fr.ctx = f.fr.ctx)
    (hbad : 2 ^ 17 ≤ w.toNat ∨ w.toNat / 2 ^ 7 % 4 = 3 ∨ fr.isOpen = false ∨ fr.failed = true) : f.route s w = failWith .operand := by
  have hcond : w.toNat / 2 ^ 17 ≠ 0 ∨ w.toNat / 2 ^ 7 % 2 ^ 2 = 3 ∨ (!fr.live) = true := by
    simp only [Frame.live, Bool.not_eq_true', Bool.and_eq_false_iff, Bool.not_eq_false']
    exact hbad.imp_left fun h => Nat.ne_of_gt (Nat.div_pos h (by decide))
  simp only [Firing.route, bitsAt, h]
  exact (if_neg (not_not.mpr hc)).trans (if_pos hcond)

theorem route_ok {d : Dest} (h : f.routes s w d) : ∃ e, f.route s w = .ok e := by
  obtain ⟨fr, hfr, hopen, hfailed, hctx, hv, hsd, -⟩ := h
  have hcond : ¬ (w.toNat / 2 ^ 17 ≠ 0 ∨ w.toNat / 2 ^ 7 % 2 ^ 2 = 3 ∨ (!fr.live) = true) := by
    simp only [Frame.live, hopen, hfailed, Bool.not_false, Bool.and_self, Bool.not_true, Bool.false_eq_true, or_false]
    omega
  simp only [Firing.route, bitsAt, hfr]
  exact ⟨_, (if_neg (not_not.mpr hctx)).trans (if_neg hcond)⟩

end

/-- Where a load sends its replies: to the frame of its routing word, or to its own targets. -/
def Firing.loadDests (f : Firing) (s : State) (routed : Bool) : Except Stop (List Dest) :=
  if routed then (f.route s f.b.val).map fun d => [d] else .ok f.dests

theorem loadDests_error {f : Firing} {s : State} {c : Code} (h : f.route s f.b.val = failWith c) : f.loadDests s true = failWith c := by
  simp only [Firing.loadDests, if_true, h]
  rfl

theorem loadDests_ok {f : Firing} {s : State} {routed : Bool} (h : routed = true → ∃ e, f.route s f.b.val = .ok e) : ∃ ds, f.loadDests s routed = .ok ds := by
  cases routed with
  | false => exact ⟨_, rfl⟩
  | true =>
    obtain ⟨e, he⟩ := h rfl
    exact ⟨[e], by simp only [Firing.loadDests, if_true, he]; rfl⟩

/-! ### Scalar loads and stores (R241, R242) -/

section
variable {f : Firing} {s : State} {routed : Bool} {x : LoadX} {w : MemW}

theorem loadBody_of_tile (ha : f.a.kind = .tile) : loadBody routed x w f s = failWith .tokenKind := by
  simp only [loadBody, addrOperand, wantScalar_of_tile ha]
  rfl

theorem loadBody_of_tile_b (ha : f.a.kind = .scalar) (hb : f.b.kind = .tile) : loadBody true x w f s = failWith .tokenKind := by
  simp only [loadBody, addrOperand, wantScalar_of_ne (ne_tile_of_scalar ha), wantScalar_of_tile hb]
  rfl

variable (ha : f.a.kind = .scalar) (hb : routed = true → f.b.kind = .scalar)
include ha hb

/-- A load checks its operands, its address and its destinations in this order. -/
theorem loadBody_eq : loadBody routed x w f s = (do
    let ea ← scalarAddr f.a.val w.disp.toInt x.width.bytes
    let dests ← f.loadDests s routed
    let s1 ← f.issueLoad s w.lsid.toNat w.stream.toNat (extent ea x.width.bytes) x.width.bytes dests (if routed then f.dests else [])
      (.scalar x.width.bytes x.sx) none
    .ok { st := s1 }) := by
  cases routed with
  | false =>
    simp only [loadBody, addrOperand, wantScalar_of_ne (ne_tile_of_scalar ha)]
    rfl
  | true =>
    simp only [loadBody, addrOperand, wantScalar_of_ne (ne_tile_of_scalar ha), wantScalar_of_ne (ne_tile_of_scalar (hb rfl))]
    rfl

theorem loadBody_out (h : ¬ reachable (f.a.val + w.disp.signExtend 64).toNat x.width.bytes) :
    loadBody routed x w f s = failWith .protection (f.a.val + w.disp.signExtend 64) := by
  rw [loadBody_eq ha hb, scalarAddr_out rfl (bytes_pos _) h]
  rfl

variable (hr : reachable (f.a.val + w.disp.signExtend 64).toNat x.width.bytes)
include hr

theorem loadBody_misaligned (hal : (f.a.val + w.disp.signExtend 64).toNat % x.width.bytes ≠ 0) :
    loadBody routed x w f s = failWith .align (f.a.val + w.disp.signExtend 64) := by
  rw [loadBody_eq ha hb, scalarAddr_misaligned rfl (bytes_pos _) hr hal]
  rfl

variable (hal : (f.a.val + w.disp.signExtend 64).toNat % x.width.bytes = 0)
include hal

theorem loadBody_misrouted {c : Code} (h : routed = true) (hroute : f.route s f.b.val = failWith c) : loadBody routed x w f s = failWith c := by
  subst h
  rw [loadBody_eq ha hb, scalarAddr_ok rfl (bytes_pos _) hr hal, loadDests_error hroute]
  rfl

theorem loadBody_wait (h : routed = true → ∃ e, f.route s f.b.val = .ok e) (hfull : 512 ≤ s.inflight f.pe) :
    loadBody routed x w f s = .error (.wait .requests) := by
  obtain ⟨ds, hds⟩ := loadDests_ok h
  rw [loadBody_eq ha hb, scalarAddr_ok rfl (bytes_pos _) hr hal, hds]
  simp only [bind, Except.bind, issueLoad_wait hfull]

end

/-! ### Load pairs (R64, R241) -/

section
variable {f : Firing} {s : State} {x : LoadX} {w : MemW}

theorem ldpairBody_of_tile (ha : f.a.kind = .tile) : ldpairBody x w f s = .error (.fault { code := .tokenKind, step := some 0 }) := by
  simp only [ldpairBody, addrOperand, wantScalar_of_tile ha]
  rfl

variable (ha : f.a.kind = .scalar)
include ha

theorem ldpairBody_of_first {c : Code} {d : Word} (h : scalarAddr f.a.val w.disp.toInt x.width.bytes = failWith c d) :
    ldpairBody x w f s = .error (.fault { code := c, detail := d, step := some 0 }) := by
  simp only [ldpairBody, addrOperand, wantScalar_of_ne (ne_tile_of_scalar ha), bind, Except.bind, stepOf, h]
  rfl

variable (hr : reachable (f.a.val + w.disp.signExtend 64).toNat x.width.bytes) (hal : (f.a.val + w.disp.signExtend 64).toNat % x.width.bytes = 0)
include hr hal

theorem ldpairBody_of_second (hout : ¬ reachable (f.a.val + w.disp.signExtend 64 + BitVec.ofNat 64 x.width.bytes).toNat x.width.bytes) :
    ldpairBody x w f s = .error (.fault { code := .protection, detail := f.a.val + w.disp.signExtend 64 + BitVec.ofNat 64 x.width.bytes, step := some 1 }) := by
  simp only [ldpairBody, addrOperand, wantScalar_of_ne (ne_tile_of_scalar ha), bind, Except.bind, stepOf, scalarAddr_ok rfl (bytes_pos _) hr hal,
    scalarAddr_out (pair_addr ..) (bytes_pos _) hout]
  rfl

theorem ldpairBody_wait (hr1 : reachable (f.a.val + w.disp.signExtend 64 + BitVec.ofNat 64 x.width.bytes).toNat x.width.bytes)
    (hfull : 512 ≤ s.inflight f.pe) : ldpairBody x w f s = .error (.wait .requests) := by
  simp only [ldpairBody, addrOperand, wantScalar_of_ne (ne_tile_of_scalar ha), bind, Except.bind, stepOf, scalarAddr_ok rfl (bytes_pos _) hr hal,
    scalarAddr_ok (pair_addr ..) (bytes_pos _) hr1 (pair_aligned hal), issueLoad_wait hfull]

end

/-! ### Scalar stores (R242) -/

section
variable {f : Firing} {s : State} {wd : Width} {w : MemW}

theorem stBody_of_tile (ha : f.a.kind = .tile) : stBody wd w f s = failWith .tokenKind := by
  simp only [stBody, addrOperand, wantScalar_of_tile ha]
  rfl

theorem stBody_of_tile_b (ha : f.a.kind = .scalar) (hb : f.b.kind = .tile) (hd : f.dependent = false) : stBody wd w f s = failWith .tokenKind := by
  simp only [stBody, addrOperand, wantScalar_of_ne (ne_tile_of_scalar ha), hb, hd]
  rfl

/-- A store checks its operands, its address and its LSID in this order. -/
theorem stBody_eq (ha : f.a.kind = .scalar) (hb : f.b.kind = .scalar) : stBody wd w f s = (do
    let ea ← scalarAddr f.a.val w.disp.toInt wd.bytes
    let s1 ← f.claimLsid s w.lsid.toNat
    .ok { st := s1.noteStore f.src w.lsid.toNat w.stream.toNat (extent ea wd.bytes) true (some (leBytes wd.bytes f.b.val.toNat)) none }) := by
  simp only [stBody, addrOperand, wantScalar_of_ne (ne_tile_of_scalar ha), hb]
  rfl

theorem claimLsid_of_satisfied {lsid : Nat} (h : f.fr.satisfied.contains lsid = true) : f.claimLsid s lsid = failWith .operand := if_pos h

end

/-! ### Tiles (R243 to R246) -/

theorem eight_le_bits {c : Nat} {fmt : Fmt} (h : fmtOf c = some fmt) : 8 ≤ fmt.bits := by
  unfold fmtOf at h
  repeat' split at h
  all_goals cases h
  all_goals decide

theorem chanBytes_pos {img : BitVec 16} {ch : ChanFmt} (h : chanOf img = some ch) : 0 < ch.bytes := by
  obtain ⟨fmt, hfmt, rfl⟩ := Option.map_eq_some_iff.mp h
  exact Nat.div_pos (eight_le_bits hfmt) (by decide)

theorem chanFmt_of_chanOf {x : Ctx} {n : Nat} {ch : ChanFmt} (h : chanOf (x.chan n) = some ch) : x.chanFmt n = .ok ch := by
  simp only [Ctx.chanFmt, h]

/-- The bytes that a dense tile takes in memory (R243). -/
def tileLen (w : TmemW) (ch : ChanFmt) : Nat := (w.rows.toNat + 1) * (w.cols.toNat + 1) * ch.bytes

theorem tileLen_pos {w : TmemW} {ch : ChanFmt} (h : 0 < ch.bytes) : 0 < tileLen w ch := Nat.mul_pos (Nat.mul_pos (Nat.succ_pos _) (Nat.succ_pos _)) h

theorem fetchTile_wait {f : Firing} {s : State} {ch : ChanFmt} (h : s.tileRoom f.pe ch.fmt.width = false ∨ s.olderWaits f .tiles = true) (fc rows cols m : Nat) :
    f.fetchTile s ch fc rows cols m = .error (.wait .tiles) :=
  if_pos (by rcases h with h | h <;> simp [h])

theorem fetchTile_ok {f : Firing} {s : State} {ch : ChanFmt} (hroom : s.tileRoom f.pe ch.fmt.width = true) (hold : s.olderWaits f .tiles = false)
    (fc rows cols m : Nat) : ∃ u slot h, f.fetchTile s ch fc rows cols m = .ok (u, slot, h) ∧ u.inflight f.pe = s.inflight f.pe :=
  ⟨_, _, _, if_neg (by simp [hroom, hold]), rfl⟩

section
variable {f : Firing} {s : State} {routed : Bool} {w : TmemW}

theorem tldBody_of_tile (ha : f.a.kind = .tile) : tldBody routed w f s = failWith .tokenKind := by
  simp only [tldBody, addrOperand, wantScalar_of_tile ha]
  rfl

theorem tldBody_of_tile_b (ha : f.a.kind = .scalar) (hb : f.b.kind = .tile) : tldBody true w f s = failWith .tokenKind := by
  simp only [tldBody, addrOperand, wantScalar_of_ne (ne_tile_of_scalar ha), wantScalar_of_tile hb]
  rfl

section
variable {ch : ChanFmt} (ha : f.a.kind = .scalar) (hb : routed = true → f.b.kind = .scalar) (hch : chanOf (f.x.chan w.fc.toNat) = some ch)
include ha hb hch

/-- A tile load checks its alignment before its range (R243). -/
theorem tldBody_eq : tldBody routed w f s =
    if f.a.val.toNat % ch.bytes ≠ 0 then failWith .align f.a.val
    else if !canonicalSpan f.a.val.toNat (tileLen w ch) then failWith .protection f.a.val
    else (do
      let dests ← f.loadDests s routed
      let r ← f.fetchTile s ch w.fc.toNat w.rows.toNat w.cols.toNat dests.length
      let s2 ← f.issueLoad r.1 w.lsid.toNat w.stream.toNat (extent f.a.val.toNat (tileLen w ch)) (tileLen w ch) dests (if routed then f.dests else [])
        (.tile r.2.1 r.2.2 (f.x.chan w.fc.toNat)) none
      .ok { st := s2 }) := by
  cases routed with
  | false =>
    simp only [tldBody, addrOperand, wantScalar_of_ne (ne_tile_of_scalar ha), chanFmt_of_chanOf hch]
    rfl
  | true =>
    simp only [tldBody, addrOperand, wantScalar_of_ne (ne_tile_of_scalar ha), wantScalar_of_ne (ne_tile_of_scalar (hb rfl)), chanFmt_of_chanOf hch]
    rfl

theorem tldBody_misaligned (hal : f.a.val.toNat % ch.bytes ≠ 0) : tldBody routed w f s = failWith .align f.a.val :=
  (tldBody_eq ha hb hch).trans (if_pos hal)

theorem tldBody_out (hal : f.a.val.toNat % ch.bytes = 0) (h : ¬ reachable f.a.val.toNat (tileLen w ch)) :
    tldBody routed w f s = failWith .protection f.a.val :=
  (tldBody_eq ha hb hch).trans ((if_neg (not_not.mpr hal)).trans
    (if_pos (by simp [canonicalSpan_of_not_reachable (tileLen_pos (chanBytes_pos hch)) h])))

variable (hal : f.a.val.toNat % ch.bytes = 0) (hr : reachable f.a.val.toNat (tileLen w ch))
include hal hr

theorem tldBody_sound : tldBody routed w f s = (do
    let dests ← f.loadDests s routed
    let r ← f.fetchTile s ch w.fc.toNat w.rows.toNat w.cols.toNat dests.length
    let s2 ← f.issueLoad r.1 w.lsid.toNat w.stream.toNat (extent f.a.val.toNat (tileLen w ch)) (tileLen w ch) dests (if routed then f.dests else [])
      (.tile r.2.1 r.2.2 (f.x.chan w.fc.toNat)) none
    .ok { st := s2 }) :=
  (tldBody_eq ha hb hch).trans ((if_neg (not_not.mpr hal)).trans
    (if_neg (by simp [(canonicalSpan_iff (tileLen_pos (chanBytes_pos hch))).mpr hr])))

theorem tldBody_misrouted {c : Code} (h : routed = true) (hroute : f.route s f.b.val = failWith c) : tldBody routed w f s = failWith c := by
  subst h
  rw [tldBody_sound ha hb hch hal hr, loadDests_error hroute]
  rfl

variable (hroute : routed = true → ∃ e, f.route s f.b.val = .ok e)
include hroute

theorem tldBody_waitTiles (h : s.tileRoom f.pe ch.fmt.width = false ∨ s.olderWaits f .tiles = true) : tldBody routed w f s = .error (.wait .tiles) := by
  obtain ⟨ds, hds⟩ := loadDests_ok hroute
  rw [tldBody_sound ha hb hch hal hr, hds]
  simp only [bind, Except.bind, fetchTile_wait h]

theorem tldBody_waitRequests (hroom : s.tileRoom f.pe ch.fmt.width = true) (hold : s.olderWaits f .tiles = false) (hfull : 512 ≤ s.inflight f.pe) :
    tldBody routed w f s = .error (.wait .requests) := by
  obtain ⟨ds, hds⟩ := loadDests_ok hroute
  obtain ⟨u, slot, hd, hfetch, hu⟩ := fetchTile_ok hroom hold w.fc.toNat w.rows.toNat w.cols.toNat ds.length
  rw [tldBody_sound ha hb hch hal hr, hds]
  simp only [bind, Except.bind, hfetch, issueLoad_wait (hu ▸ hfull)]

end

/-! ### Lists (R245) -/

theorem listBytes_pos : 0 < listBytes w := by simp only [listBytes]; omega

theorem listAddr_out {a : Word} (h : ¬ reachable a.toNat (listBytes w)) : listAddr a w = failWith .protection a := by
  simp only [listAddr, canonicalSpan_of_not_reachable listBytes_pos h, Bool.not_false, if_true]

theorem listAddr_misaligned {a : Word} (h : reachable a.toNat (listBytes w)) (hal : a.toNat % 8 ≠ 0) : listAddr a w = failWith .align a := by
  simp only [listAddr, (canonicalSpan_iff listBytes_pos).mpr h, Bool.not_true, Bool.false_eq_true, if_false, ne_eq, hal, not_false_iff, if_true]

theorem listAddr_ok {a : Word} (h : reachable a.toNat (listBytes w)) (hal : a.toNat % 8 = 0) : listAddr a w = .ok () := by
  simp only [listAddr, (canonicalSpan_iff listBytes_pos).mpr h, Bool.not_true, Bool.false_eq_true, if_false, ne_eq, hal, not_true]

theorem tgathBody_of_tile (ha : f.a.kind = .tile) : tgathBody w f s = failWith .tokenKind := by
  simp only [tgathBody, addrOperand, wantScalar_of_tile ha]
  rfl

section
variable {ch : ChanFmt} (ha : f.a.kind = .scalar) (hch : chanOf (f.x.chan w.fc.toNat) = some ch)
include ha hch

theorem tgathBody_of_list {c : Code} {d : Word} (h : listAddr f.a.val w = failWith c d) : tgathBody w f s = failWith c d := by
  simp only [tgathBody, addrOperand, wantScalar_of_ne (ne_tile_of_scalar ha), chanFmt_of_chanOf hch, bind, Except.bind, h]
  rfl

variable (hlist : listAddr f.a.val w = .ok ())
include hlist

theorem tgathBody_waitTiles (h : s.tileRoom f.pe ch.fmt.width = false ∨ s.olderWaits f .tiles = true) : tgathBody w f s = .error (.wait .tiles) := by
  simp only [tgathBody, addrOperand, wantScalar_of_ne (ne_tile_of_scalar ha), chanFmt_of_chanOf hch, hlist, bind, Except.bind, fetchTile_wait h]

theorem tgathBody_waitRequests (hroom : s.tileRoom f.pe ch.fmt.width = true) (hold : s.olderWaits f .tiles = false) (hfull : 512 ≤ s.inflight f.pe) :
    tgathBody w f s = .error (.wait .requests) := by
  obtain ⟨u, slot, hd, hfetch, hu⟩ := fetchTile_ok hroom hold w.fc.toNat w.rows.toNat w.cols.toNat f.dests.length
  simp only [tgathBody, addrOperand, wantScalar_of_ne (ne_tile_of_scalar ha), chanFmt_of_chanOf hch, hlist, bind, Except.bind, hfetch,
    issueLoad_wait (hu ▸ hfull)]

end

/-! ### Tile stores (R244, R246) -/

theorem valueTile_of_tile {fc : Nat} {c : Code} (h : f.tile s f.b = failTile c) : f.valueTile s fc = failTile c := by
  simp only [Firing.valueTile, h]
  rfl

theorem tile_of_stale {t : Tok} (hk : t.kind = .tile) (h : hPe t.val ≠ f.pe ∨ (s.tileSlot (hPe t.val) (hSlot t.val)).count = 0 ∨
    (s.tileSlot (hPe t.val) (hSlot t.val)).owner ≠ f.x.slot ∨ (s.tileSlot (hPe t.val) (hSlot t.val)).gen ≠ hGen t.val) :
    f.tile s t = failTile .handle :=
  (if_neg (not_not.mpr hk)).trans (if_pos h)

section
variable {fc : Nat} {ch : ChanFmt} {b : TileIn} (hch : chanOf (f.x.chan fc) = some ch) (hb : f.holds s f.b b)
include hch hb

theorem valueTile_of_width (h : ch.fmt.width ≠ b.slot.width) : f.valueTile s fc = failWith .operand := by
  simp only [Firing.valueTile, tile_of_holds hb, chanFmt_of_chanOf hch, bind, Except.bind]
  exact if_pos h

theorem valueTile_ok (h : ch.fmt.width = b.slot.width) : f.valueTile s fc = .ok (b, ch) := by
  simp only [Firing.valueTile, tile_of_holds hb, chanFmt_of_chanOf hch, bind, Except.bind]
  exact if_neg (not_not.mpr h)

end

theorem tstBody_of_tile (ha : f.a.kind = .tile) : tstBody w f s = failWith .tokenKind := by
  simp only [tstBody, addrOperand, wantScalar_of_tile ha]
  rfl

theorem tscatBody_of_tile (ha : f.a.kind = .tile) : tscatBody w f s = failWith .tokenKind := by
  simp only [tscatBody, addrOperand, wantScalar_of_tile ha]
  rfl

theorem tstBody_of_scalar_b (ha : f.a.kind = .scalar) (hb : f.b.kind = .scalar) : tstBody w f s = failWith .tokenKind := by
  simp only [tstBody, addrOperand, wantScalar_of_ne (ne_tile_of_scalar ha), hb]
  rfl

theorem tscatBody_of_scalar_b (ha : f.a.kind = .scalar) (hb : f.b.kind = .scalar) : tscatBody w f s = failWith .tokenKind := by
  simp only [tscatBody, addrOperand, wantScalar_of_ne (ne_tile_of_scalar ha), hb]
  rfl

variable (ha : f.a.kind = .scalar) (hb : f.b.kind = .tile)
include ha hb

theorem tscatBody_of_list {c : Code} {d : Word} (h : listAddr f.a.val w = failWith c d) : tscatBody w f s = failWith c d := by
  simp only [tscatBody, addrOperand, wantScalar_of_ne (ne_tile_of_scalar ha), hb, bind, Except.bind, h]
  rfl

theorem tscatBody_of_value {e : Stop} (hlist : listAddr f.a.val w = .ok ()) (h : f.valueTile s w.fc.toNat = .error e) : tscatBody w f s = .error e := by
  simp only [tscatBody, addrOperand, wantScalar_of_ne (ne_tile_of_scalar ha), hb, bind, Except.bind, hlist, h]
  rfl

theorem tscatBody_of_lsid {v : TileIn × ChanFmt} (hlist : listAddr f.a.val w = .ok ()) (h : f.valueTile s w.fc.toNat = .ok v)
    (hl : f.fr.satisfied.contains w.lsid.toNat = true) : tscatBody w f s = failWith .operand := by
  simp only [tscatBody, addrOperand, wantScalar_of_ne (ne_tile_of_scalar ha), hb, bind, Except.bind, hlist, h, claimLsid_of_satisfied hl]
  rfl

variable {ch : ChanFmt} (hch : chanOf (f.x.chan w.fc.toNat) = some ch)
include hch

theorem tstBody_out (h : ¬ reachable f.a.val.toNat (tileLen w ch)) : tstBody w f s = failWith .protection f.a.val := by
  have hspan : canonicalSpan f.a.val.toNat ((w.rows.toNat + 1) * (w.cols.toNat + 1) * ch.bytes) = false :=
    canonicalSpan_of_not_reachable (tileLen_pos (chanBytes_pos hch)) h
  simp only [tstBody, addrOperand, wantScalar_of_ne (ne_tile_of_scalar ha), hb, chanFmt_of_chanOf hch, bind, Except.bind, hspan]
  rfl

variable (hr : reachable f.a.val.toNat (tileLen w ch))
include hr

/-- A tile store whose range is good. -/
theorem tstBody_eq : tstBody w f s = if f.a.val.toNat % ch.bytes ≠ 0 then failWith .align f.a.val else (do
    let v ← f.valueTile s w.fc.toNat
    let s1 ← f.claimLsid s w.lsid.toNat
    .ok { st := s1.noteStore f.src w.lsid.toNat w.stream.toNat (extent f.a.val.toNat (tileLen w ch)) false
            (some (tileBytes v.1.slot.codes (w.rows.toNat + 1) (w.cols.toNat + 1) v.2.bytes)) (some v.1.h)
          keep := [f.b] }) := by
  have hspan : canonicalSpan f.a.val.toNat ((w.rows.toNat + 1) * (w.cols.toNat + 1) * ch.bytes) = true :=
    (canonicalSpan_iff (tileLen_pos (chanBytes_pos hch))).mpr hr
  simp only [tstBody, addrOperand, wantScalar_of_ne (ne_tile_of_scalar ha), hb, chanFmt_of_chanOf hch, bind, Except.bind, hspan]
  rfl

theorem tstBody_misaligned (hal : f.a.val.toNat % ch.bytes ≠ 0) : tstBody w f s = failWith .align f.a.val :=
  (tstBody_eq ha hb hch hr).trans (if_pos hal)

variable (hal : f.a.val.toNat % ch.bytes = 0)
include hal

theorem tstBody_of_value {e : Stop} (h : f.valueTile s w.fc.toNat = .error e) : tstBody w f s = .error e := by
  rw [tstBody_eq ha hb hch hr, if_neg (not_not.mpr hal), h]
  rfl

theorem tstBody_of_lsid {v : TileIn × ChanFmt} (h : f.valueTile s w.fc.toNat = .ok v) (hl : f.fr.satisfied.contains w.lsid.toNat = true) :
    tstBody w f s = failWith .operand := by
  rw [tstBody_eq ha hb hch hr, if_neg (not_not.mpr hal), h, claimLsid_of_satisfied hl]
  rfl

end

/-! ### Instructions that share a body -/

/-- LD and LDR are one body, of which LDR's is routed. -/
theorem load_cases {i : Instr} {h : Hdr} {x : LoadX} {w : MemW} (hi : i ∈ [Instr.ld h x w, .ldr h x w]) :
    ∃ routed, (∀ s, exec i s = fire i (loadBody routed x w) s) ∧ (routed = true → i = .ldr h x w) := by
  simp only [List.mem_cons, List.not_mem_nil, or_false] at hi
  rcases hi with rfl | rfl
  · exact ⟨false, fun _ => rfl, fun h => absurd h (by decide)⟩
  · exact ⟨true, fun _ => rfl, fun _ => rfl⟩

/-- TLD and TLDR are one body, of which TLDR's is routed. -/
theorem tileLoad_cases {i : Instr} {h : Hdr} {w : TmemW} (hi : i ∈ [Instr.tld h w, .tldr h w]) :
    ∃ routed, (∀ s, exec i s = fire i (tldBody routed w) s) ∧ (routed = true → i = .tldr h w) := by
  simp only [List.mem_cons, List.not_mem_nil, or_false] at hi
  rcases hi with rfl | rfl
  · exact ⟨false, fun _ => rfl, fun h => absurd h (by decide)⟩
  · exact ⟨true, fun _ => rfl, fun _ => rfl⟩

/-- A routed load whose operands and address are good, and whose routing word is not, raises what the word is refused with (R234). -/
theorem routedLoad_raises {s : State} {f : Firing} {h : Hdr} {x : LoadX} {w : MemW} {tw : TmemW} {ch : ChanFmt} {i : Instr} {c : Code}
    (ha : f.a.kind = .scalar) (hb : f.b.kind = .scalar)
    (hi : Fires i s f ∧ ((i = .ldr h x w ∧ reachable (f.a.val + w.disp.signExtend 64).toNat x.width.bytes ∧
          (f.a.val + w.disp.signExtend 64).toNat % x.width.bytes = 0) ∨
        (i = .tldr h tw ∧ chanOf (f.x.chan tw.fc.toNat) = some ch ∧ reachable f.a.val.toNat (tileLen tw ch) ∧ f.a.val.toNat % ch.bytes = 0)))
    (hroute : f.route s f.b.val = failWith c) : Raises i s f c 0 := by
  obtain ⟨hf, ⟨rfl, hr, hal⟩ | ⟨rfl, hch, hr, hal⟩⟩ := hi
  · exact raises_of_fault rfl hf (loadBody_misrouted ha (fun _ => hb) hr hal rfl hroute)
  · exact raises_of_fault rfl hf (tldBody_misrouted ha (fun _ => hb) hch hal hr rfl hroute)

/-- Settles O24: each body is its checks in the order of R399, and the first that fails names the fault or the wait. -/
theorem memoryFaults : Obligations.MemoryFaults := by
  refine ⟨fun s f h x w => ?_, fun s f h x w tw ch ha hb => ?_, fun s f h w => ?_, fun s f h w ch ha hch => ?_⟩
  · intro va n vb pair
    have hn : 0 < n := bytes_pos _
    refine ⟨fun i hi hf ha => ?_, fun hf ha hb => raises_of_fault rfl hf (loadBody_of_tile_b ha hb), fun i hi hf ha hb => ?_, fun hf ha hb => ?_,
      fun hf ha hb hd => raises_of_fault rfl hf (stBody_of_tile_b ha hb hd),
      fun hf => ⟨fun ha => fire_fault hf (ldpairBody_of_tile ha), fun ha => ⟨fun ho => ?_, fun hr hal => ?_, fun hr hal ho => ?_, fun hr hal hr1 hfull => ?_⟩⟩⟩
    · simp only [List.mem_cons, List.not_mem_nil, or_false] at hi
      rcases hi with rfl | rfl | rfl
      · exact raises_of_fault rfl hf (loadBody_of_tile ha)
      · exact raises_of_fault rfl hf (loadBody_of_tile ha)
      · exact raises_of_fault rfl hf (stBody_of_tile ha)
    · obtain ⟨routed, hexec, hrouted⟩ := load_cases hi
      have hb : routed = true → f.b.kind = .scalar := fun hr => hb (hrouted hr)
      exact ⟨fun ho => raises_of_fault (hexec s) hf (loadBody_out ha hb ho), fun hr hal => raises_of_fault (hexec s) hf (loadBody_misaligned ha hb hr hal),
        fun d hr hal hroute hfull => (hexec s).trans (fire_wait hf (loadBody_wait ha hb hr hal (fun ht => route_ok (hroute (hrouted ht))) hfull))⟩
    · refine ⟨fun ho => raises_of_fault rfl hf ?_, fun hr hal => raises_of_fault rfl hf ?_, fun hr hal hl => raises_of_fault rfl hf ?_⟩
      · rw [stBody_eq ha hb, scalarAddr_out rfl hn ho]
        rfl
      · rw [stBody_eq ha hb, scalarAddr_misaligned rfl hn hr hal]
        rfl
      · rw [stBody_eq ha hb, scalarAddr_ok rfl hn hr hal, claimLsid_of_satisfied hl]
        rfl
    · exact fire_fault hf (ldpairBody_of_first ha (scalarAddr_out rfl hn ho))
    · exact fire_fault hf (ldpairBody_of_first ha (scalarAddr_misaligned rfl hn hr hal))
    · exact fire_fault hf (ldpairBody_of_second ha hr hal ho)
    · exact fire_wait hf (ldpairBody_wait ha hr hal hr1 hfull)
  · intro frame va e tile sound i hi
    exact ⟨fun hfr => routedLoad_raises ha hb hi (route_closed hfr), fun fr hfr hc => routedLoad_raises ha hb hi (route_foreign hfr hc),
      fun fr hfr hc hbad => routedLoad_raises ha hb hi (route_bad hfr hc hbad)⟩
  · refine ⟨fun i hi hf ha => ?_, fun hf ha hb => raises_of_fault rfl hf (tldBody_of_tile_b ha hb), fun i hi hf ha hb => ?_⟩
    · simp only [List.mem_cons, List.not_mem_nil, or_false] at hi
      rcases hi with rfl | rfl | rfl | rfl | rfl
      · exact raises_of_fault rfl hf (tldBody_of_tile ha)
      · exact raises_of_fault rfl hf (tldBody_of_tile ha)
      · exact raises_of_fault rfl hf (tstBody_of_tile ha)
      · exact raises_of_fault rfl hf (tgathBody_of_tile ha)
      · exact raises_of_fault rfl hf (tscatBody_of_tile ha)
    · simp only [List.mem_cons, List.not_mem_nil, or_false] at hi
      rcases hi with rfl | rfl
      · exact raises_of_fault rfl hf (tstBody_of_scalar_b ha hb)
      · exact raises_of_fault rfl hf (tscatBody_of_scalar_b ha hb)
  · intro va e tile list inPlace
    refine ⟨fun i hi hf hb => ?_, fun hf hb => ⟨fun ho => raises_of_fault rfl hf (tstBody_out ha hb hch ho),
      fun hr hal => raises_of_fault rfl hf (tstBody_misaligned ha hb hch hr hal)⟩, fun i hi hf hb => ?_, fun i hi d hf hin hroute => ?_,
      fun i hi hf hb hin => ?_⟩
    · obtain ⟨routed, hexec, hrouted⟩ := tileLoad_cases hi
      have hb : routed = true → f.b.kind = .scalar := fun hr => hb (hrouted hr)
      exact ⟨fun hal => raises_of_fault (hexec s) hf (tldBody_misaligned ha hb hch hal),
        fun hal ho => raises_of_fault (hexec s) hf (tldBody_out ha hb hch hal ho)⟩
    · simp only [List.mem_cons, List.not_mem_nil, or_false] at hi
      rcases hi with rfl | rfl
      · exact ⟨fun ho => raises_of_fault rfl hf (tgathBody_of_list ha hch (listAddr_out ho)),
          fun hr hal => raises_of_fault rfl hf (tgathBody_of_list ha hch (listAddr_misaligned hr hal))⟩
      · exact ⟨fun ho => raises_of_fault rfl hf (tscatBody_of_list ha (hb rfl) (listAddr_out ho)),
          fun hr hal => raises_of_fault rfl hf (tscatBody_of_list ha (hb rfl) (listAddr_misaligned hr hal))⟩
    · by_cases hg : i = .tgath h w
      · subst hg
        obtain ⟨hr, hal⟩ := hin.2 (.inl rfl)
        exact ⟨fun hroom => fire_wait hf (tgathBody_waitTiles ha hch (listAddr_ok hr hal) hroom),
          fun hroom hold hfull => fire_wait hf (tgathBody_waitRequests ha hch (listAddr_ok hr hal) hroom hold hfull)⟩
      · have hi : i ∈ [Instr.tld h w, .tldr h w] := by simpa [hg] using hi
        have htile : i = .tld h w ∨ i = .tldr h w ∨ i = .tst h w := by
          rcases List.mem_cons.mp hi with hi | hi
          · exact .inl hi
          · exact .inr (.inl (List.mem_singleton.mp hi))
        obtain ⟨hr, hal⟩ := hin.1 htile
        obtain ⟨routed, hexec, hrouted⟩ := tileLoad_cases hi
        have hb : routed = true → f.b.kind = .scalar := fun ht => (hroute (hrouted ht)).1
        have hroute : routed = true → ∃ e, f.route s f.b.val = .ok e := fun ht => route_ok (hroute (hrouted ht)).2
        exact ⟨fun hroom => (hexec s).trans (fire_wait hf (tldBody_waitTiles ha hb hch hal hr hroute hroom)),
          fun hroom hold hfull => (hexec s).trans (fire_wait hf (tldBody_waitRequests ha hb hch hal hr hroute hroom hold hfull))⟩
    · simp only [List.mem_cons, List.not_mem_nil, or_false] at hi
      rcases hi with rfl | rfl
      · obtain ⟨hr, hal⟩ := hin.1 (.inr (.inr rfl))
        exact ⟨fun hbad => fire_fault hf (tstBody_of_value ha hb hch hr hal (valueTile_of_tile (tile_of_stale hb hbad))),
          fun b hh hw => raises_of_fault rfl hf (tstBody_of_value ha hb hch hr hal (valueTile_of_width hch hh hw)),
          fun b hh hw hl => raises_of_fault rfl hf (tstBody_of_lsid ha hb hch hr hal (valueTile_ok hch hh hw) hl)⟩
      · obtain ⟨hr, hal⟩ := hin.2 (.inr rfl)
        exact ⟨fun hbad => fire_fault hf (tscatBody_of_value ha hb (listAddr_ok hr hal) (valueTile_of_tile (tile_of_stale hb hbad))),
          fun b hh hw => raises_of_fault rfl hf (tscatBody_of_value ha hb (listAddr_ok hr hal) (valueTile_of_width hch hh hw)),
          fun b hh hw hl => raises_of_fault rfl hf (tscatBody_of_lsid ha hb (listAddr_ok hr hal) (valueTile_ok hch hh hw) hl)⟩

end Sys2Proof.Machine

/-! ## Kilns, windows and traces (O50) -/

namespace Sys2Proof.Machine

/-! ### The element of least key -/

theorem leastBy_spec {α : Type} {key : α → Nat} {l : List α} {b : α} (h : leastBy key l = some b) : b ∈ l ∧ ∀ a ∈ l, key b ≤ key a := by
  induction l generalizing b with
  | nil => cases h
  | cons a l ih =>
    cases hl : leastBy key l with
    | none =>
      have hnil : l = [] := by
        cases l with
        | nil => rfl
        | cons c l =>
          simp only [leastBy] at hl
          repeat' split at hl
          all_goals cases hl
      simp only [leastBy, hl, Option.some.injEq] at h
      subst h hnil
      simp
    | some c =>
      obtain ⟨hmem, hmin⟩ := ih hl
      simp only [leastBy, hl] at h
      split at h
      · next hlt =>
        obtain rfl := Option.some.inj h
        refine ⟨.tail _ hmem, fun d hd => ?_⟩
        rcases List.mem_cons.mp hd with rfl | hd
        · exact Nat.le_of_lt hlt
        · exact hmin d hd
      · next hlt =>
        obtain rfl := Option.some.inj h
        refine ⟨.head _, fun d hd => ?_⟩
        rcases List.mem_cons.mp hd with rfl | hd
        · exact Nat.le_refl _
        · exact (Nat.le_of_not_lt hlt).trans (hmin d hd)

theorem mem_mapIf {α : Type} {p : α → Bool} {g : α → α} {l : List α} {a : α} (h : a ∈ l) (hp : p a = true) : g a ∈ mapIf p g l :=
  List.mem_map.mpr ⟨a, h, if_pos hp⟩

/-! ### What the trace of a configuration leaves (R457) -/

/-- The Kilns and the queued activations are as they were. -/
structure KeepsKilns (s t : State) : Prop where
  kiln : t.kiln = s.kiln
  queue : t.pe.queue = s.pe.queue

namespace KeepsKilns

theorem refl (s : State) : KeepsKilns s s := ⟨rfl, rfl⟩

theorem trans {s t u : State} (h : KeepsKilns s t) (g : KeepsKilns t u) : KeepsKilns s u :=
  ⟨g.kiln.trans h.kiln, g.queue.trans h.queue⟩

theorem foldl {α : Type} {g : State → α → State} (hg : ∀ s a, KeepsKilns s (g s a)) (l : List α) (s : State) : KeepsKilns s (l.foldl g s) := by
  induction l generalizing s with
  | nil => exact refl s
  | cons a l ih => exact (hg s a).trans (ih _)

theorem traceRecord (s : State) (c cycle : Nat) (r : TraceRec) : KeepsKilns s (s.traceRecord c cycle r) := by
  unfold State.traceRecord State.sendTrace State.traceReq
  repeat' split
  all_goals exact ⟨rfl, rfl⟩

theorem endInterval (s : State) (pe : Nat) (w : WinCfg) : KeepsKilns s (s.endInterval pe w) := by
  unfold State.endInterval
  repeat' split
  · exact traceRecord ..
  · exact refl s
  · exact refl s

theorem dropWin (s : State) (pe : Nat) (w : WinCfg) : KeepsKilns s (s.dropWin pe w) := (endInterval s pe w).trans ⟨rfl, rfl⟩

theorem loadWindow (s : State) (pe ctx : Nat) (cfg : Cfg) (tag1 : Nat) : KeepsKilns s (s.loadWindow pe ctx cfg tag1) := by
  unfold State.loadWindow
  refine KeepsKilns.trans (t := if s.cacheRoom (s.winOf pe).length Config.windowConfigs then s else _) ?_ ⟨rfl, rfl⟩
  repeat' split
  · exact refl s
  · exact dropWin ..
  · exact refl s

end KeepsKilns

/-! ### CONFIG_LOAD (R424 to R428) -/

theorem loadWindow_inWindow (s : State) (pe ctx : Nat) (cfg : Cfg) (tag1 : Nat) : (s.loadWindow pe ctx cfg tag1).inWindow pe cfg.num = true := by
  simp only [State.loadWindow, State.inWindow, State.winOf, State.drawn, State.setLoadCount, State.setWin, Tab.getD, Tab.get?_put_same]
  simp

/-- A configuration that is in the window, or is loaded, is there. -/
theorem inWindow_of_load (s : State) (pe ctx : Nat) (cfg : Cfg) (tag1 : Nat) :
    (if s.inWindow pe cfg.num then s else s.loadWindow pe ctx cfg tag1).inWindow pe cfg.num = true := by
  split
  · assumption
  · exact loadWindow_inWindow ..

theorem reloadFrame_none {s : State} {pe addr : Nat} (h : s.unloaded pe addr = none) : s.reloadFrame pe addr = none := by
  simp only [State.reloadFrame, h]

/-- What is known of an activation that wants a configuration. -/
theorem wanting_spec {s : State} {pe addr : Nat} {a : Activation} (h : s.wanting pe addr = some a) :
    a ∈ s.pe.queue ∧ a.pe = pe ∧ a.addr = addr ∧ s.issuing a.ctx = true := by
  have hp := List.find?_some h
  simp only [Bool.and_eq_true, beq_iff_eq] at hp
  obtain ⟨⟨⟨⟨⟨hpe, haddr⟩, -⟩, -⟩, -⟩, hissue⟩ := hp
  exact ⟨List.mem_of_find?_eq_some h, hpe, haddr, hissue⟩

theorem raise_faults {s : State} {r : FaultRec} {x : Ctx} (h : s.ctx? r.src.ctx = some x) (hx : x.state = .running) :
    ∃ y, (s.raise r).ctx? r.src.ctx = some y ∧ y.faults = x.faults ++ [r] := by
  simp only [State.raise, State.modCtx, h, hx]
  exact ⟨_, ctx?_setCtx_same .., rfl⟩

section
variable {s : State} {pe addr : Nat} {a : Activation} (hun : s.unloaded pe addr = none) (hw : s.wanting pe addr = some a)
include hun hw

theorem configLoad_noBlock (h : s.objectOf a.ctx addr = none) : configLoadEvent pe addr s = some (s.faultAct a (s.blockRecord a .noncodeBlock none 0)) := by
  simp only [configLoadEvent, reloadFrame_none hun, hw, h]

theorem configLoad_asks {n : Nat} {o : Obj} (h : s.objectOf a.ctx addr = some (n, o)) (he : s.entryOf (pe / 256) a.ctx addr = none) :
    configLoadEvent pe addr s = some (s.demand a n o) := by
  simp only [configLoadEvent, reloadFrame_none hun, hw, h, dieOfPe, he]

theorem configLoad_loads {n : Nat} {o : Obj} {e : TcEntry} (h : s.objectOf a.ctx addr = some (n, o)) (he : s.entryOf (pe / 256) a.ctx addr = some e)
    (hs : suits a e.cfg.ty = true) :
    configLoadEvent pe addr s =
      let s1 := (s.touchEntry e).mapQueue (fun b => b == a) fun b => { b with cfg := some e.cfg }
      some (if s1.inWindow pe e.cfg.num then s1 else s1.loadWindow pe a.ctx e.cfg e.tag1) := by
  simp only [configLoadEvent, reloadFrame_none hun, hw, h, dieOfPe, he, hs, Bool.not_true, Bool.false_eq_true, if_false]

end

/-- A request for a block that nobody has asked for. -/
theorem demand_reqs {s : State} {a : Activation} {n : Nat} {o : Obj} {x : Ctx} (hx : s.ctx? a.ctx = some x) (hf : x.regs.fmode % 2 = 0)
    (hr : ∀ r ∈ s.kiln.reqs, r.addr ≠ a.addr) :
    ∃ r, (s.demand a n o).kiln.reqs = s.kiln.reqs ++ [r] ∧ r.die = a.pe / 256 ∧ r.ctx = a.ctx ∧ r.obj = n ∧ r.addr = a.addr ∧
      r.whom = .demand a.pe a.task ∧ r.host = none := by
  have hasked : (s.mapQueue (fun b => b == a) fun b => { b with requested := true }).asked (dieOfPe a.pe) a.ctx a.addr = false :=
    List.any_eq_false.mpr fun r hmem => by simp [hr r hmem]
  have hhost : bitAt x.regs.fmode 0 = false := by simp [bitAt, hf]
  have hctx : (s.mapQueue (fun b => b == a) fun b => { b with requested := true }).ctx? a.ctx = some x := hx
  simp only [State.demand, State.ask, hctx, hasked, Bool.false_eq_true, if_false, hhost]
  exact ⟨_, rfl, rfl, rfl, rfl, rfl, rfl, rfl⟩

/-! ### KILN_TRANSLATE (R426, R427) -/

theorem nextTranslation_spec {s : State} {d : Nat} {r : KReq} (h : s.nextTranslation d = some r) :
    r ∈ s.kiln.reqs ∧ r.die = d ∧ r.host = none ∧ r.entry = none ∧
      ∀ q ∈ s.kiln.reqs, q.die = d → q.host = none → q.entry = none → s.kilnRank r ≤ s.kilnRank q := by
  obtain ⟨hmem, hmin⟩ := leastBy_spec h
  have hiff : ∀ q : KReq, q ∈ s.kiln.reqs.filter (fun r => r.die == d && r.host.isNone && r.entry.isNone) ↔
      q ∈ s.kiln.reqs ∧ q.die = d ∧ q.host = none ∧ q.entry = none := fun q => by simp [List.mem_filter, and_assoc]
  obtain ⟨hr, hd, hh, he⟩ := (hiff r).mp hmem
  exact ⟨hr, hd, hh, he, fun q hq hqd hqh hqe => hmin q ((hiff q).mpr ⟨hq, hqd, hqh, hqe⟩)⟩

theorem reply_kiln (s : State) (a : Agent) (cls : Nat) (ds : List Dest) (t : Tok) (src : Src) : (s.reply a cls ds t src).kiln = s.kiln := by
  induction ds generalizing s with
  | nil => rfl
  | cons d ds ih => exact (ih (s.post a (.pe d.pe) cls (.reply d t src))).trans (post_kiln ..)

theorem jobDone_entries (s : State) (n : Nat) (j : KJob) (die : Nat) : (s.jobDone n j die).kiln.entries = s.kiln.entries := by
  unfold State.jobDone
  split
  · rfl
  · simp only [reply_kiln]

theorem countJob_entries (s : State) (w : KFor) (die : Nat) (r : BackRes) : (s.countJob w die r).kiln.entries = s.kiln.entries := by
  cases w with
  | demand => rfl
  | reload => rfl
  | background n =>
    simp only [State.countJob]
    cases s.kiln.jobs.get? n with
    | none => rfl
    | some j => exact jobDone_entries ..

/-- An entry stays in its store as its request completes, but for its pin. -/
theorem settleReq_keeps {s : State} {r : KReq} {e q : TcEntry} (h : q ∈ s.kiln.entries) :
    ∃ p, { q with pinned := p } ∈ (s.settleReq r e).kiln.entries := by
  simp only [State.settleReq]
  split
  · exact ⟨q.pinned, by rw [countJob_entries]; exact h⟩
  · split
    · refine ⟨if q.cfg.num == e.cfg.num && q.die == e.die then true else q.pinned, ?_⟩
      rw [show ∀ u : State, u.drawn.kiln = u.kiln from fun _ => rfl, countJob_entries]
      refine List.mem_map.mpr ⟨q, h, ?_⟩
      split <;> rfl
    · exact ⟨q.pinned, by rw [show ∀ u : State, u.drawn.kiln = u.kiln from fun _ => rfl, countJob_entries]; exact h⟩

theorem mem_storeEntry (s : State) (e : TcEntry) : e ∈ (s.storeEntry e).kiln.entries := List.mem_append_right _ (.head _)

/-- A translated block is in the entry store, current, under the number it was given. -/
theorem cacheBlock_caches (s : State) (r : KReq) (o : Obj) (c : Cfg) :
    ∃ e ∈ (s.cacheBlock r o c).kiln.entries, e.die = r.die ∧ e.ctx = r.ctx ∧ e.cfg = { c with num := s.sched.serial } ∧ e.stale = false := by
  obtain ⟨p, hp⟩ := settleReq_keeps (r := r) (e := _) (mem_storeEntry (s.tryImage r o).1.bump
    { die := r.die, cfg := { c with num := s.sched.serial }, ctx := r.ctx, asid := match s.ctx? r.ctx with | some y => y.asid | none => 0
      native := r.native.isSome || (s.tryImage r o).2.isSome, pinned := false, rev := o.rev, stale := false, used := s.sched.cycle })
  exact ⟨_, hp, rfl, rfl, rfl, rfl⟩

/-! ### Invalidation (R439) -/

theorem dropWindows_keeps (l : List (Nat × List WinCfg)) (die : Nat) (copy : WinCfg → Bool) (s : State) :
    KeepsKilns s (l.foldl (fun s p =>
      if dieOfPe p.1 = die then (p.2.filter fun w => copy w && !s.begun die w.num).foldl (fun s w => s.dropWin p.1 w) s else s) s) := by
  refine KeepsKilns.foldl (fun s p => ?_) l s
  split
  · exact KeepsKilns.foldl (g := fun (s : State) (w : WinCfg) => s.dropWin p.1 w) (fun s w => .dropWin s p.1 w) _ s
  · exact .refl s

theorem invalidate_jobs (s : State) (die c : Nat) (addrs : List Nat) : (s.invalidate die c addrs).kiln.jobs = s.kiln.jobs := by
  unfold State.invalidate State.sweepStale
  simp only [(dropWindows_keeps ..).kiln]
  rfl

/-- No entry of the blocks that an invalidation leaves is current or pinned. -/
theorem invalidate_entries {s : State} {die c : Nat} {addrs : List Nat} {q : TcEntry} (h : q ∈ (s.invalidate die c addrs).kiln.entries)
    (hd : q.die = die) (hc : q.ctx = c) (ha : q.cfg.addr ∈ addrs) : q.stale = true ∧ q.pinned = false := by
  unfold State.invalidate State.sweepStale at h
  simp only [(dropWindows_keeps ..).kiln] at h
  obtain ⟨p, -, hq⟩ := List.mem_map.mp (List.mem_filter.mp h).1
  split at hq
  · subst hq
    exact ⟨rfl, rfl⟩
  · next hhit =>
    subst hq
    exact absurd (by simp [hd, hc, ha]) hhit

/-- A message stays in flight as later ones are sent. -/
theorem reply_net_of_lt {a : Agent} {cls : Nat} {t : Tok} {src : Src} (ds : List Dest) {s : State} {m : Nat} {e : Env} (hm : m < s.sched.serial)
    (h : s.net.get? m = some e) : (s.reply a cls ds t src).net.get? m = some e := by
  induction ds generalizing s with
  | nil => exact h
  | cons d ds ih =>
    refine ih (s := s.post a (.pe d.pe) cls (.reply d t src)) (Nat.lt_succ_of_lt hm) ?_
    rw [post_net, Tab.get?_put_ne (Nat.ne_of_lt hm)]
    exact h

/-- A reply sends a message to each of its destinations. -/
theorem reply_net {a : Agent} {cls : Nat} {t : Tok} {src : Src} {ds : List Dest} {d : Dest} (hd : d ∈ ds) (s : State) :
    ∃ m e, (s.reply a cls ds t src).net.get? m = some e ∧ e.dst = .pe d.pe ∧ e.body = .reply d t src := by
  induction ds generalizing s with
  | nil => cases hd
  | cons b ds ih =>
    rcases List.mem_cons.mp hd with rfl | hd
    · have hnet := congrArg (Tab.get? s.sched.serial) (post_net s a (.pe d.pe) cls (.reply d t src))
      rw [Tab.get?_put_same] at hnet
      exact ⟨_, _, reply_net_of_lt ds (s := s.post a (.pe d.pe) cls (.reply d t src)) (Nat.lt_succ_self _) hnet, rfl, rfl⟩
    · exact ih hd (s.post a (.pe b.pe) cls (.reply b t src))

theorem invalEvent_eq {s : State} {n die c job : Nat} {e : Env} {addrs : List Nat} (hm : s.msg? n = some e) (hf : s.first n e = true)
    (hb : e.body = .inval die addrs c job) :
    invalEvent n s = some (match s.kiln.jobs.get? job with
      | some j =>
        if j.left ≤ 1 then
          State.reply { (s.taken n).invalidate die c addrs with kiln := { ((s.taken n).invalidate die c addrs).kiln with jobs := s.kiln.jobs.del job } }
            (.die die) 1 (j.dests ++ j.sdests) zeroTok j.src
        else { (s.taken n).invalidate die c addrs with
               kiln := { ((s.taken n).invalidate die c addrs).kiln with jobs := s.kiln.jobs.put job { j with left := j.left - 1 } } }
      | none => (s.taken n).invalidate die c addrs) := by
  have hjobs : ((s.taken n).invalidate die c addrs).kiln.jobs = s.kiln.jobs := invalidate_jobs ..
  simp only [invalEvent, hm, hf, hb, Bool.not_true, Bool.false_eq_true, if_false, hjobs]
  cases s.kiln.jobs.get? job with
  | none => rfl
  | some j => simp only; split <;> rfl

/-! ### Samples (R458) -/

theorem sampleDue_eq {s : State} {c pe : Nat} {x : Ctx} {w : TraceCfg} (hx : s.ctx? c = some x) (hw : x.trace = some w) :
    s.sampleDue c pe = w.samples.find? fun q => q.pe == pe := by
  simp only [State.sampleDue, hx, Option.bind_some, hw]

theorem sampleEvent_eq {s : State} {c pe : Nat} {x : Ctx} {w : TraceCfg} {q : Sample} (hx : s.ctx? c = some x) (hw : x.trace = some w)
    (hq : s.sampleDue c pe = some q) :
    sampleEvent c pe s = some ((s.setCtx c { x with trace := some { w with samples := w.samples.erase q } }).traceRecord c q.cycle q.record) := by
  simp only [sampleEvent, hq, State.modCtx, hx, hw, Option.map_some, TraceCfg.without]

/-- The record of a sample, with the fields of the activation it names or zeros. -/
theorem sample_record (q : Sample) : q.record =
    { type := 1, cls := q.cls, detail := q.detail, src := q.src, pe := q.pe
      a := (q.src.bind fun k => k.iter).elim 0 fun i => (i % 2 ^ 64).toNat, b := q.src.elim 0 fun k => k.block } := by
  unfold Sample.record
  cases q.src with
  | none => rfl
  | some k =>
    cases hk : k.iter with
    | none => simp [hk]
    | some i => simp [hk, wrapNat]

theorem mem_dies {x : Ctx} {p : Nat} (hp : p < 2048) : p ∈ (x.dies.flatMap fun d => (List.range 256).map fun i => 256 * d + i) ↔ x.onDie (p / 256) = true := by
  simp only [Ctx.dies, List.mem_flatMap, List.mem_filter, List.mem_range, List.mem_map]
  constructor
  · rintro ⟨d, ⟨-, hd⟩, i, hi, rfl⟩
    rwa [show (256 * d + i) / 256 = d by omega]
  · exact fun h => ⟨p / 256, ⟨by omega, h⟩, p % 256, by omega, by omega⟩

theorem takeSamples_takes {s : State} {c : Nat} {x : Ctx} {w : TraceCfg} (hx : s.ctx? c = some x) (hw : x.trace = some w) (hk : w.k ≠ 0)
    (hc : s.sched.cycle % 2 ^ w.k = 0) :
    ∃ y v, (s.takeSamples c).ctx? c = some y ∧ y.trace = some v ∧ (∃ l, v.samples = w.samples ++ l) ∧
      ∀ p, x.onDie (p / 256) = true → p < 2048 → ((s.classify c p).cls ≠ 4 ∨ w.omitIdle = false) → ∃ q ∈ v.samples, q.pe = p ∧ q.cycle = s.sched.cycle ∧
        q.cls = (s.classify c p).cls ∧ q.detail = (s.classify c p).detail ∧ q.src = (s.classify c p).src.map Prod.fst := by
  have hcond : ¬ (w.k = 0 ∨ s.sched.cycle % 2 ^ w.k ≠ 0) := by simp [hk, hc]
  simp only [State.takeSamples, State.modCtx, hx, hw, hcond, if_false]
  refine ⟨_, _, ctx?_setCtx_same .., rfl, ⟨_, rfl⟩, fun p hd hp hcls => ?_⟩
  have htakes : ¬ ((s.classify c p).cls = 4 ∧ w.omitIdle = true) := by
    rcases hcls with h | h <;> simp [h]
  exact ⟨_, List.mem_append_right _ (List.mem_filterMap.mpr ⟨p, (mem_dies hp).mpr hd, if_neg htakes⟩), rfl, rfl, rfl, rfl, rfl⟩

/-- Settles O50: each event is its equation, and what it leaves follows from what the state's operations keep. -/
theorem kilnEvents : Obligations.KilnEvents := by
  refine ⟨fun s pe addr k f e hun he => ?_, fun s pe addr a hun hw => ⟨fun hobj => ?_, fun n o e hobj he hty hit => ?_, fun n o x hobj he hx hf hr => ?_⟩,
    fun s d r hr => ⟨nextTranslation_spec hr, fun e he => ?_, fun o c he ho hp => ?_, fun o b he ho hp => ?_⟩,
    fun s n die c job e addrs hm hf hb => ?_, fun s c pe x w hx hw => ⟨fun q hq => ?_, fun hno => ?_, takeSamples_takes hx hw⟩⟩
  · have hload : configLoadEvent pe addr s = some (let s1 := (s.touchEntry e).setFrame k { f with cfg := { f.cfg with num := e.cfg.num } }
        if s1.inWindow pe e.cfg.num then s1 else s1.loadWindow pe f.ctx e.cfg e.tag1) := by
      simp only [configLoadEvent, State.reloadFrame, hun, dieOfPe, he]
      rfl
    exact ⟨_, congrArg (event _) hload, inWindow_of_load ..⟩
  · obtain ⟨-, -, -, hissue⟩ := wanting_spec hw
    refine ⟨_, congrArg (event _) (configLoad_noBlock hun hw hobj), fun x hx hrun => ?_⟩
    simp only [State.faultAct, hissue, if_true]
    obtain ⟨y, hy, hfaults⟩ := raise_faults (r := s.blockRecord a .noncodeBlock none 0)
      (s := s.mapQueue (fun b => b == a) fun b => { b with faulted := true, requested := false }) hx hrun
    exact ⟨y, _, hy, hfaults, rfl, rfl, rfl⟩
  · obtain ⟨hmem, -, -, -⟩ := wanting_spec hw
    have hs : suits a e.cfg.ty = true := by rcases hty with h | h <;> simp [suits, hit, h]
    refine ⟨_, congrArg (event _) (configLoad_loads hun hw hobj he hs), inWindow_of_load .., ?_⟩
    have hq : { a with cfg := some e.cfg } ∈ ((s.touchEntry e).mapQueue (fun b => b == a) fun b => { b with cfg := some e.cfg }).pe.queue :=
      mem_mapIf (g := fun b : Activation => { b with cfg := some e.cfg }) hmem (beq_self_eq_true a)
    split
    · exact hq
    · rw [(KeepsKilns.loadWindow ..).queue]
      exact hq
  · obtain ⟨r, hreqs, hrest⟩ := demand_reqs hx hf hr
    exact ⟨_, r, congrArg (event _) (configLoad_asks hun hw hobj he), hreqs, hrest⟩
  · have hevent : translateEvent d s = some (s.settleReq r e) := by simp only [translateEvent, hr, he]
    exact congrArg (event _) hevent
  · have hevent : translateEvent d s = some (s.cacheBlock r o c) := by simp only [translateEvent, hr, he, ho, hp]
    obtain ⟨e, hmem, hdie, hrest⟩ := cacheBlock_caches s r o c
    obtain ⟨-, hd, -⟩ := nextTranslation_spec hr
    exact ⟨_, e, congrArg (event _) hevent, hmem, hdie.trans hd, hrest⟩
  · have hevent : translateEvent d s =
        some (s.failReq r ((s.codeBytes r.ctx r.addr 4).bind fun l => h0Type (leNat l)) b.code b.idx 0) := by
      simp only [translateEvent, hr, he, ho, hp]
    exact ⟨_, congrArg (event _) hevent⟩
  · refine ⟨_, congrArg (event _) (invalEvent_eq hm hf hb), fun q hq hd hc ha => ?_, fun j hj => ⟨fun hleft => ?_, fun hleft d hd => ?_⟩⟩
    · refine invalidate_entries (s := s.taken n) ?_ hd hc ha
      cases hj : s.kiln.jobs.get? job with
      | none => simpa only [hj] using hq
      | some j =>
        simp only [hj] at hq
        split at hq
        · rwa [reply_kiln] at hq
        · exact hq
    · simp only [hj, Nat.not_le.mpr hleft, if_false]
      exact Tab.get?_put_same ..
    · simp only [hj, hleft, if_true]
      exact reply_net (List.mem_append_left _ hd) _
  · rw [sampleDue_eq hx hw] at hq
    have hpe : q.pe = pe := by simpa using List.find?_some hq
    refine ⟨List.mem_of_find?_eq_some hq, hpe, ?_⟩
    rw [← sampleDue_eq hx hw] at hq
    have hevent := sampleEvent_eq hx hw hq
    rw [sample_record, hpe] at hevent
    exact congrArg (event _) hevent
  · have hnone : s.sampleDue c pe = none := by
      rw [sampleDue_eq hx hw]
      exact List.find?_eq_none.mpr fun q hq => by simpa using hno q hq
    have hevent : sampleEvent c pe s = none := by simp only [sampleEvent, hnone]
    exact congrArg (event _) hevent

end Sys2Proof.Machine

/-! ## When an instruction fires (O1) -/

namespace Sys2Proof.Machine

/-- An instruction answers exactly when it fires, whichever unit runs it. -/
theorem exec_next_iff {i : Instr} (h : i.isEvent = false) (s : State) : (∃ t, exec i s = .next t) ↔ ∃ f, s.firing i = some f := by
  cases ho : i.ordered with
  | false =>
    obtain ⟨body, hexec⟩ := exec_fire i h ho
    rw [hexec, fire]
    cases s.firing i <;> simp
  | true =>
    obtain ⟨body, hexec⟩ := exec_fireInOrder i ho
    rw [hexec, fireInOrder]
    cases s.firing i <;> simp

theorem live_iff (fr : Frame) : fr.live = true ↔ fr.isOpen = true ∧ fr.failed = false := by simp [Frame.live]

end Sys2Proof.Machine

section
open Sys2Proof Sys2Proof.Machine

/-- Settles O1: `exec` answers exactly when `State.firing` does, and `firing_iff` says when that is. -/
theorem firingConditions : Obligations.FiringConditions := by
  unfold Obligations.FiringConditions
  intro i s h
  rw [exec_next_iff h, firing_iff]
  simp only [live_iff, and_assoc]

end

/-! ## Tokens passed on, and the steering instructions (O9) -/

namespace Sys2Proof.Machine

/-! ### The references of what is passed on (R161, R163) -/

theorem addRefs_cons (s : State) (t : Tok) (l : List Tok) : s.addRefs (t :: l) = (s.addRefs [t]).bind fun u => u.addRefs l := by
  by_cases h : t.kind = .tile
  · cases ht : s.addRef t.val <;> simp [State.addRefs, h, ht]
  · simp [State.addRefs, h]

/-- What an instruction sends beyond its operands takes a reference, and an operand that it does not pass on loses its own. -/
theorem settle_eq (s : State) (pe : Nat) (used sent : List Tok) :
    s.settle pe used sent = (s.addRefs (sent.diff used)).map fun u => u.dropToks pe (used.diff sent) := by
  induction sent generalizing s used with
  | nil => simp [State.settle, State.addRefs]
  | cons t l ih =>
    rw [State.settle, List.cons_diff, List.diff_cons]
    by_cases h : t ∈ used
    · simp [h, ih]
    · simp only [List.contains_iff_mem, h, if_false, List.erase_of_not_mem h, ih]
      rw [addRefs_cons s t (l.diff used)]
      cases s.addRefs [t] <;> rfl

theorem modFrame_tileOf (s : State) (k : Nat) (g : Frame → Frame) (h : Word) : (s.modFrame k g).tileOf h = s.tileOf h := by
  unfold State.modFrame
  split <;> rfl

theorem modFrame_setTile (s : State) (k : Nat) (g : Frame → Frame) (p n : Nat) (t : TileSlot) :
    (s.modFrame k g).setTile p n t = (s.setTile p n t).modFrame k g := by
  have hframe : (s.setTile p n t).frame? k = s.frame? k := rfl
  unfold State.modFrame
  rw [hframe]
  split <;> rfl

theorem modFrame_addRef (s : State) (k : Nat) (g : Frame → Frame) (h : Word) :
    (s.modFrame k g).addRef h = (s.addRef h).map fun u => u.modFrame k g := by
  unfold State.addRef
  rw [modFrame_tileOf]
  split
  · rfl
  · split
    · rfl
    · rw [modFrame_setTile]; rfl

theorem modFrame_addRefs (s : State) (k : Nat) (g : Frame → Frame) (l : List Tok) :
    (s.modFrame k g).addRefs l = (s.addRefs l).map fun u => u.modFrame k g := by
  induction l generalizing s with
  | nil => rfl
  | cons t l ih =>
    by_cases ht : t.kind = .tile
    · simp only [State.addRefs, ht, if_true, modFrame_addRef]
      cases s.addRef t.val with
      | none => rfl
      | some u => exact ih u
    · simpa only [State.addRefs, ht, if_false] using ih s

/-- References change no frame. -/
theorem addRefs_frame? {l : List Tok} {s t : State} (e : s.addRefs l = some t) (k : Nat) : t.frame? k = s.frame? k :=
  (addRefs_quiet (k := k + 1) e).others k (Nat.ne_of_lt (Nat.lt_succ_self k))

/-! ### An instruction that passes tokens on -/

/-- A body that answers tokens for T0 and T1 passes them on, or raises REFCOUNT where a count would pass its limit. -/
theorem passesFrom_of_ok {i : Instr} {s u : State} {f : Firing} {body : Body} {r0 r1 : Tok} (hexec : exec i s = fire i body s) (h : Fires i s f)
    (hb : body f s = .ok { st := u, t0 := some r0, t1 := some r1 }) (hf : ∃ fr, u.frame? f.key = some fr ∧ fr.outs = f.fr.outs)
    (hs : u.ctxs = s.ctxs) (hc : f.clear = true) : PassesFrom i s f u r0 r1 := by
  obtain ⟨hfire, hmis, hnull⟩ := h
  obtain ⟨fr, hfr, houts⟩ := hf
  set sent := (f.sent (some r0) (some r1)).filter fun t => t.kind == .tile with hsent
  have hend : exec i s = .next (match (u.markAt f.key f.idx .fired).settle f.pe (f.handles i) sent with
      | none => s.failAt f { code := .refcount }
      | some v => match v.sends f (some r0) (some r1) with
        | none => s.failAt f { code := .operand }
        | some w => w) := by
    rw [hexec]
    simp only [fire, hfire, State.issue, hmis, hnull, hb, State.conclude, State.finish, Bool.false_eq_true, if_false]
    rfl
  rw [settle_eq, State.markAt, modFrame_addRefs] at hend
  unfold PassesFrom
  simp only [← hsent, ← List.diff_eq_foldl]
  refine ⟨fun v hv => ?_, fun hv => ?_⟩
  · rw [hv] at hend
    have hmark : (v.modFrame f.key fun f' => { f'.emptied f.idx with stat := f'.stat.put f.idx .fired }).frame? f.key =
        some { fr.emptied f.idx with stat := fr.stat.put f.idx .fired } := by
      rw [modFrame_frame?, addRefs_frame? hv, hfr]; rfl
    refine hend.trans ?_
    have hslot : ((v.modFrame f.key fun f' => { f'.emptied f.idx with stat := f'.stat.put f.idx .fired }).dropToks f.pe
        ((f.handles i).diff sent)).slotOf f.fr.ctx = f.x.slot := by
      rw [slotOf_of_ctxs (s := s), slotOf_firing hfire]
      rw [dropToks_ctxs, modFrame_ctxs, addRefs_ctxs hv, hs]
    simp only [Option.map_some, sends_arrive _ f _ (some r0) (some r1) ((dropToks_frame? ..).trans hmark) hslot houts hc]
    rfl
  · rw [hv] at hend
    exact hend

/-- The same where the instruction has no other effect. -/
theorem passes_of_ok {i : Instr} {s : State} {f : Firing} {body : Body} {r0 r1 : Tok} (hexec : exec i s = fire i body s) (h : Fires i s f)
    (hb : body f s = .ok { st := s, t0 := some r0, t1 := some r1 }) (hc : f.clear = true) : Passes i s f r0 r1 :=
  passesFrom_of_ok hexec h hb (outs_same h.frame) rfl hc

/-- An instruction that sends one token that is no handle, and has no other effect. -/
theorem gives_of_send {i : Instr} {s : State} {f : Firing} {body : Body} {t : Tok} (hexec : exec i s = fire i body s) (h : Fires i s f)
    (hb : body f s = .ok (Done.send s t)) (ht : t.kind ≠ .tile) (hc : f.clear = true) : Gives i s f s (f.handles i) (some t) (some t) :=
  hexec.trans (fire_retire h hb rfl (.inr (by simpa [Done.send] using ht)) (outs_same h.frame) rfl hc)

/-- CONSTH puts its immediate above the low half of the operand (R100). -/
theorem consth_value (w : BitVec 32) (a : Word) : wordOf (w.toNat * 2 ^ 32 + a.toNat % 2 ^ 32) = w ++ BitVec.extractLsb' 0 32 a := by
  apply BitVec.eq_of_toNat_eq
  have hw := w.isLt
  have ha : a.toNat % 2 ^ 32 < 2 ^ 32 := Nat.mod_lt _ (by decide)
  rw [wordOf, BitVec.toNat_ofNat, BitVec.toNat_append, BitVec.extractLsb'_toNat, Nat.shiftRight_zero, ← Nat.shiftLeft_add_eq_or_of_lt ha,
    Nat.shiftLeft_eq, Nat.mod_eq_of_lt (by omega)]

end Sys2Proof.Machine

section
open Sys2Proof Sys2Proof.Machine

/-- Settles O9: each body answers its tokens at once; those that may be handles are passed on by `passes_of_ok`. -/
theorem steeringResults : Obligations.SteeringResults := by
  unfold Obligations.SteeringResults
  intro s f hc
  have hscalar : ∀ v, (scalarTok v).kind ≠ .tile := fun v => by simp [scalarTok]
  refine ⟨fun h w hf => ?_, fun h w hf => ?_, fun h w hf => ?_, fun h hf => ?_, fun h hf => ?_, fun h hf => ?_, fun h hf hb => ?_, fun h hf hb => ?_⟩
  · exact gives_of_send rfl hf rfl (hscalar _) hc
  · exact gives_of_send rfl hf rfl (hscalar _) hc
  · have hbody : consthBody w f s = .ok (Done.scalar s (w ++ BitVec.extractLsb' 0 32 f.a.val)) :=
      congrArg (fun v => Except.ok (Done.scalar s v)) (consth_value w f.a.val)
    exact gives_of_send rfl hf hbody (hscalar _) hc
  · exact gives_of_send rfl hf rfl (by simp [nullTok]) hc
  · exact passes_of_ok rfl hf rfl hc
  · exact passes_of_ok rfl hf rfl hc
  · exact passes_of_ok rfl hf (if_pos hb) hc
  · exact passes_of_ok rfl hf (if_neg (ne_true_of_eq_false hb)) hc

end

/-! ## What the branch-class instructions refuse (O11) -/

namespace Sys2Proof.Machine

/-! ### Checks of a branch target (R66, R105) -/

section
variable {f : Firing} {s : State} {open_ : Bool} {tgt : Nat} {ty : BlockTy}

theorem check_ok (h : (open_ && f.fr.cfg.hasIrrevocable) = true ∨ s.checkBlock f.die f.fr.ctx f.fr.cfg.addr tgt ty = true) :
    f.check s open_ tgt ty = .ok () := if_pos (by simpa using h)

theorem check_fails (hi : (open_ && f.fr.cfg.hasIrrevocable) = false) (h : s.checkBlock f.die f.fr.ctx f.fr.cfg.addr tgt ty = false) :
    f.check s open_ tgt ty = failWith .noncodeBlock := if_neg (by simp [hi, h])

end

/-! ### Bodies of branches (R86, R105) -/

section
variable {f : Firing} {s : State} {target : Firing → State → Except Stop Branch}

theorem branchBody_count {b : Branch} (ht : target f s = .ok b) (hb : f.fr.branch.isSome = true) : branchBody target f s = failWith .branchCount := by
  simp only [branchBody, ht, hb, bind, Except.bind, if_true]

theorem branchBody_of_target {c : Code} (ht : target f s = failWith c) : branchBody target f s = failWith c := by
  simp only [branchBody, ht, failWith, bind, Except.bind]

end

section
variable {f : Firing} {s : State}

theorem brTarget_ok {w : BitVec 32}
    (h : f.fr.cfg.hasIrrevocable = true ∨ s.checkBlock f.die f.fr.ctx f.fr.cfg.addr (branchTarget f.fr.cfg.addr w) f.fr.cfg.ty = true) :
    brTarget w f s = .ok (.goto (branchTarget f.fr.cfg.addr w)) := by
  simp only [brTarget, check_ok (open_ := true) (by simpa using h), bind, Except.bind]

theorem brTarget_fails {w : BitVec 32} (hi : f.fr.cfg.hasIrrevocable = false)
    (h : s.checkBlock f.die f.fr.ctx f.fr.cfg.addr (branchTarget f.fr.cfg.addr w) f.fr.cfg.ty = false) : brTarget w f s = failWith .noncodeBlock := by
  simp only [brTarget, check_fails (open_ := true) (by simpa using hi) h, failWith, bind, Except.bind]

theorem briTarget_ok (h : s.checkBlock f.die f.fr.ctx f.fr.cfg.addr f.a.val.toNat f.fr.cfg.ty = true) :
    briTarget f s = .ok (.goto f.a.val.toNat) := by
  simp only [briTarget, check_ok (.inr h), bind, Except.bind]

theorem briTarget_fails (h : s.checkBlock f.die f.fr.ctx f.fr.cfg.addr f.a.val.toNat f.fr.cfg.ty = false) : briTarget f s = failWith .noncodeBlock := by
  simp only [briTarget, check_fails (open_ := false) rfl h, failWith, bind, Except.bind]

theorem retTarget_ok {r : Nat} {rest : List Nat} (hst : f.stack s = r :: rest)
    (h : s.checkBlock f.die f.fr.ctx f.fr.cfg.addr r .code = true) : retTarget f s = .ok (.ret r) := by
  simp only [retTarget, hst, check_ok (.inr h), bind, Except.bind]

theorem retTarget_fails {r : Nat} {rest : List Nat} (hst : f.stack s = r :: rest)
    (h : s.checkBlock f.die f.fr.ctx f.fr.cfg.addr r .code = false) : retTarget f s = failWith .noncodeBlock := by
  simp only [retTarget, hst, check_fails (open_ := false) rfl h, failWith, bind, Except.bind]

theorem retTarget_empty (hst : f.stack s = []) : retTarget f s = failWith .operand := by
  simp only [retTarget, hst]

/-! ### Calls (R105) -/

section
variable {open_ : Bool} {tgt : Nat}

/-- A call whose block was checked as its frame opened, or whose target, return and stack are as they must be. -/
theorem callTo_ok {r : Nat} (hr : s.nextBlock f.fr.ctx f.fr.cfg.addr = some r)
    (h : (open_ && f.fr.cfg.hasIrrevocable) = true ∨
      (s.checkBlock f.die f.fr.ctx f.fr.cfg.addr tgt .code = true ∧ s.checkBlock f.die f.fr.ctx f.fr.cfg.addr r .code = true ∧ (f.stack s).length ≠ 32)) :
    callTo open_ tgt f s = .ok (.call tgt r) := by
  have htgt := check_ok (f := f) (s := s) (tgt := tgt) (ty := .code) (h.imp_right And.left)
  have hret := check_ok (f := f) (s := s) (tgt := r) (ty := .code) (h.imp_right fun p => p.2.1)
  have hroom : (!(open_ && f.fr.cfg.hasIrrevocable) && (f.stack s).length == 32) = false := by
    rcases h with h | ⟨-, -, h⟩ <;> simp [h]
  simp only [callTo, htgt, hret, hr, hroom, bind, Except.bind, Bool.false_eq_true, if_false]

variable (hi : (open_ && f.fr.cfg.hasIrrevocable) = false)
include hi

theorem callTo_noBlock (h : s.checkBlock f.die f.fr.ctx f.fr.cfg.addr tgt .code = false) : callTo open_ tgt f s = failWith .noncodeBlock := by
  simp only [callTo, check_fails hi h, failWith, bind, Except.bind]

variable (h : s.checkBlock f.die f.fr.ctx f.fr.cfg.addr tgt .code = true)
include h

theorem callTo_full (hfull : (f.stack s).length = 32) : callTo open_ tgt f s = failWith .operand := by
  simp only [callTo, check_ok (.inr h), hi, hfull, failWith, bind, Except.bind, Bool.not_false, Bool.true_and, beq_self_eq_true, if_true]

theorem callTo_noReturn (hroom : (f.stack s).length ≠ 32)
    (hr : ∀ r, s.nextBlock f.fr.ctx f.fr.cfg.addr = some r → s.checkBlock f.die f.fr.ctx f.fr.cfg.addr r .code = false) :
    callTo open_ tgt f s = failWith .noncodeBlock := by
  have hlen : ((f.stack s).length == 32) = false := by simpa using hroom
  simp only [callTo, check_ok (.inr h), hi, hlen, bind, Except.bind, Bool.not_false, Bool.true_and, Bool.false_eq_true, if_false]
  cases hn : s.nextBlock f.fr.ctx f.fr.cfg.addr with
  | none => rfl
  | some r => simp only [check_fails hi (hr r hn), failWith]

end

end

end Sys2Proof.Machine

section
open Sys2Proof Sys2Proof.Machine

/-- Settles O11: what each target function answers decides what `branchBody` raises. -/
theorem branchFaults : Obligations.BranchFaults := by
  unfold Obligations.BranchFaults
  intro s f h w
  simp only [Bool.not_eq_true]
  have count {i : Instr} {target : Firing → State → Except Stop Branch} {b : Branch} (hexec : exec i s = fire i (branchBody target) s)
      (hb : f.fr.branch.isSome = true) (hf : Fires i s f) (ht : target f s = .ok b) : Raises i s f .branchCount 0 :=
    raises_of_fault hexec hf (branchBody_count ht hb)
  have refuses {i : Instr} {target : Firing → State → Except Stop Branch} {c : Code} (hexec : exec i s = fire i (branchBody target) s)
      (hf : Fires i s f) (ht : target f s = failWith c) : Raises i s f c 0 :=
    raises_of_fault hexec hf (branchBody_of_target ht)
  refine ⟨fun hb => ⟨?_, ?_, ?_, ?_, ?_, ?_, ?_, ?_⟩, ?_, ?_, ?_, ?_, ?_, ?_, ?_, ?_⟩
  · exact fun hf => count rfl hb hf rfl
  · exact fun hf => count rfl hb hf rfl
  · intro hf
    have hbody : lbreakBody f s = failWith .branchCount := by
      simp only [lbreakBody, branchBody_count (target := fun _ _ => .ok .lbreak) rfl hb, failWith, bind, Except.bind]
    exact raises_of_fault rfl hf hbody
  · exact fun hf hok => count rfl hb hf (brTarget_ok hok)
  · exact fun hf hok => count rfl hb hf (briTarget_ok hok)
  · exact fun r hf hr hok => count rfl hb hf (callTo_ok hr (hok.imp_left fun hi => by simpa using hi))
  · exact fun r hf hr htgt hret hroom => count rfl hb hf (callTo_ok hr (.inr ⟨htgt, hret, hroom⟩))
  · exact fun r rest hf hst hok => count rfl hb hf (retTarget_ok hst hok)
  · exact fun hf hi hok => refuses rfl hf (brTarget_fails hi hok)
  · exact fun hf hi => ⟨fun hok => refuses rfl hf (callTo_noBlock (by simpa using hi) hok),
      fun hok hfull => refuses rfl hf (callTo_full (by simpa using hi) hok hfull),
      fun hok hroom hr => refuses rfl hf (callTo_noReturn (by simpa using hi) hok hroom hr)⟩
  · exact fun r rest hf hst hok => refuses rfl hf (retTarget_fails hst hok)
  · exact fun hf hok => refuses rfl hf (briTarget_fails hok)
  · exact fun hf hok => refuses rfl hf (callTo_noBlock rfl hok)
  · exact fun hf hst => refuses rfl hf (retTarget_empty hst)
  · exact fun hf hok hfull => refuses rfl hf (callTo_full rfl hok hfull)
  · exact fun hf hok hroom hr => refuses rfl hf (callTo_noReturn rfl hok hroom hr)

end

/-! ## Frames of instructions (O57) -/

namespace Sys2Proof.Machine

/-- ACEXPECT without targets (R284). -/
def bareAcexpect : Instr := .acexpect lbreakHdr

/-- ACEXPECT about to fire with scalar operands, of an activation that is pending on accumulator 0 of its PE (R189). -/
def pendingExpect : State :=
  let s := (State.reset.withFetchWord 32 0x6C040000).modFrame 0 fun fr => { fr with slots := [(0, scalarTok 0), (1, scalarTok 1)] }
  let v : AccVal := { elems := [], int := false, flags := 0 }
  { s with pe := { s.pe with accs := [(0, { val := v, claim := none, last := none, shadow := some (1, v), spill := none })] } }

/-- Which accumulators have a shadow after a step. -/
def shadowed : Host.Outcome State Fault Refusal → List Bool
  | .next t => t.pe.accs.map fun p => p.2.shadow.isSome
  | _ => []

/-- No page fault is met. -/
def leavesEntries : Host.Outcome State Fault Refusal → Bool
  | .next t => decide (t.mem.entries = [])
  | _ => false

theorem pendingExpect_shadowed : shadowed (exec bareAcexpect pendingExpect) = [false] := by decide +kernel

theorem pendingExpect_entries : leavesEntries (exec bareAcexpect pendingExpect) = true := by decide +kernel

end Sys2Proof.Machine

section
open Sys2Proof Sys2Proof.Machine
/-- Refutes O57: an irrevocable instruction that performs drops the shadows of its activation (R189), and so changes the accumulators
that the statement says are kept; here ACEXPECT, whose activation is pending on an accumulator. -/
theorem not_instructionFrames : ¬ Obligations.InstructionFrames := by
  intro h
  obtain ⟨-, -, hunits, -⟩ := h
  have hshadow := pendingExpect_shadowed
  have hentries := pendingExpect_entries
  cases hgo : exec bareAcexpect pendingExpect with
  | next t =>
    rw [hgo] at hshadow hentries
    have hkeeps := hunits pendingExpect t lbreakHdr .add ⟨0, 0, false, .pkg, 0⟩ ⟨false, .die⟩ ⟨false, 0, false, .die, 0, 0⟩ ⟨false, 0⟩ ⟨0, 0, 0, 0, false, 0⟩
      ⟨0, 0⟩ 0 bareAcexpect (by simp [bareAcexpect]) hgo (of_decide_eq_true hentries)
    obtain ⟨-, haccs, -⟩ := hkeeps
    simp only [shadowed, haccs] at hshadow
    revert hshadow
    decide +kernel
  | _ => simp [hgo, shadowed] at hshadow
end

/-! ## Faults (O49) -/

namespace Sys2Proof.Machine

/-- ACEXPECT with a handle of a tile of PE 1 as operand a: it raises TOKEN_KIND. The contexts 2 and 1 share a slot, and context 2 is listed
first: no context creation gives either (R413), but nothing in a state forbids it. -/
def unlisted : State :=
  let s := (State.reset.withFetchWord 32 0x6C040000).modFrame 0 fun fr =>
    { fr with slots := [(0, { kind := .tile, val := handleOf 1 0 0 0 0 0 }), (1, scalarTok 1)] }
  { s with ctxs := [(2, wordCtx 0), (1, wordCtx 0)] }

/-- Its firing. -/
def unlistedFiring : Firing := (unlisted.firing bareAcexpect).get (by decide +kernel)

/-- The fault, which releases its operands. -/
def wrongKind : Fail := { code := .tokenKind }

/-- The contexts that a state's messages in flight work for. -/
def State.carriedFor (s : State) : List Nat := s.net.map fun p => p.2.ctx

/-- The release is charged to context 1, as recording the fault lists that first. -/
theorem unlisted_failAt_carriedFor : (unlisted.failAt unlistedFiring wrongKind).carriedFor = [1] := by decide +kernel

theorem unlisted_dropToks_carriedFor :
    (if wrongKind.releases then unlisted.dropToks unlistedFiring.pe (unlistedFiring.fr.heldAt unlistedFiring.idx) else unlisted).carriedFor = [2] := by
  decide +kernel

end Sys2Proof.Machine

section
open Sys2Proof Sys2Proof.Machine
/-- Refutes O49: where two contexts hold one slot and the later of them is listed first, recording a fault changes which of them a released
handle is found to be of, and so the message in flight is not that of the state before the fault. -/
theorem not_faultsAndHalts : ¬ Obligations.FaultsAndHalts := by
  intro h
  obtain ⟨hfault, -⟩ := h
  have hrunning : (wordCtx 0).state = .running := by decide +kernel
  obtain ⟨_, _, _, -, -, -, -, -, -, -, -, -, -, -, -, -, -, -, -, -, -, hnet, -⟩ :=
    hfault unlisted unlistedFiring wrongKind _ (wordCtx 0) (Option.some_get (by decide +kernel)).symm (by decide +kernel) hrunning
  have hfor := congrArg (fun n => n.map fun p : Nat × Env => p.2.ctx) hnet
  have hcontra := unlisted_failAt_carriedFor.symm.trans (hfor.trans unlisted_dropToks_carriedFor)
  exact absurd hcontra (by decide)
end

/-! ## Walks and forwarding (O27) -/

namespace Sys2Proof.Machine

/-! ### The translation tables are all that a fill changes (R222) -/

theorem tlbInsert_eq (s : State) (cap unit asid va size pte : Nat) :
    ∃ l, s.tlbInsert cap unit asid va size pte = { s with mem := { s.mem with tlb := l } } := ⟨_, rfl⟩

theorem tlbFill_eq (s : State) (x : Ctx) (pe va : Nat) : ∃ l, s.tlbFill x pe va = { s with mem := { s.mem with tlb := l } } := by
  unfold State.tlbFill
  split
  · exact ⟨s.mem.tlb, rfl⟩
  next pte level _ =>
    obtain ⟨l, hl⟩ := tlbInsert_eq s Config.dieTlb (2048 + dieOfPe pe) x.asid va (levelSize level) pte
    dsimp only
    rw [hl]
    split <;> split
    · exact ⟨s.mem.tlb, rfl⟩
    · exact ⟨_, rfl⟩
    · exact ⟨l, rfl⟩
    · exact ⟨_, rfl⟩

theorem fillTables_eq (s : State) (c pe : Nat) (cells : List (Nat × Nat)) :
    ∃ l, s.fillTables c pe cells = { s with mem := { s.mem with tlb := l } } := by
  unfold State.fillTables
  split
  · exact ⟨s.mem.tlb, rfl⟩
  next x hx =>
    clear hx
    generalize (cells.map fun p => p.1 / 65536).eraseDups = pages
    induction pages generalizing s with
    | nil => exact ⟨s.mem.tlb, rfl⟩
    | cons p pages ih =>
      obtain ⟨l, hl⟩ := tlbFill_eq s x pe (p * 65536 % 2 ^ 57)
      obtain ⟨l', hl'⟩ := ih (s.tlbFill x pe (p * 65536 % 2 ^ 57))
      exact ⟨l', hl'.trans (by rw [hl])⟩

@[simp] theorem fillTables_accesses (s : State) (c pe : Nat) (cells : List (Nat × Nat)) :
    (s.fillTables c pe cells).mem.accesses = s.mem.accesses := by
  obtain ⟨l, hl⟩ := fillTables_eq s c pe cells
  rw [hl]

@[simp] theorem fillTables_sched (s : State) (c pe : Nat) (cells : List (Nat × Nat)) : (s.fillTables c pe cells).sched = s.sched := by
  obtain ⟨l, hl⟩ := fillTables_eq s c pe cells
  rw [hl]

@[simp] theorem fillTables_pe (s : State) (c pe : Nat) (cells : List (Nat × Nat)) : (s.fillTables c pe cells).pe = s.pe := by
  obtain ⟨l, hl⟩ := fillTables_eq s c pe cells
  rw [hl]

theorem frameOf_congr {s t : State} (h : t.pe = s.pe) (pe frame uid : Nat) : t.frameOf pe frame uid = s.frameOf pe frame uid := by
  simp [State.frameOf, State.frame?, h]

/-! ### A walk that passes -/

theorem piecesOf_not_done {cells : List (Nat × Nat)} (h : cells ≠ []) : (piecesOf cells).all (fun p => p.done) = false := by
  cases cells with
  | nil => exact absurd rfl h
  | cons c t => simp [piecesOf, List.eraseDups_cons]

theorem settleAccess_gone {s : State} {n : Nat} (h : s.mem.accesses.get? n = none) (home : Agent) : s.settleAccess n home = s := by
  simp [State.settleAccess, h]

theorem settleAccess_pending {s : State} {n : Nat} {a : Access} (h : s.mem.accesses.get? n = some a)
    (hp : a.pieces.all (fun p => p.done) = false) (home : Agent) : s.settleAccess n home = s := by
  simp only [State.settleAccess, h, hp, Bool.and_false]
  rfl

theorem exec_translationWalk {s t : State} {n : Nat} {a : Access} (ha : s.mem.accesses.get? n = some a) (hw : s.walkEvent n = some t) :
    exec (.translationWalk n) s = .next (t.settleAccess n (.pe a.src.pe)) := by
  simp [exec, execTranslationWalk, event, walkDoneEvent, hw, ha]

theorem storeTranslated_accesses (s : State) (a : Access) (cells : List (Nat × Nat)) (refused : List Nat) :
    (s.storeTranslated a cells refused).mem.accesses = s.mem.accesses := by
  unfold State.storeTranslated
  split <;> rfl

/-- A store's address that passed translation is in its frame (R88). -/
theorem storeTranslated_stores {s : State} {a : Access} {fr : Frame} (h : s.frameOf a.src.pe a.src.frame a.src.uid = some fr)
    (cells : List (Nat × Nat)) (refused : List Nat) :
    ∃ g, (s.storeTranslated a cells refused).frame? (frameKey a.src.pe a.src.frame) = some g ∧
      ∀ r ∈ g.stores, r.idx = a.src.idx → r.translated = true ∧ r.refused = refused ∧ r.phys = cells := by
  simp only [State.storeTranslated, h]
  refine ⟨_, setFrame_frame?_same .., fun r hr hidx => ?_⟩
  obtain ⟨q, -, hq⟩ := List.mem_map.mp hr
  by_cases hqi : (q.idx == a.src.idx) = true
  · rw [if_pos hqi] at hq
    subst hq
    exact ⟨rfl, rfl, rfl⟩
  · rw [if_neg hqi] at hq
    subst hq
    simp [hidx] at hqi

theorem walkAccess_check {s : State} {n : Nat} {a : Access} {buf : List Byte} {cells all : List (Nat × Nat)} {refused : List Nat}
    (hx : s.xlCells a.src.ctx a.src.pe a.need a.cells = .ok all refused) (hc : a.purpose.isCheck = true) :
    s.walkAccess n a buf cells = ((s.fillTables a.src.ctx a.src.pe a.cells).delAccess n).storeTranslated a all refused := by
  simp [State.walkAccess, hx, hc]

/-- An access after a walk that left it the given cells. -/
def Access.walked (a : Access) (s : State) (buf : List Byte) (rest : List (Nat × Nat)) (refused : List Nat) : Access :=
  { a with state := .active, buf := buf, pieces := piecesOf rest, refused := refused, extra := [], issued := s.sched.serial
           prior := if a.write then [] else s.priorTo a }

theorem walkAccess_pieces {s : State} {n : Nat} {a : Access} {buf : List Byte} {cells all : List (Nat × Nat)} {refused : List Nat}
    (hx : s.xlCells a.src.ctx a.src.pe a.need a.cells = .ok all refused) (hc : a.purpose.isCheck = false) (he : a.extra = []) :
    let u := s.fillTables a.src.ctx a.src.pe a.cells
    s.walkAccess n a buf cells = (u.setAccess n (a.walked u buf (all.filter fun c => cells.any fun d => d.2 == c.2) refused)).bump := by
  simp [State.walkAccess, hx, hc, State.sendExtra, he, Access.walked]

section
variable {s : State} {n : Nat} {a : Access} (ha : s.mem.accesses.get? n = some a) (hh : s.copyHeld a = false) (hx : a.purpose.isCtx = false)
include ha hh hx

theorem walkEvent_walk (hs : a.state = .walk) : s.walkEvent n = some (s.walkAccess n a a.buf a.cells) := by
  simp [State.walkEvent, ha, hh, hx, hs]

/-- A load walks once the stores below it are known, with what it takes of them: those of its Open activation, or those kept with it. -/
theorem walkEvent_lsid {stores : List StoreRec} {buf : List Byte} {left : List (Nat × Nat)} (hs : a.state = .lsid)
    (hst : (∃ fr, s.frameOf a.src.pe a.src.frame a.src.uid = some fr ∧ fr.isOpen = true ∧ s.storesKnown fr a.lsid = true ∧ fr.stores = stores) ∨
      ((∀ fr, s.frameOf a.src.pe a.src.frame a.src.uid = some fr → fr.isOpen = false) ∧ a.fwd = stores))
    (hf : forwardAll stores a.lsid a.buf a.cells = some (buf, left)) : s.walkEvent n = some (s.walkAccess n a buf left) := by
  simp only [State.walkEvent, ha, hh, hx, hs]
  rcases hst with ⟨fr, hfr, hopen, hknown, rfl⟩ | ⟨hclosed, rfl⟩
  · simp [hfr, hopen, hknown, hf]
  · cases hfr : s.frameOf a.src.pe a.src.frame a.src.uid with
    | none => simp [hf]
    | some fr => simp [hclosed fr hfr, hf]

end

/-! ### Forwarding (R237) -/

theorem forward_memory {stores : List StoreRec} {lsid va : Nat}
    (h : ∀ r ∈ stores, r.lsid < lsid → r.dropped = false → ∀ c ∈ r.cells, c.1 ≠ va) : forward stores lsid va = .memory := by
  have hnone : stores.filter (fun r => decide (r.lsid < lsid) && !r.dropped && r.cells.any fun c => c.1 == va) = [] := by
    rw [List.filter_eq_nil_iff]
    intro r hr hw
    simp only [Bool.and_eq_true, decide_eq_true_eq, Bool.not_eq_true', List.any_eq_true, beq_iff_eq] at hw
    obtain ⟨⟨hl, hd⟩, c, hc, hv⟩ := hw
    exact h r hr hl hd c hc hv
  simp [forward, writersOf, hnone]

theorem foldl_max_le {l : List StoreRec} {m n : Nat} (hm : m ≤ n) (h : ∀ r ∈ l, r.lsid ≤ n) : l.foldl (fun m r => max m r.lsid) m ≤ n := by
  induction l generalizing m with
  | nil => exact hm
  | cons r l ih => exact ih (max_le hm (h r (by simp))) fun q hq => h q (by simp [hq])

theorem le_foldl_max (l : List StoreRec) (m : Nat) : m ≤ l.foldl (fun m r => max m r.lsid) m ∧ ∀ r ∈ l, r.lsid ≤ l.foldl (fun m r => max m r.lsid) m := by
  induction l generalizing m with
  | nil => simp
  | cons r l ih =>
    obtain ⟨h0, hl⟩ := ih (max m r.lsid)
    refine ⟨(Nat.le_max_left ..).trans h0, fun q hq => ?_⟩
    rcases List.mem_cons.mp hq with rfl | hq
    · exact (Nat.le_max_right ..).trans h0
    · exact hl q hq

/-- Where one store is above all others that write the byte, it alone is the writer. -/
theorem mem_writersOf_iff {stores : List StoreRec} {lsid va : Nat} {r : StoreRec} (hr : r ∈ stores) (hl : r.lsid < lsid) (hd : r.dropped = false)
    (hv : ∃ c ∈ r.cells, c.1 = va)
    (htop : ∀ q ∈ stores, q ≠ r → q.dropped = false → q.lsid < lsid → (∃ c ∈ q.cells, c.1 = va) → q.lsid < r.lsid) (q : StoreRec) :
    q ∈ writersOf stores lsid va ↔ q = r := by
  unfold writersOf
  set l := stores.filter fun r => decide (r.lsid < lsid) && !r.dropped && r.cells.any fun c => c.1 == va with hdef
  have hmem : ∀ q, q ∈ l ↔ q ∈ stores ∧ q.lsid < lsid ∧ q.dropped = false ∧ ∃ c ∈ q.cells, c.1 = va := fun q => by
    simp [hdef, List.mem_filter, and_assoc]
  have hrl : r ∈ l := (hmem r).mpr ⟨hr, hl, hd, hv⟩
  have hlow : ∀ q ∈ l, q ≠ r → q.lsid < r.lsid := fun q hq hne => by
    obtain ⟨hqs, hql, hqd, hqv⟩ := (hmem q).mp hq
    exact htop q hqs hne hqd hql hqv
  have hmax : l.foldl (fun m r => max m r.lsid) 0 = r.lsid := by
    refine Nat.le_antisymm (foldl_max_le (Nat.zero_le _) fun q hq => ?_) ((le_foldl_max l 0).2 r hrl)
    by_cases hne : q = r
    · rw [hne]
    · exact (hlow q hq hne).le
  simp only [List.mem_filter, hmax, beq_iff_eq]
  constructor
  · rintro ⟨hq, heq⟩
    by_contra hne
    exact absurd heq (hlow q hq hne).ne
  · rintro rfl
    exact ⟨hrl, rfl⟩

theorem findSome?_of_forall_eq {α β : Type} {g : α → Option β} {l : List α} {a : α} {b : β} (ha : a ∈ l) (h : ∀ x ∈ l, x = a) (hg : g a = some b) :
    l.findSome? g = some b := by
  cases l with
  | nil => simp at ha
  | cons x l =>
    obtain rfl := h x (by simp)
    simp [hg]

theorem forward_byte {stores : List StoreRec} {lsid va i : Nat} {r : StoreRec} {d : List Byte} {b : Byte} (hr : r ∈ stores) (hl : r.lsid < lsid)
    (hd : r.dropped = false) (hdata : r.data = some d) (hcells : r.cells = [(va, i)]) (hb : d[i]? = some b)
    (htop : ∀ q ∈ stores, q ≠ r → q.dropped = false → q.lsid < lsid → (∃ c ∈ q.cells, c.1 = va) → q.lsid < r.lsid) :
    forward stores lsid va = .byte b := by
  have hw := mem_writersOf_iff hr hl hd ⟨(va, i), by simp [hcells]⟩ htop
  have hbyte : r.byteAt va = some b := by simp [StoreRec.byteAt, hdata, hcells, nthD, hb]
  have hne : (writersOf stores lsid va).isEmpty = false := by
    cases h : writersOf stores lsid va with
    | nil => simp [h] at hw
    | cons => rfl
  have hhas : (writersOf stores lsid va).any (fun q => q.data.isNone) = false := by
    rw [List.any_eq_false]
    intro q hq
    rw [(hw q).mp hq, hdata]
    simp
  have hfind : (writersOf stores lsid va).findSome? (fun q => q.byteAt va) = some b :=
    findSome?_of_forall_eq ((hw r).mpr rfl) (fun q hq => (hw q).mp hq) hbyte
  simp [forward, hne, hhas, hfind]

end Sys2Proof.Machine

section
open Sys2Proof Sys2Proof.Machine
/-- Settles O27: a walk that passes changes the translation tables, the access and, for a held store's, the records of its frame. -/
theorem walkAndForwarding : Obligations.WalkAndForwarding := by
  refine ⟨fun s n a cells refused ha hsorted hheld hctx hx _ => ⟨fun hcheck hstate => ?_, fun buf left stores hcheck hstate hextra hst hfwd hrest => ?_⟩,
    fun _ _ _ h => forward_memory h, fun _ _ _ _ _ _ _ hr hl hd hdata hcells hb htop => forward_byte hr hl hd hdata hcells hb htop⟩
  · have hwalk := (walkEvent_walk ha hheld hctx hstate).trans (congrArg some (walkAccess_check hx hcheck))
    have hgone : (((s.fillTables a.src.ctx a.src.pe a.cells).delAccess n).storeTranslated a cells refused).mem.accesses.get? n = none := by
      rw [storeTranslated_accesses]
      exact Tab.get?_del_same n (by rw [fillTables_accesses]; exact hsorted)
    refine ⟨_, exec_translationWalk ha hwalk, ?_⟩
    rw [settleAccess_gone hgone]
    have hpe : ((s.fillTables a.src.ctx a.src.pe a.cells).delAccess n).pe = s.pe := fillTables_pe ..
    exact ⟨hgone, fun fr hfr => storeTranslated_stores ((frameOf_congr hpe ..).trans hfr) _ _⟩
  · have hwalk := (walkEvent_lsid ha hheld hctx hstate hst hfwd).trans (congrArg some (walkAccess_pieces hx hcheck hextra))
    refine ⟨_, a.walked (s.fillTables a.src.ctx a.src.pe a.cells) buf (cells.filter fun c => left.any fun d => d.2 == c.2) refused,
      exec_translationWalk ha hwalk, ?_⟩
    rw [settleAccess_pending (Tab.get?_put_same ..) (piecesOf_not_done hrest)]
    exact ⟨Tab.get?_put_same .., rfl, by simp [Access.walked], by simp [State.bump, State.setAccess], rfl, rfl, rfl, rfl, rfl⟩
end

/-! ## LOOP and CARRY (O12) -/

namespace Sys2Proof.Machine

/-! ### What keeping an activation leaves (R87, R189) -/

theorem keep_frame? {s : State} {key : Nat} {fr : Frame} (h : s.frame? key = some fr) (g : Frame → Frame) :
    (s.keep key g).frame? key = some (g fr) := by
  simp only [State.keep, h]
  exact setFrame_frame?_same s key (g fr)

theorem keep_ctxs (s : State) (key : Nat) (g : Frame → Frame) : (s.keep key g).ctxs = s.ctxs := by
  unfold State.keep
  split <;> rfl

/-! ### LOOP (R92, R93, R106) -/

/-- The sequencer that a LOOP starts, of a body and with a carry. -/
def Firing.startLoop (f : Firing) (w : LoopW) (body : Nat) (carry : Tok) : Loop :=
  { frame := f.key % 256, uid := f.fr.uid, idx := f.idx, body := body, first := f.a.val.toInt, sent := [], next := f.a.val.toInt
    stop := f.b.val.toInt, step := w.step.toInt, k := w.k.toNat + 1, started := [], committed := 0, carry := carry, carries := [], brk := none
    limit := f.a.val.toInt, paused := [], fin := false }

section
variable {s : State} {f : Firing} {w : LoopW} {t : Task} (ht : s.task? f.pe f.fr.task = some t)
include ht

theorem loopBody_noBody (h : ∀ body, s.nextBlock f.fr.ctx f.fr.cfg.addr = some body → s.typeAt f.die f.fr.ctx body ≠ some .loop) :
    loopBody w f s = failWith .noncodeBlock := by
  cases hn : s.nextBlock f.fr.ctx f.fr.cfg.addr with
  | none => simp [loopBody, ht, hn]
  | some body => simp [loopBody, ht, hn, h body hn]

variable {body : Nat} (hn : s.nextBlock f.fr.ctx f.fr.cfg.addr = some body) (hty : s.typeAt f.die f.fr.ctx body = some .loop)
include hn hty

theorem loopBody_operand (h : w.step = 0 ∨ (w.cin ≠ 0 ∧ t.nregs ≤ w.cin.toNat)) : loopBody w f s = failWith .operand := by
  have hbad : (w.step == 0 || decide (t.nregs ≤ w.cin.toNat && w.cin != 0)) = true := by
    rcases h with h | ⟨h0, hr⟩
    · simp [h]
    · rw [Bool.or_eq_true]
      exact .inr (by simpa using ⟨hr, h0⟩)
  simp only [loopBody, ht, hn, hty, hbad, beq_self_eq_true, Bool.not_true, Bool.false_eq_true, if_false, if_true]

variable (hstep : w.step ≠ 0) (hcin : w.cin = 0 ∨ w.cin.toNat < t.nregs)
include hstep hcin

/-- A LOOP whose operands pass: it sends its tokens at once where no iteration comes, and else starts the sequencer with the reference of its carry. -/
theorem loopBody_eq : loopBody w f s =
    let s0 := s.keep f.key fun fr => { fr with looped := true }
    if !loopGoes f.a.val.toInt f.b.val.toInt w.step.toInt then .ok { st := s0, t0 := some zeroTok, t1 := some (t.reg w.cin.toNat) }
    else match s0.addRefs [t.reg w.cin.toNat] with
      | none => failWith .refcount
      | some s1 => .ok { st := s1.setTask f.pe f.fr.task { t with loop := some (f.startLoop w body (t.reg w.cin.toNat)) } } := by
  have hgood : (w.step == 0 || decide (t.nregs ≤ w.cin.toNat && w.cin != 0)) = false := by
    have hs : (w.step == 0) = false := beq_eq_false_iff_ne.mpr hstep
    rw [hs, Bool.false_or]
    rcases hcin with h | h
    · simp [h]
    · simp [Nat.not_le.mpr h]
  simp only [loopBody, ht, hn, hty, hgood, beq_self_eq_true, Bool.not_true, Bool.false_eq_true, if_false]
  rfl

end

theorem reg_eq (t : Task) (n : BitVec 7) : t.reg n.toNat = if n = 0 then scalarTok 0 else t.regs.getD n.toNat (scalarTok 0) := by
  have hzero : n.toNat = 0 ↔ n = 0 := ⟨fun h => BitVec.eq_of_toNat_eq h, fun h => by rw [h]; rfl⟩
  simp only [Task.reg, hzero, nthD, zeroTok, List.getD_eq_getElem?_getD]

/-! ### CARRY (R96, R108) -/

/-- The end of an instruction that sends nothing itself, where its effect takes over the references of some operands. -/
theorem finish_silent (s u : State) (f : Firing) (i : Instr) (keep : List Tok) :
    s.finish f i { st := u, keep := keep } = u.retire f (keep.foldl (fun l t => l.erase t) (f.handles i)) .fired none none := by
  have hsent : f.sent none none = [] := by simp [Firing.sent]
  simp only [State.finish, hsent]
  simp [State.settle, State.sends]
  rfl

/-- A task once iteration j of its loop has sent its carry. -/
def Task.carried (t : Task) (l : Loop) (j : Int) (tok : Tok) : Task := { t with loop := some { l with carries := l.carries ++ [(j, tok)] } }

/-- The carry of the iteration in a frame to the slot that a target of CARRY names there. -/
def State.carryTo (s : State) (k : Nat) (fr : Frame) (tok : Tok) (g : Target) : State :=
  match g with
  | .slot sd i => s.post (.pe (k / 256)) (.pe (k / 256)) 0
      (.token (tokenRaw 0 tok (s.slotOf fr.ctx) (k / 256) (k % 256) (sideNum sd) i.toNat) fr.uid (srcOf k fr 0))
  | _ => s

theorem carryTo_frame? (s : State) (k : Nat) (fr : Frame) (tok : Tok) (l : List Target) (key : Nat) :
    (l.foldl (fun u g => u.carryTo k fr tok g) s).frame? key = s.frame? key := by
  induction l generalizing s with
  | nil => rfl
  | cons g l ih => rw [List.foldl_cons, ih]; cases g <;> rfl

theorem carryTo_ctxs (s : State) (k : Nat) (fr : Frame) (tok : Tok) (l : List Target) :
    (l.foldl (fun u g => u.carryTo k fr tok g) s).ctxs = s.ctxs :=
  foldl_ctxs _ (fun _ g => by cases g <;> rfl) l s

theorem foldl_sendTo_eq {l : List Target} (h : ∀ g ∈ l, ∃ sd i, g = .slot sd i) (s : State) (k : Nat) (fr : Frame) (tok : Tok) :
    l.foldl (fun u g => (u.sendTo (srcOf k fr 0) g tok).getD u) s = l.foldl (fun u g => u.carryTo k fr tok g) s := by
  induction l generalizing s with
  | nil => rfl
  | cons g l ih =>
    obtain ⟨sd, i, rfl⟩ := h g (by simp)
    exact ih (fun g hg => h g (by simp [hg])) _

section
variable {s : State} {f : Firing} {t : Task} {l : Loop} {j : Int} (ht : s.task? f.pe f.fr.task = some t) (hl : t.loop = some l)
  (hj : f.fr.iter = some j) (hold : l.sent.contains j = true ∨ l.carryIn j = none)
include ht hl hj hold

/-- A carry whose iteration has no carry left to replace is kept, and goes on to the next iteration. -/
theorem sendCarry_eq (tok : Tok) :
    s.sendCarry f tok = (s.setTask f.pe f.fr.task (t.carried l j tok)).deliverCarry f.pe f.fr.task (j + l.step) := by
  have hnone : (if l.sent.contains j = true then none else l.carryIn j) = none := by
    rcases hold with h | h
    · rw [if_pos h]
    · rw [h, ite_self]
  simp only [State.sendCarry, ht, hj, hl, Option.bind_some, hnone, State.carryValue, Task.carried, Option.map_some]

/-- No frame of the next iteration is open: the sequencer keeps the carry. -/
theorem sendCarry_kept (hi : s.iterFrame f.pe f.fr.task (j + l.step) = none) (tok : Tok) :
    s.sendCarry f tok = some (s.setTask f.pe f.fr.task (t.carried l j tok)) := by
  have hi' : (s.setTask f.pe f.fr.task (t.carried l j tok)).iterFrame f.pe f.fr.task (j + l.step) = none := hi
  rw [sendCarry_eq ht hl hj hold]
  unfold State.deliverCarry
  rw [hi']
  split
  next h => cases h
  next => rfl

/-- A frame of the next iteration is open: the slots that CARRY's targets name there receive the carry. -/
theorem sendCarry_delivered {k : Nat} {fr : Frame} {tgts : List Target} {tok : Tok} {u : State} (hfirst : j + l.step ≠ l.first)
    (hnew : ∀ p ∈ l.carries, p.1 ≠ j) (hsent : l.sent.contains (j + l.step) = false) (hi : s.iterFrame f.pe f.fr.task (j + l.step) = some (k, fr))
    (htg : fr.cfg.carryTargets = some tgts) (hne : tgts ≠ []) (hslots : ∀ g ∈ tgts, ∃ sd i, g = .slot sd i)
    (hu : (s.setTask f.pe f.fr.task (t.carried l j tok)).addRefs (List.replicate (tgts.length - 1) tok) = some u) :
    s.sendCarry f tok = some ((tgts.foldl (fun u g => u.carryTo k fr tok g) u).setTask f.pe f.fr.task
      { t with loop := some { l with carries := l.carries ++ [(j, tok)], sent := (j + l.step) :: l.sent } }) := by
  set s1 := s.setTask f.pe f.fr.task (t.carried l j tok) with hs1
  have hi' : s1.iterFrame f.pe f.fr.task (j + l.step) = some (k, fr) := hi
  have ht' : s1.task? f.pe f.fr.task = some (t.carried l j tok) := by simp [hs1, State.setTask, State.task?, Tab.get?_put_same]
  have hl' : (t.carried l j tok).loop = some { l with carries := l.carries ++ [(j, tok)] } := rfl
  have hin : Loop.carryIn { l with carries := l.carries ++ [(j, tok)] } (j + l.step) = some tok := by
    have hfind : l.carries.find? (fun p => p.1 == j) = none := List.find?_eq_none.mpr fun p hp => by simp [hnew p hp]
    simp [Loop.carryIn, hfirst, hfind]
  have hgo : (l.sent.contains (j + l.step) || tgts.isEmpty) = false := by rw [hsent, Bool.false_or, List.isEmpty_eq_false_iff]; exact hne
  rw [sendCarry_eq ht hl hj hold, ← hs1]
  unfold State.deliverCarry
  simp only [ht', hi', hl', htg, hin, hgo, hu, Bool.false_eq_true, if_false, foldl_sendTo_eq hslots]
  rfl

end

theorem carryBody_eq {f : Firing} {s u : State} (hu : s.sendCarry f f.a = some u) : carryBody f s = .ok { st := u, keep := [f.a] } := by
  simp only [carryBody, hu]

/-- A CARRY with a null predicate sends a null carry (R80). -/
theorem exec_carry_null {h : Hdr} {s u : State} {f : Firing} (hf : s.firing (.carry h) = some f) (hp : predNull f.h f.c = true)
    (hu : s.sendCarry f nullTok = some u) : Gives (.carry h) s f u (f.handles (.carry h)) none none := by
  have hmis : predMismatch f.h f.c = false := by
    simp only [predNull, Bool.and_eq_true, beq_iff_eq] at hp
    cases hpr : f.h.pr <;> simp [predMismatch, hpr, hp.2]
  have hnull : f.nulled (.carry h) = true := by simp [Firing.nulled, hp]
  have hexec : exec (.carry h) s = .next (s.fireNull f (.carry h)) := by
    show fire (.carry h) carryBody s = _
    simp [fire, hf, State.issue, hmis, hnull]
  rw [Gives, hexec]
  simp only [State.fireNull, Instr.isStore, Instr.isCarry, Instr.branchClass, hu, Option.getD_some, Bool.false_and, Bool.false_eq_true, if_false, if_true,
    finish_silent, List.foldl_nil]

end Sys2Proof.Machine

section
open Sys2Proof Sys2Proof.Machine

/-- Settles O12: `loopBody_eq` says what a LOOP answers, and `sendCarry_kept` and `sendCarry_delivered` where a carry goes. -/
theorem loopsAndCarries : Obligations.LoopsAndCarries := by
  refine ⟨fun s f h w t body hc hf ht hn hty => ⟨fun hbad => ?_, fun hstep hcin => ⟨fun hzero => ?_, fun hgoes u hu => ?_⟩⟩, fun s f h w t hf ht hbody => ?_,
    fun s f h t l j k fr tgts hc hf ht hl hj hold _ hfirst hnew hsent hi htg hne hslots u hu => ?_, fun s f h t l j hc ht hl hj hold hi => ⟨fun hf => ?_, fun hf hp => ?_⟩⟩
  · exact raises_of_fault rfl hf (loopBody_operand ht hn hty (hbad.imp_left fun h => BitVec.eq_of_toInt_eq (by simpa using h)))
  · have hnone : loopGoes f.a.val.toInt f.b.val.toInt w.step.toInt = false := by
      simp only [loopGoes, Bool.or_eq_false_iff, Bool.and_eq_false_iff, decide_eq_false_iff_not]
      omega
    have hbody := loopBody_eq ht hn hty (w := w) (fun h => hstep (by rw [h]; rfl)) hcin
    simp only [hnone, Bool.not_false, if_true, reg_eq] at hbody
    exact passesFrom_of_ok rfl hf hbody ⟨_, keep_frame? hf.frame _, rfl⟩ (keep_ctxs ..) hc
  · have hsome : loopGoes f.a.val.toInt f.b.val.toInt w.step.toInt = true := by
      simp only [loopGoes, Bool.or_eq_true, Bool.and_eq_true, decide_eq_true_eq]
      omega
    have hbody := loopBody_eq ht hn hty (w := w) (fun h => hstep (by rw [h]; rfl)) hcin
    simp only [hsome, Bool.not_true, Bool.false_eq_true, if_false, reg_eq, hu] at hbody
    exact ⟨f.startLoop w body _, rfl, rfl, rfl, rfl, rfl, rfl, rfl, rfl, rfl, rfl, rfl, rfl, rfl, rfl, rfl, rfl, rfl, rfl, fire_retire_silent hf hbody⟩
  · exact raises_of_fault rfl hf (loopBody_noBody ht hbody)
  · have hbody := carryBody_eq (sendCarry_delivered ht hl hj hold hfirst hnew hsent hi htg hne hslots hu)
    have hframe := (carryTo_frame? u k fr f.a tgts f.key).trans ((addRefs_frame? hu f.key).trans hf.frame)
    have hctxs : u.ctxs = s.ctxs := (addRefs_ctxs hu).trans rfl
    exact fire_retire hf hbody rfl (.inr (by simp)) ⟨_, hframe, rfl⟩ ((carryTo_ctxs u k fr f.a tgts).trans hctxs) hc
  · exact fire_retire hf (carryBody_eq (sendCarry_kept ht hl hj hold hi f.a)) rfl (.inr (by simp)) (outs_same hf.frame) rfl hc
  · exact exec_carry_null hf hp (sendCarry_kept ht hl hj hold hi nullTok)

end

/-! ## Mismatches and nulls (O2) -/

namespace Sys2Proof.Machine

/-! ### What a release of references depends on (R161, R162) -/

/-- Two states in which releases of references make the same changes and send the same messages. -/
structure SameRefs (s t : State) : Prop where
  tiles : t.pe.tiles = s.pe.tiles
  ctxs : t.ctxs = s.ctxs
  net : t.net = s.net
  sched : t.sched = s.sched

theorem tileOf_congr {s t : State} (h : t.pe.tiles = s.pe.tiles) (w : Word) : t.tileOf w = s.tileOf w := by
  unfold State.tileOf State.tileSlot
  rw [h]

theorem dropRef_tiles_congr {s t : State} (h : t.pe.tiles = s.pe.tiles) (w : Word) : (t.dropRef w).pe.tiles = (s.dropRef w).pe.tiles := by
  unfold State.dropRef
  rw [tileOf_congr h]
  split
  · exact h
  · simp [State.setTile, h]

theorem dropTok_tiles_congr {s t : State} (h : t.pe.tiles = s.pe.tiles) (pe : Nat) (tok : Tok) :
    (t.dropTok pe tok).pe.tiles = (s.dropTok pe tok).pe.tiles := by
  unfold State.dropTok State.release
  split
  · split
    · exact dropRef_tiles_congr h _
    · exact h
  · exact h

theorem dropToks_tiles_congr {s t : State} (h : t.pe.tiles = s.pe.tiles) (pe : Nat) (l : List Tok) :
    (t.dropToks pe l).pe.tiles = (s.dropToks pe l).pe.tiles := by
  induction l generalizing s t with
  | nil => exact h
  | cons tok l ih => exact ih (dropTok_tiles_congr h pe tok)

namespace SameRefs

variable {s t : State} (h : SameRefs s t)
include h

theorem dropRef (w : Word) : SameRefs (s.dropRef w) (t.dropRef w) := by
  refine ⟨dropRef_tiles_congr h.tiles w, ?_, ?_, ?_⟩
  all_goals
    unfold State.dropRef
    rw [tileOf_congr h.tiles]
    split
  exacts [h.ctxs, h.ctxs, h.net, h.net, h.sched, h.sched]

theorem postRelease (a b : Agent) (w : Word) : SameRefs (s.post a b 7 (.release w)) (t.post a b 7 (.release w)) := by
  obtain ⟨htiles, hctxs, hnet, hsched⟩ := h
  have hwork : t.workOf (.release w) = s.workOf (.release w) := by simp only [State.workOf, Msg.owner, htiles, hctxs]
  have hslot (c : Nat) : t.slotOf c = s.slotOf c := slotOf_of_ctxs hctxs c
  refine ⟨htiles, hctxs, ?_, ?_⟩
  · have hwire (c : Nat) : t.wireOf b 7 c (.release w) = s.wireOf b 7 c (.release w) := by
      unfold State.wireOf
      rw [hslot]
    unfold State.post State.postFor State.bump
    rw [hwork, hwire, hnet, hsched]
  · unfold State.post State.postFor State.bump
    rw [hsched]

theorem dropTok (pe : Nat) (tok : Tok) : SameRefs (s.dropTok pe tok) (t.dropTok pe tok) := by
  unfold State.dropTok State.release
  split
  · split
    · exact h.dropRef _
    · exact h.postRelease _ _ _
  · exact h

theorem dropToks (pe : Nat) (l : List Tok) : SameRefs (s.dropToks pe l) (t.dropToks pe l) := by
  induction l generalizing s t with
  | nil => exact h
  | cons tok l ih => exact ih (h.dropTok pe tok)

end SameRefs

theorem modFrame_sameRefs (s : State) (k : Nat) (g : Frame → Frame) : SameRefs s (s.modFrame k g) := by
  unfold State.modFrame
  split <;> exact ⟨rfl, rfl, rfl, rfl⟩

theorem voidStore_sameRefs (s : State) (k idx : Nat) : SameRefs s (s.voidStore k idx) := by
  unfold State.voidStore
  split <;> exact ⟨rfl, rfl, rfl, rfl⟩

theorem SameRefs.trans {s t u : State} (h : SameRefs s t) (g : SameRefs t u) : SameRefs s u :=
  ⟨g.tiles.trans h.tiles, g.ctxs.trans h.ctxs, g.net.trans h.net, g.sched.trans h.sched⟩

/-! ### A branch that resolves without effect, and a store that writes nothing -/

theorem branchResolved_net (s : State) (k idx : Nat) : (s.branchResolved k idx).net = s.net := by
  unfold State.branchResolved State.raiseAt State.raise State.modCtx State.failFrame
  repeat' split
  all_goals rfl

theorem branchResolved_tiles (s : State) (k idx : Nat) : (s.branchResolved k idx).pe.tiles = s.pe.tiles := by
  unfold State.branchResolved State.raiseAt State.raise State.modCtx State.failFrame
  repeat' split
  all_goals rfl

theorem voidStore_eq {s : State} {k : Nat} {fr : Frame} (h : s.frame? k = some fr) (idx : Nat) :
    s.voidStore k idx = { s with mem := { s.mem with accesses := s.mem.accesses.filter fun p =>
      !(p.2.purpose.isCheck && p.2.src.uid == fr.uid && p.2.src.idx == idx) } }.setFrame k
        { fr with stores := mapIf (fun r => r.idx == idx) (fun r => { r with dropped := true }) fr.stores } := by
  simp only [State.voidStore, h]

/-! ### What kind of instruction excludes which -/

theorem store_only {i : Instr} (h : i.isStore = true) : i.isCarry = false ∧ i.branchClass = false ∧ i.ordered = false := by
  cases i <;> first | exact ⟨rfl, rfl, rfl⟩ | cases h

theorem branch_only {i : Instr} (h : i.branchClass = true) : i.isStore = false ∧ i.isCarry = false ∧ i.ordered = false := by
  cases i <;> first | exact ⟨rfl, rfl, rfl⟩ | cases h

theorem ordered_only {i : Instr} (h : i.ordered = true) : i.isStore = false ∧ i.isCarry = false ∧ i.branchClass = false := by
  cases i <;> first | exact ⟨rfl, rfl, rfl⟩ | cases h

/-! ### An instruction whose predicate does not match (R79) -/

theorem predMismatch_iff (h : Hdr) (c : Tok) : predMismatch h c = true ↔
    c.kind ≠ .null ∧ ((h.pr = .ifTrue ∧ c.val.getLsbD 0 = false) ∨ (h.pr = .ifFalse ∧ c.val.getLsbD 0 = true)) := by
  cases hp : h.pr <;> simp [predMismatch, hp]

section
variable {i : Instr} {s : State} {f : Firing} (he : i.isEvent = false) (hf : s.firing i = some f)
include he hf

theorem exec_mismatch (hm : predMismatch f.h f.c = true) : exec i s = .next (s.mismatch f.key f.idx i (f.consumed i)) := by
  cases ho : i.ordered with
  | false =>
    obtain ⟨body, hexec⟩ := exec_fire i he ho
    simp [hexec, fire, hf, State.issue, hm]
  | true =>
    obtain ⟨body, hexec⟩ := exec_fireInOrder i ho
    simp [hexec, fireInOrder, hf, State.issueInOrder, hm]

variable (hm : predMismatch f.h f.c = false) (hn : f.nulled i = true)
include hm hn

/-! ### An instruction that sends nulls (R80) -/

theorem exec_null (ho : i.ordered = false) : exec i s = .next (s.fireNull f i) := by
  obtain ⟨body, hexec⟩ := exec_fire i he ho
  simp [hexec, fire, hf, State.issue, hm, hn]

omit he in
theorem exec_null_inOrder (ho : i.ordered = true) : exec i s = .next (if !f.inOrder s i then s.waitAt f .order
    else if f.claimFree s i.accumulator then (f.claimed s i.accumulator).fireNull f i else s.waitAt f .accumulator) := by
  obtain ⟨body, hexec⟩ := exec_fireInOrder i ho
  simp [hexec, fireInOrder, hf, State.issueInOrder, hm, hn]

end

/-- A mismatch takes the operands and sets the status, and drops the records of a store. -/
theorem mismatch_spec {s : State} {k : Nat} {fr : Frame} (h : s.frame? k = some fr) (idx : Nat) (i : Instr) (toks : List Tok) :
    ∃ l b, (s.mismatch k idx i toks).frame? k =
        some { fr.emptied idx with stat := fr.stat.put idx .mismatched, stores := l, failed := b } ∧
      (s.mismatch k idx i toks).net = (s.dropToks (k / 256) toks).net ∧
      (s.mismatch k idx i toks).pe.tiles = (s.dropToks (k / 256) toks).pe.tiles := by
  have hvoid : ∃ l, (if i.isStore then s.voidStore k idx else s).frame? k = some { fr with stores := l } := by
    split
    · exact voidStore_frame? h idx
    · exact ⟨fr.stores, h⟩
  have hrefs : SameRefs s ((if i.isStore then s.voidStore k idx else s).markAt k idx .mismatched) := by
    refine SameRefs.trans ?_ (modFrame_sameRefs _ k _)
    split
    · exact voidStore_sameRefs s k idx
    · exact ⟨rfl, rfl, rfl, rfl⟩
  obtain ⟨l, hl⟩ := hvoid
  have hdrop := hrefs.dropToks (k / 256) toks
  have hframe : (((if i.isStore then s.voidStore k idx else s).markAt k idx .mismatched).dropToks (k / 256) toks).frame? k =
      some { fr.emptied idx with stat := fr.stat.put idx .mismatched, stores := l } := by
    rw [dropToks_frame?, State.markAt, modFrame_frame?, hl]; rfl
  unfold State.mismatch
  simp only
  split
  · obtain ⟨b, hb⟩ := branchResolved_frame? hframe idx
    exact ⟨l, b, hb, (branchResolved_net ..).trans hdrop.net, (branchResolved_tiles ..).trans hdrop.tiles⟩
  · exact ⟨l, fr.failed, hframe, hdrop.net, hdrop.tiles⟩

theorem mismatch_store_mem {s : State} {f : Firing} {i : Instr} (h : s.frame? f.key = some f.fr) (hi : i.isStore = true) (toks : List Tok) :
    (s.mismatch f.key f.idx i toks).mem = f.withdrawn s := by
  obtain ⟨-, hb, -⟩ := store_only hi
  simp only [State.mismatch, hi, hb, Bool.false_eq_true, if_false, if_true]
  rw [(dropToks_quiet f.key _ _ _).mem, (markAt_quiet ..).mem, voidStore_eq h]
  rfl

/-! ### The end of an instruction that sends nulls -/

/-- The end of an instruction that sends nulls to its targets, in a state with its frame's sends and the contexts as they were. -/
theorem finish_null {i : Instr} {s u : State} {f : Firing} {fr : Frame} (hf : s.firing i = some f) (hfr : u.frame? f.key = some fr)
    (ho : fr.outs = f.fr.outs) (hs : u.ctxs = s.ctxs) (hc : f.clear = true) (v : State) :
    v.finish f i { st := u, t0 := some nullTok, t1 := some nullTok } = u.retire f (f.handles i) .fired (some nullTok) (some nullTok) := by
  have hsent : ((f.sent (some nullTok) (some nullTok)).filter fun t => t.kind == .tile) = [] := by
    simp only [Firing.sent]
    split <;> split <;> rfl
  have hmark : (u.markAt f.key f.idx .fired).frame? f.key = some { fr.emptied f.idx with stat := fr.stat.put f.idx .fired } := by
    rw [State.markAt, modFrame_frame?, hfr]; rfl
  have hslot : ((u.markAt f.key f.idx .fired).dropToks f.pe (f.handles i)).slotOf f.fr.ctx = f.x.slot := by
    rw [slotOf_of_ctxs (s := s), slotOf_firing hf]
    rw [dropToks_ctxs, markAt_ctxs, hs]
  have hsends := sends_arrive _ f _ (some nullTok) (some nullTok) ((dropToks_frame? ..).trans hmark) hslot ho hc
  simp only [State.finish, hsent, Bool.false_eq_true, if_false, List.foldl_nil, State.settle]
  rw [Firing.handles] at hsends
  rw [hsends]
  rfl

theorem arrive?_frame? {s : State} {f : Firing} {fr : Frame} (h : s.frame? f.key = some fr) (tgt : Target) (r : Option Tok) :
    ∃ o, (s.arrive? f tgt r).frame? f.key = some { fr with outs := o } := by
  cases r with
  | none => exact ⟨fr.outs, h⟩
  | some t =>
    have harr := arrive_frame? s f fr tgt t h
    cases tgt <;> exact ⟨_, harr⟩

/-- The frame of an instruction that has performed: its operands are gone, its status is set, and sends to write entries are there. -/
theorem retire_frame? {u : State} {f : Firing} {fr : Frame} (h : u.frame? f.key = some fr) (rel : List Tok) (st : IStat) (r0 r1 : Option Tok) :
    ∃ o, (u.retire f rel st r0 r1).frame? f.key = some { fr.emptied f.idx with stat := fr.stat.put f.idx st, outs := o } := by
  have hmark : ((u.modFrame f.key fun fr => { fr.emptied f.idx with stat := fr.stat.put f.idx st }).dropToks f.pe rel).frame? f.key =
      some { fr.emptied f.idx with stat := fr.stat.put f.idx st } := by
    rw [dropToks_frame?, modFrame_frame?, h]; rfl
  obtain ⟨o, ho⟩ := arrive?_frame? hmark f.h.t0 r0
  exact arrive?_frame? ho f.h.t1 r1

theorem arrive?_mem (s : State) (f : Firing) (tgt : Target) (r : Option Tok) : (s.arrive? f tgt r).mem = s.mem := by
  cases r with
  | none => rfl
  | some t => cases tgt with
    | write e => exact modFrame_mem ..
    | _ => rfl

theorem retire_mem (u : State) (f : Firing) (rel : List Tok) (st : IStat) (r0 r1 : Option Tok) : (u.retire f rel st r0 r1).mem = u.mem := by
  rw [State.retire, arrive?_mem, arrive?_mem, (dropToks_quiet f.key _ _ _).mem, modFrame_mem]

/-! ### Claims (R187) -/

/-- What the instruction's claim makes of the state is what the statements call claiming. -/
theorem claimed_eq_claiming (f : Firing) (s : State) (z : Option (BitVec 3)) : f.claimed s z = f.claiming s z := by
  cases z <;> rfl

theorem claimFree_of_other {f : Firing} {s : State} {z : BitVec 3} {o : Nat × Nat} (h : (s.acc f.pe z.toNat).claim = some o)
    (hne : o ≠ (f.fr.ctx, f.fr.task)) : f.claimFree s (some z) = false := by
  simp [Firing.claimFree, h, hne]

theorem claimed_frame? (f : Firing) (s : State) (z : Option (BitVec 3)) (k : Nat) : (f.claimed s z).frame? k = s.frame? k := by
  cases z <;> rfl

theorem nulled_iff (f : Firing) (i : Instr) :
    f.nulled i = true ↔ (f.h.pr ≠ .always ∧ f.c.kind = .null) ∨ ∃ sd ∈ i.nullSides, (f.get sd).kind = .null := by
  simp [Firing.nulled, predNull]

/-! ### What nulls make of each kind of instruction -/

theorem fireNull_plain (s : State) (f : Firing) {i : Instr} (hs : i.isStore = false) (hc : i.isCarry = false) (hb : i.branchClass = false) :
    s.fireNull f i = s.finish f i { st := s, t0 := some nullTok, t1 := some nullTok } := by
  simp only [State.fireNull, hs, hc, hb, Bool.false_and, Bool.false_eq_true, if_false]

theorem fireNull_branch (s : State) (f : Firing) {i : Instr} (hb : i.branchClass = true) :
    let u := s.modFrame f.key fun fr => { fr with nullBranch := true }
    s.fireNull f i = (u.finish f i { st := u, t0 := some nullTok, t1 := some nullTok }).branchResolved f.key f.idx := by
  obtain ⟨hs, hc, -⟩ := branch_only hb
  simp only [State.fireNull, hs, hc, hb, Bool.false_and, Bool.false_eq_true, if_false, if_true]

section
variable {i : Instr} {l : Nat} (s : State) (f : Firing) (hs : i.isStore = true) (hl : i.lsid = some l)
include hs hl

theorem fireNull_store_again (h : f.fr.satisfied.contains l = true) : s.fireNull f i = s.failAt f { code := .operand } := by
  simp only [State.fireNull, hs, hl, h, Bool.and_self, if_true]

theorem fireNull_store (h : f.fr.satisfied.contains l = false) :
    let u := (s.satisfy f.key l).voidStore f.key f.idx
    s.fireNull f i = u.finish f i { st := u, t0 := some nullTok, t1 := some nullTok } := by
  obtain ⟨hc, hb, -⟩ := store_only hs
  simp only [State.fireNull, hs, hl, h, hc, hb, Bool.and_false, Bool.false_eq_true, if_false, if_true, Option.getD_some]

end

end Sys2Proof.Machine

section
open Sys2Proof Sys2Proof.Machine

/-- Settles O2: `mismatch_spec` says what a mismatch leaves, and each kind of instruction that sends nulls has its `fireNull_` lemma. -/
theorem mismatchAndNulls : Obligations.MismatchAndNulls := by
  refine ⟨fun i s f he hf hc hp => ?_, fun i s f he hf hm hn hc => ?_⟩
  · obtain ⟨hfr, -, hh⟩ := firing_frame hf
    have hmis : predMismatch f.h f.c = true := (predMismatch_iff ..).mpr ⟨hc, by rw [hh]; exact hp⟩
    obtain ⟨l, b, hframe, hnet, htiles⟩ := mismatch_spec hfr f.idx i (f.consumed i)
    exact ⟨_, _, exec_mismatch he hf hmis, hframe, rfl, rfl, rfl, rfl, rfl, rfl, rfl, rfl, rfl, fun hs => (mismatch_quiet s f.key f.idx i _ hs).mem,
      fun hs => mismatch_store_mem hfr hs _, hnet, htiles⟩
  · obtain ⟨hfr, -, hh⟩ := firing_frame hf
    have hnull : f.nulled i = true := (nulled_iff f i).mpr (by rw [hh]; exact hn)
    refine ⟨fun hs hcar hb ho => ?_, fun ho => ⟨fun huse => ?_, fun hord => ?_, fun z o hord hz hcl hne => ?_⟩, fun l hs hl hsat => ?_,
      fun l hs hl hsat => ?_, fun hb => ?_⟩
    · rw [Gives, exec_null he hf hm hnull ho, fireNull_plain s f hs hcar hb, finish_null hf hfr rfl rfl hc]
    · obtain ⟨hs, hcar, hb⟩ := ordered_only ho
      rw [Gives, exec_null_inOrder hf hm hnull ho, huse.1, claimFree_of_mayUse huse, fireNull_plain _ f hs hcar hb, ← claimed_eq_claiming]
      exact congrArg _ (finish_null hf ((claimed_frame? ..).trans hfr) rfl (claimed_ctxs ..) hc _)
    · rw [Waits, exec_null_inOrder hf hm hnull ho, hord]
      rfl
    · rw [Waits, exec_null_inOrder hf hm hnull ho, hord, hz, claimFree_of_other hcl hne]
      rfl
    · rw [Raises, RaisesFrom, exec_null he hf hm hnull (store_only hs).2.2, fireNull_store_again s f hs hl hsat]
    · have hsatisfy : (s.satisfy f.key l).frame? f.key = some { f.fr with satisfied := l :: f.fr.satisfied } := by
        rw [State.satisfy, modFrame_frame?, hfr]; rfl
      have hvoid := voidStore_eq hsatisfy f.idx
      have hframe : ((s.satisfy f.key l).voidStore f.key f.idx).frame? f.key = some { f.fr with
          satisfied := l :: f.fr.satisfied, stores := mapIf (fun r => r.idx == f.idx) (fun r => { r with dropped := true }) f.fr.stores } := by
        rw [hvoid]; exact setFrame_frame?_same ..
      have hctxs : ((s.satisfy f.key l).voidStore f.key f.idx).ctxs = s.ctxs := (voidStore_ctxs ..).trans (modFrame_ctxs ..)
      have hmem : ((s.satisfy f.key l).voidStore f.key f.idx).mem = f.withdrawn s := by
        rw [hvoid]; simp [Firing.withdrawn, State.satisfy]
      obtain ⟨o, ho⟩ := retire_frame? hframe (f.handles i) .fired (some nullTok) (some nullTok)
      have hexec := (exec_null he hf hm hnull (store_only hs).2.2).trans
        (congrArg Host.Outcome.next ((fireNull_store s f hs hl hsat).trans (finish_null hf hframe rfl hctxs hc _)))
      exact ⟨_, _, hexec, ho, rfl, rfl, rfl, (retire_mem ..).trans hmem⟩
    · have hmod : (s.modFrame f.key fun fr => { fr with nullBranch := true }).frame? f.key = some { f.fr with nullBranch := true } := by
        rw [modFrame_frame?, hfr]; rfl
      obtain ⟨o, ho⟩ := retire_frame? hmod (f.handles i) .fired (some nullTok) (some nullTok)
      obtain ⟨b, hres⟩ := branchResolved_frame? ho f.idx
      have hfin := finish_null hf hmod rfl (modFrame_ctxs ..) hc
      have hexec := (exec_null he hf hm hnull (branch_only hb).2.2).trans
        (congrArg Host.Outcome.next ((fireNull_branch s f hb).trans (congrArg (fun u => u.branchResolved f.key f.idx) (hfin _))))
      exact ⟨_, _, hexec, hres, rfl, rfl, rfl⟩

end

/-! ## Stores (O23) -/

namespace Sys2Proof.Machine

/-! ### Extents and bytes (R7, R218) -/

/-- No byte of a reachable extent lies past the top. -/
theorem extent_of_reachable {va n : Nat} (h : reachable va n) : extent va n = (List.range n).map fun k => (va + k, k) := by
  refine List.map_congr_left fun k hk => ?_
  have hlt := List.mem_range.mp hk
  have htop : va + k < 2 ^ 64 := by
    unfold reachable at h
    omega
  rw [Nat.mod_eq_of_lt htop]

theorem leBytes_eq (n v : Nat) : leBytes n v = (List.range n).map fun k => BitVec.ofNat 8 (v / 2 ^ (8 * k)) := by
  unfold leBytes
  induction n generalizing v with
  | zero => rfl
  | succ n ih =>
    rw [bytesOfNat, ih, List.range_succ_eq_map, List.map_cons, List.map_map]
    refine congrArg₂ List.cons (by simp) (List.map_congr_left fun k _ => ?_)
    simp only [Function.comp_apply, Nat.div_div_eq_div_mul, Nat.mul_succ, Nat.pow_add, Nat.mul_comm (2 ^ (8 * k))]

/-- Rows of equal length one after another. -/
theorem flatMap_range_map {α : Type} (g : Nat → Nat → α) (m n : Nat) :
    ((List.range m).flatMap fun i => (List.range n).map (g i)) = (List.range (m * n)).map fun k => g (k / n) (k % n) := by
  induction m with
  | zero => simp
  | succ m ih =>
    rw [List.range_succ, List.flatMap_append, ih, Nat.succ_mul, List.range_add, List.map_append, List.map_map]
    refine congrArg _ ?_
    rw [List.flatMap_singleton]
    refine List.map_congr_left fun k hk => ?_
    have hlt := List.mem_range.mp hk
    rw [Function.comp_apply, Nat.mul_comm m n, Nat.mul_add_div (by omega), Nat.div_eq_of_lt hlt, Nat.mul_add_mod, Nat.mod_eq_of_lt hlt, Nat.add_zero]

/-- The dense image of a tile's region, byte by byte. -/
theorem tileBytes_eq (codes : List Nat) (rows cols e : Nat) : tileBytes codes rows cols e =
    (List.range (rows * cols * e)).map fun k => BitVec.ofNat 8 (nthD codes (k / e / cols * 16 + k / e % cols) 0 / 2 ^ (8 * (k % e))) := by
  simp only [tileBytes, leBytes_eq]
  simp only [flatMap_range_map (fun c k => BitVec.ofNat 8 (nthD codes (_ * 16 + c) 0 / 2 ^ (8 * k)))]
  rw [flatMap_range_map (fun r k => BitVec.ofNat 8 (nthD codes (r * 16 + k / e) 0 / 2 ^ (8 * (k % e)))), Nat.mul_assoc]
  refine List.map_congr_left fun k _ => ?_
  have hrow : k / (cols * e) = k / e / cols := by rw [Nat.mul_comm, Nat.div_div_eq_div_mul]
  have hcol : k % (cols * e) / e = k / e % cols := Nat.mod_mul_left_div_self ..
  have hbyte : k % (cols * e) % e = k % e := Nat.mod_mul_left_mod ..
  rw [hrow, hcol, hbyte]

/-! ### The record of a store (R84, R88, R242) -/

theorem readByte_of_bytes {s t : State} (hm : t.mem.bytes = s.mem.bytes) (hs : t.sync = s.sync) (key : Nat) : t.readByte key = s.readByte key := by
  unfold State.readByte State.lineOf State.engine
  rw [hm, hs]

section
variable (s : State) (src : Src) (lsid stream : Nat) (cells : List (Nat × Nat)) (scalar : Bool) (data : Option (List Byte)) (holder : Option Word)

theorem noteStore_net : (s.noteStore src lsid stream cells scalar data holder).net = s.net := by
  unfold State.noteStore
  simp only
  split
  · rfl
  · split <;> rfl

theorem noteStore_tiles : (s.noteStore src lsid stream cells scalar data holder).pe.tiles = s.pe.tiles := by
  unfold State.noteStore
  simp only
  split
  · rfl
  · split <;> rfl

theorem noteStore_bytes : (s.noteStore src lsid stream cells scalar data holder).mem.bytes = s.mem.bytes := by
  unfold State.noteStore
  simp only
  split
  · rfl
  · split <;> rfl

theorem noteStore_sync : (s.noteStore src lsid stream cells scalar data holder).sync = s.sync := by
  unfold State.noteStore
  simp only
  split
  · rfl
  · split <;> rfl

end

/-- What a store holds until its block commits. -/
structure StoreRec.Holds (r : StoreRec) (idx lsid stream : Nat) (cells : List (Nat × Nat)) (data : List Byte) (holder : Option Word) : Prop where
  idx : r.idx = idx
  lsid : r.lsid = lsid
  stream : r.stream = stream
  cells : r.cells = cells
  data : r.data = some data
  holder : r.holder = holder

theorem frameOf_src {s : State} {f : Firing} {fr : Frame} (h : s.frame? f.key = some fr) (hu : fr.uid = f.fr.uid) :
    s.frameOf f.src.pe f.src.frame f.src.uid = some fr := by
  simp [State.frameOf, Firing.src, srcOf, frameKey_div_mod, h, hu]

/-- A store that fires has its record in its frame, be it the one that its address made before or a new one. -/
theorem noteStore_holds {s : State} {f : Firing} {fr : Frame} {lsid stream : Nat} {cells : List (Nat × Nat)} {data : List Byte} {holder : Option Word}
    (h : s.frame? f.key = some fr) (hu : fr.uid = f.fr.uid)
    (known : ∀ r ∈ fr.stores, r.idx = f.idx → r.cells = cells → r.lsid = lsid ∧ r.stream = stream) (scalar : Bool) :
    ∃ l, ∃ r ∈ l, r.Holds f.idx lsid stream cells data holder ∧
      (s.noteStore f.src lsid stream cells scalar (some data) holder).frame? f.key = some { fr with stores := l } := by
  have hkey : frameKey f.src.pe f.src.frame = f.key := frameKey_div_mod f.key
  unfold State.noteStore
  simp only [frameOf_src h hu, hkey]
  cases hfind : fr.stores.find? fun r => r.idx == f.src.idx && r.cells == cells with
  | some r =>
    have hr := List.find?_some hfind
    simp only [Bool.and_eq_true, beq_iff_eq] at hr
    obtain ⟨hlsid, hstream⟩ := known r (List.mem_of_find?_eq_some hfind) hr.1 hr.2
    exact ⟨_, { r with data := some data, holder := holder }, List.mem_append_right _ (List.mem_singleton_self _),
      ⟨hr.1, hlsid, hstream, hr.2, rfl, rfl⟩, setFrame_frame?_same ..⟩
  | none =>
    exact ⟨_, { StoreRec.new f.idx lsid stream holder with cells := cells, data := some data }, List.mem_append_right _ (List.mem_singleton_self _),
      ⟨rfl, rfl, rfl, rfl, rfl, rfl⟩, setFrame_frame?_same ..⟩

/-- A store's LSID is satisfied and its record is held. -/
def Firing.noted (f : Firing) (s : State) (lsid stream : Nat) (cells : List (Nat × Nat)) (scalar : Bool) (data : List Byte) (holder : Option Word) : State :=
  (s.satisfy f.key lsid).noteStore f.src lsid stream cells scalar (some data) holder

/-- A body that answers and sends nothing itself, and takes over the references of some operands. -/
theorem fire_retire_keep {i : Instr} {s u : State} {f : Firing} {body : Body} {keep : List Tok} (h : Fires i s f)
    (hb : body f s = .ok { st := u, keep := keep }) :
    fire i body s = .next (u.retire f (keep.foldl (fun l t => l.erase t) (f.handles i)) .fired none none) := by
  obtain ⟨hfire, hmis, hnull⟩ := h
  rw [← finish_silent s u f i keep]
  simp [fire, hfire, State.issue, hmis, hnull, hb, State.conclude]

/-- A body that satisfies its LSID and notes its store: the store is held. -/
theorem holdsStore_of_note {i : Instr} {s : State} {f : Firing} {body : Body} {lsid stream : Nat} {cells : List (Nat × Nat)} {scalar : Bool}
    {data : List Byte} {holder : Option Word} {keep : List Tok} (hexec : exec i s = fire i body s) (hf : Fires i s f)
    (known : ∀ r ∈ f.fr.stores, r.idx = f.idx → r.cells = cells → r.lsid = lsid ∧ r.stream = stream)
    (hb : body f s = .ok { st := f.noted s lsid stream cells scalar data holder, keep := keep }) :
    HoldsStore i s f lsid stream cells data holder (keep.foldl (fun l t => l.erase t) (f.handles i)) := by
  have hsat : (s.satisfy f.key lsid).frame? f.key = some { f.fr with satisfied := lsid :: f.fr.satisfied } := by
    rw [State.satisfy, modFrame_frame?, hf.frame]; rfl
  obtain ⟨l, r, hr, hholds, hframe⟩ := noteStore_holds (data := data) (holder := holder) hsat rfl known scalar
  change (f.noted s lsid stream cells scalar data holder).frame? f.key = _ at hframe
  set u := f.noted s lsid stream cells scalar data holder
  set rel := keep.foldl (fun l t => l.erase t) (f.handles i)
  have hgo : exec i s = .next (u.retire f rel .fired none none) := hexec.trans (fire_retire_keep hf hb)
  obtain ⟨o, ho⟩ := retire_frame? hframe rel .fired none none
  have hrefs : SameRefs s (s.satisfy f.key lsid) := modFrame_sameRefs ..
  have hbytes : u.mem.bytes = s.mem.bytes := (noteStore_bytes ..).trans (by rw [State.satisfy, modFrame_mem])
  have hsync : u.sync = s.sync := (noteStore_sync ..).trans (by unfold State.satisfy State.modFrame; split <;> rfl)
  refine ⟨_, _, r, hgo, ho, rfl, rfl, hr, hholds.idx, hholds.lsid, hholds.stream, hholds.cells, hholds.data, hholds.holder,
    fun key => readByte_of_bytes ?_ ?_ key, fun hrel => ?_, ?_⟩
  · rw [retire_mem]; exact hbytes
  · exact ((dropToks_quiet f.key _ _ _).sync.trans (modFrame_quiet u f.key (fun fr => { fr.emptied f.idx with stat := fr.stat.put f.idx .fired })
      fun _ => .refl _).sync).trans hsync
  · rw [hrel]
    exact ((modFrame_sameRefs u f.key _).net.trans (noteStore_net ..)).trans hrefs.net
  · exact dropToks_tiles_congr (((modFrame_sameRefs u f.key _).tiles.trans (noteStore_tiles ..)).trans hrefs.tiles) f.pe rel

theorem claimLsid_ok {f : Firing} {s : State} {lsid : Nat} (h : f.fr.satisfied.contains lsid = false) : f.claimLsid s lsid = .ok (s.satisfy f.key lsid) :=
  if_neg (by rw [h]; exact Bool.false_ne_true)

/-! ### The bodies of the stores -/

section
variable {s : State} {f : Firing} (ha : f.a.kind = .scalar)
include ha

theorem stBody_ok {wd : Width} {w : MemW} (hb : f.b.kind = .scalar ∨ f.dependent = true) (hl : f.fr.satisfied.contains w.lsid.toNat = false)
    (hr : reachable (f.a.val + w.disp.signExtend 64).toNat wd.bytes) (hal : (f.a.val + w.disp.signExtend 64).toNat % wd.bytes = 0) :
    let cells := extent (f.a.val + w.disp.signExtend 64).toNat wd.bytes
    stBody wd w f s = .ok { st := f.noted s w.lsid.toNat w.stream.toNat cells true (leBytes wd.bytes f.b.val.toNat) none } := by
  have htaken : (decide (f.b.kind = .tile) && !f.dependent) = false := by
    rcases hb with hb | hb <;> simp [hb]
  simp only [stBody, addrOperand, wantScalar_of_ne (ne_tile_of_scalar ha), htaken, scalarAddr_ok rfl (bytes_pos _) hr hal, claimLsid_ok hl, bind, Except.bind]
  rfl

section
variable {w : TmemW} {ch : ChanFmt} {b : TileIn} (hch : chanOf (f.x.chan w.fc.toNat) = some ch) (hb : f.holds s f.b b)
  (hw : ch.fmt.width = b.slot.width) (hl : f.fr.satisfied.contains w.lsid.toNat = false)
include hch hb hw hl

theorem tstBody_ok (hr : reachable f.a.val.toNat (tileLen w ch)) (hal : f.a.val.toNat % ch.bytes = 0) :
    let data := tileBytes b.slot.codes (w.rows.toNat + 1) (w.cols.toNat + 1) ch.bytes
    tstBody w f s = .ok { st := f.noted s w.lsid.toNat w.stream.toNat (extent f.a.val.toNat (tileLen w ch)) false data (some b.h), keep := [f.b] } := by
  simp only [tstBody_eq ha hb.1 hch hr, if_neg (not_not.mpr hal), valueTile_ok hch hb hw, bind, Except.bind, claimLsid_ok hl]
  rfl

theorem tscatBody_ok (hroom : s.inflight f.pe < 512) (hr : reachable f.a.val.toNat (listBytes w)) (hal : f.a.val.toNat % 8 = 0) :
    let list := f.request w.lsid.toNat w.stream.toNat f.a.val.toNat (listBytes w) [] [] (.scatter w b.h (f.x.chan w.fc.toNat)) none
    let u := ((s.satisfy f.key w.lsid.toNat).request list).modFrame f.key fun fr =>
      fr.putStore (StoreRec.new f.idx w.lsid.toNat w.stream.toNat (some b.h))
    tscatBody w f s = .ok { st := u, keep := [f.b] } := by
  have hin : (s.satisfy f.key w.lsid.toNat).inflight f.pe = s.inflight f.pe := by
    unfold State.satisfy State.modFrame
    split <;> rfl
  have hroom' : ¬ 512 ≤ (s.satisfy f.key w.lsid.toNat).inflight f.pe := by omega
  simp only [tscatBody, addrOperand, wantScalar_of_ne (ne_tile_of_scalar ha), hb.1, listAddr_ok hr hal, valueTile_ok hch hb hw, claimLsid_ok hl,
    Firing.issueLoad, Config.maxRequests, hroom', bind, Except.bind, if_false, ne_eq, not_true]
  rw [extent_of_reachable hr]
  rfl

end

end

end Sys2Proof.Machine

section
open Sys2Proof Sys2Proof.Machine

/-- Settles O23: each body notes its store, and `holdsStore_of_note` says what that leaves. -/
theorem storesHold : Obligations.StoresHold := by
  refine fun s f h ha => ⟨fun wd w hf _ _ hb hl hr hal known => ?_, fun w ch b hch hb hw hl _ _ => ⟨fun hf hr hal known => ?_, fun hf hroom hr hal => ?_⟩⟩
  · rw [← extent_of_reachable hr] at known ⊢
    rw [← leBytes_eq]
    exact holdsStore_of_note rfl hf known (stBody_ok ha hb hl hr hal)
  · have hdata := tileBytes_eq b.slot.codes (w.rows.toNat + 1) (w.cols.toNat + 1) ch.bytes
    have hbody := tstBody_ok ha hch hb hw hl hr hal
    rw [hdata, hb.2.1, show extent f.a.val.toNat (tileLen w ch) = _ from extent_of_reachable hr] at hbody
    exact holdsStore_of_note rfl hf known hbody
  · have hbody := tscatBody_ok ha hch hb hw hl hroom hr hal
    rw [hb.2.1] at hbody
    exact fire_retire_keep hf hbody

end

/-! ## The life of a frame (O48) -/

namespace Sys2Proof.Machine

/-! ### Sends of a frame (R77, R83, R95) -/

/-- A token sent to a target that can take it: a write entry of the sending frame has it at once, a slot gets it by a class-0 message. -/
def State.give (s : State) (src : Src) (p : Target × Tok) : State :=
  match p.1 with
  | .none => s
  | .slot sd i => s.post (.pe src.pe) (.pe src.pe) 0
      (.token (tokenRaw 0 p.2 (s.slotOf src.ctx) src.pe src.frame (sideNum sd) i.toNat) src.uid src)
  | .write e => s.modFrame (frameKey src.pe src.frame) fun fr => { fr with outs := fr.outs.put e.toNat p.2 }

/-- The write entries of a frame after a send. -/
def outsWith (o : Tab Tok) (p : Target × Tok) : Tab Tok :=
  match p.1 with
  | .write e => o.put e.toNat p.2
  | _ => o

/-- No send of a list goes to a write entry that has its token when its turn comes. -/
def SendsClear : Tab Tok → List (Target × Tok) → Prop
  | _, [] => True
  | o, p :: l => (∀ e, p.1 = .write e → o.get? e.toNat = none) ∧ SendsClear (outsWith o p) l

/-- A target that is a write entry. -/
def Target.isWrite : Target → Bool
  | .write _ => true
  | _ => false

/-- Sends to distinct write entries that are free are clear. -/
theorem sendsClear_of_nodup {o : Tab Tok} {l : List (Target × Tok)} (hd : ((l.map Prod.fst).filter Target.isWrite).Nodup)
    (hfree : ∀ e, Target.write e ∈ l.map Prod.fst → o.get? e.toNat = none) : SendsClear o l := by
  induction l generalizing o with
  | nil => trivial
  | cons p l ih =>
    obtain ⟨tgt, tok⟩ := p
    refine ⟨fun e he => hfree e (by simp [← he]), ih ?_ fun e he => ?_⟩
    · exact hd.sublist ((List.sublist_cons_self _ _).filter _)
    · have hold := hfree e (List.mem_cons_of_mem _ he)
      cases tgt with
      | write d =>
        have hne : e ≠ d := by
          rintro rfl
          simp only [List.map_cons, List.filter_cons, Target.isWrite, if_true, List.nodup_cons, List.mem_filter, and_true] at hd
          exact hd.1 he
        exact (Tab.get?_put_ne (fun h => hne (BitVec.eq_of_toNat_eq h)) tok o).trans hold
      | _ => exact hold

/-- A send to a write entry that others do not name stays there. -/
theorem foldl_outsWith_of_not_mem {o : Tab Tok} {l : List (Target × Tok)} {e : BitVec 5} (h : Target.write e ∉ l.map Prod.fst) :
    (l.foldl outsWith o).get? e.toNat = o.get? e.toNat := by
  induction l generalizing o with
  | nil => rfl
  | cons p l ih =>
    obtain ⟨tgt, tok⟩ := p
    simp only [List.map_cons, List.mem_cons, not_or] at h
    rw [List.foldl_cons, ih h.2]
    cases tgt with
    | write d => exact Tab.get?_put_ne (fun heq => h.1 (by rw [BitVec.eq_of_toNat_eq heq])) tok o
    | _ => rfl

theorem foldl_outsWith_of_mem {o : Tab Tok} {l : List (Target × Tok)} (hd : ((l.map Prod.fst).filter Target.isWrite).Nodup) {e : BitVec 5} {tok : Tok}
    (h : (Target.write e, tok) ∈ l) : (l.foldl outsWith o).get? e.toNat = some tok := by
  induction l generalizing o with
  | nil => cases h
  | cons p l ih =>
    rw [List.map_cons, List.filter_cons] at hd
    rcases List.mem_cons.mp h with rfl | h
    · rw [List.foldl_cons, foldl_outsWith_of_not_mem]
      · exact Tab.get?_put_same ..
      · intro hm
        simp only [Target.isWrite, if_true, List.nodup_cons, List.mem_filter, and_true] at hd
        exact hd.1 hm
    · refine ih ?_ h
      split at hd
      · exact (List.nodup_cons.mp hd).2
      · exact hd

section
variable {s : State} {src : Src} {fr : Frame} (h : s.frame? (frameKey src.pe src.frame) = some fr)
include h

theorem sendTo_give {tgt : Target} (hfree : ∀ e, tgt = .write e → fr.outs.get? e.toNat = none) (tok : Tok) :
    s.sendTo src tgt tok = some (s.give src (tgt, tok)) := by
  cases tgt with
  | none => rfl
  | slot sd i => rfl
  | write e => simp [State.sendTo, State.give, h, hfree e rfl, modFrame_of_some h]

theorem give_frame? (p : Target × Tok) : (s.give src p).frame? (frameKey src.pe src.frame) = some { fr with outs := outsWith fr.outs p } := by
  obtain ⟨tgt, tok⟩ := p
  cases tgt with
  | write e => rw [State.give, modFrame_frame?, h]; rfl
  | _ => exact h

theorem foldl_give_frame? (l : List (Target × Tok)) :
    (l.foldl (fun u p => u.give src p) s).frame? (frameKey src.pe src.frame) = some { fr with outs := l.foldl outsWith fr.outs } := by
  induction l generalizing s fr with
  | nil => exact h
  | cons p l ih => exact ih (give_frame? h p)

end

/-- What sends leave: all but messages and write entries. -/
structure SendsOnly (key : Nat) (s u : State) : Prop where
  ctxs : u.ctxs = s.ctxs
  queue : u.pe.queue = s.pe.queue
  tasks : u.pe.tasks = s.pe.tasks
  mem : u.mem = s.mem
  sync : u.sync = s.sync
  frames : ∀ j, j ≠ key → u.frame? j = s.frame? j
  serial : s.sched.serial ≤ u.sched.serial
  net : ∀ m, m < s.sched.serial → u.net.get? m = s.net.get? m

theorem SendsOnly.trans {key : Nat} {s t u : State} (h : SendsOnly key s t) (g : SendsOnly key t u) : SendsOnly key s u :=
  ⟨g.ctxs.trans h.ctxs, g.queue.trans h.queue, g.tasks.trans h.tasks, g.mem.trans h.mem, g.sync.trans h.sync, fun j hj => (g.frames j hj).trans (h.frames j hj),
    h.serial.trans g.serial, fun m hm => (g.net m (lt_of_lt_of_le hm h.serial)).trans (h.net m hm)⟩

theorem give_sendsOnly (s : State) (src : Src) (p : Target × Tok) : SendsOnly (frameKey src.pe src.frame) s (s.give src p) := by
  obtain ⟨tgt, tok⟩ := p
  cases tgt with
  | none => exact ⟨rfl, rfl, rfl, rfl, rfl, fun _ _ => rfl, le_rfl, fun _ _ => rfl⟩
  | slot sd i => exact ⟨rfl, rfl, rfl, rfl, rfl, fun _ _ => rfl, Nat.le_succ _, fun m hm => Tab.get?_put_ne (Nat.ne_of_lt hm) _ _⟩
  | write e =>
    have hrefs := modFrame_sameRefs s (frameKey src.pe src.frame) fun fr => { fr with outs := fr.outs.put e.toNat tok }
    have hquiet := modFrame_quiet s (frameKey src.pe src.frame) (fun fr => { fr with outs := fr.outs.put e.toNat tok }) fun _ => .refl _
    refine ⟨hrefs.ctxs, ?_, ?_, hquiet.mem, hquiet.sync, hquiet.others, le_of_eq (congrArg _ hrefs.sched.symm), fun m _ => congrArg _ hrefs.net⟩
    · rw [State.give, hquiet.pe]
    · rw [State.give, hquiet.pe]

theorem foldl_give_sendsOnly (s : State) (src : Src) (l : List (Target × Tok)) :
    SendsOnly (frameKey src.pe src.frame) s (l.foldl (fun u p => u.give src p) s) := by
  induction l generalizing s with
  | nil => exact ⟨rfl, rfl, rfl, rfl, rfl, fun _ _ => rfl, le_rfl, fun _ _ => rfl⟩
  | cons p l ih => exact (give_sendsOnly s src p).trans (ih _)

/-- Every send to a slot is in flight after a list of sends. -/
theorem foldl_give_slot {s : State} {src : Src} {l : List (Target × Tok)} {sd : Side} {j : BitVec 7} {tok : Tok} (h : (Target.slot sd j, tok) ∈ l) :
    ∃ m e, (l.foldl (fun u p => u.give src p) s).net.get? m = some e ∧ e.dst = .pe src.pe ∧ e.cls = 0 ∧
      e.body = .token (tokenRaw 0 tok (s.slotOf src.ctx) src.pe src.frame (sideNum sd) j.toNat) src.uid src := by
  induction l generalizing s with
  | nil => cases h
  | cons p l ih =>
    rcases List.mem_cons.mp h with rfl | h
    · have hrest := (foldl_give_sendsOnly (s.give src (.slot sd j, tok)) src l).net s.sched.serial (Nat.lt_succ_self _)
      exact ⟨_, _, hrest.trans (Tab.get?_put_same ..), rfl, rfl, rfl⟩
    · obtain ⟨m, e, hm, hdst, hcls, hbody⟩ := ih (s := s.give src p) h
      refine ⟨m, e, hm, hdst, hcls, ?_⟩
      rw [hbody, slotOf_of_ctxs (give_sendsOnly s src p).ctxs]

/-! ### Read entries (R83) -/

/-- What the read entries of a block send. -/
def readSends (val : Nat → Tok) (l : List ReadEntry) : List (Target × Tok) := l.flatMap fun r => [(r.t0, val r.g), (r.t1, val r.g)]

theorem addRefs_scalars (s : State) {t : Tok} (h : t.kind ≠ .tile) (n : Nat) : s.addRefs (List.replicate n t) = some s := by
  induction n with
  | zero => rfl
  | succ n ih => simpa [List.replicate_succ, State.addRefs, h] using ih

/-- The step by which `sendReads` sends one token. -/
def sendRead (src : Src) (tok : Tok) (p : State × Bool) (g : Target) : State × Bool :=
  match p.1.sendTo src g tok with
  | some s => (s, p.2)
  | none => (p.1.dropTok src.pe tok, true)

theorem sendRead_clear {s : State} {src : Src} {fr : Frame} (h : s.frame? (frameKey src.pe src.frame) = some fr) {tok : Tok} {r : ReadEntry}
    (hc : SendsClear fr.outs [(r.t0, tok), (r.t1, tok)]) :
    ([r.t0, r.t1].filter (· != .none)).foldl (sendRead src tok) (s, false) = ((s.give src (r.t0, tok)).give src (r.t1, tok), false) := by
  obtain ⟨h0, h1, -⟩ := hc
  have send0 := sendTo_give h h0 tok
  have send1 := sendTo_give (give_frame? h (r.t0, tok)) h1 tok
  have hnone (u : State) : u.give src (.none, tok) = u := rfl
  have step (u v : State) (g : Target) (hu : u.sendTo src g tok = some v) : sendRead src tok (u, false) g = (v, false) := by
    simp only [sendRead, hu]
  by_cases hn0 : r.t0 = .none <;> by_cases hn1 : r.t1 = .none
  · simp [hn0, hn1, hnone]
  · have hs : (s.give src (r.t0, tok)) = s := by rw [hn0]; rfl
    rw [hs] at send1
    simp [hn0, hn1, hnone, step _ _ _ send1]
  · simp [hn0, hn1, hnone, step _ _ _ send0]
  · simp [hn0, hn1, step _ _ _ send0, step _ _ _ send1]

theorem SendsClear.append {o : Tab Tok} {l m : List (Target × Tok)} (h : SendsClear o (l ++ m)) :
    SendsClear o l ∧ SendsClear (l.foldl outsWith o) m := by
  induction l generalizing o with
  | nil => exact ⟨trivial, h⟩
  | cons p l ih =>
    obtain ⟨hp, hl⟩ := h
    obtain ⟨hhead, htail⟩ := ih hl
    exact ⟨⟨hp, hhead⟩, htail⟩

/-- Read entries whose values are no handles and whose write entries are free send everything. -/
theorem sendReads_clear {s : State} {src : Src} {fr : Frame} {val : Nat → Tok} {l : List ReadEntry} (h : s.frame? (frameKey src.pe src.frame) = some fr)
    (hv : ∀ r ∈ l, (val r.g).kind ≠ .tile) (hc : SendsClear fr.outs (readSends val l)) :
    s.sendReads src val l = ((readSends val l).foldl (fun u p => u.give src p) s, none) := by
  induction l generalizing s fr with
  | nil => rfl
  | cons r l ih =>
    obtain ⟨hhead, htail⟩ := SendsClear.append (l := [(r.t0, val r.g), (r.t1, val r.g)]) hc
    have hsent := sendRead_clear h hhead
    have hframe := give_frame? (give_frame? h (r.t0, val r.g)) (r.t1, val r.g)
    have hrest := ih hframe (fun q hq => hv q (List.mem_cons_of_mem _ hq)) htail
    rw [State.sendReads]
    simp only [addRefs_scalars s (hv r (List.mem_cons_self ..))]
    change (let sent := ([r.t0, r.t1].filter (· != .none)).foldl (sendRead src (val r.g)) (s, false)
      if sent.2 then (sent.1, some .operand) else sent.1.sendReads src val l) = _
    simp only [hsent, Bool.false_eq_true, if_false]
    exact hrest

/-! ### A grant (R74) -/

/-- The frame that a block gets is free. -/
theorem framePlace_free {s : State} {pe : Nat} {g : Cfg} {id run : Nat} (h : s.framePlace pe g = some (id, run)) :
    id < 256 ∧ s.frame? (frameKey pe id) = none := by
  unfold State.framePlace at h
  split at h
  next f r hf _ =>
    cases h
    have hid : id < 256 := List.mem_range.mp (List.mem_of_find?_eq_some hf)
    have hnew := List.find?_some hf
    refine ⟨hid, ?_⟩
    cases hfr : s.frame? (frameKey pe id) with
    | none => rfl
    | some fr =>
      have hmem : (frameKey pe id, fr) ∈ s.framesAt pe := by
        refine List.mem_filter.mpr ⟨Tab.mem_of_get? hfr, ?_⟩
        simp only [frameKey, beq_iff_eq]
        omega
      have hused : id ∈ (s.framesAt pe).map fun p => p.1 % 256 := by
        refine List.mem_map.mpr ⟨_, hmem, ?_⟩
        simp only [frameKey]
        omega
      simp [hused] at hnew
  next => cases h

section
variable {s : State} {pe id run : Nat} {a : Activation} {g : Cfg} {x : Ctx} {t : Task}

/-- The frame that a grant opens. -/
def State.grantedFrame (s : State) (a : Activation) (g : Cfg) (t : Task) (run : Nat) : Frame :=
  newFrame a g s.sched.serial (match a.iter, t.loop with | some _, some l => l.uid | _, _ => 0) (a.iter.isSome && t.loop.any fun l => decide (1 < l.k)) run
    s.sched.cycle

/-- The state in which a granted frame begins. -/
def State.granted (s : State) (pe : Nat) (a : Activation) (g : Cfg) (t : Task) (id run : Nat) : State :=
  (((((State.bump { s with pe := { s.pe with queue := s.pe.queue.erase a } }).modWin pe g.num fun w => { w with used := s.sched.cycle }).setTask pe a.task
    { t with yielded := false }).modCtx a.ctx fun y => { y with breaks := [] }).setFrame (frameKey pe id) (s.grantedFrame a g t run))

theorem granted_frame? : (s.granted pe a g t id run).frame? (frameKey pe id) = some (s.grantedFrame a g t run) := setFrame_frame?_same ..

theorem granted_queue : (s.granted pe a g t id run).pe.queue = s.pe.queue.erase a := by
  unfold State.granted State.modCtx
  split <;> rfl

theorem modCtx_slotOf (s : State) (c : Nat) {g : Ctx → Ctx} (hg : ∀ x, (g x).slot = x.slot) (d : Nat) : (s.modCtx c g).slotOf d = s.slotOf d := by
  unfold State.modCtx
  split
  next x hx =>
    by_cases hd : d = c
    · subst hd; simp [State.slotOf, ctx?_setCtx_same, hx, hg]
    · simp [State.slotOf, ctx?_setCtx_ne s hd]
  next => rfl

theorem granted_slotOf (d : Nat) : (s.granted pe a g t id run).slotOf d = s.slotOf d :=
  modCtx_slotOf (g := fun y => { y with breaks := [] }) _ a.ctx (fun _ => rfl) d

/-- A grant without breakpoints or an instruction to skip opens the frame and begins it. -/
theorem openAct_eq (hb : x.breaks = []) (hs : x.skip = none) (hr : g.badRegs t = false) :
    s.openAct pe a g x t id run = (s.granted pe a g t id run).begin (frameKey pe id) (s.grantedFrame a g t run) t := by
  simp only [State.openAct, hb, hs, hr, brkHit, Option.filter_none, Option.any_none, Option.isSome_none, List.find?_nil, Bool.false_eq_true, if_false]
  rfl

theorem begin_eq {u v : State} {k : Nat} {f : Frame} (hi : f.cfg.hasIrrevocable = false) (hiter : f.iter = none)
    (h : u.sendReads (headSrc k f) (t.readValue none) f.cfg.reads = (v, none)) : u.begin k f t = v := by
  have hopen : u.openCheck (k / 256) f.ctx f.cfg t.stack.length = none := by simp [State.openCheck, hi]
  simp only [State.begin, hopen, hiter, h]

end

theorem readSends_map_fst (val : Nat → Tok) (l : List ReadEntry) : (readSends val l).map Prod.fst = l.flatMap fun r => [r.t0, r.t1] := by
  simp [readSends, List.map_flatMap]

theorem mem_readSends {val : Nat → Tok} {l : List ReadEntry} {r : ReadEntry} (hr : r ∈ l) {w : Target} (hw : w = r.t0 ∨ w = r.t1) :
    (w, val r.g) ∈ readSends val l := by
  refine List.mem_flatMap.mpr ⟨r, hr, ?_⟩
  rcases hw with rfl | rfl <;> simp

theorem exec_frameGrant {s : State} {pe : Nat} {a : Activation} {g : Cfg} {x : Ctx} {t : Task} {id run : Nat} (hn : s.nextGrant pe = some a)
    (hg : a.cfg = some g) (hx : s.ctx? a.ctx = some x) (ht : s.task? pe a.task = some t) (hp : s.framePlace pe g = some (id, run)) :
    exec (.frameGrant pe) s = .next (s.openAct pe a g x t id run) := by
  simp [exec, execFrameGrant, event, grantEvent, hn, hg, hx, ht, hp]

/-! ### A frame is freed (R76) -/

theorem delFrame_frame?_ne (s : State) {k j : Nat} (h : j ≠ k) : (s.delFrame k).frame? j = s.frame? j := Tab.get?_del_ne h _

theorem delFrame_frame?_same {s : State} (h : Tab.sorted s.pe.frames = true) (k : Nat) : (s.delFrame k).frame? k = none := Tab.get?_del_same k h

theorem requeueKilled_of_alive {s : State} {pe t : Nat} (h : ∀ k, s.task? pe t = some k → k.preempt ≠ .killing) : s.requeueKilled pe t = s := by
  unfold State.requeueKilled
  split
  · rfl
  next k hk => simp [h k hk]

theorem exec_frameFree {s : State} {pe fid : Nat} {f : Frame} (hf : s.frame? (frameKey pe fid) = some f) (ho : f.isOpen = false) (hout : f.outstanding = 0)
    (hk : ∀ k, s.task? pe f.task = some k → k.preempt ≠ .killing) : exec (.frameFree pe fid) s = .next (s.delFrame (frameKey pe fid)).sweepStale := by
  have halive : (s.delFrame (frameKey pe fid)).sweepStale.requeueKilled pe f.task = (s.delFrame (frameKey pe fid)).sweepStale := requeueKilled_of_alive hk
  simp [exec, execFrameFree, event, freeEvent, hf, ho, hout, halive]

/-! ### The sequencer (R93) -/

theorem upcoming_eq {l : Loop} (h : l.next ∉ l.started) : l.upcoming = l.next := by
  unfold Loop.upcoming
  generalize l.started.length = n
  induction n with
  | zero => rfl
  | succ n ih => rw [List.range_succ, List.foldl_append, ih]; simp [h]

/-- The sequencer has an iteration to start, as the statements put it. -/
theorem goes_iff {l : Loop} (h : l.next ∉ l.started) : l.goes = true ↔
    (if 0 < l.step then l.next < l.stop else l.step < 0 ∧ l.stop < l.next) ∧ (l.brk = none ∨ if 0 < l.step then l.next < l.limit else l.limit < l.next) := by
  simp only [Loop.goes, upcoming_eq h, loopGoes, seqBefore, Bool.and_eq_true, Bool.or_eq_true, decide_eq_true_eq, Option.isNone_iff_eq_none]
  by_cases hs : 0 < l.step
  · have hneg : ¬ l.step < 0 := by omega
    simp [hs, hneg]
  · simp [hs]

theorem modTask_of_some {s : State} {pe t : Nat} {k : Task} (h : s.task? pe t = some k) (g : Task → Task) : s.modTask pe t g = s.setTask pe t (g k) := by
  simp only [State.modTask, h]

theorem setTask_task?_same (s : State) (pe t : Nat) (k : Task) : (s.setTask pe t k).task? pe t = some k := Tab.get?_put_same ..

/-- The state in which the sequencer has queued the next iteration. -/
def State.started (s : State) (pe task : Nat) (k : Task) (l : Loop) : State :=
  let u := s.setTask pe task { k with loop := some { l with next := l.next + l.step, started := l.started ++ [l.next] } }
  { u with pe := { u.pe with queue := u.pe.queue ++ [Activation.fresh pe k.ctx task l.body s.sched.cycle (some l.next)] } }

theorem exec_loopIterationStart {s : State} {pe task : Nat} {k : Task} {l : Loop} (ht : s.task? pe task = some k) (hl : k.loop = some l)
    (hfin : l.fin = false) (hpaused : l.next ∉ l.paused) (hnew : l.next ∉ l.started) (hgoes : l.goes = true) (hroom : l.started.length < l.k)
    (hissue : s.issuing k.ctx = true) (hqueue : ∀ a ∈ s.pe.queue, a.pe = pe → a.task ≠ task) :
    exec (.loopIterationStart pe task) s = .next (s.started pe task k l) := by
  have hq : (s.pe.queue.any fun a => a.pe == pe && a.task == task) = false := by
    simp only [List.any_eq_false, Bool.and_eq_true, beq_iff_eq, not_and]
    exact hqueue
  have hgo : (l.fin || l.paused.contains l.next || !l.goes || decide (l.k ≤ l.started.length) || !s.issuing k.ctx ||
      s.pe.queue.any fun a => a.pe == pe && a.task == task) = false := by
    simp [hfin, hpaused, hgoes, hroom, hissue, hq]
  simp only [exec, execLoopIterationStart, event, iterStartEvent, ht, hl, upcoming_eq hnew, hgo, State.modLoop, modTask_of_some ht,
    Bool.false_eq_true, if_false, Option.map_some]
  rfl

end Sys2Proof.Machine

namespace Sys2Proof.Machine

/-! ### The state apart from what a commit only passes through -/

/-- A projection that a step keeps, a fold of the step keeps. -/
theorem foldl_fixed {α β γ : Type} (π : α → γ) {g : α → β → α} (hg : ∀ a b, π (g a b) = π a) (l : List β) (a : α) : π (l.foldl g a) = π a := by
  induction l generalizing a with
  | nil => rfl
  | cons b l ih => exact (ih _).trans (hg a b)

/-- The state without tiles, rings, accumulators, counts, holds, translations and messages, which a commit changes in passing. -/
def State.core (s : State) : State :=
  { s with pe := { s.pe with tiles := [], rings := [], accs := [], pctx := [] }, mem := { s.mem with holds := [] }, kiln := { s.kiln with entries := [] }
           net := [], sched := { s.sched with serial := 0 } }

theorem dropTok_core (s : State) (pe : Nat) (t : Tok) : (s.dropTok pe t).core = s.core := by
  unfold State.dropTok State.release State.dropRef
  split
  · split
    · split <;> rfl
    · rfl
  · rfl

theorem dropToks_core (s : State) (pe : Nat) (l : List Tok) : (s.dropToks pe l).core = s.core := foldl_fixed State.core (fun u t => dropTok_core u pe t) l s

theorem tellHeads_core (s : State) (pe q : Nat) : (s.tellHeads pe q).core = s.core := by
  refine foldl_fixed State.core (fun u p => ?_) s.copies s
  split
  · split <;> rfl
  · rfl

theorem commitRing_core (s : State) (pe uid q : Nat) : (s.commitRing pe uid q).core = s.core := by
  unfold State.commitRing
  simp only
  split
  · rfl
  · split
    · rfl
    · exact tellHeads_core _ pe q

theorem addHold_core (s : State) (src : Src) (waits chain : List Nat) (streams : Nat) (loads writes : Bool) :
    (s.addHold src waits chain streams loads writes).core = s.core := by
  unfold State.addHold
  simp only
  split <;> rfl

theorem commitHolds_core (s : State) (k : Nat) (f : Frame) : (s.commitHolds k f).core = s.core := by
  unfold State.commitHolds
  extract_lets src pend all
  by_cases h : all = true
  · rw [if_pos h]
    exact addHold_core ..
  · rw [if_neg h]
    refine foldl_fixed State.core (fun u e => ?_) f.held s
    cases e with
    | fence => exact addHold_core ..
    | sbar => exact addHold_core ..
    | _ => rfl

theorem keepAccs_core (s : State) (pe uid : Nat) : (s.keepAccs pe uid).core = s.core := rfl

theorem setPctx_core (s : State) (c pe : Nat) (v : PeCtx) : (s.setPctx c pe v).core = s.core := rfl

/-- What memory reads from, the accesses in flight and the time. -/
def State.store (s : State) : List Host.Cell × Tab Access × SyncState × Nat := (s.mem.bytes, s.mem.accesses, s.sync, s.sched.cycle)

theorem readByte_of_store {s t : State} (h : t.store = s.store) (key : Nat) : t.readByte key = s.readByte key := by
  simp only [State.store, Prod.mk.injEq] at h
  unfold State.readByte State.lineOf State.engine
  rw [h.1, h.2.2.1]

/-! ### Where a commit has got to -/

/-- What a commit changes of its frame, its task, its context and the queue. -/
structure Look where
  frame : Frame
  task : Task
  ctx : Ctx
  queue : List Activation

/-- A state that a commit of `f` reaches from `b` looks like `l`, and all else is as in `b`. -/
structure Stage (b : State) (key : Nat) (f : Frame) (l : Look) (u : State) : Prop where
  frame : u.frame? key = some l.frame
  task : u.task? (key / 256) f.task = some l.task
  ctx : u.ctx? f.ctx = some l.ctx
  queue : u.pe.queue = l.queue
  others : ∀ j, j ≠ key → u.frame? j = b.frame? j
  slots : ∀ d, u.slotOf d = b.slotOf d
  store : u.store = b.store

section
variable {b u v : State} {key : Nat} {f : Frame} {l : Look} (h : Stage b key f l u)
include h

theorem Stage.core (hv : v.core = u.core) : Stage b key f l v where
  frame := (congrArg (State.frame? · key) hv).trans h.frame
  task := (congrArg (State.task? · (key / 256) f.task) hv).trans h.task
  ctx := (congrArg (State.ctx? · f.ctx) hv).trans h.ctx
  queue := (congrArg (fun s : State => s.pe.queue) hv).trans h.queue
  others j hj := (congrArg (State.frame? · j) hv).trans (h.others j hj)
  slots d := (congrArg (State.slotOf · d) hv).trans (h.slots d)
  store := (congrArg State.store hv).trans h.store

theorem Stage.cycle : u.sched.cycle = b.sched.cycle := congrArg (fun p : List Host.Cell × Tab Access × SyncState × Nat => p.2.2.2) h.store

theorem Stage.setFrame (g : Frame) : Stage b key f { l with frame := g } (u.setFrame key g) :=
  ⟨setFrame_frame?_same .., h.task, h.ctx, h.queue, fun j hj => (setFrame_frame?_ne u hj g).trans (h.others j hj), h.slots, h.store⟩

theorem Stage.setTask (k : Task) : Stage b key f { l with task := k } (u.setTask (key / 256) f.task k) :=
  ⟨h.frame, setTask_task?_same .., h.ctx, h.queue, h.others, h.slots, h.store⟩

theorem Stage.modTask (g : Task → Task) : Stage b key f { l with task := g l.task } (u.modTask (key / 256) f.task g) := by
  rw [modTask_of_some h.task]
  exact h.setTask _

theorem Stage.modCtx {g : Ctx → Ctx} (hg : ∀ x, (g x).slot = x.slot) : Stage b key f { l with ctx := g l.ctx } (u.modCtx f.ctx g) := by
  have hslot (d : Nat) := (modCtx_slotOf u f.ctx hg d).trans (h.slots d)
  have hset : u.modCtx f.ctx g = u.setCtx f.ctx (g l.ctx) := by simp only [State.modCtx, h.ctx]
  rw [hset] at hslot ⊢
  exact ⟨h.frame, h.task, ctx?_setCtx_same .., h.queue, h.others, hslot, h.store⟩

theorem Stage.queueBlock (addr : Nat) :
    Stage b key f { l with queue := l.queue ++ [Activation.fresh (key / 256) f.ctx f.task addr u.sched.cycle none] } (u.queueBlock (key / 256) f.task f.ctx addr) :=
  ⟨h.frame, h.task, h.ctx, by rw [← h.queue]; rfl, h.others, h.slots, h.store⟩

end

/-! ### The g-file (R84) -/

theorem setAt_length {α : Type} (n : Nat) (v : α) (l : List α) : (setAt n v l).length = l.length := by
  induction l generalizing n with
  | nil => simp [setAt]
  | cons a l ih =>
    cases n with
    | zero => rfl
    | succ n => simp [setAt, ih]

theorem setAt_get_same {α : Type} {n : Nat} {l : List α} (h : n < l.length) (v : α) : (setAt n v l)[n]? = some v := by
  induction l generalizing n with
  | nil => cases h
  | cons a l ih =>
    cases n with
    | zero => rfl
    | succ n => simpa [setAt] using ih (Nat.lt_of_succ_lt_succ h)

theorem setAt_get_ne {α : Type} {n m : Nat} (h : m ≠ n) (v : α) (l : List α) : (setAt n v l)[m]? = l[m]? := by
  induction l generalizing n m with
  | nil => simp [setAt]
  | cons a l ih =>
    cases n with
    | zero =>
      cases m with
      | zero => exact absurd rfl h
      | succ m => rfl
    | succ n =>
      cases m with
      | zero => rfl
      | succ m => simpa [setAt] using ih (fun e => h (congrArg _ e))

/-- One write entry, numbered `p.2`, of register `p.1`. -/
def regWritten (outs : Tab Tok) (regs : List Tok) (p : Nat × Nat) : List Tok :=
  match outs.get? p.2 with
  | some t => if t.kind = .null ∨ p.1 = 0 then regs else setAt p.1 t regs
  | none => regs

theorem regWritten_length (outs : Tab Tok) (regs : List Tok) (p : Nat × Nat) : (regWritten outs regs p).length = regs.length := by
  unfold regWritten
  split
  · split
    · rfl
    · exact setAt_length ..
  · rfl

theorem regWritten_ne {outs : Tab Tok} {regs : List Tok} {p : Nat × Nat} {r : Nat} (h : r ≠ p.1) : (regWritten outs regs p)[r]? = regs[r]? := by
  unfold regWritten
  split
  · split
    · rfl
    · exact setAt_get_ne h ..
  · rfl

/-- The registers after an activation's write entries. -/
def Frame.written (f : Frame) (regs : List Tok) : List Tok := f.cfg.writes.zipIdx.foldl (regWritten f.outs) regs

/-- Of write entries of distinct registers each gives its register its token, unless that is a null. -/
theorem foldl_regWritten {outs : Tab Tok} {l : List (Nat × Nat)} {regs : List Tok} {r e : Nat} {v : Tok} (hd : (l.map Prod.fst).Nodup) (hm : (r, e) ∈ l)
    (hv : outs.get? e = some v) (h0 : 0 < r) (hr : r < regs.length) :
    (l.foldl (regWritten outs) regs)[r]? = if v.kind = .null then regs[r]? else some v := by
  have hrest {l : List (Nat × Nat)} (hl : r ∉ l.map Prod.fst) (regs : List Tok) : (l.foldl (regWritten outs) regs)[r]? = regs[r]? := by
    induction l generalizing regs with
    | nil => rfl
    | cons p l ih =>
      simp only [List.map_cons, List.mem_cons, not_or] at hl
      exact (ih hl.2 _).trans (regWritten_ne hl.1)
  induction l generalizing regs with
  | nil => cases hm
  | cons p l ih =>
    obtain ⟨hp, hl⟩ := List.nodup_cons.mp hd
    rcases List.mem_cons.mp hm with rfl | hm
    · rw [List.foldl_cons, hrest hp]
      by_cases hn : v.kind = .null
      · simp [regWritten, hv, hn]
      · simp [regWritten, hv, hn, Nat.ne_of_gt h0, setAt_get_same hr]
    · have hne : r ≠ p.1 := fun he => hp (he ▸ List.mem_map_of_mem (f := Prod.fst) hm)
      rw [List.foldl_cons, ih hl hm (by rwa [regWritten_length]), regWritten_ne hne]

theorem Frame.written_get {f : Frame} {regs : List Tok} {e r : Nat} {v : Tok} (hd : f.cfg.writes.Nodup) (hw : f.cfg.writes[e]? = some r)
    (hv : f.outs.get? e = some v) (h0 : 0 < r) (hr : r < regs.length) : (f.written regs)[r]? = if v.kind = .null then regs[r]? else some v := by
  refine foldl_regWritten ?_ ?_ hv h0 hr
  · simpa using hd
  · exact List.mk_mem_zipIdx_iff_getElem?.mpr hw

theorem Stage.writeReg {b u : State} {key : Nat} {f : Frame} {l : Look} (h : Stage b key f l u) {outs : Tab Tok} {p : Nat × Nat} {t : Tok}
    (ht : outs.get? p.2 = some t) : Stage b key f { l with task := { l.task with regs := regWritten outs l.task.regs p } } (u.writeReg (key / 256) f.task p.1 t) := by
  unfold State.writeReg regWritten
  simp only [ht, h.task]
  by_cases hn : t.kind = .null
  · simpa only [hn, true_or, if_true] using h
  by_cases h0 : p.1 = 0
  · simpa only [hn, h0, or_true, if_true, if_false] using h.core (dropTok_core u _ t)
  · simpa only [hn, h0, or_self, if_false] using (h.setTask _).core (dropTok_core _ _ _)

theorem Stage.writeRegs {b u : State} {key : Nat} {f : Frame} {l : Look} (h : Stage b key f l u) :
    Stage b key f { l with task := { l.task with regs := f.written l.task.regs } } (u.writeRegs key f) := by
  unfold State.writeRegs Frame.written
  generalize f.cfg.writes.zipIdx = ws
  induction ws generalizing u l with
  | nil => exact h
  | cons p ws ih =>
    rw [List.foldl_cons, List.foldl_cons]
    cases ht : f.outs.get? p.2 with
    | none =>
      have hsame : regWritten f.outs l.task.regs p = l.task.regs := by simp only [regWritten, ht]
      simpa only [hsame] using ih h
    | some t => exact ih (h.writeReg ht)

/-! ### Held effects (R112) -/

/-- What a held effect does to its context. -/
def Effect.onCtx (x : Ctx) (e : Effect) : Ctx :=
  match e with
  | .fcset c w => { x with fc := setAt c (w.truncate 16) x.fc }
  | .trescale c d => { x with fc := setAt c (rescaled (x.chan c) d).1 x.fc }
  | .srw m v => { x with regs := x.regs.put m v }
  | .pwrhint w => { x with hint := w }
  | _ => x

/-- What a held effect does to its task. -/
def Effect.onTask (now : Nat) (t : Task) (e : Effect) : Task :=
  match e with
  | .remest w => { t with estWord := wordOf (w.toNat % 2 ^ 32), estCycle := now }
  | .ckpt => { t with steps := t.steps + 1 }
  | _ => t

/-- The effects that act on their context and task alone. -/
def Effect.plain (e : Effect) : Prop :=
  (∃ c w, e = .fcset c w) ∨ (∃ c d, e = .trescale c d) ∨ (∃ m v, e = .srw m v ∧ m ≠ 0x0A) ∨ (∃ w, e = .remest w) ∨ (∃ w, e = .pwrhint w) ∨
    e = .ckpt ∨ (∃ p q a r, e = .fence p q a r) ∨ ∃ p q, e = .sbar p q

theorem Stage.commitEffect {b u : State} {key : Nat} {f : Frame} {l : Look} (h : Stage b key f l u) {e : Effect} (he : e.plain) :
    Stage b key f { l with ctx := e.onCtx l.ctx, task := e.onTask b.sched.cycle l.task } (u.commitEffect key f e) := by
  obtain ⟨c, w, rfl⟩ | ⟨c, d, rfl⟩ | ⟨m, v, rfl, hm⟩ | ⟨w, rfl⟩ | ⟨w, rfl⟩ | rfl | ⟨p, q, a, r, rfl⟩ | ⟨p, q, rfl⟩ := he
  · exact h.modCtx (g := fun x => { x with fc := setAt c (w.truncate 16) x.fc }) fun _ => rfl
  · exact h.modCtx (g := fun x => { x with fc := setAt c (rescaled (x.chan c) d).1 x.fc }) fun _ => rfl
  · have hs : u.commitEffect key f (.srw m v) = u.modCtx f.ctx fun x => { x with regs := x.regs.put m v } := by
      simp [State.commitEffect, State.commitSrw, hm]
    rw [hs]
    exact h.modCtx (g := fun x => { x with regs := x.regs.put m v }) fun _ => rfl
  · rw [← h.cycle]
    exact h.modTask fun t => { t with estWord := wordOf (w.toNat % 2 ^ 32), estCycle := u.sched.cycle }
  · exact h.modCtx (g := fun x => { x with hint := w }) fun _ => rfl
  · exact h.modTask fun t => { t with steps := t.steps + 1 }
  · exact h
  · exact h

theorem Stage.commitEffects {b u : State} {key : Nat} {f : Frame} {l : Look} (h : Stage b key f l u) {es : List Effect} (he : ∀ e ∈ es, e.plain) :
    Stage b key f { l with ctx := es.foldl Effect.onCtx l.ctx, task := es.foldl (Effect.onTask b.sched.cycle) l.task }
      (es.foldl (fun s e => s.commitEffect key f e) u) := by
  induction es generalizing u l with
  | nil => exact h
  | cons e es ih => exact ih (h.commitEffect (he e (List.mem_cons_self ..))) fun e he' => he e (List.mem_cons_of_mem _ he')

/-- The effects of a task's commit leave all but its estimate and its count of checkpoints. -/
theorem foldl_onTask_same {α : Type} (π : Task → α) (hr : ∀ t w n, π { t with estWord := w, estCycle := n } = π t)
    (hc : ∀ t n, π { t with steps := n } = π t) (now : Nat) (es : List Effect) (t : Task) : π (es.foldl (Effect.onTask now) t) = π t := by
  refine foldl_fixed π (fun t e => ?_) es t
  cases e with
  | remest w => exact hr ..
  | ckpt => exact hc ..
  | _ => rfl

theorem foldl_onTask_steps (now : Nat) (es : List Effect) (t : Task) : (es.foldl (Effect.onTask now) t).steps = t.steps + es.count .ckpt := by
  induction es generalizing t with
  | nil => rfl
  | cons e es ih =>
    rw [List.foldl_cons, ih, List.count_cons]
    by_cases he : e = .ckpt
    · have hstep : (Effect.onTask now t e).steps = t.steps + 1 := by rw [he]; rfl
      rw [hstep, if_pos (beq_iff_eq.mpr he), Nat.add_right_comm, Nat.add_assoc]
    · have hsame : (Effect.onTask now t e).steps = t.steps := by
        cases e with
        | ckpt => exact absurd rfl he
        | _ => rfl
      rw [hsame, if_neg (mt beq_iff_eq.mp he), Nat.add_zero]

/-- The last REMEST of an activation gives the estimate (R417). -/
theorem foldl_onTask_est {now : Nat} {p q : List Effect} {w : Word} (hq : ∀ v, Effect.remest v ∉ q) (t : Task) :
    ((p ++ .remest w :: q).foldl (Effect.onTask now) t).estWord = wordOf (w.toNat % 2 ^ 32) ∧
      ((p ++ .remest w :: q).foldl (Effect.onTask now) t).estCycle = now := by
  have hkeep (es : List Effect) (hes : ∀ v, Effect.remest v ∉ es) (t : Task) :
      (es.foldl (Effect.onTask now) t).estWord = t.estWord ∧ (es.foldl (Effect.onTask now) t).estCycle = t.estCycle := by
    induction es generalizing t with
    | nil => exact ⟨rfl, rfl⟩
    | cons e es ih =>
      obtain ⟨hw, hc⟩ := ih (fun v hv => hes v (List.mem_cons_of_mem _ hv)) (Effect.onTask now t e)
      cases e with
      | remest v => exact absurd (List.mem_cons_self ..) (hes v)
      | _ => exact ⟨hw, hc⟩
  rw [List.foldl_append, List.foldl_cons]
  exact hkeep q hq _

/-! ### Stores (R84) -/

/-- The state without what is in flight to memory. -/
def State.sansAccesses (s : State) : State := { s with mem := { s.mem with accesses := [] }, sched := { s.sched with serial := 0 } }

/-- Accesses join those in flight. -/
structure Released (s t : State) : Prop where
  same : t.sansAccesses = s.sansAccesses
  serial : s.sched.serial ≤ t.sched.serial
  old : ∀ m, m < s.sched.serial → t.mem.accesses.get? m = s.mem.accesses.get? m

theorem Released.refl (s : State) : Released s s := ⟨rfl, le_rfl, fun _ _ => rfl⟩

theorem Released.trans {s t u : State} (h : Released s t) (g : Released t u) : Released s u :=
  ⟨g.same.trans h.same, h.serial.trans g.serial, fun m hm => (g.old m (lt_of_lt_of_le hm h.serial)).trans (h.old m hm)⟩

theorem Released.foldl {α : Type} {g : State → α → State} (hg : ∀ u a, Released u (g u a)) (l : List α) (s : State) : Released s (l.foldl g s) := by
  induction l generalizing s with
  | nil => exact .refl s
  | cons a l ih => exact (hg s a).trans (ih _)

theorem addAccess_released (s : State) (a : Access) : Released s (s.addAccess a) :=
  ⟨rfl, Nat.le_succ _, fun _ hm => Tab.get?_put_ne (Nat.ne_of_lt hm) ..⟩

theorem releaseStore_released (s : State) (k : Nat) (f : Frame) (r : StoreRec) : Released s (s.releaseStore k f r) := by
  unfold State.releaseStore
  split
  · exact .refl s
  · split
    · exact .refl s
    · exact addAccess_released ..

theorem releaseBarinit_released (s : State) (k : Nat) (f : Frame) (e : Effect) : Released s (s.releaseBarinit k f e) := by
  unfold State.releaseBarinit
  split
  · exact addAccess_released ..
  · exact .refl s

/-- An access by which a held store goes to memory. -/
def StoreRec.flies (r : StoreRec) (d : List Byte) (s : State) : Prop :=
  ∃ m a, s.mem.accesses.get? m = some a ∧ a.write = true ∧ a.released = true ∧ a.buf = d ∧ a.cells = r.cells ∧ a.stream = r.stream ∧
    a.purpose = .store r.holder

theorem foldl_releaseStore_flies {s t : State} {k : Nat} {f : Frame} {l : List StoreRec} {r : StoreRec} {d : List Byte} (hr : r ∈ l) (hdrop : r.dropped = false)
    (hd : r.data = some d) (ht : Released (l.foldl (fun s r => s.releaseStore k f r) s) t) : r.flies d t := by
  induction l generalizing s with
  | nil => cases hr
  | cons q l ih =>
    rcases List.mem_cons.mp hr with rfl | hr
    · have hlater := (Released.foldl (fun u r => releaseStore_released u k f r) l _).trans ht
      simp only [State.releaseStore, hd, hdrop, Bool.false_eq_true, if_false] at hlater
      exact ⟨s.sched.serial, _, (hlater.old _ (Nat.lt_succ_self _)).trans (Tab.get?_put_same ..), rfl, rfl, rfl, rfl, rfl, rfl⟩
    · exact ih hr ht

theorem mem_insertBy {α : Type} {key : α → Nat} {a b : α} {l : List α} (h : b = a ∨ b ∈ l) : b ∈ insertBy key a l := by
  induction l with
  | nil => simpa [insertBy] using h
  | cons c l ih =>
    unfold insertBy
    split
    · exact List.mem_cons.mpr h
    · rcases h with rfl | h
      · exact List.mem_cons_of_mem _ (ih (.inl rfl))
      · rcases List.mem_cons.mp h with rfl | h
        · exact List.mem_cons_self ..
        · exact List.mem_cons_of_mem _ (ih (.inr h))

theorem mem_sortBy {α : Type} {key : α → Nat} {b : α} {l : List α} (h : b ∈ l) : b ∈ sortBy key l := by
  have hfold (l : List α) (acc : List α) (hb : b ∈ acc ∨ b ∈ l) : b ∈ l.foldl (fun acc a => insertBy key a acc) acc := by
    induction l generalizing acc with
    | nil => exact hb.resolve_right (by simp)
    | cons a l ih =>
      refine ih _ ?_
      rcases hb with hb | hb
      · exact .inl (mem_insertBy (.inr hb))
      · rcases List.mem_cons.mp hb with rfl | hb
        · exact .inl (mem_insertBy (.inl rfl))
        · exact .inr hb
  exact hfold l [] (.inr h)

section
variable {s : State} {key : Nat} {f : Frame}

theorem releaseStores_flies {r : StoreRec} {d : List Byte} (hr : r ∈ f.stores) (hdrop : r.dropped = false) (hd : r.data = some d) :
    r.flies d (s.releaseStores key f) :=
  foldl_releaseStore_flies (mem_sortBy hr) hdrop hd (Released.foldl (fun u e => releaseBarinit_released u key f e) f.held _)

/-- Nothing but accesses in flight differs after the release of an activation's stores. -/
theorem releaseStores_same (s : State) (key : Nat) (f : Frame) :
    (s.releaseStores key f).sansAccesses = s.sansAccesses :=
  ((Released.foldl (fun u r => releaseStore_released u key f r) _ (s.leaveStores f)).trans
    (Released.foldl (fun u e => releaseBarinit_released u key f e) f.held _)).same

theorem releaseStores_stage {x : Ctx} {k : Task} (hf : s.frame? key = some f) (hx : s.ctx? f.ctx = some x) (hk : s.task? (key / 256) f.task = some k) :
    Stage (s.releaseStores key f) key f ⟨f, k, x, s.pe.queue⟩ (s.releaseStores key f) where
  frame := (congrArg (State.frame? · key) (releaseStores_same s key f)).trans hf
  task := (congrArg (State.task? · (key / 256) f.task) (releaseStores_same s key f)).trans hk
  ctx := (congrArg (State.ctx? · f.ctx) (releaseStores_same s key f)).trans hx
  queue := congrArg (fun s => s.pe.queue) (releaseStores_same s key f :)
  others _ _ := rfl
  slots _ := rfl
  store := rfl

/-! ### The commit before its branch or its iteration (R84) -/

/-- The frame as it drains. -/
def Frame.closed (f : Frame) : Frame := { f with isOpen := false, slots := [], lost := [], outs := [], stores := [], held := [] }

/-- The task as the commit leaves it, before its branch or its loop. -/
def Frame.committedTask (f : Frame) (now : Nat) (k : Task) : Task := f.held.foldl (Effect.onTask now) { k with regs := f.written k.regs }

/-- How the flags of an activation and its watchdog's restart change its context. -/
def Frame.flagged (f : Frame) (x : Ctx) : Ctx :=
  { x with regs := { x.regs with status := x.regs.status ||| f.flags }, wdCount := (wdogValue x.regs.wdog).toNat }

/-- The context as the commit leaves it. -/
def Frame.committedCtx (f : Frame) (now : Nat) (x : Ctx) : Ctx :=
  { f.flagged (f.held.foldl Effect.onCtx x) with silence := 0, lastActive := now }

/-- The commit up to what follows it. -/
def State.committed (s : State) (key : Nat) (f : Frame) : State :=
  let s3 := (((s.releaseStores key f).writeRegs key f).setFrame key f.closed).dropToks (key / 256) f.parkedToks
  let s4 := (s3.commitHeld key f).active f.ctx
  s4.setPctx f.ctx (key / 256) { s4.pctx f.ctx (key / 256) with commits := (s4.pctx f.ctx (key / 256)).commits + 1 }

theorem commit_eq : s.commit key f none = ((s.committed key f).afterCommit key f none).sweepHolds.sweepStale := rfl

theorem commitHeld_eq (u : State) : u.commitHeld key f =
    (((List.range 8).foldl (fun s q => s.commitRing (key / 256) f.uid q) ((f.held.foldl (fun s e => s.commitEffect key f e) u).commitHolds key f)).keepAccs
      (key / 256) f.uid).modCtx f.ctx f.flagged := rfl

theorem Stage.commitHeld {b u : State} {l : Look} (h : Stage b key f l u) (he : ∀ e ∈ f.held, e.plain) :
    Stage b key f { l with ctx := f.flagged (f.held.foldl Effect.onCtx l.ctx), task := f.held.foldl (Effect.onTask b.sched.cycle) l.task } (u.commitHeld key f) := by
  have hheld := (h.commitEffects he).core (commitHolds_core _ key f)
  have hrings := hheld.core (foldl_fixed State.core (fun u q => commitRing_core u (key / 256) f.uid q) (List.range 8) _)
  rw [commitHeld_eq]
  exact (hrings.core (keepAccs_core _ (key / 256) f.uid)).modCtx (g := f.flagged) fun _ => rfl

theorem committed_stage {x : Ctx} {k : Task} (hf : s.frame? key = some f) (hx : s.ctx? f.ctx = some x) (hk : s.task? (key / 256) f.task = some k)
    (he : ∀ e ∈ f.held, e.plain) :
    Stage (s.releaseStores key f) key f ⟨f.closed, f.committedTask s.sched.cycle k, f.committedCtx s.sched.cycle x, s.pe.queue⟩ (s.committed key f) := by
  have hcycle : (s.releaseStores key f).sched.cycle = s.sched.cycle := congrArg (fun s => s.sched.cycle) (releaseStores_same s key f :)
  have hclosed := ((releaseStores_stage hf hx hk).writeRegs.setFrame f.closed).core (dropToks_core _ (key / 256) f.parkedToks)
  have hheld := hclosed.commitHeld he
  have hactive := hheld.modCtx (g := fun x => { x with silence := 0, lastActive := s.sched.cycle }) fun _ => rfl
  have hnow := hheld.cycle.trans hcycle
  rw [hcycle] at hactive
  refine Stage.core ?_ (setPctx_core _ f.ctx (key / 256) _)
  simp only [State.active, hnow]
  exact hactive

end

end Sys2Proof.Machine

namespace Sys2Proof.Machine

/-! ### Where a commit ends -/

/-- What a commit of `f` from `b` comes to, whatever faults and messages go with it. -/
structure Ends (b : State) (key : Nat) (f : Frame) (l : Look) (u : State) : Prop where
  frame : u.frame? key = some l.frame
  task : u.task? (key / 256) f.task = some l.task
  ctx : (u.ctx? f.ctx).map Ctx.quiet = some l.ctx.quiet
  queue : u.pe.queue = l.queue
  store : u.store = b.store

theorem Stage.ends {b u : State} {key : Nat} {f : Frame} {l : Look} (h : Stage b key f l u) : Ends b key f l u :=
  ⟨h.frame, h.task, congrArg (Option.map Ctx.quiet) h.ctx, h.queue, h.store⟩

theorem Ends.quiet {b u v : State} {key j : Nat} {f : Frame} {l : Look} (h : Ends b key f l u) (hj : key ≠ j) (hv : Quiet j u v) : Ends b key f l v where
  frame := (hv.others key hj).trans h.frame
  task := by
    rw [← h.task]
    unfold State.task?
    rw [hv.pe]
  ctx := (hv.ctxs f.ctx).trans h.ctx
  queue := by rw [hv.pe]; exact h.queue
  store := by
    rw [← h.store]
    unfold State.store
    rw [hv.mem, hv.sync, hv.cycle]

/-! ### The next activation (R84, R91) -/

/-- The loop that a task still runs once the block `uid` has committed (R95). -/
def Task.loopAfter (k : Task) (uid : Nat) : Option Loop := k.loop.filter fun l => l.uid != uid

/-- The return stack after the branch of a committed activation. -/
def Frame.stackAfter (f : Frame) (stack : List Nat) : List Nat :=
  match f.branch with
  | some (.call _ r) => r :: stack
  | some (.ret _) => stack.drop 1
  | _ => stack

/-- The end that the branch of a committed activation asks for. -/
def Frame.endingAfter (f : Frame) (key : Nat) (ending : Option Src) : Option Src :=
  match f.branch with
  | some (.tend i) => some (srcOf key f i)
  | _ => ending

/-- The queue after the branch of a committed activation. -/
def Frame.queueAfter (f : Frame) (key now : Nat) (queue : List Activation) : List Activation :=
  match f.branch with
  | some (.goto tgt) | some (.call tgt _) | some (.ret tgt) => queue ++ [Activation.fresh (key / 256) f.ctx f.task tgt now none]
  | _ => queue

/-- What the branch of a committed activation makes of a look. -/
def Frame.branched (f : Frame) (key now : Nat) (l : Look) : Look :=
  { l with task := { l.task with stack := f.stackAfter l.task.stack, ending := f.endingAfter key l.task.ending }, queue := f.queueAfter key now l.queue }

section
variable {b u : State} {key : Nat} {f : Frame} {l : Look} (h : Stage b key f l u)
include h

theorem Stage.dropLoop {q : Loop} (hq : l.task.loop = some q) :
    Stage b key f { l with task := { l.task with loop := none } } (u.dropLoop (key / 256) f.task) := by
  unfold State.dropLoop
  simp only [h.task, hq]
  exact (h.core (dropToks_core u (key / 256) _)).setTask _

theorem Stage.startNext (hp : l.task.preempt ≠ .killing) : Stage b key f (f.branched key b.sched.cycle l) (u.startNext key f) := by
  unfold State.startNext Frame.branched Frame.stackAfter Frame.endingAfter Frame.queueAfter
  simp only [h.task, hp, if_false, ← h.cycle]
  cases f.branch with
  | none => exact h
  | some r =>
    cases r with
    | goto tgt => exact h.queueBlock tgt
    | call tgt r => exact (h.setTask { l.task with stack := r :: l.task.stack }).queueBlock tgt
    | ret tgt => exact (h.setTask { l.task with stack := l.task.stack.drop 1 }).queueBlock tgt
    | tend i => exact h.setTask { l.task with ending := some (srcOf key f i) }
    | _ => exact h

theorem Stage.loopAfter : Stage b key f { l with task := { l.task with loop := l.task.loopAfter f.uid } }
    (if (match l.task.loop with | some q => q.uid == f.uid | none => false) = true then u.dropLoop (key / 256) f.task else u) := by
  have hsame : Stage b key f { l with task := { l.task with loop := l.task.loop } } u := h
  unfold Task.loopAfter
  cases hq : l.task.loop with
  | none => rwa [hq] at hsame
  | some q =>
    by_cases hu : q.uid = f.uid
    · simp only [hu, beq_self_eq_true, if_true, Option.filter_some, bne_self_eq_false, Bool.false_eq_true, if_false]
      exact h.dropLoop hq
    · simp only [beq_iff_eq, hu, if_false, Option.filter_some, bne_iff_ne, ne_eq, not_false_eq_true, if_true]
      rwa [hq] at hsame

theorem Stage.afterBlock (hi : f.iter = none) (hp : l.task.preempt ≠ .killing) :
    Stage b key f (f.branched key b.sched.cycle { l with task := { l.task with loop := l.task.loopAfter f.uid } }) (u.afterCommit key f none) := by
  have hnext := h.loopAfter.startNext hp
  unfold State.afterCommit
  simp only [hi, h.task, Option.bind_some]
  exact hnext

end

/-! ### Iterations (R94 to R96) -/

/-- The sequencer once iteration `j` has committed. -/
def Loop.counted (l : Loop) (j : Int) : Loop := { l with started := l.started.filter fun i => i != j, committed := l.committed + 1 }

/-- The sequencer once its loop has completed. -/
def Loop.over (l : Loop) : Loop := { l with fin := true, carries := [], sent := [l.first] }

/-- What LOOP sends as its loop completes. -/
def Loop.sends (l : Loop) (i : Hdr) (out : Tok) : List (Target × Tok) := [(i.t0, scalarTok (wordOf l.committed)), (i.t1, out)]

section
variable {u : State} {pe t : Nat} {l : Loop} {p : Frame}

theorem finishLoop_gone (h : u.frameOf pe l.frame l.uid = none) (last : Int) (carries : Bool) : u.finishLoop pe t l last carries = u := by
  simp only [State.finishLoop, h]

theorem finishLoop_quiet (h : u.frameOf pe l.frame l.uid = some p) (last : Int) (carries : Bool) :
    Quiet (frameKey pe l.frame) (u.modLoop pe t Loop.over) (u.finishLoop pe t l last carries) := by
  have hkey := srcOf_key (frameKey pe l.frame) p l.idx
  have hraise (v : State) (e : Fail) : Quiet (frameKey pe l.frame) v (v.raiseAt (srcOf (frameKey pe l.frame) p l.idx) e) := by
    simpa only [hkey] using raiseAt_quiet v (srcOf (frameKey pe l.frame) p l.idx) e
  have hsend {v w : State} {tgt : Target} {tok : Tok} (e : v.sendTo (srcOf (frameKey pe l.frame) p l.idx) tgt tok = some w) :
      Quiet (frameKey pe l.frame) v w := by
    simpa only [hkey] using sendTo_quiet e
  unfold State.finishLoop
  simp only [h]
  split
  · exact hraise _ _
  next s2 h2 =>
    refine (settle_quiet h2).trans ?_
    split
    · exact hraise _ _
    next s3 h3 =>
      refine (hsend h3).trans ?_
      cases h4 : s3.sendTo (srcOf (frameKey pe l.frame) p l.idx) _ (l.final last carries) with
      | none => exact hraise _ _
      | some s4 => exact hsend h4

theorem dropToks_scalars (s : State) (pe : Nat) {toks : List Tok} (h : ∀ t ∈ toks, t.kind ≠ .tile) : s.dropToks pe toks = s := by
  induction toks with
  | nil => rfl
  | cons t toks ih =>
    have ht : s.dropTok pe t = s := by simp [State.dropTok, h t (List.mem_cons_self ..)]
    unfold State.dropToks at ih ⊢
    rw [List.foldl_cons, ht]
    exact ih fun t ht => h t (List.mem_cons_of_mem _ ht)

theorem Loop.tokens_scalars (hc : l.carry.kind ≠ .tile) (hcs : ∀ c ∈ l.carries, c.2.kind ≠ .tile) : ∀ t ∈ l.tokens, t.kind ≠ .tile := by
  intro t ht
  rcases List.mem_append.mp ht with ht | ht
  · split at ht
    · cases ht
    · rwa [List.mem_singleton.mp ht]
  · obtain ⟨c, hm, rfl⟩ := List.mem_map.mp ht
    exact hcs c (List.mem_of_mem_filter hm)

theorem Loop.final_scalar (hc : l.carry.kind ≠ .tile) (hcs : ∀ c ∈ l.carries, c.2.kind ≠ .tile) (last : Int) (carries : Bool) :
    (l.final last carries).kind ≠ .tile := by
  unfold Loop.final
  split
  · exact hc
  · split
    next c hf => exact hcs c (List.mem_of_find?_eq_some hf)
    · simp [nullTok]

/-- A loop whose carries are no handles sends its count and its carry as it completes (R95). -/
theorem finishLoop_sends {i : Instr} (h : u.frameOf pe l.frame l.uid = some p) (hi : p.cfg.instr l.idx = some i) (hc : l.carry.kind ≠ .tile)
    (hcs : ∀ c ∈ l.carries, c.2.kind ≠ .tile) {last : Int} {carries : Bool} (hclear : SendsClear p.outs (l.sends i.hdr (l.final last carries))) :
    u.finishLoop pe t l last carries =
      (l.sends i.hdr (l.final last carries)).foldl (fun v q => v.give (srcOf (frameKey pe l.frame) p l.idx) q) (u.modLoop pe t Loop.over) := by
  have hframe : (u.modLoop pe t Loop.over).frame? (frameKey (srcOf (frameKey pe l.frame) p l.idx).pe (srcOf (frameKey pe l.frame) p l.idx).frame) = some p := by
    rw [srcOf_key]
    have hsame : (u.modLoop pe t Loop.over).frame? (frameKey pe l.frame) = u.frame? (frameKey pe l.frame) := by
      unfold State.modLoop State.modTask
      split <;> rfl
    rw [hsame, frameOf_frame? h]
  have hnone : (if i.hdr.t1 = .none then [] else [l.final last carries].filter fun q => q.kind == .tile) = [] := by
    split
    · rfl
    · simp [Loop.final_scalar hc hcs]
  obtain ⟨h0, h1, -⟩ := hclear
  have send0 := sendTo_give hframe h0 (scalarTok (wordOf l.committed))
  have send1 := sendTo_give (give_frame? hframe _) h1 (l.final last carries)
  unfold State.finishLoop
  simp only [h, hi, hnone, State.settle, dropToks_scalars _ pe (Loop.tokens_scalars hc hcs)]
  change (match (u.modLoop pe t Loop.over).sendTo _ i.hdr.t0 (scalarTok (wordOf l.committed)) with
    | none => _
    | some s3 => (s3.sendTo _ i.hdr.t1 (l.final last carries)).getD _) = _
  rw [send0]
  exact congrArg (Option.getD · _) send1

end

end Sys2Proof.Machine

namespace Sys2Proof.Machine

/-! ### A list of sends that arrives -/

/-- A token sent to a target has arrived in its write entry, or is on its way to its slot. -/
def State.gave (t : State) (src : Src) (slot : Nat) (w : Target × Tok) : Prop :=
  (∀ e, w.1 = .write e → ∃ g, t.frame? (frameKey src.pe src.frame) = some g ∧ g.outs.get? e.toNat = some w.2) ∧
  ∀ sd n, w.1 = .slot sd n → ∃ m e, t.net.get? m = some e ∧ e.dst = .pe src.pe ∧ e.cls = 0 ∧
    e.body = .token (tokenRaw 0 w.2 slot src.pe src.frame (sideNum sd) n.toNat) src.uid src

theorem foldl_give_gave {s : State} {src : Src} {fr : Frame} {l : List (Target × Tok)} (h : s.frame? (frameKey src.pe src.frame) = some fr)
    (hd : ((l.map Prod.fst).filter Target.isWrite).Nodup) {w : Target × Tok} (hw : w ∈ l) :
    (l.foldl (fun u p => u.give src p) s).gave src (s.slotOf src.ctx) w := by
  obtain ⟨tgt, tok⟩ := w
  constructor
  · rintro e rfl
    exact ⟨_, foldl_give_frame? h l, foldl_outsWith_of_mem hd hw⟩
  · rintro sd n rfl
    exact foldl_give_slot hw

theorem Loop.sends_nodup {l : Loop} {i : Hdr} {out : Tok} (h : i.t0 = .none ∨ i.t0 ≠ i.t1) : (((l.sends i out).map Prod.fst).filter Target.isWrite).Nodup := by
  rcases h with h | h
  · have hone : ((l.sends i out).map Prod.fst).filter Target.isWrite = [i.t1].filter Target.isWrite := by simp [Loop.sends, h, Target.isWrite]
    rw [hone]
    exact List.Nodup.filter _ (List.nodup_singleton _)
  · exact List.Nodup.filter _ (by simpa [Loop.sends] using h)

/-! ### An iteration commits (R94 to R96) -/

/-- The sequencer has an iteration to start, as the statements put it (R93, R94). -/
def Loop.more (l : Loop) : Prop :=
  (if 0 < l.step then l.next < l.stop else l.step < 0 ∧ l.stop < l.next) ∧ (l.brk = none ∨ if 0 < l.step then l.next < l.limit else l.limit < l.next)

theorem counted_goes {l : Loop} (h : l.next ∉ l.started) (j : Int) : (l.counted j).goes = true ↔ l.more :=
  goes_iff (l := l.counted j) fun hm => h (List.mem_of_mem_filter hm)

theorem Stage.frameOf {b u : State} {key pe fr : Nat} {f : Frame} {l : Look} (h : Stage b key f l u) (hk : frameKey pe fr ≠ key) (uid : Nat) :
    u.frameOf pe fr uid = b.frameOf pe fr uid := by
  simp only [State.frameOf, h.others _ hk]

theorem frameOf_uid {s : State} {pe fr uid : Nat} {p : Frame} (h : s.frameOf pe fr uid = some p) : p.uid = uid := by
  unfold State.frameOf at h
  split at h
  · split at h
    · cases h; assumption
    · cases h
  · cases h

/-- The frame of another activation is another frame. -/
theorem frameOf_ne {s : State} {key pe fr uid : Nat} {f p : Frame} (hf : s.frame? key = some f) (hu : uid ≠ f.uid) (h : s.frameOf pe fr uid = some p) :
    frameKey pe fr ≠ key := by
  rintro rfl
  rw [frameOf_frame? h] at hf
  cases hf
  exact hu (frameOf_uid h).symm

section
variable {b u : State} {key : Nat} {f : Frame} {l : Look} {q : Loop} {j : Int} (h : Stage b key f l u) (hq : l.task.loop = some q)
include h hq

theorem Stage.counted : Stage b key f { l with task := { l.task with loop := some (q.counted j) } }
    (u.modLoop (key / 256) f.task fun l => { l with started := l.started.filter fun i => i != j, committed := l.committed + 1 }) := by
  have hmod := h.modTask fun t => { t with loop := t.loop.map fun l => l.counted j }
  rwa [hq] at hmod

theorem Stage.over : Stage b key f { l with task := { l.task with loop := some q.over } } (u.modLoop (key / 256) f.task Loop.over) := by
  have hmod := h.modTask fun t => { t with loop := t.loop.map Loop.over }
  rwa [hq] at hmod

theorem Stage.commitIter : u.commitIter key f j =
    let w := u.modLoop (key / 256) f.task fun l => { l with started := l.started.filter fun i => i != j, committed := l.committed + 1 }
    if ((q.counted j).started.isEmpty && !(q.counted j).goes) = true then w.finishLoop (key / 256) f.task (q.counted j) j f.cfg.carryTargets.isSome else w := by
  simp only [State.commitIter, (h.counted hq (j := j)).task, Option.bind_some]

/-- A loop completes by sends of another frame and its own end. -/
theorem Stage.finishLoop (hu : q.uid ≠ l.frame.uid) (last : Int) (carries : Bool) :
    ∃ r, Ends b key f { l with task := { l.task with loop := some r } } (u.finishLoop (key / 256) f.task q last carries) := by
  cases hp : u.frameOf (key / 256) q.frame q.uid with
  | none =>
    rw [finishLoop_gone hp]
    have hsame : Stage b key f { l with task := { l.task with loop := l.task.loop } } u := h
    rw [hq] at hsame
    exact ⟨q, hsame.ends⟩
  | some p => exact ⟨q.over, (h.over hq).ends.quiet (frameOf_ne h.frame hu hp).symm (finishLoop_quiet hp last carries)⟩

theorem Stage.finishLoop_of_frame {p : Frame} (hu : q.uid ≠ l.frame.uid) (hp : u.frameOf (key / 256) q.frame q.uid = some p) (last : Int) (carries : Bool) :
    Ends b key f { l with task := { l.task with loop := some q.over } } (u.finishLoop (key / 256) f.task q last carries) :=
  (h.over hq).ends.quiet (frameOf_ne h.frame hu hp).symm (finishLoop_quiet hp last carries)

theorem Stage.finishLoop_gave {p : Frame} {i : Instr} (hp : u.frameOf (key / 256) q.frame q.uid = some p) (hi : p.cfg.instr q.idx = some i)
    (hc : q.carry.kind ≠ .tile) (hcs : ∀ c ∈ q.carries, c.2.kind ≠ .tile) (ht : i.hdr.t0 = .none ∨ i.hdr.t0 ≠ i.hdr.t1)
    (hfree : ∀ e, i.hdr.t0 = .write e ∨ i.hdr.t1 = .write e → p.outs.get? e.toNat = none) (last : Int) (carries : Bool) :
    ∀ w ∈ q.sends i.hdr (q.final last carries),
      (u.finishLoop (key / 256) f.task q last carries).gave (srcOf (frameKey (key / 256) q.frame) p q.idx) (b.slotOf p.ctx) w := by
  have hnodup := Loop.sends_nodup (l := q) (out := q.final last carries) ht
  have hclear : SendsClear p.outs (q.sends i.hdr (q.final last carries)) := by
    refine sendsClear_of_nodup hnodup fun e he => hfree e ?_
    simpa [Loop.sends, eq_comm] using he
  have hover := h.over hq
  have hframe : (u.modLoop (key / 256) f.task Loop.over).frame? (frameKey (key / 256) q.frame) = some p := by
    have hsame : (u.modLoop (key / 256) f.task Loop.over).frame? (frameKey (key / 256) q.frame) = u.frame? (frameKey (key / 256) q.frame) := by
      unfold State.modLoop State.modTask
      split <;> rfl
    rw [hsame, frameOf_frame? hp]
  intro w hw
  rw [finishLoop_sends hp hi hc hcs hclear, ← hover.slots]
  exact foldl_give_gave (by rw [srcOf_key, hframe]) hnodup hw

end

/-- The final carry of a loop, by whether its body carries (R96). -/
theorem counted_final {l : Loop} {j : Int} {targets : Option (List Target)} {out : Tok} (hnone : targets = none → out = l.carry)
    (hsome : targets.isSome = true → out = ((l.carries.find? fun c => c.1 == j).map Prod.snd).getD nullTok) :
    (l.counted j).final j targets.isSome = out := by
  cases targets with
  | none => rw [hnone rfl]; rfl
  | some p =>
    rw [hsome rfl]
    simp only [Loop.final, Loop.counted, Option.isSome_some, Bool.not_true, Bool.false_eq_true, if_false]
    cases l.carries.find? fun c => c.1 == j <;> rfl

end Sys2Proof.Machine

namespace Sys2Proof.Machine

/-! ### The commit as a whole (R84, R94) -/

section
variable {s : State} {key : Nat} {f : Frame} {x : Ctx} {k : Task}

theorem exec_blockCommit {pe fid : Nat} (hf : s.frame? (frameKey pe fid) = some f) (hc : s.committable (frameKey pe fid) f = true)
    (hck : s.ckptDue (frameKey pe fid) f = none) : exec (.blockCommit pe fid) s = .next (s.commit (frameKey pe fid) f none) := by
  simp [exec, execBlockCommit, event, commitEvent, hf, hc, hck]

theorem committable_inTurn (hc : s.committable key f = true) : s.inTurn key f = true := by
  simp only [State.committable, Bool.and_eq_true] at hc
  exact hc.1.1.2

theorem committable_turn {j : Int} {l : Loop} (hc : s.committable key f = true) (hk : s.task? (key / 256) f.task = some k) (hi : f.iter = some j)
    (hl : k.loop = some l) : j = l.first + l.committed * l.step := by
  simpa [State.inTurn, hi, hk, hl] using committable_inTurn hc

theorem committable_loop {j : Int} (hc : s.committable key f = true) (hk : s.task? (key / 256) f.task = some k) (hi : f.iter = some j) :
    ∃ l, k.loop = some l := by
  have hturn := committable_inTurn hc
  cases hl : k.loop with
  | some l => exact ⟨l, rfl⟩
  | none => simp [State.inTurn, hi, hk, hl] at hturn

theorem Ends.sweeps {b u : State} {l : Look} (h : Ends b key f l u) : Ends b key f l u.sweepHolds.sweepStale := ⟨h.frame, h.task, h.ctx, h.queue, h.store⟩

theorem State.gave.sweeps {t : State} {src : Src} {slot : Nat} {w : Target × Tok} (h : t.gave src slot w) : t.sweepHolds.sweepStale.gave src slot w := h

theorem committedTask_loop (f : Frame) (now : Nat) (k : Task) : (f.committedTask now k).loop = k.loop :=
  foldl_onTask_same Task.loop (fun _ _ _ => rfl) (fun _ _ => rfl) now f.held _

theorem committedTask_stack (f : Frame) (now : Nat) (k : Task) : (f.committedTask now k).stack = k.stack :=
  foldl_onTask_same Task.stack (fun _ _ _ => rfl) (fun _ _ => rfl) now f.held _

theorem committedTask_ending (f : Frame) (now : Nat) (k : Task) : (f.committedTask now k).ending = k.ending :=
  foldl_onTask_same Task.ending (fun _ _ _ => rfl) (fun _ _ => rfl) now f.held _

theorem committedTask_preempt (f : Frame) (now : Nat) (k : Task) : (f.committedTask now k).preempt = k.preempt :=
  foldl_onTask_same Task.preempt (fun _ _ _ => rfl) (fun _ _ => rfl) now f.held _

theorem committedTask_regs (f : Frame) (now : Nat) (k : Task) : (f.committedTask now k).regs = f.written k.regs :=
  foldl_onTask_same Task.regs (fun _ _ _ => rfl) (fun _ _ => rfl) now f.held _

theorem committedTask_steps (f : Frame) (now : Nat) (k : Task) : (f.committedTask now k).steps = k.steps + f.held.count .ckpt := by
  unfold Frame.committedTask
  rw [foldl_onTask_steps]

theorem committedTask_est {f : Frame} {p q : List Effect} {w : Word} (h : f.held = p ++ .remest w :: q) (hq : ∀ v, Effect.remest v ∉ q) (now : Nat) (k : Task) :
    (f.committedTask now k).estWord = wordOf (w.toNat % 2 ^ 32) ∧ (f.committedTask now k).estCycle = now := by
  unfold Frame.committedTask
  rw [h]
  exact foldl_onTask_est hq _

theorem releaseStores_cycle : (s.releaseStores key f).sched.cycle = s.sched.cycle := congrArg (fun s => s.sched.cycle) (releaseStores_same s key f :)

theorem releaseStores_slotOf (c : Nat) : (s.releaseStores key f).slotOf c = s.slotOf c := congrArg (fun s => s.slotOf c) (releaseStores_same s key f :)

theorem releaseStores_frameOf (pe fr uid : Nat) : (s.releaseStores key f).frameOf pe fr uid = s.frameOf pe fr uid :=
  congrArg (fun s => s.frameOf pe fr uid) (releaseStores_same s key f :)

/-- The state in which the commit of iteration `j` is counted. -/
def State.iterCounted (s : State) (key : Nat) (f : Frame) (j : Int) : State :=
  (s.committed key f).modLoop (key / 256) f.task fun l => { l with started := l.started.filter fun i => i != j, committed := l.committed + 1 }

/-- What a commit looks like where its task runs the loop `lp`, has the stack `st`, and asks for the end `en`. -/
def State.ended (s : State) (f : Frame) (k : Task) (x : Ctx) (lp : Option Loop) (st : List Nat) (en : Option Src) (qu : List Activation) : Look :=
  ⟨f.closed, { f.committedTask s.sched.cycle k with loop := lp, stack := st, ending := en }, f.committedCtx s.sched.cycle x, qu⟩

variable (hf : s.frame? key = some f) (hx : s.ctx? f.ctx = some x) (hk : s.task? (key / 256) f.task = some k) (he : ∀ e ∈ f.held, e.plain)
include hf hx hk he

/-- The commit of a block, by its branch (R84, R91). -/
theorem commit_block (hi : f.iter = none) (hp : k.preempt ≠ .killing) :
    Ends (s.releaseStores key f) key f
      (s.ended f k x (k.loopAfter f.uid) (f.stackAfter k.stack) (f.endingAfter key k.ending) (f.queueAfter key s.sched.cycle s.pe.queue)) (s.commit key f none) := by
  have hstage := committed_stage hf hx hk he
  have hafter := (hstage.afterBlock hi (by rwa [committedTask_preempt])).ends.sweeps
  rw [releaseStores_cycle] at hafter
  simp only [Frame.branched, Task.loopAfter, committedTask_loop, committedTask_stack, committedTask_ending] at hafter
  exact hafter

variable {j : Int} {q : Loop} (hq : k.loop = some q)
include hq

theorem iterCounted_stage : Stage (s.releaseStores key f) key f (s.ended f k x (some (q.counted j)) k.stack k.ending s.pe.queue) (s.iterCounted key f j) := by
  have hcount := (committed_stage hf hx hk he).counted (q := q) (j := j) ((committedTask_loop ..).trans hq)
  have hst := committedTask_stack f s.sched.cycle k
  have hen := committedTask_ending f s.sched.cycle k
  unfold State.ended
  rw [← hst, ← hen]
  exact hcount

variable (hi : f.iter = some j)
include hi

theorem commit_iter_eq : s.commit key f none =
    (if ((q.counted j).started.isEmpty && !(q.counted j).goes) = true then
      (s.iterCounted key f j).finishLoop (key / 256) f.task (q.counted j) j f.cfg.carryTargets.isSome else s.iterCounted key f j).sweepHolds.sweepStale := by
  have hiter := (committed_stage hf hx hk he).commitIter (q := q) (j := j) ((committedTask_loop ..).trans hq)
  have hafter : (s.committed key f).afterCommit key f none = (s.committed key f).commitIter key f j := by simp only [State.afterCommit, hi]
  rw [commit_eq, hafter, hiter]
  rfl

/-- The sequencer goes on after an iteration that is not the last. -/
theorem commit_iter_goes (hnew : q.next ∉ q.started) (hmore : (q.counted j).started ≠ [] ∨ q.more) :
    Ends (s.releaseStores key f) key f (s.ended f k x (some (q.counted j)) k.stack k.ending s.pe.queue) (s.commit key f none) := by
  have hgoes : ¬ ((q.counted j).started.isEmpty && !(q.counted j).goes) = true := by
    rw [Bool.and_eq_true, List.isEmpty_iff, Bool.not_eq_true', Bool.eq_false_iff, ne_eq, counted_goes hnew]
    rintro ⟨hleft, hno⟩
    exact hmore.elim (· hleft) hno
  rw [commit_iter_eq hf hx hk he hq hi, if_neg hgoes]
  exact (iterCounted_stage hf hx hk he hq).ends.sweeps

/-- The commit of an iteration leaves its task's sequencer somewhere. -/
theorem commit_iter (hu : q.uid ≠ f.uid) :
    ∃ r, Ends (s.releaseStores key f) key f (s.ended f k x (some r) k.stack k.ending s.pe.queue) (s.commit key f none) := by
  have hdone := iterCounted_stage hf hx hk he hq (j := j)
  rw [commit_iter_eq hf hx hk he hq hi]
  split
  · obtain ⟨r, hr⟩ := hdone.finishLoop rfl hu j f.cfg.carryTargets.isSome
    exact ⟨r, hr.sweeps⟩
  · exact ⟨_, hdone.ends.sweeps⟩

/-- The loop completes with its last iteration (R95). -/
theorem commit_iter_last (hnew : q.next ∉ q.started) (hleft : (q.counted j).started = []) (hno : ¬ q.more) : s.commit key f none =
    ((s.iterCounted key f j).finishLoop (key / 256) f.task (q.counted j) j f.cfg.carryTargets.isSome).sweepHolds.sweepStale := by
  have hdone : ((q.counted j).started.isEmpty && !(q.counted j).goes) = true := by
    rw [Bool.and_eq_true, List.isEmpty_iff, Bool.not_eq_true', Bool.eq_false_iff, ne_eq, counted_goes hnew]
    exact ⟨hleft, hno⟩
  rw [commit_iter_eq hf hx hk he hq hi, if_pos hdone]

/-- The last iteration's commit ends the loop, and LOOP sends the count and the final carry (R95, R96). -/
theorem commit_iter_over (hu : q.uid ≠ f.uid) (hnew : q.next ∉ q.started) (hleft : (q.counted j).started = []) (hno : ¬ q.more) {p : Frame} {i : Instr} {out : Tok}
    (hp : s.frameOf (key / 256) q.frame q.uid = some p) (hinstr : p.cfg.instr q.idx = some i) (hc : q.carry.kind ≠ .tile)
    (hcs : ∀ c ∈ q.carries, c.2.kind ≠ .tile) (ht : i.hdr.t0 = .none ∨ i.hdr.t0 ≠ i.hdr.t1)
    (hfree : ∀ e, i.hdr.t0 = .write e ∨ i.hdr.t1 = .write e → p.outs.get? e.toNat = none) (hnone : f.cfg.carryTargets = none → out = q.carry)
    (hsome : f.cfg.carryTargets.isSome = true → out = ((q.carries.find? fun c => c.1 == j).map Prod.snd).getD nullTok) :
    Ends (s.releaseStores key f) key f (s.ended f k x (some (q.counted j).over) k.stack k.ending s.pe.queue) (s.commit key f none) ∧
      ∀ w ∈ (q.counted j).sends i.hdr out, (s.commit key f none).gave (srcOf (frameKey (key / 256) q.frame) p q.idx) (s.slotOf p.ctx) w := by
  have hdone := iterCounted_stage hf hx hk he hq (j := j)
  have hlive : (s.iterCounted key f j).frameOf (key / 256) (q.counted j).frame (q.counted j).uid = some p :=
    (hdone.frameOf (frameOf_ne hf hu hp) _).trans ((releaseStores_frameOf ..).trans hp)
  have hgave := hdone.finishLoop_gave rfl hlive hinstr hc hcs ht hfree j f.cfg.carryTargets.isSome
  rw [counted_final hnone hsome, releaseStores_slotOf] at hgave
  rw [commit_iter_last hf hx hk he hq hi hnew hleft hno]
  exact ⟨(hdone.finishLoop_of_frame rfl hu hlive j _).sweeps, fun w hw => (hgave w hw).sweeps⟩

end

end Sys2Proof.Machine

namespace Sys2Proof.Machine

/-! ### The parts of the statement -/

/-- The frame in which the read entries of a granted block have sent. -/
def State.readFrame (s : State) (a : Activation) (g : Cfg) (t : Task) (run : Nat) : Frame :=
  { s.grantedFrame a g t run with outs := (readSends (t.readValue none) g.reads).foldl outsWith [] }

theorem headSrc_key (k : Nat) (f : Frame) : frameKey (headSrc k f).pe (headSrc k f).frame = k := frameKey_div_mod k

/-- A grant of a block whose registers are no handles sends all of its read entries (R74, R83). -/
theorem grant_sends {s : State} {pe id run : Nat} {a : Activation} {g : Cfg} {x : Ctx} {t : Task} (hn : s.nextGrant pe = some a) (hg : a.cfg = some g)
    (hx : s.ctx? a.ctx = some x) (ht : s.task? pe a.task = some t) (hp : s.framePlace pe g = some (id, run)) (hb : x.breaks = []) (hs : x.skip = none)
    (hr : g.badRegs t = false) (hi : g.hasIrrevocable = false) (hiter : a.iter = none) (hv : ∀ r ∈ g.reads, (t.reg r.g).kind ≠ .tile)
    (hd : ((g.reads.flatMap fun r => [r.t0, r.t1]).filter Target.isWrite).Nodup) :
    ∃ u, exec (.frameGrant pe) s = .next u ∧ u.frame? (frameKey pe id) = some (s.readFrame a g t run) ∧ u.pe.queue = s.pe.queue.erase a ∧
      ∀ w ∈ readSends (t.readValue none) g.reads, u.gave (headSrc (frameKey pe id) (s.grantedFrame a g t run)) (s.slotOf a.ctx) w := by
  have hkey := headSrc_key (frameKey pe id) (s.grantedFrame a g t run)
  have hd' : (((readSends (t.readValue none) g.reads).map Prod.fst).filter Target.isWrite).Nodup := by rwa [readSends_map_fst]
  have hframe : (s.granted pe a g t id run).frame? (frameKey (headSrc (frameKey pe id) (s.grantedFrame a g t run)).pe
      (headSrc (frameKey pe id) (s.grantedFrame a g t run)).frame) = some (s.grantedFrame a g t run) := by
    rw [hkey, granted_frame?]
  have hsent := sendReads_clear hframe hv (sendsClear_of_nodup hd' fun _ _ => rfl)
  have hbegin := begin_eq (u := s.granted pe a g t id run) (k := frameKey pe id) (f := s.grantedFrame a g t run) hi hiter hsent
  refine ⟨_, (exec_frameGrant hn hg hx ht hp).trans (congrArg _ ((openAct_eq hb hs hr).trans hbegin)), ?_, ?_, fun w hw => ?_⟩
  · have hlast := foldl_give_frame? hframe (readSends (t.readValue none) g.reads)
    rwa [hkey] at hlast
  · exact (foldl_give_sendsOnly ..).queue.trans granted_queue
  · rw [← granted_slotOf (s := s) (pe := pe) (a := a) (g := g) (t := t) (id := id) (run := run)]
    exact foldl_give_gave hframe hd' hw

theorem State.gave.explicit {t : State} {src : Src} {slot pe fr : Nat} {w : Target × Tok} (h : t.gave src slot w) (hpe : src.pe = pe) (hfr : src.frame = fr) :
    (∀ e, w.1 = .write e → ∃ g, t.frame? (frameKey pe fr) = some g ∧ g.outs.get? e.toNat = some w.2) ∧
      ∀ sd n, w.1 = .slot sd n → ∃ m e src', t.net.get? m = some e ∧ e.dst = .pe pe ∧ e.cls = 0 ∧
        e.body = .token (tokenRaw 0 w.2 slot pe fr (sideNum sd) n.toNat) src.uid src' := by
  subst hpe hfr
  refine ⟨h.1, fun sd n hw => ?_⟩
  obtain ⟨m, e, hm, hdst, hcls, hbody⟩ := h.2 sd n hw
  exact ⟨m, e, src, hm, hdst, hcls, hbody⟩

theorem frameKey_mod {pe fr : Nat} (h : fr < 256) : frameKey pe fr % 256 = fr := by unfold frameKey; omega

section
variable {s t : State} {key : Nat} {f : Frame} {l m : Look} (h : Ends (s.releaseStores key f) key f l t)
include h

theorem Ends.unique (g : Ends (s.releaseStores key f) key f m t) : l.task = m.task ∧ l.queue = m.queue :=
  ⟨Option.some.inj (h.task.symm.trans g.task), h.queue.symm.trans g.queue⟩

theorem Ends.sameMemory : SameMemory s t := fun a =>
  (readByte_of_store h.store a).trans (congrArg (fun s => s.readByte a) (releaseStores_same s key f :))

theorem Ends.flies {r : StoreRec} {d : List Byte} (hr : r ∈ f.stores) (hdrop : r.dropped = false) (hd : r.data = some d) : r.flies d t := by
  have hacc : t.mem.accesses = (s.releaseStores key f).mem.accesses := congrArg (fun p => p.2.1) h.store
  unfold StoreRec.flies
  rw [hacc]
  exact releaseStores_flies hr hdrop hd

theorem Ends.ctx_same : ∃ y, t.ctx? f.ctx = some y ∧ y.regs = l.ctx.regs ∧ y.fc = l.ctx.fc ∧ y.hint = l.ctx.hint := by
  obtain ⟨y, hy, hquiet⟩ := Option.map_eq_some_iff.mp h.ctx
  exact ⟨y, hy, congrArg (fun x => x.regs) (hquiet :), congrArg (fun x => x.fc) (hquiet :), congrArg (fun x => x.hint) (hquiet :)⟩

end

/-- Every commit without a checkpoint comes to something (R84). -/
theorem commit_ends {s : State} {key : Nat} {f : Frame} {x : Ctx} {k : Task} (hf : s.frame? key = some f) (hx : s.ctx? f.ctx = some x)
    (hk : s.task? (key / 256) f.task = some k) (he : ∀ e ∈ f.held, e.plain) (hc : s.committable key f = true) (hp : f.iter = none → k.preempt ≠ .killing)
    (hu : ∀ l, f.iter ≠ none → k.loop = some l → l.uid ≠ f.uid) :
    ∃ lp st en qu, Ends (s.releaseStores key f) key f (s.ended f k x lp st en qu) (s.commit key f none) := by
  cases hi : f.iter with
  | none => exact ⟨_, _, _, _, commit_block hf hx hk he hi (hp hi)⟩
  | some j =>
    obtain ⟨q, hq⟩ := committable_loop hc hk hi
    obtain ⟨r, hr⟩ := commit_iter hf hx hk he hq hi (hu q (by simp [hi]) hq)
    exact ⟨_, _, _, _, hr⟩

end Sys2Proof.Machine

section
open Sys2Proof Sys2Proof.Machine

/-- Settles O48: a grant's sends, a commit stage by stage up to its branch or its iteration, a freed frame, and the sequencer's next iteration. -/
theorem frameLife : Obligations.FrameLife := by
  refine ⟨?_, ?_, ?_, ?_⟩
  · intro s pe a g x t id run hn hg hx ht hp hb hs hr hi hiter hv hd
    obtain ⟨hid, hfree⟩ := framePlace_free hp
    obtain ⟨u, hu, hframe, hqueue, hgave⟩ := grant_sends hn hg hx ht hp hb hs hr hi hiter hv hd
    refine ⟨u, _, hu, hfree, hframe, rfl, rfl, rfl, rfl, hiter, rfl, rfl, rfl, rfl, rfl, rfl, hqueue, fun r hr w hw => ?_⟩
    obtain ⟨hwrite, hslot⟩ := (hgave _ (mem_readSends hr hw)).explicit (frameKey_div pe id hid) (frameKey_mod hid)
    refine ⟨fun e he => ?_, hslot⟩
    obtain ⟨g', hg', hout⟩ := hwrite e he
    rw [hframe] at hg'
    cases hg'
    exact hout
  · intro s pe fid f x k hf hc hpe hfid hck hx hk hkill huid hheld
    have hdiv : frameKey pe fid / 256 = pe := frameKey_div pe fid hfid
    have hk' : s.task? (frameKey pe fid / 256) f.task = some k := by rwa [hdiv]
    obtain ⟨lp, st, en, qu, hends⟩ := commit_ends hf hx hk' hheld hc hkill huid
    obtain ⟨y, hy, hregs, hfc, hhint⟩ := hends.ctx_same
    have hlast := hends.task
    rw [hdiv] at hlast
    refine ⟨_, f.closed, y, (s.ended f k x lp st en qu).task, exec_blockCommit hf hc hck, hends.frame, rfl, rfl, rfl, rfl, rfl, hends.sameMemory, hy, hlast,
      fun r hr d hdrop hd => hends.flies hr hdrop hd, fun e r v hnd hw hv h0 hr _ => ?_, hregs, hfc, hhint, committedTask_steps .., fun p w q hpq hq => committedTask_est hpq hq ..,
      fun hi => ?_, fun j l hi hl hnew => ?_⟩
    · exact (congrArg (·[r]?) (committedTask_regs ..)).trans (Frame.written_get hnd hw hv h0 hr)
    · obtain ⟨htask, hqueue⟩ := hends.unique (commit_block hf hx hk' hheld hi (hkill hi))
      have hloop : lp = k.loopAfter f.uid := congrArg Task.loop htask
      have hstack : st = f.stackAfter k.stack := congrArg Task.stack htask
      have hending : en = f.endingAfter (frameKey pe fid) k.ending := congrArg Task.ending htask
      have hnext : (s.commit (frameKey pe fid) f none).pe.queue = f.queueAfter (frameKey pe fid) s.sched.cycle s.pe.queue := hends.queue.trans hqueue
      unfold Frame.stackAfter at hstack
      unfold Frame.endingAfter at hending
      unfold Frame.queueAfter at hnext
      rw [hdiv] at hnext
      refine ⟨fun l hl => ?_, fun tgt hb => ?_, fun tgt r hb => ?_, fun tgt hb => ?_, fun i hb => ?_⟩
      · refine hloop.trans ?_
        simp only [Task.loopAfter, hl, Option.filter_some, bne_iff_ne, ne_eq, ite_not]
      all_goals simp only [hb] at hstack hending hnext
      · exact ⟨hstack, _, hnext, rfl, rfl, rfl, rfl, rfl⟩
      · exact ⟨hstack, _, hnext, rfl, rfl, rfl, rfl, rfl⟩
      · exact ⟨hstack, _, hnext, rfl, rfl, rfl, rfl, rfl⟩
      · exact ⟨hending, hnext⟩
    · have hu := huid l (by simp [hi]) hl
      obtain ⟨r, hr⟩ := commit_iter hf hx hk' hheld hl hi hu
      obtain ⟨htask, hqueue⟩ := hends.unique hr
      have hstack : st = k.stack := congrArg Task.stack htask
      refine ⟨committable_turn hc hk' hi hl, hstack, hends.queue.trans hqueue, fun hmore => ?_, ?_⟩
      · exact congrArg Task.loop (hends.unique (commit_iter_goes hf hx hk' hheld hl hi hnew hmore)).1
      · intro p i out hleft hno hfr hp hinstr hcarry hcarries ht hfree hnone hsome
        have hp' : s.frameOf (frameKey pe fid / 256) l.frame l.uid = some p := by rwa [hdiv]
        obtain ⟨hover, hgave⟩ := commit_iter_over hf hx hk' hheld hl hi hu hnew hleft hno hp' hinstr hcarry hcarries ht hfree hnone hsome
        refine ⟨⟨_, congrArg Task.loop (hends.unique hover).1, rfl, rfl, hleft⟩, fun w hw => ?_⟩
        rw [hdiv] at hgave
        exact (hgave w hw).explicit (frameKey_div pe l.frame hfr) (frameKey_mod hfr)
  · intro s pe fid f hf ho hout hsort hk
    exact ⟨_, exec_frameFree hf ho hout hk, delFrame_frame?_same hsort _, fun k hk => delFrame_frame?_ne s hk⟩
  · intro s pe task k l ht hl hfin hpaused hnew hbrk hstop hroom hissue hqueue
    have hgoes := (goes_iff hnew).mpr ⟨hstop, hbrk⟩
    exact ⟨_, _, _, exec_loopIterationStart ht hl hfin hpaused hnew hgoes hroom hissue hqueue, setTask_task?_same .., rfl, rfl, rfl, rfl, rfl, rfl, rfl⟩

end

/-! ## Integer, compare and address instructions (O3) -/

namespace Sys2Proof

section
open Machine

/-- What an instruction of R115, R117, R121 or R122 computes. -/
def IntOp.alu : IntOp → Word → Word → Word
  | .add => (· + ·)
  | .sub => (· - ·)
  | .and => (· &&& ·)
  | .or => (· ||| ·)
  | .xor => (· ^^^ ·)
  | .shl => aluShl
  | .shr => aluShr
  | .sar => aluSar
  | .min => aluMin
  | .max => aluMax
  | .minu => aluMinu
  | .maxu => aluMaxu
  | .rotl => aluRotl
  | .andn => fun a b => a &&& ~~~b
  | .orn => fun a b => a ||| ~~~b
  | .xnor => fun a b => ~~~(a ^^^ b)
  | .mul => aluMul
  | .mulh => aluMulh
  | .mulhu => aluMulhu
  | .div => fun a b => (aluDiv a b).1
  | .divu => fun a b => (aluDivu a b).1
  | .rem => fun a b => (aluRem a b).1
  | .remu => fun a b => (aluRemu a b).1
  | .cmp cc => aluCmp cc
  | .lea => aluLea

/-- What an instruction that may set the integer-divide flag computes, with its flags (R118); none for the others. -/
def IntOp.divider : IntOp → Option (Word → Word → Word × Flags)
  | .div => some aluDiv
  | .divu => some aluDivu
  | .rem => some aluRem
  | .remu => some aluRemu
  | _ => none

/-- The body that an instruction fires. -/
def IntOp.body (o : IntOp) (im : Option (BitVec 32)) : Body :=
  match o.divider, im with
  | none, none => binary o.alu
  | none, some w => binaryImm o.alu w
  | some g, none => binaryF g
  | some g, some w => binaryImmF g w

theorem IntOp.exec_instr (o : IntOp) (h : Hdr) (im : Option (BitVec 32)) (s : State) :
    exec (o.instr h im) s = fire (o.instr h im) (o.body im) s := by
  cases im <;> cases o <;> rfl

theorem IntOp.data_none (o : IntOp) (h : Hdr) : (o.instr h none).data = [.a, .b] := by cases o <;> rfl

theorem IntOp.data_some (o : IntOp) (h : Hdr) (w : BitVec 32) : (o.instr h (some w)).data = [.a] := by cases o <;> rfl

theorem IntOp.flags_of_divider_none {o : IntOp} (ho : o.divider = none) (b : Word) : o.flags b = 0 := by
  cases o with
  | div | divu | rem | remu => cases ho
  | _ => rfl

theorem IntOp.divider_eq {o : IntOp} {g : Word → Word → Word × Flags} (ho : o.divider = some g) (a b : Word) : g a b = (o.alu a b, o.flags b) := by
  have hflag : ∀ x y : Word, (if b = 0 then (x, flagID) else (y, (0 : Flags))).2 = if b = 0 then flagID else 0 := fun x y => by split <;> rfl
  cases o <;> cases ho <;> exact Prod.ext rfl (hflag _ _)

/-- What an instruction computes is the result that its rule gives (R115, R118, R121, R122). -/
theorem IntOp.result_alu (o : IntOp) (a b : Word) : o.result a b (o.alu a b) := by
  cases o with
  | add => exact r_add a b
  | sub => exact r_sub a b
  | and => exact fun j => BitVec.getLsbD_and
  | or => exact fun j => BitVec.getLsbD_or
  | xor => exact fun j => BitVec.getLsbD_xor
  | shl => exact r_shl a b
  | shr => exact r_shr a b
  | sar => exact r_sar a b
  | min => exact r_min a b
  | max => exact r_max a b
  | minu => exact r_minu a b
  | maxu => exact r_maxu a b
  | rotl => exact r_rotl a b
  | andn => exact r_andn a b
  | orn => exact r_orn a b
  | xnor => exact r_xnor a b
  | mul => exact r_mul a b
  | mulh => exact r_mulh a b
  | mulhu => exact r_mulhu a b
  | div => exact r_div a b
  | divu => exact r_divu a b
  | rem => exact r_rem a b
  | remu => exact r_remu a b
  | cmp cc => exact r_cmp cc a b
  | lea => exact r_lea a b

end

namespace Machine

theorem takesScalars_iff {i : Instr} {f : Firing} :
    f.takesScalars i = true ↔ ∀ sd ∈ i.data, ((f.get sd).kind != .tile || f.dependent) = true := by
  simp only [Firing.takesScalars, List.all_eq_true]

/-- An instruction whose body sets no flag, stated with flags of zero. -/
theorem givesScalar_noFlags {i : Instr} {s : State} {f : Firing} {rel : List Tok} {v : Word} (h : GivesScalar i s f s rel v) :
    GivesScalar i s f (s.orFlags f.key 0) rel v :=
  h.trans (congrArg _ (retire_noFlags ..).symm)

theorem intOp_gives (o : IntOp) {h : Hdr} {im : Option (BitVec 32)} {s : State} {f : Firing} (hf : Fires (o.instr h im) s f) (hc : f.clear = true)
    (ht : f.takesScalars (o.instr h im) = true) :
    GivesScalar (o.instr h im) s f (s.orFlags f.key (o.flags (f.second im))) (f.handles (o.instr h im)) (o.alu f.a.val (f.second im)) := by
  rw [takesScalars_iff] at ht
  have hexec := o.exec_instr h im s
  unfold IntOp.body at hexec
  cases im with
  | none =>
    rw [o.data_none] at ht
    have ha := ht .a (by simp)
    have hb := ht .b (by simp)
    cases ho : o.divider with
    | none =>
      rw [ho] at hexec
      rw [IntOp.flags_of_divider_none ho]
      exact givesScalar_noFlags (hexec.trans (binary_gives hf hc ha hb))
    | some g =>
      rw [ho] at hexec
      have hgives := hexec.trans (binaryF_gives hf hc ha hb)
      rwa [IntOp.divider_eq ho] at hgives
  | some w =>
    rw [o.data_some] at ht
    have ha := ht .a (by simp)
    cases ho : o.divider with
    | none =>
      rw [ho] at hexec
      rw [IntOp.flags_of_divider_none ho]
      exact givesScalar_noFlags (hexec.trans (unary_gives hf hc ha))
    | some g =>
      rw [ho] at hexec
      have hgives := hexec.trans (binaryImmF_gives hf hc ha)
      rwa [IntOp.divider_eq ho] at hgives

end Machine

end Sys2Proof

section
open Sys2Proof Sys2Proof.Machine

/-- Settles O3: `intOp_gives` says what is sent and which flag is set, `IntOp.result_alu` that it is the result of the rule. -/
theorem integerResults : Obligations.IntegerResults :=
  ⟨fun o _ _ _ _ hf hc ht => ⟨_, o.result_alu _ _, intOp_gives o hf hc ht⟩, fun _ _ _ hf hc ht => intOp_gives (im := none) .xor hf hc ht⟩

end

/-! ## Unary and bit-field instructions (O4) -/

namespace Sys2Proof

section
open Machine

/-- What an instruction of R119, R123 or R124 computes. -/
def BitOp.value : BitOp → Word → Word → Word → Word
  | .clz, a, _, _ => aluClz a
  | .ctz, a, _, _ => aluCtz a
  | .popc, a, _, _ => aluPopc a
  | .sext, a, b, _ => aluSext a b
  | .zext, a, b, _ => aluZext a b
  | .neg, a, _, _ => -a
  | .not, a, _, _ => ~~~a
  | .abs, a, _, _ => aluAbs a
  | .bfx w, a, _, _ => aluBfx w a
  | .bfi w, a, b, c => aluBfi w a b c

/-- The body that an instruction fires. -/
def BitOp.body (o : BitOp) : Body :=
  match o with
  | .sext => binary aluSext
  | .zext => binary aluZext
  | .bfi w => ternary (aluBfi w)
  | _ => unary fun a => o.value a 0 0

theorem BitOp.exec_instr (o : BitOp) (h : Hdr) (s : State) : exec (o.instr h) s = fire (o.instr h) o.body s := by cases o <;> rfl

/-- What an instruction computes is the result that its rule gives (R120, R123, R124). -/
theorem BitOp.result_value (o : BitOp) {h : Hdr} (hwf : (o.instr h).wf = true) (a b c : Word) : o.result a b c (o.value a b c) := by
  cases o with
  | clz => exact r_clz a
  | ctz => exact r_ctz a
  | popc => exact r_popc a
  | sext => exact r_sext a b
  | zext => exact r_zext a b
  | neg => exact r_neg a
  | not => exact fun j hj => by simp [value, hj]
  | abs => exact r_abs a
  | bfx w => exact r_bfx w a (by simpa [BitOp.instr, Instr.wf] using hwf)
  | bfi w => exact r_bfi w a b c

end

namespace Machine

theorem bitOp_gives (o : BitOp) {h : Hdr} {s : State} {f : Firing} (hf : Fires (o.instr h) s f) (hc : f.clear = true)
    (ht : f.takesScalars (o.instr h) = true) :
    GivesScalar (o.instr h) s f s (f.handles (o.instr h)) (o.value f.a.val f.b.val f.c.val) := by
  rw [takesScalars_iff] at ht
  have ha := ht .a (by cases o <;> exact .head _)
  refine (o.exec_instr h s).trans ?_
  cases o with
  | sext | zext => exact binary_gives hf hc ha (ht .b (.tail _ (.head _)))
  | bfi w => exact ternary_gives hf hc ha (ht .b (.tail _ (.head _))) (ht .c (.tail _ (.tail _ (.head _))))
  | _ => exact unary_gives hf hc ha

end Machine

end Sys2Proof

section
open Sys2Proof Sys2Proof.Machine

/-- Settles O4: `bitOp_gives` says what is sent, `BitOp.result_value` that it is the result of the rule. -/
theorem bitResults : Obligations.BitResults :=
  fun o _ _ _ hwf hf hc ht => ⟨_, o.result_value hwf _ _ _, bitOp_gives o hf hc ht⟩

end

/-! ## Floating-point instructions (O5) -/

namespace Sys2Proof

section
open Machine

/-- What a floating-point instruction of a precision computes, with its flags (R126 to R130). -/
def FpOp.value (o : FpOp) (double : Bool) (a b c : Word) : Word × Flags :=
  match o with
  | .add => fpBin (fpOf double) Machine.Num.add a b
  | .sub => fpBin (fpOf double) Machine.Num.sub a b
  | .mul => fpBin (fpOf double) Machine.Num.mul a b
  | .div => fpBin (fpOf double) Machine.Num.div a b
  | .min => fpPick (fpOf double) false a b
  | .max => fpPick (fpOf double) true a b
  | .sqrt => fpSqrt (fpOf double) a
  | .abs => (fpAbs (fpOf double) a, 0)
  | .neg => (fpNeg (fpOf double) a, 0)
  | .cmpeq => fpCmpQuiet (fpOf double) false a b
  | .cmplt => fpCmpSig (fpOf double) false a b
  | .cmple => fpCmpSig (fpOf double) true a b
  | .cmpun => fpCmpQuiet (fpOf double) true a b
  | .fma => fpFma (fpOf double) a b c

/-- The body that an instruction fires. -/
def FpOp.body (o : FpOp) (double : Bool) : Body :=
  match o with
  | .abs => unary (fpAbs (fpOf double))
  | .neg => unary (fpNeg (fpOf double))
  | .sqrt => unaryF (fpSqrt (fpOf double))
  | .fma => ternaryF (fpFma (fpOf double))
  | _ => binaryF fun a b => o.value double a b 0

theorem FpOp.exec_instr (o : FpOp) (double : Bool) (h : Hdr) (s : State) :
    exec (o.instr double h) s = fire (o.instr double h) (o.body double) s := by
  cases double <;> cases o <;> rfl

theorem fpIn_eq (double : Bool) (w : Word) : fpIn (fpOf double) w = fpVal double w := by cases double <;> rfl

theorem fpOf_bits (double : Bool) : (fpOf double).signBit + 1 = if double then 64 else 32 := by cases double <;> rfl

theorem fpPick_eq (double wantMax : Bool) (a b : Word) : fpPick (fpOf double) wantMax a b =
    (match Machine.Num.pick wantMax (fpVal double a) (fpVal double b) with
      | some true => BitVec.ofNat 64 (a.toNat % 2 ^ (if double then 64 else 32))
      | some false => BitVec.ofNat 64 (b.toNat % 2 ^ (if double then 64 else 32))
      | none => BitVec.ofNat 64 (fpOf double).canonNan, sigNV [fpVal double a, fpVal double b]) := by
  simp only [fpPick, fpIn_eq, fpOf_bits, wordOf]
  rcases Machine.Num.pick wantMax (fpVal double a) (fpVal double b) with _ | _ | _ <;> rfl

/-- What an instruction computes is the result that its rule gives. -/
theorem FpOp.result_eq (o : FpOp) (double : Bool) (a b c : Word) : o.result double a b c = o.value double a b c := by
  cases o with
  | add | sub | mul | div => simp only [value, fpBin, fpOut, fpIn_eq]; rfl
  | sqrt => simp only [value, fpSqrt, fpOut, fpIn_eq]; rfl
  | fma => simp only [value, fpFma, fpOut, fpIn_eq]; rfl
  | min | max => simp only [value, fpPick_eq]; rfl
  | abs | neg => cases double <;> rfl
  | cmpeq | cmpun => simp only [value, fpCmpQuiet, fpIn_eq]; rfl
  | cmplt => simp only [value, fpCmpSig, fpIn_eq, Bool.false_and, Bool.or_false]; rfl
  | cmple => simp only [value, fpCmpSig, fpIn_eq, Bool.true_and]; rfl

end

namespace Machine

theorem fpOp_gives (o : FpOp) (double : Bool) {h : Hdr} {s : State} {f : Firing} (hf : Fires (o.instr double h) s f) (hc : f.clear = true)
    (ht : f.takesScalars (o.instr double h) = true) :
    GivesScalar (o.instr double h) s f (s.orFlags f.key (o.value double f.a.val f.b.val f.c.val).2) (f.handles (o.instr double h))
      (o.value double f.a.val f.b.val f.c.val).1 := by
  rw [takesScalars_iff] at ht
  have ha := ht .a (by cases double <;> cases o <;> exact .head _)
  have hexec := o.exec_instr double h s
  cases o with
  | abs | neg => exact (hexec.trans (unary_gives hf hc ha)).trans (congrArg _ (retire_noFlags ..).symm)
  | sqrt => exact hexec.trans (unaryF_gives hf hc ha)
  | fma =>
    exact hexec.trans (ternaryF_gives hf hc ha (ht .b (by cases double <;> exact .tail _ (.head _))) (ht .c (by cases double <;> exact .tail _ (.tail _ (.head _)))))
  | _ => exact hexec.trans (binaryF_gives hf hc ha (ht .b (by cases double <;> exact .tail _ (.head _))))

end Machine

end Sys2Proof

section
open Sys2Proof Sys2Proof.Machine

/-- Settles O5: `fpOp_gives` says what is sent and which flags are set, `FpOp.result_eq` that they are those of the rule. -/
theorem floatingPointResults : Obligations.FloatingPointResults := by
  unfold Obligations.FloatingPointResults
  intro o double h s f hf hc ht
  rw [FpOp.result_eq]
  exact fpOp_gives o double hf hc ht

end

/-! ## Special values and exact rounding of floating point (O6) -/

namespace Sys2Proof.Machine

/-! ### Exact operations on special values (R126, R130, R133) -/

section
variable {x y z : Num}

theorem isNan_iff : x.isNan = true ↔ ∃ sig, x = .nan sig := by cases x <;> simp [Num.isNan]

theorem isInf_iff : x.isInf = true ↔ x = .inf x.sign := by cases x <;> simp [Num.isInf, Num.sign]

theorem isZero_iff : x.isZero = true ↔ ∃ d, x = .fin x.sign 0 d := by cases x <;> simp [Num.isZero, Num.sign]

/-- An operation that gives NaN for a NaN on either side. -/
theorem op_of_nan {op : Num → Num → NumF} (hl : ∀ g y, (op (.nan g) y).1 = .nan false) (hr : ∀ x g, (op x (.nan g)).1 = .nan false)
    (h : x.isNan = true ∨ y.isNan = true) : (op x y).1 = .nan false := by
  rcases h with h | h
  · obtain ⟨g, rfl⟩ := isNan_iff.mp h
    exact hl g y
  · obtain ⟨g, rfl⟩ := isNan_iff.mp h
    exact hr x g

theorem add_of_nan : x.isNan = true ∨ y.isNan = true → (x.add y).1 = .nan false :=
  op_of_nan (fun _ y => by cases y <;> rfl) fun x _ => by cases x <;> rfl

theorem mul_of_nan : x.isNan = true ∨ y.isNan = true → (x.mul y).1 = .nan false :=
  op_of_nan (fun _ y => by cases y <;> rfl) fun x _ => by cases x <;> rfl

theorem div_of_nan : x.isNan = true ∨ y.isNan = true → (x.div y).1 = .nan false :=
  op_of_nan (fun _ y => by cases y <;> rfl) fun x _ => by cases x <;> rfl

theorem sqrt_of_nan (h : x.isNan = true) : x.sqrt.1 = .nan false := by
  obtain ⟨g, rfl⟩ := isNan_iff.mp h
  rfl

theorem isNan_negate (x : Num) : x.negate.isNan = x.isNan := by cases x <;> rfl

theorem isInf_negate (x : Num) : x.negate.isInf = x.isInf := by cases x <;> rfl

theorem sign_negate_of_inf (h : x.isInf = true) : x.negate.sign = !x.sign := by
  cases x with
  | inf => rfl
  | fin | nan => cases h

theorem fma_of_nan (h : x.isNan = true ∨ y.isNan = true) : (x.fma y z).1 = .nan false :=
  add_of_nan (.inl (by rw [mul_of_nan h]; rfl))

theorem fma_of_nan_addend (h : z.isNan = true) : (x.fma y z).1 = .nan false := add_of_nan (.inr h)

/-- Infinities of opposite signs have no sum. -/
theorem add_inf_opposite (hx : x.isInf = true) (hy : y.isInf = true) (h : x.sign ≠ y.sign) : x.add y = (.nan false, flagNV) := by
  rw [isInf_iff.mp hx, isInf_iff.mp hy]
  exact if_neg h

theorem mul_inf_zero (hx : x.isInf = true) (hy : y.isZero = true) : x.mul y = (.nan false, flagNV) := by
  obtain ⟨d, hy⟩ := isZero_iff.mp hy
  rw [isInf_iff.mp hx, hy]
  rfl

theorem mul_zero_inf (hx : x.isZero = true) (hy : y.isInf = true) : x.mul y = (.nan false, flagNV) := by
  obtain ⟨d, hx⟩ := isZero_iff.mp hx
  rw [isInf_iff.mp hy, hx]
  rfl

theorem mul_inf_inf (hx : x.isInf = true) (hy : y.isInf = true) : x.mul y = (.inf (x.sign != y.sign), 0) := by
  rw [isInf_iff.mp hx, isInf_iff.mp hy]
  rfl

theorem mul_inf_fin {s : Bool} {n d : Nat} (hx : x.isInf = true) (hn : n ≠ 0) : x.mul (.fin s n d) = (.inf (x.sign != s), 0) := by
  rw [isInf_iff.mp hx]
  exact if_neg hn

theorem mul_fin_inf {s : Bool} {n d : Nat} (hx : x.isInf = true) (hn : n ≠ 0) : (Num.fin s n d).mul x = (.inf (s != x.sign), 0) := by
  rw [isInf_iff.mp hx]
  exact if_neg hn

theorem flagNV_or_sigNV (l : List Num) : flagNV ||| sigNV l = flagNV := by
  unfold sigNV flagIf
  split <;> rfl

/-- An invalid product makes the whole operation invalid, whatever the addend. -/
theorem fma_of_invalid (h : x.mul y = (.nan false, flagNV)) : x.fma y z = (.nan false, flagNV) := by
  have hadd : (Num.nan false).add z = (.nan false, sigNV [.nan false, z]) := by cases z <;> rfl
  simp only [Num.fma, h, hadd, flagNV_or_sigNV]

/-- An infinite product and an infinite addend of the other sign. -/
theorem fma_of_inf {s : Bool} (h : x.mul y = (.inf s, 0)) (hz : z.isInf = true) (hs : z.sign ≠ s) : x.fma y z = (.nan false, flagNV) := by
  have hadd : (Num.inf s).add z = (.nan false, flagNV) := add_inf_opposite rfl hz (Ne.symm hs)
  have hflag : (0 : Flags) ||| flagNV = flagNV := rfl
  simp only [Num.fma, h, hadd, hflag, flagNV_or_sigNV]

theorem div_zero_zero (hx : x.isZero = true) (hy : y.isZero = true) : x.div y = (.nan false, flagNV) := by
  obtain ⟨d, hx⟩ := isZero_iff.mp hx
  obtain ⟨e, hy⟩ := isZero_iff.mp hy
  rw [hx, hy]
  rfl

theorem div_inf_inf (hx : x.isInf = true) (hy : y.isInf = true) : x.div y = (.nan false, flagNV) := by
  rw [isInf_iff.mp hx, isInf_iff.mp hy]
  rfl

theorem div_fin_zero {s : Bool} {n d : Nat} (hn : n ≠ 0) (hy : y.isZero = true) : (Num.fin s n d).div y = (.inf (s != y.sign), flagDZ) := by
  obtain ⟨e, hy⟩ := isZero_iff.mp hy
  rw [hy]
  exact if_neg hn

theorem sqrt_negative {n d : Nat} (hn : n ≠ 0) : (Num.fin true n d).sqrt = (.nan false, flagNV) := if_neg hn

end

/-! ### A code's own value rounds to the code (R126, R132) -/

/-- The significand of the magnitude `m`, a whole number of units in the last place. -/
def FpFmt.significand (f : FpFmt) (m : Nat) : Nat := m % 2 ^ f.frac + if m / 2 ^ f.frac = 0 then 0 else 2 ^ f.frac

/-- The exponent of that unit (R132): subnormal codes have that of the smallest normal ones. -/
def FpFmt.unitExp (f : FpFmt) (m : Nat) : Int := (max (m / 2 ^ f.frac) 1 : Nat) - f.bias - f.frac

theorem bitAt_withSign (f : FpFmt) (neg : Bool) {m : Nat} (hm : m < 2 ^ f.signBit) :
    bitAt (f.withSign neg m) f.signBit = neg ∧ f.withSign neg m % 2 ^ f.signBit = m := by
  cases neg <;> simp [FpFmt.withSign, bitAt, Nat.div_eq_of_lt hm, Nat.mod_eq_of_lt hm]

/-- What a finite code decodes to. -/
theorem decode_withSign {f : FpFmt} (neg : Bool) {m : Nat} (hm : m ≤ f.maxCode) (hf : f.maxCode < 2 ^ f.signBit) :
    f.decode (f.withSign neg m) =
      .fin neg (scaled2 (f.significand m) 1 (f.unitExp m)).1 (scaled2 (f.significand m) 1 (f.unitExp m)).2 := by
  obtain ⟨hsign, hbody⟩ := bitAt_withSign f neg (lt_of_le_of_lt hm hf)
  simp only [FpFmt.decode, hsign, hbody, if_neg (not_lt.mpr hm), FpFmt.significand, FpFmt.unitExp]
  by_cases he : m / 2 ^ f.frac = 0
  · simp [he]
  · have hmax : max (m / 2 ^ f.frac) 1 = m / 2 ^ f.frac := max_eq_left (Nat.one_le_iff_ne_zero.mpr he)
    simp only [he, if_false, hmax]

/-- Scaling by 2^x, by the sign of x. -/
theorem scaled2_natCast (n d k : Nat) : scaled2 n d (k : Int) = (n * 2 ^ k, d) := by simp [scaled2]

theorem scaled2_neg_natCast (n d k : Nat) : scaled2 n d (-(k : Int)) = (n, d * 2 ^ k) := by
  cases k with
  | zero => simp [scaled2]
  | succ k =>
    have hneg : ¬ 0 ≤ -((k + 1 : Nat) : Int) := by omega
    have hexp : (- -((k + 1 : Nat) : Int)).toNat = k + 1 := by omega
    simp only [scaled2, if_neg hneg, hexp]

/-- Scaling by 2^k and back leaves a common factor. -/
theorem scaled2_back (n : Nat) (k : Int) :
    scaled2 (scaled2 n 1 k).1 (scaled2 n 1 k).2 (-k) = (n * 2 ^ k.natAbs, 2 ^ k.natAbs) := by
  obtain ⟨j, rfl | rfl⟩ := k.eq_nat_or_neg
  · simp [scaled2_natCast, scaled2_neg_natCast]
  · simp [scaled2_natCast, scaled2_neg_natCast]

theorem scaled2_eq_zero (n : Nat) (k : Int) : (scaled2 n 1 k).1 = 0 ↔ n = 0 := by
  obtain ⟨j, rfl | rfl⟩ := k.eq_nat_or_neg
  · simp [scaled2_natCast]
  · simp [scaled2_neg_natCast]

theorem log2_mul_two_pow {n : Nat} (hn : n ≠ 0) (k : Nat) : (n * 2 ^ k).log2 = n.log2 + k := by
  rw [Nat.log2_eq_iff (by positivity), pow_add, show n.log2 + k + 1 = n.log2 + 1 + k by omega, pow_add]
  exact ⟨Nat.mul_le_mul_right _ (Nat.log2_self_le hn), Nat.mul_lt_mul_of_pos_right Nat.lt_log2_self (by positivity)⟩

/-- The base-2 logarithm of n × 2^k. -/
theorem log2Floor_scaled2 {n : Nat} (hn : n ≠ 0) (k : Int) : log2Floor (scaled2 n 1 k).1 (scaled2 n 1 k).2 = n.log2 + k := by
  have hle := Nat.log2_self_le hn
  obtain ⟨j, rfl | rfl⟩ := k.eq_nat_or_neg
  · have hexp : ((n * 2 ^ j).log2 : Int) - (1 : Nat).log2 = ((n.log2 + j : Nat) : Int) := by
      rw [log2_mul_two_pow hn, show Nat.log2 1 = 0 from Nat.log2_two_pow (n := 0)]
      simp
    rw [scaled2_natCast, log2Floor, hexp, scaled2_natCast, if_pos]
    · push_cast; rfl
    · simpa [pow_add] using Nat.mul_le_mul_right (2 ^ j) hle
  · have hexp : (n.log2 : Int) - (1 * 2 ^ j).log2 = n.log2 - j := by
      rw [one_mul, Nat.log2_two_pow]
    rw [scaled2_neg_natCast, log2Floor, hexp, if_pos]
    · rfl
    · rcases Nat.le_total j n.log2 with hj | hj
      · have hsub : (n.log2 : Int) - j = ((n.log2 - j : Nat) : Int) := by omega
        rw [hsub, scaled2_natCast, one_mul, one_mul, mul_one, ← pow_add, Nat.sub_add_cancel hj]
        exact hle
      · have hsub : (n.log2 : Int) - j = -((j - n.log2 : Nat) : Int) := by omega
        rw [hsub, scaled2_neg_natCast, one_mul, one_mul, one_mul]
        calc 2 ^ j = 2 ^ n.log2 * 2 ^ (j - n.log2) := by rw [← pow_add, Nat.add_sub_cancel' hj]
          _ ≤ n * 2 ^ (j - n.log2) := Nat.mul_le_mul_right _ hle

theorem significand_eq_zero (f : FpFmt) (m : Nat) : f.significand m = 0 ↔ m = 0 := by
  have hdiv := Nat.div_add_mod m (2 ^ f.frac)
  have hpos := Nat.two_pow_pos f.frac
  refine ⟨fun h => ?_, fun h => by simp [FpFmt.significand, h]⟩
  by_cases he : m / 2 ^ f.frac = 0
  · simp only [FpFmt.significand, he, if_true] at h hdiv
    omega
  · simp only [FpFmt.significand, he, if_false] at h
    omega

/-- The unit in the last place that a value is rounded to is that of its code (R126, R132): a normal code's significand has its leading bit at
`frac`, and a subnormal one lies below it and has the smallest exponent. -/
theorem unitExp_eq (f : FpFmt) {m : Nat} (hne : f.significand m ≠ 0) : max ((f.significand m).log2 + f.unitExp m) (1 - (f.bias : Int)) - f.frac = f.unitExp m := by
  have hlt := Nat.mod_lt m (Nat.two_pow_pos f.frac)
  by_cases he : m / 2 ^ f.frac = 0
  · have hlog : (f.significand m).log2 < f.frac := (Nat.log2_lt hne).mpr (by simpa [FpFmt.significand, he] using hlt)
    simp only [FpFmt.unitExp, he]
    omega
  · have hlog : (f.significand m).log2 = f.frac := by
      rw [Nat.log2_eq_iff hne, pow_succ]
      simp only [FpFmt.significand, he, if_false]
      omega
    simp only [FpFmt.unitExp, hlog]
    omega

/-- The code of a value with this significand and this unit. -/
theorem code_eq (f : FpFmt) (m : Nat) : (f.unitExp m + f.frac + f.bias - 1).toNat * 2 ^ f.frac + f.significand m = m := by
  have hdiv := Nat.div_add_mod m (2 ^ f.frac)
  have hexp : (f.unitExp m + f.frac + f.bias - 1).toNat = max (m / 2 ^ f.frac) 1 - 1 := by
    unfold FpFmt.unitExp
    omega
  rw [hexp, FpFmt.significand]
  by_cases he : m / 2 ^ f.frac = 0
  · simpa [he] using hdiv
  · obtain ⟨e, he'⟩ := Nat.exists_eq_succ_of_ne_zero he
    rw [he'] at hdiv ⊢
    simp only [Nat.succ_eq_add_one] at hdiv ⊢
    simp only [Nat.add_eq_zero_iff, one_ne_zero, and_false, if_false, Nat.le_add_left, max_eq_left, Nat.add_sub_cancel]
    linarith [mul_comm (2 ^ f.frac) e, mul_add (2 ^ f.frac) e 1]

/-- A whole number of units is not rounded. -/
theorem roundUnits_whole (r : Rounding) (neg : Bool) (n : Nat) {d : Nat} (hd : 0 < d) : roundUnits r neg (n * d) d = n := by
  simp [roundUnits, Nat.mul_mod_left, Nat.mul_div_cancel n hd]

/-- The magnitude of a finite code rounds to the code, exactly. -/
theorem roundTo_significand (f : FpFmt) (neg : Bool) (m : Nat) :
    let r := f.roundTo Rounding.rne neg (scaled2 (f.significand m) 1 (f.unitExp m)).1 (scaled2 (f.significand m) 1 (f.unitExp m)).2
    r.code = m ∧ r.inexact = false := by
  by_cases h0 : m = 0
  · have hzero : (scaled2 (f.significand m) 1 (f.unitExp m)).1 = 0 := (scaled2_eq_zero _ _).mpr ((significand_eq_zero f m).mpr h0)
    rw [hzero, h0]
    exact ⟨rfl, rfl⟩
  · have hne : f.significand m ≠ 0 := mt (significand_eq_zero f m).mp h0
    simp only [FpFmt.roundTo, if_neg (mt (scaled2_eq_zero _ _).mp hne), log2Floor_scaled2 hne, unitExp_eq f hne, scaled2_back,
      roundUnits_whole _ _ _ (Nat.two_pow_pos _), code_eq, Nat.mul_mod_left, bne_self_eq_false, and_self]

/-- Rounding gives back a value that the format holds, and sets no flag. -/
theorem result_decode {f : FpFmt} (neg : Bool) {m : Nat} (hm : m ≤ f.maxCode) (hf : f.maxCode < 2 ^ f.signBit) :
    f.result (f.decode (f.withSign neg m), 0) = (f.withSign neg m, 0) := by
  obtain ⟨hcode, hexact⟩ := roundTo_significand f neg m
  rw [decode_withSign neg hm hf]
  simp only [FpFmt.result, hcode, hexact, if_neg (not_lt.mpr hm), flagIf, Bool.false_and, Bool.false_eq_true, if_false]
  rfl

/-! ### Results of instructions -/

/-- An exact value as a scalar result of a precision (R126). -/
def fpRounded (double : Bool) (v : NumF) : Word × Flags := (BitVec.ofNat 64 ((fpOf double).result v).1, ((fpOf double).result v).2)

theorem fpRounded_nan {double : Bool} {v : NumF} (h : v.1 = .nan false) : (fpRounded double v).1 = BitVec.ofNat 64 (fpOf double).canonNan := by
  obtain ⟨x, fl⟩ := v
  subst h
  rfl

theorem fpRounded_nan_flag {double : Bool} {v : NumF} {fl : Flags} (h : v = (.nan false, fl)) :
    fpRounded double v = (BitVec.ofNat 64 (fpOf double).canonNan, fl) := h ▸ rfl

end Sys2Proof.Machine

section
open Sys2Proof Sys2Proof.Machine

/-- Settles O6: what each exact operation gives of special values, and `result_decode` for the values that a format holds. -/
theorem floatingPointValues : Obligations.FloatingPointValues := by
  unfold Obligations.FloatingPointValues
  refine ⟨fun double a b c => ?_, fun double neg m hm => result_decode neg hm (by cases double <;> decide)⟩
  intro x y z nan
  refine ⟨?_, fun hz => ?_, fun hx => ?_, fun hx hy hs => ?_, fun hx hy hs => ?_, fun h => ?_, fun hx hy hz hs => ?_, fun n d hx hy hn hz hs => ?_, fun hx hy => ?_,
    fun hx hy => ?_, fun n d hx hn => ?_, fun hx => ?_, fun sg n d hx hn hy => ?_⟩
  · intro o ho h
    simp only [List.mem_cons, List.not_mem_nil, or_false] at ho
    rcases ho with rfl | rfl | rfl | rfl | rfl
    · exact fpRounded_nan (add_of_nan h)
    · exact fpRounded_nan (add_of_nan (h.imp id (isNan_negate y).trans))
    · exact fpRounded_nan (mul_of_nan h)
    · exact fpRounded_nan (div_of_nan h)
    · exact fpRounded_nan (fma_of_nan h)
  · exact fpRounded_nan (fma_of_nan_addend hz)
  · exact fpRounded_nan (sqrt_of_nan hx)
  · have hneg : x.sign ≠ y.negate.sign := by
      rw [sign_negate_of_inf hy, hs]
      exact (Bool.not_ne_self _).symm
    exact fpRounded_nan_flag (add_inf_opposite hx ((isInf_negate y).trans hy) hneg)
  · exact fpRounded_nan_flag (add_inf_opposite hx hy hs)
  · have hmul : x.mul y = (.nan false, flagNV) := h.elim (fun ⟨hx, hy⟩ => mul_inf_zero hx hy) fun ⟨hx, hy⟩ => mul_zero_inf hx hy
    exact ⟨fpRounded_nan_flag hmul, fpRounded_nan_flag (fma_of_invalid hmul)⟩
  · exact fpRounded_nan_flag (fma_of_inf (mul_inf_inf hx hy) hz hs)
  · have hxy : x.mul y = (.inf (x.sign != y.sign), 0) := by rw [hy]; exact mul_inf_fin hx hn
    have hyx : y.mul x = (.inf (y.sign != x.sign), 0) := by rw [hy]; exact mul_fin_inf hx hn
    exact ⟨fpRounded_nan_flag (fma_of_inf hxy hz hs), fpRounded_nan_flag (fma_of_inf hyx hz (by rwa [bne_comm]))⟩
  · exact fpRounded_nan_flag (div_zero_zero hx hy)
  · exact fpRounded_nan_flag (div_inf_inf hx hy)
  · exact fpRounded_nan_flag ((congrArg Num.sqrt hx).trans (sqrt_negative hn))
  · exact fpRounded_nan_flag ((congrArg Num.sqrt hx).trans rfl)
  · have hdiv : x.div y = (.inf (sg != y.sign), flagDZ) := by rw [hx]; exact div_fin_zero hn hy
    exact (congrArg (fpRounded double) hdiv).trans rfl

end

/-! ## What scalar and tile instructions refuse (O7) -/

namespace Sys2Proof

namespace Machine

/-! ### Handles among scalar operands (R110) -/

/-- The body raises TOKEN_KIND where one of these operands is a handle, but in a dependent of an irrevocable instruction (R110). -/
def RefusesHandles (body : Body) (l : List Side) : Prop :=
  ∀ f s, f.dependent = false → (∃ sd ∈ l, (f.get sd).kind = .tile) → body f s = failWith .tokenKind

theorem refusesHandles_nil (body : Body) : RefusesHandles body [] := fun _ _ _ ⟨_, h, _⟩ => nomatch h

/-- A body that reads one operand as a scalar and then goes on with one that refuses the rest. -/
theorem refusesHandles_cons {sd : Side} {l : List Side} {k : Firing → State → Word → Except Stop Done}
    (hk : ∀ v, RefusesHandles (fun f s => k f s v) l) : RefusesHandles (fun f s => f.scalar (f.get sd) >>= k f s) (sd :: l) := by
  intro f s hd ⟨sd', hmem, htile⟩
  show (f.scalar (f.get sd) >>= k f s) = failWith .tokenKind
  by_cases ht : (f.get sd).kind = .tile
  · have hscalar : f.scalar (f.get sd) = failWith .tokenKind := if_pos (by simp [ht, hd])
    rw [hscalar]
    rfl
  · rw [scalar_ok (by simp [ht])]
    rcases List.mem_cons.mp hmem with rfl | hrest
    · exact absurd htile ht
    · exact hk _ f s hd ⟨sd', hrest, htile⟩

theorem unary_refuses (g : Word → Word) : RefusesHandles (unary g) [.a] := refusesHandles_cons fun _ => refusesHandles_nil _

theorem binary_refuses (g : Word → Word → Word) : RefusesHandles (binary g) [.a, .b] :=
  refusesHandles_cons fun _ => refusesHandles_cons fun _ => refusesHandles_nil _

theorem ternary_refuses (g : Word → Word → Word → Word) : RefusesHandles (ternary g) [.a, .b, .c] :=
  refusesHandles_cons fun _ => refusesHandles_cons fun _ => refusesHandles_cons fun _ => refusesHandles_nil _

theorem unaryF_refuses (g : Word → Word × Flags) : RefusesHandles (unaryF g) [.a] := refusesHandles_cons fun _ => refusesHandles_nil _

theorem binaryF_refuses (g : Word → Word → Word × Flags) : RefusesHandles (binaryF g) [.a, .b] :=
  refusesHandles_cons fun _ => refusesHandles_cons fun _ => refusesHandles_nil _

theorem ternaryF_refuses (g : Word → Word → Word → Word × Flags) : RefusesHandles (ternaryF g) [.a, .b, .c] :=
  refusesHandles_cons fun _ => refusesHandles_cons fun _ => refusesHandles_cons fun _ => refusesHandles_nil _

theorem intOp_refuses (o : IntOp) (h : Hdr) (im : Option (BitVec 32)) : RefusesHandles (o.body im) (o.instr h im).data := by
  unfold IntOp.body
  cases im with
  | none =>
    rw [o.data_none]
    cases o.divider with
    | none => exact binary_refuses _
    | some g => exact binaryF_refuses g
  | some w =>
    rw [o.data_some]
    cases o.divider with
    | none => exact unary_refuses _
    | some g => exact unaryF_refuses fun a => g a (immWord w)

theorem bitOp_refuses (o : BitOp) (h : Hdr) : RefusesHandles o.body (o.instr h).data := by
  cases o with
  | sext | zext => exact binary_refuses _
  | bfi w => exact ternary_refuses _
  | _ => exact unary_refuses _

theorem fpOp_refuses (o : FpOp) (double : Bool) (h : Hdr) : RefusesHandles (o.body double) (o.instr double h).data := by
  cases double <;> cases o with
  | abs | neg => exact unary_refuses _
  | sqrt => exact unaryF_refuses _
  | fma => exact ternaryF_refuses _
  | _ => exact binaryF_refuses _

theorem raises_of_refusesHandles {i : Instr} {s : State} {f : Firing} {body : Body} (hexec : exec i s = fire i body s) (hr : RefusesHandles body i.data)
    (hd : f.dependent = false) (hf : Fires i s f) (ht : ∃ sd ∈ i.data, (f.get sd).kind = .tile) : Raises i s f .tokenKind 0 :=
  raises_of_fault hexec hf (hr f s hd ht)

/-! ### The checks of tile operands (R159, R165) -/

/-- The body checks operand a, and goes on with what passes. -/
def ChecksTile (i : Instr) : Prop :=
  ∃ k : Firing → State → TileIn → Except Stop Done, ∀ s, exec i s = fire i (fun f s => f.tile s f.a >>= k f s) s

/-- The body checks operand a and then operand b. -/
def ChecksTwo (i : Instr) : Prop :=
  ∃ k : Firing → State → TileIn → TileIn → Except Stop Done,
    ∀ s, exec i s = fire i (fun f s => f.tile s f.a >>= fun a => f.tile s f.b >>= k f s a) s

/-- The body checks operand a and operand b, and then refuses unequal shapes. -/
def ChecksPair (i : Instr) : Prop :=
  ∃ k : Firing → State → TileIn → TileIn → Except Stop Done, (∀ f s a b, sameShape a b = false → k f s a b = failWith .operand) ∧
    ∀ s, exec i s = fire i (fun f s => f.tile s f.a >>= fun a => f.tile s f.b >>= k f s a) s

theorem ChecksPair.two {i : Instr} : ChecksPair i → ChecksTwo i := fun ⟨k, _, hexec⟩ => ⟨k, hexec⟩

theorem ChecksTwo.tile {i : Instr} : ChecksTwo i → ChecksTile i := fun ⟨k, hexec⟩ => ⟨fun f s a => f.tile s f.b >>= k f s a, hexec⟩

section
variable {i : Instr} {s : State} {f : Firing} {c : Code} {a b : TileIn}

theorem refuses_of_fault {body : Body} (hexec : exec i s = fire i body s) (hf : Fires i s f) (hb : body f s = failTile c) : Refuses i s f c :=
  hexec.trans (fire_fault hf hb)

theorem ChecksTile.refuses (h : ChecksTile i) (hf : Fires i s f) (ht : f.tile s f.a = failTile c) : Refuses i s f c := by
  obtain ⟨k, hexec⟩ := h
  exact refuses_of_fault (hexec s) hf (by rw [ht]; rfl)

theorem ChecksTwo.refuses (h : ChecksTwo i) (hf : Fires i s f) (ha : f.holds s f.a a) (ht : f.tile s f.b = failTile c) : Refuses i s f c := by
  obtain ⟨k, hexec⟩ := h
  exact refuses_of_fault (hexec s) hf (by rw [tile_of_holds ha]; simp only [bind, Except.bind, ht]; rfl)

theorem sameShape_false (h : a.rows ≠ b.rows ∨ a.cols ≠ b.cols) : sameShape a b = false := by
  simpa [sameShape, imp_iff_not_or] using h

theorem ChecksPair.raises (h : ChecksPair i) (hf : Fires i s f) (ha : f.holds s f.a a) (hb : f.holds s f.b b) (hs : a.rows ≠ b.rows ∨ a.cols ≠ b.cols) :
    Raises i s f .operand 0 := by
  obtain ⟨k, hk, hexec⟩ := h
  refine raises_of_fault (hexec s) hf ?_
  simp only [tile_of_holds ha, tile_of_holds hb, bind, Except.bind]
  exact hk f s a b (sameShape_false hs)

theorem tfma_refuses {h : Hdr} (hf : Fires (.tfma h) s f) (ha : f.holds s f.a a) (hb : f.holds s f.b b) (ht : f.tile s f.c = failTile c) :
    Refuses (.tfma h) s f c := by
  refine refuses_of_fault rfl hf (body := tfmaBody) ?_
  simp only [tfmaBody, tile_of_holds ha, tile_of_holds hb, bind, Except.bind, ht]
  rfl

theorem tfma_raises {h : Hdr} {e : TileIn} (hf : Fires (.tfma h) s f) (ha : f.holds s f.a a) (hb : f.holds s f.b b) (he : f.holds s f.c e)
    (hs : a.rows ≠ b.rows ∨ a.cols ≠ b.cols ∨ a.rows ≠ e.rows ∨ a.cols ≠ e.cols) : Raises (.tfma h) s f .operand 0 := by
  refine raises_of_fault rfl hf (body := tfmaBody) ?_
  simp only [tfmaBody, tile_of_holds ha, tile_of_holds hb, tile_of_holds he, bind, Except.bind]
  refine if_pos ?_
  rcases or_assoc.mpr hs with hab | hae
  · rw [sameShape_false hab]; rfl
  · rw [sameShape_false hae, Bool.not_false, Bool.or_true]

theorem tile_of_scalar {t : Tok} (h : t.kind = .scalar) : f.tile s t = failTile .tokenKind := if_pos (by rw [h]; decide)

/-- A channel that has a reserved format or another width than the tile (R159). -/
theorem tile_of_channel {t : Tok} (hk : t.kind = .tile) (hlive : ¬ (hPe t.val ≠ f.pe ∨ (s.tileSlot (hPe t.val) (hSlot t.val)).count = 0 ∨
      (s.tileSlot (hPe t.val) (hSlot t.val)).owner ≠ f.x.slot ∨ (s.tileSlot (hPe t.val) (hSlot t.val)).gen ≠ hGen t.val))
    (hch : ∀ ch, chanOf (f.x.chan (hFc t.val)) = some ch → ch.fmt.width ≠ (s.tileSlot (hPe t.val) (hSlot t.val)).width) :
    f.tile s t = failTile .operand := by
  refine (if_neg (not_not.mpr hk)).trans ((if_neg hlive).trans ?_)
  cases hc : chanOf (f.x.chan (hFc t.val)) with
  | none => rfl
  | some ch => exact if_pos (hch ch hc)

theorem tileScalar_of_tile {t : Tok} (h : t.kind = .tile) : tileScalar t = failWith .tokenKind := if_pos h

end

theorem tileBin_checks {i : Instr} {g : Num → Num → NumF} (hexec : ∀ s, exec i s = fire i (tileBin g) s) : ChecksPair i :=
  ⟨_, fun _ _ _ _ h => if_pos (by rw [h]; rfl), hexec⟩

theorem tileBits_checks {i : Instr} {g : Nat → Nat → Nat} (hexec : ∀ s, exec i s = fire i (tileBits g) s) : ChecksPair i :=
  ⟨_, fun _ _ _ _ h => if_pos (by rw [h]; rfl), hexec⟩

theorem tcmp_checks (h : Hdr) (c : TCond) : ChecksPair (.tcmp h c) := ⟨_, fun _ _ _ _ h => if_pos (by rw [h]; rfl), fun _ => rfl⟩

theorem tsel_checks (h : Hdr) : ChecksPair (.tsel h) := ⟨_, fun _ _ _ _ h => if_pos (by rw [h]; rfl), fun _ => rfl⟩

theorem tfma_checks (h : Hdr) : ChecksTwo (.tfma h) := ⟨_, fun _ => rfl⟩

/-- The instructions of two tiles that refuse unequal shapes (R165). -/
theorem checksPair_of_mem (h : Hdr) (c : TCond) :
    ∀ i ∈ [Instr.tadd h, .tsub h, .tmul h, .tmax h, .tmin h, .tdiv h, .tand h, .tor h, .txor h, .tcmp h c, .tsel h], ChecksPair i := by
  simp only [List.forall_mem_cons, List.not_mem_nil, false_implies, implies_true, and_true]
  exact ⟨tileBin_checks fun _ => rfl, tileBin_checks fun _ => rfl, tileBin_checks fun _ => rfl, tileBin_checks fun _ => rfl,
    tileBin_checks fun _ => rfl, tileBin_checks fun _ => rfl, tileBits_checks fun _ => rfl, tileBits_checks fun _ => rfl,
    tileBits_checks fun _ => rfl, tcmp_checks h c, tsel_checks h⟩

/-- The other instructions whose first operand is a tile. -/
theorem checksTile_of_mem (h : Hdr) (w : ConvW) :
    ∀ i ∈ [Instr.tfma h, .tneg h, .tabs h, .texp h, .tlog h, .trsqrt h, .trecip h, .ttanh h, .tsigm h, .tgelu h, .trsum h, .tcsum h,
      .trmax h, .tcmax h, .tsum h, .ttrans h, .trel h, .tcopy h, .tcvt h w, .tamax h], ChecksTile i := by
  have hun : ∀ {i fn}, (∀ s, exec i s = fire i (tileUn fn) s) → ChecksTile i := fun hexec => ⟨_, hexec⟩
  have hreduce : ∀ {i isMax byRow}, (∀ s, exec i s = fire i (tileReduce isMax byRow) s) → ChecksTile i := fun hexec => ⟨_, hexec⟩
  simp only [List.forall_mem_cons, List.not_mem_nil, false_implies, implies_true, and_true]
  exact ⟨(tfma_checks h).tile, hun fun _ => rfl, hun fun _ => rfl, hun fun _ => rfl, hun fun _ => rfl, hun fun _ => rfl, hun fun _ => rfl,
    hun fun _ => rfl, hun fun _ => rfl, hun fun _ => rfl, hreduce fun _ => rfl, hreduce fun _ => rfl, hreduce fun _ => rfl, hreduce fun _ => rfl,
    ⟨_, fun _ => rfl⟩, ⟨_, fun _ => rfl⟩, ⟨_, fun _ => rfl⟩, ⟨_, fun _ => rfl⟩, ⟨_, fun _ => rfl⟩, ⟨_, fun _ => rfl⟩⟩

/-- The body reads operand b as a scalar before it does anything else. -/
def ReadsIndex (i : Instr) : Prop := ∃ k : Firing → State → Nat → Except Stop Done, ∀ s, exec i s = fire i (fun f s => tileScalar f.b >>= k f s) s

theorem ReadsIndex.raises {i : Instr} {s : State} {f : Firing} (h : ReadsIndex i) (hf : Fires i s f) (hb : f.b.kind = .tile) : Raises i s f .tokenKind 0 := by
  obtain ⟨k, hexec⟩ := h
  exact raises_of_fault (hexec s) hf (by rw [tileScalar_of_tile hb]; rfl)

theorem readsIndex_of_mem (h : Hdr) : ∀ i ∈ [Instr.telget h, .telset h, .tmask h, .trowb h, .tcolb h], ReadsIndex i := by
  simp only [List.forall_mem_cons, List.not_mem_nil, false_implies, implies_true, and_true]
  exact ⟨⟨_, fun _ => rfl⟩, ⟨_, fun _ => rfl⟩, ⟨_, fun _ => rfl⟩, ⟨_, fun _ => rfl⟩, ⟨_, fun _ => rfl⟩⟩

end Machine

end Sys2Proof

section
open Sys2Proof Sys2Proof.Machine

/-- Settles O7: each body reads its scalars or checks its tiles in the order of its entry, and the first that fails names the fault. -/
theorem handleFaults : Obligations.HandleFaults := by
  refine ⟨fun s f hd => ⟨fun o h im => ?_, fun o h => ?_, fun o double h => ?_⟩, ?_⟩
  · exact raises_of_refusesHandles (o.exec_instr h im s) (intOp_refuses o h im) hd
  · exact raises_of_refusesHandles (o.exec_instr h s) (bitOp_refuses o h) hd
  · exact raises_of_refusesHandles (o.exec_instr double h s) (fpOp_refuses o double h) hd
  · intro s f h c w slot stale badChan pairs refuses
    have hrefuses : ∀ {i t}, (∀ code, f.tile s t = failTile code → Refuses i s f code) → refuses i t := fun hr =>
      ⟨fun hk => hr _ (tile_of_scalar hk), fun hk hs => hr _ (tile_of_stale hk hs), fun hk hs hch => hr _ (tile_of_channel hk hs hch)⟩
    have hpairs := checksPair_of_mem h c
    refine ⟨fun i hi hf => hrefuses fun _ => ?_, fun i hi a hf ha => hrefuses fun _ => ?_, fun a b hf ha hb => hrefuses fun _ => tfma_refuses hf ha hb,
      fun a b e hf ha hb he hs => tfma_raises hf ha hb he hs, fun i hi a b hf ha hb hs => (hpairs i hi).raises hf ha hb hs,
      fun i hi hf hb => (readsIndex_of_mem h i hi).raises hf hb⟩
    · have hchecks : ChecksTile i := (List.mem_append.mp hi).elim (fun hi => (hpairs i hi).two.tile) (checksTile_of_mem h w i)
      exact hchecks.refuses hf
    · have hchecks : ChecksTwo i := (List.mem_append.mp hi).elim (fun hi => (hpairs i hi).two) fun hi => List.mem_singleton.mp hi ▸ tfma_checks h
      exact hchecks.refuses hf ha

end

/-! ## What is sent by a body that answers scalars or a new tile -/

namespace Sys2Proof.Machine

/-! ### Answers of a body (R161, R170) -/

section
variable {i : Instr} {s u : State} {f : Firing} {body : Body}

/-- A body that answers two tokens, neither a handle, with an effect of its own on the state. -/
theorem gives_of_ok {r0 r1 : Tok} (hexec : exec i s = fire i body s) (h : Fires i s f) (hc : f.clear = true)
    (hb : body f s = .ok { st := u, t0 := some r0, t1 := some r1 }) (h0 : r0.kind ≠ .tile) (h1 : r1.kind ≠ .tile) (hk : KeepsOuts s u) :
    Gives i s f u (f.handles i) (some r0) (some r1) :=
  hexec.trans (fire_retire h hb rfl (.inr (by simp [h0, h1])) (hk.frame h.frame) hk.ctxs hc)

theorem givesScalar_of_ok {v : Word} (hexec : exec i s = fire i body s) (h : Fires i s f) (hc : f.clear = true)
    (hb : body f s = .ok (Done.scalar u v)) (hk : KeepsOuts s u) : GivesScalar i s f u (f.handles i) v :=
  gives_of_ok hexec h hc hb (by simp [scalarTok]) (by simp [scalarTok]) hk

theorem hold_keepsOuts (s : State) (k : Nat) (e : Effect) : KeepsOuts s (s.hold k e) :=
  .modFrame s k (g := fun fr => { fr with held := fr.held ++ [e] }) fun _ => rfl

/-- The state in which a new tile has its slot and the references of what it was made from are gone. -/
theorem filled_keepsOuts (s : State) (f : Firing) (used : List Tok) (n : NewTile) :
    KeepsOuts s (((s.dropToks f.pe used).drawn.fillSlot f.pe ((s.dropToks f.pe used).pickSlot f.pe) f.x.slot f.fan n.width n.nf n.codes).orFlags f.key n.flags) :=
  ((KeepsOuts.dropToks s f.pe used).trans (.fillDrawn ..)).trans (.orFlags ..)

/-- A body that ends in the send of a new tile sends it, or waits for room. -/
theorem sendsTile_of_body {used : List Tok} {n : NewTile} (hexec : exec i s = fire i body s) (h : Fires i s f) (hc : f.clear = true)
    (hb : body f s = f.sendTile s used n) : SendsTile i s f used n := by
  have hkeep := filled_keepsOuts s f used n
  refine ⟨fun hroom => ?_, fun hroom => ?_⟩
  · exact hexec.trans (fire_retire h (hb.trans (sendTile_of_room hroom)) rfl (.inl rfl) (hkeep.frame h.frame) hkeep.ctxs hc)
  · exact hexec.trans (fire_wait h (hb.trans (sendTile_of_noRoom hroom)))

end

end Sys2Proof.Machine

/-! ## Conversions and format channels (O8) -/

namespace Sys2Proof.Machine

theorem overflowTok_ne_tile (n : Nat) : (overflowTok n).kind ≠ .tile := by
  unfold overflowTok
  split
  · exact nofun
  · exact nofun

theorem overflowTok_bit (b : Bool) : overflowTok (bit b) = if b then scalarTok 1 else nullTok := by cases b <;> rfl

/-- The images of R139, bit by bit. -/
theorem imageValid_of_bits {w : Word} (hhigh : ∀ j, 16 ≤ j → w.getLsbD j = false) (hmid : ∀ j, 4 ≤ j → j < 8 → w.getLsbD j = false)
    (hfmt : w.getLsbD 3 = false) : imageValid w = true := by
  have hsize : w.toNat < 2 ^ 16 := Nat.lt_pow_two_of_testBit _ hhigh
  have hzero : bitsAt w.toNat 4 4 < 2 ^ 0 := by
    refine Nat.lt_pow_two_of_testBit _ fun j _ => ?_
    rw [bitsAt, Nat.testBit_mod_two_pow, Nat.testBit_div_two_pow, Bool.and_eq_false_imp, decide_eq_true_eq]
    exact fun hj => hmid (j + 4) (by omega) (by omega)
  have hcode : w.toNat % 2 ^ 4 < 2 ^ 3 := by
    refine Nat.lt_pow_two_of_testBit _ fun j hj => ?_
    rw [Nat.testBit_mod_two_pow, Bool.and_eq_false_imp, decide_eq_true_eq]
    intro hlt
    obtain rfl : j = 3 := by omega
    exact hfmt
  simp only [imageValid, Bool.and_eq_true, decide_eq_true_eq]
  exact ⟨⟨Nat.div_eq_of_lt hsize, Nat.lt_one_iff.mp hzero⟩, hcode⟩

/-! ### A channel's new scale (R155) -/

theorem signedOf_toNat (w : Word) : signedOf 64 w.toNat = w.toInt := by
  have hw := w.isLt
  rw [BitVec.toInt_eq_toNat_cond]
  simp only [signedOf]
  split <;> split <;> omega

/-- A scale is read back from its eight bits. -/
theorem signedOf_wrapNat {x : Int} (hlow : -128 ≤ x) (hhigh : x ≤ 127) : signedOf 8 (wrapNat 8 x) = x := by
  simp only [signedOf, wrapNat]
  split_ifs
  · omega
  · omega

theorem addScale_eq (old delta : Int) :
    addScale old delta = (max (-128) (min 127 (old + delta)), decide (old + delta ≠ max (-128) (min 127 (old + delta)))) := by
  simp only [addScale]
  split_ifs with hhigh hlow
  · exact Prod.ext (by omega) (by simp; omega)
  · exact Prod.ext (by omega) (by simp; omega)
  · exact Prod.ext (by omega) (by simp; omega)

/-- What TRESCALE makes of an image: the scale clamped, the format kept, the bits between them zero. -/
theorem rescaled_spec (img : BitVec 16) (delta : Int) :
    let sum := signedOf 8 (img.toNat / 256) + delta
    let scale := max (-128) (min 127 sum)
    (rescaled img delta).2 = decide (sum ≠ scale) ∧ signedOf 8 ((rescaled img delta).1.toNat / 256) = scale ∧
      (rescaled img delta).1.toNat % 16 = img.toNat % 16 ∧ (rescaled img delta).1.toNat / 16 % 16 = 0 := by
  intro sum scale
  have hold : signedOf 8 (bitsAt img.toNat 8 8) = signedOf 8 (img.toNat / 256) := by simp only [signedOf, bitsAt, Nat.mod_mod]; rfl
  have hadd : addScale (signedOf 8 (bitsAt img.toNat 8 8)) delta = (scale, decide (sum ≠ scale)) := by rw [hold, addScale_eq]
  have hwrap : wrapNat 8 scale < 256 := by unfold wrapNat; omega
  have hval : (rescaled img delta).1.toNat = wrapNat 8 scale * 256 + img.toNat % 16 := by
    simp only [rescaled, hadd, BitVec.toNat_ofNat]
    unfold bitsAt
    omega
  refine ⟨by simp only [rescaled, hadd], ?_, by omega, by omega⟩
  rw [hval, show (wrapNat 8 scale * 256 + img.toNat % 16) / 256 = wrapNat 8 scale by omega]
  exact signedOf_wrapNat (by omega) (by omega)

theorem chanImage_toNat (c : BitVec 16) : (chanImage c).toNat = c.toNat := by
  have hc := c.isLt
  rw [chanImage, BitVec.zeroExtend, BitVec.toNat_setWidth]
  omega

/-! ### The instructions -/

section
variable {s : State} {f : Firing} {h : Hdr}

theorem tileScalar_of_ne {t : Tok} (h : t.kind ≠ .tile) : tileScalar t = .ok t.val.toNat := if_neg h

theorem cvt_gives {k : CvtKind} {w : ConvW} {ch : ChanFmt} (hc : f.clear = true) (hf : Fires (.cvt h k w) s f) (ht : f.takesScalars (.cvt h k w) = true)
    (hch : chanOf (f.x.chan w.fc.toNat) = some ch) :
    let p := convertKind k ch f.a.val (f.rounding w.mode 0)
    Gives (.cvt h k w) s f (s.orFlags f.key p.flags) (f.handles (.cvt h k w)) (some (scalarTok (wordOf p.code)))
      (some (if p.sat then scalarTok 1 else nullTok)) := by
  intro p
  rw [← overflowTok_bit]
  have ha : f.scalar f.a = .ok f.a.val := scalar_ok (takesScalars_iff.mp ht .a (.head _))
  refine gives_of_ok (body := cvtBody k w) rfl hf hc ?_ (by simp [scalarTok]) (overflowTok_ne_tile _) (.orFlags ..)
  simp only [cvtBody, ha, chanFmt_of_chanOf hch, bind, Except.bind]
  rfl

theorem fcset_gives {w : FcsetW} (hc : f.clear = true) (hf : Fires (.fcset h w) s f) (hw : f.fr.writesChan w.chan.toNat = false)
    (ha : w.fromA = true → f.a.kind = .scalar) {img : Word} (himg : img = if w.fromA then f.a.val else wordOf (w.scale.toNat * 256 + w.fmt.toNat))
    (hvalid : imageValid img = true) : GivesScalar (.fcset h w) s f (s.hold f.key (.fcset w.chan.toNat img)) (f.handles (.fcset h w)) img := by
  have hkind : (w.fromA && f.a.kind == .tile) = false := by
    cases hA : w.fromA with
    | false => rfl
    | true => simp [ha hA]
  refine givesScalar_of_ok (body := fcsetBody w) rfl hf hc ?_ (hold_keepsOuts ..)
  have himg' : (if w.fromA then f.a.val else wordOf (w.scale.toNat * 2 ^ 8 + w.fmt.toNat)) = img := himg.symm
  simp only [fcsetBody, hkind, himg', hvalid, hw, Bool.not_true, Bool.or_self, Bool.false_eq_true, if_false]

theorem trescale_gives (hc : f.clear = true) (hf : Fires (.trescale h) s f) (ha : f.a.kind = .scalar) (hb : f.b.kind = .scalar) (hn : f.a.val.toNat < 32)
    (hw : f.fr.writesChan f.a.val.toNat = false) :
    let r := rescaled (f.x.chan f.a.val.toNat) f.b.val.toInt
    GivesScalar (.trescale h) s f ((s.hold f.key (.trescale f.a.val.toNat f.b.val.toInt)).orFlags f.key (flagIf r.2 flagSV)) (f.handles (.trescale h))
      (chanImage r.1) := by
  intro r
  refine givesScalar_of_ok (body := trescaleBody) rfl hf hc ?_ ((hold_keepsOuts ..).trans (.orFlags ..))
  have hpass : ¬ (f.a.val.toNat / 2 ^ 5 ≠ 0 ∨ f.fr.writesChan f.a.val.toNat = true) := by
    rw [hw]
    simp only [Bool.false_eq_true, or_false, not_not]
    omega
  simp only [trescaleBody, tileScalar_of_ne (ne_tile_of_scalar ha), tileScalar_of_ne (ne_tile_of_scalar hb), bind, Except.bind, if_neg hpass, signedOf_toNat]
  rfl

end

end Sys2Proof.Machine

section
open Sys2Proof Sys2Proof.Machine

/-- Settles O8: each body answers once its checks pass; `imageValid_of_bits` and `rescaled_spec` say which images those are. -/
theorem formatInstructions : Obligations.FormatInstructions := by
  refine ⟨fun s f hc => ⟨fun h k w ch hf ht hch => cvt_gives hc hf ht hch, fun h w hf => ?_⟩, fun s f hc => ⟨fun h w hf hw ha => ?_,
    fun h hf ha hb hn hw => ?_⟩⟩
  · exact givesScalar_of_ok (body := fcgetBody w) rfl hf hc rfl (.refl s)
  · intro img hhigh hmid hfmt
    exact fcset_gives hc hf hw ha rfl (imageValid_of_bits hhigh hmid hfmt)
  · intro old sum scale
    obtain ⟨hflag, hscale, hformat, hmiddle⟩ := rescaled_spec old f.b.val.toInt
    have hgives := trescale_gives hc hf ha hb hn hw
    have hsv : flagIf (rescaled old f.b.val.toInt).2 flagSV = if sum = scale then 0 else flagSV := by
      rw [hflag, flagIf]
      simp only [decide_eq_true_eq, ne_eq, ite_not]
      rfl
    refine ⟨chanImage (rescaled old f.b.val.toInt).1, ?_, ?_, ?_, ?_, hsv ▸ hgives⟩
    all_goals rw [chanImage_toNat]
    · exact hscale
    · exact hformat
    · exact (rescaled old f.b.val.toInt).1.isLt
    · exact hmiddle

end

/-! ## Tile moves, compares and copies (O15) -/

namespace Sys2Proof.Machine

/-! ### What a new tile of computed elements holds (R164) -/

theorem inRegion_iff {rows cols i : Nat} : inRegion rows cols i = true ↔ i / 16 ≤ rows ∧ i % 16 ≤ cols := by simp [inRegion]

/-- A code of a new tile. -/
theorem build_getElem? (rows cols : Nat) (g : Nat → Nat × Flags) {i : Nat} (hi : i < 256) :
    (build rows cols g).1[i]? = some (if i / 16 ≤ rows ∧ i % 16 ≤ cols then (g i).1 else 0) := by
  simp only [build, List.map_map, List.getElem?_map, List.getElem?_range hi, Option.map_some, Function.comp_apply, inRegion_iff]
  split <;> rfl

theorem build_length (rows cols : Nat) (g : Nat → Nat × Flags) : (build rows cols g).1.length = 256 := by simp [build]

/-- The flags of a new tile are those of its elements. -/
theorem build_flags (rows cols : Nat) (g : Nat → Nat × Flags) (j : Nat) :
    (build rows cols g).2.getLsbD j = true ↔ ∃ i, i < 256 ∧ i / 16 ≤ rows ∧ i % 16 ≤ cols ∧ (g i).2.getLsbD j = true := by
  have hzero : (0 : Flags).getLsbD j = false := BitVec.getLsbD_zero
  simp only [build, getLsbD_foldl_or, hzero, Bool.false_eq_true, false_or, List.mem_map, List.mem_range]
  constructor
  · rintro ⟨_, ⟨i, hi, rfl⟩, hflag⟩
    split at hflag
    · rename_i hin
      obtain ⟨hrow, hcol⟩ := inRegion_iff.mp hin
      exact ⟨i, hi, hrow, hcol, hflag⟩
    · exact absurd (hzero.symm.trans hflag) Bool.false_ne_true
  · rintro ⟨i, hi, hrow, hcol, hflag⟩
    exact ⟨_, ⟨i, hi, rfl⟩, by rwa [if_pos (inRegion_iff.mpr ⟨hrow, hcol⟩)]⟩

/-- The nonfinite bit of a new tile. -/
theorem regionNonfinite_build (fmt : Fmt) (rows cols : Nat) (g : Nat → Nat × Flags) :
    regionNonfinite fmt rows cols (build rows cols g).1 = true ↔
      ∃ i, i < 256 ∧ i / 16 ≤ rows ∧ i % 16 ≤ cols ∧ nonfiniteCode fmt (g i).1 = true := by
  simp only [regionNonfinite, List.any_eq_true, List.mem_range, Bool.and_eq_true, inRegion_iff, and_assoc]
  refine exists_congr fun i => and_congr_right fun hi => and_congr_right fun hrow => and_congr_right fun hcol => ?_
  rw [nthD, build_getElem? rows cols g hi, if_pos ⟨hrow, hcol⟩, Option.getD_some]

theorem newTile_isOf (fc : Nat) (ch : ChanFmt) (rows cols : Nat) (g : Nat → Nat × Flags) : (NewTile.of fc ch rows cols g).isOf fc ch rows cols g := by
  refine ⟨rfl, rfl, rfl, rfl, ?_, fun i hi => ?_, fun j => ?_, ?_⟩
  · exact build_length rows cols g
  · exact build_getElem? rows cols g hi
  · simpa only [NewTile.of] using build_flags rows cols g j
  · exact regionNonfinite_build ch.fmt rows cols g

/-- A tile of zero codes, which sets no flag. -/
theorem build_zero (rows cols : Nat) : build rows cols (fun _ => (0, 0)) = (List.replicate 256 0, 0) := by
  refine Prod.ext ?_ ?_
  · simp only [build, ite_self, List.map_const', List.length_range, List.map_replicate]
  · refine BitVec.eq_of_getLsbD_eq fun j _ => Bool.eq_iff_iff.mpr ?_
    rw [build_flags]
    exact ⟨fun ⟨_, _, _, _, hflag⟩ => hflag, fun hflag => ⟨0, by decide, Nat.zero_le _, Nat.zero_le _, hflag⟩⟩

section
variable {i : Instr} {s : State} {f : Firing} {body : Body} {used : List Tok}

theorem makesTile_of_body {fc : Nat} {ch : ChanFmt} {rows cols : Nat} {g : Nat → Nat × Flags} (hexec : exec i s = fire i body s) (h : Fires i s f)
    (hc : f.clear = true) (hb : body f s = f.sendTile s used (NewTile.of fc ch rows cols g)) : MakesTile i s f used fc ch rows cols g :=
  ⟨_, newTile_isOf fc ch rows cols g, sendsTile_of_body hexec h hc hb⟩

end

/-! ### The relations of TCMP (R179) -/

theorem num_eq_comm (x y : Num) : x.eq y = y.eq x := by
  cases x <;> cases y <;> simp [Num.eq, Bool.beq_comm, eq_comm]

/-- Numbers are ordered: one is less than the other, or they are equal. -/
theorem lt_or_eq_eq_not_lt {x y : Num} (hx : x.isNan = false) (hy : y.isNan = false) : (x.lt y || x.eq y) = !y.lt x := by
  match x, y with
  | .fin .., .fin .. => simp only [Num.lt, Num.eq, finLt, ← Bool.decide_or, ← decide_not, not_lt, ← le_iff_lt_or_eq]
  | .fin .., .inf s => cases s <;> rfl
  | .inf s, .fin .. => cases s <;> rfl
  | .inf s, .inf t => cases s <;> cases t <;> rfl
  | .nan _, _ => cases hx
  | .fin .., .nan _ => cases hy
  | .inf _, .nan _ => cases hy

/-- The relation that TCMP evaluates is the one its condition names, and NV is set for signaling NaNs by the quiet conditions, for every NaN by the
others. -/
theorem tileRel_eq (c : TCond) (x y : Num) : tileRel c x y =
    (c.holds x y, if ((c = .eq ∨ c = .ne ∨ c = .un) ∧ (x.isSig = true ∨ y.isSig = true)) ∨
      (¬ (c = .eq ∨ c = .ne ∨ c = .un) ∧ (x.isNan = true ∨ y.isNan = true)) then flagNV else 0) := by
  have hle : (!(x.isNan || y.isNan) && !y.lt x) = (!(x.isNan || y.isNan) && (x.lt y || x.eq y)) := by
    cases hx : x.isNan <;> cases hy : y.isNan <;> simp [lt_or_eq_eq_not_lt, hx, hy]
  have hge : (!(x.isNan || y.isNan) && !x.lt y) = (!(x.isNan || y.isNan) && (y.lt x || x.eq y)) := by
    cases hx : x.isNan <;> cases hy : y.isNan <;> simp [← lt_or_eq_eq_not_lt, num_eq_comm x y, hx, hy]
  cases c with
  | eq | ne | un => simp [tileRel, TCond.holds, flagIf]
  | lt | gt => simp [tileRel, TCond.holds, flagIf]
  | le => simp only [tileRel, TCond.holds, hle]; simp [flagIf]
  | ge => simp only [tileRel, TCond.holds, hge]; simp [flagIf]

/-! ### The instructions -/

section
variable {s : State} {f : Firing} {h : Hdr} {a b : TileIn}

theorem sameShape_true (hrows : a.rows = b.rows) (hcols : a.cols = b.cols) : sameShape a b = true := by simp [sameShape, hrows, hcols]

theorem tsplat_makes {ch : ChanFmt} (hc : f.clear = true) (hf : Fires (.tsplat h) s f) (ha : f.a.kind ≠ .tile) (hb : f.b.kind ≠ .tile)
    (hn : f.b.val.toNat < 2 ^ 13) (hch : chanOf (f.x.chan (f.b.val.toNat / 2 ^ 8)) = some ch) :
    MakesTile (.tsplat h) s f [] (f.b.val.toNat / 2 ^ 8) ch (f.b.val.toNat / 16 % 16) (f.b.val.toNat % 16)
      fun _ => putIn ch (fp64.decode f.a.val.toNat, flagIf (fp64.decode f.a.val.toNat).isSig flagNV) := by
  refine makesTile_of_body (body := tsplatBody) rfl hf hc ?_
  have hpass : ¬ f.b.val.toNat / 2 ^ 13 ≠ 0 := by omega
  have hfc : bitsAt f.b.val.toNat 8 5 = f.b.val.toNat / 2 ^ 8 := by unfold bitsAt; omega
  have hcols : bitsAt f.b.val.toNat 0 4 = f.b.val.toNat % 16 := by unfold bitsAt; omega
  simp only [tsplatBody, tileScalar_of_ne ha, tileScalar_of_ne hb, bind, Except.bind, if_neg hpass, hfc, hcols, chanFmt_of_chanOf hch]
  rfl

/-- TROWB and TCOLB, once their checks pass. -/
theorem tileRepeat_eq (byRow : Bool) (hb : f.b.kind ≠ .tile) (ha : f.holds s f.a a) (hflat : (if byRow then a.rows else a.cols) = 0)
    (hlow : 1 ≤ f.b.val.toNat) (hhigh : f.b.val.toNat ≤ 16) :
    tileRepeat byRow f s = f.sendTile s [f.a] (NewTile.of (hFc a.h) a.ch (if byRow then f.b.val.toNat - 1 else a.rows)
      (if byRow then a.cols else f.b.val.toNat - 1) fun i => (a.code (if byRow then i % 16 else i / 16 * 16), 0)) := by
  have hpass : ¬ ((if byRow = true then a.rows else a.cols) ≠ 0 ∨ f.b.val.toNat = 0 ∨ 16 < f.b.val.toNat) := by
    rw [hflat]; omega
  simp only [tileRepeat, tileScalar_of_ne hb, tile_of_holds ha, bind, Except.bind, if_neg hpass]

theorem ttrans_makes (hc : f.clear = true) (hf : Fires (.ttrans h) s f) (ha : f.holds s f.a a) :
    MakesTile (.ttrans h) s f [f.a] (hFc a.h) a.ch a.cols a.rows fun i => (a.code (i % 16 * 16 + i / 16), 0) := by
  refine makesTile_of_body (body := ttransBody) rfl hf hc ?_
  simp only [ttransBody, tile_of_holds ha, bind, Except.bind]

theorem tmask_makes (hc : f.clear = true) (hf : Fires (.tmask h) s f) (hb : f.b.kind ≠ .tile) (ha : f.holds s f.a a) (hn : f.b.val.toNat < 2 ^ 8) :
    MakesTile (.tmask h) s f [f.a] (hFc a.h) a.ch (f.b.val.toNat / 16) (f.b.val.toNat % 16) fun i => (a.code i, 0) := by
  refine makesTile_of_body (body := tmaskBody) rfl hf hc ?_
  have hpass : ¬ f.b.val.toNat / 2 ^ 8 ≠ 0 := by omega
  have hrows : bitsAt f.b.val.toNat 4 4 = f.b.val.toNat / 16 := by unfold bitsAt; omega
  have hcols : bitsAt f.b.val.toNat 0 4 = f.b.val.toNat % 16 := by unfold bitsAt; omega
  simp only [tmaskBody, tileScalar_of_ne hb, tile_of_holds ha, bind, Except.bind, if_neg hpass, hrows, hcols]

theorem tcmp_sends {c : TCond} (hc : f.clear = true) (hf : Fires (.tcmp h c) s f) (ha : f.holds s f.a a) (hb : f.holds s f.b b)
    (hrows : a.rows = b.rows) (hcols : a.cols = b.cols) :
    SendsTile (.tcmp h c) s f [f.a, f.b] { NewTile.of (hFc a.h) a.ch a.rows a.cols (fun i =>
      (bit (tileRel c (a.val i) (b.val i)).1, (tileRel c (a.val i) (b.val i)).2)) with nf := false } := by
  refine sendsTile_of_body (body := tcmpBody c) rfl hf hc ?_
  simp only [tcmpBody, tile_of_holds ha, tile_of_holds hb, bind, Except.bind, sameShape_true hrows hcols, Bool.not_true, Bool.false_eq_true, if_false]

theorem tsel_makes (hc : f.clear = true) (hf : Fires (.tsel h) s f) (ha : f.holds s f.a a) (hb : f.holds s f.b b) (hrows : a.rows = b.rows)
    (hcols : a.cols = b.cols) :
    MakesTile (.tsel h) s f [f.a, f.b] (hFc a.h) a.ch a.rows a.cols fun i => (if (b.code i).testBit 0 then a.code i else 0, 0) := by
  refine makesTile_of_body (body := tselBody) rfl hf hc ?_
  simp only [tselBody, tile_of_holds ha, tile_of_holds hb, bind, Except.bind, sameShape_true hrows hcols, Bool.not_true, Bool.false_eq_true, if_false,
    Nat.testBit_zero, decide_eq_true_eq]

theorem telset_makes (hc : f.clear = true) (hf : Fires (.telset h) s f) (hb : f.b.kind ≠ .tile) (ha : f.holds s f.a a) (hn : f.b.val.toNat < 2 ^ 40)
    (hv : f.b.val.toNat % 2 ^ 32 < 2 ^ a.ch.fmt.bits) (hrow : f.b.val.toNat / 2 ^ 36 ≤ a.rows) (hcol : f.b.val.toNat / 2 ^ 32 % 16 ≤ a.cols) :
    MakesTile (.telset h) s f [f.a] (hFc a.h) a.ch a.rows a.cols
      fun i => (if i = f.b.val.toNat / 2 ^ 32 then f.b.val.toNat % 2 ^ 32 else a.code i, 0) := by
  refine makesTile_of_body (body := telsetBody) rfl hf hc ?_
  have hindex : bitsAt f.b.val.toNat 32 8 = f.b.val.toNat / 2 ^ 32 := by unfold bitsAt; omega
  have hvalue : bitsAt f.b.val.toNat 0 32 = f.b.val.toNat % 2 ^ 32 := by unfold bitsAt; omega
  have hin : inRegion a.rows a.cols (f.b.val.toNat / 2 ^ 32) = true := inRegion_iff.mpr ⟨by omega, hcol⟩
  have hpass : ¬ (f.b.val.toNat / 2 ^ 40 ≠ 0 ∨ f.b.val.toNat % 2 ^ 32 / 2 ^ a.ch.fmt.bits ≠ 0 ∨
      (!inRegion a.rows a.cols (f.b.val.toNat / 2 ^ 32)) = true) := by
    rw [Nat.div_eq_of_lt hn, Nat.div_eq_of_lt hv, hin]
    decide
  simp only [telsetBody, tileScalar_of_ne hb, tile_of_holds ha, bind, Except.bind, hindex, hvalue, if_neg hpass]

theorem tnew_sends {w : TnewW} {ch : ChanFmt} (hc : f.clear = true) (hf : Fires (.tnew h w) s f) (hch : chanOf (f.x.chan w.fc.toNat) = some ch) :
    SendsTile (.tnew h w) s f [] { fc := w.fc.toNat, rows := w.rows.toNat, cols := w.cols.toNat, width := ch.fmt.width, nf := false
                                   codes := List.replicate 256 0, flags := 0 } := by
  refine sendsTile_of_body (body := tnewBody w) rfl hf hc ?_
  simp only [tnewBody, chanFmt_of_chanOf hch, bind, Except.bind, NewTile.of, build_zero]

theorem tcopy_sends (hc : f.clear = true) (hf : Fires (.tcopy h) s f) (ha : f.holds s f.a a) :
    SendsTile (.tcopy h) s f [f.a] { fc := hFc a.h, rows := a.rows, cols := a.cols, width := a.slot.width, nf := a.slot.nonfinite, codes := a.slot.codes
                                     flags := 0 } := by
  refine sendsTile_of_body (body := tcopyBody) rfl hf hc ?_
  simp only [tcopyBody, tile_of_holds ha, bind, Except.bind]

end

end Sys2Proof.Machine

section
open Sys2Proof Sys2Proof.Machine

/-- Settles O15: each body, once its checks pass, ends in the send of its new tile, which `newTile_isOf` describes; TCMP's relation is that of
`tileRel_eq`. -/
theorem tileMoves : Obligations.TileMoves := by
  intro s f h a b hc
  refine ⟨fun ch hf ha hb hn hch => tsplat_makes hc hf ha hb hn hch, fun hf hb ha hrows hlow hhigh => ?_, fun hf hb ha hcols hlow hhigh => ?_,
    fun hf ha => ttrans_makes hc hf ha, fun hf hb ha hn => tmask_makes hc hf hb ha hn, fun c hf ha hb hrows hcols => ?_,
    fun hf ha hb hrows hcols => tsel_makes hc hf ha hb hrows hcols, fun hf hb ha hn hv hrow hcol => telset_makes hc hf hb ha hn hv hrow hcol,
    fun w ch hf hch => ⟨_, rfl, rfl, rfl, rfl, rfl, rfl, rfl, tnew_sends hc hf hch⟩, fun hf ha => tcopy_sends hc hf ha⟩
  · exact makesTile_of_body (body := tileRepeat true) rfl hf hc (tileRepeat_eq true hb ha hrows hlow hhigh)
  · exact makesTile_of_body (body := tileRepeat false) rfl hf hc (tileRepeat_eq false hb ha hcols hlow hhigh)
  · refine ⟨_, tcmp_sends hc hf ha hb hrows hcols, ?_⟩
    simp only [tileRel_eq]
    exact newTile_isOf ..

end

/-! ## TELGET, TREL, TAMAX and TCVT (O16) -/

namespace Sys2Proof.Machine

/-! ### Denominators of decoded values (R138) -/

/-- A number that is finite has a positive denominator. -/
def Num.proper : Num → Prop
  | .fin _ _ d => 0 < d
  | _ => True

theorem scaled2_pos {n d : Nat} (hd : 0 < d) (x : Int) : 0 < (scaled2 n d x).2 := by
  unfold scaled2
  split
  · exact hd
  · exact Nat.mul_pos hd (Nat.two_pow_pos _)

theorem scaled10_pos {n d : Nat} (hd : 0 < d) (k : Int) : 0 < (scaled10 n d k).2 := by
  unfold scaled10
  split
  · exact hd
  · exact Nat.mul_pos hd (Nat.pow_pos (by decide))

theorem fpDecode_proper (f : FpFmt) (c : Nat) : (f.decode c).proper := by
  simp only [FpFmt.decode]
  split_ifs
  · trivial
  · trivial
  · exact scaled2_pos Nat.one_pos _
  · exact scaled2_pos Nat.one_pos _

theorem dm8Mag_pos (b : Nat) : 0 < (dm8Mag b).2 := by
  unfold dm8Mag
  split
  · exact Nat.one_pos
  · exact scaled10_pos (by decide) _

theorem dm8Decode_proper (c : Nat) : (dm8Decode c).proper := by
  simp only [dm8Decode]
  split_ifs
  · trivial
  · exact Nat.one_pos
  · exact dm8Mag_pos _

theorem fmtDecode_proper (f : Fmt) (c : Nat) : (f.decode c).proper := by
  cases f with
  | fp g => exact fpDecode_proper g c
  | dm8 => exact dm8Decode_proper c
  | int n => exact Nat.one_pos

theorem scaleBy_proper {v : Num} (h : v.proper) (f : Fmt) (x : Int) : (v.scaleBy f x).proper := by
  cases v with
  | fin neg n d =>
    unfold Num.scaleBy Num.proper
    dsimp only
    split
    · exact scaled10_pos h x
    · exact scaled2_pos h x
  | inf | nan => trivial

theorem val_proper (a : TileIn) (i : Nat) : (a.val i).proper := scaleBy_proper (fmtDecode_proper _ _) _ _

/-! ### The greatest of some magnitudes (R154) -/

/-- A magnitude that is finite. -/
def Num.IsMag (m : Num) : Prop := ∃ n d, m = .fin false n d ∧ 0 < d

theorem zero_isMag : Num.zero.IsMag := ⟨0, 1, rfl, Nat.one_pos⟩

theorem magnitude_isMag {v : Num} (hv : v.proper) (hnan : v.isNan = false) (hinf : v.isInf = false) : v.magnitude.IsMag := by
  cases v with
  | fin neg n d => exact ⟨n, d, rfl, hv⟩
  | inf => cases hinf
  | nan => cases hnan

/-- Magnitudes are compared as fractions. -/
theorem mag_lt (n d n' d' : Nat) : (Num.fin false n d).lt (.fin false n' d') = decide (n * d' < n' * d) := by
  simp only [Num.lt, finLt, signedNum, Bool.false_eq_true, if_false, Nat.cast_lt]

theorem lt_mag_trans {x y z : Num} (hx : x.IsMag) (hy : y.IsMag) (hz : z.IsMag) (hxy : x.lt y = false) (hyz : y.lt z = false) : x.lt z = false := by
  obtain ⟨n, d, rfl, -⟩ := hx
  obtain ⟨n', d', rfl, hd'⟩ := hy
  obtain ⟨n'', d'', rfl, -⟩ := hz
  simp only [mag_lt, decide_eq_false_iff_not, not_lt] at hxy hyz ⊢
  refine Nat.le_of_mul_le_mul_right ?_ hd'
  calc n'' * d * d' = n'' * d' * d := Nat.mul_right_comm ..
    _ ≤ n' * d'' * d := Nat.mul_le_mul_right d hyz
    _ = n' * d * d'' := Nat.mul_right_comm ..
    _ ≤ n * d' * d'' := Nat.mul_le_mul_right d'' hxy
    _ = n * d'' * d' := Nat.mul_right_comm ..

theorem lt_mag_asymm {x y : Num} (hx : x.IsMag) (hy : y.IsMag) (h : x.lt y = true) : y.lt x = false := by
  obtain ⟨n, d, rfl, -⟩ := hx
  obtain ⟨n', d', rfl, -⟩ := hy
  simp only [mag_lt, decide_eq_true_eq, decide_eq_false_iff_not, not_lt] at h ⊢
  exact h.le

theorem lt_mag_irrefl {x : Num} (hx : x.IsMag) : x.lt x = false := by
  obtain ⟨n, d, rfl, -⟩ := hx
  simp [mag_lt]

/-- The greater of two, as TAMAX goes along its elements. -/
def Num.greater (m v : Num) : Num := if m.lt v then v else m

theorem greater_cases (m v : Num) : (m.lt v = true ∧ m.greater v = v) ∨ (m.lt v = false ∧ m.greater v = m) := by
  unfold Num.greater
  cases m.lt v <;> simp

theorem greater_isMag {m v : Num} (hm : m.IsMag) (hv : v.IsMag) : (m.greater v).IsMag := by
  rcases greater_cases m v with ⟨-, h⟩ | ⟨-, h⟩
  · rwa [h]
  · rwa [h]

theorem greater_upper {m v : Num} (hm : m.IsMag) (hv : v.IsMag) : (m.greater v).lt m = false ∧ (m.greater v).lt v = false := by
  rcases greater_cases m v with ⟨hlt, h⟩ | ⟨hlt, h⟩
  · rw [h]
    exact ⟨lt_mag_asymm hm hv hlt, lt_mag_irrefl hv⟩
  · rw [h]
    exact ⟨lt_mag_irrefl hm, hlt⟩

/-- The last of a chain of greater ones is the first or one of the list, and none of them is greater. -/
theorem foldl_greater (l : List Num) {m : Num} (hm : m.IsMag) (hl : ∀ v ∈ l, v.IsMag) :
    l.foldl Num.greater m ∈ m :: l ∧ (l.foldl Num.greater m).IsMag ∧ ∀ v ∈ m :: l, (l.foldl Num.greater m).lt v = false := by
  induction l generalizing m with
  | nil =>
    refine ⟨.head _, hm, fun v hv => ?_⟩
    rw [List.mem_singleton.mp hv]
    exact lt_mag_irrefl hm
  | cons w l ih =>
    have hw : w.IsMag := hl w (.head _)
    have hg := greater_isMag hm hw
    obtain ⟨hmem, hmag, hupper⟩ := ih hg fun v hv => hl v (.tail _ hv)
    obtain ⟨hlow, hlow'⟩ := greater_upper hm hw
    have htop := hupper _ (.head _)
    rw [List.foldl_cons]
    refine ⟨?_, hmag, fun v hv => ?_⟩
    · rcases List.mem_cons.mp hmem with h | h
      · rw [h]
        rcases greater_cases m w with ⟨-, h⟩ | ⟨-, h⟩
        · simp [h]
        · simp [h]
      · exact .tail _ (.tail _ h)
    · rcases List.mem_cons.mp hv with rfl | hv
      · exact lt_mag_trans hmag hg hm htop hlow
      · rcases List.mem_cons.mp hv with rfl | hv
        · exact lt_mag_trans hmag hg hw htop hlow'
        · exact hupper v (.tail _ hv)

/-- A number that no magnitude of zero is less than is zero, and every zero has one code. -/
theorem result_of_not_pos {f : FpFmt} {v : Num} (hv : v.IsMag) (h : Num.zero.lt v = false) : f.result (v, 0) = f.result (.zero, 0) := by
  obtain ⟨n, d, rfl, -⟩ := hv
  have hn : n = 0 := by simpa [Num.zero, mag_lt] using h
  subst hn
  rfl

/-! ### TAMAX -/

/-- Element i lies in the operand's valid region. -/
def TileIn.inside (a : TileIn) (i : Nat) : Prop := i < 256 ∧ i / 16 ≤ a.rows ∧ i % 16 ≤ a.cols

/-- The magnitudes of a tile's valid elements. -/
def TileIn.magnitudes (a : TileIn) : List Num := ((List.range 256).filter fun i => inRegion a.rows a.cols i).map fun i => (a.val i).magnitude

/-- The code that TAMAX sends for magnitudes (R154). -/
def amaxCode (l : List Num) : Nat :=
  if l.any Num.isNan then 0x7FC00000 else if l.any Num.isInf then 0x7F800000 else (fp32.result (l.foldl Num.greater .zero, 0)).1

theorem mem_magnitudes {a : TileIn} {v : Num} : v ∈ a.magnitudes ↔ ∃ i, a.inside i ∧ (a.val i).magnitude = v := by
  simp only [TileIn.magnitudes, List.mem_map, List.mem_filter, List.mem_range, inRegion_iff, TileIn.inside]

theorem isNan_magnitude (v : Num) : v.magnitude.isNan = v.isNan := by cases v <;> rfl

theorem isInf_magnitude (v : Num) : v.magnitude.isInf = v.isInf := by cases v <;> rfl

theorem any_isNan_magnitudes (a : TileIn) : a.magnitudes.any Num.isNan = true ↔ ∃ i, a.inside i ∧ (a.val i).isNan = true := by
  simp only [List.any_eq_true, mem_magnitudes, exists_exists_and_eq_and, isNan_magnitude]

theorem any_isInf_magnitudes (a : TileIn) : a.magnitudes.any Num.isInf = true ↔ ∃ i, a.inside i ∧ (a.val i).isInf = true := by
  simp only [List.any_eq_true, mem_magnitudes, exists_exists_and_eq_and, isInf_magnitude]

/-- Where every element is finite, the code is that of an element than which none is greater. -/
theorem amaxCode_finite {a : TileIn} (hfin : ∀ i, a.inside i → (a.val i).isNan = false ∧ (a.val i).isInf = false) :
    ∃ k, a.inside k ∧ (∀ i, a.inside i → (a.val k).magnitude.lt (a.val i).magnitude = false) ∧
      amaxCode a.magnitudes = (fp32.result ((a.val k).magnitude, 0)).1 := by
  have hnan : a.magnitudes.any Num.isNan = false :=
    Bool.eq_false_iff.mpr fun h => by obtain ⟨i, hi, hv⟩ := (any_isNan_magnitudes a).mp h; simp [(hfin i hi).1] at hv
  have hinf : a.magnitudes.any Num.isInf = false :=
    Bool.eq_false_iff.mpr fun h => by obtain ⟨i, hi, hv⟩ := (any_isInf_magnitudes a).mp h; simp [(hfin i hi).2] at hv
  have hmag : ∀ i, a.inside i → (a.val i).magnitude.IsMag := fun i hi => magnitude_isMag (val_proper a i) (hfin i hi).1 (hfin i hi).2
  have hall : ∀ v ∈ a.magnitudes, v.IsMag := fun v hv => by obtain ⟨i, hi, rfl⟩ := mem_magnitudes.mp hv; exact hmag i hi
  obtain ⟨hmem, -, hupper⟩ := foldl_greater a.magnitudes zero_isMag hall
  have htop : ∀ i, a.inside i → (a.magnitudes.foldl Num.greater .zero).lt (a.val i).magnitude = false :=
    fun i hi => hupper _ (.tail _ (mem_magnitudes.mpr ⟨i, hi, rfl⟩))
  have hcode : amaxCode a.magnitudes = (fp32.result (a.magnitudes.foldl Num.greater .zero, 0)).1 := by
    simp only [amaxCode, hnan, hinf, Bool.false_eq_true, if_false]
  rw [hcode]
  rcases List.mem_cons.mp hmem with hzero | hmem
  · -- every magnitude is zero, and that of element 0 is one of them
    rw [hzero] at htop ⊢
    have h0 : a.inside 0 := ⟨by decide, Nat.zero_le _, Nat.zero_le _⟩
    have hle : (a.val 0).magnitude.lt .zero = false := by
      obtain ⟨n, d, hv, hd⟩ := hmag 0 h0
      rw [hv]
      simp [Num.zero, mag_lt]
    exact ⟨0, h0, fun i hi => lt_mag_trans (hmag 0 h0) zero_isMag (hmag i hi) hle (htop i hi), by rw [result_of_not_pos (hmag 0 h0) (htop 0 h0)]⟩
  · obtain ⟨k, hk, hval⟩ := mem_magnitudes.mp hmem
    rw [← hval] at htop ⊢
    exact ⟨k, hk, htop, rfl⟩

section
variable {s : State} {f : Firing} {h : Hdr} {a : TileIn}

theorem tamax_gives (hc : f.clear = true) (hf : Fires (.tamax h) s f) (ha : f.holds s f.a a) :
    GivesScalar (.tamax h) s f s (f.handles (.tamax h)) (wordOf (amaxCode a.magnitudes)) := by
  refine givesScalar_of_ok (body := tamaxBody) rfl hf hc ?_ (.refl s)
  simp only [tamaxBody, tile_of_holds ha, bind, Except.bind]
  rfl

theorem telget_gives (hc : f.clear = true) (hf : Fires (.telget h) s f) (ha : f.holds s f.a a) (hb : f.b.kind ≠ .tile) (hn : f.b.val.toNat < 256)
    (hrow : f.b.val.toNat / 16 ≤ a.rows) (hcol : f.b.val.toNat % 16 ≤ a.cols) :
    GivesScalar (.telget h) s f s (f.handles (.telget h)) (wordOf (a.code f.b.val.toNat)) := by
  refine givesScalar_of_ok (body := telgetBody) rfl hf hc ?_ (.refl s)
  have hpass : ¬ (f.b.val.toNat / 2 ^ 8 ≠ 0 ∨ (!inRegion a.rows a.cols f.b.val.toNat) = true) := by
    rw [inRegion_iff.mpr ⟨hrow, hcol⟩, show f.b.val.toNat / 2 ^ 8 = 0 from Nat.div_eq_of_lt hn]
    decide
  simp only [telgetBody, tileScalar_of_ne hb, tile_of_holds ha, bind, Except.bind, if_neg hpass]

theorem trel_gives (hc : f.clear = true) (hf : Fires (.trel h) s f) (ha : f.holds s f.a a) :
    Gives (.trel h) s f s (f.handles (.trel h)) (some nullTok) (some nullTok) := by
  refine gives_of_send (body := trelBody) rfl hf ?_ nofun hc
  simp only [trelBody, tile_of_holds ha, bind, Except.bind]

/-! ### TCVT -/

theorem retire_noTarget (u : State) (rel : List Tok) (st : IStat) (r0 : Option Tok) (t : Tok) (h1 : f.h.t1 = .none) :
    u.retire f rel st r0 none = u.retire f rel st r0 (some t) := by
  simp only [State.retire, h1, State.arrive?, State.arrive]

/-- A new tile goes to T0, and its second reference gives way to the overflow token of T1 (R147, R151). -/
def Firing.withOverflow (f : Firing) (r : Done) (o : Tok) : Done :=
  if f.h.t1 = .none then { r with t1 := none }
  else { r with st := (match r.t0 with | some t => r.st.dropTok f.pe t | none => r.st), t1 := some o }

theorem dropTok_keepsOuts (s : State) (pe : Nat) (t : Tok) : KeepsOuts s (s.dropTok pe t) := .dropToks s pe [t]

theorem gives_withOverflow {i : Instr} {body : Body} {used : List Tok} {n : NewTile} {o : Tok} (hexec : exec i s = fire i body s) (hf : Fires i s f)
    (hc : f.clear = true) (hb : body f s = (f.sendTile s used n).map fun r => f.withOverflow r o) (hroom : f.room s n.width used = true) :
    let u := s.dropToks f.pe used
    let slot := u.pickSlot f.pe
    let t : Tok := { kind := .tile, val := handleOf f.pe slot n.fc n.rows n.cols (u.tileSlot f.pe slot).gen }
    let v := (u.drawn.fillSlot f.pe slot f.x.slot f.fan n.width n.nf n.codes).orFlags f.key n.flags
    Gives i s f (if f.h.t1 = .none then v else v.dropTok f.pe t) (used.foldl (fun l t => l.erase t) (f.handles i)) (some t) (some o) := by
  intro u slot t v
  have hkeep : KeepsOuts s v := filled_keepsOuts s f used n
  rw [sendTile_of_room hroom] at hb
  by_cases h1 : f.h.t1 = .none
  · rw [if_pos h1]
    have hbody : body f s = .ok { st := v, t0 := some t, t1 := none, fresh := true, keep := used } := by
      rw [hb]
      simp only [Except.map, Firing.withOverflow, if_pos h1]
      rfl
    refine hexec.trans ((fire_retire hf hbody rfl (.inl rfl) (hkeep.frame hf.frame) hkeep.ctxs hc).trans ?_)
    exact congrArg _ (retire_noTarget v _ _ _ _ h1)
  · rw [if_neg h1]
    have hbody : body f s = .ok { st := v.dropTok f.pe t, t0 := some t, t1 := some o, fresh := true, keep := used } := by
      rw [hb]
      simp only [Except.map, Firing.withOverflow, if_neg h1]
      rfl
    have hdrop : KeepsOuts s (v.dropTok f.pe t) := hkeep.trans (dropTok_keepsOuts v f.pe t)
    exact hexec.trans (fire_retire hf hbody rfl (.inl rfl) (hdrop.frame hf.frame) hdrop.ctxs hc)

/-- Element i as TCVT converts it. -/
def Firing.converted (f : Firing) (w : ConvW) (d : ChanFmt) (a : TileIn) (i : Nat) : Put := convert (a.val i) d (f.rounding w.mode i)

theorem tcvtBody_eq {w : ConvW} {d : ChanFmt} (ha : f.holds s f.a a) (hd : chanOf (f.x.chan w.fc.toNat) = some d) :
    tcvtBody w f s =
      (f.sendTile s [f.a] (NewTile.of w.fc.toNat d a.rows a.cols fun i => ((f.converted w d a i).code, (f.converted w d a i).flags))).map fun r =>
        f.withOverflow r (overflowTok ((List.range 256).filter fun i => inRegion a.rows a.cols i && (f.converted w d a i).sat).length) := by
  simp only [tcvtBody, tile_of_holds ha, chanFmt_of_chanOf hd, bind, Except.bind, Firing.converted]
  split
  · rename_i hsend
    rw [hsend]; rfl
  · rename_i hsend
    rw [hsend]
    exact (apply_ite Except.ok _ _ _).symm

end

end Sys2Proof.Machine

section
open Sys2Proof Sys2Proof.Machine

/-- Settles O16: each body answers once its checks pass; `amaxCode_finite` finds TAMAX's greatest element, and `gives_withOverflow` says what becomes of the
reference that TCVT's second target does not take. -/
theorem tileReadings : Obligations.TileReadings := by
  intro s f h a hc ha
  refine ⟨fun hf hb hn hrow hcol => telget_gives hc hf ha hb hn hrow hcol, fun hf => trel_gives hc hf ha, fun hf => ?_, fun w d hf hd hroom => ?_⟩
  · have hgives := tamax_gives hc hf ha
    refine ⟨fun hnan => ?_, fun hnan hinf => ?_, fun hfin => ?_⟩
    · rwa [amaxCode, if_pos ((any_isNan_magnitudes a).mpr hnan)] at hgives
    · have hnone : ¬ a.magnitudes.any Num.isNan = true := fun hany => by
        obtain ⟨i, hi, hv⟩ := (any_isNan_magnitudes a).mp hany
        simp [hnan i hi] at hv
      rwa [amaxCode, if_neg hnone, if_pos ((any_isInf_magnitudes a).mpr hinf)] at hgives
    · obtain ⟨k, hk, htop, hcode⟩ := amaxCode_finite hfin
      exact ⟨k, hk, htop, hcode ▸ hgives⟩
  · intro p u slot t count
    have hcount : ((List.range 256).filter fun i => inRegion a.rows a.cols i && (f.converted w d a i).sat).length = count := by
      simp only [count, inRegion, Bool.decide_and]
      rfl
    have hgives := gives_withOverflow (body := tcvtBody w) rfl hf hc (tcvtBody_eq ha hd) hroom
    rw [hcount, overflowTok] at hgives
    exact ⟨_, newTile_isOf .., hgives⟩

end

/-! ## Elementwise tile instructions (O13) -/

namespace Sys2Proof.Machine

/-- TMAX's value is that of the model's choice of the greater. -/
theorem tileOp_max_value : TileOp.max.value = pickNum true := by
  funext x y
  rcases hp : Num.pick true x y with - | - | - <;> simp only [TileOp.value, pickNum, hp]

theorem tileOp_min_value : TileOp.min.value = pickNum false := by
  funext x y
  rcases hp : Num.pick false x y with - | - | - <;> simp only [TileOp.value, pickNum, hp]

theorem tileOp_exec (o : TileOp) (h : Hdr) (s : State) : exec (o.instr h) s = fire (o.instr h) (tileBin o.value) s := by
  cases o with
  | max => rw [tileOp_max_value]; rfl
  | min => rw [tileOp_min_value]; rfl
  | _ => rfl

theorem UnFn.exec_instr (o : UnFn) (h : Hdr) (s : State) : exec (o.instr h) s = fire (o.instr h) (tileUn o) s := by
  cases o <;> rfl

section
variable {i : Instr} {s : State} {f : Firing} {a b : TileIn} (hf : Fires i s f) (hc : f.clear = true) (ha : f.holds s f.a a)
include hf hc ha

theorem tileBin_makes {g : Num → Num → NumF} (hexec : exec i s = fire i (tileBin g) s) (hb : f.holds s f.b b) (hrows : a.rows = b.rows)
    (hcols : a.cols = b.cols) : MakesTile i s f [f.a, f.b] (hFc a.h) a.ch a.rows a.cols fun i => putIn a.ch (g (a.val i) (b.val i)) := by
  refine makesTile_of_body hexec hf hc ?_
  simp only [tileBin, tile_of_holds ha, tile_of_holds hb, bind, Except.bind, sameShape_true hrows hcols, Bool.not_true, Bool.false_eq_true, if_false]
  rfl

theorem tileBits_makes {g : Nat → Nat → Nat} {op : Bool → Bool → Bool} (hexec : exec i s = fire i (tileBits g) s)
    (hg : ∀ x y j, (g x y).testBit j = op (x.testBit j) (y.testBit j)) (hb : f.holds s f.b b) (hrows : a.rows = b.rows) (hcols : a.cols = b.cols)
    (hwidth : a.ch.fmt.width = b.ch.fmt.width) :
    ∃ e : Nat → Nat, (∀ i j, i < 256 → (e i).testBit j = op ((a.code i).testBit j) ((b.code i).testBit j)) ∧
      MakesTile i s f [f.a, f.b] (hFc a.h) a.ch a.rows a.cols fun i => (e i, 0) := by
  refine ⟨fun i => g (a.code i) (b.code i), fun i j _ => hg _ _ j, makesTile_of_body hexec hf hc ?_⟩
  simp only [tileBits, tile_of_holds ha, tile_of_holds hb, bind, Except.bind, sameShape_true hrows hcols, hwidth, bne_self_eq_false, Bool.not_true,
    Bool.or_self, Bool.false_eq_true, if_false]

theorem tileUn_makes {fn : UnFn} (hexec : exec i s = fire i (tileUn fn) s) :
    MakesTile i s f [f.a] (hFc a.h) a.ch a.rows a.cols fun i => ((unaryPut fn (a.val i) a.ch).code, (unaryPut fn (a.val i) a.ch).flags) := by
  refine makesTile_of_body hexec hf hc ?_
  simp only [tileUn, tile_of_holds ha, bind, Except.bind]

end

theorem tfma_makes {s : State} {f : Firing} {h : Hdr} {a b c : TileIn} (hf : Fires (.tfma h) s f) (hc : f.clear = true) (ha : f.holds s f.a a)
    (hb : f.holds s f.b b) (he : f.holds s f.c c) (hab : sameShape a b = true) (hac : sameShape a c = true) :
    MakesTile (.tfma h) s f [f.a, f.b, f.c] (hFc a.h) a.ch a.rows a.cols fun i => putIn a.ch ((a.val i).fma (b.val i) (c.val i)) := by
  refine makesTile_of_body (body := tfmaBody) rfl hf hc ?_
  simp only [tfmaBody, tile_of_holds ha, tile_of_holds hb, tile_of_holds he, bind, Except.bind, hab, hac, Bool.not_true, Bool.or_self, Bool.false_eq_true,
    if_false]
  rfl

end Sys2Proof.Machine

section
open Sys2Proof Sys2Proof.Machine

/-- Settles O13: each body, once its checks pass, sends the tile of its elements' results; the bitwise ones combine codes bit by bit. -/
theorem tileElementwise : Obligations.TileElementwise := by
  intro s f h a b c hc ha
  refine ⟨fun o hf hb hrows hcols => tileBin_makes hf hc ha (tileOp_exec o h s) hb hrows hcols, ?_, fun o hf => tileUn_makes hf hc ha (o.exec_instr h s),
    fun hf hb he hrows hcols hrows' hcols' => tfma_makes hf hc ha hb he (sameShape_true hrows hcols) (sameShape_true hrows' hcols')⟩
  simp only [List.forall_mem_cons, List.not_mem_nil, false_implies, implies_true, and_true]
  exact ⟨fun hf => tileBits_makes hf hc ha rfl Nat.testBit_and, fun hf => tileBits_makes hf hc ha rfl Nat.testBit_or,
    fun hf => tileBits_makes hf hc ha rfl Nat.testBit_xor⟩

end

/-! ## Tile reductions (O14) -/

namespace Sys2Proof.Machine

/-! ### Nodes of tree16 (R169) -/

/-- The node over two values that may be absent: its value, and the flags that combining them sets. -/
def mergeNodes (comb : Num → Num → NumF) : Option Num → Option Num → Option Num × Flags
  | some x, some y => (some (comb x y).1, (comb x y).2)
  | some x, none => (some x, 0)
  | none, o => (o, 0)

/-- The value of a node that may be absent. -/
def valOf (o : Option NumF) : Option Num := o.map Prod.fst

/-- Its flags. -/
def flagsOf (o : Option NumF) : Flags := o.elim 0 Prod.snd

theorem getD_eq (o : Option NumF) : o.getD (.zero, 0) = ((valOf o).getD .zero, flagsOf o) := by cases o <;> rfl

section
variable (comb : Num → Num → NumF) (leaf : Nat → Option NumF) (k j : Nat)

theorem valOf_treeNode : valOf (treeNode comb leaf (k + 1) j) =
    (mergeNodes comb (valOf (treeNode comb leaf k j)) (valOf (treeNode comb leaf k (j + 2 ^ k)))).1 := by
  rw [treeNode]
  cases treeNode comb leaf k j <;> cases treeNode comb leaf k (j + 2 ^ k) <;> rfl

theorem flagsOf_treeNode : flagsOf (treeNode comb leaf (k + 1) j) =
    flagsOf (treeNode comb leaf k j) ||| flagsOf (treeNode comb leaf k (j + 2 ^ k)) |||
      (mergeNodes comb (valOf (treeNode comb leaf k j)) (valOf (treeNode comb leaf k (j + 2 ^ k)))).2 := by
  rw [treeNode]
  cases treeNode comb leaf k j <;> cases treeNode comb leaf k (j + 2 ^ k) <;> simp [flagsOf, valOf, mergeNodes]

/-- A node whose first position is there is there. -/
theorem treeNode_isSome (h : (leaf j).isSome) : (treeNode comb leaf k j).isSome := by
  induction k with
  | zero => exact h
  | succ k ih =>
    obtain ⟨x, hx⟩ := Option.isSome_iff_exists.mp ih
    rw [treeNode, hx]
    cases treeNode comb leaf k (j + 2 ^ k) <;> rfl

end

/-! ### A level of the model's tree -/

/-- The node over positions j and j + w of a list. -/
def nodeAt (comb : Num → Num → NumF) (w : Nat) (l : List (Option Num)) (j : Nat) : Option Num × Flags :=
  mergeNodes comb (nthD l j none) (nthD l (j + w) none)

/-- Position j of a level takes the node that starts there, where one does. -/
def treeStep (comb : Num → Num → NumF) (w : Nat) (acc : List (Option Num) × Flags) (j : Nat) : List (Option Num) × Flags :=
  if j % (2 * w) = 0 then (setAt j (nodeAt comb w acc.1 j).1 acc.1, acc.2 ||| (nodeAt comb w acc.1 j).2) else acc

theorem nthD_setAt {α : Type} {n : Nat} {l : List α} (h : n < l.length) (v d : α) (m : Nat) :
    nthD (setAt n v l) m d = if m = n then v else nthD l m d := by
  by_cases hm : m = n
  · rw [if_pos hm, hm, nthD, setAt_get_same h, Option.getD_some]
  · rw [if_neg hm, nthD, setAt_get_ne hm, nthD]

theorem setAt_nthD_same {α : Type} (d : α) (n : Nat) (l : List α) : setAt n (nthD l n d) l = l := by
  refine List.ext_getElem? fun m => ?_
  by_cases hm : m = n
  · subst hm
    by_cases hlen : m < l.length
    · rw [setAt_get_same hlen, nthD, List.getElem?_eq_getElem hlen, Option.getD_some]
    · rw [List.getElem?_eq_none (by rw [setAt_length]; omega), List.getElem?_eq_none (by omega)]
  · exact setAt_get_ne hm _ l

theorem treeLevel_eq (comb : Num → Num → NumF) (w : Nat) (l : List (Option Num) × Flags) :
    treeLevel comb w l = (List.range 16).foldl (treeStep comb w) l := by
  unfold treeLevel
  refine congrArg (fun g => List.foldl g l (List.range 16)) (funext fun acc => funext fun j => ?_)
  have hsame := setAt_nthD_same none j acc.1
  by_cases hj : j % (2 * w) = 0
  · cases hx : nthD acc.1 j none <;> cases hy : nthD acc.1 (j + w) none <;> simp_all [treeStep, nodeAt, mergeNodes]
  · simp only [treeStep, hj, ne_eq, not_false_iff, if_true, if_false]

/-- The first n positions of a level: each node takes what its two positions held before the level, and sets its flags. -/
theorem foldl_treeStep {comb : Num → Num → NumF} {w : Nat} {l : List (Option Num) × Flags} (hw : 0 < w) (hlen : l.1.length = 16)
    {n : Nat} (hn : n ≤ 16) :
    let r := (List.range n).foldl (treeStep comb w) l
    r.1.length = 16 ∧ (∀ m, nthD r.1 m none = if m < n ∧ m % (2 * w) = 0 then (nodeAt comb w l.1 m).1 else nthD l.1 m none) ∧
      ∀ b, r.2.getLsbD b = true ↔ l.2.getLsbD b = true ∨ ∃ j, j < n ∧ j % (2 * w) = 0 ∧ (nodeAt comb w l.1 j).2.getLsbD b = true := by
  induction n with
  | zero => simp [hlen]
  | succ n ih =>
    simp only [List.range_succ, List.foldl_append, List.foldl_cons, List.foldl_nil]
    obtain ⟨hlength, hvals, hflags⟩ := ih (by omega)
    generalize (List.range n).foldl (treeStep comb w) l = r at hlength hvals hflags
    have hnode : nodeAt comb w r.1 n = nodeAt comb w l.1 n := by
      rw [nodeAt, hvals, if_neg (by omega), hvals, if_neg (by omega), nodeAt]
    by_cases hn : n % (2 * w) = 0
    · rw [treeStep, if_pos hn, hnode]
      refine ⟨(setAt_length ..).trans hlength, fun m => ?_, fun b => ?_⟩
      · rw [nthD_setAt (by omega), hvals]
        by_cases hm : m = n
        · simp [hm, hn]
        · simp [hm, show m < n + 1 ↔ m < n by omega]
      · simp only [BitVec.getLsbD_or, Bool.or_eq_true, hflags, or_assoc, Nat.lt_succ_iff_lt_or_eq, or_and_right, exists_or, exists_eq_left, hn, true_and]
    · rw [treeStep, if_neg hn]
      refine ⟨hlength, fun m => ?_, fun b => ?_⟩
      · rw [hvals]
        by_cases hm : m = n
        · simp [hm, hn]
        · simp [show m < n + 1 ↔ m < n by omega]
      · simp only [hflags, Nat.lt_succ_iff_lt_or_eq, or_and_right, exists_or, exists_eq_left, hn, false_and, or_false]

/-! ### The whole tree -/

/-- What the model's list and flags hold once k levels are done: at their positions the nodes of that level, and beside the leaves' flags those of
every node so far. -/
structure AtLevel (comb : Num → Num → NumF) (leaf : Nat → Option NumF) (inner : Flags) (k : Nat) (l : List (Option Num) × Flags) : Prop where
  length : l.1.length = 16
  vals : ∀ j, j < 16 → j % 2 ^ k = 0 → nthD l.1 j none = valOf (treeNode comb leaf k j)
  flags : ∀ b, (inner ||| l.2).getLsbD b = true ↔ ∃ j, j < 16 ∧ j % 2 ^ k = 0 ∧ (flagsOf (treeNode comb leaf k j)).getLsbD b = true

/-- The two positions that a node of the next level is over. -/
theorem parts_of_node {k j : Nat} (hk : k < 4) (hj : j < 16) (hnode : j % (2 * 2 ^ k) = 0) :
    j % 2 ^ k = 0 ∧ j + 2 ^ k < 16 ∧ (j + 2 ^ k) % 2 ^ k = 0 := by
  interval_cases k <;> omega

/-- A node is the first or the second part of one of the next level. -/
theorem node_of_part {k j : Nat} (hk : k < 4) (hpart : j % 2 ^ k = 0) : j % (2 * 2 ^ k) = 0 ∨ ∃ i, i % (2 * 2 ^ k) = 0 ∧ j = i + 2 ^ k := by
  have hsecond : j % (2 * 2 ^ k) = 0 ∨ (j - 2 ^ k) % (2 * 2 ^ k) = 0 ∧ j = j - 2 ^ k + 2 ^ k := by interval_cases k <;> omega
  exact hsecond.imp_right fun h => ⟨_, h⟩

section
variable {comb : Num → Num → NumF} {leaf : Nat → Option NumF} {inner : Flags} {k w : Nat} {l : List (Option Num) × Flags}

theorem AtLevel.next (h : AtLevel comb leaf inner k l) (hk : k < 4) (hw : w = 2 ^ k) : AtLevel comb leaf inner (k + 1) (treeLevel comb w l) := by
  subst hw
  obtain ⟨hlength, hvals, hflags⟩ := foldl_treeStep (comb := comb) (Nat.two_pow_pos k) h.length (le_refl 16)
  rw [← treeLevel_eq] at hlength hvals hflags
  have hnode : ∀ j, j < 16 → j % (2 * 2 ^ k) = 0 →
      nodeAt comb (2 ^ k) l.1 j = mergeNodes comb (valOf (treeNode comb leaf k j)) (valOf (treeNode comb leaf k (j + 2 ^ k))) := fun j hj hn => by
    obtain ⟨hfirst, hlt, hsecond⟩ := parts_of_node hk hj hn
    rw [nodeAt, h.vals j hj hfirst, h.vals _ hlt hsecond]
  refine ⟨hlength, fun j hj hn => ?_, fun b => ?_⟩
  · rw [pow_succ'] at hn
    rw [hvals, if_pos ⟨hj, hn⟩, valOf_treeNode, hnode j hj hn]
  · have hbelow := h.flags b
    rw [BitVec.getLsbD_or, Bool.or_eq_true] at hbelow ⊢
    rw [hflags, ← or_assoc, hbelow, pow_succ']
    constructor
    · rintro (⟨j, hj, hpart, hb⟩ | ⟨j, hj, hn, hb⟩)
      · rcases node_of_part hk hpart with hn | ⟨i, hn, rfl⟩
        · exact ⟨j, hj, hn, by simp [flagsOf_treeNode, hb]⟩
        · exact ⟨i, by omega, hn, by simp [flagsOf_treeNode, hb]⟩
      · exact ⟨j, hj, hn, by simp [flagsOf_treeNode, ← hnode j hj hn, hb]⟩
    · rintro ⟨j, hj, hn, hb⟩
      obtain ⟨hfirst, hlt, hsecond⟩ := parts_of_node hk hj hn
      rw [flagsOf_treeNode, ← hnode j hj hn, BitVec.getLsbD_or, BitVec.getLsbD_or, Bool.or_eq_true, Bool.or_eq_true] at hb
      rcases hb with (hb | hb) | hb
      · exact .inl ⟨j, hj, hfirst, hb⟩
      · exact .inl ⟨_, hlt, hsecond, hb⟩
      · exact .inr ⟨j, hj, hn, hb⟩

theorem AtLevel.root (h : AtLevel comb leaf inner 4 l) :
    ((nthD l.1 0 none).getD .zero, inner ||| l.2) = (treeNode comb leaf 4 0).getD (.zero, 0) := by
  rw [getD_eq, h.vals 0 (by decide) rfl]
  refine Prod.ext rfl (BitVec.eq_of_getLsbD_eq fun b _ => Bool.eq_iff_iff.mpr ((h.flags b).trans ⟨?_, fun hb => ⟨0, by decide, rfl, hb⟩⟩))
  rintro ⟨j, hj, hn, hb⟩
  obtain rfl : j = 0 := by omega
  exact hb

end

/-- tree16 of the leaves' values is the root of the tree, whose flags are those of the leaves and of all its nodes. -/
theorem tree16_eq (comb : Num → Num → NumF) (leaf : Nat → Option NumF) {g : Flags → Option NumF → Flags} (hg : ∀ fl o, g fl o = fl ||| flagsOf o) :
    ((tree16 comb (((List.range 16).map leaf).map fun o => o.map Prod.fst)).1,
      ((List.range 16).map leaf).foldl g 0 ||| (tree16 comb (((List.range 16).map leaf).map fun o => o.map Prod.fst)).2) =
      (treeNode comb leaf 4 0).getD (.zero, 0) := by
  obtain rfl : g = fun fl o => fl ||| flagsOf o := funext fun fl => funext (hg fl)
  have hleaves : AtLevel comb leaf (((List.range 16).map leaf).foldl (fun fl o => fl ||| flagsOf o) 0) 0
      (((List.range 16).map leaf).map fun o => o.map Prod.fst, 0) := by
    refine ⟨by simp, fun j hj _ => ?_, fun b => ?_⟩
    · simp [nthD, hj, treeNode, valOf]
    · simp [getLsbD_foldl_or, Nat.mod_one, treeNode]
  have htwo := (hleaves.next (w := 1) (by decide) rfl).next (w := 2) (by decide) rfl
  have hfour := (htwo.next (w := 4) (by decide) rfl).next (w := 8) (by decide) rfl
  simp only [tree16]
  exact hfour.root

/-! ### The instructions (R176) -/

/-- The leaf of an element, where it is in the region. -/
def TileIn.leafAt (a : TileIn) (leaf : Num → NumF) (i : Nat) : Option NumF := if inRegion a.rows a.cols i then some (leaf (a.val i)) else none

/-- One tree over a row or a column. -/
theorem reduce_eq (a : TileIn) (leaf : Num → NumF) (comb : Num → Num → NumF) (pos : Nat → Nat) :
    a.reduce leaf comb pos = (treeNode comb (fun j => a.leafAt leaf (pos j)) 4 0).getD (.zero, 0) := by
  simp only [TileIn.reduce, TileIn.leaves]
  refine tree16_eq comb _ fun fl o => ?_
  cases o with
  | none => exact BitVec.or_zero.symm
  | some p => rfl

/-- A row of the region enters an outer tree as it is: its own tree has a root. -/
theorem rowTree_eq (a : TileIn) (leaf : Num → NumF) (comb : Num → Num → NumF) (r : Nat) :
    (if r ≤ a.rows then treeNode comb (fun j => a.leafAt leaf (r * 16 + j)) 4 0 else none) =
      if r ≤ a.rows then some (a.reduce leaf comb fun j => r * 16 + j) else none := by
  by_cases hr : r ≤ a.rows
  · have hin : inRegion a.rows a.cols (r * 16 + 0) = true := inRegion_iff.mpr ⟨by omega, by omega⟩
    obtain ⟨x, hx⟩ := Option.isSome_iff_exists.mp
      (treeNode_isSome comb (fun j => a.leafAt leaf (r * 16 + j)) 4 0 (by simp only [TileIn.leafAt, hin, if_true, Option.isSome_some]))
    rw [if_pos hr, if_pos hr, reduce_eq, hx, Option.getD_some]
  · rw [if_neg hr, if_neg hr]

/-- The leaf of a sum, exact for integers. -/
theorem sumLeaf_eq {fmt : Fmt} {exact : Bool} (h : exact = true ↔ ∃ n, fmt = .int n) (v : Num) :
    sumLeaf fmt v = if exact = true then (v, 0) else round32 (v, flagIf v.isSig flagNV) := by
  cases fmt with
  | int n => exact (if_pos (h.mpr ⟨n, rfl⟩)).symm
  | _ => exact (if_neg (by simp [h])).symm

theorem sumComb_eq {fmt : Fmt} {exact : Bool} (h : exact = true ↔ ∃ n, fmt = .int n) (x y : Num) :
    sumComb fmt x y = if exact = true then x.add y else round32 (x.add y) := by
  cases fmt with
  | int n => exact (if_pos (h.mpr ⟨n, rfl⟩)).symm
  | _ => exact (if_neg (by simp [h])).symm

section
variable {i : Instr} {s : State} {f : Firing} {a : TileIn} (hf : Fires i s f) (hc : f.clear = true) (ha : f.holds s f.a a)
include hf hc ha

theorem tileReduce_makes {isMax byRow : Bool} (hexec : exec i s = fire i (tileReduce isMax byRow) s) :
    MakesTile i s f [f.a] (hFc a.h) a.ch (if byRow then a.rows else 0) (if byRow then 0 else a.cols) fun i =>
      putIn a.ch ((treeNode (if isMax then pickNum true else sumComb a.ch.fmt)
        (fun j => a.leafAt (if isMax then fun v => (v, 0) else sumLeaf a.ch.fmt) (if byRow then i / 16 * 16 + j else j * 16 + i % 16))
        4 0).getD (.zero, 0)) := by
  refine makesTile_of_body hexec hf hc ?_
  simp only [← reduce_eq, tileReduce, tile_of_holds ha, bind, Except.bind]
  rfl

theorem tsum_makes (hexec : exec i s = fire i tsumBody s) :
    MakesTile i s f [f.a] (hFc a.h) a.ch 0 0 fun _ =>
      putIn a.ch ((treeNode (sumComb a.ch.fmt) (fun r => if r ≤ a.rows then
        treeNode (sumComb a.ch.fmt) (fun j => a.leafAt (sumLeaf a.ch.fmt) (r * 16 + j)) 4 0 else none) 4 0).getD (.zero, 0)) := by
  refine makesTile_of_body hexec hf hc ?_
  simp only [rowTree_eq, tsumBody, tile_of_holds ha, bind, Except.bind]
  rw [← tree16_eq]
  · rfl
  · rintro fl (- | p)
    · exact BitVec.or_zero.symm
    · rfl

end

end Sys2Proof.Machine

section
open Sys2Proof Sys2Proof.Machine

/-- Settles O14: the model's tree16 is the tree of R169's nodes (`tree16_eq`), and the rows of TSUM enter its outer tree as they are, for the tree of a row
of the region has a root. -/
theorem tileReductions : Obligations.TileReductions := by
  intro s f h a hc ha exact leaf value add max out make
  have hexact : exact = true ↔ ∃ n, a.ch.fmt = .int n := by
    simp only [exact]
    cases a.ch.fmt <;> simp
  have hleaf : leaf = a.leafAt (sumLeaf a.ch.fmt) := by
    funext i
    simp only [leaf, TileIn.leafAt, inRegion_iff, sumLeaf_eq hexact, apply_ite some]
  have hvalue : value = a.leafAt fun v => (v, 0) := by
    funext i
    simp only [value, TileIn.leafAt, inRegion_iff]
  have hadd : add = sumComb a.ch.fmt := funext fun x => funext fun y => (sumComb_eq hexact x y).symm
  have hmax : max = pickNum true := tileOp_max_value
  rw [hleaf, hvalue, hadd, hmax]
  exact ⟨fun hf => tileReduce_makes (isMax := false) (byRow := true) hf hc ha rfl, fun hf => tileReduce_makes (isMax := false) (byRow := false) hf hc ha rfl,
    fun hf => tileReduce_makes (isMax := true) (byRow := true) hf hc ha rfl, fun hf => tileReduce_makes (isMax := true) (byRow := false) hf hc ha rfl,
    fun hf => tsum_makes hf hc ha rfl⟩

end

/-! ## Ring and epilogue instructions (O20) -/

namespace Sys2Proof.Machine

/-! ### Instructions of the matrix slot that name no accumulator (R188) -/

section
variable {i : Instr} {s u : State} {f : Firing} {body : Body} (hexec : exec i s = fireInOrder i none body s) (h : Fires i s f) (hu : f.mayUse s i none)
include hexec h hu

theorem raises_inOrder {c : Code} (hb : body f s = failWith c) : Raises i s f c 0 := by
  obtain ⟨hfire, hmis, hnull⟩ := h
  rw [Raises, RaisesFrom, hexec]
  simp [fireInOrder, hfire, State.issueInOrder, hmis, hnull, hu.1, hb, failWith, claimFree_of_mayUse hu, Firing.claimed, State.conclude]

theorem waits_inOrder {r : Short} (hb : body f s = .error (.wait r)) : Waits i s f r := hexec.trans (fireInOrder_wait h hu hb)

/-- A body that answers a scalar, where its effect keeps the references of the operands in `l`. -/
theorem givesScalar_keeping {l : List Tok} {v : Word} (hc : f.clear = true) (hb : body f s = .ok { Done.scalar u v with keep := l }) (hk : KeepsOuts s u) :
    GivesScalar i s f u (l.foldl (fun l t => l.erase t) (f.handles i)) v :=
  hexec.trans (fireInOrder_retire h hu hb rfl (.inr (by simp [Done.scalar, Done.send, scalarTok])) (hk.frame h.frame) hk.ctxs hc)

theorem givesScalar_inOrder {v : Word} (hc : f.clear = true) (hb : body f s = .ok (Done.scalar u v)) (hk : KeepsOuts s u) :
    GivesScalar i s f u (f.handles i) v :=
  givesScalar_keeping (l := []) hexec h hu hc hb hk

end

theorem setRing_keepsOuts (s : State) (pe q : Nat) (r : Ring) : KeepsOuts s (s.setRing pe q r) := ⟨rfl, fun _ => rfl⟩

theorem setPctx_keepsOuts (s : State) (c pe : Nat) (p : PeCtx) : KeepsOuts s (s.setPctx c pe p) := ⟨rfl, fun _ => rfl⟩

theorem tellHeads_keepsOuts (s : State) (pe q : Nat) : KeepsOuts s (s.tellHeads pe q) := by
  refine KeepsOuts.foldl (fun s p => ?_) _ s
  split
  · split
    · exact ⟨rfl, fun _ => rfl⟩
    · exact .refl s
  · exact .refl s

/-! ### Rings (R195 to R197, R216) -/

theorem status_eq (r : Ring) (c t : Nat) : r.status c t = BitVec.ofNat 64 (r.head % 2 ^ 32 * 2 ^ 32 + (if r.bound = some (c, t) then 2 ^ 15 else 0) +
    (if r.error then 2 ^ 14 else 0) + r.fc * 2 ^ 9 + (r.depth - 1) * 2 ^ 5 + r.complete.length) := by
  have hbound : bit (r.bound == some (c, t)) * 2 ^ 15 = if r.bound = some (c, t) then 2 ^ 15 else 0 := by
    by_cases hb : r.bound = some (c, t) <;> simp [hb, bit]
  have herror : bit r.error * 2 ^ 14 = if r.error then 2 ^ 14 else 0 := by cases r.error <;> rfl
  rw [Ring.status, hbound, herror, wordOf]

theorem taken_eq_false {r : Ring} {n : Nat} :
    r.taken n = false ↔ (∀ p ∈ r.pushed, p.2.1 ≠ n) ∧ (∀ p ∈ r.ready, p.1 ≠ n) ∧ ∀ a ∈ r.arriving, a.seq ≠ n := by
  simp [Ring.taken, and_assoc]

/-- The next free entry is the first number after tail that is not taken. -/
theorem nextFree_eq {r : Ring} {seq : Nat → Nat} (hseq : ∀ j, seq j = (r.head + r.complete.length + j) % 2 ^ 32) {j : Nat} (hj : j < 16)
    (hfree : r.taken (seq j) = false) (hfirst : ∀ i, i < j → r.taken (seq i) ≠ false) : r.nextFree = seq j := by
  have hnums : (fun n => (r.tail + n) % 2 ^ 32) = seq := funext fun n => by rw [hseq, Ring.tail, Nat.mod_add_mod]
  have hfind : (List.range 16).find? ((fun n => !r.taken n) ∘ seq) = some j := by
    rw [List.find?_range_eq_some]
    simpa [hfree, hj] using hfirst
  rw [Ring.nextFree, hnums, List.find?_map, hfind]
  rfl

/-- The ring `r` as an RCFG with U = 0 leaves it. -/
def Firing.boundRing (f : Firing) (r : Ring) (w : RingW) (ch : ChanFmt) : Ring :=
  { Ring.reset with bound := some (f.fr.ctx, f.fr.task), fc := w.fc.toNat, width := ch.fmt.width, depth := w.depth.toNat + 1, undo := r.undo }

/-- RCFG puts `new` in the place of ring `r`, tells the copies that fill it, and keeps `r` for a discard. -/
def Firing.configured (f : Firing) (s : State) (q : Nat) (r new : Ring) : State := ((s.setRing f.pe q new).tellHeads f.pe q).hold f.key (.ringCfg q r)

theorem configured_keepsOuts (f : Firing) (s : State) (q : Nat) (r new : Ring) : KeepsOuts s (f.configured s q r new) :=
  ((setRing_keepsOuts ..).trans (tellHeads_keepsOuts ..)).trans (hold_keepsOuts ..)

section
variable {s : State} {f : Firing} {w : RingW} {r : Ring} (hr : s.ring f.pe w.ring.toNat = r)
include hr

theorem rcfgBody_bind {ch : ChanFmt} (hw : w.unbind = false) (hb : r.bound = none) (hundo : ∀ u, r.undo = some u → u.1 = f.fr.uid)
    (hch : chanOf (f.x.chan w.fc.toNat) = some ch) :
    rcfgBody w f s = if s.granulesFree f.pe < (w.depth.toNat + 1) * widthGranules ch.fmt.width ∨ s.olderWaits f .tiles = true then .error (.wait .tiles)
      else .ok (Done.scalar (f.configured s w.ring.toNat r (f.boundRing r w ch)) ((f.boundRing r w ch).status f.fr.ctx f.fr.task)) := by
  have hfree : (r.undo.any fun u => u.1 != f.fr.uid) = false := by
    cases hu : r.undo with
    | none => rfl
    | some u => simp [hundo u hu]
  simp only [rcfgBody, hr, hw, hb, hfree, chanFmt_of_chanOf hch, bind, Except.bind, Option.isSome_none, Bool.false_eq_true, if_false, Bool.or_eq_true,
    decide_eq_true_eq]
  split <;> rfl

theorem rcfgBody_unbind (hw : w.unbind = true) (hb : r.bound = some (f.fr.ctx, f.fr.task)) :
    ∃ u, rcfgBody w f s = .ok (Done.scalar (f.configured s w.ring.toNat r { Ring.reset with undo := u }) (Ring.reset.status f.fr.ctx f.fr.task)) := by
  simp only [rcfgBody, hr, hw, hb, bind, Except.bind, if_true]
  exact ⟨_, rfl⟩

theorem rcfgBody_fails (hbind : w.unbind = false → r.bound ≠ none) (hunbind : w.unbind = true → r.bound ≠ some (f.fr.ctx, f.fr.task)) :
    rcfgBody w f s = failWith .operand := by
  cases hw : w.unbind with
  | false =>
    simp only [rcfgBody, hr, hw, Option.isSome_iff_ne_none.mpr (hbind hw), Bool.false_eq_true, if_false, if_true]
    rfl
  | true =>
    simp only [rcfgBody, hr, hw, hunbind hw, if_false, if_true]
    rfl

end

section
variable {s : State} {f : Firing} {w : RingW} {r : Ring} (hr : s.ring f.pe w.ring.toNat = r) (hb : r.bound = some (f.fr.ctx, f.fr.task))
  (he : r.error = false)
include hr hb he

theorem ownRing_ok : f.ownRing s w.ring.toNat = .ok r := by
  simp [Firing.ownRing, hr, hb, he]

theorem rpushBody_room {t : TileIn} {n : Nat} (ht : f.holds s f.a t) (hfc : hFc t.h = r.fc) (hroom : r.used < r.depth) (hn : r.nextFree = n) :
    let e : RingEntry := { rows := t.rows, cols := t.cols, nonfinite := t.slot.nonfinite, codes := t.slot.codes }
    rpushBody w f s =
      .ok (Done.scalar (s.setRing f.pe w.ring.toNat { r with pushed := r.pushed ++ [(f.fr.uid, n, e)] }) (BitVec.ofNat 64 n)) := by
  intro e
  simp only [rpushBody, ownRing_ok hr hb he, tile_of_holds ht, bind, Except.bind, if_neg (Nat.not_le.mpr hroom), hfc, hn, ne_eq, not_true, if_false]
  rfl

theorem rpushBody_full (hfull : r.depth ≤ r.used) : rpushBody w f s = .error (.wait .ring) := by
  simp only [rpushBody, ownRing_ok hr hb he, bind, Except.bind, if_pos hfull]

theorem rpopBody_entry {e : RingEntry} (hentry : r.complete[r.nextPop f.fr.uid]? = some e) :
    rpopBody w f s = f.sendTile (f.popped s w.ring.toNat) []
      { fc := r.fc, rows := e.rows, cols := e.cols, width := r.width, nf := e.nonfinite, codes := e.codes, flags := 0 } := by
  simp only [rpopBody, ownRing_ok hr hb he, Firing.unmarked, hentry, bind, Except.bind]
  rfl

theorem rpopBody_empty (hentry : r.complete[r.nextPop f.fr.uid]? = none) : rpopBody w f s = .error (.wait .ring) := by
  simp only [rpopBody, ownRing_ok hr hb he, Firing.unmarked, hentry, bind, Except.bind]

theorem rstatBody_ok : rstatBody w f s = .ok (Done.scalar s (r.status f.fr.ctx f.fr.task)) := by
  simp only [rstatBody, ownRing_ok hr hb he, bind, Except.bind]

end

/-! ### EPLOAD and EPARG (R217) -/

/-- The first n operations of an EPLOAD written: the places they go to take their sixteen bits, the others stay. -/
theorem foldl_setAt (l : List Nat) (place : Nat) (g : Nat → Nat) (n : Nat) :
    let r := (List.range n).foldl (fun l k => setAt (place + k) (g k) l) l
    r.length = l.length ∧ ∀ k, k < l.length → r[k]? = if place ≤ k ∧ k < place + n then some (g (k - place)) else l[k]? := by
  induction n with
  | zero => exact ⟨rfl, fun k _ => (if_neg (by omega)).symm⟩
  | succ n ih =>
    simp only [List.range_succ, List.foldl_append, List.foldl_cons, List.foldl_nil]
    obtain ⟨hlength, hget⟩ := ih
    refine ⟨(setAt_length ..).trans hlength, fun k hk => ?_⟩
    by_cases hn : k = place + n
    · rw [if_pos (by omega), hn, setAt_get_same (by omega), Nat.add_sub_cancel_left]
    · rw [setAt_get_ne hn, hget k hk]
      exact if_congr (by omega) rfl rfl

/-- The programs after an EPLOAD of a word. -/
def loadedOps (e : EploadW) (a : Nat) (progs : List Nat) : List Nat :=
  (List.range 4).foldl (fun l k => setAt (e.slot.toNat * 32 + 4 * e.group.toNat + k) (bitsAt a (16 * k) 16) l) progs

theorem loadedOps_spec (e : EploadW) (a : Nat) (progs : List Nat) :
    (loadedOps e a progs).length = progs.length ∧ ∀ k, k < progs.length →
      (loadedOps e a progs)[k]? = if k / 4 = e.slot.toNat * 8 + e.group.toNat then some (a / 2 ^ (16 * (k % 4)) % 2 ^ 16) else progs[k]? := by
  obtain ⟨hlength, hget⟩ := foldl_setAt progs (e.slot.toNat * 32 + 4 * e.group.toNat) (fun k => bitsAt a (16 * k) 16) 4
  refine ⟨hlength, fun k hk => (hget k hk).trans ?_⟩
  by_cases hin : k / 4 = e.slot.toNat * 8 + e.group.toNat
  · rw [if_pos (by omega), if_pos hin, show k - (e.slot.toNat * 32 + 4 * e.group.toNat) = k % 4 by omega, bitsAt]
  · rw [if_neg (by omega), if_neg hin]

theorem setAt_eq_set {α : Type} (n : Nat) (v : α) (l : List α) : setAt n v l = l.set n v := by
  induction l generalizing n with
  | nil => simp [setAt]
  | cons a l ih => cases n <;> simp [setAt, ih]

end Sys2Proof.Machine

section
open Sys2Proof Sys2Proof.Machine

/-- Settles O20: each body, once its checks pass, answers its status word, number or tile with the ring or the epilogue state it changed; `nextFree_eq` finds
the entry that RPUSH takes, and `loadedOps_spec` says what EPLOAD writes. -/
theorem ringsAndEpilogue : Obligations.RingsAndEpilogue := by
  intro s f h w hc q r me status
  refine ⟨fun ch hf hu hw hr hundo hch => ?_, fun hf hu hw hr => ?_, fun hf hu hbind hunbind => raises_inOrder rfl hf hu (rcfgBody_fails rfl hbind hunbind),
    fun t hf hu hb he ht hfc => ?_,
    fun hf hu hb he => ⟨fun e hentry => ?_, fun hentry => waits_inOrder rfl hf hu (rpopBody_empty rfl hb he hentry)⟩, fun hf hu hb he => ?_,
    fun e hf hu ha => ?_, fun e hf hu => ?_⟩
  · intro new
    have hbody := rcfgBody_bind rfl hw hr hundo hch
    refine ⟨fun hroom holder => ?_, fun hnone => waits_inOrder rfl hf hu (hbody.trans (if_pos (.inl hnone)))⟩
    rw [if_neg (not_or.mpr ⟨Nat.not_lt.mpr hroom, by simp [holder]⟩), status_eq] at hbody
    exact givesScalar_inOrder rfl hf hu hc hbody (configured_keepsOuts ..)
  · obtain ⟨u, hbody⟩ := rcfgBody_unbind rfl hw hr
    rw [status_eq] at hbody
    exact ⟨u, givesScalar_inOrder rfl hf hu hc hbody (configured_keepsOuts ..)⟩
  · intro used seq free
    refine ⟨fun j hroom hj hfree hfirst => ?_, fun hfull => waits_inOrder rfl hf hu (rpushBody_full rfl hb he hfull)⟩
    have hnext : r.nextFree = seq j := nextFree_eq (fun _ => rfl) hj (taken_eq_false.mpr hfree) fun i hi => taken_eq_false.not.mpr (hfirst i hi)
    exact givesScalar_inOrder rfl hf hu hc (rpushBody_room rfl hb he ht hfc hroom hnext) (setRing_keepsOuts ..)
  · exact sendsTileFrom_inOrder rfl hf hu hc (setRing_keepsOuts ..) (rpopBody_entry rfl hb he hentry)
  · have hbody := rstatBody_ok rfl hb he
    rw [status_eq] at hbody
    exact givesScalar_inOrder rfl hf hu hc hbody (.refl s)
  · obtain ⟨hlength, hget⟩ := loadedOps_spec e f.a.val.toNat (s.pctx f.fr.ctx f.pe).progs
    refine ⟨_, hlength, hlength ▸ hget, givesScalar_inOrder (body := eploadBody e) rfl hf hu hc ?_ (setPctx_keepsOuts ..)⟩
    rw [eploadBody, tileScalar_of_ne (ne_tile_of_scalar ha)]
    rfl
  · refine givesScalar_keeping (body := epargBody e) (l := [f.a]) rfl hf hu hc ?_ ((setPctx_keepsOuts ..).trans (dropTok_keepsOuts ..))
    simp only [epargBody, setAt_eq_set, nthD, ← List.getD_eq_getElem?_getD]
    rfl

end

/-! ## The state at reset (O60) -/

section
open Sys2Proof Sys2Proof.Machine

/-- Settles O60: the tables of the state at reset are empty, so every read of one gives its default; the table of partitions lists partition 0 alone. -/
theorem resetState : Obligations.ResetState := by
  have honly : ∀ p v, State.reset.part? p = some v → p = 0 := fun p v hp =>
    congrArg Prod.fst (List.mem_singleton.mp (Tab.mem_of_get? hp))
  exact ⟨fun _ _ => ⟨rfl, rfl⟩, rfl, by decide, rfl, rfl, rfl, rfl, rfl, rfl, rfl, rfl, rfl, rfl, rfl, rfl, rfl, rfl, honly⟩

end

/-! ## Accumulator word instructions (O17) -/

namespace Sys2Proof.Machine

/-! ### Instructions of the matrix slot that name an accumulator (R187, R188, R206) -/

/-- A check or a body passes or faults: it does not wait. -/
def PassesOrFaults {α : Type} (r : Except Stop α) : Prop := (∃ a, r = .ok a) ∨ ∃ e, r = .error (.fault e)

theorem passesOrFaults_ok {α : Type} (a : α) : PassesOrFaults (.ok a) := .inl ⟨a, rfl⟩

theorem passesOrFaults_fault {α : Type} (e : Fail) : PassesOrFaults (α := α) (.error (.fault e)) := .inr ⟨e, rfl⟩

theorem passesOrFaults_ite {α : Type} {p : Prop} [Decidable p] {x y : Except Stop α} (hx : PassesOrFaults x) (hy : PassesOrFaults y) :
    PassesOrFaults (if p then x else y) := by
  split
  · exact hx
  · exact hy

theorem passesOrFaults_bind {α β : Type} {x : Except Stop α} {k : α → Except Stop β} (hx : PassesOrFaults x) (hk : ∀ a, PassesOrFaults (k a)) :
    PassesOrFaults (x >>= k) := by
  rcases hx with ⟨a, rfl⟩ | ⟨e, rfl⟩
  · exact hk a
  · exact passesOrFaults_fault e

section
variable {i : Instr} {s u : State} {f : Firing} {z : Option (BitVec 3)} {body : Body} (hexec : exec i s = fireInOrder i z body s) (h : Fires i s f)
include hexec h

theorem givesScalar_claiming {v : Word} (hu : f.mayUse s i z) (hc : f.clear = true) (hb : body f s = .ok (Done.scalar u v)) (hk : KeepsOuts s u) :
    GivesScalar i s f u (f.handles i) v :=
  hexec.trans (fireInOrder_retire h hu hb rfl (.inr (by simp [Done.scalar, Done.send, scalarTok])) (hk.frame h.frame) hk.ctxs hc)

theorem givesNumber_of_ok (hu : f.mayUse s i z) (hc : f.clear = true) (hb : body f s = .ok (f.sendNumber u)) (hk : KeepsOuts s u) :
    GivesNumber i s f u (f.handles i) :=
  givesScalar_claiming hexec h hu hc hb (hk.trans (.numbered ..))

theorem raisesFrom_claiming {c : Code} (hu : f.mayUse s i z) (hb : body f s = failWith c) : RaisesFrom i s f (f.claiming s z) c 0 := by
  obtain ⟨hfire, hmis, hnull⟩ := h
  rw [RaisesFrom, hexec, ← claimed_eq_claiming]
  simp [fireInOrder, hfire, State.issueInOrder, hmis, hnull, hu.1, hb, failWith, claimFree_of_mayUse hu, State.conclude]

theorem waits_outOfOrder (ho : f.inOrder s i = false) : Waits i s f .order := by
  obtain ⟨hfire, hmis, -⟩ := h
  rw [Waits, hexec]
  simp [fireInOrder, hfire, State.issueInOrder, hmis, ho]

/-- A body that answers or faults at once is held while another task has the accumulator. -/
theorem waits_claimed (ho : f.inOrder s i = true) (hclaim : f.claimFree s z = false) (hb : PassesOrFaults (body f s)) :
    Waits i s f .accumulator := by
  obtain ⟨hfire, hmis, hnull⟩ := h
  rw [Waits, hexec]
  rcases hb with ⟨d, hb⟩ | ⟨e, hb⟩
  · simp [fireInOrder, hfire, State.issueInOrder, hmis, hnull, ho, hb, hclaim]
  · simp [fireInOrder, hfire, State.issueInOrder, hmis, hnull, ho, hb, hclaim]

end

/-- The waits of an instruction that names accumulator `z`, whatever its operands are. -/
theorem waits_accumulator {i : Instr} {s : State} {f : Firing} {z : BitVec 3} {body : Body} (hexec : exec i s = fireInOrder i (some z) body s)
    (h : Fires i s f) (hb : PassesOrFaults (body f s)) :
    (f.inOrder s i = false → Waits i s f .order) ∧
      ∀ o, f.inOrder s i = true → (s.acc f.pe z.toNat).claim = some o → o ≠ (f.fr.ctx, f.fr.task) → Waits i s f .accumulator :=
  ⟨waits_outOfOrder hexec h, fun _ ho hclaim hne => waits_claimed hexec h ho (claimFree_of_other hclaim hne) hb⟩

/-! ### New values of an accumulator (R194) -/

/-- The value after an operation that gives each element and sets its flags. -/
def AccVal.withElems (old : AccVal) (int : Bool) (g : Nat → Nat × Flags) : AccVal :=
  { elems := ((List.range 256).map g).map Prod.fst, int := int
    flags := old.flags ||| accFlags (((List.range 256).map g).foldl (fun m p => m ||| p.2) 0) }

theorem withElems_isOf (old : AccVal) (int : Bool) (g : Nat → Nat × Flags) : (old.withElems int g).isOf old int g := by
  refine ⟨rfl, by simp [AccVal.withElems], fun i hi => by simp [AccVal.withElems, hi], fun j hj => ?_⟩
  simp [AccVal.withElems, accFlags, hj, getLsbD_foldl_or]

theorem mapRound_eq {v : AccVal} (h : v.int = false) (g : Num → NumF) :
    v.mapRound g = v.withElems false fun i => roundAcc (g (fp32.decode (nthD v.elems i 0))) := by
  simp only [AccVal.mapRound, AccVal.withElems, AccVal.num, h, Bool.false_eq_true, if_false]

/-- An element of a channel of whole numbers without a scale (R132, R138). -/
theorem decode_int {ch : ChanFmt} {n : Nat} (hf : ch.fmt = .int n) (hs : ch.scale = 0) (c : Nat) : ch.decode c = Num.ofInt (signedOf n c) := by
  simp [ChanFmt.decode, hf, hs, Fmt.decode, Num.ofInt, Num.scaleBy, scaled2]

/-- What ZLOAD makes of element i of the valid region (R211). -/
def TileIn.loaded (a : TileIn) (int : Bool) (i : Nat) : Nat × Flags :=
  if int then ((signedOf a.ch.fmt.bits (a.code i) % 2 ^ 32).toNat, 0) else roundAcc (a.val i, if (a.val i).isSig then flagNV else 0)

theorem accLeft_eq (v : AccVal) (int : Bool) (i : Nat) : v.left int i = (if v.int != int then 0 else nthD v.elems i 0, 0) := by
  by_cases hv : v.int = int <;> simp [AccVal.left, hv]

theorem load_eq {v : AccVal} {int : Bool} {a : TileIn} (hint : int = true → (a.ch.fmt = .int 8 ∨ a.ch.fmt = .int 32) ∧ a.ch.scale = 0) :
    v.load int a = v.withElems int fun i => if i / 16 ≤ a.rows ∧ i % 16 ≤ a.cols then a.loaded int i else v.left int i := by
  simp only [AccVal.load, AccVal.withElems, inRegion_iff, accLeft_eq]
  cases int with
  | false => simp only [TileIn.loaded, oldTerm, sigNV, flagIf, List.any_cons, List.any_nil, Bool.or_false, Bool.false_eq_true, if_false]
  | true =>
    obtain ⟨hfmt, hscale⟩ := hint rfl
    obtain ⟨n, hn⟩ : ∃ n, a.ch.fmt = .int n := hfmt.elim (⟨8, ·⟩) (⟨32, ·⟩)
    have hval : ∀ i, a.val i = .fin (decide (signedOf n (a.code i) < 0)) (signedOf n (a.code i)).natAbs 1 := fun i => decode_int hn hscale (a.code i)
    simp only [TileIn.loaded, hval, Nat.div_one, signedNum_ofInt, wrapNat, hn, Fmt.bits, if_true, Nat.cast_pow, Nat.cast_ofNat]

/-! ### The instructions (R211) -/

section
variable {s : State} {f : Firing} {w : AccW}

theorem zinitBody_ok : zinitBody w f s = .ok (f.sendNumber (f.accSet s w.z
    { elems := List.replicate 256 0, int := w.mode, flags := if w.clr then 0 else (f.accValue s w.z).flags })) := by
  simp only [zinitBody, AccVal.zeros, claim_val, writeAcc_claim]

theorem zclrfBody_ok : zclrfBody w f s = .ok (f.sendNumber (f.accSet s w.z { f.accValue s w.z with flags := 0 })) := by
  simp only [zclrfBody, claim_val, writeAcc_claim]

theorem zflagsBody_ok : zflagsBody w f s = .ok (Done.scalar (f.accClaimed s w.z)
    (BitVec.ofNat 64 ((f.accValue s w.z).flags.toNat + if (f.accValue s w.z).int then 256 else 0))) := by
  simp only [zflagsBody, claim_val, wordOf, bit, ite_mul]
  rfl

theorem zscaleBody_ok (ha : f.a.kind = .scalar) (hv : (f.accValue s w.z).int = false) :
    zscaleBody w f s = .ok (f.sendNumber (f.accSet s w.z ((f.accValue s w.z).withElems false fun i =>
      roundAcc ((fp32.decode (nthD (f.accValue s w.z).elems i 0)).mul (fp32.decode (f.a.val.toNat % 2 ^ 32)))))) := by
  simp only [zscaleBody, tileScalar_of_ne (ne_tile_of_scalar ha), bind, Except.bind, claim_val, writeAcc_claim, hv, Bool.false_eq_true,
    if_false, mapRound_eq hv]

theorem zscaleBody_int (ha : f.a.kind = .scalar) (hv : (f.accValue s w.z).int = true) : zscaleBody w f s = failWith .operand := by
  simp only [zscaleBody, tileScalar_of_ne (ne_tile_of_scalar ha), bind, Except.bind, claim_val, hv, if_true]

theorem zloadBody_ok {a : TileIn} (ha : f.holds s f.a a) (hint : w.mode = true → (a.ch.fmt = .int 8 ∨ a.ch.fmt = .int 32) ∧ a.ch.scale = 0) :
    zloadBody w f s = .ok (f.sendNumber (f.accSet s w.z ((f.accValue s w.z).withElems w.mode fun i =>
      if i / 16 ≤ a.rows ∧ i % 16 ≤ a.cols then a.loaded w.mode i else (f.accValue s w.z).left w.mode i))) := by
  have hwhole : (w.mode && !((a.ch.fmt == .int 8 || a.ch.fmt == .int 32) && a.ch.scale == 0)) = false := by
    cases hw : w.mode with
    | false => rfl
    | true =>
      obtain ⟨hfmt, hscale⟩ := hint hw
      rcases hfmt with hfmt | hfmt <;> simp [hfmt, hscale]
  simp only [zloadBody, tile_of_holds ha, bind, Except.bind, hwhole, Bool.false_eq_true, if_false, claim_val, writeAcc_claim, load_eq hint]

/-- The checks of R159 do not wait. -/
theorem tile_passesOrFaults (f : Firing) (s : State) (t : Tok) : PassesOrFaults (f.tile s t) := by
  refine passesOrFaults_ite (passesOrFaults_fault _) (passesOrFaults_ite (passesOrFaults_fault _) ?_)
  split
  · exact passesOrFaults_fault _
  · exact passesOrFaults_ite (passesOrFaults_fault _) (passesOrFaults_ok _)

theorem tileScalar_passesOrFaults (t : Tok) : PassesOrFaults (tileScalar t) := passesOrFaults_ite (passesOrFaults_fault _) (passesOrFaults_ok _)

theorem zscaleBody_passesOrFaults : PassesOrFaults (zscaleBody w f s) :=
  passesOrFaults_bind (tileScalar_passesOrFaults f.a) fun _ => passesOrFaults_ite (passesOrFaults_fault _) (passesOrFaults_ok _)

theorem zloadBody_passesOrFaults : PassesOrFaults (zloadBody w f s) :=
  passesOrFaults_bind (tile_passesOrFaults f s f.a) fun _ => passesOrFaults_ite (passesOrFaults_fault _) (passesOrFaults_ok _)

end

end Sys2Proof.Machine

section
open Sys2Proof Sys2Proof.Machine

/-- Settles O17: each body claims its accumulator and writes the value of its rule or reads it; `load_eq` and `mapRound_eq` say what the elements of the new
value are. -/
theorem accumulatorInstructions : Obligations.AccumulatorInstructions := by
  intro s f h w hc v
  refine ⟨fun hf hu => givesNumber_of_ok rfl hf hu hc zinitBody_ok (accSet_keepsOuts ..),
    fun hf hu => givesNumber_of_ok rfl hf hu hc zclrfBody_ok (accSet_keepsOuts ..),
    fun hf hu => givesScalar_claiming rfl hf hu hc zflagsBody_ok ⟨rfl, fun _ => rfl⟩, fun hf hu ha hv => ?_, fun a hf hu ha hint => ?_,
    fun hf hu ha hv => raisesFrom_claiming (z := some w.z) rfl hf hu (zscaleBody_int ha hv), ?_⟩
  · exact ⟨_, withElems_isOf .., givesNumber_of_ok rfl hf hu hc (zscaleBody_ok ha hv) (accSet_keepsOuts ..)⟩
  · exact ⟨_, withElems_isOf v w.mode _, givesNumber_of_ok rfl hf hu hc (zloadBody_ok ha hint) (accSet_keepsOuts ..)⟩
  · simp only [List.forall_mem_cons, List.not_mem_nil, false_implies, implies_true, and_true]
    exact ⟨fun hf => waits_accumulator rfl hf (.inl ⟨_, zinitBody_ok⟩), fun hf => waits_accumulator rfl hf (.inl ⟨_, zclrfBody_ok⟩),
      fun hf => waits_accumulator rfl hf (.inl ⟨_, zflagsBody_ok⟩), fun hf => waits_accumulator rfl hf zscaleBody_passesOrFaults,
      fun hf => waits_accumulator rfl hf zloadBody_passesOrFaults⟩

end

/-! ## Matrix products (O18) -/

namespace Sys2Proof.Machine

/-- R208: the product goes to the accumulator, and the number is sent. -/
theorem mmaBody_ok {f : Firing} {s : State} {x : AccX} {a b : TileIn} {int : Bool} {n : AccVal} (ha : f.holds s f.a a) (hb : f.holds s f.b b)
    (hp : pairMode a.ch b.ch = some int) (hmode : x.init = true ∨ (f.accValue s x.z).int = int)
    (hn : n.isOf (f.accValue s x.z) int fun i => (f.accValue s x.z).product x.init int a.mat b.mat i) :
    mmaBody x f s = .ok (f.sendNumber (f.accSet s x.z n)) := by
  simp only [mmaBody, tile_of_holds ha, tile_of_holds hb, multiply_eq hp hmode hn, bind, Except.bind]

theorem checks_of_ringEntry {f : Firing} {s : State} {q : Nat} {ch : ChanFmt} {e : RingEntry} (h : f.ringEntry s q ch e) :
    f.ownRing s q = .ok (s.ring f.pe q) ∧ f.ringChan (s.ring f.pe q) = .ok ch ∧ f.unmarked (s.ring f.pe q) = .ok e := by
  obtain ⟨hbound, herror, hch, hwidth, hentry⟩ := h
  refine ⟨?_, ?_, ?_⟩
  · simp [Firing.ownRing, hbound, herror]
  · simp [Firing.ringChan, chanFmt_of_chanOf hch, hwidth, bind, Except.bind]
  · simp only [Firing.unmarked, hentry]

/-- The entry of a ring is marked, but where a bit of MMAR's selector keeps it (R209). -/
def Firing.poppedUnless (f : Firing) (keep : Bool) (s : State) (q : Nat) : State := if keep then s else f.popped s q

theorem poppedUnless_keepsOuts (f : Firing) (keep : Bool) (s : State) (q : Nat) : KeepsOuts s (f.poppedUnless keep s q) := by
  cases keep with
  | true => exact .refl s
  | false => exact setRing_keepsOuts ..

theorem bitAt_toNat (w : Word) (n : Nat) : bitAt w.toNat n = w.getLsbD n := by
  rw [bitAt, BitVec.getLsbD, Nat.testBit_eq_decide_div_mod_eq]
  rfl

/-- A ring's entry as an operand. -/
def RingEntry.mat (e : RingEntry) (ch : ChanFmt) : MatIn := { rows := e.rows, cols := e.cols, ch := ch, codes := e.codes }

theorem mmarBody_ok {f : Firing} {s : State} {x : AccX} {qa qb : Nat} {ca cb : ChanFmt} {ea eb : RingEntry} {int : Bool} {n : AccVal}
    (hk : f.a.kind = .scalar) (hsize : f.a.val.toNat < 2 ^ 8) (hqa : f.a.val.toNat % 8 = qa) (hqb : f.a.val.toNat / 16 % 8 = qb) (hne : qa ≠ qb)
    (ha : f.ringEntry s qa ca ea) (hb : f.ringEntry s qb cb eb)
    (hp : pairMode ca cb = some int) (hmode : x.init = true ∨ (f.accValue s x.z).int = int)
    (hn : n.isOf (f.accValue s x.z) int fun i => (f.accValue s x.z).product x.init int (ea.mat ca) (eb.mat cb) i) :
    mmarBody x f s = .ok (f.sendNumber (f.poppedUnless (f.a.val.getLsbD 7) (f.poppedUnless (f.a.val.getLsbD 3) (f.accSet s x.z n) qa) qb)) := by
  have hra : bitsAt f.a.val.toNat 0 3 = qa := by simpa [bitsAt] using hqa
  have hrb : bitsAt f.a.val.toNat 4 3 = qb := hqb
  have hsel : ¬ (f.a.val.toNat / 2 ^ 8 ≠ 0 ∨ qa = qb) := by
    rw [Nat.div_eq_of_lt hsize]
    simpa using hne
  obtain ⟨hringA, hchanA, hentryA⟩ := checks_of_ringEntry ha
  obtain ⟨hringB, hchanB, hentryB⟩ := checks_of_ringEntry hb
  have hmul := multiply_eq (a := ea.mat ca) (b := eb.mat cb) hp hmode hn
  simp only [RingEntry.mat] at hmul
  simp only [mmarBody, tileScalar_of_ne (ne_tile_of_scalar hk), bind, Except.bind, hra, hrb, if_neg hsel, hringA, hringB, hchanA, hchanB, hp, hentryA, hentryB,
    hmul, bitAt_toNat]
  rfl

end Sys2Proof.Machine

section
open Sys2Proof Sys2Proof.Machine

/-- Settles O18: `multiply_eq` says what the accumulator holds, and an MMAR marks the entries that its selector does not keep. -/
theorem matrixProducts : Obligations.MatrixProducts := by
  intro s f h x int n hc v ready
  refine ⟨fun a b ha hb hready => ?_, fun ea eb ca cb hk hsize => ?_⟩
  · obtain ⟨hf, hu, hp, hmode, hn⟩ := hready
    exact givesNumber_of_ok rfl hf hu hc (mmaBody_ok ha hb hp hmode hn) (accSet_keepsOuts ..)
  · intro qa qb hne ha hb hready
    obtain ⟨hf, hu, hp, hmode, hn⟩ := hready
    exact givesNumber_of_ok rfl hf hu hc (mmarBody_ok hk hsize rfl rfl hne ha hb hp hmode hn)
      (((accSet_keepsOuts ..).trans (poppedUnless_keepsOuts ..)).trans (poppedUnless_keepsOuts ..))

end

/-! ## Ring packets and spills (O21) -/

namespace Sys2Proof.Machine

/-! ### Entries that complete (R198) -/

/-- Tail's advance appends to the complete entries, and leaves the arrivals and the error. -/
theorem advance_spec (n : Nat) (r : Ring) :
    (∃ l, (Ring.advance n r).complete = r.complete ++ l) ∧ (Ring.advance n r).arriving = r.arriving ∧ (Ring.advance n r).error = r.error := by
  induction n generalizing r with
  | zero => exact ⟨⟨[], (List.append_nil _).symm⟩, rfl, rfl⟩
  | succ n ih =>
    rw [Ring.advance]
    split
    · exact ⟨⟨[], (List.append_nil _).symm⟩, rfl, rfl⟩
    · obtain ⟨⟨l, hcomplete⟩, harriving, herror⟩ := ih { r with complete := r.complete ++ [_], ready := _ }
      exact ⟨⟨_, hcomplete.trans (List.append_assoc ..)⟩, harriving, herror⟩

/-- The whole entry at tail is the next complete one. -/
theorem advance_complete {n : Nat} {r : Ring} {p : Nat × RingEntry} (hp : r.ready.find? (fun p => p.1 == r.tail) = some p) :
    (Ring.advance (n + 1) r).complete[r.complete.length]? = some p.2 := by
  simp only [Ring.advance, hp]
  obtain ⟨l, hl⟩ := (advance_spec n { r with complete := r.complete ++ [p.2], ready := r.ready.filter fun q => q.1 != r.tail }).1
  simp only [hl, List.append_assoc, List.cons_append, List.getElem?_append_right (Nat.le_refl _), Nat.sub_self, List.getElem?_cons_zero]

theorem complete1_partial {r : Ring} {x : Option Ctx} {a : RingArrival} (h : a.beats.length ≠ 4 * 2 ^ r.width) :
    r.complete1 x a = { r with arriving := r.arriving.filter (fun b => b.seq != a.seq) ++ [a] } := if_pos h

theorem complete1_whole {r : Ring} {x : Option Ctx} {a : RingArrival} (h : a.beats.length = 4 * 2 ^ r.width) :
    ∃ e : RingEntry, e.rows = a.rows ∧ e.cols = a.cols ∧
      r.complete1 x a = Ring.advance 16 { r with ready := r.ready ++ [(a.seq, e)], arriving := r.arriving.filter fun b => b.seq != a.seq } :=
  ⟨_, rfl, rfl, if_neg (not_not.mpr h)⟩

/-- With the last beat of its next entry, the tail advances over that entry. -/
theorem complete1_last {r : Ring} {x : Option Ctx} {a : RingArrival} (h : a.beats.length = 4 * 2 ^ r.width) (htail : r.tail = a.seq)
    (hready : ∀ p ∈ r.ready, p.1 ≠ a.seq) :
    (r.complete1 x a).error = r.error ∧ (r.complete1 x a).arriving = r.arriving.filter (fun b => b.seq != a.seq) ∧
      ∃ e, (r.complete1 x a).complete[r.complete.length]? = some e ∧ e.rows = a.rows ∧ e.cols = a.cols := by
  obtain ⟨e, hrows, hcols, heq⟩ := complete1_whole (x := x) h
  have hnone : r.ready.find? (fun p => p.1 == a.seq) = none := List.find?_eq_none.mpr fun p hp => by simpa using hready p hp
  obtain ⟨-, harriving, herror⟩ := advance_spec 16 { r with ready := r.ready ++ [(a.seq, e)], arriving := r.arriving.filter fun b => b.seq != a.seq }
  rw [heq]
  refine ⟨herror, harriving, e, advance_complete (p := (a.seq, e)) ?_, hrows, hcols⟩
  show (r.ready ++ [(a.seq, e)]).find? (fun p => p.1 == r.tail) = some (a.seq, e)
  rw [htail, List.find?_append, hnone]
  simp

/-! ### A packet at its ring (R198, R199) -/

theorem setRing_ring_same (s : State) (pe q : Nat) (r : Ring) : (s.setRing pe q r).ring pe q = r := by
  simp [State.setRing, State.ring, Tab.getD, Tab.get?_put_same]

theorem packetEvent_packet {s : State} {n : Nat} {e : Env} {r0 : BitVec 128} {data : List Byte} {c : Nat} (hm : s.msg? n = some e)
    (hf : s.first n e = true) (hb : e.body = .packet r0 data c) : exec (.matrixOperandPacket n) s = .next ((s.taken n).takePacket e.wire data) := by
  show event _ (packetEvent n s) = _
  simp [packetEvent, hm, hf, hb, event]

section
variable {s : State} {raw : BitVec 128} {data : List Byte} {r : Ring} (hr : s.ring (rawField raw 81 11) (rawField raw 64 3) = r)
include hr

theorem takePacket_unbound (hb : r.bound = none) : s.takePacket raw data = s := by
  simp only [State.takePacket, hr, hb]

variable {c t : Nat} (hb : r.bound = some (c, t))
include hb

theorem takePacket_misplaced (hbad : s.slotOf c ≠ rawField raw 92 4 ∨ packetGood raw = false ∨ 4 * 2 ^ r.width ≤ rawField raw 6 4 ∨
      r.depth ≤ r.complete.length + (rawField raw 32 32 + 2 ^ 32 - r.tail) % 2 ^ 32) :
    s.takePacket raw data = s.setRing (rawField raw 81 11) (rawField raw 64 3) { r with error := true } := by
  simp only [State.takePacket, hr, hb]
  refine if_pos ?_
  rcases hbad with h | h | h | h <;> simp [-Nat.reducePow, h]

variable (hslot : s.slotOf c = rawField raw 92 4) (hgood : packetGood raw = true) (hbeat : rawField raw 6 4 < 4 * 2 ^ r.width)
  (hroom : r.complete.length + (rawField raw 32 32 + 2 ^ 32 - r.tail) % 2 ^ 32 < r.depth)
include hslot hgood hbeat hroom

/-- The first beat of an entry. -/
theorem takePacket_first (hnew : r.taken (rawField raw 32 32) = false) : s.takePacket raw data = s.setRing (rawField raw 81 11) (rawField raw 64 3)
    (r.complete1 (s.ctx? c)
      { seq := rawField raw 32 32, rows := rawField raw 28 4, cols := rawField raw 24 4, beats := [(rawField raw 6 4, data)] }) := by
  have hcur : r.arriving.find? (fun a => a.seq == rawField raw 32 32) = none :=
    List.find?_eq_none.mpr fun a ha => by simpa using (taken_eq_false.mp hnew).2.2 a ha
  simp only [State.takePacket, hr, hb, hcur]
  exact if_neg (by simp [-Nat.reducePow, hslot, hgood, hbeat, hroom, hnew])

/-- A further beat of an entry that is arriving. -/
theorem takePacket_further {a : RingArrival} (hcur : r.arriving.find? (fun a => a.seq == rawField raw 32 32) = some a) (hrows : a.rows = rawField raw 28 4)
    (hcols : a.cols = rawField raw 24 4) (hbeats : ∀ b ∈ a.beats, b.1 ≠ rawField raw 6 4) :
    s.takePacket raw data = s.setRing (rawField raw 81 11) (rawField raw 64 3)
      (r.complete1 (s.ctx? c) { a with beats := a.beats ++ [(rawField raw 6 4, data)] }) := by
  simp only [State.takePacket, hr, hb, hcur]
  have hnew : (a.beats.any fun p => p.1 == rawField raw 6 4) = false := List.any_eq_false.mpr fun b hb => by simpa using hbeats b hb
  exact if_neg (by simp [-Nat.reducePow, hslot, hgood, hbeat, hroom, hrows, hcols, hnew])

/-- An entry's first beat makes it arrive. -/
theorem takePacket_arrives (hnew : r.taken (rawField raw 32 32) = false) :
    ∃ r', s.takePacket raw data = s.setRing (rawField raw 81 11) (rawField raw 64 3) r' ∧ r'.error = r.error ∧
      ({ seq := rawField raw 32 32, rows := rawField raw 28 4, cols := rawField raw 24 4, beats := [(rawField raw 6 4, data)] } : RingArrival) ∈
        r'.arriving := by
  refine ⟨_, takePacket_first hr hb hslot hgood hbeat hroom hnew, ?_⟩
  rw [complete1_partial (by simp only [List.length_singleton]; omega)]
  exact ⟨rfl, List.mem_append_right _ (List.mem_singleton_self _)⟩

end

/-- The last beat of the entry at tail, the one entry that arrives, makes it complete. -/
theorem takePacket_completes {s : State} {raw : BitVec 128} {data : List Byte} {r : Ring} {c t : Nat} {a : RingArrival}
    (hr : s.ring (rawField raw 81 11) (rawField raw 64 3) = r) (hb : r.bound = some (c, t)) (hslot : s.slotOf c = rawField raw 92 4)
    (hgood : packetGood raw = true) (hbeat : rawField raw 6 4 < 4 * 2 ^ r.width) (hdepth : r.complete.length < r.depth) (htail : a.seq = r.tail)
    (hseq : rawField raw 32 32 = a.seq) (harriving : r.arriving = [a]) (hready : ∀ p ∈ r.ready, p.1 ≠ a.seq) (hrows : a.rows = rawField raw 28 4)
    (hcols : a.cols = rawField raw 24 4) (hbeats : a.beats.length + 1 = 4 * 2 ^ r.width) (hnew : ∀ b ∈ a.beats, b.1 ≠ rawField raw 6 4) :
    ∃ r' e', s.takePacket raw data = s.setRing (rawField raw 81 11) (rawField raw 64 3) r' ∧ r'.error = r.error ∧ r'.arriving = [] ∧
      r'.complete[r.complete.length]? = some e' ∧ e'.rows = a.rows ∧ e'.cols = a.cols := by
  have hroom : r.complete.length + (rawField raw 32 32 + 2 ^ 32 - r.tail) % 2 ^ 32 < r.depth := by
    rw [hseq, htail, Nat.add_sub_cancel_left, Nat.mod_self, Nat.add_zero]
    exact hdepth
  have hcur : r.arriving.find? (fun a => a.seq == rawField raw 32 32) = some a := by simp [harriving, hseq]
  obtain ⟨herror, hrest, e', hentry, hshape⟩ := complete1_last (r := r) (x := s.ctx? c) (a := { a with beats := a.beats ++ [(rawField raw 6 4, data)] })
    (by simpa using hbeats) htail.symm hready
  exact ⟨_, e', takePacket_further hr hb hslot hgood hbeat hroom hcur hrows hcols hnew, herror, hrest.trans (by simp [harriving]), hentry, hshape⟩

/-! ### The spill area (R203, R204) -/

theorem leNat_leBytes (n v : Nat) : leNat (leBytes n v) = v % 256 ^ n := by
  unfold leBytes
  induction n generalizing v with
  | zero => simp [bytesOfNat, leNat, Nat.mod_one]
  | succ n ih =>
    rw [bytesOfNat, leNat, ih, BitVec.toNat_ofNat, show 2 ^ 8 = 256 from rfl, Nat.pow_succ', Nat.mod_mul]

theorem leNat_append_zeros (l : List Byte) (n : Nat) : leNat (l ++ List.replicate n 0) = leNat l := by
  induction l with
  | nil =>
    induction n with
    | zero => rfl
    | succ n ih => simpa [List.replicate_succ, leNat] using ih
  | cons b l ih => simp only [List.cons_append, leNat, ih]

theorem leBytes_length (n v : Nat) : (leBytes n v).length = n := by simp [leBytes_eq]

theorem setSpillBytes_append (s : State) (key : Nat) (l : List Byte) (b : Byte) :
    (s.setSpillBytes key (l ++ [b])).pe.spills = Memory.write (s.setSpillBytes key l).pe.spills (key + l.length) b := by
  simp [State.setSpillBytes, List.zipIdx_append]

theorem setSpillBytes_wf {s : State} (h : Memory.wf s.pe.spills = true) (key : Nat) (l : List Byte) :
    Memory.wf (s.setSpillBytes key l).pe.spills = true := by
  induction l using List.reverseRecOn with
  | nil => exact h
  | append_singleton l b ih =>
    rw [setSpillBytes_append]
    exact Memory.write_wf ih ..

theorem read_setSpillBytes {s : State} (h : Memory.wf s.pe.spills = true) (key : Nat) {l : List Byte} {j : Nat} {b : Byte} (hj : l[j]? = some b) :
    Memory.read (s.setSpillBytes key l).pe.spills (key + j) = b := by
  induction l using List.reverseRecOn with
  | nil => simp at hj
  | append_singleton l c ih =>
    rw [setSpillBytes_append]
    by_cases hlast : j = l.length
    · subst hlast
      rw [Memory.read_write_same (setSpillBytes_wf h key l)]
      simpa using hj
    · have hlt : j < l.length := by
        have := (List.getElem?_eq_some_iff.mp hj).1
        simp only [List.length_append, List.length_singleton] at this
        omega
      rw [Memory.read_write_ne (by omega)]
      exact ih (by rwa [List.getElem?_append_left hlt] at hj)

theorem read_setSpillBytes_outside (s : State) {key a : Nat} {l : List Byte} (h : a < key ∨ key + l.length ≤ a) :
    Memory.read (s.setSpillBytes key l).pe.spills a = Memory.read s.pe.spills a := by
  induction l using List.reverseRecOn with
  | nil => rfl
  | append_singleton l b ih =>
    simp only [List.length_append, List.length_singleton] at h
    rw [setSpillBytes_append, Memory.read_write_ne (by omega), ih (by omega)]

theorem spillBytes_setSpillBytes {s : State} (h : Memory.wf s.pe.spills = true) (key : Nat) {l : List Byte} {j n : Nat} (hn : j + n ≤ l.length) :
    (s.setSpillBytes key l).spillBytes (key + j) n = (l.drop j).take n := by
  refine List.ext_getElem (by simp [State.spillBytes]; omega) fun i hi _ => ?_
  have hlt : i < n := by simpa [State.spillBytes] using hi
  have hget : l[j + i]? = some l[j + i] := List.getElem?_eq_getElem (by omega)
  simp [State.spillBytes, Nat.add_assoc, read_setSpillBytes h key hget]

theorem spillBytes_setSpillBytes_outside (s : State) {key a n : Nat} {l : List Byte} (h : a + n ≤ key ∨ key + l.length ≤ a) :
    (s.setSpillBytes key l).spillBytes a n = s.spillBytes a n := by
  refine List.map_congr_left fun i hi => ?_
  have hlt := List.mem_range.mp hi
  exact read_setSpillBytes_outside s (by omega)

/-- Element i of an accumulator in the bytes of all. -/
theorem take_drop_elemBytes {l : List Nat} {i v : Nat} (h : l[i]? = some v) : ((l.flatMap (leBytes 4)).drop (4 * i)).take 4 = leBytes 4 v := by
  induction l generalizing i with
  | nil => simp at h
  | cons w l ih =>
    cases i with
    | zero =>
      obtain rfl : w = v := by simpa using h
      rw [List.flatMap_cons, Nat.mul_zero, List.drop_zero, List.take_left' (leBytes_length 4 w)]
    | succ i =>
      rw [List.flatMap_cons, Nat.mul_succ, Nat.add_comm, ← List.drop_drop, List.drop_left' (leBytes_length 4 w)]
      exact ih (by simpa using h)

theorem elemBytes_length (l : List Nat) : (l.flatMap (leBytes 4)).length = 4 * l.length := by
  induction l with
  | nil => rfl
  | cons v l ih => rw [List.flatMap_cons, List.length_append, ih, leBytes_length, List.length_cons]; omega

theorem spillRecord_length (v : AccVal) (held : Bool) (slot task : Nat) : (spillRecord v held slot task).length = 64 := by
  simp [spillRecord, leBytes_length]

/-- The state record of an accumulator that its task still holds (R204). -/
theorem leNat_spillRecord_held (v : AccVal) (slot task : Nat) : leNat (spillRecord v true slot task) =
    v.flags.toNat + (if v.int then 2 ^ 6 else 0) + slot % 8 * 2 ^ 7 + task % 16 * 2 ^ 11 + 2 ^ 15 := by
  have hflags := v.flags.isLt
  have hint : bit v.int * 2 ^ 6 = if v.int then 2 ^ 6 else 0 := by cases v.int <;> rfl
  have hmode : bit v.int ≤ 1 := by cases v.int <;> decide
  rw [spillRecord, leNat_append_zeros, leNat_leBytes, ← hint, show bit true = 1 from rfl]
  omega

theorem setAcc_spills (s : State) (pe z : Nat) (a : Acc) : (s.setAcc pe z a).pe.spills = s.pe.spills := rfl

section
variable {s : State} {pe z : Nat} {v : AccVal} {held : Bool} {slot task : Nat} (hwf : Memory.wf s.pe.spills = true)
include hwf

theorem setSpill_elem {i e : Nat} (hz : z < 8) (hlen : v.elems.length = 256) (he : v.elems[i]? = some e) :
    leNat ((s.setSpill pe z v held slot task).spillBytes (spillKey pe z + 4 * i) 4) = e % 2 ^ 32 := by
  obtain ⟨hi, -⟩ := List.getElem?_eq_some_iff.mp he
  rw [State.setSpill, spillBytes_setSpillBytes_outside _ (.inl (by simp only [spillKey, spillRecordKey]; omega)),
    spillBytes_setSpillBytes hwf _ (by rw [elemBytes_length]; omega), take_drop_elemBytes he, leNat_leBytes]
  rfl

theorem setSpill_record_held : leNat ((s.setSpill pe z v true slot task).spillBytes (spillRecordKey pe z) 64) =
    v.flags.toNat + (if v.int then 2 ^ 6 else 0) + slot % 8 * 2 ^ 7 + task % 16 * 2 ^ 11 + 2 ^ 15 := by
  have hlen := spillRecord_length v true slot task
  have hbytes := spillBytes_setSpillBytes (setSpillBytes_wf hwf (spillKey pe z) (v.elems.flatMap (leBytes 4))) (spillRecordKey pe z) (j := 0) (n := 64)
    (l := spillRecord v true slot task) (by omega)
  rw [Nat.add_zero, List.drop_zero, List.take_of_length_le (by omega)] at hbytes
  rw [State.setSpill, hbytes, leNat_spillRecord_held]

end

/-! ### The urgent pre-emption of an accumulator (R205) -/

/-- An accumulator without a shadow has no activation pending on it. -/
theorem spillEvent_ok {s : State} {pe z k idx c t : Nat} {fr : Frame} (hurgent : s.urgentFor pe z = some (k, idx)) (hfr : s.frame? k = some fr)
    (hclaim : (s.acc pe z).claim = some (c, t)) (hspill : (s.acc pe z).spill = none) (hshadow : (s.acc pe z).shadow = none)
    (hnormal : ∀ x, s.ctx? c = some x → x.urgent = false) :
    exec (.accumulatorSpill pe z) s = .next ((s.setSpill pe z (s.acc pe z).val true (s.slotOf c) t).setAcc pe z
      { val := AccVal.reset, claim := some (fr.ctx, fr.task), last := some fr.ctx, shadow := none
        spill := some { ctx := c, task := t, claimed := true, last := (s.acc pe z).last } }) := by
  have hdiscard : s.discardPending pe z c t = s := by simp only [State.discardPending, hshadow]
  show event _ (spillEvent pe z s) = _
  cases hc : s.ctx? c with
  | none => simp [spillEvent, hurgent, hclaim, hspill, hdiscard, hfr, hc, event]
  | some x => simp [spillEvent, hurgent, hclaim, hspill, hdiscard, hfr, hc, hnormal x hc, event]

end Sys2Proof.Machine

section
open Sys2Proof Sys2Proof.Machine

/-- Settles O21: what a ring makes of a packet, as `takePacket` and `complete1` give it, and what the spill area holds after `setSpill`. -/
theorem matrixEvents : Obligations.MatrixEvents := by
  refine ⟨fun s n e r0 data c hm hf hb => ?_, fun s pe z k idx c t fr hurgent hfr hz hclaim hspill hshadow hnormal hwf hlen => ?_⟩
  · intro raw pe q r
    have hexec := packetEvent_packet hm hf hb
    refine ⟨fun hnone => ?_, fun x t hbound hbad => ?_, fun x t hbound hslot hgood hbeat hroom harriving hready hpushed => ?_,
      fun x t a hbound hslot hgood hbeat hdepth htail hseq harriving hready hrows hcols hbeats hnew => ?_⟩
    · exact hexec.trans (congrArg _ (takePacket_unbound (s := s.taken n) rfl hnone))
    · exact hexec.trans (congrArg _ (takePacket_misplaced (s := s.taken n) rfl hbound hbad))
    · obtain ⟨r', htake, herror, harrives⟩ := takePacket_arrives (s := s.taken n) (data := data) rfl hbound hslot hgood hbeat
        ((Nat.add_comm _ _).trans_lt hroom) (taken_eq_false.mpr ⟨hpushed, hready, harriving⟩)
      exact ⟨_, r', hexec.trans (congrArg _ htake), setRing_ring_same .., herror, harrives⟩
    · obtain ⟨r', e', htake, hring⟩ := takePacket_completes (s := s.taken n) (data := data) rfl hbound hslot hgood hbeat hdepth htail hseq harriving hready
        hrows hcols hbeats hnew
      exact ⟨_, r', e', hexec.trans (congrArg _ htake), setRing_ring_same .., hring⟩
  · refine ⟨_, spillEvent_ok hurgent hfr hclaim hspill hshadow hnormal, setAcc_acc_same .., fun i v hv => ?_, ?_⟩
    · simpa only [State.spillBytes, spillKey, setAcc_spills] using setSpill_elem hwf hz hlen hv
    · simpa only [State.spillBytes, spillRecordKey, setAcc_spills] using setSpill_record_held hwf

end

/-! ## Loads (O22) -/

namespace Sys2Proof.Machine

/-- LDR of one byte, without targets of its own (R234, R241). -/
def bareLdr : Instr := .ldr lbreakHdr ⟨false, .byte⟩ ⟨0, 0, 0⟩

/-- LDR about to fire with address 0, and a routing word that names slot a of its own frame's first instruction (R234). -/
def routedLoad : State :=
  (State.reset.withFetchWord 64 0x53000000).modFrame 0 fun fr => { fr with slots := [(0, scalarTok 0), (1, scalarTok 0)] }

/-- Its firing. -/
def routedFiring : Firing := (routedLoad.firing bareLdr).get (by decide +kernel)

/-- That slot as the result of step 0 of an instruction of two steps, which LDR is not (R64): `Firing.routes` leaves the step of a destination open. -/
def steppedDest : Dest := { pe := 0, frame := 0, uid := 1, tgt := .slot .a 0, step := some 0 }

/-- The steps whose results the requests in flight bring. -/
def repliesSteps : Host.Outcome State Fault Refusal → List (Option Nat)
  | .next t => t.mem.accesses.flatMap fun p => p.2.dests.map Dest.step
  | _ => []

theorem routedLoad_fires : Fires bareLdr routedLoad routedFiring :=
  ⟨(Option.some_get _).symm, by decide +kernel, by decide +kernel⟩

theorem routes_steppedDest : routedFiring.routes routedLoad routedFiring.b.val steppedDest :=
  ⟨(routedLoad.frame? 0).get (by decide +kernel), by decide +kernel, by decide +kernel, by decide +kernel, by decide +kernel, by decide +kernel,
    by decide +kernel, by decide +kernel, by decide +kernel, by decide +kernel, .a, 0, by decide +kernel, by decide +kernel, by decide +kernel⟩

/-- The request that the machine issues brings the result of no step. -/
theorem routedLoad_steps : repliesSteps (exec bareLdr routedLoad) = [none] := by decide +kernel

end Sys2Proof.Machine

section
open Sys2Proof Sys2Proof.Machine
/-- Refutes O22: the statement's `Firing.routes` says nothing of the step of a destination (R64), so that an LDR would also reply with the result of a step; the
request that the machine makes of the routing word names none. -/
theorem not_loadsIssue : ¬ Obligations.LoadsIssue := by
  intro h
  obtain ⟨-, hldr, -⟩ := h routedLoad routedFiring lbreakHdr (by decide +kernel) (by decide +kernel)
  have hgives := congrArg repliesSteps
    (hldr ⟨false, .byte⟩ ⟨0, 0, 0⟩ steppedDest routedLoad_fires (by decide +kernel) routes_steppedDest (.inl (by decide +kernel)) (by decide +kernel))
  refine absurd (routedLoad_steps.symm.trans hgives) ?_
  decide +kernel
end

/-! ## Accesses at their homes (O26) -/

namespace Sys2Proof

theorem Tab.del_put {α : Type} {k : Nat} {w : α} {t : Tab α} (hs : t.sorted = true) (h : Tab.get? k t = some w) (v : α) : (t.put k v).del k = t.del k := by
  induction t with
  | nil => cases h
  | cons p t ih =>
    obtain ⟨j, x⟩ := p
    obtain ⟨habove, htail⟩ := (Tab.sorted_cons _ _).mp hs
    by_cases hj : j = k
    · simp [Tab.put, Tab.del, hj]
    · have ht : Tab.get? k t = some w := by simpa [Tab.get?, hj] using h
      have hlt : ¬ k < j := fun hk => by simp [Tab.get?_above habove (Nat.le_of_lt hk)] at ht
      simp [Tab.put, Tab.del, hj, hlt, ih htail ht]

end Sys2Proof

namespace Sys2Proof.Machine

/-! ### Several bytes written one after the other -/

section
variable {α : Type} {g : α → Nat} {v : α → Byte}

theorem Memory.writes_wf {m : List Host.Cell} (h : Memory.wf m = true) (l : List α) : Memory.wf (l.foldl (fun m x => Memory.write m (g x) (v x)) m) = true := by
  induction l generalizing m with
  | nil => exact h
  | cons x l ih => exact ih (Memory.write_wf h _ _)

theorem Memory.read_writes_of_ne {l : List α} {k : Nat} (h : ∀ x ∈ l, g x ≠ k) (m : List Host.Cell) :
    Memory.read (l.foldl (fun m x => Memory.write m (g x) (v x)) m) k = Memory.read m k := by
  induction l generalizing m with
  | nil => rfl
  | cons x l ih =>
    obtain ⟨hx, hl⟩ := List.forall_mem_cons.mp h
    rw [List.foldl_cons, ih hl, Memory.read_write_ne hx.symm]

theorem Memory.read_writes_of_mem {l : List α} (hd : (l.map g).Nodup) {m : List Host.Cell} (hm : Memory.wf m = true) {x : α} (hx : x ∈ l) :
    Memory.read (l.foldl (fun m x => Memory.write m (g x) (v x)) m) (g x) = v x := by
  induction l generalizing m with
  | nil => cases hx
  | cons y l ih =>
    obtain ⟨hy, hl⟩ := List.nodup_cons.mp hd
    rcases List.mem_cons.mp hx with rfl | hx
    · have hne : ∀ z ∈ l, g z ≠ g x := fun z hz heq => hy (heq ▸ List.mem_map_of_mem (f := g) hz)
      rw [List.foldl_cons, Memory.read_writes_of_ne hne, Memory.read_write_same hm]
    · exact ih hl (Memory.write_wf hm _ _) hx

theorem foldl_pokeByte (l : List α) (s : State) : l.foldl (fun s x => s.pokeByte (g x) (v x)) s =
    { s with mem := { s.mem with bytes := l.foldl (fun m x => Memory.write m (g x) (v x)) s.mem.bytes } } := by
  induction l generalizing s with
  | nil => rfl
  | cons x l ih => exact ih _

/-- Where no engine holds a line, the bytes go to memory. -/
theorem foldl_writeByte {l : List α} {s : State} (h : ∀ x ∈ l, s.lineOf (g x) = none) : l.foldl (fun s x => s.writeByte (g x) (v x)) s =
    { s with mem := { s.mem with bytes := l.foldl (fun m x => Memory.write m (g x) (v x)) s.mem.bytes } } := by
  induction l generalizing s with
  | nil => rfl
  | cons x l ih =>
    obtain ⟨hx, hl⟩ := List.forall_mem_cons.mp h
    have hwrite : s.writeByte (g x) (v x) = s.pokeByte (g x) (v x) := by simp only [State.writeByte, hx]
    rw [List.foldl_cons, hwrite, ih (s := s.pokeByte (g x) (v x)) hl]
    rfl

end

/-! ### The engine of a granule (R267, R268) -/

theorem homeQuad_eq (k : Nat) : homeQuad k =
    if 2 ^ 52 ≤ k then some (k % 2 ^ 40 / 2 ^ 37 * 64 + k / 256 % 64)
    else if k < 2 ^ 40 then some (k / 2 ^ 37 * 64 + k / 256 % 64)
    else if k < 2 ^ 40 + 2 ^ 32 then some (quadOfPe ((k - 2 ^ 40) / 2 ^ 21)) else none := by
  unfold homeQuad regionOf
  split_ifs <;> rfl

section
variable {j k : Nat} (h : j / 64 = k / 64)
include h

theorem homeQuad_congr : homeQuad j = homeQuad k := by
  have hquad : j / 256 = k / 256 := by omega
  have hstack : j / 2 ^ 37 = k / 2 ^ 37 := by omega
  have hfar : j % 2 ^ 40 / 2 ^ 37 = k % 2 ^ 40 / 2 ^ 37 := by omega
  have hpe : (j - 2 ^ 40) / 2 ^ 21 = (k - 2 ^ 40) / 2 ^ 21 := by omega
  simp only [homeQuad_eq, hquad, hstack, hfar, hpe]
  exact if_congr (by omega) rfl (if_congr (by omega) rfl (if_congr (by omega) rfl rfl))

theorem engineKey_congr : engineKey j = engineKey k := by
  have hpkg : (j - 2 ^ 52) / 2 ^ 40 = (k - 2 ^ 52) / 2 ^ 40 := by omega
  have hfar : 2 ^ 52 ≤ j ↔ 2 ^ 52 ≤ k := by omega
  simp only [engineKey, homeQuad_congr h, hpkg, hfar]

theorem lineOf_congr (s : State) : s.lineOf j = s.lineOf k := by
  simp only [State.lineOf, engineKey_congr h, h]

/-- A plain access at a home that is not the device registers reads memory (R219). -/
theorem homeByte_of_memory (hk : homeAgent k ≠ .io) (s : State) : s.homeByte j = s.readByte j := by
  unfold State.homeByte
  split
  · rfl
  · split
    · rename_i hfar _ hdev
      have hlow : ¬ 2 ^ 52 ≤ k := by omega
      have hk' : regionOf k = .dev (k - 2 * 2 ^ 40) := by
        unfold regionOf at hdev ⊢
        split_ifs at hdev with h1 h2 h3
        rw [if_neg (by omega), if_neg (by omega), if_pos (by omega)]
      refine absurd ?_ hk
      have hplain : plainKey k = k := if_neg (by omega)
      simp only [homeAgent, hplain, if_neg (show ¬ 2 ^ 60 ≤ k by omega), if_neg hlow, hk']
    · rfl

end

theorem lineOf_of_key {k e : Nat} (he : engineKey k = some e) (s : State) :
    s.lineOf k = ((s.engine e).lines.find? fun m => m.pa == k / 64 * 64).map fun l => (e, l) := by
  simp only [State.lineOf, he]

theorem lineOf_of_noKey {k : Nat} (he : engineKey k = none) (s : State) : s.lineOf k = none := by simp only [State.lineOf, he]

theorem lineOf_eq_some {s : State} {k e : Nat} {l : Line} (h : s.lineOf k = some (e, l)) : engineKey k = some e ∧ l.pa = k / 64 * 64 := by
  cases he : engineKey k with
  | none => rw [lineOf_of_noKey he] at h; cases h
  | some q =>
    rw [lineOf_of_key he] at h
    obtain ⟨m, hm, heq⟩ := Option.map_eq_some_iff.mp h
    cases heq
    exact ⟨rfl, by simpa using List.find?_some hm⟩

/-! ### A line that an engine holds goes back to memory (R268, R270) -/

theorem dropLine_engine (s : State) (e q : Nat) (l : Line) : (s.dropLine e l).engine q =
    if q = e then { s.engine e with lines := (s.engine e).lines.filter fun m => m.pa != l.pa } else s.engine q := by
  have hsync : (s.dropLine e l).sync = (s.setEngine e { s.engine e with lines := (s.engine e).lines.filter fun m => m.pa != l.pa }).sync := by
    unfold State.dropLine
    simp only [foldl_pokeByte]
    split <;> split <;> rfl
  simp only [State.engine, hsync, State.setEngine, Tab.getD]
  split
  · next hq => rw [hq, Tab.get?_put_same]; rfl
  · next hq => rw [Tab.get?_put_ne hq]

theorem dropLine_bytes (s : State) (e : Nat) (l : Line) : (s.dropLine e l).mem.bytes =
    if l.dirty then (List.range 64).foldl (fun m i => Memory.write m (l.pa + i) (nthD l.bytes i 0)) s.mem.bytes else s.mem.bytes := by
  unfold State.dropLine
  simp only [foldl_pokeByte]
  split <;> split <;> rfl

theorem dropLine_poison (s : State) (e : Nat) (l : Line) : (s.dropLine e l).mem.poison =
    if l.poisoned then (s.setPoison l.pa true).mem.poison else s.mem.poison := by
  unfold State.dropLine
  simp only [foldl_pokeByte]
  split <;> split <;> rfl

theorem recall_of_none {s : State} {k : Nat} (h : s.lineOf k = none) : s.recall k = s := by simp only [State.recall, h]

theorem recall_of_some {s : State} {k e : Nat} {l : Line} (h : s.lineOf k = some (e, l)) : s.recall k = s.dropLine e l := by simp only [State.recall, h]

/-- After a recall no engine holds the granule. -/
theorem recall_lineOf (s : State) {j k : Nat} (h : j / 64 = k / 64) : (s.recall k).lineOf j = none := by
  rw [lineOf_congr h]
  cases hl : s.lineOf k with
  | none => rwa [recall_of_none hl]
  | some p =>
    obtain ⟨e, l⟩ := p
    obtain ⟨he, hpa⟩ := lineOf_eq_some hl
    rw [recall_of_some hl, lineOf_of_key he, dropLine_engine, if_pos rfl, Option.map_eq_none_iff, List.find?_filter, List.find?_eq_none]
    simp [hpa]

/-- The other granules stay with the engines that hold them. -/
theorem recall_lineOf_ne (s : State) {j k : Nat} (h : j / 64 ≠ k / 64) : (s.recall k).lineOf j = s.lineOf j := by
  cases hl : s.lineOf k with
  | none => rw [recall_of_none hl]
  | some p =>
    obtain ⟨e, l⟩ := p
    obtain ⟨-, hpa⟩ := lineOf_eq_some hl
    have hstays : (fun m : Line => decide ((m.pa != l.pa) = true ∧ (m.pa == j / 64 * 64) = true)) = fun m : Line => m.pa == j / 64 * 64 := by
      funext m
      by_cases hm : m.pa = j / 64 * 64
      · have hne : j / 64 * 64 ≠ k / 64 * 64 := by omega
        simp [hm, hpa, hne]
      · simp [hm]
    rw [recall_of_some hl]
    cases hq : engineKey j with
    | none => rw [lineOf_of_noKey hq, lineOf_of_noKey hq]
    | some q =>
      rw [lineOf_of_key hq, lineOf_of_key hq, dropLine_engine]
      split
      · next heq => rw [List.find?_filter, hstays, heq]
      · rfl

/-- What a line of an engine has in common with memory (R268, R270): where nothing has changed it, its bytes, and poison wherever there is some. -/
def State.lineAgrees (s : State) (k : Nat) : Prop :=
  ∀ e l, s.lineOf k = some (e, l) → l.bytes.length = 64 ∧
    (l.dirty = false → ∀ i, i < 64 → l.bytes[i]? = some (Memory.read s.mem.bytes (k / 64 * 64 + i))) ∧ (l.poisoned = true ↔ k / 64 * 64 ∈ s.mem.poison)

theorem recall_wf {s : State} (h : Memory.wf s.mem.bytes = true) (k : Nat) : Memory.wf (s.recall k).mem.bytes = true := by
  cases hl : s.lineOf k with
  | none => rwa [recall_of_none hl]
  | some p =>
    rw [recall_of_some hl, dropLine_bytes]
    split
    · exact Memory.writes_wf h _
    · exact h

section
variable {s : State} {k : Nat} (hwf : Memory.wf s.mem.bytes = true) (hagree : s.lineAgrees k)
include hwf hagree

/-- A recall moves the bytes of a granule, and changes none. -/
theorem recall_readByte (j : Nat) : (s.recall k).readByte j = s.readByte j := by
  cases hl : s.lineOf k with
  | none => rw [recall_of_none hl]
  | some p =>
    obtain ⟨e, l⟩ := p
    obtain ⟨-, hpa⟩ := lineOf_eq_some hl
    obtain ⟨hlen, hclean, -⟩ := hagree e l hl
    have hbytes := dropLine_bytes s e l
    rw [← recall_of_some hl] at hbytes
    by_cases h : j / 64 = k / 64
    · have hj : l.pa + j % 64 = j := by omega
      have hread : (s.recall k).readByte j = Memory.read (s.recall k).mem.bytes j := by simp only [State.readByte, recall_lineOf s h]
      have hline : s.readByte j = nthD l.bytes (j % 64) 0 := by simp only [State.readByte, lineOf_congr h, hl]
      rw [hread, hline, hbytes]
      split
      · have hwritten := Memory.read_writes_of_mem (g := fun i => l.pa + i) (v := fun i => nthD l.bytes i 0) (l := List.range 64)
          (List.nodup_range.map fun a b hab => Nat.add_left_cancel hab) hwf (x := j % 64) (List.mem_range.mpr (by omega))
        rwa [hj] at hwritten
      · next hd =>
        rw [nthD, hclean (by simpa using hd) _ (by omega), ← hpa, hj]
        rfl
    · have hkept : Memory.read (s.recall k).mem.bytes j = Memory.read s.mem.bytes j := by
        rw [hbytes]
        split
        · refine Memory.read_writes_of_ne (g := fun i => l.pa + i) (fun i hi => ?_) _
          have hi := List.mem_range.mp hi
          omega
        · rfl
      simp only [State.readByte, recall_lineOf_ne s h, hkept]

omit hwf in
/-- A recall leaves a granule as poisoned as it was (R270). -/
theorem recall_poisoned : (s.recall k).poisoned k = s.poisoned k := by
  cases hl : s.lineOf k with
  | none => rw [recall_of_none hl]
  | some p =>
    obtain ⟨e, l⟩ := p
    obtain ⟨-, hpa⟩ := lineOf_eq_some hl
    obtain ⟨-, -, hpoison⟩ := hagree e l hl
    have hafter : (s.recall k).poisoned k = (s.recall k).mem.poison.contains (k / 64 * 64) := by simp only [State.poisoned, recall_lineOf s rfl]
    have hbefore : s.poisoned k = l.poisoned := by simp only [State.poisoned, hl]
    rw [hafter, hbefore, recall_of_some hl, dropLine_poison, hpa]
    cases hp : l.poisoned with
    | true => simp [State.setPoison]
    | false => simpa [hp] using hpoison

end

/-! ### Pieces and their accesses (R238, R248) -/

theorem key_of_head {q : Piece} {k j : Nat} (h : q.cells.head? = some (k, j)) : q.key = k := by simp only [Piece.key, h]; rfl

theorem isActive_of_pieceReady {s : State} {n : Nat} {a : Access} {q : Piece} (h : s.pieceReady n a q = true) : a.state.isActive = true := by
  simp only [State.pieceReady, Bool.and_eq_true, and_assoc] at h
  exact h.1

/-- An access with its piece `p` performed and the buffer that this leaves. -/
def Access.after (a : Access) (p : Nat) (q : Piece) (buf : List Byte) : Access := { a with buf := buf, pieces := a.pieces.set p { q with done := true } }

theorem donePiece_eq {a : Access} {p : Nat} {q : Piece} (h : a.pieces[p]? = some q) : a.donePiece p = a.after p q a.buf := by
  simp only [Access.donePiece, Access.after, h, setAt_eq_set]

/-- Once a piece is performed, all are unless another one is still to be. -/
theorem after_all_done {a : Access} {p : Nat} {q : Piece} (h : a.pieces[p]? = some q) (buf : List Byte) :
    (a.after p q buf).pieces.all (fun r => r.done) = (a.pieces.eraseIdx p).all fun r => r.done := by
  obtain ⟨hp, -⟩ := List.getElem?_eq_some_iff.mp h
  rw [Access.after, List.set_eq_take_append_cons_drop, if_pos hp, List.eraseIdx_eq_take_drop_succ]
  simp

section
variable {s : State} {n p : Nat} {a : Access} {q : Piece} {buf : List Byte} (h : s.mem.accesses.get? n = some (a.after p q buf))
  (hq : a.pieces[p]? = some q)
include h hq

/-- Another piece is still to be performed. -/
theorem settleAccess_after_more (hmore : ∃ r ∈ a.pieces.eraseIdx p, r.done = false) (home : Agent) : s.settleAccess n home = s :=
  settleAccess_pending h ((after_all_done hq buf).trans (by simpa using hmore)) home

/-- The last piece is performed. -/
theorem settleAccess_after_last (hactive : a.state.isActive = true) (hlast : ¬ ∃ r ∈ a.pieces.eraseIdx p, r.done = false) (home : Agent) :
    s.settleAccess n home = (s.completeAccess n (a.after p q buf) home).sweepHolds := by
  have hall : (a.after p q buf).pieces.all (fun r => r.done) = true := (after_all_done hq buf).trans (by simpa using hlast)
  have hactive' : (a.after p q buf).state.isActive = true := hactive
  simp only [State.settleAccess, h, hactive', hall, Bool.and_self, if_true]

end

theorem delAccess_setAccess {s : State} {n : Nat} {b : Access} (hs : Tab.sorted s.mem.accesses = true) (h : s.mem.accesses.get? n = some b) (a : Access) :
    (s.setAccess n a).delAccess n = s.delAccess n := by
  simp only [State.delAccess, State.setAccess, Tab.del_put hs h]

theorem completeAccess_scalar {a : Access} {size : Nat} {sx : Bool} (h : a.purpose = .scalar size sx) (s : State) (n : Nat) (home : Agent) :
    s.completeAccess n a home = (s.delAccess n).reply home 1 a.dests (scalarTok (loadValue a.buf size sx)) a.src := by
  simp only [State.completeAccess, h]

theorem completeAccess_store {a : Access} {holder : Option Word} (h : a.purpose = .store holder) (s : State) (n : Nat) (home : Agent) :
    (s.completeAccess n a home).mem = (s.delAccess n).mem ∧ (s.completeAccess n a home).sync = s.sync := by
  simp only [State.completeAccess, h]
  split
  · have hquiet := release_quiet 0 (s.delAccess n) a.src.pe ‹Word›
    exact ⟨hquiet.mem, hquiet.sync⟩
  · exact ⟨rfl, rfl⟩

theorem traceFails_of_not_traces {a : Access} (h : a.purpose.traces = false) (s : State) (key : Nat) : s.traceFails a key = false := by
  unfold State.traceFails
  split
  · next hp => rw [hp] at h; cases h
  · rfl

section
variable {s : State} {n p : Nat} {a : Access} {q : Piece} (ha : s.mem.accesses.get? n = some a) (hq : a.pieces[p]? = some q)
  (hready : s.pieceReady n a q = true) (hrefuse : s.refuses a q = false) (htraces : a.purpose.traces = false) (hio : q.home ≠ .io)
include ha hq hready hrefuse htraces hio

theorem exec_writeAtHome (hw : a.write = true) :
    exec (.memoryAccessAtHome n p) s = .next (((s.writePiece a q).setAccess n (a.donePiece p)).settleAccess n q.home) := by
  simp [exec, execMemoryAccessAtHome, event, homeEvent, ha, hq, hready, hrefuse, traceFails_of_not_traces htraces, hio, hw]

variable (hr : a.write = false)
include hr

theorem exec_readAtHome (hp : (s.recall q.key).poisoned q.key = false) :
    exec (.memoryAccessAtHome n p) s =
      .next (((s.recall q.key).setAccess n (((s.recall q.key).readPiece a q).donePiece p)).settleAccess n q.home) := by
  simp [exec, execMemoryAccessAtHome, event, homeEvent, ha, hq, hready, hrefuse, traceFails_of_not_traces htraces, hio, hr, hp]

theorem exec_poisonedAtHome (hp : (s.recall q.key).poisoned q.key = true) :
    exec (.memoryAccessAtHome n p) s =
      .next (s.accessFault n a { code := .uncorrectable, detail := wordOf (q.key / 64 * 64) }).sweepHolds := by
  simp [exec, execMemoryAccessAtHome, event, homeEvent, ha, hq, hready, hrefuse, traceFails_of_not_traces htraces, hio, hr, hp]

end

/-! ### A piece writes its bytes (R229) -/

@[simp] theorem countWrite_mem (s : State) (home : Agent) (keys : List Nat) : (s.countWrite home keys).mem = s.mem :=
  foldl_fixed State.mem (fun _ _ => by dsimp only; split <;> rfl) _ s

@[simp] theorem countWrite_sync (s : State) (home : Agent) (keys : List Nat) : (s.countWrite home keys).sync = s.sync :=
  foldl_fixed State.sync (fun _ _ => by dsimp only; split <;> rfl) _ s

theorem lineOf_of_sync {s t : State} (h : t.sync = s.sync) (k : Nat) : t.lineOf k = s.lineOf k := by simp only [State.lineOf, State.engine, h]

theorem writePiece_spec {s : State} {a : Access} {q : Piece} {k j : Nat} (hhead : q.cells.head? = some (k, j)) (hcells : ∀ c ∈ q.cells, c.1 / 64 = k / 64) :
    (s.writePiece a q).mem.bytes = q.cells.foldl (fun m x => Memory.write m x.1 (nthD (s.dataOf a) x.2 0)) (s.recall k).mem.bytes ∧
      (s.writePiece a q).mem.accesses = s.mem.accesses ∧ (s.writePiece a q).sync = (s.recall k).sync := by
  have haccesses : (s.recall k).mem.accesses = s.mem.accesses := by rw [recall_only s k]
  unfold State.writePiece
  cases hc : q.cells with
  | nil => rw [hc] at hhead; cases hhead
  | cons c l =>
    rw [hc] at hhead hcells
    cases hhead
    generalize hs2 : (if ((((k, j) :: l).map Prod.fst).eraseDups).length = 64 then (s.recall k).setPoison k false else s.recall k) = s2
    have hkeeps : s2.mem.bytes = (s.recall k).mem.bytes ∧ s2.mem.accesses = (s.recall k).mem.accesses ∧ s2.sync = (s.recall k).sync := by
      rw [← hs2]
      split <;> exact ⟨rfl, rfl, rfl⟩
    obtain ⟨hbytes, hacc, hsync⟩ := hkeeps
    have hlines : ∀ x ∈ (k, j) :: l, s2.lineOf x.1 = none := fun x hx => (lineOf_of_sync hsync _).trans (recall_lineOf s (hcells x hx))
    simp only [hs2, foldl_writeByte (g := Prod.fst) (v := fun x => nthD (s.dataOf a) x.2 0) hlines]
    split <;> simp [hbytes, hacc, hsync, haccesses]

section
variable {s : State} {a : Access} {q : Piece} {k j : Nat} (hhead : q.cells.head? = some (k, j)) (hcells : ∀ c ∈ q.cells, c.1 / 64 = k / 64)
  (hwf : Memory.wf s.mem.bytes = true)
include hhead hcells hwf

theorem writePiece_readByte {c : Nat × Nat} (hd : (q.cells.map Prod.fst).Nodup) (hc : c ∈ q.cells) :
    (s.writePiece a q).readByte c.1 = nthD (s.dataOf a) c.2 0 := by
  obtain ⟨hbytes, -, hsync⟩ := writePiece_spec (s := s) (a := a) hhead hcells
  have hline : (s.writePiece a q).lineOf c.1 = none := (lineOf_of_sync hsync _).trans (recall_lineOf s (hcells c hc))
  simp only [State.readByte, hline, hbytes]
  exact Memory.read_writes_of_mem (v := fun x : Nat × Nat => nthD (s.dataOf a) x.2 0) hd (recall_wf hwf k) hc

theorem writePiece_readByte_of_ne {key : Nat} (hagree : s.lineAgrees k) (h : ∀ c ∈ q.cells, c.1 ≠ key) :
    (s.writePiece a q).readByte key = s.readByte key := by
  obtain ⟨hbytes, -, hsync⟩ := writePiece_spec (s := s) (a := a) hhead hcells
  rw [← recall_readByte hwf hagree]
  simp only [State.readByte, lineOf_of_sync hsync, hbytes, Memory.read_writes_of_ne h]

end

/-! ### A piece fills the buffer of its access (R241, R248) -/

section
variable {g : Nat → Byte}

theorem foldl_setAt_length (l : List (Nat × Nat)) (b : List Byte) : (l.foldl (fun b c => setAt c.2 (g c.1) b) b).length = b.length :=
  foldl_fixed List.length (fun _ _ => setAt_length ..) l b

theorem foldl_setAt_of_ne {l : List (Nat × Nat)} {i : Nat} (h : ∀ c ∈ l, c.2 ≠ i) (b : List Byte) :
    (l.foldl (fun b c => setAt c.2 (g c.1) b) b)[i]? = b[i]? := by
  induction l generalizing b with
  | nil => rfl
  | cons c l ih =>
    obtain ⟨hc, hl⟩ := List.forall_mem_cons.mp h
    rw [List.foldl_cons, ih hl, setAt_get_ne hc.symm]

theorem foldl_setAt_of_mem {l : List (Nat × Nat)} (hd : (l.map Prod.snd).Nodup) {b : List Byte} {c : Nat × Nat} (hc : c ∈ l) (hlen : c.2 < b.length) :
    (l.foldl (fun b c => setAt c.2 (g c.1) b) b)[c.2]? = some (g c.1) := by
  induction l generalizing b with
  | nil => cases hc
  | cons x l ih =>
    obtain ⟨hx, hl⟩ := List.nodup_cons.mp hd
    rcases List.mem_cons.mp hc with rfl | hc
    · have hne : ∀ z ∈ l, z.2 ≠ c.2 := fun z hz heq => hx (heq ▸ List.mem_map_of_mem (f := Prod.snd) hz)
      rw [List.foldl_cons, foldl_setAt_of_ne hne, setAt_get_same hlen]
    · exact ih hl hc (by rwa [setAt_length])

end

theorem foldl_max_of_lt {l : List (Nat × Nat)} {m : Nat} (h : ∀ c ∈ l, c.2 < m) : l.foldl (fun m c => max m (c.2 + 1)) m = m := by
  induction l with
  | nil => rfl
  | cons c l ih =>
    obtain ⟨hc, hl⟩ := List.forall_mem_cons.mp h
    rw [List.foldl_cons, max_eq_left hc, ih hl]

theorem readPiece_eq {s : State} {a : Access} {q : Piece} (hlen : ∀ c ∈ q.cells, c.2 < a.buf.length) :
    s.readPiece a q = { a with buf := q.cells.foldl (fun b c => setAt c.2 (s.homeByte c.1) b) a.buf } := by
  simp only [State.readPiece, foldl_max_of_lt hlen, Nat.sub_self, List.replicate_zero, List.append_nil]

/-- The buffer of an access once a piece at memory has filled its part. -/
theorem readPiece_buf {s : State} {a : Access} {q : Piece} {k : Nat} (hcells : ∀ c ∈ q.cells, c.1 / 64 = k / 64) (hk : homeAgent k ≠ .io)
    (hlen : ∀ c ∈ q.cells, c.2 < a.buf.length) (hd : (q.cells.map Prod.snd).Nodup) :
    ∃ buf, s.readPiece a q = { a with buf := buf } ∧ buf.length = a.buf.length ∧ (∀ c ∈ q.cells, buf[c.2]? = some (s.readByte c.1)) ∧
      ∀ i, (∀ c ∈ q.cells, c.2 ≠ i) → buf[i]? = a.buf[i]? := by
  refine ⟨_, readPiece_eq hlen, foldl_setAt_length .., fun c hc => ?_, fun i hi => foldl_setAt_of_ne hi _⟩
  rw [foldl_setAt_of_mem hd hc (hlen c hc), homeByte_of_memory (hcells c hc) hk]

/-! ### A fault of an access (R225, R229) -/

theorem dropReplies_memory (s : State) (a : Access) : (s.dropReplies a).mem = s.mem ∧ (s.dropReplies a).sync = s.sync := by
  have hunexpect : ∀ (u : State) (d : Dest), (u.unexpect d).mem = u.mem ∧ (u.unexpect d).sync = u.sync := fun u d => by
    unfold State.unexpect
    split <;> exact ⟨rfl, rfl⟩
  have hmem : (a.dests.foldl (fun s d => s.unexpect d) s).mem = s.mem := foldl_fixed State.mem (fun u d => (hunexpect u d).1) _ s
  have hsync : (a.dests.foldl (fun s d => s.unexpect d) s).sync = s.sync := foldl_fixed State.sync (fun u d => (hunexpect u d).2) _ s
  have hdrop : ∀ (u : State) (h : Word), (a.dests.foldl (fun s _ => s.dropRef h) u).mem = u.mem ∧ (a.dests.foldl (fun s _ => s.dropRef h) u).sync = u.sync :=
    fun u h => ⟨foldl_fixed State.mem (fun v _ => (dropRef_quiet 0 v h).mem) _ u, foldl_fixed State.sync (fun v _ => (dropRef_quiet 0 v h).sync) _ u⟩
  unfold State.dropReplies
  simp only
  split
  · exact ⟨(hdrop _ _).1.trans hmem, (hdrop _ _).2.trans hsync⟩
  · exact ⟨(hdrop _ _).1.trans hmem, (hdrop _ _).2.trans hsync⟩
  · exact ⟨hmem, hsync⟩

theorem markFaulted_memory (s : State) (src : Src) : (s.markFaulted src).mem = s.mem ∧ (s.markFaulted src).sync = s.sync := by
  unfold State.markFaulted
  split
  · split <;> exact ⟨rfl, rfl⟩
  · exact ⟨rfl, rfl⟩

/-- A fault of an access that is no copy's is raised at its instruction, and changes no byte. -/
theorem accessFault_spec {a : Access} (hcopy : ∀ c, a.purpose ≠ .copyRead c ∧ a.purpose ≠ .copyWrite c) (s : State) (n : Nat) (e : Fail) :
    ∃ e' : Fail, e'.code = e.code ∧ e'.detail = e.detail ∧ (s.accessFault n a e).ctxs = (s.raiseAt a.src e').ctxs ∧ SameMemory s (s.accessFault n a e) := by
  refine ⟨{ e with access := if a.stream < 8 then some (a.lsid, a.stream) else none, step := a.step }, rfl, rfl, ?_⟩
  generalize hraise : s.raiseAt a.src { e with access := if a.stream < 8 then some (a.lsid, a.stream) else none, step := a.step } = u
  have hquiet : u.mem = s.mem ∧ u.sync = s.sync := hraise ▸ ⟨(raiseAt_quiet s a.src _).mem, (raiseAt_quiet s a.src _).sync⟩
  obtain ⟨hmem, hsync⟩ := dropReplies_memory ((u.markFaulted a.src).delAccess n) a
  obtain ⟨hmarkMem, hmarkSync⟩ := markFaulted_memory u a.src
  have hends : ∀ kept : Bool,
      (if kept then u.setAccess n { a with state := .parked 0, pieces := [] } else ((u.markFaulted a.src).delAccess n).dropReplies a).ctxs = u.ctxs ∧
      SameMemory s (if kept then u.setAccess n { a with state := .parked 0, pieces := [] } else ((u.markFaulted a.src).delAccess n).dropReplies a) := by
    intro kept
    split
    · exact ⟨rfl, readByte_of_bytes (show u.mem.bytes = s.mem.bytes by rw [hquiet.1]) hquiet.2⟩
    · exact ⟨(dropReplies_ctxs _ _).trans (markFaulted_ctxs u a.src),
        readByte_of_bytes ((congrArg MemState.bytes hmem).trans (show (u.markFaulted a.src).mem.bytes = _ by rw [hmarkMem, hquiet.1]))
          (hsync.trans (hmarkSync.trans hquiet.2))⟩
  unfold State.accessFault
  split
  · next c hp => exact absurd hp (hcopy c).1
  · next c hp => exact absurd hp (hcopy c).2
  · simp only [hraise]
    exact hends _

theorem raiseAt_faults {s : State} {src : Src} {x : Ctx} (h : s.ctx? src.ctx = some x) (hx : x.state = .running) (e : Fail) :
    ∃ y, (s.raiseAt src e).ctx? src.ctx = some y ∧ y.faults = x.faults ++ [s.record src e] := by
  obtain ⟨y, hy, hfaults⟩ := raise_faults (r := s.record src e) h hx
  refine ⟨y, ?_, hfaults⟩
  rw [State.ctx?, State.raiseAt, failFrame_ctxs]
  exact hy

/-! ### A piece at its home (R229, R238, R248) -/

section
variable {s : State} {n p : Nat} {a : Access} {q : Piece} {k j : Nat} (ha : s.mem.accesses.get? n = some a) (hq : a.pieces[p]? = some q)
  (hready : s.pieceReady n a q = true) (hrefuse : s.refuses a q = false) (htraces : a.purpose.traces = false) (hio : q.home ≠ .io)
  (hhead : q.cells.head? = some (k, j)) (hcells : ∀ c ∈ q.cells, c.1 / 64 = k / 64) (hwf : Memory.wf s.mem.bytes = true) (hagree : s.lineAgrees k)
include ha hq hready hrefuse htraces hio hhead hcells

/-- A store's piece at its home: its bytes are in memory, and the access is settled. -/
theorem exec_storeAtHome {holder : Option Word} (hw : a.write = true) (hstore : a.purpose = .store holder) :
    ∃ t, exec (.memoryAccessAtHome n p) s = .next t ∧ t.mem.bytes = (s.writePiece a q).mem.bytes ∧ t.sync = (s.writePiece a q).sync ∧
      ((∃ r ∈ a.pieces.eraseIdx p, r.done = false) → t.mem.accesses.get? n = some (a.after p q a.buf)) ∧
      ((¬ ∃ r ∈ a.pieces.eraseIdx p, r.done = false) → Tab.sorted s.mem.accesses = true → t.mem.accesses.get? n = none) := by
  have hexec := exec_writeAtHome ha hq hready hrefuse htraces hio hw
  have hput := Tab.get?_put_same n (a.after p q a.buf) (s.writePiece a q).mem.accesses
  rw [donePiece_eq hq] at hexec
  by_cases hmore : ∃ r ∈ a.pieces.eraseIdx p, r.done = false
  · rw [settleAccess_after_more hput hq hmore] at hexec
    exact ⟨_, hexec, rfl, rfl, fun _ => hput, fun hlast => absurd hmore hlast⟩
  · rw [settleAccess_after_last hput hq (isActive_of_pieceReady hready) hmore] at hexec
    obtain ⟨hmem, hsync⟩ := completeAccess_store (a := a.after p q a.buf) hstore ((s.writePiece a q).setAccess n (a.after p q a.buf)) n q.home
    have hbytes := congrArg MemState.bytes hmem
    refine ⟨_, hexec, hbytes, hsync, fun h => absurd h hmore, fun _ hsorted => ?_⟩
    have hgone := congrArg (fun m => Tab.get? n m.accesses) hmem
    refine hgone.trans (Tab.get?_del_same n (Tab.put_sorted _ _ ?_))
    rw [(writePiece_spec hhead hcells).2.1]
    exact hsorted

include hwf hagree

/-- A read piece at its home: its bytes are in the buffer, and the access is settled. -/
theorem exec_loadAtHome (hr : a.write = false) (hpoison : s.poisoned k = false) (hlen : ∀ c ∈ q.cells, c.2 < a.buf.length)
    (hd : (q.cells.map Prod.snd).Nodup) :
    ∃ buf, buf.length = a.buf.length ∧ (∀ c ∈ q.cells, buf[c.2]? = some (s.readByte c.1)) ∧ (∀ i, (∀ c ∈ q.cells, c.2 ≠ i) → buf[i]? = a.buf[i]?) ∧
      exec (.memoryAccessAtHome n p) s = .next (((s.recall k).setAccess n (a.after p q buf)).settleAccess n q.home) := by
  have hkey := key_of_head hhead
  have hhome : homeAgent k ≠ .io := by
    have hne : q.cells.isEmpty = false := by
      cases hc : q.cells with
      | nil => rw [hc] at hhead; cases hhead
      | cons _ _ => rfl
    simpa [Piece.home, hne, hkey] using hio
  have hexec := exec_readAtHome ha hq hready hrefuse htraces hio hr (by rw [hkey, recall_poisoned hagree, hpoison])
  obtain ⟨buf, hread, hlength, hfilled, hrest⟩ := readPiece_buf (s := s.recall k) hcells hhome hlen hd
  rw [hkey, hread, donePiece_eq (a := { a with buf := buf }) hq] at hexec
  exact ⟨buf, hlength, fun c hc => (hfilled c hc).trans (congrArg some (recall_readByte hwf hagree c.1)), hrest, hexec⟩

end

end Sys2Proof.Machine

section
open Sys2Proof Sys2Proof.Machine

/-- Settles O26: `exec_storeAtHome` and `exec_loadAtHome` say what a piece does once its granule is back in memory, which changes no byte
(`recall_readByte`); `accessFault_spec` says what a poisoned granule raises. -/
theorem accessAtHome : Obligations.AccessAtHome := by
  intro s n p a q k j ha hq hready hrefuse htraces hhead hcells hio hwf hlen hagree more
  have hkey := key_of_head hhead
  refine ⟨fun hw ⟨holder, hstore⟩ hd => ?_, fun size sx hlast hr hscalar hpoison hd hs => ?_, fun hmore hr hpoison hd => ?_, fun hr hpoison hcopy => ?_⟩
  · obtain ⟨t, hexec, hbytes, hsync, hpending, hgone⟩ := exec_storeAtHome ha hq hready hrefuse htraces hio hhead hcells hw hstore
    have hread : ∀ key, t.readByte key = (s.writePiece a q).readByte key := readByte_of_bytes hbytes hsync
    have hdata : s.dataOf a = a.buf := by simp only [State.dataOf, hstore]
    refine ⟨t, hexec, hpending, hgone, ?_, fun c hc => ?_, fun key hkey => ?_⟩
    · rw [lineOf_of_sync (hsync.trans (writePiece_spec hhead hcells).2.2), recall_lineOf s rfl]
    · rw [hread, writePiece_readByte hhead hcells hwf hd hc, hdata, nthD, List.getElem?_eq_getElem (hlen c hc), Option.getD_some]
    · rw [hread, writePiece_readByte_of_ne hhead hcells hwf hagree hkey]
  · obtain ⟨buf, hlength, hfilled, hrest, hexec⟩ :=
      exec_loadAtHome ha hq hready hrefuse htraces hio hhead hcells hwf hagree hr hpoison hlen hd
    refine ⟨buf, hlength, hfilled, hrest, hexec.trans (congrArg _ ?_)⟩
    have haccesses : (s.recall k).mem.accesses = s.mem.accesses := by rw [recall_only s k]
    rw [settleAccess_after_last (Tab.get?_put_same ..) hq (isActive_of_pieceReady hready) hlast,
      completeAccess_scalar (a := a.after p q buf) hscalar, delAccess_setAccess (haccesses ▸ hs) (haccesses ▸ ha)]
    rfl
  · obtain ⟨buf, hlength, hfilled, hrest, hexec⟩ :=
      exec_loadAtHome ha hq hready hrefuse htraces hio hhead hcells hwf hagree hr hpoison hlen hd
    rw [settleAccess_after_more (Tab.get?_put_same ..) hq hmore] at hexec
    exact ⟨_, buf, hexec, recall_lineOf s rfl, Tab.get?_put_same .., hlength, hfilled, hrest, recall_readByte hwf hagree⟩
  · have hexec := exec_poisonedAtHome ha hq hready hrefuse htraces hio hr (by rw [hkey, recall_poisoned hagree, hpoison])
    rw [hkey] at hexec
    obtain ⟨e, hcode, hdetail, hctxs, hsame⟩ := accessFault_spec hcopy s n { code := .uncorrectable, detail := wordOf (k / 64 * 64) }
    refine ⟨_, hexec, hsame, fun x hx hrun => ?_⟩
    obtain ⟨y, hy, hfaults⟩ := raiseAt_faults hx hrun e
    exact ⟨y, _, (congrArg (Tab.get? a.src.ctx) hctxs).trans hy, hfaults, hcode, hdetail⟩
end

/-! ## Apertures (R230, O51)

The aperture of a PE changes by a write of its size alone: nothing that a register write completes, be it the copy, the context instruction or the fault
of an access, reaches the sizes. -/

namespace Sys2Proof.Machine

/-! ### Memory, messages and references -/

theorem Quiet.regs0 {k : Nat} {s t : State} (h : Quiet k s t) : t.pe.regs0 = s.pe.regs0 := by rw [h.pe]

theorem State.sameButBytes.regs0 {s t : State} (h : s.sameButBytes t) : t.pe.regs0 = s.pe.regs0 := by rw [h]

theorem foldl_regs0 {α : Type} {g : State → α → State} (hg : ∀ s a, (g s a).pe.regs0 = s.pe.regs0) (l : List α) (s : State) :
    (l.foldl g s).pe.regs0 = s.pe.regs0 := foldl_fixed (fun s : State => s.pe.regs0) hg l s

theorem ite_regs0 {c : Prop} [Decidable c] {r : Tab Nat} {a b : State} (ha : a.pe.regs0 = r) (hb : b.pe.regs0 = r) :
    (if c then a else b).pe.regs0 = r := by
  split
  · exact ha
  · exact hb

@[simp] theorem modCtx_regs0 (s : State) (c : Nat) (g : Ctx → Ctx) : (s.modCtx c g).pe.regs0 = s.pe.regs0 := congrArg PeStore.regs0 (modCtx_pe s c g)

@[simp] theorem modFrame_regs0 (s : State) (k : Nat) (g : Frame → Frame) : (s.modFrame k g).pe.regs0 = s.pe.regs0 := by
  unfold State.modFrame
  split <;> rfl

@[simp] theorem regs0_ite {c : Prop} [Decidable c] (a b : State) : (if c then a else b).pe.regs0 = if c then a.pe.regs0 else b.pe.regs0 :=
  apply_ite (fun u : State => u.pe.regs0) c a b

@[simp] theorem writeByte_regs0 (s : State) (k : Nat) (v : Byte) : (s.writeByte k v).pe.regs0 = s.pe.regs0 := (writeByte_only s k v).regs0
@[simp] theorem write64_regs0 (s : State) (k v : Nat) : (s.write64 k v).pe.regs0 = s.pe.regs0 := (write64_only s k v).regs0
@[simp] theorem writeBytes_regs0 (s : State) (k : Nat) (l : List Byte) : (s.writeBytes k l).pe.regs0 = s.pe.regs0 := (writeBytes_only s k l).regs0
@[simp] theorem writeRuns_regs0 (s : State) (ks : List (Nat × Nat)) (l : List Byte) : (s.writeRuns ks l).pe.regs0 = s.pe.regs0 := (writeRuns_only s ks l).regs0
@[simp] theorem markAt_regs0 (s : State) (k idx : Nat) (st : IStat) : (s.markAt k idx st).pe.regs0 = s.pe.regs0 := modFrame_regs0 ..
@[simp] theorem setStat_regs0 (s : State) (k idx : Nat) (st : IStat) : (s.setStat k idx st).pe.regs0 = s.pe.regs0 := modFrame_regs0 ..
@[simp] theorem dropRef_regs0 (s : State) (h : Word) : (s.dropRef h).pe.regs0 = s.pe.regs0 := (dropRef_quiet 0 s h).regs0
@[simp] theorem release_regs0 (s : State) (pe : Nat) (h : Word) : (s.release pe h).pe.regs0 = s.pe.regs0 := (release_quiet 0 s pe h).regs0
@[simp] theorem dropTok_regs0 (s : State) (pe : Nat) (t : Tok) : (s.dropTok pe t).pe.regs0 = s.pe.regs0 := (dropTok_quiet 0 s pe t).regs0
@[simp] theorem dropToks_regs0 (s : State) (pe : Nat) (l : List Tok) : (s.dropToks pe l).pe.regs0 = s.pe.regs0 := (dropToks_quiet 0 s pe l).regs0
@[simp] theorem raise_regs0 (s : State) (r : FaultRec) : (s.raise r).pe.regs0 = s.pe.regs0 := (raise_quiet 0 s r).regs0
@[simp] theorem raiseAt_regs0 (s : State) (src : Src) (e : Fail) : (s.raiseAt src e).pe.regs0 = s.pe.regs0 := (raiseAt_quiet s src e).regs0
@[simp] theorem raiseHeader_regs0 (s : State) (src : Src) (e : Fail) : (s.raiseHeader src e).pe.regs0 = s.pe.regs0 := raise_regs0 s _
@[simp] theorem raiseHeld_regs0 (s : State) (r : FaultRec) : (s.raiseHeld r).pe.regs0 = s.pe.regs0 := raise_regs0 s _
@[simp] theorem branchResolved_regs0 (s : State) (k idx : Nat) : (s.branchResolved k idx).pe.regs0 = s.pe.regs0 := (branchResolved_quiet s k idx).regs0

@[simp] theorem modTask_regs0 (s : State) (pe t : Nat) (g : Task → Task) : (s.modTask pe t g).pe.regs0 = s.pe.regs0 := by
  unfold State.modTask
  split <;> rfl

@[simp] theorem reply_regs0 (s : State) (a : Agent) (cls : Nat) (ds : List Dest) (t : Tok) (src : Src) : (s.reply a cls ds t src).pe.regs0 = s.pe.regs0 :=
  foldl_regs0 (fun _ _ => congrArg PeStore.regs0 (post_pe ..)) ds s

@[simp] theorem countWrite_regs0 (s : State) (home : Agent) (keys : List Nat) : (s.countWrite home keys).pe.regs0 = s.pe.regs0 :=
  foldl_regs0 (fun _ _ => by simp) _ s

@[simp] theorem storeRuns_regs0 (s : State) (ks : List (Nat × Nat)) (l : List Byte) : (s.storeRuns ks l).pe.regs0 = s.pe.regs0 :=
  (foldl_regs0 (fun _ _ => countWrite_regs0 ..) _ _).trans (writeRuns_regs0 s ks l)

@[simp] theorem clearCovered_regs0 (s : State) (ks : List (Nat × Nat)) : (s.clearCovered ks).pe.regs0 = s.pe.regs0 := by
  refine foldl_regs0 (fun s r => foldl_regs0 (fun s i => ?_) _ s) _ s
  exact ite_regs0 rfl rfl

/-- The stop area is written as memory is (R396). -/
@[simp] theorem stopWrite_regs0 (s : State) (c off : Nat) (l : List Byte) : ((s.stopWrite c off l).getD s).pe.regs0 = s.pe.regs0 := by
  unfold State.stopWrite
  split
  · rfl
  · split
    · split
      · rfl
      · simp
    · rfl

/-! ### Activations -/

@[simp] theorem unexpect_regs0 (s : State) (d : Dest) : (s.unexpect d).pe.regs0 = s.pe.regs0 := by
  unfold State.unexpect
  split <;> rfl

@[simp] theorem dropReplies_regs0 (s : State) (a : Access) : (s.dropReplies a).pe.regs0 = s.pe.regs0 := by
  have hdests : (a.dests.foldl (fun s d => s.unexpect d) s).pe.regs0 = s.pe.regs0 := foldl_regs0 unexpect_regs0 _ s
  have hrefs : ∀ (u : State) (h : Word), (a.dests.foldl (fun s _ => s.dropRef h) u).pe.regs0 = u.pe.regs0 := fun u h =>
    foldl_regs0 (fun v _ => dropRef_regs0 v h) _ u
  unfold State.dropReplies
  simp only
  split
  · exact (hrefs _ _).trans hdests
  · exact (hrefs _ _).trans hdests
  · exact hdests

@[simp] theorem dropAccesses_regs0 (s : State) (uid : Nat) : (s.dropAccesses uid).pe.regs0 = s.pe.regs0 := by
  refine foldl_regs0 (fun s p => ?_) _ s
  exact ite_regs0 (dropReplies_regs0 (s.delAccess p.1) p.2) rfl

@[simp] theorem dropRequests_regs0 (s : State) (uid : Nat) : (s.dropRequests uid).pe.regs0 = s.pe.regs0 := foldl_regs0 unexpect_regs0 _ _

@[simp] theorem tellHeads_regs0 (s : State) (pe q : Nat) : (s.tellHeads pe q).pe.regs0 = s.pe.regs0 := by
  refine foldl_regs0 (fun s p => ?_) _ s
  split
  · exact ite_regs0 rfl rfl
  · rfl

@[simp] theorem unreserve_regs0 (s : State) (pe uid : Nat) (e : Effect) : (s.unreserve pe uid e).pe.regs0 = s.pe.regs0 := by
  cases e with
  | ringCfg q old => exact ite_regs0 (tellHeads_regs0 ..) rfl
  | _ => rfl

@[simp] theorem dropRings_regs0 (s : State) (pe uid : Nat) : (s.dropRings pe uid).pe.regs0 = s.pe.regs0 := rfl
@[simp] theorem revertAccs_regs0 (s : State) (pe uid : Nat) : (s.revertAccs pe uid).pe.regs0 = s.pe.regs0 := rfl

@[simp] theorem discardFrame_regs0 (s : State) (k : Nat) : (s.discardFrame k).pe.regs0 = s.pe.regs0 := by
  unfold State.discardFrame
  split
  · rfl
  · exact (foldl_regs0 (fun _ _ => unreserve_regs0 ..) _ _).trans (by simp)

@[simp] theorem voidStore_regs0 (s : State) (k idx : Nat) : (s.voidStore k idx).pe.regs0 = s.pe.regs0 := by
  unfold State.voidStore
  split <;> simp

@[simp] theorem mismatch_regs0 (s : State) (key idx : Nat) (i : Instr) (toks : List Tok) : (s.mismatch key idx i toks).pe.regs0 = s.pe.regs0 := by
  simp [State.mismatch]

@[simp] theorem markFaulted_regs0 (s : State) (src : Src) : (s.markFaulted src).pe.regs0 = s.pe.regs0 := by
  unfold State.markFaulted
  split <;> simp

@[simp] theorem noteStore_regs0 (s : State) (src : Src) (lsid stream : Nat) (cells : List (Nat × Nat)) (scalar : Bool) (data : Option (List Byte))
    (holder : Option Word) : (s.noteStore src lsid stream cells scalar data holder).pe.regs0 = s.pe.regs0 := by
  unfold State.noteStore
  simp only
  split
  · rfl
  · split <;> rfl

@[simp] theorem addRefs_regs0 (s : State) (l : List Tok) : ((s.addRefs l).getD s).pe.regs0 = s.pe.regs0 := by
  cases h : s.addRefs l with
  | none => rfl
  | some u => exact (addRefs_quiet (k := 0) h).regs0

@[simp] theorem regain_regs0 (s : State) (c : Nat) : (s.regain c).pe.regs0 = s.pe.regs0 :=
  foldl_regs0 (fun _ _ => ite_regs0 (foldl_regs0 (fun _ _ => addRefs_regs0 ..) _ _) rfl) _ s

/-! ### Copies and faults of accesses -/

@[simp] theorem queueError_regs0 (s : State) (qi slot code : Nat) : (s.queueError qi slot code).pe.regs0 = s.pe.regs0 := by
  unfold State.queueError
  split <;> simp

@[simp] theorem abortCopy_regs0 (s : State) (c : Nat) (e : Fail) : (s.abortCopy c e).pe.regs0 = s.pe.regs0 := by
  unfold State.abortCopy
  split
  · rfl
  · refine ite_regs0 rfl ?_
    simp only
    split
    · exact raiseAt_regs0 ..
    · exact queueError_regs0 ..

@[simp] theorem accessFault_regs0 (s : State) (n : Nat) (a : Access) (e : Fail) : (s.accessFault n a e).pe.regs0 = s.pe.regs0 := by
  unfold State.accessFault
  split
  · exact abortCopy_regs0 ..
  · exact abortCopy_regs0 ..
  · refine ite_regs0 (raiseAt_regs0 ..) ((dropReplies_regs0 ..).trans ?_)
    exact (markFaulted_regs0 ..).trans (raiseAt_regs0 ..)

@[simp] theorem pump_regs0 (s : State) (n fuel : Nat) : (s.pump n fuel).pe.regs0 = s.pe.regs0 := by
  induction fuel generalizing s with
  | zero => rfl
  | succ fuel ih =>
    unfold State.pump
    split
    · rfl
    · split
      · simp [ih]
      · rfl

@[simp] theorem pumpAll_regs0 (s : State) (n : Nat) : (s.pumpAll n).pe.regs0 = s.pe.regs0 := by
  unfold State.pumpAll
  split <;> simp

@[simp] theorem takeGroup_regs0 (s : State) (q : CopyQueue) (k m : Nat) : (s.takeGroup q k m).pe.regs0 = s.pe.regs0 :=
  (write64_regs0 ..).trans (foldl_regs0 (fun _ _ => writeByte_regs0 ..) _ s)

@[simp] theorem countCompleted_regs0 (s : State) (q : CopyQueue) : (s.countCompleted q).pe.regs0 = s.pe.regs0 := write64_regs0 ..

/-- Of the unit's loop, as for its contexts: through the functional of its recursion. -/
theorem serveQueue_f_regs0 (qi n : Nat) (x : Nat.below (motive := fun _ => State → State) (n + 1)) (hx : ∀ u : State, (x.1 u).pe.regs0 = u.pe.regs0)
    (s : State) : (State.serveQueue._f qi (n + 1) x s).pe.regs0 = s.pe.regs0 := by
  unfold State.serveQueue._f
  simp only
  split
  · rfl
  · refine ite_regs0 rfl (ite_regs0 ?_ ?_)
    · simp [hx]
    · split
      · simp [hx]
      · exact (hx _).trans (ite_regs0 (by simp) (by simp))

@[simp] theorem serve_regs0 (s : State) (qi : Nat) : (s.serve qi).pe.regs0 = s.pe.regs0 := by
  have hloop : ∀ (u : State) (fuel : Nat), (u.serveQueue qi fuel).pe.regs0 = u.pe.regs0 := fun u fuel => by
    have hstep := brecOn_of_step (F := State.serveQueue._f qi) (p := fun g => ∀ u : State, (g u).pe.regs0 = u.pe.regs0) (fun _ => rfl)
      (fun n x hx => serveQueue_f_regs0 qi n x hx) fuel
    delta State.serveQueue
    exact hstep u
  unfold State.serve
  split
  · exact hloop ..
  · rfl

@[simp] theorem servePe_regs0 (s : State) (pe : Nat) : (s.servePe pe).pe.regs0 = s.pe.regs0 := by
  unfold State.servePe
  exact foldl_regs0 (fun _ _ => serve_regs0 ..) _ s

@[simp] theorem copyResume_regs0 (s : State) (c : Nat) : (s.copyResume c).pe.regs0 = s.pe.regs0 := by
  unfold State.copyResume
  refine foldl_regs0 (fun s p => ?_) _ s
  split <;> simp


/-! ### Barriers and channels -/

@[simp] theorem traceReq_regs0 (s : State) (src : Src) (part pa : Nat) (p : AtomFor) : (s.traceReq src part pa p).pe.regs0 = s.pe.regs0 := by
  unfold State.traceReq
  split <;> rfl

@[simp] theorem answered_regs0 (s : State) (src : Src) : (s.answered src).pe.regs0 = s.pe.regs0 := by
  unfold State.answered
  split <;> simp

@[simp] theorem barRelease1_regs0 (s : State) (rec_ : Nat) (a : BarArr) : (s.barRelease1 rec_ a).pe.regs0 = s.pe.regs0 := by
  unfold State.barRelease1
  split
  · rfl
  · split <;> simp

@[simp] theorem barAdopt_regs0 (s : State) (rec_ : Nat) : (s.barAdopt rec_).pe.regs0 = s.pe.regs0 := by
  unfold State.barAdopt State.barReleaseAll State.barReleaseAt
  simp only
  split
  · exact foldl_regs0 (fun _ _ => barRelease1_regs0 ..) _ _
  · exact foldl_regs0 (fun _ _ => congrArg PeStore.regs0 (post_pe ..)) _ _

@[simp] theorem barResume_regs0 (s : State) (c : Nat) : (s.barResume c).pe.regs0 = s.pe.regs0 := by
  refine foldl_regs0 (fun s p => ?_) _ s
  exact foldl_regs0 (fun _ _ => barRelease1_regs0 ..) _ _

@[simp] theorem tellWriter_regs0 (s : State) (ch : Nat) (c : Chan) (off : Bool) : (s.tellWriter ch c off).pe.regs0 = s.pe.regs0 := by
  unfold State.tellWriter
  split <;> rfl

@[simp] theorem maybeXon_regs0 (s : State) (ch : Nat) : (s.maybeXon ch).pe.regs0 = s.pe.regs0 := by
  unfold State.maybeXon
  split <;> simp

@[simp] theorem answerNone_regs0 (s : State) (c : Chan) (r : RecvReq) (v : Word) : (s.answerNone c r v).pe.regs0 = s.pe.regs0 := by
  simp [State.answerNone]

@[simp] theorem answer_regs0 (s : State) (c : Chan) (r : RecvReq) (e : Elem) : (s.answer c r e).pe.regs0 = s.pe.regs0 := by
  unfold State.answer
  rw [reply_regs0]
  exact ite_regs0 (foldl_regs0 (fun _ _ => congrArg PeStore.regs0 (post_pe ..)) _ s) (reply_regs0 ..)

@[simp] theorem serveChan_regs0 (s : State) (ch n : Nat) : (s.serveChan ch n).pe.regs0 = s.pe.regs0 := by
  induction n generalizing s with
  | zero => rfl
  | succ n ih =>
    unfold State.serveChan
    split
    · rfl
    · split
      · rfl
      · split
        · rfl
        · split <;> simp [ih]

@[simp] theorem serveAll_regs0 (s : State) (ch : Nat) : (s.serveAll ch).pe.regs0 = s.pe.regs0 := by simp [State.serveAll]

@[simp] theorem releaseEndpoints_regs0 (s : State) (pe task : Nat) : (s.releaseEndpoints pe task).pe.regs0 = s.pe.regs0 := by
  unfold State.releaseEndpoints State.dropEndpoints
  refine foldl_regs0 (fun s e => ?_) _ s
  split <;> rfl

@[simp] theorem faultParked_regs0 (s : State) (code : Code) (p : Nat × Nat) : (s.faultParked code p).pe.regs0 = s.pe.regs0 := by
  unfold State.faultParked
  split <;> simp

@[simp] theorem freeChan_regs0 (s : State) (ch : Nat) : (s.freeChan ch).pe.regs0 = s.pe.regs0 := by
  unfold State.freeChan
  split
  · exact modCtx_regs0 ..
  · rfl

@[simp] theorem settleChan_regs0 (s : State) (ch : Nat) : (s.settleChan ch).pe.regs0 = s.pe.regs0 := by
  unfold State.settleChan State.freeIfDone
  split <;> simp

@[simp] theorem destroyChan_regs0 (s : State) (ch : Nat) : (s.destroyChan ch).pe.regs0 = s.pe.regs0 := by
  unfold State.destroyChan
  split
  · rfl
  · rename_i c _
    extract_lets s1 s2
    have hnone : s1.pe.regs0 = s.pe.regs0 := foldl_regs0 (fun u r => answerNone_regs0 u c r 2) _ s
    have hsends : s2.pe.regs0 = s1.pe.regs0 := foldl_regs0 (fun u p => faultParked_regs0 u .channelState p) _ s1
    exact (freeChan_regs0 ..).trans (hsends.trans hnone)

@[simp] theorem destroyChansOf_regs0 (s : State) (c : Nat) : (s.destroyChansOf c).pe.regs0 = s.pe.regs0 := by
  refine foldl_regs0 (fun s p => ?_) _ s
  exact ite_regs0 (destroyChan_regs0 ..) rfl

@[simp] theorem chanResume_regs0 (s : State) : s.chanResume.pe.regs0 = s.pe.regs0 := foldl_regs0 (fun _ _ => settleChan_regs0 ..) _ s

/-! ### Tasks and queues -/

@[simp] theorem putRecord_regs0 (s : State) (c : Nat) (r : Rec) (quad : Nat) (tag : Option Nat) (image : Option (List Tok × Nat)) :
    (s.putRecord c r quad tag image).pe.regs0 = s.pe.regs0 := rfl
@[simp] theorem waitRoom_regs0 (s : State) (c : Nat) (r : Rec) (quad : Nat) (tag : Option Nat) (image : Option (List Tok × Nat)) :
    (s.waitRoom c r quad tag image).pe.regs0 = s.pe.regs0 := rfl

@[simp] theorem requeue_regs0 (s : State) (c : Nat) (r : Rec) (quad : Nat) (image : Option (List Tok × Nat)) :
    (s.requeue c r quad image).pe.regs0 = s.pe.regs0 := by
  simp [State.requeue]

@[simp] theorem hwEnqueue_regs0 (s : State) (c : Nat) (r : Rec) (quad : Nat) (named : Bool) : (s.hwEnqueue c r quad named).pe.regs0 = s.pe.regs0 := by
  unfold State.hwEnqueue
  split
  · rfl
  · simp

@[simp] theorem hwEnqueueAt_regs0 (s : State) (c va quad : Nat) (g1 : Option Word) : (s.hwEnqueueAt c va quad g1).pe.regs0 = s.pe.regs0 := by
  unfold State.hwEnqueueAt
  split
  · exact raiseHeader_regs0 ..
  · split
    · exact raiseHeader_regs0 ..
    · exact hwEnqueue_regs0 ..

@[simp] theorem enqueueHeld_regs0 (s : State) : s.enqueueHeld.pe.regs0 = s.pe.regs0 := by
  unfold State.enqueueHeld
  refine foldl_regs0 (fun s w => ?_) _ s
  split <;> rfl

@[simp] theorem endDep_regs0 (s : State) (key : Nat) : (s.endDep key).pe.regs0 = s.pe.regs0 := by
  unfold State.endDep
  split
  · rfl
  · split <;> rfl

@[simp] theorem releaseRings_regs0 (s : State) (c pe t : Nat) : (s.releaseRings c pe t).pe.regs0 = s.pe.regs0 := by
  unfold State.releaseRings
  refine foldl_regs0 (fun s q => ?_) _ s
  split <;> simp

@[simp] theorem dropLoop_regs0 (s : State) (pe t : Nat) : (s.dropLoop pe t).pe.regs0 = s.pe.regs0 := by
  unfold State.dropLoop
  split
  · rfl
  · split <;> simp

@[simp] theorem setSpillBytes_regs0 (s : State) (key : Nat) (l : List Byte) : (s.setSpillBytes key l).pe.regs0 = s.pe.regs0 := rfl

@[simp] theorem restoreAcc_regs0 (s : State) (pe z : Nat) : (s.restoreAcc pe z).pe.regs0 = s.pe.regs0 := by
  unfold State.restoreAcc
  simp only
  split <;> simp [State.setSpill]

@[simp] theorem releaseAccs_regs0 (s : State) (c pe t : Nat) : (s.releaseAccs c pe t).pe.regs0 = s.pe.regs0 := by
  unfold State.releaseAccs
  refine foldl_regs0 (fun s z => ?_) _ s
  simp only
  refine ite_regs0 (by simp) ?_
  split <;> simp

@[simp] theorem releaseTask_regs0 (s : State) (pe t : Nat) : (s.releaseTask pe t).pe.regs0 = s.pe.regs0 := by
  unfold State.releaseTask
  split <;> simp

@[simp] theorem lastSend_regs0 (s : State) (pe t : Nat) (tk : Task) (code : Nat) : (s.lastSend pe t tk code).pe.regs0 = s.pe.regs0 := by
  have hsend : ∀ (u : State) (va len at_ : Nat) (m : List (Nat × Nat) → Msg), (if !canonicalSpan va len then u
      else match u.checkHome tk.ctx pe .object va len with
        | .ok ks => u.post (.pe pe) (engineAgent (runAt ks at_)) 7 (m ks)
        | _ => u).pe.regs0 = u.pe.regs0 := by
    intro u va len at_ m
    refine ite_regs0 rfl ?_
    split <;> rfl
  unfold State.lastSend
  exact ite_regs0 (ite_regs0 (hsend s _ _ _ _) rfl) ((hsend _ _ _ _ _).trans (ite_regs0 (hsend s _ _ _ _) rfl))

@[simp] theorem destroyTask_regs0 (s : State) (pe t code : Nat) : (s.destroyTask pe t code).pe.regs0 = s.pe.regs0 := by
  unfold State.destroyTask
  split
  · rfl
  · rename_i tk _
    refine (lastSend_regs0 _ pe t tk (tk.abnormal.getD code)).trans ?_
    split
    · exact (endDep_regs0 ..).trans (releaseTask_regs0 ..)
    · exact releaseTask_regs0 ..

/-! ### Contexts -/

@[simp] theorem deliverCalls_regs0 (s : State) (c : Nat) : (s.deliverCalls c).pe.regs0 = s.pe.regs0 := by
  refine foldl_regs0 (fun s p => ?_) _ s
  simp

@[simp] theorem abandon_regs0 (s : State) (c pe t code : Nat) : (s.abandon c pe t code).pe.regs0 = s.pe.regs0 := by
  unfold State.abandon
  split
  · rfl
  · refine ite_regs0 rfl ((modTask_regs0 ..).trans ((modCtx_regs0 ..).trans ?_))
    exact foldl_regs0 (fun _ _ => discardFrame_regs0 ..) _ s

@[simp] theorem skipCause_regs0 (s : State) (c : Nat) (r : FaultRec) : (s.skipCause c r).pe.regs0 = s.pe.regs0 := by
  unfold State.skipCause
  split
  · refine ite_regs0 ?_ (modCtx_regs0 ..)
    split <;> simp
  · exact modCtx_regs0 ..

@[simp] theorem queueImages_regs0 (s : State) (c : Nat) : (s.queueImages c).pe.regs0 = s.pe.regs0 := by
  unfold State.queueImages
  split
  · rfl
  · refine (foldl_regs0 (fun s p => ?_) _ _).trans (modCtx_regs0 ..)
    split <;> simp

@[simp] theorem resumeShared_regs0 (s : State) (c : Nat) : (s.resumeShared c).pe.regs0 = s.pe.regs0 := by
  unfold State.resumeShared
  split
  · rfl
  · extract_lets s1 frames queue pe2 mem2 s2 s3 held raised pe4 s4
    have h2 : s2.pe.regs0 = s.pe.regs0 := regain_regs0 s c
    have h3 : s3.pe.regs0 = s2.pe.regs0 := by simp [s3]
    exact (foldl_regs0 raiseHeld_regs0 held s4).trans (h3.trans h2)

@[simp] theorem destroyContext_regs0 (s : State) (c : Nat) : (s.destroyContext c).pe.regs0 = s.pe.regs0 := by
  unfold State.destroyContext
  split
  · rfl
  · extract_lets code s0 s1 s2 s3 s4 s5 s6 s7 pes
    have h0 : s0.pe.regs0 = s.pe.regs0 := stopWrite_regs0 s c 0 _
    have h1 : s1.pe.regs0 = s0.pe.regs0 := foldl_regs0 (fun _ _ => ite_regs0 (discardFrame_regs0 ..) rfl) _ s0
    have h2 : s2.pe.regs0 = s1.pe.regs0 := foldl_regs0 (fun _ _ => ite_regs0 (destroyTask_regs0 ..) rfl) _ s1
    have h3 : s3.pe.regs0 = s2.pe.regs0 := destroyChansOf_regs0 ..
    have h4 : s4.pe.regs0 = s3.pe.regs0 := by
      refine foldl_regs0 (fun u p => ?_) _ s3
      exact ite_regs0 rfl rfl
    have h7 : s7.pe.regs0 = s4.pe.regs0 := foldl_regs0 (fun _ _ => settleChan_regs0 ..) _ s6
    rw [enqueueHeld_regs0]
    exact (foldl_regs0 servePe_regs0 pes s7).trans (h7.trans (h4.trans (h3.trans (h2.trans (h1.trans h0)))))

@[simp] theorem resumeContext_regs0 (s : State) (c mode : Nat) (src : Src) : (s.resumeContext c mode src).pe.regs0 = s.pe.regs0 := by
  unfold State.resumeContext
  split
  · rfl
  · refine ite_regs0 rfl (ite_regs0 (destroyContext_regs0 ..) (ite_regs0 rfl (ite_regs0 ?_ (ite_regs0 ?_ (by simp)))))
    · split
      · exact ite_regs0 (by simp) (raiseAt_regs0 ..)
      · exact raiseAt_regs0 ..
    · simp only [deliverCalls_regs0, resumeShared_regs0]
      exact foldl_regs0 (fun _ _ => ite_regs0 (abandon_regs0 ..) rfl) _ s

@[simp] theorem haltRequest_regs0 (s : State) (c mode : Nat) : (s.haltRequest c mode).pe.regs0 = s.pe.regs0 := by
  unfold State.haltRequest
  split
  · rfl
  · exact ite_regs0 rfl (ite_regs0 rfl (ite_regs0 rfl rfl))

@[simp] theorem createContext_regs0 (s : State) (l : List Byte) (pa creator part fltq quad : Nat) (host : Bool) :
    (s.createContext l pa creator part fltq quad host).1.pe.regs0 = s.pe.regs0 := by
  unfold State.createContext
  simp only
  split
  · exact write64_regs0 ..
  · exact ite_regs0 (write64_regs0 ..) ((hwEnqueueAt_regs0 ..).trans (write64_regs0 ..))

@[simp] theorem contextOp_regs0 (s : State) (op : CtxOp) (src : Src) (buf : List Byte) (pa : Nat) : (s.contextOp op src buf pa).pe.regs0 = s.pe.regs0 := by
  unfold State.contextOp
  cases op with
  | new d =>
    simp only
    split <;> simp
  | halt c mode =>
    simp only
    split <;> simp
  | resume c mode =>
    simp only
    split <;> simp

/-! ### What a completed access brings about -/

@[simp] theorem fillTile_regs0 (s : State) (slot : Nat) (h : Word) (img : BitVec 16) (buf : List Byte) : (s.fillTile slot h img buf).pe.regs0 = s.pe.regs0 := by
  unfold State.fillTile
  split <;> rfl

theorem completeAccess_regs0 (s : State) (n : Nat) (a : Access) (home : Agent) : (s.completeAccess n a home).pe.regs0 = s.pe.regs0 := by
  unfold State.completeAccess
  extract_lets s1
  split
  · exact reply_regs0 ..
  · exact (reply_regs0 ..).trans (fillTile_regs0 ..)
  · extract_lets w
    split
    · exact accessFault_regs0 ..
    · rfl
  · extract_lets w
    split
    · exact accessFault_regs0 ..
    · exact noteStore_regs0 ..
  · rfl
  · split
    · exact release_regs0 ..
    · rfl
  · split
    · exact pumpAll_regs0 ..
    · rfl
  · rfl
  · exact contextOp_regs0 s1 ..
  · exact traceReq_regs0 ..
  · exact ite_regs0 (barAdopt_regs0 ..) rfl

theorem performed_regs0 (s : State) (acc : Option (Nat × Nat)) : (s.performed acc).pe.regs0 = s.pe.regs0 := by
  have hsettle : ∀ (u : State) (n : Nat) (home : Agent), (u.settleAccess n home).pe.regs0 = u.pe.regs0 := fun u n home => by
    unfold State.settleAccess
    split
    · exact ite_regs0 (completeAccess_regs0 u n _ home) rfl
    · rfl
  unfold State.performed
  split
  · rfl
  · split
    · exact hsettle (s.setAccess ..) _ .io
    · rfl

end Sys2Proof.Machine

namespace Sys2Proof

theorem Tab.get?_filter {α : Type} {p : Nat × α → Bool} {k : Nat} {b : Bool} (h : ∀ v, p (k, v) = b) (t : Tab α) :
    Tab.get? k (t.filter p) = if b then Tab.get? k t else none := by
  induction t with
  | nil => cases b <;> rfl
  | cons q t ih =>
    obtain ⟨j, v⟩ := q
    by_cases hj : j = k
    · subst hj
      cases b <;> simp [h v, Tab.get?, ih]
    · cases hp : p (j, v) <;> simp [hp, Tab.get?, hj, ih]

end Sys2Proof

namespace Sys2Proof.Machine

/-! ## Device registers, the bridge and ownership (O51) -/

/-! ### Writes of registers (R230, R470, R472, R482) -/

section
variable {s : State} {n off : Nat} {data : List Byte} {part : Option Nat} {acc : Option (Nat × Nat)}

theorem regWrite_eq (h : s.devMsg n = some (off, data, part, acc)) (g : Nat → List Byte → Option Nat → State → Option State) :
    s.regWrite n g = (g off data part (s.taken n)).map fun t => t.performed acc := by
  simp only [State.regWrite, h]

theorem exec_apertureSizeWrite (h : s.devMsg n = some (off, data, part, acc)) {pe : Nat} (hk : devKind off = .aperture pe) :
    let w := (s.taken n).devPut off data
    let v := w.devNat (off / 8 * 8) 8
    exec (.apertureSizeWrite n) s = .next (State.performed
      (if s.residentOn pe = true ∨ 32 < v then s.taken n else { w with pe := { w.pe with regs0 := w.pe.regs0.put pe v } }) acc) := by
  have hres : (s.taken n).residentOn pe = s.residentOn pe := rfl
  show event "APERTURE_SIZE_WRITE" (apertureEvent n s) = _
  simp only [apertureEvent, regWrite_eq h, hk, hres, Bool.or_eq_true, decide_eq_true_eq, ← apply_ite some, Option.map_some, event]

theorem aperture_put (w : State) (pe v : Nat) (acc : Option (Nat × Nat)) :
    let t := State.performed { w with pe := { w.pe with regs0 := w.pe.regs0.put pe v } } acc
    t.aperture pe = v * 65536 ∧ ∀ p, p ≠ pe → t.aperture p = w.aperture p := by
  simp only [State.aperture, performed_regs0, Tab.getD, Tab.get?_put_same]
  exact ⟨rfl, fun p hp => by rw [Tab.get?_put_ne hp]⟩

theorem exec_pkgnoWrite (h : s.devMsg n = some (off, data, part, acc)) (hk : devKind off = .pkgno) :
    let w := (s.taken n).devPut off data
    exec (.pkgnoWrite n) s = .next (State.performed (if s.ctxs ≠ [] ∨ 2 ^ 15 ≤ w.devNat 0x100 8 then s.taken n else w) acc) := by
  have hctxs : (s.taken n).ctxs = s.ctxs := rfl
  show event "PKGNO_WRITE" (pkgnoEvent n s) = _
  simp only [pkgnoEvent, regWrite_eq h, hk, hctxs, ne_eq, not_true_eq_false, if_false, Bool.or_eq_true, Bool.not_eq_true', decide_eq_true_eq,
    ← Bool.not_eq_true, List.isEmpty_iff, ← apply_ite some, Option.map_some, event]

theorem exec_deviceRegisterWrite (h : s.devMsg n = some (off, data, part, acc)) (hk : devKind off = .plain) :
    exec (.deviceRegisterWrite n) s = .next (State.performed (match s.frozenBy off with
      | some p => (s.taken n).toError p
      | none => if readOnly off then s.taken n else ((s.taken n).devPut off data).enqueueHeld.placeHeld) acc) := by
  have hfrozen : (s.taken n).frozenBy off = s.frozenBy off := rfl
  show event "DEVICE_REGISTER_WRITE" (deviceWriteEvent n s) = _
  simp only [deviceWriteEvent, regWrite_eq h, hk, hfrozen, ne_eq, not_true_eq_false, if_false]
  cases s.frozenBy off with
  | some p => rfl
  | none => simp only [← apply_ite some, Option.map_some, event]

theorem exec_copyQueueRegistration_frozen (h : s.devMsg n = some (off, data, part, acc)) (hk : devKind off = .registration) {p : Nat}
    (hp : s.frozenBy off = some p) : exec (.copyQueueRegistration n) s = .next (((s.taken n).toError p).performed acc) := by
  have hfrozen : (s.taken n).frozenBy off = some p := hp
  show event "COPY_QUEUE_REGISTRATION" (registrationEvent n s) = _
  simp only [registrationEvent, regWrite_eq h, hk, hfrozen, ne_eq, not_true_eq_false, if_false, Option.map_some, event]

end

/-! ### The host's accesses (R467 to R471) -/

theorem regWrites_nil (n off : Nat) : regWrites n off [] = [] := by cases n <;> rfl

theorem regWrites_cons (n off : Nat) {data : List Byte} (h : data ≠ []) :
    regWrites (n + 1) off data = (off, data.take (8 - off % 8)) :: regWrites n (off + (8 - off % 8)) (data.drop (8 - off % 8)) := by
  simp only [regWrites, List.isEmpty_iff, h, if_false]

/-- The writes of single registers give the data in order, each to the register of its first byte. -/
theorem regWrites_spec (off : Nat) (data : List Byte) {n : Nat} (hn : data.length ≤ n) :
    (regWrites n off data).flatMap Prod.snd = data ∧ ∀ p w q, regWrites n off data = p ++ w :: q →
      w.1 = off + (p.flatMap Prod.snd).length ∧ w.2 ≠ [] ∧ w.1 % 8 + w.2.length ≤ 8 := by
  induction n generalizing off data with
  | zero =>
    obtain rfl := List.eq_nil_of_length_eq_zero (Nat.le_zero.mp hn)
    exact ⟨rfl, fun p w q h => by cases p <;> cases h⟩
  | succ n ih =>
    by_cases hnil : data = []
    · subst hnil
      exact ⟨rfl, fun p w q h => by cases p <;> cases h⟩
    have hpos : 0 < data.length := List.length_pos_iff.mpr hnil
    have htake : (data.take (8 - off % 8)).length = min (8 - off % 8) data.length := List.length_take
    have hdrop : (data.drop (8 - off % 8)).length = data.length - (8 - off % 8) := List.length_drop
    obtain ⟨hall, heach⟩ := ih (off + (8 - off % 8)) (data.drop (8 - off % 8)) (by omega)
    rw [regWrites_cons n off hnil]
    refine ⟨by rw [List.flatMap_cons, hall, List.take_append_drop], fun p w q h => ?_⟩
    cases p with
    | nil =>
      obtain ⟨rfl, -⟩ := List.cons.inj h
      have hne : data.take (8 - off % 8) ≠ [] := List.length_pos_iff.mp (by omega)
      exact ⟨rfl, hne, by simp only [htake]; omega⟩
    | cons x p =>
      obtain ⟨rfl, htail⟩ := List.cons.inj h
      obtain ⟨haddr, hne, hfits⟩ := heach p w q htail
      have hmore : data.drop (8 - off % 8) ≠ [] := fun hend => by simp [hend, regWrites_nil] at htail
      have hlong := List.length_pos_iff.mpr hmore
      refine ⟨?_, hne, hfits⟩
      rw [haddr, List.flatMap_cons, List.length_append, htake]
      omega

theorem hostSpan_eq (a : HostAccess) : hostSpan a = if a.data = [] then a.len else a.data.length := by simp only [hostSpan, List.isEmpty_iff]

theorem regOff_of_outside {a : HostAccess} (h : 256 ≤ a.fn ∨ (0 < a.fn ∧ 0x10000 < a.offset + hostSpan a) ∨ (a.fn = 0 ∧ 2 ^ 32 < a.offset + hostSpan a)) :
    regOff a = none := by
  unfold regOff
  split
  · rw [if_neg (by omega)]
  · rw [if_neg (by omega)]

section
variable {s : State} {a : HostAccess}

/-- What the device sends the host while the bridge's link is up. -/
theorem toHost_of_up (hup : s.dev.hostUp = true) (o : HostOut) : s.toHost o = { s with dev := { s.dev with out := o :: s.dev.out } } := if_pos hup

section
variable (hup : s.dev.hostUp = true) (hon : s.powered = true ∨ s.reportsBoot a = true)
include hup hon

theorem exec_hostBarAccess : exec (.hostBarAccess a) s = event "HOST_BAR_ACCESS" (
    if a.bar0 then
      match regOff a with
      | none => some (s.toHost (.refused 0x0A))
      | some off =>
        if s.ownsRegs off (hostSpan a) a.fn = false then some (s.toHost (.refused 0x0A))
        else if a.data ≠ [] then
          some ((regWrites a.data.length off a.data).foldl (fun s w => s.post .host .io 0 (.devWrite w.1 w.2 (some a.fn) none)) s)
        else if s.postedBy a.fn then none
        else some (s.toHost (.read ((List.range a.len).map fun i => s.devByte (off + i))))
    else if s.postedBy a.fn then none
    else if s.ownsRange a.fn a.offset (hostSpan a) = false then some (s.toHost (.refused 0x0A))
    else if a.data ≠ [] then some (s.hostWrites a.offset a.data).placeHeld
    else if s.rangePoisoned a.offset a.len then some (s.toHost (.refused 0x22))
    else some (s.toHost (.read (s.readBytes a.offset a.len)))) := by
  have hserved : (s.powered || s.reportsBoot a) = true := Bool.or_eq_true_iff.mpr hon
  have hdata : ((!a.data.isEmpty) = true) = (a.data ≠ []) := by simp
  show event "HOST_BAR_ACCESS" (barEvent a s) = _
  simp only [barEvent, hup, hserved, hdata, Bool.not_eq_true', Bool.not_true, Bool.or_self, Bool.false_eq_true, if_false]
  rfl

theorem exec_hostRegister {off : Nat} (hbar : a.bar0 = true) (hoff : regOff a = some off) (howns : s.ownsRegs off (hostSpan a) a.fn = true) :
    exec (.hostBarAccess a) s = event "HOST_BAR_ACCESS" (
      if a.data ≠ [] then
        some ((regWrites a.data.length off a.data).foldl (fun s w => s.post .host .io 0 (.devWrite w.1 w.2 (some a.fn) none)) s)
      else if s.postedBy a.fn then none
      else some (s.toHost (.read ((List.range a.len).map fun i => s.devByte (off + i))))) := by
  simp only [exec_hostBarAccess hup hon, hbar, hoff, howns, Bool.true_eq_false, if_true, if_false]

theorem exec_hostMemory (hbar : a.bar0 = false) (hposted : s.postedBy a.fn = false) (howns : s.ownsRange a.fn a.offset (hostSpan a) = true) :
    exec (.hostBarAccess a) s = event "HOST_BAR_ACCESS" (
      if a.data ≠ [] then some (s.hostWrites a.offset a.data).placeHeld
      else if s.rangePoisoned a.offset a.len then some (s.toHost (.refused 0x22))
      else some (s.toHost (.read (s.readBytes a.offset a.len)))) := by
  simp only [exec_hostBarAccess hup hon, hbar, hposted, howns, Bool.false_eq_true, Bool.true_eq_false, if_false]

theorem exec_hostRefused
    (h : (a.bar0 = true ∧ ∀ off, regOff a = some off → s.ownsRegs off (hostSpan a) a.fn = false) ∨
      (a.bar0 = false ∧ s.postedBy a.fn = false ∧ s.ownsRange a.fn a.offset (hostSpan a) = false)) :
    exec (.hostBarAccess a) s = event "HOST_BAR_ACCESS" (some (s.toHost (.refused 0x0A))) := by
  rw [exec_hostBarAccess hup hon]
  rcases h with ⟨hbar, hregs⟩ | ⟨hbar, hposted, howns⟩
  · cases hoff : regOff a with
    | none => simp only [hbar, if_true]
    | some off => simp only [hbar, hregs off hoff, if_true]
  · simp only [hbar, hposted, howns, Bool.false_eq_true, if_true, if_false]

end

end

/-! ### The bridge's link (R469) -/

theorem foldl_toHost (p : Nat × HostReq → Bool) (o : Nat × HostReq → HostOut) (l : List (Nat × HostReq)) {s : State} (hup : s.dev.hostUp = true) :
    l.foldl (fun s x => if p x then s.toHost (o x) else s) s = { s with dev := { s.dev with out := ((l.filter p).map o).reverse ++ s.dev.out } } := by
  induction l generalizing s with
  | nil => rfl
  | cons x l ih =>
    cases hx : p x with
    | false => simp only [List.foldl_cons, hx, Bool.false_eq_true, if_false, ih hup, List.filter_cons]
    | true =>
      simp only [List.foldl_cons, hx, if_true, toHost_of_up hup, List.filter_cons, List.map_cons, List.reverse_cons, List.append_assoc]
      exact ih hup

theorem exec_bridgeLinkLoss {s : State} (hup : s.dev.hostUp = true) :
    exec .bridgeLinkLoss s = .next { s with dev := { s.dev with hostUp := false } } := by
  show event "BRIDGE_LINK_LOSS" (linkLossEvent s) = _
  rw [linkLossEvent, if_pos hup]
  rfl

theorem exec_bridgeLinkReturn {s : State} (hup : s.dev.hostUp = false) (hdown : s.dev.down = false) (hpower : s.dev.power ≠ .d3cold) :
    let pending := (s.dev.requests.filter fun p => p.2.place.isSome && p.2.status == 0).map fun p => HostOut.msix p.2.ctx (p.2.kind == 1)
    exec .bridgeLinkReturn s = .next { s with dev := { s.dev with hostUp := true, out := pending.reverse ++ s.dev.out } } := by
  have hreturns : (!s.dev.hostUp && !s.dev.down && s.dev.power != .d3cold) = true := by simp [hup, hdown, hpower]
  show event "BRIDGE_LINK_RETURN" (linkReturnEvent s) = _
  rw [linkReturnEvent, if_pos hreturns]
  exact congrArg Host.Outcome.next (foldl_toHost (fun p => p.2.place.isSome && p.2.status == 0) (fun p => .msix p.2.ctx (p.2.kind == 1)) _ rfl)

/-! ### A page's new owner (R471, R474) -/

theorem placeHeld_of_settled {s : State} (h : ∀ q ∈ s.dev.requests, q.2.place ≠ none ∨ q.2.status ≠ 0) : s.placeHeld = s := by
  have hskip : ∀ l : List (Nat × HostReq), (∀ q ∈ l, q.2.place ≠ none ∨ q.2.status ≠ 0) →
      l.foldl (fun s p => if p.2.place.isNone && p.2.status == 0 then s.placeRequest p.1 p.2 else s) s = s := fun l => by
    induction l with
    | nil => exact fun _ => rfl
    | cons q l ih =>
      intro hl
      obtain ⟨hq, hl⟩ := List.forall_mem_cons.mp hl
      have hno : ¬ (q.2.place.isNone && q.2.status == 0) = true := by
        simpa [Bool.and_eq_true, Option.isNone_iff_eq_none, or_iff_not_imp_left] using hq
      rw [List.foldl_cons, if_neg hno, ih hl]
  exact hskip _ h

theorem zeroRange_read (s : State) (lo n k : Nat) :
    Memory.read (s.zeroRange lo n).mem.bytes k = if lo ≤ k ∧ k < lo + n then 0 else Memory.read s.mem.bytes k := by
  simp only [State.zeroRange, Memory.read]
  rw [Tab.get?_filter (b := decide (¬ (lo ≤ k ∧ k < lo + n))) (fun v => by simp only [Bool.decide_and, decide_not])]
  by_cases h : lo ≤ k ∧ k < lo + n
  · simp [h]; rfl
  · simp [h]

/-- Nothing but bytes of memory differs; no line that an engine holds does. -/
def State.onlyBytes (s t : State) : Prop := t = { s with mem := { s.mem with bytes := t.mem.bytes } }

/-- The granule at an address, decrypted with one partition's key and encrypted with another's. -/
def State.rekeyed (s : State) (old new k : Nat) : Byte :=
  Config.recrypt (Config.memoryKey old) (Config.memoryKey new) (k / 64) (s.readBytes (k / 64 * 64) 64) (k % 64)

/-- One granule of `State.rekeyPage`. -/
def State.rekeyGranule (s : State) (g old new : Nat) : State :=
  (List.range 64).foldl (fun t j => t.writeByte (g + j) (Config.recrypt (Config.memoryKey old) (Config.memoryKey new) (g / 64) ((s.recall g).readBytes g 64) j))
    (s.recall g)

theorem rekeyPage_eq (s : State) (lo old new : Nat) :
    s.rekeyPage lo old new = (List.range 1024).foldl (fun s i => s.rekeyGranule (lo + 64 * i) old new) s := rfl

section
variable {s : State} (hlines : ∀ k, s.lineOf k = none)
include hlines

theorem rekeyGranule_eq (g old new : Nat) :
    s.rekeyGranule g old new =
      let crypt := fun j => Config.recrypt (Config.memoryKey old) (Config.memoryKey new) (g / 64) (s.readBytes g 64) j
      { s with mem := { s.mem with bytes := (List.range 64).foldl (fun m j => Memory.write m (g + j) (crypt j)) s.mem.bytes } } := by
  rw [State.rekeyGranule, recall_of_none (hlines g)]
  exact foldl_writeByte fun j _ => hlines (g + j)

theorem rekeyGranule_read {g : Nat} (hg : g % 64 = 0) (hwf : Memory.wf s.mem.bytes = true) (old new k : Nat) :
    Memory.read (s.rekeyGranule g old new).mem.bytes k = if k / 64 = g / 64 then s.rekeyed old new k else Memory.read s.mem.bytes k := by
  rw [rekeyGranule_eq hlines]
  split
  next hk =>
    have hin : k % 64 ∈ List.range 64 := List.mem_range.mpr (Nat.mod_lt _ (by decide))
    have hkey : g + k % 64 = k := by omega
    have hbase : k / 64 * 64 = g := by omega
    have hd : ((List.range 64).map fun j => g + j).Nodup := List.nodup_range.map fun _ _ h => Nat.add_left_cancel h
    have hread := Memory.read_writes_of_mem
      (v := fun j => Config.recrypt (Config.memoryKey old) (Config.memoryKey new) (g / 64) (s.readBytes g 64) j) hd hwf hin
    simp only [hkey] at hread
    rw [hread, State.rekeyed, hbase, hk]
  next hk =>
    exact Memory.read_writes_of_ne (fun j hj heq => hk (by have := List.mem_range.mp hj; omega)) _

theorem rekeyed_eq_of_read {t : State} (ht : s.onlyBytes t) {old new k : Nat}
    (h : ∀ i, k / 64 * 64 ≤ i → Memory.read t.mem.bytes i = Memory.read s.mem.bytes i) : t.rekeyed old new k = s.rekeyed old new k := by
  have hbyte : ∀ i, k / 64 * 64 ≤ i → t.readByte i = s.readByte i := fun i hi => by
    have hline : t.lineOf i = none := (lineOf_of_sync (congrArg State.sync ht) i).trans (hlines i)
    simp only [State.readByte, hline, hlines i, h i hi]
  have hbytes : t.readBytes (k / 64 * 64) 64 = s.readBytes (k / 64 * 64) 64 :=
    List.map_congr_left fun i _ => hbyte _ (Nat.le_add_right ..)
  rw [State.rekeyed, State.rekeyed, hbytes]

/-- The granules of a page are independent of one another: each is decrypted from what it held first. -/
theorem rekeyGranules_spec {lo : Nat} (hlo : lo % 64 = 0) (hwf : Memory.wf s.mem.bytes = true) (old new n : Nat) :
    let t := (List.range n).foldl (fun s i => s.rekeyGranule (lo + 64 * i) old new) s
    s.onlyBytes t ∧ Memory.wf t.mem.bytes = true ∧
      ∀ k, Memory.read t.mem.bytes k = if lo ≤ k ∧ k < lo + 64 * n then s.rekeyed old new k else Memory.read s.mem.bytes k := by
  induction n with
  | zero => exact ⟨rfl, hwf, fun k => by rw [if_neg (by omega)]; rfl⟩
  | succ n ih =>
    obtain ⟨hsame, hwf', hread⟩ := ih
    rw [List.range_succ, List.foldl_append]
    generalize (List.range n).foldl (fun s i => s.rekeyGranule (lo + 64 * i) old new) s = t at hsame hwf' hread ⊢
    have hlines' : ∀ k, t.lineOf k = none := fun k => (lineOf_of_sync (congrArg State.sync hsame) k).trans (hlines k)
    simp only [List.foldl_cons, List.foldl_nil]
    refine ⟨?_, ?_, fun k => ?_⟩
    · rw [rekeyGranule_eq hlines', hsame]; rfl
    · rw [rekeyGranule_eq hlines']
      exact Memory.writes_wf hwf' _
    · rw [rekeyGranule_read hlines' (by omega) hwf', hread]
      by_cases hk : k / 64 = (lo + 64 * n) / 64
      · have hsrc : t.rekeyed old new k = s.rekeyed old new k :=
          rekeyed_eq_of_read hlines hsame fun i hi => by rw [hread, if_neg (by omega)]
        rw [if_pos hk, if_pos (by omega), hsrc]
      · rw [if_neg hk]
        congr 1
        simp only [eq_iff_iff]
        omega

theorem rekeyPage_spec {lo : Nat} (hlo : lo % 64 = 0) (hwf : Memory.wf s.mem.bytes = true) (old new : Nat) :
    s.onlyBytes (s.rekeyPage lo old new) ∧ ∀ k, Memory.read (s.rekeyPage lo old new).mem.bytes k =
      if lo ≤ k ∧ k < lo + 65536 then s.rekeyed old new k else Memory.read s.mem.bytes k := by
  obtain ⟨hsame, -, hread⟩ := rekeyGranules_spec hlines hlo hwf old new 1024
  rw [rekeyPage_eq]
  exact ⟨hsame, hread⟩

end

/-- A page holds what its new owner is to find there. -/
def State.pageFor (s : State) (page owner : Nat) : State :=
  if s.ownerOf (page * 65536) = 0 then s.rekeyPage (page * 65536) (s.keyOf 0) (s.keyOf owner) else s.zeroRange (page * 65536) 65536

/-- The ownership table names a page's new owner. -/
def State.givePage (s : State) (page owner : Nat) : State :=
  { s with mem := { s.mem with owner := if owner = 0 then s.mem.owner.del page else s.mem.owner.put page owner } }

theorem givePage_ownerOf {s : State} (hs : Tab.sorted s.mem.owner = true) (page owner : Nat) : (s.givePage page owner).ownerOf (page * 65536) = owner := by
  rw [State.ownerOf, Nat.mul_div_cancel _ (by decide), State.givePage]
  by_cases h : owner = 0
  · subst h
    rw [Tab.getD, if_pos rfl, Tab.get?_del_same page hs]
    rfl
  · rw [Tab.getD, if_neg h, Tab.get?_put_same]
    rfl

section
variable {s : State} {page owner : Nat}

/-- What a change of a page's owner does, where no interface is locked. -/
theorem exec_ownershipChange {v : Part} (hup : s.dev.hostUp = true) (hon : s.powered = true) (hpage : page < 2 ^ 24) (hpart : s.part? owner = some v)
    (hnew : v.tdi ≠ .locked) (hold : s.tdiIs (s.ownerOf (page * 65536)) .locked = false) :
    exec (.ownershipChange page owner) s = event "OWNERSHIP_CHANGE" (
      if s.ownerOf (page * 65536) = owner then some s
      else if s.inFlight (page * 65536) 65536 then none
      else some ((s.pageFor page owner).givePage page owner).placeHeld) := by
  have howner : s.mem.owner.getD page 0 = s.ownerOf (page * 65536) := by rw [State.ownerOf, Nat.mul_div_cancel _ (by decide)]
  have hserved : ¬ (!s.served || decide (2 ^ 24 ≤ page) || (s.part? owner).isNone) = true := by
    simpa [State.served, hup, hon, hpart] using hpage
  have hfree : ¬ s.tdiIs owner .locked = true := by
    rw [State.tdiIs, hpart]
    exact fun h => hnew (beq_iff_eq.mp h)
  show event "OWNERSHIP_CHANGE" (ownershipEvent page owner s) = _
  simp only [ownershipEvent, howner]
  rw [if_neg hserved, if_neg (Bool.not_eq_true _ ▸ hold), if_neg hfree]
  rfl

/-- A page of a confidential partition reads zero, one of the operator's as its new owner's key decrypts it; every other byte is kept. -/
theorem pageFor_read (hlines : ∀ k, s.lineOf k = none) (hwf : Memory.wf s.mem.bytes = true) (k : Nat) :
    Memory.read (s.pageFor page owner).mem.bytes k =
      if page * 65536 ≤ k ∧ k < page * 65536 + 65536 then (if s.ownerOf (page * 65536) ≠ 0 then 0 else s.rekeyed (s.keyOf 0) (s.keyOf owner) k)
      else Memory.read s.mem.bytes k := by
  by_cases h : s.ownerOf (page * 65536) = 0
  · obtain ⟨-, hread⟩ := rekeyPage_spec hlines (lo := page * 65536) (by omega) hwf (s.keyOf 0) (s.keyOf owner)
    rw [State.pageFor, if_pos h, hread, if_neg (not_not.mpr h)]
  · rw [State.pageFor, if_neg h, zeroRange_read, if_pos h]

theorem pageFor_keeps (hlines : ∀ k, s.lineOf k = none) (hwf : Memory.wf s.mem.bytes = true) :
    (s.pageFor page owner).mem.owner = s.mem.owner ∧ (s.pageFor page owner).dev = s.dev := by
  unfold State.pageFor
  split
  · obtain ⟨hsame, -⟩ := rekeyPage_spec hlines (lo := page * 65536) (by omega) hwf (s.keyOf 0) (s.keyOf owner)
    rw [hsame]
    exact ⟨rfl, rfl⟩
  · exact ⟨rfl, rfl⟩

end

end Sys2Proof.Machine

section
open Sys2Proof Sys2Proof.Machine

/-- Settles O51: each event through the lemma on what it does; the bytes of a page granule by granule. -/
theorem deviceRegisters : Obligations.DeviceRegisters := by
  unfold Obligations.DeviceRegisters
  refine ⟨fun s n off data part acc h => ⟨fun pe hk => ⟨fun hres hv => ?_, fun hkeep => ?_⟩, fun hk => ⟨fun hctxs hv => ?_, fun hkeep => ?_⟩,
    fun hk hfree => ⟨fun hro => ?_, fun hro => ?_⟩, fun hk p hp => ?_, fun hk p hp => exec_copyQueueRegistration_frozen h hk hp⟩,
    fun s a hup hon => ?_, fun s => ⟨exec_bridgeLinkLoss, exec_bridgeLinkReturn⟩, fun s page owner v hup hon hpage hpart hnew hold hs => ?_⟩
  case refine_1 =>
    have hw : ¬ (s.residentOn pe = true ∨ 32 < ((s.taken n).devPut off data).devNat (off / 8 * 8) 8) := by simpa [hres] using hv
    exact ⟨_, (exec_apertureSizeWrite h hk).trans (by rw [if_neg hw]), aperture_put ((s.taken n).devPut off data) ..⟩
  case refine_2 => exact (exec_apertureSizeWrite h hk).trans (by rw [if_pos hkeep])
  case refine_3 => exact (exec_pkgnoWrite h hk).trans (by rw [if_neg (by simpa [hctxs] using hv)])
  case refine_4 => exact (exec_pkgnoWrite h hk).trans (by rw [if_pos hkeep])
  case refine_5 => simp only [exec_deviceRegisterWrite h hk, hfree, hro, Bool.false_eq_true, if_false]
  case refine_6 => simp only [exec_deviceRegisterWrite h hk, hfree, hro, if_true]
  case refine_7 => simp only [exec_deviceRegisterWrite h hk, hp]
  case refine_8 =>
    intro span out
    have hspan : span = hostSpan a := (hostSpan_eq a).symm
    clear_value span
    subst hspan
    have hmem : a.data ≠ [] → hostSpan a = a.data.length := fun hdata => by rw [hostSpan_eq, if_neg hdata]
    have hlen : a.data = [] → hostSpan a = a.len := fun hdata => by rw [hostSpan_eq, if_pos hdata]
    have hout : ∀ {o}, exec (.hostBarAccess a) s = event "HOST_BAR_ACCESS" (some (s.toHost o)) → out o :=
      fun {o} h => h.trans (congrArg Host.Outcome.next (toHost_of_up hup o))
    have hrefused : a.bar0 = false → s.postedBy a.fn = false → s.ownsRange a.fn a.offset (hostSpan a) = false → out (.refused 0x0A) :=
      fun hbar hposted howns => hout (exec_hostRefused hup hon (.inr ⟨hbar, hposted, howns⟩))
    refine ⟨fun hbar houtside => hout (exec_hostRefused hup hon (.inl ⟨hbar, ?_⟩)), fun off hbar hoff =>
        ⟨fun howns => hout (exec_hostRefused hup hon (.inl ⟨hbar, ?_⟩)), fun howns hdata => ?_, fun howns hdata hposted => hout ?_⟩,
      fun hbar hposted => ⟨fun hdata howns hp => hout ?_, fun hdata howns hp => hout ?_, fun hdata howns => hrefused hbar hposted ?_,
        fun hdata howns => hrefused hbar hposted ?_, fun hdata howns => ?_⟩⟩
    · simp only [regOff_of_outside houtside, reduceCtorEq, false_implies, implies_true]
    · rw [hoff]
      rintro _ ⟨⟩
      exact howns
    · obtain ⟨hall, heach⟩ := regWrites_spec off a.data (Nat.le_refl _)
      exact ⟨_, hall, heach, (exec_hostRegister hup hon hbar hoff howns).trans (by rw [if_pos hdata]; rfl)⟩
    · rw [exec_hostRegister hup hon hbar hoff howns, if_neg (not_not.mpr hdata), if_neg (Bool.not_eq_true _ ▸ hposted)]
    · rw [exec_hostMemory hup hon hbar hposted (hlen hdata ▸ howns), if_neg (not_not.mpr hdata), if_neg (Bool.not_eq_true _ ▸ hp)]
    · rw [exec_hostMemory hup hon hbar hposted (hlen hdata ▸ howns), if_neg (not_not.mpr hdata), if_pos hp]
    · exact hlen hdata ▸ howns
    · exact hmem hdata ▸ howns
    · exact (exec_hostMemory hup hon hbar hposted (hmem hdata ▸ howns)).trans (by rw [if_pos hdata]; rfl)
  case refine_9 =>
    have hexec := exec_ownershipChange hup hon hpage hpart hnew hold
    refine ⟨fun hsame => ?_, fun hmoves hflight => ?_, fun hmoves hflight hsettled hwf hlines => ?_⟩
    · exact hexec.trans (by rw [if_pos hsame]; rfl)
    · exact hexec.trans (by rw [if_neg hmoves, if_pos hflight]; rfl)
    · obtain ⟨howners, hdev⟩ := pageFor_keeps (page := page) (owner := owner) hlines hwf
      have hread := pageFor_read (page := page) (owner := owner) hlines hwf
      have hplaced : ((s.pageFor page owner).givePage page owner).placeHeld = (s.pageFor page owner).givePage page owner :=
        placeHeld_of_settled (by rw [← hdev] at hsettled; exact hsettled)
      refine ⟨(s.pageFor page owner).givePage page owner, hexec.trans ?_, givePage_ownerOf (howners ▸ hs) page owner, fun k hk => ?_, fun k hlo hhi => ?_⟩
      · rw [if_neg hmoves, if_neg (Bool.not_eq_true _ ▸ hflight), hplaced]
        rfl
      · exact (hread k).trans (if_neg (by omega))
      · exact (hread k).trans (if_pos ⟨hlo, hhi⟩)

end

namespace Sys2Proof.Machine

/-! ### Ordering instructions (R258 to R265) -/

/-- A body that answers with a status of its own and sends nothing itself. -/
theorem fire_retire_stat {i : Instr} {s u : State} {f : Firing} {body : Body} {st : IStat} (h : Fires i s f) (hb : body f s = .ok { st := u, stat := st }) :
    fire i body s = .next (u.retire f (f.handles i) st none none) := by
  obtain ⟨hfire, hmis, hnull⟩ := h
  have hsent : f.sent none none = [] := by simp [Firing.sent]
  simp [fire, hfire, State.issue, hmis, hnull, hb, State.conclude, State.finish, hsent, State.settle, State.sends]
  rfl

theorem wantScalar_of_scalar {t : Tok} (h : t.kind = .scalar) : wantScalar t = .ok t.val := by
  simp [wantScalar, h]

/-- TLWAIT of a number that the counter has reached, and of one that it has not (R264). -/
theorem tlwaitBody_eq (tl : Timeline) {f : Firing} (s : State) (h : f.a.kind = .scalar) :
    let d := ((s.pctx f.fr.ctx f.pe).timeline tl).done
    tlwaitBody tl f s = .ok (if f.a.val.toNat ≤ d then { st := (s.expect f.key f.fan).reply (.pe f.pe) 1 f.dests (scalarTok (wordOf d)) f.src }
      else { st := s.expect f.key f.fan, stat := .parked (.timeline tl f.a.val.toNat) }) := by
  simp only [tlwaitBody, wantScalar_of_scalar h, bind, Except.bind]
  split <;> rfl

end Sys2Proof.Machine

section
open Sys2Proof Sys2Proof.Machine

/-- Settles O25: an effect held for the commit is all that a fence or SBAR does; `tlwaitBody_eq` says when TLWAIT replies. -/
theorem orderingInstructions : Obligations.OrderingInstructions := by
  unfold Obligations.OrderingInstructions
  intro s f h
  refine ⟨fun sc hf => fire_retire_silent hf rfl, fun sc w hf => fire_retire_silent hf rfl, fun w hf => fire_retire_silent hf rfl, fun tl => ?_⟩
  refine ⟨fun hf hc => ?_, fun hf ha => ⟨fun hle => ?_, fun hlt => ?_⟩⟩
  · exact givesScalar_of_ok rfl hf hc rfl (.refl s)
  · exact fire_retire_silent hf ((tlwaitBody_eq tl s ha).trans (by rw [if_pos hle]; rfl))
  · exact fire_retire_stat hf ((tlwaitBody_eq tl s ha).trans (by rw [if_neg (Nat.not_le.mpr hlt)]))

/-- Settles O59: nothing is listed at reset. -/
theorem memoryHasItsFormAtReset : Obligations.MemoryHasItsFormAtReset := reset_formed

end

namespace Sys2Proof.Machine

/-! ## Memory keeps its form (O58)

`State.formed` speaks of the bytes of memory and of the device registers alone. Each function of the model that gives a state has one rule here,
`<function>_formed`: from a state that has the form it gives one that has it; `MayForm` says it of an event's answer. The rules stand in the order
of the functions they speak of, a function's rule citing those of the functions it calls, up to `exec`. -/

/-- Memory and the device registers alone say whether a state has the form. -/
theorem formed_of_same {s t : State} (h : s.formed) (m : t.mem.bytes = s.mem.bytes) (d : t.dev.regs = s.dev.regs) : t.formed :=
  ⟨m ▸ h.1, d ▸ h.2⟩

theorem ite_formed {c : Prop} [Decidable c] {s t : State} (h : s.formed) (g : t.formed) : (if c then s else t).formed := by
  split <;> assumption

/-- A state that an event may give has the form. -/
def MayForm (o : Option State) : Prop := ∀ t, o = some t → t.formed

theorem MayForm.none : MayForm none := nofun

theorem MayForm.some {s : State} (h : s.formed) : MayForm (some s) := fun _ e => Option.some.inj e ▸ h

theorem MayForm.ite {c : Prop} [Decidable c] {a b : Option State} (h : MayForm a) (g : MayForm b) : MayForm (if c then a else b) := by
  split <;> assumption

theorem MayForm.getD {o : Option State} {s : State} (h : MayForm o) (g : s.formed) : (o.getD s).formed := by
  cases o with
  | none => exact g
  | some t => exact h t rfl

theorem MayForm.map {o : Option State} {g : State → State} (h : MayForm o) (hg : ∀ t, t.formed → (g t).formed) : MayForm (o.map g) := by
  cases o with
  | none => exact .none
  | some t => exact .some (hg t (h t rfl))

theorem MayForm.ofMap {α : Type} {o : Option α} {g : α → State} (hg : ∀ a, (g a).formed) : MayForm (o.map g) := by
  cases o with
  | none => exact .none
  | some a => exact .some (hg a)

/-- What an entry answers, where it answers, satisfies `P`. -/
def OkHas {ε α : Type} (P : α → Prop) (r : Except ε α) : Prop := ∀ a, r = .ok a → P a

section
variable {ε α β : Type} {P : β → Prop}
theorem OkHas.error {e : ε} : OkHas P (.error e : Except ε β) := nofun
theorem OkHas.ok {a : β} (h : P a) : OkHas P (.ok a : Except ε β) := fun _ e => Except.ok.inj e ▸ h
theorem OkHas.bind {x : Except ε α} {g : α → Except ε β} (h : ∀ a, x = .ok a → OkHas P (g a)) : OkHas P (x >>= g) := by
  cases x with
  | error e => exact .error
  | ok a => exact h a rfl
end

theorem OkHas.ite {ε α : Type} {P : α → Prop} {c : Prop} [Decidable c] {a b : Except ε α} (h : OkHas P a) (g : OkHas P b) :
    OkHas P (if c then a else b) := by
  split <;> assumption

/-- Two ways into one continuation. -/
theorem OkHas.join {α β : Type} {P : β → Prop} {c : Prop} [Decidable c] {x y : Except Stop α} {k : α → Except Stop β} (h : ∀ a, OkHas P (k a)) :
    OkHas P (if c then x >>= k else y >>= k) := by
  split <;> exact .bind fun a _ => h a

theorem fst_formed {α : Type} {p : State × α} {s : State} {a : α} (h : p.1.formed) (e : p = (s, a)) : s.formed := by
  subst e
  exact h

theorem foldl_fst_formed {α β : Type} (g : State × α → β → State × α) (hg : ∀ p b, p.1.formed → (g p b).1.formed) (l : List β) {p : State × α}
    (h : p.1.formed) :
    (l.foldl g p).1.formed := by
  induction l generalizing p with
  | nil => exact h
  | cons b l ih => exact ih (hg p b h)

/-! ### Mem -/

theorem tlbFill_formed {s : State} {x : Ctx} {pe va : Nat} (h : s.formed) : (s.tlbFill x pe va).formed := by
  unfold State.tlbFill
  split
  · exact h
  · exact ite_formed (ite_formed h h) (ite_formed h h)

/-! ### Ops -/

theorem modFrame_formed {s : State} {k : Nat} {g : Frame → Frame} (h : s.formed) : (s.modFrame k g).formed := by
  unfold State.modFrame
  split <;> exact h

theorem modTask_formed {s : State} {pe t : Nat} {g : Task → Task} (h : s.formed) : (s.modTask pe t g).formed := by
  unfold State.modTask
  split <;> exact h

theorem countWrite_formed {s : State} {home : Agent} {keys : List Nat} (h : s.formed) : (s.countWrite home keys).formed := by
  unfold State.countWrite
  refine foldl_formed _ (fun s _ hs => ?_) _ h
  exact ite_formed hs hs

theorem storeRuns_formed {s : State} {ks : List (Nat × Nat)} {l : List Byte} (h : s.formed) : (s.storeRuns ks l).formed :=
  foldl_formed _ (fun _ _ hs => countWrite_formed hs) _ (writeRuns_formed h ..)

theorem dropRef_formed {s : State} {w : Word} (h : s.formed) : (s.dropRef w).formed := by
  unfold State.dropRef
  split <;> exact h

theorem release_formed {s : State} {pe : Nat} {w : Word} (h : s.formed) : (s.release pe w).formed :=
  ite_formed (dropRef_formed h) h

theorem dropTok_formed {s : State} {pe : Nat} {t : Tok} (h : s.formed) : (s.dropTok pe t).formed :=
  ite_formed (release_formed h) h

theorem dropToks_formed {s : State} {pe : Nat} {l : List Tok} (h : s.formed) : (s.dropToks pe l).formed :=
  foldl_formed _ (fun _ _ hs => dropTok_formed hs) _ h

theorem addRef_formed {s : State} {w : Word} (h : s.formed) : MayForm (s.addRef w) := by
  unfold State.addRef
  split
  · exact .some h
  · exact .ite .none (.some h)

theorem addRefs_formed {s : State} {l : List Tok} (h : s.formed) : MayForm (s.addRefs l) := by
  induction l generalizing s with
  | nil => exact .some h
  | cons t l ih =>
    unfold State.addRefs
    split
    · split
      · rename_i s' e
        exact ih (addRef_formed h _ e)
      · exact .none
    · exact ih h

theorem settle_formed {s : State} {pe : Nat} {consumed l : List Tok} (h : s.formed) : MayForm (s.settle pe consumed l) := by
  induction l generalizing s consumed with
  | nil => exact .some (dropToks_formed h)
  | cons t l ih =>
    unfold State.settle
    split
    · exact ih h
    · split
      · rename_i s' e
        exact ih (addRefs_formed h _ e)
      · exact .none

theorem raise_formed {s : State} {r : FaultRec} (h : s.formed) : (s.raise r).formed :=
  modCtx_formed h ..

theorem failFrame_formed {s : State} {src : Src} (h : s.formed) : (s.failFrame src).formed := by
  unfold State.failFrame
  split
  · exact ite_formed h h
  · exact h

theorem raiseAt_formed {s : State} {src : Src} {e : Fail} (h : s.formed) : (s.raiseAt src e).formed :=
  failFrame_formed (raise_formed h)

theorem raiseHeader_formed {s : State} {src : Src} {e : Fail} (h : s.formed) : (s.raiseHeader src e).formed :=
  raise_formed h

theorem raiseNone_formed {s : State} {src : Src} {e : Fail} (h : s.formed) : (s.raiseNone src e).formed :=
  raise_formed h

theorem sendTo_formed {s : State} {src : Src} {tgt : Target} {t : Tok} (h : s.formed) : MayForm (s.sendTo src tgt t) := by
  unfold State.sendTo
  split
  · exact .some h
  · exact .some h
  · extract_lets -underBinder
    split
    · exact .some h
    · exact .ite .none (.some h)

theorem expect_formed {s : State} {k n : Nat} (h : s.formed) : (s.expect k n).formed :=
  modFrame_formed h

theorem reply_formed {s : State} {from_ : Agent} {cls : Nat} {ds : List Dest} {t : Tok} {src : Src} (h : s.formed) :
    (s.reply from_ cls ds t src).formed :=
  foldl_formed _ (fun _ _ hs => by exact hs) _ h

theorem withhold_formed {s : State} {from_ : Agent} {ds : List Dest} (h : s.formed) : (s.withhold from_ ds).formed :=
  foldl_formed _ (fun _ _ hs => by exact hs) _ h

theorem orFlags_formed {s : State} {k : Nat} {fl : BitVec 7} (h : s.formed) : (s.orFlags k fl).formed :=
  modFrame_formed h

/-! ### Queue -/

theorem requeue_formed {s : State} {c : Nat} {r : Rec} {quad : Nat} {image : Option (List Tok × Nat)} (h : s.formed) :
    (s.requeue c r quad image).formed :=
  ite_formed h h

theorem hwEnqueue_formed {s : State} {c : Nat} {r : Rec} {quad : Nat} {named : Bool} (h : s.formed) : (s.hwEnqueue c r quad named).formed := by
  unfold State.hwEnqueue
  split
  · exact h
  · exact ite_formed h h

theorem enqueueHeld_formed {s : State} (h : s.formed) : (s.enqueueHeld).formed := by
  unfold State.enqueueHeld
  refine foldl_formed _ (fun s _ hs => ?_) _ h
  exact ite_formed hs hs

theorem hwEnqueueBytes_formed {s : State} {c : Nat} {l : List Byte} {va quad : Nat} {named : Bool} {g5 : Option Word} (h : s.formed) :
    (s.hwEnqueueBytes c l va quad named g5).formed := by
  unfold State.hwEnqueueBytes
  split
  · exact raiseHeader_formed h
  · exact hwEnqueue_formed h

theorem hwEnqueueAt_formed {s : State} {c va quad : Nat} {g1 : Option Word} (h : s.formed) : (s.hwEnqueueAt c va quad g1).formed := by
  unfold State.hwEnqueueAt
  split
  · exact raiseHeader_formed h
  · split
    · exact raiseHeader_formed h
    · exact hwEnqueue_formed h

theorem toHost_formed {s : State} {o : HostOut} (h : s.formed) : (s.toHost o).formed :=
  ite_formed h h

theorem placeRequest_formed {s : State} {k : Nat} {r : HostReq} (h : s.formed) : (s.placeRequest k r).formed := by
  unfold State.placeRequest
  split
  · exact h
  · extract_lets s1 s2
    have hs1 : s1.formed := countWrite_formed (writeBytes_formed h ..)
    have hs2 : s2.formed := devPut_formed hs1 ..
    exact toHost_formed (formed_of_same hs2 rfl rfl)

theorem placeHeld_formed {s : State} (h : s.formed) : (s.placeHeld).formed := by
  unfold State.placeHeld
  refine foldl_formed _ (fun s _ hs => ?_) _ h
  exact ite_formed (placeRequest_formed hs) hs

theorem hostPost_formed {s : State} {die kind c : Nat} {addr arg : Word} {src : Src} {dests sdests : List Dest} (h : s.formed) :
    (s.hostPost die kind c addr arg src dests sdests).formed :=
  placeHeld_formed h

/-- A state that an entry of a fault queue gives has the form. -/
def EntryForm (r : EntryRes) : Prop := ∀ s n, r = .entry s n → s.formed

theorem EntryForm.none : EntryForm .none := nofun

theorem EntryForm.full : EntryForm .full := nofun

theorem EntryForm.entry {s : State} {n : Nat} (h : s.formed) : EntryForm (.entry s n) := fun _ _ e => (EntryRes.entry.inj e).1 ▸ h

theorem pageEntry_formed {s : State} {src : Src} {kind va level : Nat} (h : s.formed) : EntryForm (s.pageEntry src kind va level) := by
  unfold State.pageEntry
  split
  · exact .none
  split
  · exact .entry h
  split
  · exact .none
  extract_lets
  split
  · exact .none
  extract_lets
  split
  · exact .none
  split
  · exact .full
  split
  · split
    · exact .none
    extract_lets s1 _ _ _ s2 s3
    have hs1 : s1.formed := storeRuns_formed (storeRuns_formed h)
    exact .entry (ite_formed (hostPost_formed hs1) (hwEnqueueAt_formed hs1))
  · exact .none

/-! ### Discard -/

theorem unexpect_formed {s : State} {d : Dest} (h : s.formed) : (s.unexpect d).formed := by
  unfold State.unexpect
  split <;> exact h

theorem dropReplies_formed {s : State} {a : Access} (h : s.formed) : (s.dropReplies a).formed := by
  unfold State.dropReplies
  extract_lets -underBinder s
  have hs : s.formed := foldl_formed _ (fun _ _ hs => unexpect_formed hs) _ h
  split
  · exact foldl_formed _ (fun _ _ hs => dropRef_formed hs) _ hs
  · exact foldl_formed _ (fun _ _ hs => dropRef_formed hs) _ hs
  · exact hs

theorem dropAccesses_formed {s : State} {uid : Nat} (h : s.formed) : (s.dropAccesses uid).formed := by
  unfold State.dropAccesses
  refine foldl_formed _ (fun s _ hs => ?_) _ h
  exact ite_formed (dropReplies_formed hs) hs

theorem dropRequests_formed {s : State} {uid : Nat} (h : s.formed) : (s.dropRequests uid).formed :=
  foldl_formed _ (fun _ _ hs => unexpect_formed hs) _ h

theorem tellHeads_formed {s : State} {pe q : Nat} (h : s.formed) : (s.tellHeads pe q).formed := by
  unfold State.tellHeads
  refine foldl_formed _ (fun s _ hs => ?_) _ h
  split
  · exact ite_formed hs hs
  · exact hs

theorem unreserve_formed {s : State} {pe uid : Nat} {e : Effect} (h : s.formed) : (s.unreserve pe uid e).formed := by
  unfold State.unreserve
  split
  · exact ite_formed (tellHeads_formed h) h
  · exact h
  · exact h
  · exact h
  · exact h

theorem discardFrame_formed {s : State} {k : Nat} (h : s.formed) : (s.discardFrame k).formed := by
  unfold State.discardFrame
  split
  · exact h
  · exact foldl_formed _ (fun _ _ hs => unreserve_formed hs) _ (dropRequests_formed (dropAccesses_formed (dropToks_formed (dropToks_formed h))))

theorem modLoop_formed {s : State} {pe task : Nat} {g : Loop → Loop} (h : s.formed) : (s.modLoop pe task g).formed :=
  modTask_formed h

theorem loopBack_formed {s : State} {pe task : Nat} {j : Int} {kept : List Int} (h : s.formed) : (s.loopBack pe task j kept).formed := by
  unfold State.loopBack
  split
  · exact h
  · split
    · exact h
    · extract_lets -underBinder _ _ s1 s2
      have hs1 : s1.formed := by
        refine foldl_formed _ (fun s _ hs => ?_) _ h
        exact ite_formed hs (dropTok_formed hs)
      have hs2 : s2.formed := by
        refine ite_formed ?_ hs1
        split
        · exact MayForm.getD (addRefs_formed hs1) hs1
        · exact hs1
      exact modLoop_formed hs2

theorem discardIterations_formed {s : State} {pe task : Nat} {j : Int} (h : s.formed) : (s.discardIterations pe task j).formed := by
  unfold State.discardIterations
  split
  · exact h
  · split
    · exact h
    · extract_lets -underBinder _ _ _ s1 s2
      have hs1 : s1.formed := loopBack_formed h
      have hs2 : s2.formed := by
        refine foldl_formed _ (fun s _ hs => ?_) _ hs1
        exact ite_formed hs (discardFrame_formed hs)
      exact hs2

theorem discardAct_formed {s : State} {k : Nat} (h : s.formed) : (s.discardAct k).1.formed := by
  unfold State.discardAct
  split
  · exact h
  · split
    · exact discardIterations_formed h
    · exact discardFrame_formed h

theorem discardToEntry_formed {s : State} {src : Src} {k n : Nat} (h : s.formed) : (s.discardToEntry src k n).formed := by
  unfold State.discardToEntry
  split
  · exact ite_formed (modLoop_formed (discardAct_formed h)) (discardAct_formed h)
  · exact h

/-! ### Operands -/

theorem markAt_formed {s : State} {key idx : Nat} {st : IStat} (h : s.formed) : (s.markAt key idx st).formed :=
  modFrame_formed h

theorem branchResolved_formed {s : State} {key idx : Nat} (h : s.formed) : (s.branchResolved key idx).formed := by
  unfold State.branchResolved
  split
  · exact ite_formed (raiseAt_formed h) h
  · exact h

theorem voidStore_formed {s : State} {key idx : Nat} (h : s.formed) : (s.voidStore key idx).formed := by
  unfold State.voidStore
  split <;> exact h

theorem mismatch_formed {s : State} {key idx : Nat} {i : Instr} {toks : List Tok} (h : s.formed) : (s.mismatch key idx i toks).formed := by
  unfold State.mismatch
  extract_lets -underBinder s
  have hs : s.formed := dropToks_formed (markAt_formed (ite_formed (voidStore_formed h) h))
  exact ite_formed (branchResolved_formed hs) hs

theorem failAt_formed {s : State} {f : Firing} {e : Fail} (h : s.formed) : (s.failAt f e).formed :=
  ite_formed (dropToks_formed (raiseAt_formed (modFrame_formed h))) (raiseAt_formed (modFrame_formed h))

theorem sends_formed {s : State} {f : Firing} {t0 t1 : Option Tok} (h : s.formed) : MayForm (s.sends f t0 t1) := by
  unfold State.sends
  split
  · exact .none
  · rename_i s1 e
    have hs1 : s1.formed := by
      split at e
      · exact sendTo_formed h _ e
      · exact Option.some.inj e ▸ h
    split
    · exact sendTo_formed hs1
    · exact .some hs1

theorem finish_formed {s : State} {f : Firing} {i : Instr} {d : Done} (h : s.formed) (hd : d.st.formed) : (s.finish f i d).formed := by
  unfold State.finish
  split
  · exact modFrame_formed hd
  · extract_lets
    split
    · exact failAt_formed h
    · rename_i s1 e
      have hs1 : s1.formed := settle_formed (markAt_formed hd) _ e
      split
      · exact failAt_formed h
      · rename_i s2 e2
        exact sends_formed hs1 _ e2

theorem satisfy_formed {s : State} {key lsid : Nat} (h : s.formed) : (s.satisfy key lsid).formed :=
  modFrame_formed h

theorem keep_formed {s : State} {key : Nat} {g : Frame → Frame} (h : s.formed) : (s.keep key g).formed := by
  unfold State.keep
  split <;> exact h

theorem markPerformed_formed {s : State} {key : Nat} (h : s.formed) : (s.markPerformed key).formed :=
  keep_formed h

theorem carryValue_formed {s : State} {f : Firing} {t : Tok} (h : s.formed) : (s.carryValue f t).formed := by
  unfold State.carryValue
  split <;> exact h

theorem deliverCarry_formed {s : State} {pe task : Nat} {j : Int} (h : s.formed) : MayForm (s.deliverCarry pe task j) := by
  unfold State.deliverCarry
  split
  · split
    · split
      · exact .some h
      · refine .ite (.some h) ?_
        extract_lets -underBinder
        split
        · exact .none
        · rename_i s1 e
          have hs1 : s1.formed := addRefs_formed h _ e
          exact .some (foldl_formed _ (fun _ _ hs => MayForm.getD (sendTo_formed hs) hs) _ hs1)
    · exact .some h
  · exact .some h

theorem sendCarry_formed {s : State} {f : Firing} {tok : Tok} (h : s.formed) : MayForm (s.sendCarry f tok) := by
  unfold State.sendCarry
  split
  · extract_lets s1 old s2
    have hs1 : s1.formed := carryValue_formed h
    have hs2 : s2.formed := by
      dsimp only [s2]
      cases old with
      | none => exact hs1
      | some t => exact dropTok_formed (modLoop_formed hs1)
    exact deliverCarry_formed hs2
  · exact .some h

theorem fireNull_formed {s : State} {f : Firing} {i : Instr} (h : s.formed) : (s.fireNull f i).formed := by
  unfold State.fireNull
  refine ite_formed (failAt_formed h) ?_
  extract_lets s1 s2 s3 _ s4
  have hs1 : s1.formed := ite_formed (voidStore_formed (satisfy_formed h)) h
  have hs2 : s2.formed := ite_formed (MayForm.getD (sendCarry_formed hs1) hs1) hs1
  have hs3 : s3.formed := ite_formed (modFrame_formed hs2) hs2
  have hs4 : s4.formed := finish_formed hs3 hs3
  exact ite_formed (branchResolved_formed hs4) hs4

theorem waitAt_formed {s : State} {f : Firing} {r : Short} (h : s.formed) : (s.waitAt f r).formed :=
  modFrame_formed h

theorem holdAt_formed {s : State} {f : Firing} {r : Short} {l : List Byte} (h : s.formed) : (s.holdAt f r l).formed :=
  modFrame_formed h

theorem pageAt_formed {s : State} {f : Firing} {kind va level : Nat} (h : s.formed) : (s.pageAt f kind va level).formed := by
  unfold State.pageAt
  split
  · exact failAt_formed h
  · exact waitAt_formed h
  · rename_i s1 n e
    have hs1 : s1.formed := pageEntry_formed h _ _ e
    exact ite_formed (modFrame_formed hs1) (discardToEntry_formed hs1)

theorem conclude_formed {s : State} {f : Firing} {i : Instr} {r : Except Stop Done} (h : s.formed) (hr : OkHas (·.st.formed) r) :
    (s.conclude f i r).formed := by
  unfold State.conclude
  split
  · exact finish_formed h (hr _ rfl)
  · exact failAt_formed h
  · exact waitAt_formed h
  · exact holdAt_formed h
  · exact pageAt_formed h

theorem issue_formed {s : State} {f : Firing} {i : Instr} {body : Body} (h : s.formed) (hb : OkHas (·.st.formed) (body f s)) :
    (s.issue f i body).formed :=
  ite_formed (mismatch_formed h) (ite_formed (fireNull_formed h) (conclude_formed h hb))

theorem send_formed {s : State} {t : Tok} (h : s.formed) : (Done.send s t).st.formed :=
  h

theorem scalar_formed {s : State} {v : Word} (h : s.formed) : (Done.scalar s v).st.formed :=
  send_formed h

/-! ### Cycles -/

theorem noteIssue_formed {s : State} {c pe ready num : Nat} {src : Src} (h : s.formed) : (s.noteIssue c pe ready num src).formed := by
  unfold State.noteIssue
  extract_lets -underBinder s
  have hs : s.formed := h
  split
  · exact ite_formed hs hs
  · exact hs

theorem addClass_formed {s : State} {c pe n : Nat} {k : Classed} (h : s.formed) : (s.addClass c pe n k).formed := by
  unfold State.addClass
  extract_lets -underBinder
  split <;> exact h

theorem countClass_formed {s : State} {c pe n : Nat} (h : s.formed) : (s.countClass c pe n).formed :=
  ite_formed h (ite_formed (addClass_formed h) (addClass_formed (addClass_formed h)))

theorem takeSamples_formed {s : State} {c : Nat} (h : s.formed) : (s.takeSamples c).formed :=
  modCtx_formed h ..

theorem countCtx_formed {s : State} {c n : Nat} (h : s.formed) : (s.countCtx c n).formed :=
  foldl_formed _ (fun _ _ hs => countClass_formed hs) _ (modCtx_formed (takeSamples_formed h) ..)

theorem countCycles_formed {s : State} {n : Nat} (h : s.formed) : (s.countCycles n).formed := by
  unfold State.countCycles
  refine foldl_formed _ (fun s _ hs => ?_) _ h
  exact ite_formed hs (ite_formed (ite_formed hs (countCtx_formed hs)) (countCtx_formed hs))

theorem countStop_formed {s : State} {c : Nat} (h : s.formed) : (s.countStop c).formed :=
  ite_formed (modCtx_formed (countCtx_formed h) ..) h

/-! ### Scalar -/

theorem scalarResult_formed {s : State} {f : Firing} {r : Word × Flags} (h : s.formed) : (f.scalarResult s r).st.formed :=
  scalar_formed (orFlags_formed h)

theorem unary_formed {s : State} {g : Word → Word} {f : Firing} (h : s.formed) : OkHas (·.st.formed) (unary g f s) :=
  .bind fun _ _ => .ok (scalar_formed h)

theorem binary_formed {s : State} {g : Word → Word → Word} {f : Firing} (h : s.formed) : OkHas (·.st.formed) (binary g f s) :=
  .bind fun _ _ => .bind fun _ _ => .ok (scalar_formed h)

theorem binaryImm_formed {s : State} {g : Word → Word → Word} {w : BitVec 32} {f : Firing} (h : s.formed) :
    OkHas (·.st.formed) (binaryImm g w f s) :=
  unary_formed h

theorem binaryF_formed {s : State} {g : Word → Word → Word × Flags} {f : Firing} (h : s.formed) : OkHas (·.st.formed) (binaryF g f s) :=
  .bind fun _ _ => .bind fun _ _ => .ok (scalarResult_formed h)

theorem binaryImmF_formed {s : State} {g : Word → Word → Word × Flags} {w : BitVec 32} {f : Firing} (h : s.formed) :
    OkHas (·.st.formed) (binaryImmF g w f s) :=
  .bind fun _ _ => .ok (scalarResult_formed h)

theorem ternary_formed {s : State} {g : Word → Word → Word → Word} {f : Firing} (h : s.formed) : OkHas (·.st.formed) (ternary g f s) :=
  .bind fun _ _ => .bind fun _ _ => .bind fun _ _ => .ok (scalar_formed h)

/-! ### Fp -/

theorem unaryF_formed {s : State} {g : Word → Word × Flags} {f : Firing} (h : s.formed) : OkHas (·.st.formed) (unaryF g f s) :=
  .bind fun _ _ => .ok (scalarResult_formed h)

theorem ternaryF_formed {s : State} {g : Word → Word → Word → Word × Flags} {f : Firing} (h : s.formed) : OkHas (·.st.formed) (ternaryF g f s) :=
  .bind fun _ _ => .bind fun _ _ => .bind fun _ _ => .ok (scalarResult_formed h)

theorem cvtBody_formed {s : State} {k : CvtKind} {w : ConvW} {f : Firing} (h : s.formed) : OkHas (·.st.formed) (cvtBody k w f s) :=
  .bind fun _ _ => .bind fun _ _ => .ok (orFlags_formed h)

theorem hold_formed {s : State} {key : Nat} {e : Effect} (h : s.formed) : (s.hold key e).formed :=
  modFrame_formed h

theorem fcsetBody_formed {s : State} {w : FcsetW} {f : Firing} (h : s.formed) : OkHas (·.st.formed) (fcsetBody w f s) :=
  .ite .error (.ite .error (.ok (scalar_formed (hold_formed h))))

theorem fcgetBody_formed {s : State} {w : FcgetW} {f : Firing} (h : s.formed) : OkHas (·.st.formed) (fcgetBody w f s) :=
  .ok (scalar_formed h)

/-! ### Steering -/

theorem movBody_formed {s : State} {f : Firing} (h : s.formed) : OkHas (·.st.formed) (movBody f s) :=
  .ok (send_formed h)

theorem constBody_formed {s : State} {v : Word} {f : Firing} (h : s.formed) : OkHas (·.st.formed) (constBody v f s) :=
  .ok (scalar_formed h)

theorem consthBody_formed {s : State} {w : BitVec 32} {f : Firing} (h : s.formed) : OkHas (·.st.formed) (consthBody w f s) :=
  .ok (scalar_formed h)

theorem nullBody_formed {s : State} {f : Firing} (h : s.formed) : OkHas (·.st.formed) (nullBody f s) :=
  .ok (send_formed h)

theorem selBody_formed {s : State} {f : Firing} (h : s.formed) : OkHas (·.st.formed) (selBody f s) :=
  .ite (.ok h) (.ok h)

theorem gateBody_formed {s : State} {f : Firing} (h : s.formed) : OkHas (·.st.formed) (gateBody f s) :=
  .ok (send_formed h)

theorem branchBody_formed {s : State} {target : Firing → State → Except Stop Branch} {f : Firing} (h : s.formed) :
    OkHas (·.st.formed) (branchBody target f s) :=
  .bind fun _ _ => .ite .error (.ok (modFrame_formed h))

theorem loopBody_formed {s : State} {w : LoopW} {f : Firing} (h : s.formed) : OkHas (·.st.formed) (loopBody w f s) := by
  unfold loopBody
  split
  · exact .error
  · exact .error
  · refine .ite .error <| .ite .error <| .ite (.ok (keep_formed h)) ?_
    split
    · exact .error
    · rename_i s1 e
      have hs1 : s1.formed := addRefs_formed (keep_formed h) _ e
      exact .ok hs1

theorem carryBody_formed {s : State} {f : Firing} (h : s.formed) : OkHas (·.st.formed) (carryBody f s) := by
  unfold carryBody
  split
  · exact .error
  · rename_i s1 e
    have hs1 : s1.formed := sendCarry_formed h _ e
    exact .ok hs1

theorem lbreakBody_formed {s : State} {f : Firing} (h : s.formed) : OkHas (·.st.formed) (lbreakBody f s) :=
  .bind fun _ ed => .ok (modLoop_formed (branchBody_formed h _ ed))

/-! ### Tile -/

theorem sendTile_formed {s : State} {f : Firing} {used : List Tok} {n : NewTile} (h : s.formed) : OkHas (·.st.formed) (f.sendTile s used n) := by
  unfold Firing.sendTile
  split
  · exact .error
  · extract_lets s1 _ _ s2
    have hs1 : s1.formed := dropToks_formed h
    have hs2 : s2.formed := hs1
    exact .ok (orFlags_formed hs2)

theorem tileBin_formed {s : State} {g : Num → Num → NumF} {f : Firing} (h : s.formed) : OkHas (·.st.formed) (tileBin g f s) :=
  .bind fun _ _ => .bind fun _ _ => .ite .error (sendTile_formed h)

theorem tileBits_formed {s : State} {g : Nat → Nat → Nat} {f : Firing} (h : s.formed) : OkHas (·.st.formed) (tileBits g f s) :=
  .bind fun _ _ => .bind fun _ _ => .ite .error (sendTile_formed h)

theorem tileUn_formed {s : State} {fn : UnFn} {f : Firing} (h : s.formed) : OkHas (·.st.formed) (tileUn fn f s) :=
  .bind fun _ _ => sendTile_formed h

theorem tfmaBody_formed {s : State} {f : Firing} (h : s.formed) : OkHas (·.st.formed) (tfmaBody f s) :=
  .bind fun _ _ => .bind fun _ _ => .bind fun _ _ => .ite .error (sendTile_formed h)

theorem tsplatBody_formed {s : State} {f : Firing} (h : s.formed) : OkHas (·.st.formed) (tsplatBody f s) :=
  .bind fun _ _ => .bind fun _ _ => .ite .error (.bind fun _ _ => sendTile_formed h)

theorem tileRepeat_formed {s : State} {byRow : Bool} {f : Firing} (h : s.formed) : OkHas (·.st.formed) (tileRepeat byRow f s) :=
  .bind fun _ _ => .bind fun _ _ => .ite .error (sendTile_formed h)

theorem tileReduce_formed {s : State} {isMax byRow : Bool} {f : Firing} (h : s.formed) : OkHas (·.st.formed) (tileReduce isMax byRow f s) :=
  .bind fun _ _ => sendTile_formed h

theorem tsumBody_formed {s : State} {f : Firing} (h : s.formed) : OkHas (·.st.formed) (tsumBody f s) :=
  .bind fun _ _ => sendTile_formed h

theorem ttransBody_formed {s : State} {f : Firing} (h : s.formed) : OkHas (·.st.formed) (ttransBody f s) :=
  .bind fun _ _ => sendTile_formed h

theorem tmaskBody_formed {s : State} {f : Firing} (h : s.formed) : OkHas (·.st.formed) (tmaskBody f s) :=
  .bind fun _ _ => .bind fun _ _ => .ite .error (sendTile_formed h)

theorem tcmpBody_formed {s : State} {c : TCond} {f : Firing} (h : s.formed) : OkHas (·.st.formed) (tcmpBody c f s) :=
  .bind fun _ _ => .bind fun _ _ => .ite .error (sendTile_formed h)

theorem tselBody_formed {s : State} {f : Firing} (h : s.formed) : OkHas (·.st.formed) (tselBody f s) :=
  .bind fun _ _ => .bind fun _ _ => .ite .error (sendTile_formed h)

theorem telgetBody_formed {s : State} {f : Firing} (h : s.formed) : OkHas (·.st.formed) (telgetBody f s) :=
  .bind fun _ _ => .bind fun _ _ => .ite .error (.ok (scalar_formed h))

theorem telsetBody_formed {s : State} {f : Firing} (h : s.formed) : OkHas (·.st.formed) (telsetBody f s) :=
  .bind fun _ _ => .bind fun _ _ => .ite .error (sendTile_formed h)

theorem tnewBody_formed {s : State} {w : TnewW} {f : Firing} (h : s.formed) : OkHas (·.st.formed) (tnewBody w f s) :=
  .bind fun _ _ => sendTile_formed h

theorem trelBody_formed {s : State} {f : Firing} (h : s.formed) : OkHas (·.st.formed) (trelBody f s) :=
  .bind fun _ _ => .ok (send_formed h)

theorem tcopyBody_formed {s : State} {f : Firing} (h : s.formed) : OkHas (·.st.formed) (tcopyBody f s) :=
  .bind fun _ _ => sendTile_formed h

theorem tcvtBody_formed {s : State} {w : ConvW} {f : Firing} (h : s.formed) : OkHas (·.st.formed) (tcvtBody w f s) := by
  unfold tcvtBody
  refine .bind fun _ _ => .bind fun _ _ => .bind fun r e => ?_
  have hr : r.st.formed := sendTile_formed h _ e
  refine .ite (.ok hr) <| .ok ?_
  split
  · exact dropTok_formed hr
  · exact hr

theorem tamaxBody_formed {s : State} {f : Firing} (h : s.formed) : OkHas (·.st.formed) (tamaxBody f s) :=
  .bind fun _ _ => .ok (scalar_formed h)

theorem trescaleBody_formed {s : State} {f : Firing} (h : s.formed) : OkHas (·.st.formed) (trescaleBody f s) :=
  .bind fun _ _ => .bind fun _ _ => .ite .error (.ok (scalar_formed (orFlags_formed (hold_formed h))))

/-! ### Memory -/

theorem queueError_formed {s : State} {qi slot code : Nat} (h : s.formed) : (s.queueError qi slot code).formed := by
  unfold State.queueError
  split
  · exact h
  · exact ite_formed (writeBytes_formed h ..) (write64_formed (writeBytes_formed h ..) ..)

theorem abortCopy_formed {s : State} {c : Nat} {e : Fail} (h : s.formed) : (s.abortCopy c e).formed := by
  unfold State.abortCopy
  split
  · exact h
  · refine ite_formed h ?_
    extract_lets -underBinder s1
    have hs1 : s1.formed := by
      dsimp only [s1]
      split
      · exact raiseAt_formed h
      · exact queueError_formed h
    exact hs1

theorem markFaulted_formed {s : State} {src : Src} (h : s.formed) : (s.markFaulted src).formed := by
  unfold State.markFaulted
  split
  · exact ite_formed h h
  · exact h

theorem accessFault_formed {s : State} {n : Nat} {a : Access} {e : Fail} (h : s.formed) : (s.accessFault n a e).formed := by
  unfold State.accessFault
  split
  · exact abortCopy_formed h
  · exact abortCopy_formed h
  · exact ite_formed (raiseAt_formed h) (dropReplies_formed (markFaulted_formed (raiseAt_formed h)))

theorem fillTables_formed {s : State} {c pe : Nat} {cells : List (Nat × Nat)} (h : s.formed) : (s.fillTables c pe cells).formed := by
  unfold State.fillTables
  split
  · exact h
  · exact foldl_formed _ (fun _ _ hs => tlbFill_formed hs) _ h

theorem sendExtra_formed {s : State} {a : Access} (h : s.formed) : (s.sendExtra a).formed := by
  unfold State.sendExtra
  refine foldl_formed _ (fun s _ hs => ?_) _ h
  split
  · refine ite_formed ?_ hs
    split
    · rename_i s' e
      have hs' : s'.formed := sendTo_formed hs _ e
      exact hs'
    · exact raiseAt_formed hs
  · exact hs

theorem accessPage_formed {s : State} {n : Nat} {a : Access} {kind va level : Nat} (h : s.formed) : (s.accessPage n a kind va level).formed := by
  unfold State.accessPage
  split
  · exact accessFault_formed h
  · exact h
  · rename_i s1 k e
    have hs1 : s1.formed := pageEntry_formed h _ _ e
    exact ite_formed (discardToEntry_formed hs1) hs1

theorem storeTranslated_formed {s : State} {a : Access} {cells : List (Nat × Nat)} {refused : List Nat} (h : s.formed) :
    (s.storeTranslated a cells refused).formed := by
  unfold State.storeTranslated
  split <;> exact h

theorem walkAccess_formed {s : State} {n : Nat} {a : Access} {buf : List Byte} {cells : List (Nat × Nat)} (h : s.formed) :
    (s.walkAccess n a buf cells).formed := by
  unfold State.walkAccess
  split
  · exact accessPage_formed h
  · exact accessPage_formed h
  · exact accessFault_formed h
  · exact ite_formed (storeTranslated_formed (fillTables_formed h)) (sendExtra_formed (fillTables_formed h))

theorem walkEvent_formed {s : State} {n : Nat} (h : s.formed) : MayForm (s.walkEvent n) := by
  unfold State.walkEvent
  split
  · exact .none
  · split
    · exact .none
    split
    · exact .ite (.some h) .none
    split
    · exact .some (walkAccess_formed h)
    · extract_lets f
      refine .ite ?_ .none
      split
      · exact .none
      · exact .some (walkAccess_formed h)
    · exact .none

theorem expectAll_formed {s : State} {ds : List Dest} (h : s.formed) : (s.expectAll ds).formed :=
  foldl_formed _ (fun _ _ hs => expect_formed hs) _ h

theorem issueLoad_formed {s : State} {f : Firing} {lsid stream : Nat} {cells : List (Nat × Nat)} {size : Nat} {dests extra : List Dest}
    {purpose : AccFor} {step : Option Nat} (h : s.formed) : OkHas State.formed (f.issueLoad s lsid stream cells size dests extra purpose step) :=
  .ite .error (.ok (expectAll_formed h))

theorem loadBody_formed {s : State} {routed : Bool} {x : LoadX} {w : MemW} {f : Firing} (h : s.formed) :
    OkHas (·.st.formed) (loadBody routed x w f s) := by
  unfold loadBody
  refine .bind fun a _ => ?_
  extract_lets k
  refine .join (k := k) fun _ => .bind fun ea _ => ?_
  extract_lets k'
  exact .join (k := k') fun dests => .bind fun _ e => .ok (issueLoad_formed h _ e)

theorem ldpairBody_formed {s : State} {x : LoadX} {w : MemW} {f : Firing} (h : s.formed) : OkHas (·.st.formed) (ldpairBody x w f s) :=
  .bind fun _ _ => .bind fun _ _ => .bind fun _ _ => .bind fun _ es1 => .bind fun _ es2 => .ok (issueLoad_formed (issueLoad_formed h _ es1) _ es2)

theorem fetchTile_formed {s : State} {f : Firing} {ch : ChanFmt} {fc rows cols m : Nat} (h : s.formed) :
    OkHas (·.1.formed) (f.fetchTile s ch fc rows cols m) :=
  .ite .error (.ok h)

theorem tldBody_formed {s : State} {routed : Bool} {w : TmemW} {f : Firing} (h : s.formed) : OkHas (·.st.formed) (tldBody routed w f s) := by
  unfold tldBody
  refine .bind fun a _ => ?_
  extract_lets k
  refine .join (k := k) fun _ => .bind fun ch _ => .ite .error <| .ite .error ?_
  extract_lets k'
  exact .join (k := k') fun dests => .bind fun (_, _, _) e1 => .bind fun _ e2 => .ok (issueLoad_formed (fetchTile_formed h _ e1) _ e2)

theorem tgathBody_formed {s : State} {w : TmemW} {f : Firing} (h : s.formed) : OkHas (·.st.formed) (tgathBody w f s) :=
  .bind fun _ _ => .bind fun _ _ => .bind fun _ _ => .bind fun ⟨_, _, _⟩ e1 => .bind fun _ e2 =>
    .ok (issueLoad_formed (fetchTile_formed h _ e1) _ e2)

theorem noteStore_formed {s : State} {src : Src} {lsid stream : Nat} {cells : List (Nat × Nat)} {scalar : Bool} {data : Option (List Byte)}
    {holder : Option Word} (h : s.formed) : (s.noteStore src lsid stream cells scalar data holder).formed := by
  unfold State.noteStore
  extract_lets -underBinder
  split
  · exact h
  · split <;> exact h

theorem storeAddress_formed {s : State} {src : Src} {i : Instr} {t : Tok} (h : s.formed) : (s.storeAddress src i t).formed := by
  unfold State.storeAddress
  split
  · refine ite_formed h ?_
    split
    · exact noteStore_formed h
    · exact h
  · exact h

theorem claimLsid_formed {s : State} {f : Firing} {lsid : Nat} (h : s.formed) : OkHas State.formed (f.claimLsid s lsid) :=
  .ite .error (.ok (satisfy_formed h))

theorem stBody_formed {s : State} {wd : Width} {w : MemW} {f : Firing} (h : s.formed) : OkHas (·.st.formed) (stBody wd w f s) := by
  unfold stBody
  refine .bind fun _ _ => ?_
  extract_lets -underBinder k
  have hk (b : _) : OkHas (·.st.formed) (k b) := .bind fun _ _ => .bind fun _ es1 => .ok (noteStore_formed (claimLsid_formed h _ es1))
  exact .ite (.bind fun b _ => hk b) (.bind fun b _ => hk b)

theorem tstBody_formed {s : State} {w : TmemW} {f : Firing} (h : s.formed) : OkHas (·.st.formed) (tstBody w f s) :=
  .bind fun _ _ => .ite .error <| .bind fun _ _ => .ite .error <| .ite .error <|
    .bind fun ⟨_, _⟩ _ => .bind fun _ e => .ok (noteStore_formed (claimLsid_formed h _ e))

theorem tscatBody_formed {s : State} {w : TmemW} {f : Firing} (h : s.formed) : OkHas (·.st.formed) (tscatBody w f s) := by
  unfold tscatBody
  refine .bind fun _ _ => .ite .error <| .bind fun _ _ => .bind fun _ _ => ?_
  split
  exact .bind fun _ es1 => .bind fun _ es2 => .ok (modFrame_formed (issueLoad_formed (claimLsid_formed h _ es1) _ es2))

theorem addHold_formed {s : State} {src : Src} {waits chain : List Nat} {streams : Nat} {loads writes : Bool} (h : s.formed) :
    (s.addHold src waits chain streams loads writes).formed :=
  ite_formed h h

theorem commitFence_formed {s : State} {pend : List Hold} {src : Src} {streams : Nat} {acq rel : Bool} (h : s.formed) :
    (s.commitFence pend src streams acq rel).formed :=
  addHold_formed h

theorem commitSbar_formed {s : State} {pend : List Hold} {src : Src} {from_ to_ : Nat} (h : s.formed) : (s.commitSbar pend src from_ to_).formed :=
  addHold_formed h

theorem holdBody_formed {s : State} {e : Effect} {f : Firing} (h : s.formed) : OkHas (·.st.formed) (holdBody e f s) :=
  .ok (hold_formed h)

theorem takeNumber_formed {s : State} {c pe : Nat} {t : Timeline} (h : s.formed) : (s.takeNumber c pe t).1.formed := by
  unfold State.takeNumber
  extract_lets -underBinder
  exact h

theorem setStat_formed {s : State} {k idx : Nat} {st : IStat} (h : s.formed) : (s.setStat k idx st).formed :=
  modFrame_formed h

theorem wakeWaits_formed {s : State} {c pe : Nat} {t : Timeline} (h : s.formed) : (s.wakeWaits c pe t).formed := by
  unfold State.wakeWaits
  extract_lets -underBinder
  refine foldl_formed _ (fun s _ hs => ?_) _ h
  refine ite_formed ?_ hs
  refine foldl_formed _ (fun s _ hs => ?_) _ hs
  split
  · exact ite_formed (reply_formed (setStat_formed hs)) hs
  · exact hs

theorem completeNumber_formed {s : State} {c pe : Nat} {t : Timeline} {n : Nat} (h : s.formed) : (s.completeNumber c pe t n).formed :=
  wakeWaits_formed h

theorem tlwaitBody_formed {s : State} {t : Timeline} {f : Firing} (h : s.formed) : OkHas (·.st.formed) (tlwaitBody t f s) :=
  .bind fun _ _ => .ite (.ok (reply_formed (expect_formed h))) (.ok (expect_formed h))

theorem tlreadBody_formed {s : State} {t : Timeline} {f : Firing} (h : s.formed) : OkHas (·.st.formed) (tlreadBody t f s) :=
  .ok (scalar_formed h)

/-! ### Matrix -/

theorem claimed_formed {s : State} {f : Firing} {z : Option (BitVec 3)} (h : s.formed) : (f.claimed s z).formed := by
  unfold Firing.claimed
  split <;> exact h

theorem issueInOrder_formed {s : State} {f : Firing} {i : Instr} {z : Option (BitVec 3)} {body : Body}
    (h : s.formed) (hb : OkHas (·.st.formed) (body f s)) :
    (s.issueInOrder f i z body).formed := by
  unfold State.issueInOrder
  refine ite_formed (mismatch_formed h) (ite_formed (waitAt_formed h) (ite_formed (ite_formed (fireNull_formed (claimed_formed h))
    (waitAt_formed h)) ?_))
  split
  · exact waitAt_formed h
  · exact holdAt_formed h
  · exact ite_formed (conclude_formed (claimed_formed h) hb) (waitAt_formed h)

theorem sendNumber_formed {s : State} {f : Firing} (h : s.formed) : (f.sendNumber s).st.formed :=
  scalar_formed (completeNumber_formed (takeNumber_formed h))

theorem multiply_formed {s : State} {f : Firing} {x : AccX} {a b : MatIn} (h : s.formed) : OkHas State.formed (f.multiply s x a b) := by
  unfold Firing.multiply
  split
  · exact .error
  · exact .ite .error (.ok h)

theorem mmaBody_formed {s : State} {x : AccX} {f : Firing} (h : s.formed) : OkHas (·.st.formed) (mmaBody x f s) :=
  .bind fun _ _ => .bind fun _ _ => .bind fun _ es1 => .ok (sendNumber_formed (multiply_formed h _ es1))

theorem mmarBody_formed {s : State} {x : AccX} {f : Firing} (h : s.formed) : OkHas (·.st.formed) (mmarBody x f s) := by
  unfold mmarBody
  refine .bind fun a _ => .ite .error <| .bind fun _ _ => .bind fun _ _ => .bind fun _ _ => .bind fun _ _ => ?_
  extract_lets k
  have hk (b : _) : OkHas (·.st.formed) (k b) := .bind fun _ _ => .bind fun _ _ => .bind fun s1 e =>
    have hs1 : s1.formed := multiply_formed h _ e
    have hs2 : (if bitAt a 3 then s1 else f.markPop s1 (bitsAt a 0 3)).formed := ite_formed hs1 hs1
    .ok (sendNumber_formed (ite_formed hs2 hs2))
  split <;> exact .bind fun b _ => hk b

theorem rcfgBody_formed {s : State} {w : RingW} {f : Firing} (h : s.formed) : OkHas (·.st.formed) (rcfgBody w f s) := by
  unfold rcfgBody
  extract_lets q r me k
  have hk (a : Ring) : OkHas (·.st.formed) (k a) := .ok (scalar_formed (hold_formed (tellHeads_formed h)))
  refine .ite (.bind fun a _ => hk a) (.ite (.bind fun a _ => hk a) (.ite (.bind fun a _ => hk a) (.bind fun ch _ => ?_)))
  exact .join hk

theorem rpushBody_formed {s : State} {w : RingW} {f : Firing} (h : s.formed) : OkHas (·.st.formed) (rpushBody w f s) :=
  .bind fun _ _ => .ite .error (.bind fun _ _ => .ite .error (.ok (scalar_formed h)))

theorem rpopBody_formed {s : State} {w : RingW} {f : Firing} (h : s.formed) : OkHas (·.st.formed) (rpopBody w f s) :=
  .bind fun _ _ => .bind fun _ _ => sendTile_formed h

theorem rstatBody_formed {s : State} {w : RingW} {f : Firing} (h : s.formed) : OkHas (·.st.formed) (rstatBody w f s) :=
  .bind fun _ _ => .ok (scalar_formed h)

theorem zinitBody_formed {s : State} {w : AccW} {f : Firing} (h : s.formed) : OkHas (·.st.formed) (zinitBody w f s) :=
  .ok (sendNumber_formed h)

theorem zclrfBody_formed {s : State} {w : AccW} {f : Firing} (h : s.formed) : OkHas (·.st.formed) (zclrfBody w f s) :=
  .ok (sendNumber_formed h)

theorem zflagsBody_formed {s : State} {w : AccW} {f : Firing} (h : s.formed) : OkHas (·.st.formed) (zflagsBody w f s) :=
  .ok (scalar_formed h)

theorem zscaleBody_formed {s : State} {w : AccW} {f : Firing} (h : s.formed) : OkHas (·.st.formed) (zscaleBody w f s) :=
  .bind fun _ _ => .ite .error (.ok (sendNumber_formed h))

theorem zloadBody_formed {s : State} {w : AccW} {f : Firing} (h : s.formed) : OkHas (·.st.formed) (zloadBody w f s) :=
  .bind fun _ _ => .ite .error (.ok (sendNumber_formed h))

theorem drainTo_formed {s : State} {f : Firing} {z : BitVec 3} {w : DrainW} {d : DrainTo} {used : List Tok} (h : s.formed) :
    OkHas (·.st.formed) (f.drainTo s z w d used) := by
  unfold Firing.drainTo
  extract_lets -underBinder k
  have hk (b : _) : OkHas (·.st.formed) (k b) := .ite .error (sendTile_formed (completeNumber_formed (takeNumber_formed h)))
  exact .ite (.bind fun b _ => hk b) (.bind fun b _ => hk b)

theorem zdrainBody_formed {s : State} {z : BitVec 3} {w : DrainW} {f : Firing} (h : s.formed) : OkHas (·.st.formed) (zdrainBody z w f s) :=
  .ite (.bind fun _ _ => drainTo_formed h) (.bind fun _ _ => drainTo_formed h)

theorem step_formed {s : State} {f : Firing} (h : s.formed) : (f.step s).formed :=
  dropToks_formed (modFrame_formed h)

theorem OkHas.stepOf {α : Type} {P : α → Prop} {k : Nat} {r : Except Stop α} (h : OkHas P r) : OkHas P (stepOf k r) := by
  unfold Machine.stepOf
  split
  · exact .error
  · exact h

theorem tmacBody_formed {s : State} {x : AccX} {w : DrainW} {f : Firing} (h : s.formed) : OkHas (·.st.formed) (tmacBody x w f s) := by
  unfold tmacBody
  split
  · exact .stepOf <| .bind fun _ _ => drainTo_formed h
  · refine .stepOf <| .bind fun _ _ => .bind fun _ _ => .bind fun s1 e => .ok ?_
    have hs1 : s1.formed := multiply_formed h _ e
    exact step_formed (completeNumber_formed (takeNumber_formed hs1))

theorem eploadBody_formed {s : State} {w : EploadW} {f : Firing} (h : s.formed) : OkHas (·.st.formed) (eploadBody w f s) :=
  .bind fun _ _ => .ok (scalar_formed h)

theorem epargBody_formed {s : State} {w : EpargW} {f : Firing} (h : s.formed) : OkHas (·.st.formed) (epargBody w f s) :=
  .ok (dropTok_formed h)

theorem takePacket_formed {s : State} {raw : BitVec 128} {data : List Byte} (h : s.formed) : (s.takePacket raw data).formed := by
  unfold State.takePacket
  extract_lets -underBinder
  split
  · exact h
  · exact ite_formed h h

theorem packetEvent_formed {s : State} {n : Nat} (h : s.formed) : MayForm (packetEvent n s) := by
  unfold packetEvent
  split
  · refine .ite .none ?_
    split
    · exact .some (takePacket_formed h)
    · exact .none
  · exact .none

theorem discardPending_formed {s : State} {pe z ctx task : Nat} (h : s.formed) : (s.discardPending pe z ctx task).formed := by
  unfold State.discardPending
  split
  · exact h
  · split
    · exact h
    · refine ite_formed h ?_
      split
      · rename_i s1 a e
        have hs1 : s1.formed := fst_formed (discardAct_formed h) e
        exact hs1
      · rename_i s1 e
        have hs1 : s1.formed := fst_formed (discardAct_formed h) e
        exact hs1

theorem spillEvent_formed {s : State} {pe z : Nat} (h : s.formed) : MayForm (spillEvent pe z s) := by
  unfold spillEvent
  split
  · refine .ite .none ?_
    extract_lets s1 _
    have hs1 : s1.formed := discardPending_formed h
    split
    · exact .none
    · exact .some (formed_of_same hs1 rfl rfl)
  · exact .none

theorem restoreAcc_formed {s : State} {pe z : Nat} (h : s.formed) : (s.restoreAcc pe z).formed := by
  unfold State.restoreAcc
  extract_lets
  split
  · exact h
  · exact formed_of_same h rfl rfl

/-! ### Atomic -/

theorem counterError_formed {s : State} {cid : Nat} (h : s.formed) : (s.counterError cid).formed := by
  unfold State.counterError
  split <;> exact h

theorem traceReq_formed {s : State} {src : Src} {part pa : Nat} {p : AtomFor} (h : s.formed) : (s.traceReq src part pa p).formed :=
  ite_formed h h

theorem sendTrace_formed {s : State} {src : Src} {t : TraceWrite} (h : s.formed) : (s.sendTrace src t).formed :=
  traceReq_formed h

theorem loseTrace_formed {s : State} {src : Src} {t : TraceWrite} (h : s.formed) : (s.loseTrace src t).formed :=
  traceReq_formed h

theorem traceBytes_formed {s : State} {src : Src} {t : TraceWrite} {w : Nat} (h : s.formed) : (s.traceBytes src t w).formed :=
  ite_formed (loseTrace_formed h) h

theorem performTrace_formed {s : State} {q n : Nat} {r : AtomReq} {l : Line} (h : s.formed) : (s.performTrace q n r l).formed := by
  unfold State.performTrace
  extract_lets -underBinder
  split
  · exact ite_formed h (traceBytes_formed h)
  · exact ite_formed (loseTrace_formed h) h
  · exact h

theorem atomPoisoned_formed {s : State} {q n : Nat} {r : AtomReq} (h : s.formed) : (s.atomPoisoned q n r).formed := by
  unfold State.atomPoisoned
  extract_lets -underBinder
  split
  · exact reply_formed (completeNumber_formed (raiseAt_formed h))
  · exact abortCopy_formed h
  · exact h
  · exact h
  · exact h

theorem performAtom_formed {s : State} {q n : Nat} {r : AtomReq} (h : s.formed) : (s.performAtom q n r).formed := by
  unfold State.performAtom
  split
  · exact h
  · refine ite_formed (performTrace_formed h) ?_
    refine ite_formed (atomPoisoned_formed h) ?_
    extract_lets -underBinder _ _ _ _ s1 s2
    have hs1 : s1.formed := h
    have hs2 : s2.formed := ite_formed (countWrite_formed hs1) hs1
    split
    · exact ite_formed (reply_formed (completeNumber_formed hs2)) (completeNumber_formed hs2)
    · exact hs2
    · exact h
    · exact h
    · exact h

theorem atomRefused_formed {s : State} {q n : Nat} {r : AtomReq} (h : s.formed) : (s.atomRefused q n r).formed := by
  unfold State.atomRefused
  extract_lets -underBinder
  split
  · exact reply_formed (completeNumber_formed (raiseAt_formed h))
  · exact abortCopy_formed h
  · exact h
  · exact h
  · exact h

theorem engineEvent_formed {s : State} {q b : Nat} (h : s.formed) : MayForm (engineEvent q b s) := by
  unfold engineEvent
  split
  · exact .none
  · exact .ite (.some (atomRefused_formed h)) (.ite (.some (performAtom_formed h)) (.ite (.some h) (.some h)))

theorem evictFor_formed {s : State} {q : Nat} (h : s.formed) : (s.evictFor q).formed := by
  unfold State.evictFor
  refine ite_formed h ?_
  extract_lets
  split
  · exact dropLine_formed h ..
  · exact h

theorem fillEvent_formed {s : State} {q line : Nat} (h : s.formed) : MayForm (fillEvent q line s) :=
  .ite .none (.some (foldl_formed _ (fun _ _ hs => performAtom_formed hs) _ (evictFor_formed h)))

theorem atomBody_formed {s : State} {value : Bool} {op : AtomOp} {w : AtomW} {f : Firing} (h : s.formed) :
    OkHas (·.st.formed) (atomBody value op w f s) := by
  unfold atomBody
  refine .bind fun a _ => .bind fun b _ => ?_
  extract_lets -underBinder k
  have hk (c : _) : OkHas (·.st.formed) (k c) := by
    refine .ite .error <| .ite .error ?_
    extract_lets -underBinder issue
    have hissue (p : Nat × Bool) : OkHas (·.st.formed) (issue p) := by
      dsimp only [issue]
      split
      · exact .error
      · have hs1 {l} : (((s.fillTables f.fr.ctx f.pe l).takeNumber f.fr.ctx f.pe .tla).1.markPerformed f.key).formed :=
          markPerformed_formed (takeNumber_formed (fillTables_formed h))
        exact .ite .error (.ite (.ok (expect_formed hs1)) (.ok (scalar_formed hs1)))
    split <;> exact .bind fun p _ => hissue p
  exact .ite (.bind fun c _ => hk c) (.bind fun c _ => hk c)

theorem replyTwo_formed {s : State} {f : Firing} {from_ : Agent} {t0 t1 : Tok} (h : s.formed) : (f.replyTwo s from_ t0 t1).formed :=
  reply_formed (reply_formed (expect_formed h))

theorem replyBoth_formed {s : State} {f : Firing} {from_ : Agent} {t : Tok} (h : s.formed) : (f.replyBoth s from_ t).formed :=
  reply_formed (expect_formed h)

theorem acbindBody_formed {s : State} {f : Firing} (h : s.formed) : OkHas (·.st.formed) (acbindBody f s) := by
  unfold acbindBody
  refine .bind fun a _ => .bind fun b _ => .ite .error <| .ite .error <| .bind fun dk _ => ?_
  extract_lets -underBinder k
  have hk (c : _) : OkHas (·.st.formed) (k c) := by
    refine .ite .error <| .ite .error <| .bind fun ks _ => .ite .error <| .ite .error ?_
    extract_lets -underBinder _ _ bad
    have hbad (c : Word) : OkHas (·.st.formed) (bad c) := .ok (replyTwo_formed h)
    split
    · exact hbad 0
    · exact .ite (hbad 2) (.ite (hbad 3) (.ok (replyTwo_formed (hold_formed h))))
  exact .ite (.bind fun c _ => hk c) (.bind fun c _ => hk c)

theorem acexpectBody_formed {s : State} {f : Firing} (h : s.formed) : OkHas (·.st.formed) (acexpectBody f s) := by
  unfold acexpectBody
  refine .bind fun _ _ => .bind fun _ _ => .ite .error <| .bind fun _ _ => ?_
  split
  · exact .ite (.ok (replyBoth_formed (markPerformed_formed h))) (.ok (replyBoth_formed (markPerformed_formed h)))
  · exact .ok (replyBoth_formed (markPerformed_formed h))

theorem toHome_formed {s : State} {f : Firing} {dst : Agent} {m : Msg} {again : Bool} (h : s.formed) : (f.toHome s dst m again).st.formed :=
  expect_formed h

theorem acreadBody_formed {s : State} {f : Firing} (h : s.formed) : OkHas (·.st.formed) (acreadBody f s) :=
  .bind fun _ _ => .ok (toHome_formed h)

theorem raiseHome_formed {s : State} {src : Src} {e : Fail} (h : s.formed) : (s.raiseHome src e).formed :=
  ite_formed (raiseHeader_formed h) (raiseAt_formed h)

theorem readFault_formed {s : State} {from_ : Agent} {ds : List Dest} {src : Src} {e : Fail} (h : s.formed) : (s.readFault from_ ds src e).formed :=
  withhold_formed (markFaulted_formed (raiseHome_formed h))

theorem answered_formed {s : State} {src : Src} (h : s.formed) : (s.answered src).formed := by
  unfold State.answered
  split
  · exact markAt_formed (dropToks_formed h)
  · exact h

theorem counterRead_formed {s : State} {cid : Nat} {ds : List Dest} {src : Src} (h : s.formed) : (s.counterRead cid ds src).formed := by
  unfold State.counterRead
  split
  · exact reply_formed (answered_formed h)
  · exact readFault_formed h

theorem countEvent_formed {s : State} {n : Nat} (h : s.formed) : MayForm (countEvent n s) := by
  unfold countEvent
  split
  · refine .ite .none ?_
    split
    · extract_lets -underBinder s1
      have hs1 : s1.formed := h
      refine .some ?_
      split
      · exact ite_formed hs1 hs1
      · exact hs1
    · exact .some (counterRead_formed h)
    · exact .none
  · exact .none

theorem acfreeBody_formed {s : State} {f : Firing} (h : s.formed) : OkHas (·.st.formed) (acfreeBody f s) :=
  .bind fun _ _ => .ok (hold_formed h)

theorem commitAcfree_formed {s : State} {c cid : Nat} (h : s.formed) : (s.commitAcfree c cid).formed :=
  ite_formed h h

theorem commitAcbind_formed {s : State} {cid : Nat} (h : s.formed) : (s.commitAcbind cid).formed := by
  unfold State.commitAcbind
  split <;> exact h

theorem arrivalBad_formed {s : State} {a : BarArr} (h : s.formed) : (s.arrivalBad a).formed := by
  unfold State.arrivalBad
  split
  · exact counterError_formed h
  · exact raiseAt_formed h

theorem barForward_formed {s : State} {rec_ n : Nat} (h : s.formed) : (s.barForward rec_ n).formed :=
  ite_formed h h

theorem barArrive_formed {s : State} {rec_ n : Nat} {arrs : List BarArr} (h : s.formed) : (s.barArrive rec_ n arrs).formed :=
  ite_formed (foldl_formed _ (fun _ _ hs => arrivalBad_formed hs) _ h) (barForward_formed h)

theorem arrivalsRefused_formed {s : State} {arrs : List BarArr} (h : s.formed) : (s.arrivalsRefused arrs).formed := by
  unfold State.arrivalsRefused
  refine foldl_formed _ (fun s _ hs => ?_) _ h
  split
  · exact counterError_formed hs
  · exact raiseAt_formed hs

theorem barArriveEvent_formed {s : State} {n : Nat} (h : s.formed) : MayForm (barArriveEvent n s) := by
  unfold barArriveEvent
  split
  · refine .ite .none ?_
    split
    · rename_i kid _
      refine .ite .none ?_
      extract_lets -underBinder s1 s2
      have hs2 : s2.formed := by
        cases kid with
        | none => exact h
        | some k => exact barForward_formed h
      exact .some (ite_formed (arrivalsRefused_formed hs2) (barArrive_formed hs2))
    · exact .none
  · exact .none

theorem barRelease1_formed {s : State} {rec_ : Nat} {a : BarArr} (h : s.formed) : (s.barRelease1 rec_ a).formed := by
  unfold State.barRelease1
  split
  · exact h
  · exact ite_formed (modTask_formed h) h

theorem barReleaseAt_formed {s : State} {rec_ n : Nat} {arrs : List BarArr} (h : s.formed) : (s.barReleaseAt rec_ n arrs).formed :=
  ite_formed (foldl_formed _ (fun _ _ hs => barRelease1_formed hs) _ h) (foldl_formed _ (fun _ _ hs => by exact hs) _ h)

theorem barReleaseAll_formed {s : State} {rec_ root : Nat} (h : s.formed) : (s.barReleaseAll rec_ root).formed :=
  barReleaseAt_formed h

theorem barCompleteEvent_formed {s : State} {rec_ : Nat} (h : s.formed) : MayForm (barCompleteEvent rec_ s) :=
  .ite .none (.some (countWrite_formed (write64_formed (barReleaseAll_formed h) ..)))

theorem barReleaseEvent_formed {s : State} {n : Nat} (h : s.formed) : MayForm (barReleaseEvent n s) := by
  unfold barReleaseEvent
  split
  · refine .ite .none ?_
    split
    · exact .some (barReleaseAt_formed h)
    · exact .none
  · exact .none

theorem barResume_formed {s : State} {c : Nat} (h : s.formed) : (s.barResume c).formed := by
  unfold State.barResume
  refine foldl_formed _ (fun s p hs => ?_) _ h
  exact foldl_formed _ (fun _ _ hs => barRelease1_formed hs) _ (by exact hs)

theorem barAdopt_formed {s : State} {rec_ : Nat} (h : s.formed) : (s.barAdopt rec_).formed :=
  barReleaseAll_formed h

theorem barinitBody_formed {s : State} {w : BarW} {f : Firing} (h : s.formed) : OkHas (·.st.formed) (barinitBody w f s) :=
  .bind fun _ _ => .bind fun _ _ => .ite .error (.ok (scalar_formed (hold_formed h)))

theorem bararrBody_formed {s : State} {level : Nat} {nw : Bool} {step : Option Nat} {f : Firing} (h : s.formed) :
    OkHas (·.st.formed) (bararrBody level nw step f s) := by
  unfold bararrBody
  extract_lets go
  have hgo : OkHas (·.st.formed) go := .bind fun _ _ => .ite .error (.ok (scalar_formed (hold_formed h)))
  cases step with
  | none => exact hgo
  | some k => exact .stepOf hgo

theorem bartryBody_formed {s : State} {f : Firing} (h : s.formed) : OkHas (·.st.formed) (bartryBody f s) :=
  .bind fun _ _ => .bind fun _ _ => .ite .error (.ok (replyBoth_formed h))

theorem commitBararr_formed {s : State} {va pa level : Nat} {nw : Bool} {src : Src} {step : Option Nat} (h : s.formed) :
    (s.commitBararr va pa level nw src step).formed :=
  ite_formed h (modTask_formed h)

theorem counterAction_formed {s : State} {cid : Nat} {c : Counter} (h : s.formed) : MayForm (s.counterAction cid c) := by
  unfold State.counterAction
  extract_lets -underBinder
  refine .ite .none ?_
  refine .ite ?_ ?_
  · split
    · exact .some h
    · exact .none
  · refine .ite ?_ (.some h)
    split
    · exact .some (hwEnqueueBytes_formed h)
    · exact .none

theorem counterFireEvent_formed {s : State} {cid : Nat} (h : s.formed) : MayForm (counterFireEvent cid s) := by
  unfold counterFireEvent
  split
  · exact .none
  · refine .ite .none ?_
    extract_lets -underBinder s1
    split
    · rename_i s2 e
      exact .some (counterAction_formed (s := s1) h _ e)
    · exact .some (counterError_formed h)

/-! ### Channel -/

theorem addSegments_formed {s : State} {c : Nat} {d : Int} (h : s.formed) : (s.addSegments c d).formed :=
  modCtx_formed h ..

theorem unpark_formed {s : State} {k idx : Nat} (h : s.formed) : (s.unpark k idx).formed :=
  modFrame_formed h

theorem faultParked_formed {s : State} {code : Code} {p : Nat × Nat} (h : s.formed) : (s.faultParked code p).formed := by
  unfold State.faultParked
  split
  · exact h
  · exact raiseAt_formed (setStat_formed h)

theorem faultSends_formed {s : State} {ch : Nat} {code : Code} (h : s.formed) : (s.faultSends ch code).formed :=
  foldl_formed _ (fun _ _ hs => faultParked_formed hs) _ h

theorem tellWriter_formed {s : State} {ch : Nat} {c : Chan} {off : Bool} (h : s.formed) : (s.tellWriter ch c off).formed := by
  unfold State.tellWriter
  split <;> exact h

theorem maybeXon_formed {s : State} {ch : Nat} (h : s.formed) : (s.maybeXon ch).formed := by
  unfold State.maybeXon
  split
  · exact ite_formed (tellWriter_formed h) h
  · exact h

theorem quotaBlock_formed {s : State} {ch : Nat} (h : s.formed) : (s.quotaBlock ch).formed := by
  unfold State.quotaBlock
  split
  · exact faultSends_formed h
  · exact h

theorem reserveSegment_formed {s : State} {ch : Nat} (h : s.formed) : (s.reserveSegment ch).formed := by
  unfold State.reserveSegment
  split
  · exact addSegments_formed h
  · exact h

theorem checkFlow_formed {s : State} {ch : Nat} (h : s.formed) : (s.checkFlow ch).formed := by
  unfold State.checkFlow
  split
  · exact h
  · exact ite_formed h (ite_formed (tellWriter_formed h) (ite_formed (ite_formed (tellWriter_formed h) (hostPost_formed (tellWriter_formed h)))
    (ite_formed (reserveSegment_formed h) (quotaBlock_formed (tellWriter_formed h)))))

theorem answer_formed {s : State} {c : Chan} {r : RecvReq} {e : Elem} (h : s.formed) : (s.answer c r e).formed :=
  reply_formed (ite_formed (foldl_formed _ (fun _ _ hs => by exact hs) _ h) (reply_formed h))

theorem answerNone_formed {s : State} {c : Chan} {r : RecvReq} {status : Word} (h : s.formed) : (s.answerNone c r status).formed :=
  reply_formed (reply_formed h)

theorem serveChan_formed {s : State} {ch n : Nat} (h : s.formed) : (s.serveChan ch n).formed := by
  induction n generalizing s with
  | zero => exact h
  | succ n ih =>
    unfold State.serveChan
    split
    · exact h
    split
    · exact h
    refine ite_formed h ?_
    split
    · exact ih (answer_formed h)
    · exact ite_formed h (ite_formed (ih (answerNone_formed h)) (ite_formed (ih (answerNone_formed h)) h))

theorem freeChan_formed {s : State} {ch : Nat} (h : s.formed) : (s.freeChan ch).formed := by
  unfold State.freeChan
  split
  · exact addSegments_formed h
  · exact h

theorem freeIfDone_formed {s : State} {ch : Nat} (h : s.formed) : (s.freeIfDone ch).formed := by
  unfold State.freeIfDone
  split
  · exact ite_formed (freeChan_formed h) h
  · exact h

theorem serveAll_formed {s : State} {ch : Nat} (h : s.formed) : (s.serveAll ch).formed :=
  ite_formed (maybeXon_formed (serveChan_formed h)) (serveChan_formed h)

theorem settleChan_formed {s : State} {ch : Nat} (h : s.formed) : (s.settleChan ch).formed :=
  freeIfDone_formed (serveAll_formed h)

theorem sent_formed {s : State} {src : Src} {tls : Nat} {holder : Option Word} (h : s.formed) : (s.sent src tls holder).formed := by
  unfold State.sent
  extract_lets -underBinder s1
  have hs1 : s1.formed := by
    dsimp only [s1]
    split
    · exact release_formed h
    · exact h
  exact completeNumber_formed hs1

theorem elementEvent_formed {s : State} {n : Nat} (h : s.formed) : MayForm (elementEvent n s) := by
  unfold elementEvent
  split
  · refine .ite .none ?_
    split
    · split
      · exact .some (sent_formed h)
      · refine .ite (.some (sent_formed h)) ?_
        split
        · exact .none
        · exact .some (checkFlow_formed (serveAll_formed (sent_formed h)))
    · exact .none
  · exact .none

theorem recvEvent_formed {s : State} {n : Nat} (h : s.formed) : MayForm (recvEvent n s) := by
  unfold recvEvent
  split
  · refine .ite .none ?_
    split
    · extract_lets -underBinder _ s1
      have hs1 : s1.formed := modFrame_formed h
      split
      · exact .some (reply_formed (reply_formed hs1))
      · exact .ite (.some (reply_formed (reply_formed hs1))) (.ite (.some (raiseAt_formed hs1)) (.ite .none (.some (settleChan_formed hs1))))
    · exact .none
  · exact .none

theorem readbackEvent_formed {s : State} {ch : Nat} (h : s.formed) : MayForm (readbackEvent ch s) := by
  unfold readbackEvent
  split
  · exact .none
  · refine .ite .none ?_
    split
    · exact .none
    · exact .some (freeIfDone_formed (checkFlow_formed (ite_formed (maybeXon_formed (serveAll_formed (addSegments_formed h))) (serveAll_formed
      (addSegments_formed h)))))

theorem bindEvent_formed {s : State} {n : Nat} (h : s.formed) : MayForm (bindEvent n s) := by
  unfold bindEvent
  split
  · refine .ite .none ?_
    split
    · extract_lets -underBinder s1
      have hs1 : s1.formed := h
      split
      · exact .some (foldl_formed _ (fun _ _ hs => faultParked_formed hs) _ hs1)
      · extract_lets -underBinder
        exact .ite (.some (foldl_formed _ (fun _ _ hs => faultParked_formed hs) _ hs1)) (.ite
          (.some (foldl_formed _ (fun _ _ hs => faultParked_formed hs) _ hs1))
            (.some (foldl_formed _ (fun _ _ hs => unpark_formed hs) _ (ite_formed hs1 hs1))))
    · exact .none
  · exact .none

theorem epReleaseEvent_formed {s : State} {n : Nat} (h : s.formed) : MayForm (epReleaseEvent n s) := by
  unfold epReleaseEvent
  split
  · refine .ite .none ?_
    split
    · split
      · exact .some h
      · exact .ite (.some (ite_formed h h)) (.ite .none (.some (ite_formed (freeIfDone_formed h) h)))
    · exact .none
  · exact .none

theorem releaseEndpoints_formed {s : State} {pe task : Nat} (h : s.formed) : (s.releaseEndpoints pe task).formed := by
  unfold State.releaseEndpoints
  extract_lets -underBinder _ s1
  have hs1 : s1.formed := by
    refine foldl_formed _ (fun s _ hs => ?_) _ h
    split <;> exact hs
  exact hs1

theorem xoffEvent_formed {s : State} {n : Nat} (h : s.formed) : MayForm (xoffEvent n s) := by
  unfold xoffEvent
  split
  · refine .ite .none ?_
    split
    · exact .some h
    · exact .none
  · exact .none

theorem xonEvent_formed {s : State} {n : Nat} (h : s.formed) : MayForm (xonEvent n s) := by
  unfold xonEvent
  split
  · refine .ite .none ?_
    split
    · exact .some (foldl_formed _ (fun _ _ hs => unpark_formed hs) _ h)
    · exact .none
  · exact .none

theorem destroyChan_formed {s : State} {ch : Nat} (h : s.formed) : (s.destroyChan ch).formed := by
  unfold State.destroyChan
  split
  · exact h
  · exact freeChan_formed (faultSends_formed (foldl_formed _ (fun _ _ hs => answerNone_formed hs) _ h))

theorem closeChan_formed {s : State} {ch : Nat} (h : s.formed) : (s.closeChan ch).formed := by
  unfold State.closeChan
  split
  · exact h
  · exact settleChan_formed (faultSends_formed h)

theorem closeEvent_formed {s : State} {n : Nat} (h : s.formed) : MayForm (closeEvent n s) := by
  unfold closeEvent
  split
  · refine .ite .none ?_
    split
    · extract_lets -underBinder s1
      have hs1 : s1.formed := h
      split
      · exact .some (raiseAt_formed hs1)
      · exact .ite (.some (raiseAt_formed hs1)) (.some (ite_formed (destroyChan_formed hs1) (closeChan_formed hs1)))
    · exact .none
  · exact .none

theorem destroyChansOf_formed {s : State} {c : Nat} (h : s.formed) : (s.destroyChansOf c).formed := by
  unfold State.destroyChansOf
  refine foldl_formed _ (fun s _ hs => ?_) _ h
  exact ite_formed (destroyChan_formed hs) hs

theorem quotaRaised_formed {s : State} {c : Nat} (h : s.formed) : (s.quotaRaised c).formed := by
  unfold State.quotaRaised
  refine ite_formed h ?_
  extract_lets -underBinder
  refine foldl_formed _ (fun s _ hs => ?_) _ h
  exact ite_formed (maybeXon_formed (reserveSegment_formed hs)) hs

theorem chanResume_formed {s : State} (h : s.formed) : (s.chanResume).formed :=
  foldl_formed _ (fun _ _ hs => settleChan_formed hs) _ h

theorem segmentReply_formed {s : State} {ch : Nat} {granted : Bool} (h : s.formed) : (s.segmentReply ch granted).formed := by
  unfold State.segmentReply
  split
  · exact h
  · exact ite_formed (tellWriter_formed h) (quotaBlock_formed h)

theorem raiseDeadlock_formed {s : State} {ch : Nat} {c : Chan} (h : s.formed) : (s.raiseDeadlock ch c).formed := by
  unfold State.raiseDeadlock
  extract_lets -underBinder
  split
  · exact h
  · split
    · exact h
    · exact ite_formed (faultParked_formed h) (raise_formed (faultParked_formed h))

theorem monitorEvent_formed {s : State} {d : Nat} (h : s.formed) : MayForm (monitorEvent d s) := by
  unfold monitorEvent
  refine .ite .none ?_
  extract_lets -underBinder
  split
  · exact .none
  · refine .ite (.some (hostPost_formed h)) <| .ite (.some (raiseDeadlock_formed h)) ?_
    extract_lets -underBinder s1
    have hs1 : s1.formed := reserveSegment_formed h
    split
    · exact .none
    · exact .some (maybeXon_formed hs1)

theorem probationEvent_formed {s : State} {d : Nat} (h : s.formed) : MayForm (probationEvent d s) := by
  unfold probationEvent
  split
  · exact .none
  · split
    · exact .none
    · exact .ite .none (.some (ite_formed h (raiseDeadlock_formed h)))

theorem resendFlow_formed {s : State} {link : Nat} (h : s.formed) : (s.resendFlow link).formed := by
  unfold State.resendFlow
  refine foldl_formed _ (fun s _ hs => ?_) _ h
  exact ite_formed (tellWriter_formed hs) hs

theorem breakChan_formed {s : State} {ch : Nat} {c : Chan} (h : s.formed) : (s.breakChan ch c).formed :=
  foldl_formed _ (fun _ _ hs => raiseNone_formed hs) _ (foldl_formed _ (fun _ _ hs => raiseAt_formed hs) _ (faultSends_formed h))

theorem breakLink_formed {s : State} {link : Nat} (h : s.formed) : (s.breakLink link).formed := by
  unfold State.breakLink
  refine foldl_formed _ (fun s _ hs => ?_) _ h
  exact ite_formed (breakChan_formed hs) hs

theorem chopenBody_formed {s : State} {w : ChopenW} {f : Firing} (h : s.formed) : OkHas (·.st.formed) (chopenBody w f s) := by
  unfold chopenBody
  refine .bind fun _ _ => .ite .error <| .ite .error <| .ite .error <| .ite .error <| .bind fun _ _ => ?_
  split
  · exact .error
  · split
    · exact .error
    · exact .ite .error (.ite .error (.ite (.ok (replyTwo_formed h)) (.ite (.ok (replyTwo_formed h)) (.ok (replyTwo_formed (hold_formed h))))))

theorem commitChopen_formed {s : State} {ch : Nat} (h : s.formed) : (s.commitChopen ch).formed := by
  unfold State.commitChopen
  split <;> exact h

theorem chcloseBody_formed {s : State} {f : Firing} (h : s.formed) : OkHas (·.st.formed) (chcloseBody f s) := by
  unfold chcloseBody
  refine .bind fun _ _ => .bind fun _ _ => .ite .error ?_
  split
  · exact .error
  · exact .ite .error (.ok (hold_formed h))

theorem commitChclose_formed {s : State} {ch va mode : Nat} {src : Src} (h : s.formed) : (s.commitChclose ch va mode src).formed := by
  unfold State.commitChclose
  split
  · exact h
  · exact raiseAt_formed h

theorem chstatBody_formed {s : State} {f : Firing} (h : s.formed) : OkHas (·.st.formed) (chstatBody f s) := by
  unfold chstatBody
  refine .bind fun _ _ => ?_
  split <;> exact .ok (replyBoth_formed h)

theorem endpoint_formed {s : State} {f : Firing} {ch : Nat} {c : Chan} {writer : Bool} {d : Done}
    (h : s.formed) (e : f.endpoint s ch c writer = .ok (.inr d)) : d.st.formed := by
  unfold Firing.endpoint at e
  split at e
  · split at e
    · cases e
    · cases e
      exact h
  · split at e
    · cases e
    · cases e
      exact h

theorem sendBody_formed {s : State} {isTry : Bool} {f : Firing} (h : s.formed) : OkHas (·.st.formed) (sendBody isTry f s) := by
  unfold sendBody
  refine .bind fun _ _ => .bind fun _ _ => .bind fun x e => ?_
  cases x with
  | inr d => exact .ok (endpoint_formed h e)
  | inl ep =>
    refine .ite .error <| .bind fun _ _ => .ite (.ite (.ok (markPerformed_formed h)) (.ite .error (.ok h))) <| .bind fun _ _ => .ok ?_
    show ((s.markPerformed f.key).takeNumber f.fr.ctx f.pe .tls).1.formed
    exact takeNumber_formed (markPerformed_formed h)

theorem recvBody_formed {s : State} {isTry : Bool} {f : Firing} (h : s.formed) : OkHas (·.st.formed) (recvBody isTry f s) := by
  unfold recvBody
  refine .bind fun ch _ => .ite (.ok (expect_formed h)) <| .bind fun _ _ => .bind fun x e => ?_
  cases x with
  | inr d => exact .ok (endpoint_formed h e)
  | inl _ => exact .ok (expect_formed h)

/-! ### Copy -/

theorem pickWrites_formed {s : State} {cells : List (Nat × Nat)} (h : s.formed) : (s.pickWrites cells).1.formed := by
  unfold State.pickWrites
  refine foldl_fst_formed _ (fun p va hp => ?_) _ h
  split <;> exact hp

theorem writePieces_formed {s : State} {p : Packet} (h : s.formed) : (s.writePieces p).1.formed := by
  unfold State.writePieces
  refine foldl_fst_formed _ (fun r g hr => ?_) _ h
  exact pickWrites_formed hr

theorem copyStartEvent_formed {s : State} {n : Nat} (h : s.formed) : MayForm (copyStartEvent n s) := by
  unfold copyStartEvent
  split
  · exact .none
  · refine .ite .none ?_
    extract_lets -underBinder _ s1 s2
    have hs1 : s1.formed := h
    have hs2 : s2.formed := foldl_formed _ (fun _ _ hs => by exact hs) _ hs1
    split
    · exact .some hs2
    · exact .some (foldl_formed _ (fun _ _ hs => by exact hs) _ (writePieces_formed hs2))

theorem pump_formed {s : State} {n fuel : Nat} (h : s.formed) : (s.pump n fuel).formed := by
  induction fuel generalizing s with
  | zero => exact h
  | succ fuel ih =>
    unfold State.pump
    split
    · exact h
    · split
      · exact ite_formed h (ih (by exact h))
      · exact h

theorem pumpAll_formed {s : State} {n : Nat} (h : s.formed) : (s.pumpAll n).formed := by
  unfold State.pumpAll
  split
  · exact pump_formed h
  · exact h

theorem headUpdateEvent_formed {s : State} {n : Nat} (h : s.formed) : MayForm (headUpdateEvent n s) := by
  unfold headUpdateEvent
  split
  · refine .ite .none ?_
    split
    · extract_lets -underBinder s1
      have hs1 : s1.formed := h
      refine .some ?_
      split
      · exact pumpAll_formed hs1
      · exact hs1
    · exact .none
  · exact .none

theorem takeGroup_formed {s : State} {q : CopyQueue} {k m : Nat} (h : s.formed) : (s.takeGroup q k m).formed :=
  write64_formed (foldl_formed _ (fun _ _ hs => writeByte_formed hs ..) _ h) ..

theorem countCompleted_formed {s : State} {q : CopyQueue} (h : s.formed) : (s.countCompleted q).formed :=
  write64_formed h ..

/-- One turn of the unit's loop, `go` being what runs after it. -/
def serveTurn (s : State) (qi : Nat) (go : State → State) : State :=
  match s.dev.queues.get? qi with
  | none => s
  | some q =>
    let k := s.read64 (q.headerPa + 8)
    let b := s.readBytes (q.slotPa k) 64
    let live := match s.ctx? q.ctx with | some x => x.state.issues | none => false
    if !q.valid || !live || decide (q.door ≤ k) || fieldAt b 63 1 == 0 || decide (Config.maxCopies ≤ s.copiesOn q.pe) then s
    else
      let m := 1 + (groupExt b).getD 0
      let src : Src := { Src.none with ctx := q.ctx, pe := q.pe, frame := 0xFF, block := q.slotVa k, idx := 0xFF }
      let s1 := s.takeGroup q k m
      if s.slotsPoisoned q k m then go ((s1.queueError qi k Code.uncorrectable.num).countCompleted q)
      else match packetOf (s.slotBytes q k m) with
        | none => go ((s1.queueError qi k Code.operand.num).countCompleted q)
        | some p => go (if p.idle then s1.countCompleted q else s1.acceptCopy (Copy.new src 0 (some qi) k p none none))

/-- A structural recursion over fuel turns once by its functional. -/
theorem brecOn_succ {α : Type} (F : (n : Nat) → Nat.below (motive := fun _ => α) n → α) (n : Nat) :
    ∃ x : Nat.below (motive := fun _ => α) (n + 1), x.1 = Nat.brecOn (motive := fun _ => α) n F ∧ Nat.brecOn (motive := fun _ => α) (n + 1) F = F
      (n + 1) x :=
  ⟨_, rfl, rfl⟩

theorem serveQueue_f_eq (s : State) (qi n : Nat) (x : Nat.below (motive := fun _ => State → State) (n + 1)) :
    State.serveQueue._f qi (n + 1) x s = serveTurn s qi x.1 := by
  unfold State.serveQueue._f serveTurn
  cases s.dev.queues.get? qi with
  | none => rfl
  | some q =>
    refine ite_congr rfl (fun _ => rfl) fun _ => ite_congr rfl (fun _ => rfl) fun _ => ?_
    cases packetOf (s.slotBytes q (s.read64 (q.headerPa + 8)) (1 + (groupExt (s.readBytes (q.slotPa (s.read64 (q.headerPa + 8))) 64)).getD 0)) with
    | none => rfl
    | some p => rfl

theorem serveQueue_succ (s : State) (qi fuel : Nat) : s.serveQueue qi (fuel + 1) = serveTurn s qi fun t => t.serveQueue qi fuel := by
  obtain ⟨x, hx, hturn⟩ := brecOn_succ (State.serveQueue._f qi) fuel
  have hgo : (fun t : State => t.serveQueue qi fuel) = x.1 := by
    rw [hx]
    delta State.serveQueue
    rfl
  rw [hgo, ← serveQueue_f_eq]
  delta State.serveQueue
  exact congrFun hturn s

theorem serveTurn_formed {s : State} {qi : Nat} {go : State → State} (h : s.formed) (hgo : ∀ t : State, t.formed → (go t).formed) :
    (serveTurn s qi go).formed := by
  unfold serveTurn
  split
  · exact h
  · extract_lets -underBinder k b live m _ src s1
    refine ite_formed h ?_
    have hs1 : s1.formed := takeGroup_formed h
    clear_value s1
    refine ite_formed (hgo _ (countCompleted_formed (queueError_formed hs1))) ?_
    split
    · exact hgo _ (countCompleted_formed (queueError_formed hs1))
    · refine hgo _ (ite_formed (countCompleted_formed hs1) ?_)
      exact formed_of_same hs1 rfl rfl

theorem serveQueue_formed {s : State} {qi fuel : Nat} (h : s.formed) : (s.serveQueue qi fuel).formed := by
  induction fuel generalizing s with
  | zero => exact h
  | succ fuel ih =>
    rw [serveQueue_succ]
    exact serveTurn_formed h fun _ ht => ih ht

theorem serve_formed {s : State} {qi : Nat} (h : s.formed) : (s.serve qi).formed := by
  unfold State.serve
  split
  · exact serveQueue_formed h
  · exact h

theorem servePe_formed {s : State} {pe : Nat} (h : s.formed) : (s.servePe pe).formed :=
  foldl_formed _ (fun _ _ hs => serve_formed hs) _ h

theorem copyResume_formed {s : State} {c : Nat} (h : s.formed) : (s.copyResume c).formed := by
  unfold State.copyResume
  refine foldl_formed _ (fun s _ hs => ?_) _ h
  exact ite_formed (serve_formed hs) hs

theorem dropQueue_formed {s : State} {qi : Nat} (h : s.formed) : (s.dropQueue qi).formed := by
  unfold State.dropQueue
  split
  · exact ite_formed h h
  · exact h

theorem registerQueue_formed {s : State} {off : Nat} {data : List Byte} {part : Nat} (h : s.formed) : (s.registerQueue off data part).formed := by
  unfold State.registerQueue
  refine ite_formed h ?_
  extract_lets -underBinder _ _ s1
  have hs1 : s1.formed := devPut_formed h ..
  refine ite_formed ?_ ?_
  · extract_lets -underBinder
    refine ite_formed h ?_
    split
    · exact h
    · exact hs1
  · split
    · exact dropQueue_formed hs1
    · exact hs1

theorem ringDoorbell_formed {s : State} {off : Nat} {data : List Byte} (h : s.formed) : (s.ringDoorbell off data).formed := by
  unfold State.ringDoorbell
  extract_lets -underBinder
  split
  · exact ite_formed h (serve_formed h)
  · exact h

theorem finishCopy_formed {s : State} {n : Nat} {k : Copy} (h : s.formed) : (s.finishCopy n k).formed := by
  unfold State.finishCopy
  extract_lets -underBinder s1 s2 s3
  have hs1 : s1.formed := h
  have hs2 : s2.formed := by
    dsimp only [s2]
    split
    · exact completeNumber_formed hs1
    · exact hs1
  have hs3 : s3.formed := by
    dsimp only [s3]
    split
    · split
      · exact dropQueue_formed (countCompleted_formed hs2)
      · exact hs2
    · exact hs2
  exact servePe_formed hs3

theorem signalCopy_formed {s : State} {n : Nat} {k : Copy} (h : s.formed) : MayForm (s.signalCopy n k) := by
  unfold State.signalCopy
  extract_lets -underBinder va page
  have hpage (kind level : Nat) : MayForm (page kind level) := by
    dsimp only [page]
    split
    · exact .some (abortCopy_formed h)
    · exact .none
    · rename_i s1 e he
      have hs1 : s1.formed := pageEntry_formed h _ _ he
      exact .some hs1
  refine .ite (.some (abortCopy_formed h)) ?_
  split
  · exact hpage _ _
  · exact hpage _ _
  · exact .some (abortCopy_formed h)
  · split
    · exact .some (abortCopy_formed h)
    · exact .some h

theorem copyCompleteEvent_formed {s : State} {n : Nat} (h : s.formed) : MayForm (copyCompleteEvent n s) := by
  unfold copyCompleteEvent
  split
  · exact .none
  · split
    · exact .ite .none (.some (finishCopy_formed h))
    · exact .ite .none (.ite (.some (finishCopy_formed h)) (signalCopy_formed h))
    · exact .none

theorem post_formed {s : State} {f : Firing} {p : Packet} {route : Option RingRoute} {read : List Byte} (h : s.formed) :
    OkHas (·.st.formed) (f.post s p route read) := by
  unfold Firing.post
  refine .ite .error ?_
  extract_lets -underBinder t s1
  have ht : t.1.formed := takeNumber_formed (markPerformed_formed h)
  exact .ok (replyBoth_formed (ite_formed (completeNumber_formed ht) ht))

theorem cpyBody_formed {s : State} {f : Firing} (h : s.formed) : OkHas (·.st.formed) (cpyBody f s) :=
  .bind fun _ _ => .bind fun _ _ => .ite .error (.bind fun _ _ => post_formed h)

theorem cpy1Body_formed {s : State} {w : Cpy1W} {f : Firing} (h : s.formed) : OkHas (·.st.formed) (cpy1Body w f s) :=
  .bind fun _ _ => .bind fun _ _ => .ite .error (.bind fun _ _ => post_formed h)

theorem cpyrBody_formed {s : State} {w : CpyrW} {f : Firing} (h : s.formed) : OkHas (·.st.formed) (cpyrBody w f s) :=
  .bind fun _ _ => .bind fun _ _ => .bind fun _ _ => .ite .error (.bind fun _ _ => .ite .error (post_formed h))

theorem cpqpostBody_formed {s : State} {f : Firing} (h : s.formed) : OkHas (·.st.formed) (cpqpostBody f s) := by
  unfold cpqpostBody
  refine .bind fun _ _ => .bind fun _ _ => .ite .error <| .ite .error ?_
  split
  · exact .error
  · exact .bind fun _ _ => .bind fun _ _ => .ite (.ok (reply_formed (expect_formed (foldl_formed _ (fun _ _ hs => writeBytes_formed hs ..) _
    (write64_formed (markPerformed_formed h) ..))))) (.ok (reply_formed (expect_formed (markPerformed_formed h))))

theorem cpstatBody_formed {s : State} {f : Firing} (h : s.formed) : OkHas (·.st.formed) (cpstatBody f s) :=
  .bind fun _ _ => .ite .error (.ok (scalar_formed h))

/-! ### Task -/

theorem objPut_formed {s : State} {runs : List (Nat × Nat)} {off : Nat} {l : List Byte} (h : s.formed) : (s.objPut runs off l).formed :=
  foldl_formed _ (fun _ _ hs => writeByte_formed hs ..) _ h

theorem homeFault_formed {s : State} {from_ : Agent} {ds : List Dest} {src : Src} {e : Fail} (h : s.formed) : (s.homeFault from_ ds src e).formed :=
  reply_formed (answered_formed (raiseHome_formed h))

theorem joinOp_formed {s : State} {va : Nat} {runs : List (Nat × Nat)} {new : Option Nat} {code : Nat} {src : Src} (h : s.formed) :
    (s.joinOp va runs new code src).formed := by
  unfold State.joinOp
  extract_lets -underBinder
  split
  · exact raiseHome_formed h
  · split
    · exact ite_formed (raiseHome_formed h) (objPut_formed h)
    · refine ite_formed (raiseHome_formed h) ?_
      refine ite_formed (raiseHome_formed h) ?_
      extract_lets -underBinder _ _ s1
      have hs1 : s1.formed := objPut_formed h
      refine ite_formed hs1 ?_
      split
      · exact raiseHome_formed h
      · exact hwEnqueueBytes_formed hs1

theorem joinEvent_formed {s : State} {n : Nat} (h : s.formed) : MayForm (joinEvent n s) := by
  unfold joinEvent
  split
  · split
    · exact .ite .none (.ite (.some (raiseHome_formed h)) (.some (joinOp_formed h)))
    · exact .none
  · exact .none

theorem enqueueNode_formed {s : State} {quad : Nat} {g5 : Word} {c pa : Nat} (h : s.formed) : (s.enqueueNode quad g5 c pa).formed :=
  hwEnqueueBytes_formed h

theorem settleFuture_formed {s : State} {runs : List (Nat × Nat)} {old w : Nat} (h : s.formed) : (s.settleFuture runs old w).formed :=
  foldl_formed _ (fun _ _ hs => enqueueNode_formed hs) _ (objPut_formed h)

theorem registerNode_formed {s : State} {runs : List (Nat × Nat)} {w pa c : Nat} (h : s.formed) : (s.registerNode runs w pa c).formed := by
  unfold State.registerNode
  extract_lets -underBinder s1
  have hs1 : s1.formed := writeBytes_formed h ..
  exact ite_formed (objPut_formed (objPut_formed hs1)) (ite_formed (objPut_formed (objPut_formed hs1)) (objPut_formed (writeBytes_formed hs1 ..)))

theorem futureOp_formed {s : State} {va : Nat} {runs : List (Nat × Nat)} {op : FutOp} {ds sds : List Dest} {src : Src} (h : s.formed) :
    (s.futureOp va runs op ds sds src).formed := by
  unfold State.futureOp
  extract_lets -underBinder from_ w st fault both node
  have hfault (e : Fail) : (fault e).formed := by
    cases op with
    | fnew => exact raiseHome_formed h
    | fget => exact readFault_formed h
    | fres => exact homeFault_formed h
    | freg => exact homeFault_formed h
  have hboth {t : State} {v : Word} (ht : t.formed) : (both t v).formed := reply_formed (answered_formed ht)
  clear_value fault both node
  refine ite_formed (hfault _) ?_
  cases node with
  | some nva => exact hfault _
  | none =>
  dsimp only
  split
  · exact hfault _
  refine ite_formed (hfault _) ?_
  split
  · exact ite_formed (hfault _) (objPut_formed h)
  · exact reply_formed (hboth h)
  · refine ite_formed (hfault _) ?_
    split
    · exact hfault _
    · exact settleFuture_formed (hboth h)
  · refine ite_formed (ite_formed (hfault _) (hwEnqueueBytes_formed (hboth h))) ?_
    split
    · exact hfault _
    · exact hfault _
    · exact hboth (registerNode_formed h)

theorem futureEvent_formed {s : State} {n : Nat} (h : s.formed) : MayForm (futureEvent n s) := by
  unfold futureEvent
  split
  · split
    · exact .ite .none (.some (futureOp_formed h))
    · exact .none
  · exact .none

theorem poisonFuture_formed {s : State} {va : Nat} {runs : List (Nat × Nat)} {code : Nat} {src : Src} (h : s.formed) :
    (s.poisonFuture va runs code src).formed := by
  unfold State.poisonFuture
  extract_lets -underBinder
  refine ite_formed (raiseHome_formed h) ?_
  split
  · exact raiseHome_formed h
  · refine ite_formed (raiseHome_formed h) ?_
    refine ite_formed h ?_
    split
    · exact raiseHome_formed h
    · exact settleFuture_formed h

theorem poisonEvent_formed {s : State} {n : Nat} (h : s.formed) : MayForm (poisonEvent n s) := by
  unfold poisonEvent
  split
  · split
    · exact .ite .none (.some (poisonFuture_formed h))
    · exact .none
  · exact .none

theorem queueOp_formed {s : State} {va pa c : Nat} {op : QueOp} (h : s.formed) : OkHas (·.1.formed) (s.queueOp va pa c op) := by
  unfold State.queueOp
  refine .ite .error (.ite .error (.ite .error ?_))
  split
  · exact .ite (.ok h) (.bind fun _ _ => .ok (write64_formed (write64_formed h ..) ..))
  · exact .ite (.ok h) (.bind fun _ _ => .ok (write64_formed h ..))
  · exact .ite (.ok h) (.bind fun _ _ => .ok (write64_formed h ..))

theorem queueAnswer_formed {s : State} {from_ : Agent} {va pa : Nat} {op : QueOp} {ds sds : List Dest} {src : Src} (h : s.formed) :
    (s.queueAnswer from_ va pa op ds sds src).formed := by
  unfold State.queueAnswer
  split
  · exact homeFault_formed h
  · rename_i s1 t good e
    have hs1 : s1.formed := queueOp_formed h _ e
    exact reply_formed (reply_formed (answered_formed hs1))

theorem dequeEvent_formed {s : State} {n : Nat} (h : s.formed) : MayForm (dequeEvent n s) := by
  unfold dequeEvent
  split
  · split
    · exact .ite .none (.some (queueAnswer_formed h))
    · exact .none
  · exact .none

theorem wqueueEvent_formed {s : State} {n : Nat} (h : s.formed) : MayForm (wqueueEvent n s) := by
  unfold wqueueEvent
  split
  · split
    · exact .ite .none (.some (queueAnswer_formed h))
    · exact .none
  · exact .none

theorem renameRange_formed {s t : State} {c j : Nat} {w : Nat × Nat} {r : Rename} (h : s.formed) (e : s.renameRange c j w = some (t, r)) :
    t.formed := by
  unfold State.renameRange at e
  split at e
  · cases e
  · dsimp only at e
    split at e
    · cases e
    · cases e
      exact addSegments_formed h

theorem placeWrites_formed {s : State} {c : Nat} {es : List (Nat × Dep)} {j : Nat} {l : List (Nat × Nat)} (h : s.formed) :
    (s.placeWrites c es j l).1.formed := by
  induction l generalizing s j with
  | nil => exact h
  | cons w t ih =>
    unfold State.placeWrites
    extract_lets -underBinder hit
    split
    · exact ih h
    · split
      · rename_i s1 r e
        exact ih (renameRange_formed h e)
      · exact ih h

theorem depSubmitEvent_formed {s : State} {n : Nat} (h : s.formed) : MayForm (depSubmitEvent n s) := by
  unfold depSubmitEvent
  split
  · refine .ite .none ?_
    split
    · exact .ite .none (.some (reply_formed (answered_formed (ite_formed (markPerformed_formed (placeWrites_formed h)) (placeWrites_formed h)))))
    · exact .none
  · exact .none

theorem depReleaseEvent_formed {s : State} {die e : Nat} (h : s.formed) : MayForm (depReleaseEvent die e s) := by
  unfold depReleaseEvent
  extract_lets -underBinder
  split
  · exact .none
  · split
    · exact .none
    · exact .ite .none (.some h)

theorem endDep_formed {s : State} {key : Nat} (h : s.formed) : (s.endDep key).formed := by
  unfold State.endDep
  split
  · exact h
  · exact ite_formed h h

theorem copyBack_formed {s : State} {c : Nat} {r : Rename} (h : s.formed) : (s.copyBack c r).formed := by
  unfold State.copyBack
  extract_lets -underBinder _ s1
  have hs1 : s1.formed := by
    dsimp only [s1]
    split
    · exact h
    · split
      · exact storeRuns_formed h
      · exact raiseNone_formed h
      · exact raiseNone_formed h
      · exact raiseNone_formed h
      · exact raiseNone_formed h
  exact dropShadow_formed hs1 ..

theorem copyBackEvent_formed {s : State} {die e : Nat} (h : s.formed) : MayForm (copyBackEvent die e s) := by
  unfold copyBackEvent
  extract_lets -underBinder
  split
  · exact .none
  · refine .ite .none ?_
    split
    · exact .none
    · exact .some (endDep_formed (copyBack_formed h))

theorem costEvent_formed {s : State} {d : Nat} (h : s.formed) : MayForm (costEvent d s) :=
  .ite .none (.some h)

theorem gateEvent_formed {s : State} {q : Nat} (h : s.formed) : MayForm (gateEvent q s) :=
  .ite .none (.some h)

theorem wakeEvent_formed {s : State} {q : Nat} (h : s.formed) : MayForm (wakeEvent q s) := by
  unfold wakeEvent
  extract_lets -underBinder
  split
  · exact .ite (.some h) .none
  · exact .none

theorem popEvent_formed {s : State} {pe : Nat} (h : s.formed) : MayForm (popEvent pe s) := by
  unfold popEvent
  extract_lets -underBinder
  refine .ite .none ?_
  split
  · exact .none
  · exact .some (enqueueHeld_formed h)

theorem releaseAccs_formed {s : State} {c pe t : Nat} (h : s.formed) : (s.releaseAccs c pe t).formed := by
  unfold State.releaseAccs
  refine foldl_formed _ (fun s _ hs => ?_) _ h
  extract_lets -underBinder
  refine ite_formed (restoreAcc_formed (modCtx_formed hs ..)) ?_
  split
  · exact ite_formed (modCtx_formed hs ..) hs
  · exact hs

theorem releaseRings_formed {s : State} {c pe t : Nat} (h : s.formed) : (s.releaseRings c pe t).formed := by
  unfold State.releaseRings
  refine foldl_formed _ (fun s _ hs => ?_) _ h
  exact ite_formed (tellHeads_formed hs) hs

theorem dropLoop_formed {s : State} {pe t : Nat} (h : s.formed) : (s.dropLoop pe t).formed := by
  unfold State.dropLoop
  split
  · exact h
  · split
    · exact h
    · exact dropToks_formed h

theorem releaseTask_formed {s : State} {pe t : Nat} (h : s.formed) : (s.releaseTask pe t).formed := by
  unfold State.releaseTask
  split
  · exact h
  · exact releaseAccs_formed (releaseEndpoints_formed (releaseRings_formed (dropLoop_formed (dropToks_formed (modCtx_formed h ..)))))

/-- A state that a task's last sends give has the form. -/
def EndForm (r : EndRes) : Prop := ∀ s, r = .sent s ∨ r = .wait s → s.formed

theorem EndForm.full : EndForm .full := nofun

theorem EndForm.sent {s : State} (h : s.formed) : EndForm (.sent s) := by
  rintro _ (e | e) <;> cases e
  exact h

theorem EndForm.wait {s : State} (h : s.formed) : EndForm (.wait s) := by
  rintro _ (e | e) <;> cases e
  exact h

theorem EndForm.ite {c : Prop} [Decidable c] {a b : EndRes} (h : EndForm a) (g : EndForm b) : EndForm (if c then a else b) := by
  split <;> assumption

theorem endSend_formed {s : State} {pe t : Nat} {src : Src} {va len at_ : Nat} {m : List (Nat × Nat) → Msg} (h : s.formed) :
    EndForm (s.endSend pe t src va len at_ m) := by
  unfold State.endSend
  extract_lets -underBinder stop page
  have hstop (e : Fail) : EndForm (stop e) := .sent (raiseHome_formed h)
  have hpage (kind a level : Nat) : EndForm (page kind a level) := by
    dsimp only [page]
    split
    · exact hstop _
    · exact .full
    · rename_i s1 n e
      exact .wait (modTask_formed (pageEntry_formed h _ _ e))
  clear_value stop page
  refine .ite (hstop _) ?_
  split
  · split
    · exact hstop _
    · exact .sent h
  · exact hpage _ _ _
  · exact hpage _ _ _
  · exact hstop _
  · exact hstop _

theorem endPoison_formed {s : State} {pe t : Nat} {tk : Task} {src : Src} (h : s.formed) : EndForm (s.endPoison pe t tk src) := by
  unfold State.endPoison
  split
  · refine .ite ?_ (.sent h)
    split
    · rename_i s1 e
      exact .sent (modTask_formed (endSend_formed h _ (.inl e)))
    · exact endSend_formed h
  · exact .sent h

theorem endJoin_formed {s : State} {pe t : Nat} {tk : Task} {src : Src} (h : s.formed) : EndForm (s.endJoin pe t tk src) := by
  unfold State.endJoin
  refine .ite (.sent h) ?_
  split
  · rename_i s1 e
    exact .sent (modTask_formed (endSend_formed h _ (.inl e)))
  · exact endSend_formed h

theorem taskEndEvent_formed {s : State} {pe t : Nat} (h : s.formed) : MayForm (taskEndEvent pe t s) := by
  unfold taskEndEvent
  split
  · exact .none
  split
  · exact .none
  refine .ite .none ?_
  extract_lets -underBinder s1 s2
  have hs1 : s1.formed := releaseTask_formed h
  have hs2 : s2.formed := by
    dsimp only [s2]
    split
    · exact modTask_formed (endDep_formed hs1)
    · exact hs1
  split
  · exact .none
  · rename_i s3 e
    exact .some (endPoison_formed hs2 _ (.inr e))
  · rename_i s3 e
    have hs3 : s3.formed := endPoison_formed hs2 _ (.inl e)
    split
    · exact .none
    · rename_i s4 e
      exact .some (endJoin_formed hs3 _ (.inr e))
    · rename_i s4 e
      have hs4 : s4.formed := endJoin_formed hs3 _ (.inl e)
      exact .some hs4

theorem endRetry_formed {s : State} {n : Nat} {fail : Option Fail} (h : s.formed) : (s.endRetry n fail).formed := by
  unfold State.endRetry
  refine foldl_formed _ (fun s _ hs => ?_) _ h
  refine ite_formed hs ?_
  extract_lets -underBinder s1
  have hs1 : s1.formed := modTask_formed hs
  split
  · exact raiseHome_formed (modTask_formed hs1)
  · exact hs1

theorem requeueKilled_formed {s : State} {pe t : Nat} (h : s.formed) : (s.requeueKilled pe t).formed := by
  unfold State.requeueKilled
  split
  · exact h
  · exact ite_formed h (requeue_formed (releaseTask_formed h))

theorem killTask_formed {s : State} {pe t : Nat} (h : s.formed) : (s.killTask pe t).formed := by
  unfold State.killTask
  extract_lets -underBinder s1 _ _ s2
  have hs2 : s2.formed := by
    refine foldl_formed _ (fun s _ hs => ?_) _ (modTask_formed h)
    exact ite_formed hs (discardAct_formed hs)
  exact requeueKilled_formed (s := { s2 with pe := _ }) hs2

theorem preemptTask_formed {s : State} {pe t : Nat} {tk : Task} (h : s.formed) : (s.preemptTask pe t tk).formed :=
  ite_formed (modTask_formed h) (ite_formed (modTask_formed h) (ite_formed (killTask_formed h) (modTask_formed h)))

theorem preemptEvent_formed {s : State} {q : Nat} (h : s.formed) : MayForm (preemptEvent q s) := by
  unfold preemptEvent
  extract_lets -underBinder
  split
  · exact .ite .none (.some (preemptTask_formed h))
  · exact .none

theorem spawnBody_formed {s : State} {x : SpawnX} {f : Firing} (h : s.formed) : OkHas (·.st.formed) (spawnBody x f s) :=
  .bind fun _ _ => .bind fun _ _ => .bind fun _ _ => .bind fun _ _ => .ite .error (.ok (replyBoth_formed (markPerformed_formed h)))

theorem spawndBody_formed {s : State} {x : SpawnX} {f : Firing} (h : s.formed) : OkHas (·.st.formed) (spawndBody x f s) := by
  unfold spawndBody
  refine .bind fun _ _ => .bind fun _ _ => .bind fun _ _ => ?_
  split
  · exact .error
  · exact .bind fun _ _ => .ite .error (.ok (expect_formed h))

theorem jnewBody_formed {s : State} {f : Firing} (h : s.formed) : OkHas (·.st.formed) (jnewBody f s) :=
  .bind fun _ _ => .bind fun _ _ => .ite .error (.ok (scalar_formed (hold_formed h)))

theorem jdecBody_formed {s : State} {f : Firing} (h : s.formed) : OkHas (·.st.formed) (jdecBody f s) :=
  .bind fun _ _ => .ok (scalar_formed (hold_formed h))

theorem fnewBody_formed {s : State} {f : Firing} (h : s.formed) : OkHas (·.st.formed) (fnewBody f s) :=
  .bind fun _ _ => .ok (scalar_formed (hold_formed h))

theorem fresBody_formed {s : State} {f : Firing} (h : s.formed) : OkHas (·.st.formed) (fresBody f s) :=
  .bind fun _ _ => .bind fun _ _ => .ite .error (.bind fun _ _ => .ok (toHome_formed (markPerformed_formed h)))

theorem fregBody_formed {s : State} {f : Firing} (h : s.formed) : OkHas (·.st.formed) (fregBody f s) :=
  .bind fun _ _ => .bind fun _ _ => .bind fun _ _ => .ok (toHome_formed (markPerformed_formed h))

theorem fgetBody_formed {s : State} {f : Firing} (h : s.formed) : OkHas (·.st.formed) (fgetBody f s) :=
  .bind fun _ _ => .ok (toHome_formed h)

theorem dequeBody_formed {s : State} {owner : Bool} {op : Firing → Except Stop QueOp} {f : Firing} (h : s.formed) :
    OkHas (·.st.formed) (dequeBody owner op f s) := by
  unfold dequeBody
  refine .bind fun _ _ => .bind fun _ _ => .ite .error ?_
  extract_lets -underBinder k
  have hk (b : _) : OkHas (·.st.formed) (k b) := .ok (toHome_formed (markPerformed_formed h))
  split <;> exact .bind fun b _ => hk b

theorem wqueueBody_formed {s : State} {op : Firing → Except Stop QueOp} {f : Firing} (h : s.formed) : OkHas (·.st.formed) (wqueueBody op f s) := by
  unfold wqueueBody
  refine .bind fun _ _ => .bind fun _ _ => ?_
  extract_lets -underBinder k
  have hk (b : _) : OkHas (·.st.formed) (k b) := .ok (toHome_formed (markPerformed_formed h))
  split <;> exact .bind fun b _ => hk b

theorem yieldBody_formed {s : State} {f : Firing} (h : s.formed) : OkHas (·.st.formed) (yieldBody f s) :=
  .ok (scalar_formed (modTask_formed h))

/-! ### System -/

theorem srrBody_formed {s : State} {n : Nat} {f : Firing} (h : s.formed) : OkHas (·.st.formed) (srrBody n f s) :=
  .ok (scalar_formed h)

theorem srwBody_formed {s : State} {n : Nat} {f : Firing} (h : s.formed) : OkHas (·.st.formed) (srwBody n f s) :=
  .ite .error (.bind fun _ _ => .ite .error (.ok (scalar_formed (hold_formed h))))

theorem commitSrw_formed {s : State} {c n : Nat} {v : Word} (h : s.formed) : (s.commitSrw c n v).formed :=
  ite_formed (quotaRaised_formed (modCtx_formed h ..)) (modCtx_formed h ..)

theorem trapBody_formed {s : State} {w : BitVec 32} {f : Firing} (_ : s.formed) : OkHas (·.st.formed) (trapBody w f s) :=
  .bind fun _ _ => .error

theorem hcallBody_formed {s : State} {w : BitVec 32} {f : Firing} (h : s.formed) : OkHas (·.st.formed) (hcallBody w f s) :=
  .bind fun _ _ => .ok (hostPost_formed (expect_formed (markPerformed_formed h)))

theorem ckptBody_formed {s : State} {f : Firing} (h : s.formed) : OkHas (·.st.formed) (ckptBody f s) := by
  unfold ckptBody
  split
  · exact .error
  · exact .ite .error (.ok (hold_formed h))

theorem remestBody_formed {s : State} {w : Option (BitVec 32)} {f : Firing} (h : s.formed) : OkHas (·.st.formed) (remestBody w f s) := by
  unfold remestBody
  extract_lets -underBinder k
  have hk (b : _) : OkHas (·.st.formed) (k b) := .ok (scalar_formed (hold_formed h))
  split <;> exact .bind fun b _ => hk b

theorem commitRemest_formed {s : State} {pe t : Nat} {w : Word} (h : s.formed) : (s.commitRemest pe t w).formed :=
  modTask_formed h

theorem hbeatBody_formed {s : State} {f : Firing} (h : s.formed) : OkHas (·.st.formed) (hbeatBody f s) :=
  .ok (scalar_formed (modCtx_formed h ..))

theorem pwrhintBody_formed {s : State} {w : BitVec 32} {f : Firing} (h : s.formed) : OkHas (·.st.formed) (pwrhintBody w f s) :=
  .ok (hold_formed h)

theorem checkpoint_formed {s : State} {pe t code : Nat} {ks : List (Nat × Nat)} (h : s.formed) : (s.checkpoint pe t code ks).formed := by
  unfold State.checkpoint
  split
  · exact h
  split
  · exact h
  extract_lets -underBinder s1 image s2
  have hs2 : s2.formed := releaseTask_formed (storeRuns_formed h)
  exact ite_formed (modCtx_formed hs2 ..) (requeue_formed hs2)

theorem queueImages_formed {s : State} {c : Nat} (h : s.formed) : (s.queueImages c).formed := by
  unfold State.queueImages
  split
  · exact h
  · extract_lets -underBinder s1
    have hs1 : s1.formed := modCtx_formed h ..
    refine foldl_formed _ (fun s _ hs => ?_) _ hs1
    split
    · exact raiseHeader_formed hs
    · exact requeue_formed hs

theorem createContext_formed {s : State} {l : List Byte} {pa creator part fltq quad : Nat} {host : Bool} (h : s.formed) :
    (s.createContext l pa creator part fltq quad host).1.formed := by
  unfold State.createContext
  extract_lets -underBinder
  split
  · exact write64_formed h ..
  · extract_lets -underBinder _ s1 s2
    have hs1 : s1.formed := h
    have hs2 : s2.formed := write64_formed hs1 ..
    exact ite_formed hs2 (hwEnqueueAt_formed hs2)

theorem haltLoops_formed {s : State} {c : Nat} (h : s.formed) : (s.haltLoops c).formed := by
  unfold State.haltLoops
  refine foldl_formed _ (fun s _ hs => ?_) _ h
  refine ite_formed hs ?_
  split
  · exact hs
  · split
    · exact discardIterations_formed hs
    · exact hs

theorem haltFrames_formed {s : State} {c : Nat} (h : s.formed) : (s.haltFrames c).formed := by
  unfold State.haltFrames
  refine foldl_formed _ (fun s _ hs => ?_) _ h
  split
  · exact hs
  · exact ite_formed hs (modCtx_formed (discardFrame_formed hs) ..)

theorem clearCovered_formed {s : State} {ks : List (Nat × Nat)} (h : s.formed) : (s.clearCovered ks).formed := by
  unfold State.clearCovered
  refine foldl_formed _ (fun s _ hs => ?_) _ h
  refine foldl_formed _ (fun s _ hs => ?_) _ hs
  exact ite_formed hs hs

theorem stopWrite_formed {s : State} {c off : Nat} {l : List Byte} (h : s.formed) : MayForm (s.stopWrite c off l) := by
  unfold State.stopWrite
  split
  · exact .none
  · split
    · exact .ite .none (.some (clearCovered_formed (storeRuns_formed h)))
    · exact .none

theorem haltContext_formed {s : State} {c reason : Nat} (h : s.formed) : (s.haltContext c reason).formed := by
  unfold State.haltContext
  extract_lets -underBinder s1 s2
  have hs1 : s1.formed := haltFrames_formed (haltLoops_formed (countStop_formed h))
  have hs2 : s2.formed := modCtx_formed hs1 ..
  exact MayForm.getD (stopWrite_formed hs2) hs2

theorem haltLineEvent_formed {s : State} {c : Nat} (h : s.formed) : MayForm (haltLineEvent c s) := by
  unfold haltLineEvent
  split
  · exact .none
  · refine .ite .none ?_
    split
    · exact .some (haltContext_formed h)
    · exact .ite (.some (haltContext_formed h)) .none

theorem shuffle_formed {s : State} {α : Type} {n : Nat} {l : List α} (h : s.formed) : (s.shuffle n l).1.formed := by
  induction n generalizing s l with
  | zero => exact h
  | succ n ih =>
    unfold State.shuffle
    extract_lets -underBinder k
    split
    · exact h
    · exact ih (s := s.drawn) h

theorem stopRecords_formed {s : State} {c : Nat} {l : List (List Byte)} {n lost : Nat} (h : s.formed) : (s.stopRecords c l n lost).1.formed := by
  induction l generalizing s n lost with
  | nil => exact h
  | cons r t ih =>
    unfold State.stopRecords
    split
    · exact h
    · split
      · rename_i s1 e
        exact ih (stopWrite_formed h _ e)
      · exact ih h

theorem haltRecords_formed {s : State} {c : Nat} {x : Ctx} {cause : Option FaultRec} (h : s.formed) : (s.haltRecords c x cause).1.formed := by
  unfold State.haltRecords
  extract_lets -underBinder
  exact shuffle_formed (shuffle_formed h)

theorem writeFree_formed {s : State} {at_ n : Nat} (h : s.formed) : (s.writeFree at_ n).formed := by
  induction n generalizing s at_ with
  | zero => exact h
  | succ n ih => exact ih (s := (s.writeByte at_ (s.freeWord.setWidth 8)).drawn) (writeByte_formed h ..)

theorem backEntry_formed {s : State} {e : QEntry} (h : s.formed) : (s.backEntry e).formed := by
  unfold State.backEntry
  refine ite_formed h ?_
  exact writeFree_formed (s := s.drawn) h

theorem backQueues_formed {s : State} {c : Nat} (h : s.formed) : (s.backQueues c).formed :=
  foldl_formed _ (fun _ _ hs => backEntry_formed hs) _ h

theorem haltCompleteEvent_formed {s : State} {c : Nat} (h : s.formed) : MayForm (haltCompleteEvent c s) := by
  unfold haltCompleteEvent
  split
  · exact .none
  refine .ite .none ?_
  extract_lets -underBinder cause _ _ _ s1 s2
  have hs1 : s1.formed := by
    dsimp only [s1]
    split
    · exact h
    · have hw {x : Ctx} {l : List (List Byte)} {n lost : Nat} :
      ((s.haltRecords c x cause).1.stopRecords c l n lost).1.formed := stopRecords_formed (haltRecords_formed h)
      exact MayForm.getD (stopWrite_formed hw) hw
  have hs2 : s2.formed := modCtx_formed (ite_formed (backQueues_formed hs1) hs1) ..
  exact .ite (.some (hostPost_formed hs2)) (.ite (.some hs2) (.some (hwEnqueueAt_formed hs2)))

theorem watchdogEvent_formed {s : State} {c : Nat} (h : s.formed) : MayForm (watchdogEvent c s) := by
  unfold watchdogEvent
  split
  · exact .none
  · exact .ite .none (.some (raiseNone_formed h))

theorem raiseHeld_formed {s : State} {r : FaultRec} (h : s.formed) : (s.raiseHeld r).formed :=
  raise_formed h

theorem regain_formed {s : State} {c : Nat} (h : s.formed) : (s.regain c).formed := by
  unfold State.regain
  refine foldl_formed _ (fun s _ hs => ?_) _ h
  exact ite_formed (foldl_formed _ (fun _ _ hs => MayForm.getD (addRefs_formed hs) hs) _ hs) hs

theorem resumeShared_formed {s : State} {c : Nat} (h : s.formed) : (s.resumeShared c).formed := by
  unfold State.resumeShared
  split
  · exact h
  · exact foldl_formed _ (fun _ _ hs => raiseHeld_formed hs) _ (copyResume_formed (barResume_formed (chanResume_formed (queueImages_formed
    (regain_formed h)))))

theorem deliverCalls_formed {s : State} {c : Nat} (h : s.formed) : (s.deliverCalls c).formed := by
  unfold State.deliverCalls
  refine foldl_formed _ (fun s _ hs => ?_) _ h
  exact ite_formed (reply_formed (reply_formed (answered_formed hs))) hs

theorem abandon_formed {s : State} {c pe t code : Nat} (h : s.formed) : (s.abandon c pe t code).formed := by
  unfold State.abandon
  split
  · exact h
  refine ite_formed h ?_
  extract_lets -underBinder _ s1 _ s2
  have hs1 : s1.formed := foldl_formed _ (fun _ _ hs => discardFrame_formed hs) _ h
  exact modTask_formed (modCtx_formed (s := s2) hs1 ..)

theorem skipCause_formed {s : State} {c : Nat} {r : FaultRec} (h : s.formed) : (s.skipCause c r).formed := by
  unfold State.skipCause
  extract_lets -underBinder
  split
  · refine ite_formed ?_ (modCtx_formed h ..)
    split
    · exact mismatch_formed h
    · exact h
  · exact modCtx_formed h ..

theorem lastSend_formed {s : State} {pe t : Nat} {tk : Task} {code : Nat} (h : s.formed) : (s.lastSend pe t tk code).formed := by
  unfold State.lastSend
  extract_lets -underBinder _ _ send s1
  have hsend {u : State} {va len at_ : Nat} {m : List (Nat × Nat) → Msg} (hu : u.formed) : (send u va len at_ m).formed := by
    refine ite_formed hu ?_
    split <;> exact hu
  have hs1 : s1.formed := ite_formed (hsend h) h
  exact ite_formed hs1 (hsend hs1)

theorem destroyTask_formed {s : State} {pe t code : Nat} (h : s.formed) : (s.destroyTask pe t code).formed := by
  unfold State.destroyTask
  split
  · exact h
  · extract_lets -underBinder s1 s2
    have hs1 : s1.formed := releaseTask_formed h
    have hs2 : s2.formed := by
      dsimp only [s2]
      split
      · exact endDep_formed hs1
      · exact hs1
    exact lastSend_formed hs2

theorem destroyContext_formed {s : State} {c : Nat} (h : s.formed) : (s.destroyContext c).formed := by
  unfold State.destroyContext
  split
  · exact h
  · extract_lets -underBinder _ s0 s1 s2 s3 s4 s5 s6 s7
    have hs0 : s0.formed := MayForm.getD (stopWrite_formed h) h
    have hs1 : s1.formed := by
      refine foldl_formed _ (fun s _ hs => ?_) _ hs0
      exact ite_formed (discardFrame_formed hs) hs
    have hs2 : s2.formed := by
      refine foldl_formed _ (fun s _ hs => ?_) _ hs1
      exact ite_formed (destroyTask_formed hs) hs
    have hs3 : s3.formed := destroyChansOf_formed hs2
    have hs4 : s4.formed := by
      refine foldl_formed _ (fun s _ hs => ?_) _ hs3
      exact ite_formed hs hs
    have hs5 : s5.formed := hs4
    have hs6 : s6.formed := hs5
    have hs7 : s7.formed := foldl_formed _ (fun _ _ hs => settleChan_formed hs) _ hs6
    exact enqueueHeld_formed (foldl_formed _ (fun _ _ hs => servePe_formed hs) _ hs7)

theorem resumeContext_formed {s : State} {c mode : Nat} {src : Src} (h : s.formed) : (s.resumeContext c mode src).formed := by
  unfold State.resumeContext
  split
  · exact h
  refine ite_formed h (ite_formed (destroyContext_formed h) (ite_formed h ?_))
  extract_lets -underBinder cause s1
  have hs1 : s1.formed := by
    refine foldl_formed _ (fun s _ hs => ?_) _ h
    exact ite_formed (abandon_formed hs) hs
  clear_value cause
  refine ite_formed ?_ (ite_formed (deliverCalls_formed (resumeShared_formed hs1)) (deliverCalls_formed (resumeShared_formed h)))
  cases cause with
  | none => exact raiseAt_formed h
  | some r => exact ite_formed (deliverCalls_formed (resumeShared_formed (skipCause_formed h))) (raiseAt_formed h)

theorem haltRequest_formed {s : State} {c mode : Nat} (h : s.formed) : (s.haltRequest c mode).formed := by
  unfold State.haltRequest
  split
  · exact h
  · exact ite_formed h (ite_formed h (ite_formed h h))

theorem contextOp_formed {s : State} {op : CtxOp} {src : Src} {buf : List Byte} {pa : Nat} (h : s.formed) : (s.contextOp op src buf pa).formed := by
  unfold State.contextOp
  extract_lets -underBinder target
  have htarget {c : Nat} {k : State} (hk : k.formed) : (target c k).formed := by
    dsimp only [target]
    split
    · exact raiseAt_formed h
    · exact ite_formed (raiseAt_formed h) (ite_formed (raiseAt_formed h) hk)
  split
  · split
    · exact h
    · exact createContext_formed h
  · exact htarget (haltRequest_formed h)
  · exact htarget (resumeContext_formed h)

theorem ctxnewBody_formed {s : State} {f : Firing} (h : s.formed) : OkHas (·.st.formed) (ctxnewBody f s) :=
  .ite .error (.bind fun _ _ => .ok (scalar_formed (hold_formed h)))

theorem ctxBody_formed {s : State} {modes : Nat} {op : Nat → Nat → CtxOp} {f : Firing} (h : s.formed) :
    OkHas (·.st.formed) (ctxBody modes op f s) :=
  .ite .error (.bind fun _ _ => .bind fun _ _ => .ite .error (.ok (scalar_formed (hold_formed h))))

theorem recheckStores_formed {s : State} {die scope asid : Nat} {span : Option (Nat × Nat)} (h : s.formed) :
    (s.recheckStores die scope asid span).formed := by
  unfold State.recheckStores
  refine foldl_formed _ (fun s _ hs => ?_) _ h
  refine foldl_formed _ (fun s _ hs => ?_) _ hs
  exact ite_formed (modFrame_formed hs) hs

theorem atinvBody_formed {s : State} {f : Firing} (h : s.formed) : OkHas (·.st.formed) (atinvBody f s) :=
  .bind fun _ _ => .ite .error (.bind fun _ _ => .ite .error (.ite .error (.ite .error (.ok (replyBoth_formed (recheckStores_formed h))))))

/-! ### Home -/

theorem writePiece_formed {s : State} {a : Access} {p : Piece} (h : s.formed) : (s.writePiece a p).formed := by
  unfold State.writePiece
  extract_lets -underBinder
  split
  · exact h
  · extract_lets -underBinder s1 s2 s3
    have hs1 : s1.formed := recall_formed h ..
    have hs2 : s2.formed := ite_formed hs1 hs1
    have hs3 : s3.formed := foldl_formed _ (fun _ _ hs => writeByte_formed hs ..) _ hs2
    exact ite_formed hs3 (countWrite_formed hs3)

theorem fillTile_formed {s : State} {slot : Nat} {w : Word} {img : BitVec 16} {buf : List Byte} (h : s.formed) :
    (s.fillTile slot w img buf).formed := by
  unfold State.fillTile
  split <;> exact h

theorem completeAccess_formed {s : State} {n : Nat} {a : Access} {home : Agent} (h : s.formed) : (s.completeAccess n a home).formed := by
  unfold State.completeAccess
  extract_lets -underBinder s1
  have hs1 : s1.formed := h
  split
  · exact reply_formed hs1
  · exact reply_formed (fillTile_formed hs1)
  · extract_lets -underBinder
    split
    · exact accessFault_formed h
    · exact h
  · extract_lets -underBinder
    split
    · exact accessFault_formed h
    · exact noteStore_formed hs1
  · exact hs1
  · split
    · exact release_formed hs1
    · exact hs1
  · split
    · exact pumpAll_formed hs1
    · exact hs1
  · exact hs1
  · exact contextOp_formed hs1
  · exact traceReq_formed hs1
  · exact ite_formed (barAdopt_formed hs1) hs1

theorem settleAccess_formed {s : State} {n : Nat} {home : Agent} (h : s.formed) : (s.settleAccess n home).formed := by
  unfold State.settleAccess
  split
  · exact ite_formed (completeAccess_formed h) h
  · exact h

theorem performed_formed {s : State} {acc : Option (Nat × Nat)} (h : s.formed) : (s.performed acc).formed := by
  unfold State.performed
  split
  · exact h
  · split
    · exact settleAccess_formed h
    · exact h

theorem dropTrace_formed {s : State} {n : Nat} {a : Access} (h : s.formed) : (s.dropTrace n a).formed := by
  unfold State.dropTrace
  split
  · exact loseTrace_formed h
  · exact h

theorem refuseWrite_formed {s : State} {n : Nat} {a : Access} {va : Nat} {home : Agent} (h : s.formed) : (s.refuseWrite n a va home).formed := by
  unfold State.refuseWrite
  extract_lets -underBinder _ s1
  have hs1 : s1.formed := by
    dsimp only [s1]
    split
    · exact abortCopy_formed h
    · exact raiseAt_formed h
  exact settleAccess_formed hs1

theorem homeEvent_formed {s : State} {n p : Nat} (h : s.formed) : MayForm (homeEvent n p s) := by
  unfold homeEvent
  split
  · exact .none
  · split
    · exact .none
    · refine .ite .none ?_
      extract_lets -underBinder
      exact .ite (.some (dropTrace_formed h)) (.ite (.ite (.some (refuseWrite_formed h)) (.some (accessFault_formed h))) (.ite (.some h) (.ite
        (.some (settleAccess_formed (writePiece_formed h))) (.ite (.some (accessFault_formed h))
          (.some (settleAccess_formed (ite_formed h (recall_formed h ..))))))))

theorem walkDoneEvent_formed {s : State} {n : Nat} (h : s.formed) : MayForm (walkDoneEvent n s) := by
  unfold walkDoneEvent
  split
  · rename_i s1 a e _
    exact .some (settleAccess_formed (walkEvent_formed h _ e))
  · exact .none

theorem restartAct_formed {s : State} {a : Activation} {held : Bool} (h : s.formed) : (s.restartAct a held).formed :=
  ite_formed (modLoop_formed h) (ite_formed (modCtx_formed h ..) h)

/-! ### Debug -/

theorem traceRecord_formed {s : State} {c cycle : Nat} {r : TraceRec} (h : s.formed) : (s.traceRecord c cycle r).formed := by
  unfold State.traceRecord
  split
  · exact h
  · split
    · exact h
    · exact sendTrace_formed h

theorem endInterval_formed {s : State} {pe : Nat} {w : WinCfg} (h : s.formed) : (s.endInterval pe w).formed := by
  unfold State.endInterval
  split
  · exact ite_formed (traceRecord_formed h) h
  · exact h

theorem sampleEvent_formed {s : State} {c pe : Nat} (h : s.formed) : MayForm (sampleEvent c pe s) := by
  unfold sampleEvent
  split
  · exact .none
  · exact .some (traceRecord_formed (modCtx_formed h ..))

theorem inForce_formed {s : State} {src : Src} (h : s.formed) : (s.inForce src).formed :=
  ite_formed h h

theorem traceBody_formed {s : State} {f : Firing} (h : s.formed) : OkHas (·.st.formed) (traceBody f s) :=
  .bind fun _ _ => .bind fun _ _ => .ok (replyBoth_formed h)

theorem markBody_formed {s : State} {w : BitVec 32} {f : Firing} (h : s.formed) : OkHas (·.st.formed) (markBody w f s) :=
  .bind fun _ _ => .ok (ite_formed (traceRecord_formed h) h)

theorem brkBody_formed {s : State} {f : Firing} (h : s.formed) : OkHas (·.st.formed) (brkBody f s) := by
  unfold brkBody
  refine .bind fun _ _ => .bind fun _ _ => .ite .error ?_
  split
  · exact .ok (replyBoth_formed h)
  · exact .ok (replyBoth_formed h)
  · exact .ok (replyBoth_formed h)
  · exact .error

theorem cntrdBody_formed {s : State} {w : BitVec 32} {f : Firing} (h : s.formed) : OkHas (·.st.formed) (cntrdBody w f s) :=
  .bind fun _ _ => .ite .error (.bind fun _ _ => .ite .error (.ok (replyBoth_formed h)))

/-! ### Kiln -/

theorem evictEntry_formed {s : State} {die : Nat} (h : s.formed) : (s.evictEntry die).formed := by
  unfold State.evictEntry
  split <;> exact h

theorem storeEntry_formed {s : State} {e : TcEntry} (h : s.formed) : (s.storeEntry e).formed :=
  ite_formed h (evictEntry_formed h)

theorem dropWin_formed {s : State} {pe : Nat} {w : WinCfg} (h : s.formed) : (s.dropWin pe w).formed :=
  endInterval_formed h

theorem loadWindow_formed {s : State} {pe ctx : Nat} {cfg : Cfg} {tag1 : Nat} (h : s.formed) : (s.loadWindow pe ctx cfg tag1).formed := by
  unfold State.loadWindow
  extract_lets -underBinder s1
  have hs1 : s1.formed := by
    refine ite_formed h ?_
    split
    · exact dropWin_formed h
    · exact h
  exact hs1

theorem faultAct_formed {s : State} {a : Activation} {r : FaultRec} (h : s.formed) : (s.faultAct a r).formed :=
  ite_formed (raise_formed h) h

theorem failTranslation_formed {s : State} {r : KReq} {ty : Option BlockTy} {code : Code} {idx : Option Nat} {detail : Word} (h : s.formed) :
    (s.failTranslation r ty code idx detail).formed :=
  foldl_formed _ (fun _ _ hs => faultAct_formed hs) _ h

theorem ask_formed {s : State} {die c addr obj : Nat} {o : Obj} {whom : KFor} (h : s.formed) : (s.ask die c addr obj o whom).formed := by
  unfold State.ask
  split
  · exact h
  · exact ite_formed h (ite_formed (hostPost_formed h) h)

theorem demand_formed {s : State} {a : Activation} {obj : Nat} {o : Obj} (h : s.formed) : (s.demand a obj o).formed :=
  ask_formed h

theorem reloadFrame_formed {s : State} {pe addr : Nat} (h : s.formed) : MayForm (s.reloadFrame pe addr) := by
  unfold State.reloadFrame
  split
  · exact .none
  · extract_lets -underBinder
    split
    · exact .some (ite_formed h (loadWindow_formed h))
    · split
      · exact .ite .none (.some (ask_formed h))
      · exact .none

theorem configLoadEvent_formed {s : State} {pe addr : Nat} (h : s.formed) : MayForm (configLoadEvent pe addr s) := by
  unfold configLoadEvent
  split
  · rename_i s1 e
    have hs1 : s1.formed := reloadFrame_formed h _ e
    exact .some hs1
  · split
    · exact .none
    · split
      · exact .some (faultAct_formed h)
      · split
        · exact .some (demand_formed h)
        · exact .ite (.some (faultAct_formed h)) (.some (ite_formed h (loadWindow_formed h)))

theorem chooseImage_formed {s : State} {die n : Nat} {o : Obj} (h : s.formed) : (s.chooseImage die n o).1.formed := by
  unfold State.chooseImage
  split
  · exact h
  · extract_lets -underBinder
    exact h

theorem jobDone_formed {s : State} {n : Nat} {j : KJob} {die : Nat} (h : s.formed) : (s.jobDone n j die).formed :=
  ite_formed h (reply_formed (reply_formed h))

theorem countJob_formed {s : State} {whom : KFor} {die : Nat} {r : BackRes} (h : s.formed) : (s.countJob whom die r).formed := by
  unfold State.countJob
  split
  · exact h
  · exact h
  · split
    · exact h
    · exact jobDone_formed h

theorem settleReq_formed {s : State} {r : KReq} {e : TcEntry} (h : s.formed) : (s.settleReq r e).formed :=
  ite_formed (countJob_formed h) (ite_formed (countJob_formed h) (countJob_formed h))

theorem failReload_formed {s : State} {pe frame uid : Nat} {code : Code} {idx : Option Nat} {detail : Word} (h : s.formed) :
    (s.failReload pe frame uid code idx detail).formed := by
  unfold State.failReload
  split
  · exact h
  · exact raise_formed h

theorem failReq_formed {s : State} {r : KReq} {ty : Option BlockTy} {code : Code} {idx : Option Nat} {detail : Word} (h : s.formed) :
    (s.failReq r ty code idx detail).formed := by
  unfold State.failReq
  extract_lets -underBinder s1
  have hs1 : s1.formed := h
  split
  · exact failTranslation_formed hs1
  · exact failReload_formed (failTranslation_formed hs1)
  · exact countJob_formed hs1

theorem missingWord_formed {s : State} {r : KReq} {va : Nat} (h : s.formed) : MayForm (s.missingWord r va) := by
  unfold State.missingWord
  split
  · split
    · exact .some (failReq_formed h)
    · exact .none
    · rename_i s1 n e
      have hs1 : s1.formed := pageEntry_formed h _ _ e
      exact .some hs1
  · exact .some (failReq_formed h)
  · exact .some (failReq_formed h)

theorem tryImage_formed {s : State} {r : KReq} {o : Obj} (h : s.formed) : (s.tryImage r o).1.formed := by
  unfold State.tryImage
  extract_lets -underBinder
  split
  · exact chooseImage_formed h
  · split
    · exact chooseImage_formed h
    · exact chooseImage_formed h

theorem cacheBlock_formed {s : State} {r : KReq} {o : Obj} {c : Cfg} (h : s.formed) : (s.cacheBlock r o c).formed :=
  settleReq_formed (storeEntry_formed (tryImage_formed h))

theorem translateEvent_formed {s : State} {d : Nat} (h : s.formed) : MayForm (translateEvent d s) := by
  unfold translateEvent
  split
  · exact .none
  · split
    · exact .some (settleReq_formed h)
    · split
      · exact .some (failReq_formed h)
      · split
        · exact .some (cacheBlock_formed h)
        · exact .some (failReq_formed h)
        · exact missingWord_formed h

theorem kilnRetry_formed {s : State} {n : Nat} {fail : Option Word} (h : s.formed) : (s.kilnRetry n fail).formed := by
  unfold State.kilnRetry
  refine foldl_formed _ (fun s _ hs => ?_) _ h
  split
  · exact hs
  · exact failReq_formed hs

theorem hostConfig_formed {s : State} {k : Nat} {granted : Bool} {pa : Word} (h : s.formed) : (s.hostConfig k granted pa).formed :=
  foldl_formed _ (fun _ _ hs => by exact hs) _ h

theorem invalidate_formed {s : State} {die c : Nat} {addrs : List Nat} (h : s.formed) : (s.invalidate die c addrs).formed := by
  unfold State.invalidate
  extract_lets -underBinder _ _ _ _ s0 _ s1 s2 s3 _ _ s4
  have hs0 : s0.formed := h
  have hs1 : s1.formed := hs0
  have hs2 : s2.formed := hs1
  have hs3 : s3.formed := by
    refine foldl_formed _ (fun s _ hs => ?_) _ hs2
    exact ite_formed (foldl_formed _ (fun _ _ hs => dropWin_formed hs) _ hs) hs
  have hs4 : s4.formed := hs3
  exact hs4

theorem invalEvent_formed {s : State} {n : Nat} (h : s.formed) : MayForm (invalEvent n s) := by
  unfold invalEvent
  split
  · refine .ite .none ?_
    split
    · extract_lets -underBinder s1
      have hs1 : s1.formed := invalidate_formed h
      split
      · exact .ite (.some (reply_formed hs1)) (.some hs1)
      · exact .some hs1
    · exact .none
  · exact .none

theorem tcinvBody_formed {s : State} {f : Firing} (h : s.formed) : OkHas (·.st.formed) (tcinvBody f s) := by
  unfold tcinvBody
  refine .bind fun _ _ => ?_
  split
  exact .bind fun _ _ => .ok (foldl_formed _ (fun _ _ hs => by exact hs) _ (expect_formed (ite_formed h h)))

theorem postBackground_formed {s : State} {c die obj addr job : Nat} {pin : Bool} (h : s.formed) :
    (s.postBackground c die obj addr job pin).formed :=
  ite_formed (countJob_formed h) h

theorem tcpinBody_formed {s : State} {pin : Bool} {f : Firing} (h : s.formed) : OkHas (·.st.formed) (tcpinBody pin f s) := by
  unfold tcpinBody
  refine .bind fun _ _ => ?_
  split
  exact .ite (.ok (replyTwo_formed h)) (.ite (.ok (jobDone_formed (expect_formed h)))
    (.ok (foldl_formed _ (fun _ _ hs => postBackground_formed hs) _ (expect_formed h))))

/-! ### Load -/

theorem openEdges_formed {s : State} {l : List Chan} (h : s.formed) : OkHas State.formed (s.openEdges l) := by
  induction l generalizing s with
  | nil => exact .ok h
  | cons ch t ih => exact .ite .error (.ite .error (ih h))

theorem startActor_formed {s : State} {c n prio : Nat} {o : Obj} {a : Actor} (h : s.formed) : (s.startActor c n prio o a).formed := by
  unfold State.startActor
  split
  · exact h
  · exact ite_formed h h

theorem commitObjload_formed {s : State} {n : Nat} {graph : Option GraphStart} {src : Src} (h : s.formed) :
    (s.commitObjload n graph src).formed := by
  unfold State.commitObjload
  split
  · exact h
  · extract_lets -underBinder _ s1 s2
    have hs1 : s1.formed := h
    have hs2 : s2.formed := modCtx_formed hs1 ..
    split
    · exact hs2
    · extract_lets -underBinder
      split
      · exact raiseAt_formed hs2
      · rename_i s3 e
        have hs3 : s3.formed := openEdges_formed hs2 _ e
        exact foldl_formed _ (fun _ _ hs => startActor_formed hs) _ hs3

theorem objloadBody_formed {s : State} {f : Firing} (h : s.formed) : OkHas (·.st.formed) (objloadBody f s) := by
  unfold objloadBody
  refine .bind fun _ _ => .bind fun _ _ => .ite .error <| .ite .error <| .bind fun _ _ => .bind fun _ _ => .ite .error <| .bind fun _ _ => ?_
  split
  · exact .error
  · refine .ite .error <| .ite .error <| .ite .error ?_
    extract_lets -underBinder k
    have hk (b : _) : OkHas (·.st.formed) (k b) := by
      dsimp only [k]
      split
      · exact .ok (replyTwo_formed h)
      · exact .ok (replyTwo_formed (hold_formed h))
    exact .ite (.bind fun b _ => hk b) (.bind fun b _ => hk b)

/-! ### Resolver -/

theorem retryEntry_formed {s : State} {n : Nat} {e : FaultEntry} (h : s.formed) : (s.retryEntry n e).formed :=
  foldl_formed _ (fun _ _ hs => restartAct_formed hs) _ (foldl_formed _ (fun _ _ hs => unpark_formed hs) _ (kilnRetry_formed (endRetry_formed h)))

theorem failEntry_formed {s : State} {n : Nat} {e : FaultEntry} (h : s.formed) : (s.failEntry n e).formed := by
  unfold State.failEntry
  extract_lets -underBinder _ _ s0 s1 s2 s3 s4
  have hs0 : s0.formed := h
  have hs1 : s1.formed := kilnRetry_formed (endRetry_formed hs0)
  have hs2 : s2.formed := foldl_formed _ (fun _ _ hs => accessFault_formed hs) _ hs1
  have hs3 : s3.formed := foldl_formed _ (fun _ _ hs => abortCopy_formed hs) _ hs2
  have hs4 : s4.formed := by
    refine foldl_formed _ (fun s _ hs => ?_) _ hs3
    split
    · exact raiseAt_formed (setStat_formed hs)
    · exact hs
  exact foldl_formed _ (fun _ _ hs => raiseAt_formed (restartAct_formed hs)) _ hs4

theorem rereadEntry_formed {s : State} {p : Nat × FaultEntry} (h : s.formed) : (s.rereadEntry p).formed :=
  ite_formed (retryEntry_formed h) (ite_formed (failEntry_formed h) h)

theorem doorbellEvent_formed {s : State} {n : Nat} (h : s.formed) : MayForm (doorbellEvent n s) := by
  unfold doorbellEvent
  split
  · refine .ite .none ?_
    split
    · exact .ite (.some (performed_formed (ringDoorbell_formed h))) .none
    · exact .none
  · exact .none

theorem faultDoorbellEvent_formed {s : State} {n : Nat} (h : s.formed) : MayForm (faultDoorbellEvent n s) := by
  unfold faultDoorbellEvent
  split
  · refine .ite .none ?_
    split
    · exact .ite (.some (performed_formed (foldl_formed _ (fun _ _ hs => rereadEntry_formed hs) _ h))) .none
    · exact .none
  · exact .none

/-! ### Attach -/

theorem toError_formed {s : State} {p : Nat} (h : s.formed) : (s.toError p).formed := by
  unfold State.toError
  split
  · exact h
  · exact foldl_formed _ (fun _ _ hs => haltRequest_formed hs) _ h

theorem regWrite_formed {s : State} {n : Nat} {g : Nat → List Byte → Option Nat → State → Option State} (h : s.formed)
    (hg : ∀ off data part (t : State), t.formed → MayForm (g off data part t)) : MayForm (s.regWrite n g) := by
  unfold State.regWrite
  split
  · exact .map (hg _ _ _ _ h) fun _ ht => performed_formed ht
  · exact .none

theorem registrationEvent_formed {s : State} {n : Nat} (h : s.formed) : MayForm (registrationEvent n s) := by
  unfold registrationEvent
  refine regWrite_formed h fun _ _ _ s hs => ?_
  refine .ite .none ?_
  split
  · exact .some (toError_formed hs)
  · exact .some (registerQueue_formed hs)

theorem apertureEvent_formed {s : State} {n : Nat} (h : s.formed) : MayForm (apertureEvent n s) := by
  unfold apertureEvent
  refine regWrite_formed h fun _ _ _ s hs => ?_
  split
  · exact .ite (.some hs) (.some (devPut_formed hs ..))
  · exact .none

theorem pkgnoEvent_formed {s : State} {n : Nat} (h : s.formed) : MayForm (pkgnoEvent n s) :=
  regWrite_formed h fun _ _ _ _ hs => .ite .none (.ite (.some hs) (.some (devPut_formed hs ..)))

theorem setCstat_formed {s : State} {p status : Nat} (h : s.formed) : (s.setCstat p status).formed :=
  devPut_formed h ..

theorem hostCreate_formed {s : State} {p pa : Nat} (h : s.formed) : (s.hostCreate p pa).formed :=
  ite_formed (setCstat_formed h) (setCstat_formed (createContext_formed h))

theorem createEvent_formed {s : State} {n : Nat} (h : s.formed) : MayForm (createEvent n s) := by
  unfold createEvent
  refine regWrite_formed h fun _ _ _ s hs => ?_
  split
  · exact .some (hostCreate_formed hs)
  · exact .none

theorem deviceWriteEvent_formed {s : State} {n : Nat} (h : s.formed) : MayForm (deviceWriteEvent n s) := by
  unfold deviceWriteEvent
  refine regWrite_formed h fun _ _ _ s hs => ?_
  refine .ite .none ?_
  split
  · exact .some (toError_formed hs)
  · exact .ite (.some hs) (.some (placeHeld_formed (enqueueHeld_formed (devPut_formed hs ..))))

theorem hostWrite_formed {s : State} {off : Nat} {data : List Byte} (h : s.formed) : (s.hostWrite off data).formed := by
  unfold State.hostWrite
  refine foldl_formed _ (fun s _ hs => ?_) _ h
  split
  · exact hs
  · exact countWrite_formed (foldl_formed _ (fun _ _ hs => writeByte_formed hs ..) _ (ite_formed (recall_formed hs ..) (recall_formed hs ..)))

theorem answerCall_formed {s : State} {k : Nat} {r : HostReq} {status : Nat} {reply : Word} (h : s.formed) :
    (s.answerCall k r status reply).formed :=
  ite_formed (reply_formed (reply_formed (answered_formed h))) h

theorem answerRequest_formed {s : State} {k : Nat} {r : HostReq} {status : Nat} {reply : Word} (h : s.formed) :
    (s.answerRequest k r status reply).formed :=
  ite_formed (segmentReply_formed h) (ite_formed (answerCall_formed h) (ite_formed (hostConfig_formed h) h))

theorem answersIn_formed {s : State} {off n : Nat} (h : s.formed) : (s.answersIn off n).formed := by
  unfold State.answersIn
  refine foldl_formed _ (fun s _ hs => ?_) _ h
  split
  · exact hs
  · exact ite_formed (answerRequest_formed hs) hs

theorem hostWrites_formed {s : State} {off : Nat} {data : List Byte} (h : s.formed) : (s.hostWrites off data).formed :=
  answersIn_formed (hostWrite_formed h)

theorem barEvent_formed {s : State} {a : HostAccess} (h : s.formed) : MayForm (barEvent a s) := by
  unfold barEvent
  extract_lets -underBinder
  refine .ite .none ?_
  refine .ite ?_ (.ite .none (.ite (.some (toHost_formed h)) (.ite (.some (placeHeld_formed (hostWrites_formed h))) (.ite
    (.some (toHost_formed h)) (.some (toHost_formed h))))))
  split
  · exact .some (toHost_formed h)
  · exact .ite (.some (toHost_formed h)) (.ite (.some (foldl_formed _ (fun _ _ hs => by exact hs) _ h)) (.ite .none (.some (toHost_formed h))))

theorem linkLossEvent_formed {s : State} (h : s.formed) : MayForm (linkLossEvent s) :=
  .ite (.some h) .none

theorem linkReturnEvent_formed {s : State} (h : s.formed) : MayForm (linkReturnEvent s) := by
  unfold linkReturnEvent
  refine .ite ?_ .none
  extract_lets -underBinder _ s1
  have hs1 : s1.formed := h
  refine .some ?_
  refine foldl_formed _ (fun s _ hs => ?_) _ hs1
  exact ite_formed (toHost_formed hs) hs

theorem hostReplyEvent_formed {s : State} {k status : Nat} {reply : Word} (h : s.formed) : MayForm (hostReplyEvent k status reply s) := by
  unfold hostReplyEvent
  split
  · exact .none
  · split
    · exact .none
    · exact .ite .none (.some (hostWrites_formed (hostWrites_formed h)))

theorem rekeyPage_formed {s : State} {lo old new : Nat} (h : s.formed) : (s.rekeyPage lo old new).formed :=
  foldl_formed _ (fun _ _ hs => foldl_formed _ (fun _ _ hs => writeByte_formed hs ..) _ (recall_formed hs ..)) _ h

theorem ownershipEvent_formed {s : State} {page owner : Nat} (h : s.formed) : MayForm (ownershipEvent page owner s) := by
  unfold ownershipEvent
  extract_lets -underBinder
  exact .ite .none (.ite (.some (toError_formed h)) (.ite (.some (toError_formed h)) (.ite (.some h) (.ite .none
    (.some (placeHeld_formed (ite_formed (rekeyPage_formed h) (zeroRange_formed h ..))))))))

theorem spdm_formed {s : State} {code : Nat} {data : List Byte} (h : s.formed) : (s.spdm code data).formed :=
  toHost_formed h

theorem spdmOr_formed {s : State} {ok : Bool} {r : State} (h : s.formed) (hr : r.formed) : MayForm (s.spdmOr ok r) :=
  .ite .none (.ite (.some hr) (.some (spdm_formed h)))

theorem tdiEvent_formed {s : State} {p : Nat} {old new : Tdi} (h : s.formed) : MayForm (tdiEvent p old new s) := by
  unfold tdiEvent
  split <;> exact spdmOr_formed h h

theorem stopPart_formed {s : State} {p : Nat} {v : Part} (h : s.formed) : (s.stopPart p v).formed := by
  unfold State.stopPart
  extract_lets -underBinder s1 pages s2
  have hs1 : s1.formed := foldl_formed _ (fun _ _ hs => destroyContext_formed hs) _ h
  have hs2 : s2.formed := by
    refine foldl_formed _ (fun s g hs => ?_) _ hs1
    exact zeroRange_formed (s := s.dropFlights (g * 65536) 65536) hs ..
  exact hs2

theorem stopEvent_formed {s : State} {p : Nat} (h : s.formed) : MayForm (stopEvent p s) := by
  unfold stopEvent
  split
  · exact spdmOr_formed h (stopPart_formed h)
  · exact spdmOr_formed h h

theorem partitionEvent_formed {s : State} {p : Nat} {noDebug : Bool} (h : s.formed) : MayForm (partitionEvent p noDebug s) :=
  .ite .none (.some h)

theorem keyInstallEvent_formed {s : State} {p : Nat} {key : VerifyKey} (h : s.formed) : MayForm (keyInstallEvent p key s) := by
  unfold keyInstallEvent
  split
  · exact .none
  · exact .ite .none (.ite (.some (toError_formed h)) (.ite (.some (toHost_formed h)) (.some h)))

theorem ideEvent_formed {s : State} {p : Nat} (h : s.formed) : MayForm (ideEvent p s) :=
  .ite .none (.some (toError_formed h))

theorem versionEvent_formed {s : State} (h : s.formed) : MayForm (versionEvent s) :=
  .ite .none (.some (spdm_formed h))

theorem capabilitiesEvent_formed {s : State} (h : s.formed) : MayForm (capabilitiesEvent s) :=
  spdmOr_formed h (spdm_formed h)

theorem algorithmsEvent_formed {s : State} (h : s.formed) : MayForm (algorithmsEvent s) :=
  spdmOr_formed h (spdm_formed h)

theorem digestsEvent_formed {s : State} (h : s.formed) : MayForm (digestsEvent s) :=
  spdmOr_formed h (spdm_formed h)

theorem certificateEvent_formed {s : State} {slot : Nat} (h : s.formed) : MayForm (certificateEvent slot s) :=
  spdmOr_formed h (spdm_formed h)

theorem challengeEvent_formed {s : State} {nonce : Nat} (h : s.formed) : MayForm (challengeEvent nonce s) :=
  spdmOr_formed h (spdm_formed h)

theorem measurementsEvent_formed {s : State} {p : MeasureAsk} {nonce : Nat} (h : s.formed) : MayForm (measurementsEvent p nonce s) := by
  unfold measurementsEvent
  split
  · exact spdmOr_formed h h
  · split
    · exact spdmOr_formed h h
    · exact spdmOr_formed h (spdm_formed h)

theorem keyExchangeEvent_formed {s : State} {n : Nat} {p : SessionEnd} (h : s.formed) : MayForm (keyExchangeEvent n p s) := by
  unfold keyExchangeEvent
  split
  · exact spdmOr_formed h (spdm_formed h)
  · exact .ite .none (.some h)

theorem deriveKeys_formed {s : State} {n : Nat} {v : Session} (h : s.formed) : (s.deriveKeys n v).formed := by
  unfold State.deriveKeys
  split
  · exact h
  · split <;> exact h

theorem sessionEvent_formed {s : State} {n code : Nat} {need : Session → Bool} {g : Session → Session} (h : s.formed) :
    MayForm (sessionEvent n code need g s) := by
  unfold sessionEvent
  split
  · exact spdmOr_formed h h
  · extract_lets -underBinder t
    have ht : t.formed := deriveKeys_formed h
    split
    · exact spdmOr_formed h (spdm_formed ht)
    · exact .ite (.some ht) .none

theorem endSessionEvent_formed {s : State} {n : Nat} (h : s.formed) : MayForm (endSessionEvent n s) := by
  unfold endSessionEvent
  split
  · extract_lets -underBinder _ t
    have ht : t.formed := h
    split
    · exact spdmOr_formed h (spdm_formed ht)
    · exact .ite (.some ht) .none
  · exact spdmOr_formed h h

theorem retrainEvent_formed {s : State} {l : Nat} (h : s.formed) : MayForm (retrainEvent l s) :=
  .ite .none (.some (resendFlow_formed h))

theorem linkDownEvent_formed {s : State} {l : Nat} (h : s.formed) : MayForm (linkDownEvent l s) :=
  .ite .none (.some (breakLink_formed h))

theorem tagFailureEvent_formed {s : State} {x : LinkSide} (h : s.formed) : MayForm (tagFailureEvent x s) :=
  .ite .none (.ite (.some h) (.some (foldl_formed _ (fun _ _ hs => toError_formed hs) _ (breakLink_formed h))))

theorem cleared_formed {s : State} : s.cleared.formed := ⟨rfl, rfl⟩

theorem dark_formed {s : State} : s.dark.formed := cleared_formed (s := s)

theorem resetEvent_formed {s : State} {b : BootImages} : MayForm (resetEvent b s) := by
  unfold resetEvent
  extract_lets -underBinder r s1 _ s2
  have hs2 : s2.formed := cleared_formed (s := s)
  exact .some (ite_formed (devPut_formed hs2 ..) hs2)

theorem powerEvent_formed {s : State} {st : PowerState} (h : s.formed) : MayForm (powerEvent st s) := by
  unfold powerEvent
  refine .ite .none ?_
  split
  · exact .ite .none (.some h)
  · exact .ite (.some (toHost_formed h)) (.ite .none (.some h))
  · exact .ite (.some (toHost_formed h)) (.some (dark_formed (s := s)))

theorem throttleEvent_formed {s : State} {d : Nat} (h : s.formed) : MayForm (throttleEvent d s) :=
  .ite .none (.some h)

theorem shutdownEvent_formed {s : State} (_ : s.formed) : MayForm (shutdownEvent s) :=
  .ite .none (.some (dark_formed (s := s)))

/-! ### Frames -/

theorem active_formed {s : State} {c : Nat} (h : s.formed) : (s.active c).formed :=
  modCtx_formed h ..

theorem refuseTok_formed {s : State} {k : Nat} {f : Frame} {idx : Nat} {t : Tok} (h : s.formed) : (s.refuseTok k f idx t).formed :=
  dropTok_formed (raiseAt_formed h)

theorem parkTok_formed {s : State} {k : Nat} {f : Frame} {idx : Nat} {sd : Side} {i : Instr} {t : Tok} (h : s.formed) :
    (s.parkTok k f idx sd i t).formed :=
  ite_formed (mismatch_formed h) (ite_formed (storeAddress_formed h) h)

theorem deliverSlot_formed {s : State} {k : Nat} {f : Frame} {idx : Nat} {sd : Side} {t : Tok} (h : s.formed) :
    (s.deliverSlot k f idx sd t).formed := by
  unfold State.deliverSlot
  split
  · exact refuseTok_formed h
  · refine ite_formed (refuseTok_formed h) ?_
    split
    · exact dropTok_formed h
    · exact refuseTok_formed h
    · exact refuseTok_formed h
    · exact ite_formed (refuseTok_formed h) (parkTok_formed h)

theorem oddToken_formed {s : State} {raw : BitVec 128} {c : Nat} (h : s.formed) : (s.oddToken raw c).formed :=
  dropTok_formed (raiseNone_formed h)

theorem deliverToken_formed {s : State} {raw : BitVec 128} {uid : Nat} {src : Src} (h : s.formed) : (s.deliverToken raw uid src).formed := by
  unfold State.deliverToken
  extract_lets -underBinder
  refine ite_formed (oddToken_formed h) ?_
  split
  · exact dropTok_formed h
  · exact ite_formed (deliverSlot_formed h) (dropTok_formed h)

theorem injectToken_formed {s : State} {raw : BitVec 128} {cid ctx : Nat} (h : s.formed) : (s.injectToken raw cid ctx).formed := by
  unfold State.injectToken
  extract_lets -underBinder _ lost
  have hlost : lost.formed := ite_formed (counterError_formed h) h
  refine ite_formed (oddToken_formed h) ?_
  split
  · exact ite_formed (deliverSlot_formed h) hlost
  · exact hlost

theorem tokenEvent_formed {s : State} {n : Nat} (h : s.formed) : MayForm (tokenEvent n s) := by
  unfold tokenEvent
  split
  · refine .ite .none <| .ite (.some h) ?_
    split
    · exact .some (deliverToken_formed h)
    · exact .some (injectToken_formed h)
    · exact .none
  · exact .none

theorem resendEvent_formed {s : State} {n : Nat} (h : s.formed) : MayForm (resendEvent n s) := by
  unfold resendEvent
  split
  · exact .ite (.some h) .none
  · exact .none

theorem giveUp_formed {s : State} {e : Env} (h : s.formed) : (s.giveUp e).formed := by
  unfold State.giveUp
  split
  · exact dropTok_formed h
  · exact dropTok_formed (unexpect_formed h)
  · exact unexpect_formed h
  · exact foldl_formed _ (fun _ _ hs => unexpect_formed hs) _ h
  · exact performed_formed h
  · exact h

theorem parityEvent_formed {s : State} {n : Nat} (h : s.formed) : MayForm (parityEvent n s) := by
  unfold parityEvent
  split
  · refine .ite ?_ .none
    extract_lets -underBinder _ s1
    have hs1 : s1.formed := giveUp_formed h
    refine .some ?_
    split
    · exact raiseHome_formed hs1
    · exact raiseNone_formed hs1
  · exact .none

theorem deliverReply_formed {s : State} {d : Dest} {t : Tok} {src : Src} (h : s.formed) : (s.deliverReply d t src).formed := by
  unfold State.deliverReply
  split
  · exact dropTok_formed h
  · extract_lets -underBinder _ _ s1
    have hs1 : s1.formed := active_formed h
    refine ite_formed (dropTok_formed hs1) ?_
    split
    · exact dropTok_formed hs1
    · exact deliverSlot_formed hs1
    · exact ite_formed (dropTok_formed (raiseAt_formed hs1)) hs1

theorem deliverElem_formed {s : State} {d : Dest} {e : Elem} {fc w : Nat} {src : Src} (h : s.formed) : MayForm (s.deliverElem d e fc w src) := by
  unfold State.deliverElem
  split
  · exact .some h
  · exact .ite (.some (active_formed (unexpect_formed h))) (.ite .none (.some (deliverReply_formed h)))

theorem replyEvent_formed {s : State} {n : Nat} (h : s.formed) : MayForm (replyEvent n s) := by
  unfold replyEvent
  split
  · refine .ite .none ?_
    split
    · exact .ite (.some (unexpect_formed (oddToken_formed (inForce_formed h)))) (.some (deliverReply_formed (inForce_formed h)))
    · exact .some (unexpect_formed h)
    · exact deliverElem_formed h
    · exact .none
  · exact .none

theorem releaseEvent_formed {s : State} {n : Nat} (h : s.formed) : MayForm (releaseEvent n s) := by
  unfold releaseEvent
  split
  · refine .ite .none ?_
    split
    · exact .some (dropRef_formed h)
    · exact .none
  · exact .none

theorem raiseQuota_formed {s : State} {a : Activation} (h : s.formed) : (s.raiseQuota a).formed := by
  unfold State.raiseQuota
  split
  · split
    · exact raiseAt_formed h
    · exact faultAct_formed h
  · exact faultAct_formed h

theorem stopOpen_formed {s : State} {k : Nat} {f : Frame} {code : Code} (h : s.formed) : (s.stopOpen k f code).formed :=
  raise_formed (modFrame_formed h)

theorem sendReads_formed {s : State} {src : Src} {val : Nat → Tok} {l : List ReadEntry} (h : s.formed) : (s.sendReads src val l).1.formed := by
  induction l generalizing s with
  | nil => exact h
  | cons r t ih =>
    unfold State.sendReads
    extract_lets -underBinder ts tok
    split
    · exact h
    · rename_i s1 e
      extract_lets -underBinder sent
      have hs1 : s1.formed := addRefs_formed h _ e
      have hsent : sent.1.formed := by
        refine foldl_fst_formed _ (fun p g hp => ?_) _ hs1
        split
        · rename_i s2 e
          exact sendTo_formed hp _ e
        · exact dropTok_formed hp
      split
      · exact hsent
      · exact ih hsent

theorem begin_formed {s : State} {k : Nat} {f : Frame} {t : Task} (h : s.formed) : (s.begin k f t).formed := by
  unfold State.begin
  extract_lets -underBinder
  split
  · exact raiseAt_formed (modFrame_formed h)
  · split
    · rename_i s1 code e
      have hs1 : s1.formed := fst_formed (sendReads_formed h) e
      exact stopOpen_formed hs1
    · rename_i s1 e
      have hs1 : s1.formed := fst_formed (sendReads_formed h) e
      split
      · exact hs1
      · split
        · rename_i s2 e
          have hs2 : s2.formed := deliverCarry_formed hs1 _ e
          exact hs2
        · exact stopOpen_formed hs1

theorem openAct_formed {s : State} {pe : Nat} {a : Activation} {g : Cfg} {x : Ctx} {t : Task} {id run : Nat} (h : s.formed) :
    (s.openAct pe a g x t id run).formed := by
  unfold State.openAct
  extract_lets -underBinder skip k parent wide f _ s0 s1 go
  have hs1 : s1.formed := h
  have hgo (u : State) (hu : u.formed) : (go u).formed := by
    dsimp only [go]
    have hs3 : (((if skip.isSome then u.modCtx a.ctx fun y => { y with skip := none } else u).setFrame k f).begin k f t).formed :=
      begin_formed (ite_formed (modCtx_formed hu ..) hu)
    split
    · split
      · exact mismatch_formed hs3
      · exact hs3
    · exact hs3
  clear_value go
  refine ite_formed (faultAct_formed h) (ite_formed (hgo _ hs1) ?_)
  split
  · exact stopOpen_formed hs1
  · exact hgo _ (modCtx_formed hs1 ..)

theorem grantEvent_formed {s : State} {pe : Nat} (h : s.formed) : MayForm (grantEvent pe s) := by
  unfold grantEvent
  split
  · exact .ofMap fun _ => raiseQuota_formed h
  · split
    · exact .ofMap fun _ => openAct_formed h
    · exact .none

theorem freeEvent_formed {s : State} {pe f : Nat} (h : s.formed) : MayForm (freeEvent pe f s) := by
  unfold freeEvent
  split
  · exact .none
  · exact .ite .none (.some (requeueKilled_formed h))

theorem iterStartEvent_formed {s : State} {pe t : Nat} (h : s.formed) : MayForm (iterStartEvent pe t s) := by
  unfold iterStartEvent
  split
  · exact .none
  · split
    · exact .none
    · exact .ite .none (.some (modLoop_formed h))

/-! ### Commit -/

theorem releaseStore_formed {s : State} {k : Nat} {f : Frame} {r : StoreRec} (h : s.formed) : (s.releaseStore k f r).formed := by
  unfold State.releaseStore
  split
  · exact h
  · exact ite_formed h h

theorem releaseBarinit_formed {s : State} {k : Nat} {f : Frame} {e : Effect} (h : s.formed) : (s.releaseBarinit k f e).formed := by
  unfold State.releaseBarinit
  split <;> exact h

theorem releaseStores_formed {s : State} {k : Nat} {f : Frame} (h : s.formed) : (s.releaseStores k f).formed :=
  foldl_formed _ (fun _ _ hs => releaseBarinit_formed hs) _ (foldl_formed _ (fun _ _ hs => releaseStore_formed hs) _ h)

theorem writeReg_formed {s : State} {pe task g : Nat} {t : Tok} (h : s.formed) : (s.writeReg pe task g t).formed := by
  unfold State.writeReg
  refine ite_formed h ?_
  split
  · exact dropTok_formed h
  · exact ite_formed (dropTok_formed h) (dropTok_formed h)

theorem writeRegs_formed {s : State} {k : Nat} {f : Frame} (h : s.formed) : (s.writeRegs k f).formed := by
  unfold State.writeRegs
  refine foldl_formed _ (fun s _ hs => ?_) _ h
  split
  · exact writeReg_formed hs
  · exact hs

theorem commitRing_formed {s : State} {pe uid q : Nat} (h : s.formed) : (s.commitRing pe uid q).formed :=
  ite_formed h (ite_formed h (tellHeads_formed h))

theorem commitEffect_formed {s : State} {k : Nat} {f : Frame} {e : Effect} (h : s.formed) : (s.commitEffect k f e).formed := by
  unfold State.commitEffect
  extract_lets -underBinder
  split
  · exact modCtx_formed h ..
  · exact modCtx_formed h ..
  · exact commitSrw_formed h
  · exact commitRemest_formed h
  · exact h
  · exact h
  · exact h
  · exact commitBararr_formed h
  · exact h
  · exact h
  · exact h
  · exact commitChopen_formed h
  · exact commitChclose_formed h
  · exact commitAcbind_formed h
  · exact commitAcfree_formed h
  · exact h
  · exact modCtx_formed h ..
  · exact modTask_formed h
  · exact commitObjload_formed h
  · exact h

theorem commitHolds_formed {s : State} {k : Nat} {f : Frame} (h : s.formed) : (s.commitHolds k f).formed := by
  unfold State.commitHolds
  extract_lets -underBinder
  refine ite_formed (commitSbar_formed h) ?_
  refine foldl_formed _ (fun s _ hs => ?_) _ h
  split
  · exact commitFence_formed hs
  · exact commitSbar_formed hs
  · exact hs

theorem commitHeld_formed {s : State} {k : Nat} {f : Frame} (h : s.formed) : (s.commitHeld k f).formed := by
  unfold State.commitHeld
  extract_lets -underBinder pe s0 s1 s2
  have hs0 : s0.formed := foldl_formed _ (fun _ _ hs => commitEffect_formed hs) _ h
  have hs1 : s1.formed := commitHolds_formed hs0
  have hs2 : s2.formed := foldl_formed _ (fun _ _ hs => commitRing_formed hs) _ hs1
  clear_value s2
  exact modCtx_formed (s := s2.keepAccs pe f.uid) (formed_of_same hs2 rfl rfl) ..

theorem finishLoop_formed {s : State} {pe t : Nat} {l : Loop} {last : Int} {carries : Bool} (h : s.formed) :
    (s.finishLoop pe t l last carries).formed := by
  unfold State.finishLoop
  split
  · exact h
  · extract_lets -underBinder _ _ _ _ s1
    have hs1 : s1.formed := modLoop_formed h
    split
    · exact raiseAt_formed hs1
    · rename_i s2 e
      have hs2 : s2.formed := settle_formed hs1 _ e
      split
      · exact raiseAt_formed hs2
      · rename_i s3 e
        have hs3 : s3.formed := sendTo_formed hs2 _ e
        exact MayForm.getD (sendTo_formed hs3) (raiseAt_formed hs3)

theorem commitIter_formed {s : State} {k : Nat} {f : Frame} {j : Int} (h : s.formed) : (s.commitIter k f j).formed := by
  unfold State.commitIter
  extract_lets -underBinder _ s1
  have hs1 : s1.formed := modLoop_formed h
  split
  · exact hs1
  · exact ite_formed (finishLoop_formed hs1) hs1

theorem startNext_formed {s : State} {k : Nat} {f : Frame} (h : s.formed) : (s.startNext k f).formed := by
  unfold State.startNext
  extract_lets -underBinder
  split
  · exact h
  · refine ite_formed h ?_
    split <;> exact h

theorem afterCommit_formed {s : State} {k : Nat} {f : Frame} {ckpt : Option (Nat × List (Nat × Nat))} (h : s.formed) :
    (s.afterCommit k f ckpt).formed := by
  unfold State.afterCommit
  extract_lets -underBinder
  split
  · exact checkpoint_formed h
  · split
    · exact commitIter_formed h
    · exact startNext_formed (ite_formed (dropLoop_formed h) h)

theorem commit_formed {s : State} {k : Nat} {f : Frame} {ckpt : Option (Nat × List (Nat × Nat))} (h : s.formed) : (s.commit k f ckpt).formed := by
  unfold State.commit
  extract_lets -underBinder pe s1 s2 s3 s4 p s5
  have hs2 : s2.formed := writeRegs_formed (releaseStores_formed h)
  clear_value s2
  have hs3 : s3.formed := dropToks_formed (formed_of_same hs2 rfl rfl)
  clear_value s3
  have hs4 : s4.formed := active_formed (commitHeld_formed hs3)
  clear_value s4
  have hs5 : s5.formed := formed_of_same hs4 rfl rfl
  exact afterCommit_formed hs5

theorem commitEvent_formed {s : State} {pe fid : Nat} (h : s.formed) : MayForm (commitEvent pe fid s) := by
  unfold commitEvent
  extract_lets -underBinder
  split
  · exact .none
  · refine .ite .none ?_
    split
    · exact .some (commit_formed h)
    · split
      · exact .some (commit_formed h)
      · exact .some (raiseAt_formed (setStat_formed h))

/-! ### Tick -/

theorem clockQuads_formed {s : State} {n : Nat} (h : s.formed) : (s.clockQuads n).formed :=
  foldl_formed _ (fun _ _ hs => by exact hs) _ h

theorem tick_formed {s : State} {n : Nat} (h : s.formed) : (s.tick n).formed :=
  clockQuads_formed (countCycles_formed h)

/-! ### Sched -/

theorem charge_formed {s : State} {pe slot c : Nat} {cs : List Nat} (h : s.formed) : (s.charge pe slot c cs).formed :=
  foldl_formed _ (fun _ _ hs => by exact hs) _ h

theorem tookDivider_formed {s : State} {x : Contender} (h : s.formed) : (s.tookDivider x).formed :=
  ite_formed h h

theorem tookSlot_formed {s : State} {l : List Contender} {x : Contender} {now : State} (h : s.formed) : (s.tookSlot l x now).formed :=
  noteIssue_formed (tookDivider_formed (ite_formed h (charge_formed h)))

/-! ### A step -/

/-- A state in which an outcome goes on has the form. -/
def NextFormed (o : Host.Outcome State Fault Refusal) : Prop := ∀ t, o = .next t → t.formed

theorem NextFormed.next {s : State} (h : s.formed) : NextFormed (.next s) := fun _ e => Host.Outcome.next.inj e ▸ h

theorem NextFormed.fault {r : Fault} : NextFormed (.fault r) := nofun

theorem event_nextFormed {name : String} {o : Option State} (h : MayForm o) : NextFormed (event name o) := by
  unfold event
  split
  · exact .next (h _ rfl)
  · exact .fault

theorem fire_nextFormed {s : State} {i : Instr} {body : Body} (h : s.formed) (hb : ∀ f, OkHas (·.st.formed) (body f s)) : NextFormed (fire i body s) := by
  unfold fire
  split
  · exact .fault
  · exact .next (issue_formed h (hb _))

theorem fireInOrder_nextFormed {s : State} {i : Instr} {z : Option (BitVec 3)} {body : Body} (h : s.formed) (hb : ∀ f, OkHas (·.st.formed) (body f s)) :
    NextFormed (fireInOrder i z body s) := by
  unfold fireInOrder
  split
  · exact .fault
  · exact .next (issueInOrder_formed h (hb _))

/-- Every instruction and event keeps the form: one line for each meaning that instructions share. -/
theorem exec_nextFormed {s : State} (i : Instr) (h : s.formed) : NextFormed (exec i s) := by
  cases i with
  | mov => exact fire_nextFormed h fun _ => movBody_formed h
  | const_ | constZx => exact fire_nextFormed h fun _ => constBody_formed h
  | consth => exact fire_nextFormed h fun _ => consthBody_formed h
  | null_ => exact fire_nextFormed h fun _ => nullBody_formed h
  | sel => exact fire_nextFormed h fun _ => selBody_formed h
  | gate => exact fire_nextFormed h fun _ => gateBody_formed h
  | br | bri | call | calli | ret | iter | tend => exact fire_nextFormed h fun _ => branchBody_formed h
  | loop => exact fire_nextFormed h fun _ => loopBody_formed h
  | carry => exact fire_nextFormed h fun _ => carryBody_formed h
  | lbreak => exact fire_nextFormed h fun _ => lbreakBody_formed h
  | add | sub | and_ | or_ | xor_ | shl | shr | sar | min_ | max_ | minu | maxu | rotl | andn | orn | xnor | mul | mulh | mulhu | sext | zext | cmp
  | lea => exact fire_nextFormed h fun _ => binary_formed h
  | addImm | subImm | andImm | orImm | xorImm | shlImm | shrImm | sarImm | minImm | maxImm | minuImm | maxuImm | rotlImm | andnImm | ornImm
  | xnorImm | mulImm | mulhImm | mulhuImm | cmpImm | leaImm => exact fire_nextFormed h fun _ => binaryImm_formed h
  | div | divu | rem_ | remu | faddS | fsubS | fmulS | fdivS | fminS | fmaxS | fcmpeqS | fcmpltS | fcmpleS | fcmpunS | faddD | fsubD | fmulD
  | fdivD | fminD | fmaxD | fcmpeqD | fcmpltD | fcmpleD | fcmpunD => exact fire_nextFormed h fun _ => binaryF_formed h
  | divImm | divuImm | remImm | remuImm => exact fire_nextFormed h fun _ => binaryImmF_formed h
  | clz | ctz | popc | neg | not_ | abs_ | bfx | fabsS | fnegS | fabsD | fnegD => exact fire_nextFormed h fun _ => unary_formed h
  | bfi => exact fire_nextFormed h fun _ => ternary_formed h
  | fsqrtS | fsqrtD => exact fire_nextFormed h fun _ => unaryF_formed h
  | ffmaS | ffmaD => exact fire_nextFormed h fun _ => ternaryF_formed h
  | cvt => exact fire_nextFormed h fun _ => cvtBody_formed h
  | tcvt => exact fire_nextFormed h fun _ => tcvtBody_formed h
  | fcset => exact fire_nextFormed h fun _ => fcsetBody_formed h
  | fcget => exact fire_nextFormed h fun _ => fcgetBody_formed h
  | tamax => exact fire_nextFormed h fun _ => tamaxBody_formed h
  | trescale => exact fire_nextFormed h fun _ => trescaleBody_formed h
  | tadd | tsub | tmul | tmax | tmin | tdiv => exact fire_nextFormed h fun _ => tileBin_formed h
  | tand | tor | txor => exact fire_nextFormed h fun _ => tileBits_formed h
  | tneg | tabs | texp | tlog | trsqrt | trecip | ttanh | tsigm | tgelu => exact fire_nextFormed h fun _ => tileUn_formed h
  | tfma => exact fire_nextFormed h fun _ => tfmaBody_formed h
  | tsplat => exact fire_nextFormed h fun _ => tsplatBody_formed h
  | trowb | tcolb => exact fire_nextFormed h fun _ => tileRepeat_formed h
  | trsum | tcsum | trmax | tcmax => exact fire_nextFormed h fun _ => tileReduce_formed h
  | tsum => exact fire_nextFormed h fun _ => tsumBody_formed h
  | ttrans => exact fire_nextFormed h fun _ => ttransBody_formed h
  | tmask => exact fire_nextFormed h fun _ => tmaskBody_formed h
  | tcmp => exact fire_nextFormed h fun _ => tcmpBody_formed h
  | tsel => exact fire_nextFormed h fun _ => tselBody_formed h
  | telget => exact fire_nextFormed h fun _ => telgetBody_formed h
  | telset => exact fire_nextFormed h fun _ => telsetBody_formed h
  | tnew => exact fire_nextFormed h fun _ => tnewBody_formed h
  | trel => exact fire_nextFormed h fun _ => trelBody_formed h
  | tcopy => exact fire_nextFormed h fun _ => tcopyBody_formed h
  | mma => exact fireInOrder_nextFormed h fun _ => mmaBody_formed h
  | mmar => exact fireInOrder_nextFormed h fun _ => mmarBody_formed h
  | zinit => exact fireInOrder_nextFormed h fun _ => zinitBody_formed h
  | zclrf => exact fireInOrder_nextFormed h fun _ => zclrfBody_formed h
  | zflags => exact fireInOrder_nextFormed h fun _ => zflagsBody_formed h
  | zscale => exact fireInOrder_nextFormed h fun _ => zscaleBody_formed h
  | zload => exact fireInOrder_nextFormed h fun _ => zloadBody_formed h
  | zdrain => exact fireInOrder_nextFormed h fun _ => zdrainBody_formed h
  | tmac => exact fireInOrder_nextFormed h fun _ => tmacBody_formed h
  | rcfg => exact fireInOrder_nextFormed h fun _ => rcfgBody_formed h
  | rpush => exact fireInOrder_nextFormed h fun _ => rpushBody_formed h
  | rpop => exact fireInOrder_nextFormed h fun _ => rpopBody_formed h
  | rstat => exact fireInOrder_nextFormed h fun _ => rstatBody_formed h
  | epload => exact fireInOrder_nextFormed h fun _ => eploadBody_formed h
  | eparg => exact fireInOrder_nextFormed h fun _ => epargBody_formed h
  | ld | ldr => exact fire_nextFormed h fun _ => loadBody_formed h
  | st => exact fire_nextFormed h fun _ => stBody_formed h
  | ldpair => exact fire_nextFormed h fun _ => ldpairBody_formed h
  | tld | tldr => exact fire_nextFormed h fun _ => tldBody_formed h
  | tst => exact fire_nextFormed h fun _ => tstBody_formed h
  | tgath => exact fire_nextFormed h fun _ => tgathBody_formed h
  | tscat => exact fire_nextFormed h fun _ => tscatBody_formed h
  | fence | fenceWord | sbar => exact fire_nextFormed h fun _ => holdBody_formed h
  | tlwait => exact fire_nextFormed h fun _ => tlwaitBody_formed h
  | tlread => exact fire_nextFormed h fun _ => tlreadBody_formed h
  | atom | atomn => exact fire_nextFormed h fun _ => atomBody_formed h
  | acbind => exact fire_nextFormed h fun _ => acbindBody_formed h
  | acexpect => exact fire_nextFormed h fun _ => acexpectBody_formed h
  | acread => exact fire_nextFormed h fun _ => acreadBody_formed h
  | acfree => exact fire_nextFormed h fun _ => acfreeBody_formed h
  | barinit => exact fire_nextFormed h fun _ => barinitBody_formed h
  | bararr | syncall => exact fire_nextFormed h fun _ => bararrBody_formed h
  | bartry => exact fire_nextFormed h fun _ => bartryBody_formed h
  | chopen => exact fire_nextFormed h fun _ => chopenBody_formed h
  | chclose => exact fire_nextFormed h fun _ => chcloseBody_formed h
  | chstat => exact fire_nextFormed h fun _ => chstatBody_formed h
  | chsend | chtrys => exact fire_nextFormed h fun _ => sendBody_formed h
  | chrecv | chtryr => exact fire_nextFormed h fun _ => recvBody_formed h
  | cpy => exact fire_nextFormed h fun _ => cpyBody_formed h
  | cpy1 => exact fire_nextFormed h fun _ => cpy1Body_formed h
  | cpyr => exact fire_nextFormed h fun _ => cpyrBody_formed h
  | cpqpost => exact fire_nextFormed h fun _ => cpqpostBody_formed h
  | cpstat => exact fire_nextFormed h fun _ => cpstatBody_formed h
  | spawn => exact fire_nextFormed h fun _ => spawnBody_formed h
  | spawnd => exact fire_nextFormed h fun _ => spawndBody_formed h
  | jnew => exact fire_nextFormed h fun _ => jnewBody_formed h
  | jdec => exact fire_nextFormed h fun _ => jdecBody_formed h
  | fnew => exact fire_nextFormed h fun _ => fnewBody_formed h
  | fres => exact fire_nextFormed h fun _ => fresBody_formed h
  | freg => exact fire_nextFormed h fun _ => fregBody_formed h
  | fget => exact fire_nextFormed h fun _ => fgetBody_formed h
  | dqpush | dqpop | dqsteal => exact fire_nextFormed h fun _ => dequeBody_formed h
  | wqput | wqget => exact fire_nextFormed h fun _ => wqueueBody_formed h
  | yield_ => exact fire_nextFormed h fun _ => yieldBody_formed h
  | srr => exact fire_nextFormed h fun _ => srrBody_formed h
  | srw => exact fire_nextFormed h fun _ => srwBody_formed h
  | trap => exact fire_nextFormed h fun _ => trapBody_formed h
  | hcall => exact fire_nextFormed h fun _ => hcallBody_formed h
  | ckpt => exact fire_nextFormed h fun _ => ckptBody_formed h
  | remest | remestImm => exact fire_nextFormed h fun _ => remestBody_formed h
  | ctxnew => exact fire_nextFormed h fun _ => ctxnewBody_formed h
  | ctxhalt | ctxres => exact fire_nextFormed h fun _ => ctxBody_formed h
  | hbeat => exact fire_nextFormed h fun _ => hbeatBody_formed h
  | atinv => exact fire_nextFormed h fun _ => atinvBody_formed h
  | pwrhint => exact fire_nextFormed h fun _ => pwrhintBody_formed h
  | tcinv => exact fire_nextFormed h fun _ => tcinvBody_formed h
  | tcpin | tcpre => exact fire_nextFormed h fun _ => tcpinBody_formed h
  | objload => exact fire_nextFormed h fun _ => objloadBody_formed h
  | trace => exact fire_nextFormed h fun _ => traceBody_formed h
  | mark => exact fire_nextFormed h fun _ => markBody_formed h
  | brk => exact fire_nextFormed h fun _ => brkBody_formed h
  | cntrd => exact fire_nextFormed h fun _ => cntrdBody_formed h
  | tokenDelivery => exact event_nextFormed (tokenEvent_formed h)
  | tokenResend => exact event_nextFormed (resendEvent_formed h)
  | tokenParity => exact event_nextFormed (parityEvent_formed h)
  | splitPhaseReply => exact event_nextFormed (replyEvent_formed h)
  | tileRelease => exact event_nextFormed (releaseEvent_formed h)
  | frameGrant => exact event_nextFormed (grantEvent_formed h)
  | blockCommit => exact event_nextFormed (commitEvent_formed h)
  | frameFree => exact event_nextFormed (freeEvent_formed h)
  | loopIterationStart => exact event_nextFormed (iterStartEvent_formed h)
  | memoryAccessAtHome => exact event_nextFormed (homeEvent_formed h)
  | translationWalk => exact event_nextFormed (walkDoneEvent_formed h)
  | faultQueueDoorbell => exact event_nextFormed (faultDoorbellEvent_formed h)
  | atomicEngineRequest => exact event_nextFormed (engineEvent_formed h)
  | atomicLineFill => exact event_nextFormed (fillEvent_formed h)
  | countMessage => exact event_nextFormed (countEvent_formed h)
  | counterFire => exact event_nextFormed (counterFireEvent_formed h)
  | barrierArrival => exact event_nextFormed (barArriveEvent_formed h)
  | barrierPhaseComplete => exact event_nextFormed (barCompleteEvent_formed h)
  | barrierRelease => exact event_nextFormed (barReleaseEvent_formed h)
  | channelBindRequest => exact event_nextFormed (bindEvent_formed h)
  | channelElement => exact event_nextFormed (elementEvent_formed h)
  | channelReceiveRequest => exact event_nextFormed (recvEvent_formed h)
  | spillReadback => exact event_nextFormed (readbackEvent_formed h)
  | endpointRelease => exact event_nextFormed (epReleaseEvent_formed h)
  | channelCloseMessage => exact event_nextFormed (closeEvent_formed h)
  | xoff => exact event_nextFormed (xoffEvent_formed h)
  | xon => exact event_nextFormed (xonEvent_formed h)
  | monitorExtend => exact event_nextFormed (monitorEvent_formed h)
  | probationExpiry => exact event_nextFormed (probationEvent_formed h)
  | linkRetrain => exact event_nextFormed (retrainEvent_formed h)
  | linkDown => exact event_nextFormed (linkDownEvent_formed h)
  | jxTagFailure => exact event_nextFormed (tagFailureEvent_formed h)
  | copyStart => exact event_nextFormed (copyStartEvent_formed h)
  | copyComplete => exact event_nextFormed (copyCompleteEvent_formed h)
  | copyQueueDoorbell => exact event_nextFormed (doorbellEvent_formed h)
  | copyQueueRegistration => exact event_nextFormed (registrationEvent_formed h)
  | ringHeadUpdate => exact event_nextFormed (headUpdateEvent_formed h)
  | matrixOperandPacket => exact event_nextFormed (packetEvent_formed h)
  | accumulatorSpill => exact event_nextFormed (spillEvent_formed h)
  | taskPop => exact event_nextFormed (popEvent_formed h)
  | taskEnd => exact event_nextFormed (taskEndEvent_formed h)
  | joinDecrement => exact event_nextFormed (joinEvent_formed h)
  | futureOperation => exact event_nextFormed (futureEvent_formed h)
  | futurePoison => exact event_nextFormed (poisonEvent_formed h)
  | dequeOperation => exact event_nextFormed (dequeEvent_formed h)
  | workQueueOperation => exact event_nextFormed (wqueueEvent_formed h)
  | dependenceSubmit => exact event_nextFormed (depSubmitEvent_formed h)
  | dependenceRelease => exact event_nextFormed (depReleaseEvent_formed h)
  | copyBack => exact event_nextFormed (copyBackEvent_formed h)
  | costReport => exact event_nextFormed (costEvent_formed h)
  | quadGate => exact event_nextFormed (gateEvent_formed h)
  | quadWake => exact event_nextFormed (wakeEvent_formed h)
  | preempt => exact event_nextFormed (preemptEvent_formed h)
  | haltLine => exact event_nextFormed (haltLineEvent_formed h)
  | haltComplete => exact event_nextFormed (haltCompleteEvent_formed h)
  | watchdog => exact event_nextFormed (watchdogEvent_formed h)
  | create => exact event_nextFormed (createEvent_formed h)
  | hostReply => exact event_nextFormed (hostReplyEvent_formed h)
  | kilnTranslate => exact event_nextFormed (translateEvent_formed h)
  | configLoad => exact event_nextFormed (configLoadEvent_formed h)
  | invalidationEffect => exact event_nextFormed (invalEvent_formed h)
  | traceSample => exact event_nextFormed (sampleEvent_formed h)
  | apertureSizeWrite => exact event_nextFormed (apertureEvent_formed h)
  | pkgnoWrite => exact event_nextFormed (pkgnoEvent_formed h)
  | deviceRegisterWrite => exact event_nextFormed (deviceWriteEvent_formed h)
  | hostBarAccess => exact event_nextFormed (barEvent_formed h)
  | bridgeLinkLoss => exact event_nextFormed (linkLossEvent_formed h)
  | ownershipChange => exact event_nextFormed (ownershipEvent_formed h)
  | lockInterfaceRequest | startInterfaceRequest => exact event_nextFormed (tdiEvent_formed h)
  | stopInterface => exact event_nextFormed (stopEvent_formed h)
  | getVersion => exact event_nextFormed (versionEvent_formed h)
  | getCapabilities => exact event_nextFormed (capabilitiesEvent_formed h)
  | negotiateAlgorithms => exact event_nextFormed (algorithmsEvent_formed h)
  | getDigests => exact event_nextFormed (digestsEvent_formed h)
  | getCertificate => exact event_nextFormed (certificateEvent_formed h)
  | challenge => exact event_nextFormed (challengeEvent_formed h)
  | getMeasurements => exact event_nextFormed (measurementsEvent_formed h)
  | keyExchange => exact event_nextFormed (keyExchangeEvent_formed h)
  | finish | keyUpdate => exact event_nextFormed (sessionEvent_formed h)
  | endSession => exact event_nextFormed (endSessionEvent_formed h)
  | reset b => exact event_nextFormed (name := "RESET") (resetEvent_formed (s := s) (b := b))
  | powerStateRequest => exact event_nextFormed (powerEvent_formed h)
  | thermalThrottle => exact event_nextFormed (throttleEvent_formed h)
  | thermalShutdown => exact event_nextFormed (shutdownEvent_formed h)
  | ideIntegrityFailure => exact event_nextFormed (ideEvent_formed h)
  | bridgeLinkReturn => exact event_nextFormed (linkReturnEvent_formed h)
  | partitionCreation => exact event_nextFormed (partitionEvent_formed h)
  | verificationKeyInstall => exact event_nextFormed (keyInstallEvent_formed h)

theorem eventRun_nextFormed {s : State} (e : Event) (h : s.formed) : NextFormed (e.run s) := by
  cases e with
  | tokenDelivery n => exact exec_nextFormed (.tokenDelivery n) h
  | tokenResend n => exact exec_nextFormed (.tokenResend n) h
  | tokenParity n => exact exec_nextFormed (.tokenParity n) h
  | splitPhaseReply n => exact exec_nextFormed (.splitPhaseReply n) h
  | tileRelease n => exact exec_nextFormed (.tileRelease n) h
  | frameGrant pe => exact exec_nextFormed (.frameGrant pe) h
  | blockCommit pe f => exact exec_nextFormed (.blockCommit pe f) h
  | frameFree pe f => exact exec_nextFormed (.frameFree pe f) h
  | loopIterationStart pe t => exact exec_nextFormed (.loopIterationStart pe t) h
  | memoryAccessAtHome n p => exact exec_nextFormed (.memoryAccessAtHome n p) h
  | translationWalk n => exact exec_nextFormed (.translationWalk n) h
  | faultQueueDoorbell n => exact exec_nextFormed (.faultQueueDoorbell n) h
  | atomicEngineRequest q b => exact exec_nextFormed (.atomicEngineRequest q b) h
  | atomicLineFill q line => exact exec_nextFormed (.atomicLineFill q line) h
  | countMessage n => exact exec_nextFormed (.countMessage n) h
  | counterFire c => exact exec_nextFormed (.counterFire c) h
  | barrierArrival n => exact exec_nextFormed (.barrierArrival n) h
  | barrierPhaseComplete rec => exact exec_nextFormed (.barrierPhaseComplete rec) h
  | barrierRelease n => exact exec_nextFormed (.barrierRelease n) h
  | channelBindRequest n => exact exec_nextFormed (.channelBindRequest n) h
  | channelElement n => exact exec_nextFormed (.channelElement n) h
  | channelReceiveRequest n => exact exec_nextFormed (.channelReceiveRequest n) h
  | spillReadback ch => exact exec_nextFormed (.spillReadback ch) h
  | endpointRelease n => exact exec_nextFormed (.endpointRelease n) h
  | channelCloseMessage n => exact exec_nextFormed (.channelCloseMessage n) h
  | xoff n => exact exec_nextFormed (.xoff n) h
  | xon n => exact exec_nextFormed (.xon n) h
  | monitorExtend d => exact exec_nextFormed (.monitorExtend d) h
  | probationExpiry d => exact exec_nextFormed (.probationExpiry d) h
  | copyStart n => exact exec_nextFormed (.copyStart n) h
  | copyComplete n => exact exec_nextFormed (.copyComplete n) h
  | copyQueueDoorbell n => exact exec_nextFormed (.copyQueueDoorbell n) h
  | copyQueueRegistration n => exact exec_nextFormed (.copyQueueRegistration n) h
  | ringHeadUpdate n => exact exec_nextFormed (.ringHeadUpdate n) h
  | matrixOperandPacket n => exact exec_nextFormed (.matrixOperandPacket n) h
  | accumulatorSpill pe z => exact exec_nextFormed (.accumulatorSpill pe z) h
  | taskPop pe => exact exec_nextFormed (.taskPop pe) h
  | taskEnd pe t => exact exec_nextFormed (.taskEnd pe t) h
  | joinDecrement n => exact exec_nextFormed (.joinDecrement n) h
  | futureOperation n => exact exec_nextFormed (.futureOperation n) h
  | futurePoison n => exact exec_nextFormed (.futurePoison n) h
  | dequeOperation n => exact exec_nextFormed (.dequeOperation n) h
  | workQueueOperation n => exact exec_nextFormed (.workQueueOperation n) h
  | dependenceSubmit n => exact exec_nextFormed (.dependenceSubmit n) h
  | dependenceRelease d e => exact exec_nextFormed (.dependenceRelease d e) h
  | copyBack d e => exact exec_nextFormed (.copyBack d e) h
  | costReport d => exact exec_nextFormed (.costReport d) h
  | quadGate q => exact exec_nextFormed (.quadGate q) h
  | quadWake q => exact exec_nextFormed (.quadWake q) h
  | preempt q => exact exec_nextFormed (.preempt q) h
  | haltLine c => exact exec_nextFormed (.haltLine c) h
  | haltComplete c => exact exec_nextFormed (.haltComplete c) h
  | watchdog c => exact exec_nextFormed (.watchdog c) h
  | create n => exact exec_nextFormed (.create n) h
  | kilnTranslate d => exact exec_nextFormed (.kilnTranslate d) h
  | configLoad pe addr => exact exec_nextFormed (.configLoad pe addr) h
  | invalidationEffect n => exact exec_nextFormed (.invalidationEffect n) h
  | traceSample c pe => exact exec_nextFormed (.traceSample c pe) h
  | apertureSizeWrite n => exact exec_nextFormed (.apertureSizeWrite n) h
  | pkgnoWrite n => exact exec_nextFormed (.pkgnoWrite n) h
  | deviceRegisterWrite n => exact exec_nextFormed (.deviceRegisterWrite n) h

theorem runIssue_nextFormed {s : State} {k idx : Nat} {i : Instr} (h : s.formed) : NextFormed (s.runIssue k idx i) := by
  have hexec : NextFormed (exec i (s.focus k idx)) := exec_nextFormed i h
  unfold State.runIssue
  split
  · rename_i s1 e
    have hs1 : s1.formed := hexec _ e
    split
    · exact .next hs1
    · split
      · exact .next (tookSlot_formed hs1)
      · exact .next hs1
  · exact hexec

theorem run_nextFormed {s : State} {a : Action} (h : s.formed) : NextFormed (s.run a) := by
  cases a with
  | issue k idx i => exact runIssue_nextFormed h
  | input i => exact exec_nextFormed i h
  | event e =>
    have hrun : NextFormed (e.run s) := eventRun_nextFormed e h
    unfold State.run
    dsimp only
    split
    · rename_i t he
      exact .next (foldl_formed _ (fun _ _ hs => by exact hs) _ (hrun _ he))
    · exact hrun

/-- What a step does keeps the form: an action of the machine, or time that passes. -/
theorem step_formed_of_formed {s t : State} (h : s.formed) (hstep : step s = .next t) : t.formed := by
  obtain ⟨-, ⟨a, -, hrun⟩ | ⟨-, rfl⟩⟩ := step_cases hstep
  · exact run_nextFormed (s := s.popped) h _ hrun
  · exact tick_formed h

end Sys2Proof.Machine

section
open Sys2Proof Sys2Proof.Machine

/-- Settles O58: a step is an action or passing time (`step_cases`), and each keeps the form of memory. -/
theorem memoryKeepsItsForm : Obligations.MemoryKeepsItsForm := by
  intro s t hmem hdev hstep
  exact step_formed_of_formed ⟨hmem, hdev⟩ hstep

end

namespace Sys2Proof.Machine

/-! ## The copy unit (O41)

### The pieces of a copy's writes (R334, R335) -/

theorem nodup_eraseDups (l : List Nat) : l.eraseDups.Nodup := by
  generalize hn : l.length = n
  induction n using Nat.strongRecOn generalizing l with
  | ind n ih =>
    cases l with
    | nil => simp
    | cons a t =>
      rw [List.eraseDups_cons, List.nodup_cons]
      refine ⟨by simp [List.mem_eraseDups], ih _ ?_ _ rfl⟩
      have := List.length_filter_le (fun b => !b == a) t
      simp only [List.length_cons] at hn
      omega

/-- One address of a write: of the cells that hold it, the one that stays (R335). -/
def pickStep (cells : List (Nat × Nat)) (r : State × List (Nat × Nat)) (va : Nat) : State × List (Nat × Nat) :=
  match cells.filter fun c => c.1 == va with
  | [c] => (r.1, r.2 ++ [c])
  | l => (r.1.drawn, r.2 ++ [nthD l (r.1.freeChoice l.length) (va, 0)])

theorem pickWrites_eq (s : State) (cells : List (Nat × Nat)) :
    s.pickWrites cells = ((cells.map Prod.fst).eraseDups).foldl (pickStep cells) (s, []) := rfl

/-- A state whose free values alone are drawn from. -/
def State.drawnTo (s : State) (n : Nat) : State := { s with sched := { s.sched with free := n } }

theorem nthD_mem {α : Type} {l : List α} {n : Nat} (h : n < l.length) (d : α) : nthD l n d ∈ l := by
  simp [nthD, List.getElem?_eq_getElem h]

/-- The cell that stays is one of the address's. -/
theorem pickStep_spec {cells : List (Nat × Nat)} {va : Nat} (h : va ∈ cells.map Prod.fst) (r : State × List (Nat × Nat)) :
    ∃ c ∈ cells, c.1 = va ∧ ∃ n, pickStep cells r va = (r.1.drawnTo n, r.2 ++ [c]) := by
  obtain ⟨c0, hc0, hva⟩ := List.mem_map.1 h
  have hmem : c0 ∈ cells.filter fun c => c.1 == va := List.mem_filter.2 ⟨hc0, beq_iff_eq.2 hva⟩
  have hof {c} (hc : c ∈ cells.filter fun c => c.1 == va) : c ∈ cells ∧ c.1 = va := by simpa using hc
  unfold pickStep
  split
  · rename_i c hl
    obtain ⟨hc, hcva⟩ := hof (c := c) (by rw [hl]; exact List.mem_singleton_self c)
    exact ⟨c, hc, hcva, r.1.sched.free, rfl⟩
  · obtain ⟨hc, hcva⟩ := hof (nthD_mem (Nat.mod_lt (Config.freeChoice r.1.sched.free) (List.length_pos_of_mem hmem)) (va, 0))
    exact ⟨_, hc, hcva, r.1.sched.free + 1, rfl⟩

theorem foldl_pickStep {cells : List (Nat × Nat)} (vas : List Nat) (h : ∀ va ∈ vas, va ∈ cells.map Prod.fst) (r : State × List (Nat × Nat))
    (hr : ∀ c ∈ r.2, c ∈ cells) :
    (∃ n, (vas.foldl (pickStep cells) r).1 = r.1.drawnTo n) ∧ (vas.foldl (pickStep cells) r).2.map Prod.fst = r.2.map Prod.fst ++ vas ∧
      ∀ c ∈ (vas.foldl (pickStep cells) r).2, c ∈ cells := by
  induction vas generalizing r with
  | nil => exact ⟨⟨r.1.sched.free, rfl⟩, (List.append_nil _).symm, hr⟩
  | cons va vas ih =>
    obtain ⟨c, hc, hva, n, hstep⟩ := pickStep_spec (h va (List.mem_cons_self ..)) r
    rw [List.foldl_cons, hstep]
    obtain ⟨⟨m, hst⟩, hfst, hmem⟩ := ih (fun v hv => h v (List.mem_cons_of_mem _ hv)) (r.1.drawnTo n, r.2 ++ [c])
      (by simpa [or_imp, forall_and] using ⟨fun a b => hr (a, b), hc⟩)
    exact ⟨⟨m, hst⟩, by simp [hfst, hva], hmem⟩

theorem pickWrites_spec (s : State) (cells : List (Nat × Nat)) :
    (∃ n, (s.pickWrites cells).1 = s.drawnTo n) ∧ (s.pickWrites cells).2.map Prod.fst = (cells.map Prod.fst).eraseDups ∧
      ∀ c ∈ (s.pickWrites cells).2, c ∈ cells := by
  rw [pickWrites_eq]
  exact foldl_pickStep _ (fun va hva => List.mem_eraseDups.1 hva) (s, []) (by simp)

/-- A piece that is written of a granule's cells: each address once, and cells of the granule alone. -/
def PieceOf (g w : List (Nat × Nat)) : Prop := w.map Prod.fst = (g.map Prod.fst).eraseDups ∧ ∀ c ∈ w, c ∈ g

theorem foldl_pickWrites (gs : List (List (Nat × Nat))) (r : State × List (List (Nat × Nat))) :
    ∃ n ws, List.Forall₂ PieceOf gs ws ∧
      gs.foldl (fun r g => let q := r.1.pickWrites g; (q.1, r.2 ++ [q.2])) r = (r.1.drawnTo n, r.2 ++ ws) := by
  induction gs generalizing r with
  | nil => exact ⟨r.1.sched.free, [], .nil, by simp; rfl⟩
  | cons g gs ih =>
    obtain ⟨⟨n, hst⟩, hfst, hmem⟩ := pickWrites_spec r.1 g
    obtain ⟨m, ws, hws, hfold⟩ := ih ((r.1.pickWrites g).1, r.2 ++ [(r.1.pickWrites g).2])
    refine ⟨m, (r.1.pickWrites g).2 :: ws, .cons ⟨hfst, hmem⟩ hws, ?_⟩
    rw [List.foldl_cons, hfold, hst]
    simp; rfl

/-- The cells a packet writes. -/
def Packet.destCells (p : Packet) : List (Nat × Nat) := (runCells p.len0 (p.runs.map Prod.snd)).flatten

theorem writePieces_spec (s : State) (p : Packet) :
    (∃ n, (s.writePieces p).1 = s.drawnTo n) ∧ List.Forall₂ PieceOf (granulesOf p.destCells) (s.writePieces p).2 := by
  obtain ⟨n, ws, hws, hfold⟩ := foldl_pickWrites (granulesOf p.destCells) (s, [])
  have heq : s.writePieces p = (s.drawnTo n, ws) := hfold
  rw [heq]
  exact ⟨⟨n, rfl⟩, hws⟩

/-- The addresses of the pieces do not depend on the free choice. -/
theorem writePieces_addrs (s : State) (p : Packet) :
    (s.writePieces p).2.map (List.map Prod.fst) = (granulesOf p.destCells).map fun g => (g.map Prod.fst).eraseDups := by
  refine List.Forall₂.rec (by rfl) (fun h _ ih => ?_) (writePieces_spec s p).2
  simp only [List.map_cons, ih, h.1]

theorem mem_destCells {p : Packet} {c : Nat × Nat} :
    c ∈ p.destCells ↔ ∃ (r : Nat) (b : Int × Int) (o : Nat), p.runs[r]? = some b ∧ o < p.len0 ∧ c = ((b.2 + Int.ofNat o).toNat, r * p.len0 + o) := by
  simp only [Packet.destCells, runCells, List.mem_flatten, List.mem_map, Prod.exists, List.mk_mem_zipIdx_iff_getElem?, List.getElem?_map,
    Option.map_eq_some_iff]
  constructor
  · rintro ⟨_, ⟨_, r, ⟨a, b, hb, rfl⟩, rfl⟩, hc⟩
    obtain ⟨o, ho, rfl⟩ := List.mem_map.1 hc
    exact ⟨r, a, b, o, hb, List.mem_range.1 ho, rfl⟩
  · rintro ⟨r, a, b, o, hb, ho, rfl⟩
    exact ⟨_, ⟨b, r, ⟨a, b, hb, rfl⟩, rfl⟩, List.mem_map.2 ⟨o, List.mem_range.2 ho, rfl⟩⟩

theorem mem_granulesOf {l g : List (Nat × Nat)} : g ∈ granulesOf l ↔ ∃ c ∈ l, g = l.filter fun d => d.1 / 64 == c.1 / 64 := by
  simp only [granulesOf, List.mem_map, List.mem_eraseDups]
  constructor
  · rintro ⟨_, ⟨c, hc, rfl⟩, rfl⟩
    exact ⟨c, hc, rfl⟩
  · rintro ⟨c, hc, rfl⟩
    exact ⟨_, ⟨c, hc, rfl⟩, rfl⟩

theorem granulesOf_pairwise (l : List (Nat × Nat)) :
    (granulesOf l).Pairwise fun g g' => ∀ c ∈ g, ∀ c' ∈ g', c.1 / 64 ≠ c'.1 / 64 := by
  refine List.pairwise_map.2 ((nodup_eraseDups _).imp fun hne c hc c' hc' heq => hne ?_)
  simp only [List.mem_filter, beq_iff_eq] at hc hc'
  exact hc.2.symm.trans (heq.trans hc'.2)

/-- What R334 and R335 say of the pieces that a copy writes. -/
theorem writePieces_pieces (s : State) (p : Packet) :
    let w := (s.writePieces p).2
    (w.flatten.map Prod.fst).Nodup ∧ (∀ g ∈ w, ∃ n, ∀ c ∈ g, c.1 / 64 = n) ∧
      w.Pairwise (fun g g' => ∀ c ∈ g, ∀ c' ∈ g', c.1 / 64 ≠ c'.1 / 64) ∧
      (∀ c ∈ w.flatten, ∃ r : Nat, ∃ b : Int × Int, ∃ o : Nat, p.runs[r]? = some b ∧ o < p.len0 ∧ c.1 = (b.2 + Int.ofNat o).toNat ∧ c.2 = r * p.len0 + o) ∧
      ∀ (r : Nat) (b : Int × Int) (o : Nat), p.runs[r]? = some b → o < p.len0 → ∃ i, ((b.2 + Int.ofNat o).toNat, i) ∈ w.flatten := by
  intro w
  have hspec : List.Forall₂ PieceOf (granulesOf p.destCells) w := (writePieces_spec s p).2
  have haddrs : w.map (List.map Prod.fst) = (granulesOf p.destCells).map fun g => (g.map Prod.fst).eraseDups := writePieces_addrs s p
  have hof {g} (hg : g ∈ w) : ∃ g' ∈ granulesOf p.destCells, PieceOf g' g := by
    obtain ⟨i, hi, rfl⟩ := List.getElem_of_mem hg
    exact ⟨_, List.getElem_mem (hspec.length_eq ▸ hi), hspec.get _ _⟩
  have hpair : w.Pairwise fun g g' => ∀ c ∈ g, ∀ c' ∈ g', c.1 / 64 ≠ c'.1 / 64 := by
    have h : (w.map (List.map Prod.fst)).Pairwise fun a a' => ∀ x ∈ a, ∀ y ∈ a', x / 64 ≠ y / 64 := by
      rw [haddrs]
      refine List.pairwise_map.2 ((granulesOf_pairwise _).imp fun h x hx y hy => ?_)
      obtain ⟨c, hc, rfl⟩ := List.mem_map.1 (List.mem_eraseDups.1 hx)
      obtain ⟨c', hc', rfl⟩ := List.mem_map.1 (List.mem_eraseDups.1 hy)
      exact h c hc c' hc'
    refine (List.pairwise_map.1 h).imp fun h c hc c' hc' => ?_
    exact h _ (List.mem_map_of_mem hc) _ (List.mem_map_of_mem hc')
  refine ⟨?_, fun g hg => ?_, hpair, fun c hc => ?_, fun r b o hb ho => ?_⟩
  · rw [List.map_flatten, List.nodup_flatten]
    refine ⟨fun a ha => ?_, List.pairwise_map.2 (hpair.imp fun h x hx y => ?_)⟩
    · rw [haddrs] at ha
      obtain ⟨g, -, rfl⟩ := List.mem_map.1 ha
      exact nodup_eraseDups _
    · obtain ⟨c, hc, rfl⟩ := List.mem_map.1 hx
      obtain ⟨c', hc', heq⟩ := List.mem_map.1 y
      exact h c hc c' hc' (by rw [heq])
  · obtain ⟨g', hg', hp⟩ := hof hg
    obtain ⟨c0, -, rfl⟩ := mem_granulesOf.1 hg'
    exact ⟨c0.1 / 64, fun c hc => by simpa using (List.mem_filter.1 (hp.2 c hc)).2⟩
  · obtain ⟨g, hg, hcg⟩ := List.mem_flatten.1 hc
    obtain ⟨g', hg', hp⟩ := hof hg
    obtain ⟨c0, -, rfl⟩ := mem_granulesOf.1 hg'
    obtain ⟨r, b, o, hb, ho, rfl⟩ := mem_destCells.1 (List.mem_filter.1 (hp.2 c hcg)).1
    exact ⟨r, b, o, hb, ho, rfl, rfl⟩
  · have hcell : ((b.2 + Int.ofNat o).toNat, r * p.len0 + o) ∈ p.destCells := mem_destCells.2 ⟨r, b, o, hb, ho, rfl⟩
    have haddr : (b.2 + Int.ofNat o).toNat ∈ (w.map (List.map Prod.fst)).flatten := by
      rw [haddrs]
      refine List.mem_flatten.2 ⟨_, List.mem_map_of_mem (mem_granulesOf.2 ⟨_, hcell, rfl⟩), List.mem_eraseDups.2 ?_⟩
      exact List.mem_map.2 ⟨_, List.mem_filter.2 ⟨hcell, by simp⟩, rfl⟩
    rw [← List.map_flatten] at haddr
    obtain ⟨⟨_, i⟩, hi, rfl⟩ := List.mem_map.1 haddr
    exact ⟨i, hi⟩

end Sys2Proof.Machine

namespace Sys2Proof.Machine

/-! ### A copy's start (R324, R334, R339) -/

/-- Accesses are added under the next serials: each stands in the table under its own, and none before is changed. -/
theorem foldl_addAccess (mk : List (Nat × Nat) → Access) (l : List (List (Nat × Nat))) (s : State) :
    let t := l.foldl (fun s c => s.addAccess (mk c)) s
    t.copies = s.copies ∧ t.net = s.net ∧ t.pe = s.pe ∧ s.sched.serial ≤ t.sched.serial ∧
      (∀ m < s.sched.serial, t.mem.accesses.get? m = s.mem.accesses.get? m) ∧
      ∀ g ∈ l, ∃ m < t.sched.serial, t.mem.accesses.get? m = some (mk g) := by
  induction l generalizing s with
  | nil => exact ⟨rfl, rfl, rfl, le_rfl, fun _ _ => rfl, by simp⟩
  | cons c l ih =>
    obtain ⟨hcopies, hnet, hpe, hserial, hkeep, hnew⟩ := ih (s.addAccess (mk c))
    refine ⟨hcopies, hnet, hpe, by simp at hserial ⊢; omega, fun m hm => ?_, fun g hg => ?_⟩
    · rw [List.foldl_cons, hkeep m (by simp; omega), addAccess_mem_accesses, Tab.get?_put_ne (by omega)]
    · rcases List.mem_cons.1 hg with rfl | hg
      · refine ⟨s.sched.serial, by simp at hserial ⊢; omega, ?_⟩
        rw [List.foldl_cons, hkeep _ (by simp), addAccess_mem_accesses, Tab.get?_put_same]
      · exact hnew g hg

section
variable {s : State} {n : Nat} {k : Copy}

theorem mayStart_of (hp : k.phase = .accepted) (hl : s.copyLive k = true)
    (hw : ∀ p ∈ s.copies, p.1 < n → k.packet.wait = true → p.2.samePoster k = false)
    (ho : ∀ p ∈ s.copies, p.1 < n → k.packet.wait = false → p.2.src.pe = k.src.pe → p.2.phase = .accepted → p.2.packet.wait = false →
      s.copyLive p.2 = false) : s.mayStart n k = true := by
  have hnone : ∀ p ∈ s.copies, ¬ (decide (p.1 < n) && (if k.packet.wait then p.2.samePoster k
      else p.2.src.pe == k.src.pe && p.2.phase == .accepted && !p.2.packet.wait && s.copyLive p.2)) = true := by
    intro p hmem hbefore
    rw [Bool.and_eq_true, decide_eq_true_eq] at hbefore
    obtain ⟨hlt, hbefore⟩ := hbefore
    cases hwait : k.packet.wait with
    | true => simp [hwait, hw p hmem hlt hwait] at hbefore
    | false =>
      simp only [hwait, Bool.false_eq_true, if_false, Bool.and_eq_true, beq_iff_eq, Bool.not_eq_true'] at hbefore
      obtain ⟨⟨⟨hpe, hacc⟩, hnw⟩, hlive⟩ := hbefore
      simp [ho p hmem hlt hwait hpe hacc hnw] at hlive
  simp only [State.mayStart, hp, hl, beq_self_eq_true, Bool.true_and, Bool.not_eq_true', List.any_eq_false]
  exact hnone

/-- A copy with Wait is held by an earlier one of its poster. -/
theorem mayStart_waits {m : Nat} {q : Copy} (hlt : m < n) (hq : s.copies.get? m = some q) (hwait : k.packet.wait = true) (hqueue : q.queue = k.queue)
    (hposter : q.poster = k.poster) : s.mayStart n k = false := by
  have hany : (s.copies.any fun p => decide (p.1 < n) && (if k.packet.wait then p.2.samePoster k
      else p.2.src.pe == k.src.pe && p.2.phase == .accepted && !p.2.packet.wait && s.copyLive p.2)) = true :=
    Tab.any_of_get? hq (by simp [hlt, hwait, Copy.samePoster, hqueue, hposter])
  simp only [State.mayStart, hany, Bool.not_true, Bool.and_false]

/-- The state in which a copy runs and its reads are issued. -/
def startReads (s : State) (n : Nat) (k : Copy) : State :=
  k.packet.readPieces.foldl (fun s c => s.addAccess (k.access false (.copyRead n) c))
    { s with copies := s.copies.put n { k with phase := .running, buf := List.replicate k.packet.bytes 0 } }

theorem exec_copyStart_route (hk : s.copies.get? n = some k) (hstart : s.mayStart n k = true) {r : RingRoute} (hr : k.route = some r) :
    exec (.copyStart n) s = .next ((startReads s n k).tellHead r.pe r.ring n k) := by
  show event "COPY_START" (copyStartEvent n s) = _
  simp only [copyStartEvent, startReads, hk, hstart, hr, Bool.not_true, Bool.false_eq_true, if_false, event]

theorem exec_copyStart_write (hk : s.copies.get? n = some k) (hstart : s.mayStart n k = true) (hr : k.route = none) :
    exec (.copyStart n) s = .next (((startReads s n k).writePieces k.packet).2.foldl (fun s c => s.addAccess (k.access true (.copyWrite n) c))
      ((startReads s n k).writePieces k.packet).1) := by
  show event "COPY_START" (copyStartEvent n s) = _
  simp only [copyStartEvent, startReads, hk, hstart, hr, Bool.not_true, Bool.false_eq_true, if_false, event]

theorem exec_copyStart_held (hk : s.copies.get? n = some k) (hstart : s.mayStart n k = false) :
    exec (.copyStart n) s = .fault (.notEnabled "COPY_START") := by
  show event "COPY_START" (copyStartEvent n s) = _
  simp only [copyStartEvent, hk, hstart, Bool.not_false, if_true, event]

theorem startReads_spec (s : State) (n : Nat) (k : Copy) :
    (startReads s n k).copies.get? n = some { k with phase := .running, buf := List.replicate k.packet.bytes 0 } ∧ (startReads s n k).pe = s.pe ∧
      ∀ g ∈ k.packet.readPieces, ∃ m < (startReads s n k).sched.serial,
        (startReads s n k).mem.accesses.get? m = some (k.access false (.copyRead n) g) := by
  obtain ⟨hcopies, -, hpe, -, -, hnew⟩ := foldl_addAccess (k.access false (.copyRead n)) k.packet.readPieces
    { s with copies := s.copies.put n { k with phase := .running, buf := List.replicate k.packet.bytes 0 } }
  refine ⟨?_, hpe, hnew⟩
  unfold startReads
  rw [hcopies, Tab.get?_put_same]

/-- R324, R334: a copy that may start runs, its reads and its writes, or its ring's head, are asked for. -/
theorem exec_copyStart (hk : s.copies.get? n = some k) (hstart : s.mayStart n k = true) :
    ∃ t c, exec (.copyStart n) s = .next t ∧ t.copies.get? n = some c ∧ c.phase = .running ∧ c.packet = k.packet ∧
      (∀ g ∈ k.packet.readPieces, ∃ m x, t.mem.accesses.get? m = some x ∧ x.purpose = .copyRead n ∧ x.cells = g ∧ x.write = false ∧ x.src = k.src) ∧
      (k.route = none → ∀ g ∈ (s.writePieces k.packet).2,
        ∃ m x, t.mem.accesses.get? m = some x ∧ x.purpose = .copyWrite n ∧ x.write = true ∧ x.src = k.src ∧ x.cells.map Prod.fst = g.map Prod.fst) ∧
      ∀ r, k.route = some r → ∃ m e d, t.net.get? m = some e ∧ e.body = .headUpdate n (s.ring r.pe r.ring).head d := by
  obtain ⟨hcopy, hpe, hreads⟩ := startReads_spec s n k
  cases hr : k.route with
  | some r =>
    refine ⟨_, _, exec_copyStart_route hk hstart hr, hcopy, rfl, rfl, fun g hg => ?_, nofun, fun r' hr' => ?_⟩
    · obtain ⟨m, -, hm⟩ := hreads g hg
      exact ⟨m, _, hm, rfl, rfl, rfl, rfl⟩
    · cases hr'
      have hring : (startReads s n k).ring r.pe r.ring = s.ring r.pe r.ring := by rw [State.ring, hpe, State.ring]
      exact ⟨(startReads s n k).sched.serial, _, _, Tab.get?_put_same _ _ (startReads s n k).net,
        congrArg (fun q : Ring => Msg.headUpdate n q.head (if q.bound.isSome then q.depth else 2 ^ 32)) hring⟩
  | none =>
    obtain ⟨j, hdrawn⟩ := (writePieces_spec (startReads s n k) k.packet).1
    obtain ⟨hcopies, -, -, -, hkeep, hnew⟩ := foldl_addAccess (k.access true (.copyWrite n)) ((startReads s n k).writePieces k.packet).2
      ((startReads s n k).writePieces k.packet).1
    refine ⟨_, { k with phase := .running, buf := List.replicate k.packet.bytes 0 }, exec_copyStart_write hk hstart hr, ?_, rfl, rfl, fun g hg => ?_, fun _ g hg => ?_, nofun⟩
    · rw [hcopies, hdrawn]
      exact hcopy
    · obtain ⟨m, hlt, hm⟩ := hreads g hg
      refine ⟨m, k.access false (.copyRead n) g, ?_, rfl, rfl, rfl, rfl⟩
      rw [hkeep m (by rw [hdrawn]; exact hlt), hdrawn]
      exact hm
    · have haddr : g.map Prod.fst ∈ ((startReads s n k).writePieces k.packet).2.map (List.map Prod.fst) := by
        rw [writePieces_addrs, ← writePieces_addrs s]
        exact List.mem_map_of_mem hg
      obtain ⟨g', hg', heq⟩ := List.mem_map.1 haddr
      obtain ⟨m, -, hm⟩ := hnew g' hg'
      exact ⟨m, _, hm, rfl, rfl, rfl, heq⟩

end

/-! ### A copy's end (R332, R333) -/

section
variable {s : State} {n : Nat} {k : Copy}

theorem exec_copyComplete_done (hk : s.copies.get? n = some k) (hrun : k.phase = .running) (hbusy : s.copyBusy n = false) (hout : s.packetsOut n = false)
    (hend : k.aborted = true ∨ k.route = none ∨ k.packet.bytes ≤ 64 * k.beat) (hsig : k.aborted = true ∨ k.packet.signal = 0) :
    exec (.copyComplete n) s = .next (s.finishCopy n k) := by
  have hleft : (!k.aborted && k.route.isSome && decide (64 * k.beat < k.packet.bytes)) = false := by
    rcases hend with h | h | h <;> simp [h]
  have hnosig : (k.aborted || k.packet.signal == 0) = true := by simpa using hsig
  show event "COPY_COMPLETE" (copyCompleteEvent n s) = _
  simp only [copyCompleteEvent, hk, hrun, hbusy, hout, hleft, hnosig, Bool.or_false, Bool.false_eq_true, if_false, if_true, event]

theorem exec_copyComplete_signal (hk : s.copies.get? n = some k) (hrun : k.phase = .running) (hbusy : s.copyBusy n = false)
    (hout : s.packetsOut n = false) (hend : k.aborted = true ∨ k.route = none ∨ k.packet.bytes ≤ 64 * k.beat) (hab : k.aborted = false)
    (hsig : k.packet.signal ≠ 0) : exec (.copyComplete n) s = event "COPY_COMPLETE" (s.signalCopy n k) := by
  have hleft : (k.route.isSome && decide (64 * k.beat < k.packet.bytes)) = false := by
    rcases hend with h | h | h
    · simp [h] at hab
    · simp [h]
    · simp [h]
  have hsig' : (k.packet.signal == 0) = false := beq_false_of_ne hsig
  show event "COPY_COMPLETE" (copyCompleteEvent n s) = _
  simp only [copyCompleteEvent, hk, hrun, hbusy, hout, hleft, hab, hsig', Bool.or_false, Bool.not_false, Bool.true_and, Bool.false_eq_true, if_false]

theorem finishCopy_number {m : Nat} (htlc : k.tlc = some m) (hqueue : k.queue = none) :
    s.finishCopy n k = (State.completeNumber { s with copies := s.copies.del n } k.src.ctx k.src.pe .tlc m).servePe k.src.pe := by
  simp only [State.finishCopy, htlc, hqueue]

theorem finishCopy_queue {qi : Nat} {q : CopyQueue} (htlc : k.tlc = none) (hqueue : k.queue = some qi) (hq : s.dev.queues.get? qi = some q) :
    s.finishCopy n k = ((State.countCompleted { s with copies := s.copies.del n } q).dropQueue qi).servePe k.src.pe := by
  simp only [State.finishCopy, htlc, hqueue, hq]

/-- R333: the Signal add goes to its engine. -/
theorem signalCopy_request {pa quad : Nat} {attr refused} (hr : reachable k.packet.signal 8)
    (hpa : s.check1 k.src.ctx [k.src.pe, 2048 + k.src.pe / 256] .atomic k.packet.signal = .ok pa attr refused) (hquad : homeQuad pa = some quad) :
    ∃ t c m r, s.signalCopy n k = some t ∧ t.copies.get? n = some c ∧ c.phase = .signalling ∧ t.sync.reqs.get? m = some r ∧ r.pa = pa ∧
      r.size = 8 ∧ r.op = .add ∧ r.b = 1 ∧ r.purpose = .signal n := by
  have hspan : canonicalSpan k.packet.signal 8 = true := (canonicalSpan_iff (by omega)).2 hr
  have hcheck : s.check1 k.src.ctx [k.src.pe, 2048 + dieOfPe k.src.pe] .atomic k.packet.signal = .ok pa attr refused := hpa
  simp only [State.signalCopy, hspan, hcheck, hquad, Bool.not_true, Bool.false_eq_true, if_false]
  exact ⟨_, _, _, _, rfl, Tab.get?_put_same .., rfl, Tab.get?_put_same .., rfl, rfl, rfl, rfl, rfl⟩

end

end Sys2Proof.Machine

namespace Sys2Proof.Machine

/-! ### The beats of a copy into a ring (R339, R344) -/

/-- The entry that a beat belongs to (R344). -/
def RingRoute.seqOf (r : RingRoute) (b : Nat) : Nat := (r.first + b / (4 * 2 ^ r.width)) % 2 ^ 32

/-- The ring has room for the entry of a beat (R339). -/
def RingRoute.fits (r : RingRoute) (head depth b : Nat) : Prop := (r.seqOf b + 2 ^ 32 - head % 2 ^ 32) % 2 ^ 32 < depth

/-- A digit below the part that is added is the low part's. -/
theorem digit_add_mul {a : Nat} (ha : 0 < a) (c v m : Nat) : (v + m * (a * a)) % (a * (a * c)) / a % a = v / a % a := by
  rw [Nat.mod_mul_right_div_self, Nat.mod_mul_right_mod, ← Nat.mul_assoc, Nat.add_mul_div_right _ _ ha, Nat.add_mul_mod_self_right]

theorem rawField_withParity (v hi : Nat) : rawField (withParity v hi) 32 32 = v / 2 ^ 32 % 2 ^ 32 := by
  have hsplit : v + hi * 2 ^ 64 + (if oddOnes 64 v then 2 ^ 126 else 0) + (if oddOnes 62 hi then 2 ^ 127 else 0) =
      v + (hi + (if oddOnes 64 v then 2 ^ 62 else 0) + (if oddOnes 62 hi then 2 ^ 63 else 0)) * (2 ^ 32 * 2 ^ 32) := by
    simp only [Nat.add_mul, ite_mul, Nat.zero_mul, ← Nat.pow_add, ← Nat.add_assoc]
  have hwidth : 2 ^ 128 = 2 ^ 32 * (2 ^ 32 * 2 ^ 64) := by rw [← Nat.pow_add, ← Nat.pow_add]
  rw [rawField, withParity, bitsAt, BitVec.toNat_ofNat, hsplit, hwidth]
  exact digit_add_mul (Nat.two_pow_pos 32) ..

/-- The token of a beat names its entry (R198). -/
theorem token_seq {r : RingRoute} (hrows : r.rows < 16) (hcols : r.cols < 16) (hwidth : r.width < 3) (slot b : Nat) :
    rawField (r.token slot b) 32 32 = r.seqOf b := by
  have hbeats : beatsOf r.width ≤ 16 ∧ 0 < beatsOf r.width := by
    unfold beatsOf
    interval_cases r.width <;> decide
  have hseq : r.seqOf b < 2 ^ 32 := Nat.mod_lt _ (by omega)
  have hbeat : b % beatsOf r.width < 16 := lt_of_lt_of_le (Nat.mod_lt _ hbeats.2) hbeats.1
  have hval : rawField (r.token slot b) 32 32 =
      (wordOf (r.seqOf b * 2 ^ 32 + r.rows * 2 ^ 28 + r.cols * 2 ^ 24 + b % beatsOf r.width * 2 ^ 6)).toNat / 2 ^ 32 % 2 ^ 32 := by
    simp only [RingRoute.token, tokenRaw, rawField_withParity, reduceCtorEq, if_false]
    rfl
  rw [hval, wordOf, BitVec.toNat_ofNat]
  omega

/-- What sending up to `fuel` beats comes to: it ends at a beat that has no bytes, no room, or whose bytes are still read, or the fuel is used; each beat
before has its packet. -/
theorem pump_spec {c head depth : Nat} {r : RingRoute} (hrows : r.rows < 16) (hcols : r.cols < 16) (hwidth : r.width < 3) (fuel : Nat) (u : State)
    (k : Copy) (hk : u.copies.get? c = some k) (hr : k.route = some r) (hh : k.head = some (head, depth)) (ha : k.aborted = false) :
    ∃ j, k.beat ≤ j ∧ (u.pump c fuel).copies.get? c = some { k with beat := j } ∧ (u.pump c fuel).mem = u.mem ∧
      u.sched.serial ≤ (u.pump c fuel).sched.serial ∧ (∀ m < u.sched.serial, (u.pump c fuel).net.get? m = u.net.get? m) ∧
      (k.packet.bytes ≤ 64 * j ∨ ¬ r.fits head depth j ∨ u.copyReading c (fun i => i / 64 == j) = true ∨ j = k.beat + fuel) ∧
      ∀ b, k.beat ≤ b → b < j → r.fits head depth b ∧ ∃ m g raw, (u.pump c fuel).net.get? m = some g ∧ g.dst = .pe r.pe ∧
        g.body = .packet raw ((k.buf.drop (64 * b)).take 64) c ∧ rawField raw 32 32 = r.seqOf b := by
  induction fuel generalizing u k with
  | zero => exact ⟨k.beat, le_rfl, hk, rfl, le_rfl, fun _ _ => rfl, .inr (.inr (.inr rfl)), fun b h1 h2 => by omega⟩
  | succ fuel ih =>
    by_cases hstop : (k.aborted || decide (k.packet.bytes ≤ 64 * k.beat) ||
        decide (depth ≤ ((r.first + k.beat / beatsOf r.width) % 2 ^ 32 + 2 ^ 32 - head % 2 ^ 32) % 2 ^ 32) ||
        u.copyReading c (fun i => i / 64 == k.beat)) = true
    · have hpump : u.pump c (fuel + 1) = u := by
        unfold State.pump
        simp only [hk, hr, hh, hstop, if_true]
      rw [hpump]
      refine ⟨k.beat, le_rfl, hk, rfl, le_rfl, fun _ _ => rfl, ?_, fun b h1 h2 => by omega⟩
      simp only [ha, Bool.false_or, Bool.or_eq_true, decide_eq_true_eq] at hstop
      rcases hstop with (h | h) | h
      · exact .inl h
      · exact .inr (.inl (not_lt.2 h))
      · exact .inr (.inr (.inl h))
    · have hpump : u.pump c (fuel + 1) = State.pump (State.post { u with copies := u.copies.put c { k with beat := k.beat + 1 } } (.pe k.src.pe)
          (.pe r.pe) 6 (.packet (r.token (u.slotOf k.src.ctx) k.beat) ((k.buf.drop (64 * k.beat)).take 64) c)) c fuel := by
        conv => lhs; unfold State.pump
        simp only [hk, hr, hh, hstop, Bool.false_eq_true, if_false]
      obtain ⟨j, hj, hcopy, hmem, hserial, hkeep, hend, hsent⟩ := ih (State.post { u with copies := u.copies.put c { k with beat := k.beat + 1 } }
        (.pe k.src.pe) (.pe r.pe) 6 (.packet (r.token (u.slotOf k.src.ctx) k.beat) ((k.buf.drop (64 * k.beat)).take 64) c))
        { k with beat := k.beat + 1 } (Tab.get?_put_same ..) hr hh ha
      rw [← hpump] at hcopy hmem hserial hkeep hsent
      have hroom : r.fits head depth k.beat := by
        simp only [ha, Bool.false_or, Bool.or_eq_true, decide_eq_true_eq, not_or] at hstop
        exact not_le.1 hstop.1.2
      refine ⟨j, Nat.le_of_succ_le hj, hcopy, hmem, ?_, fun m hm => ?_, ?_, fun b hb hlt => ?_⟩
      · exact le_trans (Nat.le_succ _) hserial
      · rw [hkeep m (Nat.lt_succ_of_lt hm)]
        exact Tab.get?_put_ne (Nat.ne_of_lt hm) ..
      · refine hend.imp_right (Or.imp_right (Or.imp_right fun h => ?_))
        exact h.trans (Nat.add_right_comm ..)
      · rcases Nat.eq_or_lt_of_le hb with rfl | hb
        · refine ⟨hroom, u.sched.serial, _, _, (hkeep _ (Nat.lt_succ_self _)).trans (Tab.get?_put_same ..), rfl, rfl, token_seq hrows hcols hwidth ..⟩
        · exact hsent b hb hlt

/-- R339: a head update sends the beats that can go. -/
theorem exec_ringHeadUpdate {s : State} {n c head depth : Nat} {e : Env} {k : Copy} {r : RingRoute} (he : s.msg? n = some e) (hfirst : s.first n e = true)
    (hbody : e.body = .headUpdate c head depth) (hk : s.copies.get? c = some k) (hr : k.route = some r) (ha : k.aborted = false) (hrows : r.rows < 16)
    (hcols : r.cols < 16) (hwidth : r.width < 3) :
    ∃ t j, exec (.ringHeadUpdate n) s = .next t ∧ t.copies.get? c = some j ∧ j.head = some (head, depth) ∧ k.beat ≤ j.beat ∧
      (k.packet.bytes ≤ 64 * j.beat ∨ depth ≤ (r.seqOf j.beat + 2 ^ 32 - head % 2 ^ 32) % 2 ^ 32 ∨
        t.copyReading c (fun i => i / 64 == j.beat) = true) ∧
      ∀ b, k.beat ≤ b → b < j.beat → (r.seqOf b + 2 ^ 32 - head % 2 ^ 32) % 2 ^ 32 < depth ∧
        ∃ m g raw, t.net.get? m = some g ∧ g.dst = .pe r.pe ∧ g.body = .packet raw ((k.buf.drop (64 * b)).take 64) c ∧ rawField raw 32 32 = r.seqOf b := by
  have hk' : (s.taken n).copies.get? c = some k := hk
  have hput : Tab.get? c ((s.taken n).copies.put c { k with head := some (head, depth) }) = some { k with head := some (head, depth) } :=
    Tab.get?_put_same ..
  have hexec : exec (.ringHeadUpdate n) s = .next (State.pump { s.taken n with copies := (s.taken n).copies.put c { k with head := some (head, depth) } } c
      (k.packet.bytes / 64 + 1)) := by
    show event "RING_HEAD_UPDATE" (headUpdateEvent n s) = _
    simp only [headUpdateEvent, he, hfirst, hbody, hk', State.pumpAll, hput, Bool.not_true, Bool.false_eq_true, if_false, event]
  obtain ⟨j, hj, hcopy, hmem, -, -, hend, hsent⟩ := pump_spec (head := head) (depth := depth) hrows hcols hwidth (k.packet.bytes / 64 + 1)
    { s.taken n with copies := (s.taken n).copies.put c { k with head := some (head, depth) } } _ hput hr rfl ha
  refine ⟨_, _, hexec, hcopy, rfl, hj, ?_, hsent⟩
  rcases hend with h | h | h | h
  · exact .inl h
  · exact .inr (.inl (not_lt.1 h))
  · refine .inr (.inr ?_)
    rw [State.copyReading, hmem]
    exact h
  · refine .inl ?_
    simp only at h ⊢
    omega

end Sys2Proof.Machine

namespace Sys2Proof.Machine

/-! ### A doorbell (R337) -/

/-- From one state to the other queues stay, and a copy stays until its number is used. -/
def KeepsCopies (s t : State) : Prop :=
  t.dev.queues = s.dev.queues ∧ s.sched.serial ≤ t.sched.serial ∧ ∀ m < s.sched.serial, t.copies.get? m = s.copies.get? m

theorem KeepsCopies.refl (s : State) : KeepsCopies s s := ⟨rfl, le_rfl, fun _ _ => rfl⟩

theorem KeepsCopies.trans {s t u : State} (h : KeepsCopies s t) (g : KeepsCopies t u) : KeepsCopies s u :=
  ⟨g.1.trans h.1, h.2.1.trans g.2.1, fun m hm => (g.2.2 m (hm.trans_le h.2.1)).trans (h.2.2 m hm)⟩

theorem State.sameButBytes.keepsCopies {s t : State} (h : s.sameButBytes t) : KeepsCopies s t := by
  unfold State.sameButBytes at h
  rw [h]
  exact .refl s

theorem takeGroup_only (s : State) (q : CopyQueue) (k m : Nat) : s.sameButBytes (s.takeGroup q k m) :=
  (foldl_only _ (fun _ _ => writeByte_only _ _ _) _ s).trans (write64_only _ _ _)

theorem countCompleted_only (s : State) (q : CopyQueue) : s.sameButBytes (s.countCompleted q) := write64_only _ _ _

theorem queueError_only (s : State) (qi slot code : Nat) : s.sameButBytes (s.queueError qi slot code) := by
  unfold State.queueError
  split
  · exact .refl s
  · exact iteInduction (fun _ => writeBytes_only _ _ _) fun _ => (writeBytes_only _ _ _).trans (write64_only _ _ _)

theorem acceptCopy_keepsCopies (s : State) (k : Copy) : KeepsCopies s (s.acceptCopy k) :=
  ⟨rfl, Nat.le_succ _, fun _ hm => Tab.get?_put_ne (Nat.ne_of_lt hm) ..⟩

theorem acceptCopy_get (s : State) (k : Copy) : (s.acceptCopy k).copies.get? s.sched.serial = some k := Tab.get?_put_same ..

theorem serveTurn_keepsCopies {qi : Nat} {go : State → State} (hgo : ∀ t, KeepsCopies t (go t)) (s : State) : KeepsCopies s (serveTurn s qi go) := by
  have hbad (q : CopyQueue) (k m code : Nat) : KeepsCopies s (go (((s.takeGroup q k m).queueError qi k code).countCompleted q)) :=
    (((takeGroup_only s q k m).trans (queueError_only _ _ _ _)).trans (countCompleted_only _ q)).keepsCopies.trans (hgo _)
  unfold serveTurn
  split
  · exact .refl s
  · refine iteInduction (fun _ => .refl s) fun _ => iteInduction (fun _ => hbad ..) fun _ => ?_
    split
    · exact hbad ..
    · refine .trans ?_ (hgo _)
      exact iteInduction (fun _ => ((takeGroup_only s _ _ _).trans (countCompleted_only _ _)).keepsCopies) fun _ =>
        (takeGroup_only s _ _ _).keepsCopies.trans (acceptCopy_keepsCopies ..)

theorem serveQueue_keepsCopies (qi fuel : Nat) (s : State) : KeepsCopies s (s.serveQueue qi fuel) := by
  induction fuel generalizing s with
  | zero => exact .refl s
  | succ fuel ih =>
    rw [serveQueue_succ]
    exact serveTurn_keepsCopies ih s

section
variable {s : State} {qi : Nat} {q : CopyQueue} {p : Packet}

theorem slotBytes_one (s : State) (q : CopyQueue) (k : Nat) : s.slotBytes q k 1 = s.readBytes (q.slotPa k) 64 := by
  simp [State.slotBytes, List.range_one]

theorem slotsPoisoned_one (s : State) (q : CopyQueue) (k : Nat) : s.slotsPoisoned q k 1 = s.poisoned (q.slotPa k) := by
  simp [State.slotsPoisoned, List.range_one]

theorem groupExt_single {b : List Byte} (hvalid : fieldAt b 63 1 = 1) (hext : fieldAt b 62 1 = 0) : groupExt b = some 0 := by
  simp [groupExt, hvalid, hext]

theorem idle_eq_false (h : ¬ ((p.len0 = 0 ∨ ∃ d ∈ p.dims, d.1 = 0) ∧ p.signal = 0)) : p.idle = false := by
  rw [← Bool.not_eq_true]
  refine fun hidle => h ?_
  simpa only [Packet.idle, Packet.empty, Bool.and_eq_true, Bool.or_eq_true, List.any_eq_true, beq_iff_eq] using hidle

/-- A turn over a sound group of one packet accepts its copy. -/
theorem serveTurn_accepts {go : State → State} (hq : s.dev.queues.get? qi = some q) (hvalid : q.valid = true) (hlive : s.issuing q.ctx = true)
    (hdoor : s.read64 (q.headerPa + 8) < q.door) (hset : fieldAt (s.readBytes (q.slotPa (s.read64 (q.headerPa + 8))) 64) 63 1 = 1)
    (hext : fieldAt (s.readBytes (q.slotPa (s.read64 (q.headerPa + 8))) 64) 62 1 = 0)
    (hpoison : s.poisoned (q.slotPa (s.read64 (q.headerPa + 8))) = false) (hroom : s.copiesOn q.pe < 512)
    (hp : packetOf (s.readBytes (q.slotPa (s.read64 (q.headerPa + 8))) 64) = some p) (hidle : p.idle = false) :
    ∃ src : Src, src.ctx = q.ctx ∧ src.pe = q.pe ∧
      serveTurn s qi go = go ((s.takeGroup q (s.read64 (q.headerPa + 8)) 1).acceptCopy
        (Copy.new src 0 (some qi) (s.read64 (q.headerPa + 8)) p none none)) := by
  have hgo : (!q.valid || !s.issuing q.ctx || decide (q.door ≤ s.read64 (q.headerPa + 8)) ||
      fieldAt (s.readBytes (q.slotPa (s.read64 (q.headerPa + 8))) 64) 63 1 == 0 || decide (Config.maxCopies ≤ s.copiesOn q.pe)) = false := by
    have hroom' : ¬ Config.maxCopies ≤ s.copiesOn q.pe := Nat.not_le.2 hroom
    rw [hvalid, hlive, hset, decide_eq_false (Nat.not_le.2 hdoor), decide_eq_false hroom']
    rfl
  refine ⟨{ Src.none with ctx := q.ctx, pe := q.pe, frame := 0xFF, block := q.slotVa (s.read64 (q.headerPa + 8)), idx := 0xFF }, rfl, rfl, ?_⟩
  unfold serveTurn
  simp only [hq, groupExt_single hset hext, Option.getD_some, Nat.add_zero, slotsPoisoned_one, slotBytes_one, hpoison, hp, hidle, Bool.false_eq_true, if_false]
  exact if_neg (Bool.not_eq_true _ ▸ hgo)

/-- R337: a queue that is served accepts the sound group that its doorbell exposes. -/
theorem serve_accepts (hq : s.dev.queues.get? qi = some q) (hvalid : q.valid = true) (hlive : s.issuing q.ctx = true)
    (hdoor : s.read64 (q.headerPa + 8) < q.door) (hset : fieldAt (s.readBytes (q.slotPa (s.read64 (q.headerPa + 8))) 64) 63 1 = 1)
    (hext : fieldAt (s.readBytes (q.slotPa (s.read64 (q.headerPa + 8))) 64) 62 1 = 0)
    (hpoison : s.poisoned (q.slotPa (s.read64 (q.headerPa + 8))) = false) (hroom : s.copiesOn q.pe < 512) (hslots : 0 < q.slots)
    (hp : packetOf (s.readBytes (q.slotPa (s.read64 (q.headerPa + 8))) 64) = some p) (hidle : p.idle = false) :
    ∃ m c, (s.serve qi).copies.get? m = some c ∧ c.packet = p ∧ c.queue = some qi ∧ c.tlc = none ∧ c.phase = .accepted ∧ c.src.ctx = q.ctx ∧
      c.src.pe = q.pe := by
  obtain ⟨fuel, hfuel⟩ := Nat.exists_eq_succ_of_ne_zero (Nat.pos_iff_ne_zero.1 hslots)
  obtain ⟨src, hctx, hpe, hturn⟩ := serveTurn_accepts (go := fun t => t.serveQueue qi fuel) hq hvalid hlive hdoor hset hext hpoison hroom hp hidle
  have hserve : s.serve qi = ((s.takeGroup q (s.read64 (q.headerPa + 8)) 1).acceptCopy
      (Copy.new src 0 (some qi) (s.read64 (q.headerPa + 8)) p none none)).serveQueue qi fuel := by
    simp only [State.serve, hq, hfuel, Nat.succ_eq_add_one, serveQueue_succ, hturn]
  have hkeep := (serveQueue_keepsCopies qi fuel ((s.takeGroup q (s.read64 (q.headerPa + 8)) 1).acceptCopy
    (Copy.new src 0 (some qi) (s.read64 (q.headerPa + 8)) p none none))).2.2
  refine ⟨(s.takeGroup q (s.read64 (q.headerPa + 8)) 1).sched.serial, Copy.new src 0 (some qi) (s.read64 (q.headerPa + 8)) p none none, ?_, rfl, rfl,
    rfl, rfl, hctx, hpe⟩
  rw [hserve, hkeep (s.takeGroup q (s.read64 (q.headerPa + 8)) 1).sched.serial (Nat.lt_succ_self _)]
  exact acceptCopy_get ..

theorem serve_queues (s : State) (qi : Nat) : (s.serve qi).dev.queues = s.dev.queues := by
  unfold State.serve
  split
  · exact (serveQueue_keepsCopies ..).1
  · rfl

/-- A state with a queue's doorbell at another value. -/
def State.withDoor (s : State) (qi : Nat) (q : CopyQueue) (door : Nat) : State :=
  { s with dev := { s.dev with queues := s.dev.queues.put qi { q with door := door } } }

theorem ringDoorbell_eq (hq : s.dev.queues.get? qi = some q) (data : List Byte) :
    s.ringDoorbell (0x03000000 + 64 * qi) data = (s.withDoor qi q (max q.door (leNat data))).serve qi := by
  have hqi : (0x03000000 + 64 * qi - 0x03000000) / 64 = qi := by omega
  have hmod : (0x03000000 + 64 * qi - 0x03000000) % 64 = 0 := by omega
  simp only [State.ringDoorbell, hqi, hmod, hq, ne_eq, not_true_eq_false, if_false, State.withDoor]

theorem exec_copyQueueDoorbell {n : Nat} {e : Env} {data : List Byte} {part : Option Nat} {acc : Option (Nat × Nat)} (he : s.msg? n = some e)
    (hfirst : s.first n e = true) (hqi : qi < 32768) (hbody : e.body = .devWrite (0x03000000 + 64 * qi) data part acc) :
    exec (.copyQueueDoorbell n) s = .next (((s.taken n).ringDoorbell (0x03000000 + 64 * qi) data).performed acc) := by
  have hlow : 0x03000000 ≤ 0x03000000 + 64 * qi := Nat.le_add_right ..
  have hhigh : 0x03000000 + 64 * qi < 0x03200000 := by omega
  show event "COPY_QUEUE_DOORBELL" (doorbellEvent n s) = _
  simp only [doorbellEvent, he, hfirst, hbody, hlow, hhigh, Bool.not_true, Bool.false_eq_true, if_false, and_self, if_true, event]

end

/-! ### A registration (R336, R470) -/

section
variable {s : State} {n off : Nat} {data : List Byte} {part : Option Nat} {acc : Option (Nat × Nat)}

theorem exec_copyQueueRegistration (h : s.devMsg n = some (off, data, part, acc)) (hk : devKind off = .registration) (hf : s.frozenBy off = none) :
    exec (.copyQueueRegistration n) s = .next (((s.taken n).registerQueue off data (part.getD 0)).performed acc) := by
  have hfrozen : (s.taken n).frozenBy off = none := hf
  show event "COPY_QUEUE_REGISTRATION" (registrationEvent n s) = _
  simp only [registrationEvent, regWrite_eq h, hk, hfrozen, writerPart, ne_eq, not_true_eq_false, if_false, Option.map_some, event]

theorem registerQueue_reserved (u : State) (data : List Byte) (p : Nat) (hoff : 11 ≤ off % 32) : u.registerQueue off data p = u := if_pos hoff

theorem registerQueue_foreign {u : State} {p : Nat} (hoff : off % 32 < 11) (hvalid : (u.devPut off data).regValid ((off - 0x02000000) / 32) = true)
    (hpart : ∀ x, u.ctx? ((u.devPut off data).devNat (0x02000000 + 32 * ((off - 0x02000000) / 32) + 8) 2) = some x → x.part ≠ p) :
    u.registerQueue off data p = u := by
  simp only [State.registerQueue, Nat.not_le.2 hoff, hvalid, if_true, if_false]
  refine if_pos ?_
  cases hx : u.ctx? ((u.devPut off data).devNat (0x02000000 + 32 * ((off - 0x02000000) / 32) + 8) 2) with
  | none => rfl
  | some x => simp [hpart x hx]

theorem registerQueue_registers {u : State} {x : Ctx} {q : CopyQueue} (hoff : off % 32 < 11)
    (hvalid : (u.devPut off data).regValid ((off - 0x02000000) / 32) = true)
    (hx : u.ctx? ((u.devPut off data).devNat (0x02000000 + 32 * ((off - 0x02000000) / 32) + 8) 2) = some x)
    (hq : (u.devPut off data).newQueue ((off - 0x02000000) / 32) ((u.devPut off data).devNat (0x02000000 + 32 * ((off - 0x02000000) / 32) + 8) 2)
      ((u.devPut off data).devNat (0x02000000 + 32 * ((off - 0x02000000) / 32)) 8) = some q) :
    u.registerQueue off data x.part = { u.devPut off data with
      dev := { (u.devPut off data).dev with queues := (u.devPut off data).dev.queues.put ((off - 0x02000000) / 32) q } } := by
  simp only [State.registerQueue, Nat.not_le.2 hoff, hvalid, hx, hq, beq_self_eq_true, Bool.not_true, Bool.false_eq_true, if_true, if_false]

theorem registerQueue_unsound {u : State} {x : Ctx} (hoff : off % 32 < 11)
    (hvalid : (u.devPut off data).regValid ((off - 0x02000000) / 32) = true)
    (hx : u.ctx? ((u.devPut off data).devNat (0x02000000 + 32 * ((off - 0x02000000) / 32) + 8) 2) = some x)
    (hq : (u.devPut off data).newQueue ((off - 0x02000000) / 32) ((u.devPut off data).devNat (0x02000000 + 32 * ((off - 0x02000000) / 32) + 8) 2)
      ((u.devPut off data).devNat (0x02000000 + 32 * ((off - 0x02000000) / 32)) 8) = none) :
    u.registerQueue off data x.part = u := by
  simp only [State.registerQueue, Nat.not_le.2 hoff, hvalid, hx, hq, beq_self_eq_true, Bool.not_true, Bool.false_eq_true, if_true, if_false]

/-- A queue that is not valid goes where no copy of it is in flight. -/
theorem dropQueue_put {u : State} {qi : Nat} {q : CopyQueue} (hvalid : q.valid = false) (hnone : ∀ p ∈ u.copies, p.2.queue ≠ some qi) :
    State.dropQueue { u with dev := { u.dev with queues := u.dev.queues.put qi q } } qi =
      { u with dev := { u.dev with queues := (u.dev.queues.put qi q).del qi } } := by
  have hany : (u.copies.any fun p => p.2.queue == some qi) = false := by
    simpa only [List.any_eq_false, beq_iff_eq] using hnone
  simp only [State.dropQueue, Tab.get?_put_same, hvalid, hany, Bool.or_self, Bool.false_eq_true, if_false]

theorem registerQueue_clear {u : State} {p : Nat} {q : CopyQueue} (hoff : off % 32 < 11)
    (hvalid : (u.devPut off data).regValid ((off - 0x02000000) / 32) = false)
    (hq : (u.devPut off data).dev.queues.get? ((off - 0x02000000) / 32) = some q)
    (hnone : ∀ p ∈ u.copies, p.2.queue ≠ some ((off - 0x02000000) / 32)) :
    u.registerQueue off data p = { u.devPut off data with dev := { (u.devPut off data).dev with
      queues := ((u.devPut off data).dev.queues.put ((off - 0x02000000) / 32) { q with valid := false }).del ((off - 0x02000000) / 32) } } := by
  simp only [State.registerQueue, Nat.not_le.2 hoff, hvalid, hq, Bool.false_eq_true, if_false]
  exact dropQueue_put rfl hnone

end

end Sys2Proof.Machine

namespace Sys2Proof

section
open Machine

/-- Settles O41: a copy's start by `exec_copyStart`, the pieces it writes by `writePieces_pieces`, its end by `exec_copyComplete_done` and
`exec_copyComplete_signal`, its beats by `pump_spec`, a doorbell by `serve_accepts`, a registration by the cases of `registerQueue`. -/
theorem copyEvents : Obligations.CopyEvents := by
  unfold Obligations.CopyEvents
  refine ⟨fun s n k hk => ⟨fun hp hl hw ho => exec_copyStart hk (mayStart_of hp hl hw ho), fun m q hlt hq hwait hqueue hposter =>
      exec_copyStart_held hk (mayStart_waits hlt hq hwait hqueue hposter)⟩,
    writePieces_pieces, fun s n k hk hrun hbusy hout hend => ⟨fun hdone => ⟨fun m htlc hqueue => ?_, fun qi q htlc hqueue hq => ?_⟩,
      fun pa attr refused quad hab hsig hreach hcheck hquad => ?_⟩,
    fun s n c head depth e k r he hfirst hbody hk hr ha hrows hcols hwidth => exec_ringHeadUpdate he hfirst hbody hk hr ha hrows hcols hwidth,
    fun s n qi e data part acc q he hfirst hqi hbody hq => ?_, fun s n off data part acc h hkind hfrozen => ?_⟩
  · rw [exec_copyComplete_done hk hrun hbusy hout hend hdone, finishCopy_number htlc hqueue]
  · rw [exec_copyComplete_done hk hrun hbusy hout hend hdone, finishCopy_queue htlc hqueue hq]
    rfl
  · obtain ⟨t, c, m, r, hsent, hcopy⟩ := signalCopy_request hreach hcheck hquad
    exact ⟨t, c, m, r, by rw [exec_copyComplete_signal hk hrun hbusy hout hend hab hsig, hsent, event], hcopy⟩
  · have hq' : (s.taken n).dev.queues.get? qi = some q := hq
    refine ⟨exec_copyQueueDoorbell he hfirst hqi hbody, ?_, fun hvalid hlive hdoor hset hext hpoison hroom hslots p hp hbusy => ?_⟩
    · rw [ringDoorbell_eq hq', serve_queues]
      exact Tab.get?_put_same ..
    · rw [ringDoorbell_eq hq']
      exact serve_accepts (s := (s.taken n).withDoor qi q (max q.door (leNat data))) (q := { q with door := max q.door (leNat data) })
        (Tab.get?_put_same ..) hvalid hlive hdoor hset hext hpoison hroom hslots hp (idle_eq_false hbusy)
  · intro qi u v c ends
    have hends {t : State} (ht : u.registerQueue off data (part.getD 0) = t) : ends t := ht ▸ exec_copyQueueRegistration h hkind hfrozen
    refine ⟨fun hoff => hends (registerQueue_reserved u data _ hoff), fun hoff hvalid hpart => hends (registerQueue_foreign hoff hvalid hpart),
      fun hoff hvalid x hx hpart => ⟨fun q hq => hends ?_, fun hq => hends ?_⟩, fun hoff hvalid q hq hnone => hends (registerQueue_clear hoff hvalid hq hnone)⟩
    · rw [← hpart]
      exact registerQueue_registers hoff hvalid hx hq
    · rw [← hpart]
      exact registerQueue_unsound hoff hvalid hx hq

end

end Sys2Proof
